-- ==== Sys2Proof/Word.lean ====
section
/-! DEFINITION. Words, bytes and sparse arrays: the types the model is written in. -/

namespace Sys2Proof

/-- A 64-bit word. -/
abbrev Word := BitVec 64
/-- A 32-bit word. -/
abbrev W32 := BitVec 32
/-- A byte. -/
abbrev Byte := BitVec 8

/-- A sparse array: pairs of index and value, indexes strictly rising; an index that is not listed holds the array's
default value. -/
abbrev SMap (α : Type) := List (Nat × α)

end Sys2Proof
end

