-- ==== Sys2Proof/Syntax.lean ====
section
/-! DEFINITION. The commands of the block (spec/opcode_table.json) and the plain data they carry.
A core instruction carries the core and the strand that issue it and the fields of its instruction word, reserved bits
included, by the layouts of R78, R80, R85, R88, R93 and R101. -/

namespace Sys2Proof

/-- A logical core (R22). -/
abbrev CoreId := Fin 576
/-- A strand of a core (R23). -/
abbrev StrandId := Fin 4
/-- A cluster (R22). -/
abbrev ClusterId := Fin 72
/-- A pseudo-channel of the fast tier (R174). -/
abbrev PchId := Fin 512
/-- An Evrok link (R247). -/
abbrev LinkId := Fin 12
/-- A host port (R388). -/
abbrev PortId := Fin 2
/-- A Mason (R316). -/
abbrev MasonId := Fin 4
/-- A slow-tier channel (R316). -/
abbrev ChanId := Fin 16

/-- The fields of layout S below the opcode (R80). -/
structure SWord where
  sd : BitVec 5 := 0
  sa : BitVec 5 := 0
  sb : BitVec 5 := 0
  i : Bool := false
  /-- reserved [39:32] -/
  rsv : BitVec 8 := 0
  imm : BitVec 32 := 0
deriving DecidableEq, Repr

/-- The shape word (R78). -/
structure Shape where
  fmt : BitVec 4 := 0
  /-- cols_m1 -/
  cols : BitVec 6 := 0
  /-- rows_m1 -/
  rows : BitVec 6 := 0
  /-- the reserved bits [63:20], [15:14] and [7:6] -/
  rsv : BitVec 48 := 0
deriving DecidableEq, Repr

/-- The fields of layout T (R85). -/
structure TWord where
  tt : BitVec 5 := 0
  sa : BitVec 5 := 0
  sb : BitVec 5 := 0
  /-- reserved [40:32] -/
  rsv : BitVec 9 := 0
  imm : BitVec 32 := 0
deriving DecidableEq, Repr

/-- The fields of awld (R88). -/
structure AwldWord where
  tw : BitVec 5 := 0
  target : BitVec 4 := 0
  vs : BitVec 8 := 0
  /-- reserved [46] and [37:0] -/
  rsv : BitVec 39 := 0
deriving DecidableEq, Repr

/-- The fields of amm (R88). -/
structure AmmWord where
  ta : BitVec 5 := 0
  target : BitVec 4 := 0
  zero : Bool := false
  vs : BitVec 8 := 0
  boff : BitVec 8 := 0
  rbase : BitVec 6 := 0
  /-- reserved [23:0] -/
  rsv : BitVec 24 := 0
deriving DecidableEq, Repr

/-- The fields of aflip (R88). -/
structure AflipWord where
  /-- bit 2a + h names half h of array Aa -/
  halves : BitVec 8 := 0
  /-- reserved [47:0] -/
  rsv : BitVec 48 := 0
deriving DecidableEq, Repr

/-- The fields of abrd (R88). -/
structure AbrdWord where
  vd : BitVec 8 := 0
  row : BitVec 8 := 0
  ofmt : BitVec 4 := 0
  clr : Bool := false
  nfp : Bool := false
  e : BitVec 8 := 0
  group : BitVec 6 := 0
  /-- reserved [19:0] -/
  rsv : BitVec 20 := 0
deriving DecidableEq, Repr

/-- The fields of layout V (R93). -/
structure VWord where
  vd : BitVec 8 := 0
  va : BitVec 8 := 0
  vb : BitVec 8 := 0
  vc : BitVec 8 := 0
  f : BitVec 4 := 0
  ext : BitVec 20 := 0
deriving DecidableEq, Repr

/-- The fields of layout VM (R93). -/
structure VMWord where
  vv : BitVec 8 := 0
  sa : BitVec 5 := 0
  /-- reserved [42:32] -/
  rsv : BitVec 11 := 0
  imm : BitVec 32 := 0
deriving DecidableEq, Repr

/-- The fields of layout M (R101). -/
structure MWord where
  sa : BitVec 5 := 0
  sb : BitVec 5 := 0
  sc : BitVec 5 := 0
  sd : BitVec 5 := 0
  atype : BitVec 4 := 0
  sfmt : BitVec 4 := 0
  e : BitVec 8 := 0
  mc : Bool := false
  /-- reserved [18] -/
  rsv : Bool := false
  ct : BitVec 18 := 0
deriving DecidableEq, Repr

/-- By which way a register is reached (R58, R391, R393, R465). -/
inductive RegPath where
  /-- BAR0 of a host port -/
  | bar0 (p : PortId)
  /-- BAR4 of a host port -/
  | bar4 (p : PortId)
  /-- MCTP, from the board -/
  | mctp
  /-- a strand's `put` or `get` -/
  | strand
  /-- a configuration request to the function of a host port -/
  | cfg (p : PortId)
deriving DecidableEq, Repr

/-- Why a link goes DOWN (R255). -/
inductive DownCause where
  /-- 16 consecutive replays without the ack advancing -/
  | replays
  /-- every lane has lost lock for 10 µs -/
  | lossOfLock
  /-- the cage has lost its cable -/
  | cableLoss
deriving DecidableEq, Repr

/-- What a link training found (R256, R257). -/
structure TrainResult where
  /-- a partner's signal was found -/
  signal : Bool := true
  /-- the cable has a CMIS memory -/
  memory : Bool := true
  /-- the medium that memory names: active copper, optical, or passive copper -/
  active : Bool := false
  optical : Bool := false
  /-- insertion loss at 53.125 GHz in 0.25 dB -/
  loss : Nat := 0
  /-- insertion loss at 26.5625 GHz in 0.25 dB -/
  lossHalf : Nat := 0
  /-- lanes that train at 212.5 Gb/s -/
  lanesFull : BitVec 8 := 255
  /-- lanes that train at 106.25 Gb/s -/
  lanesHalf : BitVec 8 := 255
  /-- measured round trip in ps, less the module's fixed internal delay -/
  roundTripPs : Nat := 0
  /-- CRC-16 of the cable's serial number -/
  serialTag : BitVec 16 := 0
  /-- the partner's capability word -/
  partnerCap : BitVec 64 := 0x1103070880040000
deriving DecidableEq, Repr

/-- What a start-up step found (R430). -/
structure StepResult where
  /-- step 3: the power-up pattern of the PUF (R429) -/
  puf : List (BitVec 8) := []
  /-- step 4: core positions that failed the test, as (die, grid position) -/
  badCores : List (Nat × Nat) := []
  /-- step 5: PCh that did not train -/
  badPch : List Nat := []
  /-- step 5: slow-tier channels that did not train -/
  badChan : List Nat := []
deriving DecidableEq, Repr

/-- The unit of an SRAM error (R354). -/
inductive SramUnit where
  | core (c : CoreId)
  | cluster (c : ClusterId)
deriving DecidableEq, Repr

/-- How a second read of an uncorrected word ends (R345, R355). -/
inductive Reread where
  | clean
  | corrected
  | uncorrected
deriving DecidableEq, Repr

/-- The SRAM in which an uncorrected word was met (R354). -/
inductive SramPlace where
  | scratchpad
  | clusterMemory
  | vectorRegisters
  | bank
deriving DecidableEq, Repr

/-- A PLDM request (R464). -/
inductive PldmReq where
  /-- a temperature point's reading -/
  | temperature (i : Fin 128)
  /-- a rail's voltage and current -/
  | rail (r : Fin 22)
  /-- the input's voltage and power -/
  | input
  /-- PLDM Base: a command and its data (DSP0240) -/
  | base (command : BitVec 8) (data : List (BitVec 8))
  /-- firmware update: open a session for a target -/
  | updBegin (target : BitVec 4)
  /-- firmware update: place data in the staging buffer and commit it as a chunk -/
  | updChunk (chunk : BitVec 8) (data : List (BitVec 8))
  /-- firmware update: verify -/
  | updVerify
  /-- firmware update: abort -/
  | updAbort
deriving DecidableEq, Repr

/-- A packet: the header of R209 and its payload. -/
structure Packet where
  /-- generation (07 R209; 4). -/
  gen : BitVec 4 := 1
  /-- packet kind (07 R210; 4). -/
  op : BitVec 4 := 0
  /-- accumulate type (07 R209; 4). -/
  atype : BitVec 4 := 0
  /-- source format (07 R209; 4). -/
  sfmt : BitVec 4 := 0
  /-- bushel exponent (07 R209; 8). -/
  e : BitVec 8 := 0
  /-- payload bytes, or bytes requested (07 R209; 9). -/
  len : BitVec 9 := 0
  /-- last packet of the final run, signalled (07 R209; 1). -/
  sig : Bool := false
  /-- last packet of a run (07 R209; 1). -/
  last : Bool := false
  /-- branch of a multicast (07 R209; 1). -/
  mcb : Bool := false
  /-- latency-critical (07 R209; 1). -/
  cls : Bool := false
  /-- OK, PEER_ABSENT, BROKEN, FULL (07 R209; 3). -/
  status : BitVec 3 := 0
  /-- packets of the run (07 R209; 14). -/
  count : BitVec 14 := 0
  /-- address acted on (07 R209; 64). -/
  dst : Word := 0
  /-- issuing module (07 R209; 12). -/
  srcModule : BitVec 12 := 0
  /-- issuing unit (07 R209; 10). -/
  srcUnit : BitVec 10 := 0
  /-- issuer's slot (07 R209; 6). -/
  tag : BitVec 6 := 0
  /-- by op (07 R209; 64). -/
  aux : Word := 0
  /-- the reserved bits of words 0 and 2 (07 R209, R8; 46). -/
  rsv : BitVec 46 := 0
  /-- payload (07 R207; 0–256 B). -/
  payload : List Byte := []
deriving DecidableEq, Repr

/-- A control frame of the chain (R270). -/
structure Frame where
  /-- type (08 R270; 4). -/
  ty : BitVec 4 := 0
  /-- generation (08 R270; 4). -/
  gen : BitVec 4 := 1
  /-- sequence number (08 R270; 8). -/
  seq : BitVec 8 := 0
  /-- body (08 R270; 32). -/
  body : W32 := 0
deriving DecidableEq, Repr

/-- A command as taken from a work list (R399). -/
structure Cmd where
  /-- port (12 R396; 1). -/
  port : Nat := 0
  /-- work list (12 R396; 3). -/
  list : Nat := 0
  /-- command number within its list (12 R419; 64). -/
  index : Word := 0
  /-- opcode (12 R399; 8). -/
  opcode : BitVec 8 := 0
  /-- sub code (12 R399; 4). -/
  sub : BitVec 4 := 0
  /-- tag (12 R399; 32). -/
  tag : W32 := 0
  /-- lift number (12 R399; 64). -/
  lift : Word := 0
  /-- course number or NOW (12 R399; 64). -/
  course : Word := 0
  /-- completion tally (12 R399; 64). -/
  done : Word := 0
  /-- operand (12 R399; 64). -/
  a : Word := 0
  /-- operand (12 R399; 64). -/
  b : Word := 0
  /-- operand (12 R399; 64). -/
  c : Word := 0
  /-- operand (12 R399; 64). -/
  d : Word := 0
deriving DecidableEq, Repr

/-- A write confirmation on its way (R212). -/
structure Confirm where
  /-- issuing module (07 R212; 12). -/
  module : BitVec 12 := 0
  /-- issuing unit (07 R212; 10). -/
  unit : BitVec 10 := 0
  /-- issuing slot (07 R212; 6). -/
  tag : BitVec 6 := 0
  /-- address of the packet that has been written (07 R212; 64). -/
  dst : Word := 0
deriving DecidableEq, Repr

/-- A home's reply to a karr (R224). -/
structure KReply where
  /-- arriving core (07 R224; 10). -/
  core : Nat := 0
  /-- arriving strand (07 R224; 6). -/
  strand : Nat := 0
  /-- round written into sd (07 R224; 64). -/
  round : Word := 0
  /-- OK, PEER_ABSENT or BROKEN (07 R231; 3). -/
  status : BitVec 3 := 0
deriving DecidableEq, Repr

/-- The commands: one constructor per row of spec/opcode_table.json. The comment before each names its row. -/
inductive Instr where
  /-- NOP (R81): Scalar no-operation instruction; it has no effect. -/
  | nop (c : CoreId) (t : StrandId) (w : SWord)
  /-- ADD (R81): Scalar wrapping addition of Sa and Sb or the immediate into Sd. -/
  | add (c : CoreId) (t : StrandId) (w : SWord)
  /-- SUB (R81): Scalar wrapping subtraction into Sd. -/
  | sub (c : CoreId) (t : StrandId) (w : SWord)
  /-- MUL (R81): Scalar multiplication keeping the low 64 bits. -/
  | mul (c : CoreId) (t : StrandId) (w : SWord)
  /-- DIV (R81): Signed 64-bit division rounded towards zero, with defined results for zero divisors and overflow. -/
  | div (c : CoreId) (t : StrandId) (w : SWord)
  /-- DIVU (R81): Unsigned 64-bit division; division by zero gives all ones. -/
  | divu (c : CoreId) (t : StrandId) (w : SWord)
  /-- AND (R81): Scalar bitwise AND. -/
  | andI (c : CoreId) (t : StrandId) (w : SWord)
  /-- OR (R81): Scalar bitwise OR. -/
  | orI (c : CoreId) (t : StrandId) (w : SWord)
  /-- XOR (R81): Scalar bitwise XOR. -/
  | xorI (c : CoreId) (t : StrandId) (w : SWord)
  /-- SHL (R81): Shift left by b[5:0]. -/
  | shl (c : CoreId) (t : StrandId) (w : SWord)
  /-- SHR (R81): Logical shift right by b[5:0]. -/
  | shr (c : CoreId) (t : StrandId) (w : SWord)
  /-- SRA (R81): Arithmetic shift right by b[5:0]. -/
  | sra (c : CoreId) (t : StrandId) (w : SWord)
  /-- SLT (R81): Set Sd to 1 when a < b, compared signed. -/
  | slt (c : CoreId) (t : StrandId) (w : SWord)
  /-- SLTU (R81): Set Sd to 1 when a < b, compared unsigned. -/
  | sltu (c : CoreId) (t : StrandId) (w : SWord)
  /-- MIN (R81): Signed minimum of a and b. -/
  | minI (c : CoreId) (t : StrandId) (w : SWord)
  /-- MAX (R81): Signed maximum of a and b. -/
  | maxI (c : CoreId) (t : StrandId) (w : SWord)
  /-- LUI (R81): Sets the upper 32 bits of Sd from the immediate and keeps the low 32 bits of Sa. -/
  | lui (c : CoreId) (t : StrandId) (w : SWord)
  /-- LD (R81): Loads 8 bytes from the own scratchpad into Sd. -/
  | ld (c : CoreId) (t : StrandId) (w : SWord)
  /-- ST (R81): Stores 8 bytes of Sb into the own scratchpad, whole or not at all. -/
  | st (c : CoreId) (t : StrandId) (w : SWord)
  /-- BEQ (R82): Branches when a equals b. -/
  | beq (c : CoreId) (t : StrandId) (w : SWord)
  /-- BNE (R82): Branches when a differs from b. -/
  | bne (c : CoreId) (t : StrandId) (w : SWord)
  /-- BLT (R82): Branches when a < b, compared signed. -/
  | blt (c : CoreId) (t : StrandId) (w : SWord)
  /-- BGE (R82): Branches when a >= b, compared signed. -/
  | bge (c : CoreId) (t : StrandId) (w : SWord)
  /-- BLTU (R82): Branches when a < b, compared unsigned. -/
  | bltu (c : CoreId) (t : StrandId) (w : SWord)
  /-- JAL (R82): Writes the return address into Sd and jumps relative to its own address. -/
  | jal (c : CoreId) (t : StrandId) (w : SWord)
  /-- JR (R82): Writes the return address into Sd and jumps to a + imm. -/
  | jr (c : CoreId) (t : StrandId) (w : SWord)
  /-- SRD (R83): Reads a special value such as the core number, course, misfit count or rstat; reading rstat clears it. -/
  | srd (c : CoreId) (t : StrandId) (w : SWord)
  /-- CEND (R84): Ends the strand's work for the course and saves the following address as its instruction pointer. -/
  | cend (c : CoreId) (t : StrandId) (w : SWord)
  /-- VADD (R94): Lane-wise vector addition in FP32 or INT32. -/
  | vadd (c : CoreId) (t : StrandId) (w : VWord)
  /-- VSUB (R94): Lane-wise vector subtraction. -/
  | vsub (c : CoreId) (t : StrandId) (w : VWord)
  /-- VMUL (R94): Lane-wise vector multiplication. -/
  | vmul (c : CoreId) (t : StrandId) (w : VWord)
  /-- VFMA (R94): Lane-wise FP32 fused multiply-add, rounded once. -/
  | vfma (c : CoreId) (t : StrandId) (w : VWord)
  /-- VMAX (R94): Lane-wise maximum, with +0 ranked above -0. -/
  | vmax (c : CoreId) (t : StrandId) (w : VWord)
  /-- VMIN (R94): Lane-wise minimum. -/
  | vmin (c : CoreId) (t : StrandId) (w : VWord)
  /-- VABS (R94): Lane-wise absolute value. -/
  | vabs (c : CoreId) (t : StrandId) (w : VWord)
  /-- VBCAST (R94): Broadcasts the low 32 bits of a scalar register to every lane. -/
  | vbcast (c : CoreId) (t : StrandId) (w : VWord)
  /-- VLANE (R94): Moves one lane of a vector register into a scalar register. -/
  | vlane (c : CoreId) (t : StrandId) (w : VWord)
  /-- VMOV (R94): Copies a vector register. -/
  | vmov (c : CoreId) (t : StrandId) (w : VWord)
  /-- VEXP (R95): Lane-wise e to the power x, by the fixed algorithm. -/
  | vexp (c : CoreId) (t : StrandId) (w : VWord)
  /-- VRCP (R95): Lane-wise reciprocal, by the fixed algorithm. -/
  | vrcp (c : CoreId) (t : StrandId) (w : VWord)
  /-- VRSQRT (R95): Lane-wise reciprocal square root, by the fixed algorithm. -/
  | vrsqrt (c : CoreId) (t : StrandId) (w : VWord)
  /-- VCVT (R96): Converts vector elements between formats with scaling, saturation and range counting. -/
  | vcvt (c : CoreId) (t : StrandId) (w : VWord)
  /-- RRED (R97): Reduces lanes through a fixed tree into one lane of vd. -/
  | rred (c : CoreId) (t : StrandId) (w : VWord)
  /-- RRED2 (R98): Forms two dot-product sums in one pass into vd and vd+1. -/
  | rred2 (c : CoreId) (t : StrandId) (w : VWord)
  /-- VLD (R99): Loads a vector register from the scratchpad. -/
  | vld (c : CoreId) (t : StrandId) (w : VMWord)
  /-- VST (R99): Stores a vector register to the scratchpad. -/
  | vst (c : CoreId) (t : StrandId) (w : VMWord)
  /-- TLOAD (R86): Loads a tile from the scratchpad through a shape. -/
  | tload (c : CoreId) (t : StrandId) (w : TWord) (sh : Shape)
  /-- TLOAD_COMPLETE (R86): The last row of a tload is written and the tile's fill mark is set. -/
  | tloadComplete (c : CoreId) (tile : BitVec 5)
  /-- TSTORE (R87): Issues the store of a tile's shaped rows to the scratchpad. -/
  | tstore (c : CoreId) (t : StrandId) (w : TWord) (sh : Shape)
  /-- TSTORE_COMPLETE (R87): The last row of a tstore is written and the instruction retires. -/
  | tstoreComplete (c : CoreId) (t : StrandId)
  /-- TREL (R74): Releases the tiles that the mask names and empties their fill marks. -/
  | trel (c : CoreId) (t : StrandId) (w : SWord)
  /-- AWLD (R90): Loads a weight block with its scales into the shadow latches of an array or a half. -/
  | awld (c : CoreId) (t : StrandId) (w : AwldWord) (sh : Shape)
  /-- AFLIP (R29): Issues a swap of the shadow and active latches of the named halves. -/
  | aflip (c : CoreId) (t : StrandId) (w : AflipWord)
  /-- AFLIP_TAKES_EFFECT (R29): The latch swap applies at the array's next row boundary. -/
  | aflipTakesEffect (c : CoreId) (arr : Fin 4)
  /-- AMM (R91): Enqueues an array multiply of activation rows against the active weights. -/
  | amm (c : CoreId) (t : StrandId) (w : AmmWord) (sh : Shape)
  /-- AMM_START (R41): A queued amm starts streaming once its arrays are free. -/
  | ammStart (c : CoreId) (pos : Nat)
  /-- AMM_ROW_WRITTEN (R41): A streamed row's column results are added into, or written to, the accumulation bank. -/
  | ammRowWritten (c : CoreId) (pos : Nat)
  /-- ABRD (R92): Issues a bank-row readout into the bank readout path. -/
  | abrd (c : CoreId) (t : StrandId) (w : AbrdWord)
  /-- ABRD_START (R40): A queued abrd reads its bank row once the earlier amm writes are done, converting and optionally clearing it. -/
  | abrdStart (c : CoreId)
  /-- CPY (R188): Reads a copy descriptor and starts a copy in a copy slot. -/
  | cpy (c : CoreId) (t : StrandId) (w : MWord)
  /-- COPY_COMPLETE (R197): Every destination, scale, error-memory and cleared byte of a copy is written and its tally advances. -/
  | copyComplete (c : CoreId) (slot : Fin 16)
  /-- PUT (R102): Starts a remote write to one or many targets. -/
  | putI (c : CoreId) (t : StrandId) (w : MWord)
  /-- PUT_S (R102): Starts a remote write that signals a tally at each target. -/
  | putSI (c : CoreId) (t : StrandId) (w : MWord)
  /-- GET (R102): Starts a remote read into the own scratchpad. -/
  | getI (c : CoreId) (t : StrandId) (w : MWord)
  /-- ACC (R104): Starts a remote accumulation of the given type. -/
  | accI (c : CoreId) (t : StrandId) (w : MWord)
  /-- ACC_S (R104): Starts a remote accumulation that signals a tally at each target. -/
  | accSI (c : CoreId) (t : StrandId) (w : MWord)
  /-- TADD (R107): Adds an amount to a tally. -/
  | tadd (c : CoreId) (t : StrandId) (w : MWord)
  /-- TWAIT (R108): Blocks the strand until a tally reaches a value. -/
  | twait (c : CoreId) (t : StrandId) (w : MWord)
  /-- KARR (R109): Records the core's arrival at a keystone. -/
  | karr (c : CoreId) (t : StrandId) (w : MWord)
  /-- KWAIT (R226): Blocks until a keystone round has closed. -/
  | kwait (c : CoreId) (t : StrandId) (w : MWord)
  /-- RESERVED_OPCODE (R110): A reserved opcode executes as a nop and counts as a misfit. -/
  | reservedOpcode (c : CoreId) (t : StrandId) (op : BitVec 8) (rest : BitVec 56)
  /-- STRAND_WAKE (R217): A locally watched tally reaches a waiting strand's value and the strand becomes ready. -/
  | strandWake (c : CoreId) (t : StrandId)
  /-- LATCH_PARITY_ERROR (R42): A weight-latch parity error suppresses bank writes and starts a retry. -/
  | latchParityError (c : CoreId) (arr : Fin 4) (half : Fin 2)
  /-- LATCH_RETRY_DONE (R43): The latch reload and re-stream finish and the fault counts advance. -/
  | latchRetryDone (c : CoreId) (pos : Nat)
  /-- FILLER_WINDOW_EXPIRY (R46): No amm has started 48 cc after the last row, so filler density begins to ramp down. -/
  | fillerWindowExpiry (c : CoreId) (arr : Fin 4)
  /-- FILLER_RAMP_STEP (R46): Every 8 cc of the ramp, filler density falls by one eighth until the array is idle. -/
  | fillerRampStep (c : CoreId) (arr : Fin 4)
  /-- CORE_DONE (R51): The core's course work is finished and it reports done, recording an overrun if late. -/
  | coreDone (c : CoreId)
  /-- STRANDS_RELEASED (R52): Save and restore are complete and the strands are released for the course. -/
  | strandsReleased (c : CoreId)
  /-- READY_UPDATE (R277): A participant's own ready is driven once its work is done and the chain time condition holds. -/
  | readyUpdate
  /-- EDGE_MARK_SEND (R278): The head sends an EDGE mark once RDY, the spacing and its own ready all hold. -/
  | edgeMarkSend
  /-- EDGE_MARK_RECEIVE (R279): A module receives an EDGE mark and derives Ts from its cumulative delay. -/
  | edgeMarkReceive (arrivalPs : Nat)
  /-- EDGE_APPLY (R279): A module applies the course edge at its computed time: face flip, ledger snapshot and core edge handling. -/
  | edgeApply
  /-- EDGE_ECHO_MEASURE (R280): Echoes timed on the EDGE pair after a mark measure the hop delay. -/
  | edgeEchoMeasure (hopPs : W32)
  /-- REDUCTION_BLOCK_LOADED (R302): The header and bucket entries of a reduction block are read into the fronts and adders, and waiting fragments proceed. -/
  | reductionBlockLoaded
  /-- PUT_PACKET (R212): A PUT packet is written at its destination unit. -/
  | putPacket (p : Packet)
  /-- ACC_PACKET (R295): An ACC packet enters a mortar front or memory and is split into fragments. -/
  | accPacket (p : Packet)
  /-- GET_REQ (R207): A source memory answers a read request. -/
  | getReq (p : Packet)
  /-- GET_RESP (R213): Returned read data is written at the issuer. -/
  | getResp (p : Packet)
  /-- TADD_PACKET (R216): A tally home applies an addition, checks its wait records and returns an ACK. -/
  | taddPacket (p : Packet)
  /-- ACK_PACKET (R213): The issuing engine counts an ACK and advances ct when all runs of all targets are acknowledged. -/
  | ackPacket (p : Packet)
  /-- WAIT_REG (R217): A tally home registers a wait or answers it at once with WAKE or FULL. -/
  | waitReg (p : Packet)
  /-- WAKE (R217): A waiting engine receives a WAKE and completes the wait with its status. -/
  | wake (p : Packet)
  /-- WAIT_REG_RESEND (R218): After a FULL answer, the WAIT_REG is re-sent every 512 cc. -/
  | waitRegResend (pos : Nat)
  /-- WRITE_CONFIRM (R212): A memory confirms a write to a landing agent. -/
  | writeConfirm (k : Confirm)
  /-- K_ARRIVE (R224): A keystone home admits an arrival into the current round, the next round, a held entry or discard. -/
  | kArrive (p : Packet)
  /-- K_WAIT (R226): A keystone home registers or answers a round wait. -/
  | kWait (p : Packet)
  /-- K_RELEASE (R225): An engine records a round close and releases its waiting strands. -/
  | kRelease (p : Packet)
  /-- K_CHAIN (R227): The chain home or a local home takes a chain keystone round message. -/
  | kChain (p : Packet)
  /-- KS_CASCADE_CLOSE (R225): A full new current round closes in the next plc. -/
  | ksCascadeClose (cl : ClusterId) (slot : Fin 16)
  /-- KS_SLOT_BIND (R222): A keystone slot frees and binds a waiting keystone, loading its object. -/
  | ksSlotBind (cl : ClusterId)
  /-- MC_HOLD_TIMEOUT (R229): A multicast branch held 100 µs without sending is counted. -/
  | mcHoldTimeout (c : CoreId) (slot : Fin 32) (branch : Nat)
  /-- PCH_SERVE (R180): A pseudo-channel serves its oldest latency-critical or bulk request in a service slot. -/
  | pchServe (p : PchId)
  /-- BULK_PROMOTE (R180): A bulk request reaches bulk_threshold in age and is promoted. -/
  | bulkPromote (p : PchId)
  /-- FRAGMENT_ADD (R296): A mortar adder applies a fragment, joining split grain blocks, and updates poison and counts. -/
  | fragmentAdd (adder : Fin 16)
  /-- LINK_FORWARD (R266): A quoin die forwards a packet for another module to a first hop, or discards it at 32 hops. -/
  | linkForward (pos : Nat)
  /-- ROUTE_WAIT_EXPIRY (R267): A packet that waits 100 ms without an UP route completes with PEER_ABSENT. -/
  | routeWaitExpiry (pos : Nat)
  /-- DATA_FLIT (R254): A receiver checks a DATA flit's CRCs and sequence, accepts or discards it, and takes acks and credits. -/
  | dataFlit (l : LinkId) (flit : List Byte)
  /-- LINK_ACK_TIMER (R254): An ack is sent at least every 32 flits or 100 ns. -/
  | linkAckTimer (l : LinkId)
  /-- REPLAY_TIMEOUT (R254): No ack advance for 20 µs makes the sender replay from the oldest unacknowledged flit. -/
  | replayTimeout (l : LinkId)
  /-- LINK_DOWN (R255): A link goes DOWN on 16 failed replays, a 10 µs loss of lock on all lanes, or cable loss, ending its unacknowledged packets. -/
  | linkDown (l : LinkId) (why : DownCause)
  /-- CAP (R258): A CAP message is taken and generation, rate and features are negotiated. -/
  | capMsg (l : LinkId) (arg : BitVec 56)
  /-- ADDRESS (R259): A partner's chain address is recorded and loopback is checked. -/
  | addressMsg (l : LinkId) (arg : BitVec 56)
  /-- RETIRE (R260): A RETIRE message retires a lane in both directions. -/
  | retireLane (l : LinkId) (arg : BitVec 56)
  /-- WIDTH (R261): A WIDTH message moves the link to a new width. -/
  | widthMsg (l : LinkId) (arg : BitVec 56)
  /-- RESET_NOTICE (R255): A partner announces a reset, so the link goes DOWN and retrains. -/
  | resetNotice (l : LinkId)
  /-- WIDTH_CHANGE_DONE (R261): A width change completes and traffic resumes from ack + 1. -/
  | widthChangeDone (l : LinkId)
  /-- LANE_WINDOW_EXPIRY (R260): A lane error window ends and its count restarts. -/
  | laneWindowExpiry (l : LinkId) (lane : Fin 8)
  /-- LANE_ERR_LIMIT (R260): A lane's CRC failures reach lane_err_limit in one window and the lane is retired. -/
  | laneErrLimit (l : LinkId) (lane : Fin 8)
  /-- LANE_LOCK_LOSS (R260): A lane loses lock for 100 µs while others keep it and is retired. -/
  | laneLockLoss (l : LinkId) (lane : Fin 8)
  /-- CABLE_INSERT (R256): Cage presence is detected and link training starts. -/
  | cableInsert (cage : Fin 6)
  /-- CABLE_REMOVE (R474): A cable is removed and its links go DOWN with cause CABLE_REMOVED. -/
  | cableRemove (cage : Fin 6)
  /-- LINK_TRAINING_DONE (R256): Training ends with the link UP, FAILED, GEN_MISMATCH or DOWN NO_SIGNAL. -/
  | linkTrainingDone (l : LinkId) (r : TrainResult)
  /-- LINK_RETRAIN_TIMER (R256): A NO_SIGNAL link with its cable present trains again every 1 s. -/
  | linkRetrainTimer (l : LinkId)
  /-- BOND_STANDBY_JOIN (R263): A STANDBY link joins a bond after a member goes DOWN. -/
  | bondStandbyJoin (l : LinkId)
  /-- CAGE_OVERCURRENT (R475): A cable draws over 25 W for 1 ms, so its cage supply is cut and its links go DOWN. -/
  | cageOvercurrent (cage : Fin 6)
  /-- ROUTE_INSTALL (R265): The Plumb installs a recomputed route table in both quoin dies. -/
  | routeInstall
  /-- ENUM (R271): A module takes the address in an ENUM frame and repeats it incremented. -/
  | enumFrame (f : Frame) (crcOk : Bool)
  /-- ENUM_DONE (R271): The head learns that enumeration has ended. -/
  | enumDone (f : Frame) (crcOk : Bool)
  /-- DELAY (R280): A module adds its hop delay to a DELAY frame and keeps the sum. -/
  | delayFrame (f : Frame) (crcOk : Bool)
  /-- DELAY_DONE (R280): The head sets a new edge delay D and broadcasts COMP when needed. -/
  | delayDone (f : Frame) (crcOk : Bool)
  /-- DELAY_PASS_TIMER (R280): The head starts a DELAY pass every 100 ms. -/
  | delayPassTimer
  /-- COMP (R280): A module records a new D, to adopt at the first mark 5 ms later. -/
  | compFrame (f : Frame) (crcOk : Bool)
  /-- JOIN_REQ (R273): The head grants an address to a late joiner and broadcasts JOINED. -/
  | joinReq (f : Frame) (crcOk : Bool)
  /-- JOIN_GRANT (R273): A joining module takes its granted address. -/
  | joinGrant (f : Frame) (crcOk : Bool)
  /-- JOINED (R273): Modules learn that an address has joined, ending its absence. -/
  | joinedFrame (f : Frame) (crcOk : Bool)
  /-- LEAVE (R274): The head receives a LEAVE and broadcasts ABSENT for the address. -/
  | leaveFrame (f : Frame) (crcOk : Bool)
  /-- ABSENT (R268): Modules mark an address absent; participants of its job enter PEER_LOST. -/
  | absentFrame (f : Frame) (crcOk : Bool)
  /-- TOPO (R270): A link-state report reaches the head and is repeated down for route computation. -/
  | topoFrame (f : Frame) (crcOk : Bool)
  /-- REENUM (R272): Every module drops its address and the chain enumerates again. -/
  | reenumFrame (f : Frame) (crcOk : Bool)
  /-- CENSUS (R269): Modules answer a census with HERE. -/
  | censusFrame (f : Frame) (crcOk : Bool)
  /-- HERE (R269): A new head learns which addresses are still held. -/
  | hereFrame (f : Frame) (crcOk : Bool)
  /-- CHAIN_ACK (R270): The head acknowledges an upstream frame. -/
  | chainAck (f : Frame) (crcOk : Bool)
  /-- FRAME_RESEND (R270): An unacknowledged upstream frame is repeated every 1 ms, up to 16 times. -/
  | frameResend (ty : BitVec 4)
  /-- REF_LOCK (R435): The chain port locks to REF and the reference switches hitlessly. -/
  | refLock
  /-- REF_LOSS (R269): REF is absent for 10 µs, so the module holds on its local oscillator, becomes head and requests a census. -/
  | refLoss
  /-- SPLICE (R276): A listening port opens its bypass within a splice window. -/
  | splice
  /-- HST_TADD_WRITE (R394): A 16-byte host write to HST_TADD issues a tally addition. -/
  | hstTaddWrite (p : PortId) (bytes : List Byte)
  /-- HST_WL_WRITE (R418): A host writes a work list's base, size, tally or enable. -/
  | hstWlWrite (p : PortId) (list : Fin 8) (off : Nat) (bytes : List Byte)
  /-- HST_NOTIFY_WRITE (R413): A non-zero value write arms a notifier and registers a wait. -/
  | hstNotifyWrite (p : PortId) (v : Fin 64) (off : Nat) (bytes : List Byte)
  /-- HST_AP_BASE_WRITE (R417): A host moves the BAR2 aperture base, or the write is ignored when invalid. -/
  | hstApBaseWrite (p : PortId) (off : Nat) (bytes : List Byte)
  /-- FT_RANGE_CLEAR_WRITE (R142): Clears the counts and peaks of the range counter groups selected. -/
  | ftRangeClearWrite (path : RegPath) (off : Nat) (bytes : List Byte)
  /-- LATCH_FAULT_LOST_CLEAR (R62): A W1C write clears the lost bit of CORE_LATCH_FAULT unless set in the same cycle. -/
  | latchFaultLostClear (c : CoreId) (value : Word) (setNow : Bool)
  /-- READ_CLEAR (R6): A read of an RC field returns its value and clears it. -/
  | readClear (path : RegPath) (off size : Nat)
  /-- REGISTER_WRITE (R9): A write to a register without a row of its own sets RW fields or is ignored and counted. -/
  | registerWrite (path : RegPath) (off : Nat) (bytes : List Byte)
  /-- BAR2_READ (R392): A host reads the fast tier or face window through BAR2 as bulk nofill. -/
  | bar2Read (p : PortId) (off size : Nat)
  /-- BAR2_WRITE (R392): A host writes the fast tier through BAR2; window writes fall under R162. -/
  | bar2Write (p : PortId) (off : Nat) (bytes : List Byte)
  /-- COMMAND_FETCH (R397): The command engine takes the next doorbelled command of a list in rotation and checks it. -/
  | commandFetch
  /-- COMMAND_ACTION_START (R401): A taken command's action starts at its course edge after the lift check. -/
  | commandActionStart (pos : Nat)
  /-- RUN (R406): A run command schedules courses, programs, the face window and the reduction block. -/
  | run (k : Cmd)
  /-- UPDATE (R322): An update command copies checked descriptors into the Mason group tables. -/
  | update (k : Cmd)
  /-- LIFT_CLOSE (R16): A lift_close command supplies the verdict policy and the face-arrival condition. -/
  | liftClose (k : Cmd)
  /-- PIN (R337): Adds a pin on the closed lift or the one before. -/
  | pin (k : Cmd)
  /-- UNPIN (R337): Removes one pin from a lift. -/
  | unpin (k : Cmd)
  /-- REWIND_STOP (R367): STOP brings the module to a quiet, clean state on lift R. -/
  | rewindStop (k : Cmd)
  /-- STOP_QUIESCED (R367): All issued operations have ended, so STOP runs steps 3 to 9 and completes. -/
  | stopQuiesced
  /-- RW_QUIESCE_EXPIRY (R367): rw_quiesce expires during STOP and a compute reset is performed. -/
  | rwQuiesceExpiry
  /-- REWIND_RESUME (R369): RESUME sets the face registers, clears the extents and re-faces every group. -/
  | rewindResume (k : Cmd)
  /-- RESUME_ARRIVAL_REACHED (R369): The arrival tally is reached, so the module enters SET and RESUME completes. -/
  | resumeArrivalReached
  /-- DRAIN (R343): Moves slow-tier extents of a pinned lift to host memory. -/
  | drain (k : Cmd)
  /-- DRAIN_COMPLETE (R343): The last drained byte reaches host memory and the pin is released. -/
  | drainComplete
  /-- RESTORE_STAGE (R343): Writes host extents into the slow tier without committing. -/
  | restoreStage (k : Cmd)
  /-- RESTORE_COMMIT (R343): Restores from hosts and commits lift L_r on completion. -/
  | restoreCommit (k : Cmd)
  /-- RESTORE_PARTNER (R344): Rebuilds a module from its partner's mirror and a face source. -/
  | restorePartner (k : Cmd)
  /-- RESTORE_COMPLETE (R344): A restore finishes and, when committing, sets the lift state. -/
  | restoreComplete (data : List Byte)
  /-- HOST_ACCESS_TIMEOUT (R410): A drain or restore host access times out after 50 ms and ends with HOST_ERROR. -/
  | hostAccessTimeout (isDrain : Bool)
  /-- MIRROR_OUT (R341): Places a mirror block in force and mirrors the closed lift to the partner. -/
  | mirrorOut (k : Cmd)
  /-- MIRROR_RETURN (R400): Sends a held mirror slot back as chunks to a restoring module. -/
  | mirrorReturn (k : Cmd)
  /-- MIRROR_CHUNK_SEND (R339): A Mason sends the next image chunk once the free tally allows. -/
  | mirrorChunkSend
  /-- MIRROR_CHUNK_TAKE (R340): A receiving Mason takes a chunk from its ring into the mirror slot and frees the buffer. -/
  | mirrorChunkTake
  /-- RETIRE_PCH (R355): The retire command retires a named pseudo-channel. -/
  | retirePch (k : Cmd)
  /-- SUSPECT_REPLAY (R376): Holds the module and replays each stuck context alone. -/
  | suspectReplay (k : Cmd)
  /-- SUSPECT_DONE (R377): A replayed suspect finishes or hits its limit, its outcome is recorded and the next one starts. -/
  | suspectDone
  /-- DUMP (R379): The dump command captures a crash dump. -/
  | dump (k : Cmd)
  /-- SHED_ACK (R451): Acknowledges the deepest shedding step seen. -/
  | shedAck (k : Cmd)
  /-- RE_ENUMERATE (R272): Sends REENUM to the head so the chain enumerates again. -/
  | reEnumerate (k : Cmd)
  /-- GROUP_START (R325): A Mason starts a group once the lift_close, bucket, scale, mirror and pin conditions hold. -/
  | groupStart (m : MasonId)
  /-- RULE_PASS_END (R326): A group's rule pass or carry ends, so the next group may start. -/
  | rulePassEnd (m : MasonId)
  /-- TRUST_PASS_START (R328): For rule T, the trust factor is formed and the trust pass begins. -/
  | trustPassStart (m : MasonId)
  /-- FACE_PASS_START (R326): The own-module branch has landed, so the new face halves are read back into the face plane. -/
  | facePassStart (m : MasonId)
  /-- LIFT_CLOSE_COMMIT (R16): All close conditions hold, so the lift closes, the headers are written, the ledgers reset and the close tally advances. -/
  | liftCloseCommit
  /-- LIFT_DISCARD (R20): Under SKIP_STEP with a dirty verdict the open lift is discarded and the close tally advances. -/
  | liftDiscard
  /-- SLOW_CORRECTED (R345): A corrected slow-tier code word is counted. -/
  | slowCorrected (ch : ChanId)
  /-- SLOW_UNCORRECTED_READ (R345): An uncorrected slow-tier read is read again once. -/
  | slowUncorrectedRead (ch : ChanId)
  /-- SLOW_RETRY_RESULT (R345): The slow-tier retry is counted as transient or retires the channel. -/
  | slowRetryResult (ch : ChanId) (r : Reread)
  /-- SLOW_CE_LIMIT (R345): Corrected words reach slow_ce_limit within the window and the channel is retired. -/
  | slowCeLimit (ch : ChanId)
  /-- SLOW_WINDOW_EXPIRY (R345): A slow_window ends and the channel's window count restarts. -/
  | slowWindowExpiry (ch : ChanId)
  /-- SLOW_RETRAIN_DONE (R345): A channel retrain ends; a third consecutive failure retires the channel. -/
  | slowRetrainDone (ch : ChanId) (ok : Bool)
  /-- PCH_CORRECTED (R355): A corrected fast-tier read is counted. -/
  | pchCorrected (p : PchId)
  /-- PCH_UNCORRECTED_READ (R355): An uncorrected fast-tier read is re-read ahead of the queue. -/
  | pchUncorrectedRead (p : PchId)
  /-- PCH_REREAD_DONE (R355): The re-read returns data, counted as transient, or retires the PCh. -/
  | pchRereadDone (p : PchId) (r : Reread)
  /-- PCH_CE_LIMIT (R355): Corrected reads reach ft_ce_limit within the window and the PCh is retired. -/
  | pchCeLimit (p : PchId)
  /-- PCH_WINDOW_EXPIRY (R355): An ft_window ends and the PCh's window count restarts. -/
  | pchWindowExpiry (p : PchId)
  /-- PCH_INTERFACE_CHECK (R356): Every 32 ms, a PCh's margin is checked and a retrain may start. -/
  | pchInterfaceCheck (p : PchId) (margin : Nat)
  /-- PCH_CA_PARITY_ERROR (R356): A stack-reported command-address parity error starts a retrain. -/
  | pchCaParityError (p : PchId)
  /-- PCH_RETRAIN_DONE (R356): A PCh retrain ends and queued requests proceed; a third failure retires the PCh. -/
  | pchRetrainDone (p : PchId) (ok : Bool)
  /-- SRAM_CORRECTED (R354): A corrected SRAM word is counted. -/
  | sramCorrected (u : SramUnit)
  /-- SRAM_UNCORRECTED (R358): An uncorrected SRAM word reads as zero and raises hold SRAM_UNCORRECTED. -/
  | sramUncorrected (u : SramUnit) (place : SramPlace) (off : Nat)
  /-- RESET_REQ_COMPUTE (R385): A PLB_RESET_REQ write through BAR4 or MCTP requests a compute reset. -/
  | resetReqCompute (path : RegPath)
  /-- RESET_REQ_PACKAGE (R385): A PLB_RESET_REQ write requests a package reset. -/
  | resetReqPackage (path : RegPath)
  /-- RESET_REQ_MODULE (R385): A PLB_RESET_REQ write requests a module reset. -/
  | resetReqModule (path : RegPath)
  /-- COMPUTE_RESET_DONE (R361): A compute reset completes and the module is in REWINDING. -/
  | computeResetDone
  /-- COMPUTE_RESET_TIMEOUT (R361): A compute reset not done within 2 s escalates to a package reset. -/
  | computeResetTimeout
  /-- PACKAGE_RESET_NOT_SET (R361): A package reset that does not reach SET escalates to a module reset. -/
  | packageResetNotSet
  /-- RESET_RELEASE (R372): A package or module reset is released and the short start path begins. -/
  | resetRelease
  /-- PERST_ASSERT (R390): PERST# on a port resets that port, and the module when no other host is left. -/
  | perstAssert (p : PortId)
  /-- PERST_RELEASE (R432): The port trains its PCIe link within 100 ms of release. -/
  | perstRelease (p : PortId)
  /-- PCIE_LINK_DOWN (R390): A port's link goes down and it stops fetching from its work lists. -/
  | pcieLinkDown (p : PortId)
  /-- DUMP_CAPTURE (R380): The Plumb reads every unit over the scan path into a crash dump. -/
  | dumpCapture
  /-- SCAN_READ_TIMEOUT (R380): A unit that does not answer within 10 µs is recorded unreadable. -/
  | scanReadTimeout (ty idx : Nat)
  /-- DUMP_WRITTEN (R379): The dump is in flash, the older slot overwritten and vector 5 raised. -/
  | dumpWritten
  /-- INPUT_APPLIED (R469): The 56 V input is applied and inrush is limited while capacitance charges. -/
  | inputApplied
  /-- POWER_GOOD (R430): Every rail is in regulation, PWR_OK is released, straps are read and the cold start begins. -/
  | powerGood (strap : BitVec 2) (openPairs : BitVec 4)
  /-- START_STEP_DONE (R430): A start-up step completes and the next begins, ending in SET or UNSET. -/
  | startStepDone (r : StepResult)
  /-- POWER_LOSS (R361): Loss of input: bypasses close and only flash survives. -/
  | powerLoss
  /-- RAIL_OUT_OF_REGULATION (R472): A rail leaves regulation and PWR_OK is driven low. -/
  | railOutOfRegulation (rail : Fin 22)
  /-- SHED_STEP_ENTER (R445): The 8 µs input mean falls below a step's threshold and the step's actions are taken. -/
  | shedStepEnter (vin : BitVec 16)
  /-- SHED_STEP_LEAVE (R444): The 1 ms mean holds above threshold plus hysteresis for 10 ms and the step is left. -/
  | shedStepLeave (vin : BitVec 16)
  /-- PARK_ROTATE (R446): Every 250 µs at S3, one cluster group is unparked and the next is parked. -/
  | parkRotate
  /-- OVER_VOLTAGE (R440): The input exceeds 62 V as an 8 µs mean and the orderly power-off follows. -/
  | overVoltage (vin : BitVec 16)
  /-- UNDERVOLTAGE_CUTOFF (R440): The input falls below 34 V and the power stage turns off at once. -/
  | undervoltageCutoff (vin : BitVec 16)
  /-- POWER_RESTART (R450): The input stays above the S1 threshold plus hysteresis for 1 s and the module starts cold. -/
  | powerRestart (vin : BitVec 16)
  /-- POWER_LIMIT_TICK (R442): Every 1 ms, average power is compared with power_limit and the point moves. -/
  | powerLimitTick (pin : BitVec 16) (rails : List (BitVec 16 × BitVec 16)) (clu : List (BitVec 16))
  /-- THERMAL_TICK (R443): Every 10 ms, temperatures are read and the thermal point is lowered or raised. -/
  | thermalTick (temps : List (BitVec 16))
  /-- THERMAL_POWER_OFF (R443): A point at its power-off temperature for 10 ms causes a dump and an orderly power-off. -/
  | thermalPowerOff
  /-- CLOCK_POINT_CHANGE (R434): The core clock moves to a new point within 2 µs without issuing. -/
  | clockPointChange
  /-- LIFETIME_LOG_WRITE (R457): Every 10 minutes, and at set events, the record is written to the next flash slot. -/
  | lifetimeLogWrite
  /-- FAIL_CAUSE_EXPIRY (R460): RESET_EXHAUSTED stops standing 30 powered minutes after its last reset. -/
  | failCauseExpiry
  /-- UPD_BEGIN (R462): Opens an update session and erases the inactive slot's header sector. -/
  | updBegin (path : RegPath) (v : Word)
  /-- UPD_WRITE (R462): Commits the staging buffer as one chunk of the image. -/
  | updWrite (path : RegPath) (v : Word)
  /-- UPD_VERIFY (R462): Checks the written image and erases its header on failure. -/
  | updVerify (path : RegPath) (v : Word)
  /-- UPD_ABORT (R462): Closes the session and leaves the slot erased. -/
  | updAbort (path : RegPath) (v : Word)
  /-- UPD_SESSION_TIMEOUT (R462): An open session with no request for 10 s is aborted. -/
  | updSessionTimeout
  /-- PLB_UPD_BUF_WRITE (R462): The session owner writes the staging buffer; other sources are ignored. -/
  | plbUpdBufWrite (path : RegPath) (off : Nat) (bytes : List Byte)
  /-- GET_VERSION (R463): SPDM request answered with the supported versions. -/
  | getVersion (path : RegPath) (req : List Byte)
  /-- GET_CAPABILITIES (R463): SPDM request answered with the responder's capabilities. -/
  | getCapabilities (path : RegPath) (req : List Byte)
  /-- NEGOTIATE_ALGORITHMS (R463): SPDM algorithm negotiation. -/
  | negotiateAlgorithms (path : RegPath) (req : List Byte)
  /-- GET_DIGESTS (R463): SPDM request answered with the certificate digests. -/
  | getDigests (path : RegPath) (req : List Byte)
  /-- GET_CERTIFICATE (R463): SPDM request answered with the certificate chain of slot 0. -/
  | getCertificate (path : RegPath) (req : List Byte)
  /-- CHALLENGE (R463): SPDM challenge signed with the device key, or ERROR without identity. -/
  | challenge (path : RegPath) (req : List Byte)
  /-- GET_MEASUREMENTS (R463): SPDM request answered with the measurement blocks. -/
  | getMeasurements (path : RegPath) (req : List Byte)
  /-- PLDM_REQUEST (R464): A PLDM monitoring or firmware-update request over MCTP is served. -/
  | pldmRequest (path : RegPath) (req : PldmReq)
  /-- SMBUS_ALERT_RESPONSE (R472): The module answers the SMBus Alert Response Address with its address. -/
  | smbusAlertResponse
  /-- IDLE_FLIT (R250): A receiver takes an IDLE flit and applies the ack, nak and returned credits in its header. -/
  | idleFlit (l : LinkId) (flit : List Byte)
  /-- KARR_REPLY (R224): The home's reply to a karr reaches the arriving engine, which writes the admitted round into sd and lets the strand issue past karr. -/
  | karrReply (r : KReply)
  /-- RDY_IN_CHANGE (R277): The RDY level received from downstream changes, changing rdy_in and the RDY driven upstream. -/
  | rdyInChange (level : Bool)
  /-- CHAIN_OUT_PRESENCE_CHANGE (R269): A chain cable is connected to or removed from CHAIN OUT, so the module stops or starts being tail and taking RDY as 1. -/
  | chainOutPresenceChange (present : Bool)
  /-- CENSUS_END (R269): A new head ends its census and broadcasts ABSENT for every address it granted that did not reply with HERE. -/
  | censusEnd
  /-- TRUST_PASS_END (R325): A rule T group's trust pass ends with its slow-tier writes done and its multicast issued, so the Mason's next group may start. -/
  | trustPassEnd (m : MasonId)
  /-- FACE_PASS_END (R326): A group's face pass finishes writing the open slot's face plane, which can complete the descriptor, advance MSN_UNIT_DONE and set open_state COMPLETE. -/
  | facePassEnd (m : MasonId)
  /-- MIRROR_COMPLETE (R340): The sender sees its mirror's completion tally rise by 1, records the lift in MSN_MIRROR_OUT and the lift header, and releases the waits of R16 and R325. -/
  | mirrorComplete
  /-- SLOW_RETRAIN_START (R345): A slow-tier channel begins a retrain, setting MSN_CH retraining and queueing its requests. -/
  | slowRetrainStart (ch : ChanId)
  /-- PCIE_LINK_UP (R390): A host port's PCIe link comes up after going down, setting HST_PORT_STATUS speed and width and allowing the port to fetch from its work lists again. -/
  | pcieLinkUp (p : PortId) (speed : BitVec 3) (width : BitVec 5) (flit : Bool)
  /-- OVER_RANGE_EVENT (R440): The input enters the 60.0 to 62.0 V range and the lifetime log counts one over-range event. -/
  | overRangeEvent (vin : BitVec 16)
  /-- UPD_REQUEST_COMPLETE (R467): A BEGIN, WRITE or VERIFY request's flash work finishes and PLB_UPD_STATUS leaves BUSY with its result. -/
  | updRequestComplete (flashOk : Bool)
deriving DecidableEq, Repr

end Sys2Proof
end

