-- ==== Sys2Proof/Decode.lean ====
section
/-! DEFINITION. Decoding. spec/opcode_table.json gives no row of this block any bits, so no table word spells a command.
The words of the cores' instructions have their encodings in chapter 03 (R78–R101): they are decoded and encoded here. -/

namespace Sys2Proof

/-- The command that a table word spells: none. -/
def decodeTableWord (_nbits _w : Nat) : Option Instr := none

/-! ## Fields of instruction words -/

/-- The shape word (R78). -/
def Shape.ofWord (w : Word) : Shape :=
  { fmt := w.extractLsb' 16 4, cols := w.extractLsb' 8 6, rows := w.extractLsb' 0 6,
    rsv := w.extractLsb' 20 44 ++ w.extractLsb' 14 2 ++ w.extractLsb' 6 2 }
/-- The word of a shape. -/
def Shape.toWord (x : Shape) : Word :=
  x.rsv.extractLsb' 4 44 ++ x.fmt ++ x.rsv.extractLsb' 2 2 ++ x.cols ++ x.rsv.extractLsb' 0 2 ++ x.rows

/-- Layout S (R80). -/
def SWord.ofWord (w : Word) : SWord :=
  { sd := w.extractLsb' 51 5, sa := w.extractLsb' 46 5, sb := w.extractLsb' 41 5, i := w.getLsbD 40,
    rsv := w.extractLsb' 32 8, imm := w.extractLsb' 0 32 }
/-- A word of layout S. -/
def SWord.toWord (x : SWord) (op : BitVec 8) : Word :=
  op ++ x.sd ++ x.sa ++ x.sb ++ BitVec.ofBool x.i ++ x.rsv ++ x.imm

/-- Layout T (R85). -/
def TWord.ofWord (w : Word) : TWord :=
  { tt := w.extractLsb' 51 5, sa := w.extractLsb' 46 5, sb := w.extractLsb' 41 5, rsv := w.extractLsb' 32 9,
    imm := w.extractLsb' 0 32 }
/-- A word of layout T. -/
def TWord.toWord (x : TWord) (op : BitVec 8) : Word := op ++ x.tt ++ x.sa ++ x.sb ++ x.rsv ++ x.imm

/-- `awld` (R88). -/
def AwldWord.ofWord (w : Word) : AwldWord :=
  { tw := w.extractLsb' 51 5, target := w.extractLsb' 47 4, vs := w.extractLsb' 38 8,
    rsv := w.extractLsb' 46 1 ++ w.extractLsb' 0 38 }
/-- The word of an `awld`. -/
def AwldWord.toWord (x : AwldWord) : Word :=
  0x50#8 ++ x.tw ++ x.target ++ x.rsv.extractLsb' 38 1 ++ x.vs ++ x.rsv.extractLsb' 0 38

/-- `amm` (R88). -/
def AmmWord.ofWord (w : Word) : AmmWord :=
  { ta := w.extractLsb' 51 5, target := w.extractLsb' 47 4, zero := w.getLsbD 46, vs := w.extractLsb' 38 8,
    boff := w.extractLsb' 30 8, rbase := w.extractLsb' 24 6, rsv := w.extractLsb' 0 24 }
/-- The word of an `amm`. -/
def AmmWord.toWord (x : AmmWord) : Word :=
  0x52#8 ++ x.ta ++ x.target ++ BitVec.ofBool x.zero ++ x.vs ++ x.boff ++ x.rbase ++ x.rsv

/-- `aflip` (R88). -/
def AflipWord.ofWord (w : Word) : AflipWord := { halves := w.extractLsb' 48 8, rsv := w.extractLsb' 0 48 }
/-- The word of an `aflip`. -/
def AflipWord.toWord (x : AflipWord) : Word := 0x51#8 ++ x.halves ++ x.rsv

/-- `abrd` (R88). -/
def AbrdWord.ofWord (w : Word) : AbrdWord :=
  { vd := w.extractLsb' 48 8, row := w.extractLsb' 40 8, ofmt := w.extractLsb' 36 4, clr := w.getLsbD 35,
    nfp := w.getLsbD 34, e := w.extractLsb' 26 8, group := w.extractLsb' 20 6, rsv := w.extractLsb' 0 20 }
/-- The word of an `abrd`. -/
def AbrdWord.toWord (x : AbrdWord) : Word :=
  0x53#8 ++ x.vd ++ x.row ++ x.ofmt ++ BitVec.ofBool x.clr ++ BitVec.ofBool x.nfp ++ x.e ++ x.group ++ x.rsv

/-- Layout V (R93). -/
def VWord.ofWord (w : Word) : VWord :=
  { vd := w.extractLsb' 48 8, va := w.extractLsb' 40 8, vb := w.extractLsb' 32 8, vc := w.extractLsb' 24 8,
    f := w.extractLsb' 20 4, ext := w.extractLsb' 0 20 }
/-- A word of layout V. -/
def VWord.toWord (x : VWord) (op : BitVec 8) : Word := op ++ x.vd ++ x.va ++ x.vb ++ x.vc ++ x.f ++ x.ext

/-- Layout VM (R93). -/
def VMWord.ofWord (w : Word) : VMWord :=
  { vv := w.extractLsb' 48 8, sa := w.extractLsb' 43 5, rsv := w.extractLsb' 32 11, imm := w.extractLsb' 0 32 }
/-- A word of layout VM. -/
def VMWord.toWord (x : VMWord) (op : BitVec 8) : Word := op ++ x.vv ++ x.sa ++ x.rsv ++ x.imm

/-- Layout M (R101). -/
def MWord.ofWord (w : Word) : MWord :=
  { sa := w.extractLsb' 51 5, sb := w.extractLsb' 46 5, sc := w.extractLsb' 41 5, sd := w.extractLsb' 36 5,
    atype := w.extractLsb' 32 4, sfmt := w.extractLsb' 28 4, e := w.extractLsb' 20 8, mc := w.getLsbD 19,
    rsv := w.getLsbD 18, ct := w.extractLsb' 0 18 }
/-- A word of layout M. -/
def MWord.toWord (x : MWord) (op : BitVec 8) : Word :=
  op ++ x.sa ++ x.sb ++ x.sc ++ x.sd ++ x.atype ++ x.sfmt ++ x.e ++ BitVec.ofBool x.mc ++ BitVec.ofBool x.rsv ++ x.ct

/-! ## The opcode map (R79) -/

/-- The instruction that a core's instruction word and the word after it spell: bits [63:56] pick it. -/
def decodeCore (c : CoreId) (t : StrandId) (w w2 : Word) : Instr :=
  match (w.extractLsb' 56 8).toNat with
  | 0x00 => .nop c t (.ofWord w)
  | 0x01 => .add c t (.ofWord w)
  | 0x02 => .sub c t (.ofWord w)
  | 0x03 => .mul c t (.ofWord w)
  | 0x04 => .div c t (.ofWord w)
  | 0x05 => .divu c t (.ofWord w)
  | 0x06 => .andI c t (.ofWord w)
  | 0x07 => .orI c t (.ofWord w)
  | 0x08 => .xorI c t (.ofWord w)
  | 0x09 => .shl c t (.ofWord w)
  | 0x0A => .shr c t (.ofWord w)
  | 0x0B => .sra c t (.ofWord w)
  | 0x0C => .slt c t (.ofWord w)
  | 0x0D => .sltu c t (.ofWord w)
  | 0x0E => .minI c t (.ofWord w)
  | 0x0F => .maxI c t (.ofWord w)
  | 0x10 => .lui c t (.ofWord w)
  | 0x11 => .ld c t (.ofWord w)
  | 0x12 => .st c t (.ofWord w)
  | 0x13 => .beq c t (.ofWord w)
  | 0x14 => .bne c t (.ofWord w)
  | 0x15 => .blt c t (.ofWord w)
  | 0x16 => .bge c t (.ofWord w)
  | 0x17 => .bltu c t (.ofWord w)
  | 0x18 => .jal c t (.ofWord w)
  | 0x19 => .jr c t (.ofWord w)
  | 0x1A => .srd c t (.ofWord w)
  | 0x1B => .cend c t (.ofWord w)
  | 0x20 => .vadd c t (.ofWord w)
  | 0x21 => .vsub c t (.ofWord w)
  | 0x22 => .vmul c t (.ofWord w)
  | 0x23 => .vfma c t (.ofWord w)
  | 0x24 => .vmax c t (.ofWord w)
  | 0x25 => .vmin c t (.ofWord w)
  | 0x26 => .vabs c t (.ofWord w)
  | 0x28 => .vbcast c t (.ofWord w)
  | 0x29 => .vlane c t (.ofWord w)
  | 0x2A => .vmov c t (.ofWord w)
  | 0x30 => .vexp c t (.ofWord w)
  | 0x31 => .vrcp c t (.ofWord w)
  | 0x32 => .vrsqrt c t (.ofWord w)
  | 0x33 => .vcvt c t (.ofWord w)
  | 0x34 => .rred c t (.ofWord w)
  | 0x35 => .rred2 c t (.ofWord w)
  | 0x36 => .vld c t (.ofWord w)
  | 0x37 => .vst c t (.ofWord w)
  | 0x40 => .tload c t (.ofWord w) (.ofWord w2)
  | 0x41 => .tstore c t (.ofWord w) (.ofWord w2)
  | 0x42 => .trel c t (.ofWord w)
  | 0x50 => .awld c t (.ofWord w) (.ofWord w2)
  | 0x51 => .aflip c t (.ofWord w)
  | 0x52 => .amm c t (.ofWord w) (.ofWord w2)
  | 0x53 => .abrd c t (.ofWord w)
  | 0x60 => .cpy c t (.ofWord w)
  | 0x61 => .putI c t (.ofWord w)
  | 0x62 => .putSI c t (.ofWord w)
  | 0x63 => .getI c t (.ofWord w)
  | 0x64 => .accI c t (.ofWord w)
  | 0x65 => .accSI c t (.ofWord w)
  | 0x70 => .tadd c t (.ofWord w)
  | 0x71 => .twait c t (.ofWord w)
  | 0x72 => .karr c t (.ofWord w)
  | 0x73 => .kwait c t (.ofWord w)
  | _ => .reservedOpcode c t (w.extractLsb' 56 8) (w.extractLsb' 0 56)

/-- The words of a core's instruction, the second zero where it has one word; other commands have none. -/
def encodeCore : Instr → Option (Word × Word)
  | .nop _ _ w => some (w.toWord 0x00, 0)
  | .add _ _ w => some (w.toWord 0x01, 0)
  | .sub _ _ w => some (w.toWord 0x02, 0)
  | .mul _ _ w => some (w.toWord 0x03, 0)
  | .div _ _ w => some (w.toWord 0x04, 0)
  | .divu _ _ w => some (w.toWord 0x05, 0)
  | .andI _ _ w => some (w.toWord 0x06, 0)
  | .orI _ _ w => some (w.toWord 0x07, 0)
  | .xorI _ _ w => some (w.toWord 0x08, 0)
  | .shl _ _ w => some (w.toWord 0x09, 0)
  | .shr _ _ w => some (w.toWord 0x0A, 0)
  | .sra _ _ w => some (w.toWord 0x0B, 0)
  | .slt _ _ w => some (w.toWord 0x0C, 0)
  | .sltu _ _ w => some (w.toWord 0x0D, 0)
  | .minI _ _ w => some (w.toWord 0x0E, 0)
  | .maxI _ _ w => some (w.toWord 0x0F, 0)
  | .lui _ _ w => some (w.toWord 0x10, 0)
  | .ld _ _ w => some (w.toWord 0x11, 0)
  | .st _ _ w => some (w.toWord 0x12, 0)
  | .beq _ _ w => some (w.toWord 0x13, 0)
  | .bne _ _ w => some (w.toWord 0x14, 0)
  | .blt _ _ w => some (w.toWord 0x15, 0)
  | .bge _ _ w => some (w.toWord 0x16, 0)
  | .bltu _ _ w => some (w.toWord 0x17, 0)
  | .jal _ _ w => some (w.toWord 0x18, 0)
  | .jr _ _ w => some (w.toWord 0x19, 0)
  | .srd _ _ w => some (w.toWord 0x1A, 0)
  | .cend _ _ w => some (w.toWord 0x1B, 0)
  | .vadd _ _ w => some (w.toWord 0x20, 0)
  | .vsub _ _ w => some (w.toWord 0x21, 0)
  | .vmul _ _ w => some (w.toWord 0x22, 0)
  | .vfma _ _ w => some (w.toWord 0x23, 0)
  | .vmax _ _ w => some (w.toWord 0x24, 0)
  | .vmin _ _ w => some (w.toWord 0x25, 0)
  | .vabs _ _ w => some (w.toWord 0x26, 0)
  | .vbcast _ _ w => some (w.toWord 0x28, 0)
  | .vlane _ _ w => some (w.toWord 0x29, 0)
  | .vmov _ _ w => some (w.toWord 0x2A, 0)
  | .vexp _ _ w => some (w.toWord 0x30, 0)
  | .vrcp _ _ w => some (w.toWord 0x31, 0)
  | .vrsqrt _ _ w => some (w.toWord 0x32, 0)
  | .vcvt _ _ w => some (w.toWord 0x33, 0)
  | .rred _ _ w => some (w.toWord 0x34, 0)
  | .rred2 _ _ w => some (w.toWord 0x35, 0)
  | .vld _ _ w => some (w.toWord 0x36, 0)
  | .vst _ _ w => some (w.toWord 0x37, 0)
  | .tload _ _ w sh => some (w.toWord 0x40, sh.toWord)
  | .tstore _ _ w sh => some (w.toWord 0x41, sh.toWord)
  | .trel _ _ w => some (w.toWord 0x42, 0)
  | .awld _ _ w sh => some (w.toWord, sh.toWord)
  | .aflip _ _ w => some (w.toWord, 0)
  | .amm _ _ w sh => some (w.toWord, sh.toWord)
  | .abrd _ _ w => some (w.toWord, 0)
  | .cpy _ _ w => some (w.toWord 0x60, 0)
  | .putI _ _ w => some (w.toWord 0x61, 0)
  | .putSI _ _ w => some (w.toWord 0x62, 0)
  | .getI _ _ w => some (w.toWord 0x63, 0)
  | .accI _ _ w => some (w.toWord 0x64, 0)
  | .accSI _ _ w => some (w.toWord 0x65, 0)
  | .tadd _ _ w => some (w.toWord 0x70, 0)
  | .twait _ _ w => some (w.toWord 0x71, 0)
  | .karr _ _ w => some (w.toWord 0x72, 0)
  | .kwait _ _ w => some (w.toWord 0x73, 0)
  | .reservedOpcode _ _ op rest => some (op ++ rest, 0)
  | _ => none

end Sys2Proof
end

