-- ==== Sys2Proof/Machine/Bytes.lean ====
section
/-! DEFINITION. Little-endian bytes (R5) and bit fields of registers. -/

namespace Sys2Proof

/-- The natural number that bytes hold, least significant first. -/
def leNat : List Byte → Nat
  | [] => 0
  | b :: bs => b.toNat + 256 * leNat bs

/-- The `n` bytes of a number, least significant first. -/
def leBytes : Nat → Nat → List Byte
  | 0, _ => []
  | n + 1, v => BitVec.ofNat 8 v :: leBytes n (v / 256)

/-- Eight bytes as a word. -/
def leWord (bs : List Byte) : Word := BitVec.ofNat 64 (leNat bs)

/-- A word's eight bytes. -/
def wordBytes (w : Word) : List Byte := leBytes 8 w.toNat

/-- Bits [lo + n − 1 : lo] of a number. -/
def bitsOf (v lo n : Nat) : Nat := v / 2 ^ lo % 2 ^ n

/-- Bit `i` of a number. -/
def bitOf (v i : Nat) : Bool := decide (v / 2 ^ i % 2 = 1)

/-- A Boolean as a bit. -/
def b2n (b : Bool) : Nat := if b then 1 else 0

/-- Bytes `lo` to `lo + n − 1` of a list, zero beyond its end. -/
def slice (bs : List Byte) (lo n : Nat) : List Byte :=
  let d := (bs.drop lo).take n
  d ++ List.replicate (n - d.length) 0

/-- A list cut into parts of `n` elements, with fuel. -/
def chunksFuel {α : Type} : Nat → Nat → List α → List (List α)
  | 0, _, _ => []
  | fuel + 1, n, l => if l.isEmpty then [] else l.take n :: chunksFuel fuel n (l.drop n)

/-- A list cut into parts of `n` elements, the last one possibly shorter. -/
def chunks {α : Type} (n : Nat) (l : List α) : List (List α) := chunksFuel l.length (max n 1) l

/-- The 64-bit value that `n` bits, sign-extended, stand for. -/
def signExt {n : Nat} (v : BitVec n) : Word := v.signExtend 64

/-- Add to a counter of `n` bits that saturates at all ones (R7). -/
def satAdd {n : Nat} (v : BitVec n) (k : Nat) : BitVec n :=
  if v.toNat + k < 2 ^ n then BitVec.ofNat n (v.toNat + k) else BitVec.allOnes n

/-- The set bits of a number below `n`, ascending. -/
def setBits (n v : Nat) : List Nat := (List.range n).filter (fun i => bitOf v i)

/-- Whether `a ≤ k < a + n`. -/
def within (k a n : Nat) : Bool := decide (a ≤ k) && decide (k < a + n)

end Sys2Proof
end

