-- ==== Sys2Proof/Machine/Crc.lean ====
section
/-! DEFINITION. The cyclic redundancy checks of the spec: most significant bit first, no reflection and no final
inversion. -/

namespace Sys2Proof

/-- One bit step of a check register of `n` bits. -/
def crcBit {n : Nat} (poly : BitVec n) (r : BitVec n) : BitVec n :=
  if r.msb then (r <<< 1) ^^^ poly else r <<< 1

/-- One byte into a check register of `n` ≥ 8 bits. -/
def crcByte {n : Nat} (poly : BitVec n) (r : BitVec n) (b : Byte) : BitVec n :=
  let x := r ^^^ ((b.setWidth n) <<< (n - 8))
  crcBit poly (crcBit poly (crcBit poly (crcBit poly (crcBit poly (crcBit poly (crcBit poly (crcBit poly x)))))))

/-- The check over bytes. -/
def crcOver {n : Nat} (poly init : BitVec n) (bs : List Byte) : BitVec n := bs.foldl (crcByte poly) init

/-- The CRC-16 of a flit segment (R249): polynomial 0x1021, initial value 0xFFFF. -/
def crc16 (bs : List Byte) : BitVec 16 := crcOver 0x1021#16 0xFFFF#16 bs

/-- The CRC-8 of a control frame (R270): polynomial 0x07; the initial value zero is PRESUMED (log entry 7). -/
def crc8 (bs : List Byte) : BitVec 8 := crcOver 0x07#8 0#8 bs

/-- The CRC-64 of ECMA-182 (R312): initial value zero. -/
def crc64 (bs : List Byte) : Word := crcOver 0x42F0E1EBA9EA3693#64 0#64 bs

end Sys2Proof
end

