-- ==== Sys2Proof/Config.lean ====
section
/-! DEFINITION. What one part fixes and the spec does not give, and the free values: constants without a body, so that
nothing can be proved of their values. -/

namespace Sys2Proof.Config

/-- A fresh free value: the n-th value that the spec leaves open (log entry 2). -/
opaque freeWord : Nat → Word

/-- A byte of a memory region after the region's n-th loss (R361, R176), by loss number and key (log entry 4). -/
opaque lostByte : Nat → Nat → Byte

/-- Where within the 2-unit bound of R95 `vexp` lies, by its operand (log entry 5). -/
opaque vexpUnits : W32 → Nat
/-- Where within the 2-unit bound of R95 `vrcp` lies. -/
opaque vrcpUnits : W32 → Nat
/-- Where within the 2-unit bound of R95 `vrsqrt` lies. -/
opaque vrsqrtUnits : W32 → Nat

/-- A bushel sum that leaves the 64-bit range (R132), by its operands (log entry 13). -/
opaque bushelOver : Word → Word → Word

/-- The part is a TWM-2740-B (R1). -/
opaque variantB : Bool
/-- The module's serial number, 16 ASCII bytes (R426). -/
opaque serial : List Byte
/-- Boot ROM version (R466). -/
opaque romVersion : BitVec 16
/-- The eye margin that a lane shows, in 1/64 UI, as it trains at a powered time (R458; log entry 109). -/
opaque eyeMargin : Nat → Nat → BitVec 32

/-- Modulus and exponent of a public key as the flash holds it: its coding is not given (R422; log entry 6). -/
opaque pubKey : List Byte → Nat × Nat
/-- Modulus and private exponent of the device key as it is unwrapped: its coding is not given (R429; log entry 6). -/
opaque devKey : List Byte → Nat × Nat
/-- The pattern of the SRAM PUF, corrected with the helper data: the code is not given (R429; log entry 6). -/
opaque pufCorrect : List Byte → List Byte → List Byte
/-- The identity area of the flash: helper data, wrapped device key, device certificate; its layout is not given (R421,
R429; log entry 6). -/
opaque identity : List Byte → List Byte × List Byte × List Byte
/-- The root public key as the boot header (first argument) holds it (R422): the header's layout is not given. -/
opaque rootKey : List Byte → List Byte
/-- Key record 1–4 of the boot header (R422): the public key, the purpose byte, the bytes signed and the signature. -/
opaque keyRecord : List Byte → Nat → List Byte × Byte × List Byte × List Byte
/-- The hash of the root public key that the boot ROM holds (R422). -/
opaque rootKeyHash : List Byte
/-- The body of an SPDM or PLDM response (DMTF DSP0274, DSP0248): request code, module data, request. -/
opaque dmtfResponse : Nat → List Byte → List Byte → List Byte

end Sys2Proof.Config
end

