-- ==== Sys2Proof/Machine/Float.lean ====
section
/-! DEFINITION. Floating-point values and exact arithmetic on them (R115–R118, R126). A finite value is held as
(−1)^s · m · 2^e with m a natural number, so every product and sum is exact until it is rounded once. -/

namespace Sys2Proof

/-- A value that a float code stands for. -/
inductive FVal where
  | nan
  | inf (neg : Bool)
  /-- (−1)^neg · m · 2^e; m = 0 is a signed zero -/
  | fin (neg : Bool) (m : Nat) (e : Int)
deriving DecidableEq, Repr

/-- A float format (R115). -/
inductive FFmt where
  | e4m3 | e5m2 | e2m1 | bf16 | fp32
deriving DecidableEq, Repr

/-- Mantissa bits (R115). -/
def FFmt.mbits : FFmt → Nat
  | .e4m3 => 3 | .e5m2 => 2 | .e2m1 => 1 | .bf16 => 7 | .fp32 => 23

/-- Exponent bits (R115). -/
def FFmt.ebits : FFmt → Nat
  | .e4m3 => 4 | .e5m2 => 5 | .e2m1 => 2 | .bf16 => 8 | .fp32 => 8

/-- Exponent bias (R115). -/
def FFmt.bias : FFmt → Nat
  | .e4m3 => 7 | .e5m2 => 15 | .e2m1 => 1 | .bf16 => 127 | .fp32 => 127

/-- Width in bits. -/
def FFmt.bits (f : FFmt) : Nat := 1 + f.ebits + f.mbits

/-- Exponent of the unit of the subnormals. -/
def FFmt.emin (f : FFmt) : Int := 1 - (f.bias : Int) - (f.mbits : Int)

/-- Magnitude code of the largest finite value (R115). -/
def FFmt.maxCode : FFmt → Nat
  | .e4m3 => 0x7E | .e5m2 => 0x7B | .e2m1 => 0x7 | .bf16 => 0x7F7F | .fp32 => 0x7F7FFFFF

/-- Code of the canonical not-a-number (R116); E2M1 has none. -/
def FFmt.nanCode : FFmt → Nat
  | .e4m3 => 0x7F | .e5m2 => 0x7F | .e2m1 => 0 | .bf16 => 0x7FC0 | .fp32 => 0x7FC00000

/-- Magnitude code of infinity, for the formats that have one (R115). -/
def FFmt.infCode : FFmt → Nat
  | .e4m3 => 0x7F | .e5m2 => 0x7C | .e2m1 => 0x7 | .bf16 => 0x7F80 | .fp32 => 0x7F800000

/-- The sign bit of a code. -/
def FFmt.sign (f : FFmt) (code : Nat) : Bool := decide (code / 2 ^ (f.ebits + f.mbits) % 2 = 1)

/-- The value of a code (R115, R116). -/
def FFmt.decode (f : FFmt) (code : Nat) : FVal :=
  let neg := f.sign code
  let ex := code / 2 ^ f.mbits % 2 ^ f.ebits
  let man := code % 2 ^ f.mbits
  let top := 2 ^ f.ebits - 1
  let ieee := f = .e5m2 ∨ f = .bf16 ∨ f = .fp32
  if ieee ∧ ex = top then (if man = 0 then .inf neg else .nan)
  else if f = .e4m3 ∧ ex = top ∧ man = 7 then .nan
  else if ex = 0 then .fin neg man f.emin
  else .fin neg (man + 2 ^ f.mbits) ((ex : Int) - 1 + f.emin)

/-- m / 2^sh to the nearest integer, ties to even. -/
def rne (m sh : Nat) : Nat :=
  let q := m / 2 ^ sh
  let r := m % 2 ^ sh
  if 2 * r > 2 ^ sh ∨ (2 * r = 2 ^ sh ∧ q % 2 = 1) then q + 1 else q

/-- m · 2^e rounded to a multiple of 2^e' with at most `mb` + 1 significant bits and e' ≥ emin, the exponent range
above unbounded: the new pair. -/
def roundSig (mb : Nat) (emin : Int) (m : Nat) (e : Int) : Nat × Int :=
  if m = 0 then (0, emin) else
  let e' := max emin (e + (Nat.log2 m : Int) - (mb : Int))
  let m' := if e' ≤ e then m * 2 ^ (e - e').toNat else rne m (e' - e).toNat
  if m' = 2 ^ (mb + 1) then (2 ^ mb, e' + 1) else (m', e')

/-- The magnitude code of a pair that `roundSig` gave. It exceeds `maxCode` when the pair overflows the format. -/
def FFmt.magCode (f : FFmt) (me : Nat × Int) : Nat :=
  if me.1 < 2 ^ f.mbits then me.1
  else (me.2 - f.emin + 1).toNat * 2 ^ f.mbits + (me.1 - 2 ^ f.mbits)

/-- A magnitude code with its sign. -/
def FFmt.signed (f : FFmt) (neg : Bool) (mag : Nat) : Nat :=
  if neg then mag + 2 ^ (f.ebits + f.mbits) else mag

/-- Encode by IEEE 754 rounding to nearest even: overflow gives infinity (R126, the arithmetic of FP32 and BF16). -/
def FFmt.encode (f : FFmt) : FVal → Nat
  | .nan => f.nanCode
  | .inf neg => f.signed neg f.infCode
  | .fin neg m e =>
    let mag := f.magCode (roundSig f.mbits f.emin m e)
    f.signed neg (if mag > f.maxCode then f.infCode else mag)

/-- The value of an FP32 register. -/
def f32 (x : W32) : FVal := FFmt.fp32.decode x.toNat
/-- The FP32 register that holds a value, rounded once. -/
def toF32 (v : FVal) : W32 := BitVec.ofNat 32 (FFmt.fp32.encode v)

/-- A finite value is zero. -/
def FVal.isZero : FVal → Bool
  | .fin _ m _ => decide (m = 0)
  | _ => false
/-- Neither infinite nor not-a-number. -/
def FVal.isFinite : FVal → Bool
  | .fin _ _ _ => true
  | _ => false
/-- The sign. -/
def FVal.neg? : FVal → Bool
  | .nan => false
  | .inf s => s
  | .fin s _ _ => s
/-- The negated value. -/
def FVal.negate : FVal → FVal
  | .nan => .nan
  | .inf s => .inf (!s)
  | .fin s m e => .fin (!s) m e
/-- The value times 2^k, exactly. -/
def FVal.scale (k : Int) : FVal → FVal
  | .fin s m e => .fin s m (e + k)
  | v => v

/-- m · 2^e as an integer count of 2^lo, for lo ≤ e. -/
def alignTo (lo : Int) (neg : Bool) (m : Nat) (e : Int) : Int :=
  let a : Int := ((m * 2 ^ (e - lo).toNat : Nat) : Int)
  if neg then -a else a

/-- Exact sum; a zero sum is −0 only when both terms are negative zeros (IEEE 754 to nearest). -/
def FVal.add : FVal → FVal → FVal
  | .nan, _ => .nan
  | _, .nan => .nan
  | .inf a, .inf b => if a = b then .inf a else .nan
  | .inf a, _ => .inf a
  | _, .inf b => .inf b
  | .fin s m e, .fin s' m' e' =>
    let lo := min e e'
    let n := alignTo lo s m e + alignTo lo s' m' e'
    if n = 0 then .fin (s && s') 0 lo else .fin (decide (n < 0)) n.natAbs lo

/-- Exact product. -/
def FVal.mul : FVal → FVal → FVal
  | .nan, _ => .nan
  | _, .nan => .nan
  | .inf a, v => if v.isZero then .nan else .inf (a != v.neg?)
  | v, .inf b => if v.isZero then .nan else .inf (b != v.neg?)
  | .fin s m e, .fin s' m' e' => .fin (s != s') (m * m') (e + e')

/-- Quotient, exact up to a sticky bit below the bits that a rounding to `mb` + 1 bits looks at. -/
def FVal.div (mb : Nat) : FVal → FVal → FVal
  | .nan, _ => .nan
  | _, .nan => .nan
  | .inf _, .inf _ => .nan
  | .inf a, v => .inf (a != v.neg?)
  | .fin s _ _, .inf b => .fin (s != b) 0 0
  | .fin s m e, .fin s' m' e' =>
    if m' = 0 then (if m = 0 then .nan else .inf (s != s'))
    else
      let k := mb + 4 + Nat.log2 m'
      let q := m * 2 ^ k / m'
      let sticky := if m * 2 ^ k % m' = 0 then 0 else 1
      .fin (s != s') (2 * q + sticky) (e - e' - (k : Int) - 1)

/-- The integer square root, bit by bit from bit `b` - 1 down. -/
def isqrtFrom (n : Nat) : Nat → Nat → Nat
  | 0, r => r
  | b + 1, r => isqrtFrom n b (if (r + 2 ^ b) * (r + 2 ^ b) ≤ n then r + 2 ^ b else r)

/-- The integer square root. -/
def isqrt (n : Nat) : Nat := isqrtFrom n (Nat.log2 n / 2 + 1) 0

/-- Square root, exact up to a sticky bit. -/
def FVal.sqrt (mb : Nat) : FVal → FVal
  | .nan => .nan
  | .inf s => if s then .nan else .inf false
  | .fin s m e =>
    if m = 0 then .fin s 0 e
    else if s then .nan
    else
      let k := 2 * (mb + 4)
      let k := if (e - (k : Int)) % 2 = 0 then k else k + 1
      let n := m * 2 ^ k
      let r := isqrt n
      let sticky := if r * r = n then 0 else 1
      .fin false (2 * r + sticky) ((e - (k : Int)) / 2 - 1)

/-- FP32 addition, rounded once (R94, R126). -/
def fadd (a b : W32) : W32 := toF32 ((f32 a).add (f32 b))
/-- FP32 subtraction. -/
def fsub (a b : W32) : W32 := toF32 ((f32 a).add (f32 b).negate)
/-- FP32 multiplication. -/
def fmul (a b : W32) : W32 := toF32 ((f32 a).mul (f32 b))
/-- FP32 division, correctly rounded (R327). -/
def fdiv (a b : W32) : W32 := toF32 ((f32 a).div 23 (f32 b))
/-- FP32 square root, correctly rounded (R327). -/
def fsqrt (a : W32) : W32 := toF32 ((f32 a).sqrt 23)
/-- FP32 fused multiply-add, rounded once (R94). -/
def ffma (a b c : W32) : W32 := toF32 (((f32 a).mul (f32 b)).add (f32 c))

/-- a < b on values that are numbers; a zero of either sign equals the other. -/
def FVal.lt : FVal → FVal → Bool
  | .nan, _ => false
  | _, .nan => false
  | .inf a, .inf b => a && !b
  | .inf a, .fin _ _ _ => a
  | .fin _ _ _, .inf b => !b
  | .fin s m e, .fin s' m' e' =>
    let lo := min e e'
    decide (alignTo lo s m e < alignTo lo s' m' e')

/-- The larger of two FP32 values: +0 above −0, a not-a-number gives the canonical one (R94). -/
def fmax (a b : W32) : W32 :=
  match f32 a, f32 b with
  | .nan, _ => toF32 .nan
  | _, .nan => toF32 .nan
  | x, y => if x.isZero && y.isZero then (if x.neg? then b else a) else if x.lt y then b else a
/-- The smaller of two FP32 values (R94). -/
def fmin (a b : W32) : W32 :=
  match f32 a, f32 b with
  | .nan, _ => toF32 .nan
  | _, .nan => toF32 .nan
  | x, y => if x.isZero && y.isZero then (if x.neg? then a else b) else if x.lt y then a else b
/-- The absolute value of an FP32 value; a not-a-number gives the canonical one (R94, R116). -/
def fabs (a : W32) : W32 :=
  match f32 a with
  | .nan => toF32 .nan
  | _ => a &&& 0x7FFFFFFF

/-- floor(log2 |x|) of a finite non-zero value (R139). -/
def FVal.exponent : FVal → Option Int
  | .fin _ m e => if m = 0 then none else some (e + (Nat.log2 m : Int))
  | _ => none

/-- A candidate within 2 units in the last place of a positive value that lies in [t, t + 1) units of 2^e, where
`exact` says that it is t itself and `pick` chooses among the candidates (R95). -/
def withinTwo (t : Nat) (e : Int) (exact : Bool) (pick : Nat) : FVal :=
  let n := if exact then pick % 5 else pick % 4
  let base := if exact then t - 2 else t - 1
  .fin false (base + n) e

/-- FP32 value of 1 / |x| for a normal magnitude m · 2^e: 24 significant bits, within 2 units. -/
def rcpCore (m : Nat) (e : Int) (pick : Nat) : FVal :=
  let k := 24 + Nat.log2 m
  let q := 2 ^ k / m
  if 2 ^ 24 ≤ q then withinTwo (q / 2) (1 - (k : Int) - e) (2 ^ k % m = 0 ∧ q % 2 = 0) pick
  else withinTwo q (-(k : Int) - e) (2 ^ k % m = 0) pick

/-- FP32 value of 1 / √x for x = m · 2^e: 24 significant bits, within 2 units. -/
def rsqrtCore (m : Nat) (e : Int) (pick : Nat) : FVal :=
  let m' := if e % 2 = 0 then m else 2 * m
  let h := if e % 2 = 0 then e / 2 else (e - 1) / 2
  let k := 60 + Nat.log2 m'
  let q := isqrt (2 ^ (2 * k) / m')
  let d := Nat.log2 q - 23
  withinTwo (q / 2 ^ d) ((d : Int) - (k : Int) - h) (q * q * m' = 2 ^ (2 * k) ∧ q % 2 ^ d = 0) pick

/-- Fixed-point Taylor sum of e^y for y / 2^300 in [0, 2^-12): the sum over `n` more terms. -/
def expTaylor (y : Nat) : Nat → Nat → Nat → Nat
  | 0, _, _ => 0
  | n + 1, i, term => term + expTaylor y n (i + 1) (term * y / 2 ^ 300 / (i + 1))

/-- Square a fixed-point number with 300 fraction bits `n` times. -/
def squareTimes : Nat → Nat → Nat
  | 0, x => x
  | n + 1, x => squareTimes n (x * x / 2 ^ 300)

/-- e^|x| for x = m · 2^e with |x| < 256, in units of 2^-300, by range reduction and a Taylor series. -/
def expFixed (m : Nat) (e : Int) : Nat :=
  let y := if 0 ≤ e + 280 then m * 2 ^ (e + 280).toNat else m / 2 ^ (-(e + 280)).toNat
  squareTimes 20 (expTaylor y 24 0 (2 ^ 300))

/-- e^x for finite x, within 2 units (R95): above the FP32 range +∞, a subnormal result flushed to +0 (R126, R127). -/
def expCore (neg : Bool) (m : Nat) (e : Int) (pick : Nat) : FVal :=
  if 8 ≤ e + (Nat.log2 m : Int) then (if neg then .fin false 0 0 else .inf false)
  else
    let v := expFixed m e
    let v := if neg then 2 ^ 600 / v else v
    if v = 0 then .fin false 0 0
    else
      let d := (Nat.log2 v : Int) - 23
      let t := if 0 ≤ d then v / 2 ^ d.toNat else v * 2 ^ (-d).toNat
      withinTwo t (d - 300) (d < 0) pick

/-- A result below the normal FP32 range becomes a zero of its sign (R126). -/
def flushTiny (v : W32) : W32 :=
  if v.toNat / 2 ^ 23 % 256 = 0 then v &&& 0x80000000 else v

/-- FP32 subnormals taken as zero of the same sign (R126). -/
def zeroTiny (v : W32) : W32 := flushTiny v

/-- `vexp` (R95, R127); `pick` chooses within the bound. -/
def fexp (pick : Nat) (x : W32) : W32 :=
  match f32 x with
  | .nan => toF32 .nan
  | .inf s => if s then 0 else toF32 (.inf false)
  | .fin s m e =>
    if x.toNat / 2 ^ 23 % 256 = 0 then 0x3F800000
    else flushTiny (toF32 (expCore s m e pick))

/-- `vrcp` (R95, R127). -/
def frcp (pick : Nat) (x : W32) : W32 :=
  match f32 (zeroTiny x) with
  | .nan => toF32 .nan
  | .inf s => if s then 0x80000000 else 0
  | .fin s m e =>
    if m = 0 then toF32 (.inf s)
    else flushTiny (if s then toF32 (rcpCore m e pick) ||| 0x80000000 else toF32 (rcpCore m e pick))

/-- `vrsqrt` (R95, R127). -/
def frsqrt (pick : Nat) (x : W32) : W32 :=
  match f32 (zeroTiny x) with
  | .nan => toF32 .nan
  | .inf s => if s then toF32 .nan else 0
  | .fin s m e =>
    if m = 0 then toF32 (.inf s)
    else if s then toF32 .nan
    else flushTiny (toF32 (rsqrtCore m e pick))

end Sys2Proof
end

