-- ==== Sys2Proof/Machine/Convert.lean ====
section
/-! DEFINITION. Conversions between number formats (R118, R120–R125), bushel (R130–R133) and grain coding
(R134–R137). -/

namespace Sys2Proof

/-- The class of a conversion's input (R121). -/
inductive CClass where
  | nonfinite | overflowed | vanished | ordinary
deriving DecidableEq, Repr

/-- What the range counters are told of one conversion: its class and the exponent of a finite, non-zero scaled
input (R139). -/
structure CEvent where
  cls : CClass
  peak : Option Int
deriving DecidableEq, Repr

/-- A format to which a conversion goes: a float or a two's-complement integer. -/
inductive DFmt where
  | flt (f : FFmt)
  | int8
  | int32
deriving DecidableEq, Repr

/-- The result of one conversion: the code, the class, and whether an E2M1 element turns its block's scale
into 0xFF (R122). -/
structure Conv where
  code : Nat
  cls : CClass
  poisonScale : Bool := false
deriving DecidableEq, Repr

/-- m · 2^e rounded to the nearest integer, ties to even. -/
def roundInt (m : Nat) (e : Int) : Nat :=
  if 0 ≤ e then m * 2 ^ e.toNat else rne m (-e).toNat

/-- What an overflowed or infinite input gives (R122). -/
def satCode (f : FFmt) (nfp neg : Bool) : Nat :=
  match f with
  | .e4m3 => if nfp then f.nanCode else f.signed neg f.maxCode
  | .e2m1 => f.signed neg f.maxCode
  | _ => f.signed neg (if nfp then f.infCode else f.maxCode)

/-- What an infinity gives in a strictly wider float, where it keeps its kind whatever nfp is (R123). -/
def wideInf (f : FFmt) (neg : Bool) : Nat := f.signed neg f.infCode

/-- Convert an exact scaled value to a float (R120–R123). `wider`: the destination is strictly wider than the source
or the source is INT8. `margin`: an overflow is the rounding margin of a chosen block scale (R124). -/
def convFloat (f : FFmt) (nfp wider margin : Bool) : FVal → Conv
  | .nan => { code := if f = .e2m1 then 0 else f.nanCode, cls := .nonfinite, poisonScale := f = .e2m1 && nfp }
  | .inf s =>
    { code := if wider then wideInf f s else satCode f nfp s, cls := .nonfinite, poisonScale := f = .e2m1 && nfp }
  | .fin s m e =>
    let mag := f.magCode (roundSig f.mbits f.emin m e)
    if mag > f.maxCode then
      { code := if margin then f.signed s f.maxCode else satCode f nfp s, cls := .overflowed,
        poisonScale := f = .e2m1 && nfp && !margin }
    else if mag = 0 ∧ m ≠ 0 then { code := f.signed s 0, cls := .vanished }
    else { code := f.signed s mag, cls := .ordinary }

/-- Convert an exact scaled value to a two's-complement integer of `bits` bits (R125). -/
def convInt (bits : Nat) : FVal → Conv
  | .nan => { code := 0, cls := .nonfinite }
  | .inf s => { code := if s then 2 ^ (bits - 1) else 2 ^ (bits - 1) - 1, cls := .nonfinite }
  | .fin s m e =>
    let n := roundInt m e
    if s then
      if n > 2 ^ (bits - 1) then { code := 2 ^ (bits - 1), cls := .overflowed }
      else { code := (2 ^ bits - n) % 2 ^ bits, cls := if n = 0 ∧ m ≠ 0 then .vanished else .ordinary }
    else
      if n > 2 ^ (bits - 1) - 1 then { code := 2 ^ (bits - 1) - 1, cls := .overflowed }
      else { code := n, cls := if n = 0 ∧ m ≠ 0 then .vanished else .ordinary }

/-- Convert an exact scaled value (R120–R125). -/
def convTo (d : DFmt) (nfp wider : Bool) (v : FVal) : Conv :=
  match d with
  | .flt f => convFloat f nfp wider false v
  | .int8 => convInt 8 v
  | .int32 => convInt 32 v

/-- The event that one conversion is to the range counters (R139). -/
def convEvent (v : FVal) (c : CClass) : CEvent := { cls := c, peak := v.exponent }

/-- The value of a two's-complement integer of `bits` bits. -/
def intVal (bits n : Nat) : FVal :=
  if n < 2 ^ (bits - 1) then .fin false n 0 else .fin true (2 ^ bits - n) 0

/-- emax of a block-scaled format (R124). -/
def FFmt.emax : FFmt → Int
  | .e4m3 => 8 | .e5m2 => 15 | .e2m1 => 2 | _ => 0

/-- The value of an E8M0 block scale (R118): `none` is not-a-number. -/
def e8m0 (code : Nat) : Option Int := if code % 256 = 255 then none else some ((code % 256 : Nat) - 127)

/-- An element times its block's scale (R118). -/
def FVal.blockScaled (v : FVal) (scale : Nat) : FVal :=
  match e8m0 scale with
  | none => .nan
  | some x => v.scale x

/-- The larger of two exact values, both finite and not negative. -/
def FVal.larger (a b : FVal) : FVal := if a.lt b then b else a

/-- The largest magnitude among the finite values of a block; zero where there is none. -/
def blockMax (vs : List FVal) : FVal :=
  vs.foldl (fun acc v => match v with
    | .fin _ m e => acc.larger (.fin false m e)
    | _ => acc) (.fin false 0 0)

/-- The shared exponent of a block before it is clamped (R124): `none` for a block without a finite non-zero input. -/
def blockExp (f : FFmt) (vs : List FVal) : Option Int := (blockMax vs).exponent.map (fun x => x - f.emax)

/-- An exponent clamped to −127…127. -/
def clampExp (x : Int) : Int := max (-127) (min 127 x)

/-- Convert a block of exact scaled inputs to a block-scaled format (R124): the element codes with their classes, and
the scale code. -/
def convBlock (f : FFmt) (nfp : Bool) (vs : List FVal) : List Conv × Nat :=
  let x := blockExp f vs
  let k := clampExp (x.getD 0)
  let clamped := match x with
    | some y => decide (127 < y)
    | none => false
  let cs := vs.map (fun v => convFloat f nfp false (!clamped) (v.scale (-k)))
  let scale := if cs.any (fun c => c.poisonScale) then 255 else (k + 127).toNat
  (cs, scale)

/-! ## Bushel -/

/-- The bushel integer that stands for a non-finite value (R130). -/
def poison : Word := 0x8000000000000000#64

/-- The bushel integer that a contribution adds, with its class (R131). -/
def toBushel (e : BitVec 8) (v : FVal) : Word × CClass :=
  match v with
  | .nan => (poison, .nonfinite)
  | .inf _ => (poison, .nonfinite)
  | .fin s m x =>
    let n := roundInt m (x + 39 - e.toInt)
    let sgn (k : Nat) : Word := if s then -(BitVec.ofNat 64 k) else BitVec.ofNat 64 k
    if 2 ^ 39 ≤ n then (sgn (2 ^ 39 - 1), .overflowed)
    else if n = 0 ∧ m ≠ 0 then (0, .vanished)
    else (sgn n, .ordinary)

/-- Bushel addition (R132). A sum outside 64 bits needs more than 2^24 contributions; the spec gives no result there,
and the sum is a free value of its operands (DEDUCED, log entry 13). -/
def bushelAdd (a b : Word) : Word :=
  if a = poison ∨ b = poison then poison
  else if a.toInt + b.toInt < -2 ^ 63 ∨ 2 ^ 63 ≤ a.toInt + b.toInt then Config.bushelOver a b
  else a + b

/-- The exact value of a bushel element (R130, R133). -/
def bushelVal (e : BitVec 8) (n : Word) : FVal :=
  if n = poison then .nan
  else (intVal 64 n.toNat).scale (e.toInt - 39)

/-! ## Grain coding -/

/-- Combine neighbours: one level of a fixed tree. -/
def pairUp {α : Type} (f : α → α → α) : List α → List α
  | a :: b :: l => f a b :: pairUp f l
  | l => l

/-- A fixed tree of `levels` levels over a list, `d` for an empty one. -/
def treeOf {α : Type} (f : α → α → α) (d : α) : Nat → List α → α
  | 0, l => l.headD d
  | n + 1, l => treeOf f d n (pairUp f l)

/-- A BF16 code whose exponent field is all ones (R135). -/
def isEscape (s : Nat) : Bool := decide (s / 2 ^ 7 % 256 = 255)

/-- The escape code for element b (R135). -/
def escapeCode (b : Nat) : Nat := (b / 128 % 2) * 2 ^ 15 + 255 * 2 ^ 7 + b % 128

/-- The element that an escape code names. -/
def escapeElem (s : Nat) : Nat := (s / 2 ^ 15 % 2) * 128 + s % 128

/-- A BF16 code as an FP32 register. -/
def bf16Up (s : Nat) : W32 := BitVec.ofNat 32 (s % 2 ^ 16 * 2 ^ 16)

/-- The corrected values c[k] of a grain block (R135). -/
def grainCorrect (e : BitVec 8) (g err : List W32) : List W32 :=
  List.zipWith (fun x y => toF32 (((f32 x).scale e.toInt).add (f32 y))) g err

/-- The tree sum t of a grain block (R135). -/
def grainTree (c : List W32) : W32 :=
  treeOf fadd 0 8 (c.map (fun x => toF32 ((f32 (fabs x)).scale (-8))))

/-- What grain-coding one block gives (R135, R137). -/
structure GrainOut where
  /-- sign bits in element order -/
  bits : List Bool
  /-- the scale, a BF16 code -/
  scale : Nat
  /-- the new error memory -/
  err : List W32
  /-- conversions to count, by class -/
  nonfinite : Nat
  overflowed : Nat
  vanished : Nat
  /-- exponents of the finite non-zero corrected values -/
  peaks : List Int
deriving DecidableEq, Repr

/-- Grain-code the corrected values of one block (R135, R137). -/
def grainCode (c : List W32) : GrainOut :=
  let peaks := c.filterMap (fun x => (f32 x).exponent)
  let bad := (c.filter (fun x => !(f32 x).isFinite)).length
  if bad = 0 then
    let r := convFloat .bf16 false false false (f32 (grainTree c))
    let bits := c.map (fun x => (f32 x).lt (.fin false 0 0))
    let s := bf16Up r.code
    { bits := bits, scale := r.code,
      err := List.zipWith (fun x b => fsub x (if b then s ^^^ 0x80000000#32 else s)) c bits,
      nonfinite := 0, overflowed := if r.cls = .overflowed then 256 else 0,
      vanished := if r.code = 0 then peaks.length else 0, peaks := peaks }
  else
    { bits := c.map (fun _ => false), scale := escapeCode (c.findIdx (fun x => !(f32 x).isFinite)),
      err := c.map (fun x => if (f32 x).isFinite then x else 0),
      nonfinite := bad, overflowed := 0, vanished := 0, peaks := peaks }

/-- Eight sign bits as a byte, element 8i + j in bit j (R134). -/
def packBits (bs : List Bool) : Byte := BitVec.ofNat 8 (bs.foldr (fun b acc => b2n b + 2 * acc) 0)

/-- The 34 bytes of a grain block (R134). -/
def grainBytes (o : GrainOut) : List Byte := (chunks 8 o.bits).map packBits ++ leBytes 2 o.scale

/-- The value that element k of a grain block contributes (R136). -/
def grainElem (scale : Nat) (neg : Bool) (k : Nat) : FVal :=
  if isEscape scale then (if escapeElem scale = k then .nan else .fin false 0 0)
  else
    let v := FFmt.bf16.decode scale
    if neg then v.negate else v

end Sys2Proof
end

