-- ==== Sys2Proof/Machine/Sparse.lean ====
section
/-! DEFINITION. Reading and writing sparse arrays. `SMap.put` keeps the canonical form of an array of bytes: indexes
strictly rising and no entry equal to its default. -/

namespace Sys2Proof

/-- The value listed at an index. -/
def SMap.find? {α : Type} : SMap α → Nat → Option α
  | [], _ => none
  | (i, v) :: m, k => if i = k then some v else SMap.find? m k

/-- The value at an index, `d` where none is listed. -/
def SMap.get {α : Type} (d : α) (m : SMap α) (k : Nat) : α := (SMap.find? m k).getD d

/-- The array with `v` listed at `k`. -/
def SMap.set {α : Type} : SMap α → Nat → α → SMap α
  | [], k, v => [(k, v)]
  | (i, w) :: m, k, v =>
    if k < i then (k, v) :: (i, w) :: m
    else if k = i then (k, v) :: m
    else (i, w) :: SMap.set m k v

/-- The array with nothing listed at `k`. -/
def SMap.erase {α : Type} (m : SMap α) (k : Nat) : SMap α := m.filter (fun p => p.1 != k)

/-- Write `v` at `k` in an array whose unlisted value there is `d`: nothing stays listed that equals it. -/
def SMap.put {α : Type} [DecidableEq α] (d : α) (m : SMap α) (k : Nat) (v : α) : SMap α :=
  if v = d then SMap.erase m k else SMap.set m k v

/-- Change the value at `k`. -/
def SMap.modify {α : Type} (d : α) (m : SMap α) (k : Nat) (f : α → α) : SMap α :=
  SMap.set m k (f (SMap.get d m k))

/-- Nothing listed at an index from `lo` to `hi - 1`. -/
def SMap.clear {α : Type} (m : SMap α) (lo hi : Nat) : SMap α :=
  m.filter (fun p => p.1 < lo || hi ≤ p.1)

/-- Indexes strictly rising, from `lo` on. -/
def SMap.risesFrom {α : Type} : Nat → SMap α → Bool
  | _, [] => true
  | lo, (i, _) :: m => decide (lo ≤ i) && SMap.risesFrom (i + 1) m

/-- Indexes strictly rising. -/
def SMap.rises {α : Type} (m : SMap α) : Bool := SMap.risesFrom 0 m

end Sys2Proof
end

