-- ==== Sys2Proof/Machine/State.lean ====
section
/-! DEFINITION. The state of the block, as plain data, and the state right after reset.
Sparse arrays (`SMap`) list only what differs from the reset value of an entry. -/

namespace Sys2Proof.Machine

/-- What a strand is blocked on (R234). -/
inductive Wait where
  | none
  /-- a `twait`: the tally, the value and the status register -/
  | twait (addr value : Word) (sd : BitVec 5)
  /-- a `kwait`: the keystone object, the round and the status register -/
  | kwait (addr round : Word) (sd : BitVec 5)
  /-- a `karr` whose home has not replied: the keystone object and the round register -/
  | karr (addr : Word) (sd : BitVec 5)
deriving DecidableEq, Repr


/-- One hardware thread of a core (R23, R67). -/
structure Strand where
  /-- instruction pointer (02 R23, R24; 64). Reset: DESIGN CHOICE (log entry 3). -/
  ip : Word := 0
  /-- S1–S31 (S0 is hard-wired zero, never stored) (03 R67; 31 × 64). Reset: DESIGN CHOICE (log entry 3). -/
  regs : SMap Word := []
  /-- remote status bits [1:0] (03 R105; 2). Reset: DESIGN CHOICE (log entry 3). -/
  rstat : BitVec 2 := 0
  /-- the strand has executed cend in this course (02 R60 at_end, 03 R84; 1). -/
  atEnd : Bool := false
  /-- what the strand is blocked on (07 R234, 02 R60 waiting; 32 B record). -/
  wait : Wait := .none
deriving DecidableEq, Repr

/-- A tile's fill mark (R71). -/
structure Mark where
  /-- format code of the last write (03 R71; 4). -/
  fmt : BitVec 4 := 0
  /-- 64, 128 or 256 B (03 R71; 2). -/
  pitch : BitVec 2 := 0
  /-- bytes written in each row (03 R71; 9). -/
  width : BitVec 9 := 0
  /-- rows written; 0 is an empty mark (03 R71; 7). -/
  rows : BitVec 7 := 0
deriving DecidableEq, Repr

/-- The weight latches of one half of one array (R29, R37, R90). -/
structure Latch where
  /-- recorded format, none when cleared (03 R90; 4 + valid). -/
  fmt : Option (BitVec 4) := none
  /-- recorded depth Kw (03 R90; 8). -/
  kw : Nat := 0
  /-- weight bytes; column j of the half at 64·j (02 R29, R31; 32 × 64 B). -/
  w : SMap Byte := []
  /-- block scales; column j segment s at 4·j + s (02 R31; 32 × 4 B). -/
  scales : SMap Byte := []
  /-- tile named by the awld that filled the latches (02 R43; 5). -/
  tile : Nat := 0
  /-- that tile's write count at the awld (02 R43, 03 R75; 8). -/
  count : BitVec 8 := 0
deriving DecidableEq, Repr

/-- An amm in the array queue or streaming (R35, R41). -/
structure AmmOp where
  /-- issue order of class A instructions (02 R35, R40; MODEL). -/
  seq : Nat := 0
  /-- issuing strand (02 R35; 2). -/
  strand : Nat := 0
  /-- feed mode and arrays (03 R89; 4). -/
  target : BitVec 4 := 0
  /-- ZERO mode (03 R88; 1). -/
  zero : Bool := false
  /-- activation format (03 R78; 4). -/
  fmt : BitVec 4 := 0
  /-- elements of a row that take part (03 R91; 8). -/
  k : Nat := 0
  /-- bank row offset (02 R39; 8). -/
  boff : Nat := 0
  /-- activation rows as the tile held them at issue (03 R91; n × 64 B). -/
  rows : List (List Byte) := []
  /-- activation scales of those rows (03 R70; n × 4 B). -/
  scales : List (List Byte) := []
  /-- the instruction has already counted as a misfit (03 R110; 1). -/
  mis : Bool := false
  /-- the families differ: nothing is written (03 R91; 1). -/
  void : Bool := false
  /-- next row of the stream (02 R41; 7). -/
  next : Nat := 0
deriving DecidableEq, Repr

/-- An abrd in the bank readout path (R40, R92). -/
structure RdOp where
  /-- issue order (02 R40; MODEL). -/
  seq : Nat := 0
  /-- issuing strand (02 R40; 2). -/
  strand : Nat := 0
  /-- destination register (03 R88; 8). -/
  vd : Nat := 0
  /-- bank row (03 R88; 8). -/
  row : Nat := 0
  /-- output format (03 R92; 4). -/
  ofmt : BitVec 4 := 0
  /-- set the row to +0 after reading (03 R88; 1). -/
  clr : Bool := false
  /-- propagate non-finite values (03 R88; 1). -/
  nfp : Bool := false
  /-- signed scale exponent (03 R88; 8). -/
  e : BitVec 8 := 0
  /-- range counter group (03 R88; 6). -/
  group : BitVec 6 := 0
deriving DecidableEq, Repr

/-- A latch-fault retry in progress (R43). -/
structure Retry where
  /-- the suppressed amm (02 R43; -). -/
  op : AmmOp := {}
  /-- affected halves 2a + h (02 R42; 8 bits). -/
  halves : List Nat := []
  /-- first suppressed row (02 R43; 7). -/
  fromRow : Nat := 0
deriving DecidableEq, Repr

/-- Filler state of one array (R46). -/
structure Filler where
  /-- eighths of full filler density, 0 is idle (02 R46; 4). -/
  density : Nat := 0
  /-- ramping down (02 R46; 1). -/
  ramp : Bool := false
deriving DecidableEq, Repr

/-- An entry of the array queue (R35). -/
inductive AEntry where
  | amm (op : AmmOp)
  /-- an awld that waits its turn: the new shadow latches of the halves it names -/
  | wld (seq : Nat) (latches : List (Nat × Latch))
  /-- an aflip: the halves (numbers 2a + h) that have not swapped yet -/
  | flip (seq : Nat) (halves : List Nat)
  /-- an abrd that the queue has not yet handed to the bank readout path (R40) -/
  | rd (op : RdOp)
deriving DecidableEq, Repr

/-- A tload or tstore in progress (R86, R87). -/
inductive TileOp where
  /-- tload: strand, tile, fill mark, and the tile bytes read -/
  | load (strand tile : Nat) (mark : Mark) (data : List (Nat × Byte))
  /-- tstore: strand, and the scratchpad bytes to write -/
  | store (strand : Nat) (data : List (Nat × Byte))
deriving DecidableEq, Repr


/-- The vector register file and its tile view (R68). -/
structure RegFile where
  /-- V0–V255, register n byte b at 512·n + b (03 R68; 131,072 B). -/
  bytes : SMap Byte := []
  /-- fill marks of T0–T31 (03 R71; 32 × 32). -/
  marks : SMap Mark := []
  /-- write counts of T0–T31 (03 R75; 32 × 8). -/
  wcnt : SMap (BitVec 8) := []
deriving DecidableEq, Repr

/-- The four arrays, the array queue and the accumulation bank of a core (R29–R46). -/
structure ArrayUnit where
  /-- FP32 entries, (i, j) at 256·i + j (02 R38; 65,536 × 32). -/
  bank : SMap W32 := []
  /-- shadow latches of half 2a + h (02 R29; 8 halves). -/
  shadow : SMap Latch := []
  /-- active latches of half 2a + h (02 R29; 8 halves). -/
  active : SMap Latch := []
  /-- reuse latch of each array: last row and scales (03 R76; 4 × 68 B). -/
  reuse : SMap (List Byte) := []
  /-- the array queue in issue order (02 R23, R35; 8 entries). -/
  queue : List AEntry := []
  /-- amm instructions streaming (02 R41; -). -/
  stream : List AmmOp := []
  /-- the bank readout path (02 R40; 8 entries). -/
  readout : List RdOp := []
  /-- retries in progress (02 R43; -). -/
  retries : List Retry := []
  /-- next issue number (02 R35; MODEL). -/
  seq : Nat := 0
  /-- filler state of A0–A3 (02 R46; 4). -/
  fillers : SMap Filler := []
  /-- CORE_LATCH_FAULT total (02 R62; 16). -/
  lfTotal : BitVec 16 := 0
  /-- lost_count (02 R62; 8). -/
  lfLostCount : BitVec 8 := 0
  /-- in_course (02 R62; 4). -/
  lfInCourse : BitVec 4 := 0
  /-- lost (W1C) (02 R62; 1). -/
  lfLost : Bool := false
  /-- marked (02 R62, R45; 1). -/
  lfMarked : Bool := false
deriving DecidableEq, Repr

/-- A copy descriptor (R189, R190). -/
structure CopyDesc where
  /-- generation (06 R190; 4). -/
  gen : BitVec 4 := 0
  /-- PLAIN, TRANSPOSE, CONVERT, GRAIN, GATHER (06 R190; 4). -/
  kind : BitVec 4 := 0
  /-- source format (06 R190; 4). -/
  srcFmt : BitVec 4 := 0
  /-- destination format (06 R190; 4). -/
  dstFmt : BitVec 4 := 0
  /-- bushel source (06 R190; 1). -/
  bushel : Bool := false
  /-- clear the source (06 R190; 1). -/
  clr : Bool := false
  /-- non-finite propagation (06 R190; 1). -/
  nfp : Bool := false
  /-- latency-critical reads (06 R190; 1). -/
  cls : Bool := false
  /-- no allocation in the read buffer (06 R190; 1). -/
  nofill : Bool := false
  /-- count conversions (06 R190; 1). -/
  grpEn : Bool := false
  /-- range counter group (06 R190; 6). -/
  group : BitVec 6 := 0
  /-- scale exponent, signed (06 R190; 8). -/
  e : BitVec 8 := 0
  /-- bushel exponent of the source (06 R190; 8). -/
  bexp : BitVec 8 := 0
  /-- advance the tally (06 R190; 1). -/
  tallyEn : Bool := false
  /-- some reserved bit is set (06 R190, R8; 1). -/
  rsv : Bool := false
  /-- source address (06 R189; 64). -/
  src : Word := 0
  /-- destination address (06 R189; 64). -/
  dst : Word := 0
  /-- bytes between source rows (06 R189; 32). -/
  srcPitch : Nat := 0
  /-- bytes between destination rows (06 R189; 32). -/
  dstPitch : Nat := 0
  /-- source rows m (06 R189; 32). -/
  rows : Nat := 0
  /-- elements (or bytes) per source row n (06 R189; 32). -/
  cols : Nat := 0
  /-- completion tally (06 R189; 64). -/
  tally : Word := 0
  /-- scales, error memory or index list (06 R189; 64). -/
  aux : Word := 0
  /-- bytes between scale rows (06 R189; 32). -/
  scalePitch : Nat := 0
deriving DecidableEq, Repr

/-- One of a core's 16 copy slots (R188). -/
structure CopySlot where
  /-- issuing strand (06 R188; 2). -/
  strand : Nat := 0
  /-- the descriptor as read at issue (06 R188; 64 B). -/
  desc : CopyDesc := {}
  /-- the source bytes by memory key as they stood at issue (05 R148; MODEL). -/
  old : List (Nat × Byte) := []
deriving DecidableEq, Repr

/-- One target of a remote operation (R208, R229). -/
structure Branch where
  /-- destination at this target (07 R228; 64). -/
  dst : Word := 0
  /-- ACKs or responses outstanding (07 R213; 32). -/
  acksLeft : Nat := 0
  /-- final run, kept until every earlier run has its ACK (07 R208; -). -/
  held : List Packet := []
  /-- the hold has been counted (07 R229; 1). -/
  holdCounted : Bool := false
deriving DecidableEq, Repr

/-- One of an engine's remote slots (R206). -/
structure RemSlot where
  /-- opcode of the operation (07 R206; 8). -/
  op : BitVec 8 := 0
  /-- issuing strand (07 R206; 2). -/
  strand : Nat := 0
  /-- completion tally at 8·ct; 0 names none (03 R101; 18). -/
  ct : BitVec 18 := 0
  /-- its targets (07 R229; -). -/
  branches : List Branch := []
  /-- a multicast (07 R228; 1). -/
  mc : Bool := false
  /-- some target ended with PEER_ABSENT (07 R245; 1). -/
  absent : Bool := false
  /-- get: scratchpad offset of its first byte (07 R209; 21). -/
  ret : Nat := 0
  /-- get: its length (03 R102; 64). -/
  len : Nat := 0
deriving DecidableEq, Repr

/-- The last K_RELEASE received for one keystone (R226). -/
structure KRel where
  /-- keystone object (07 R226; 64). -/
  obj : Word := 0
  /-- round closed (07 R226; 64). -/
  round : Word := 0
deriving DecidableEq, Repr

/-- A core's copy and remote engine (R188, R206). -/
structure Engine where
  /-- copies in progress, by slot (06 R188; 16 slots). -/
  copies : SMap CopySlot := []
  /-- remote operations in progress, by slot (07 R206; 32 slots). -/
  remotes : SMap RemSlot := []
  /-- keystone releases kept, newest first (07 R226; 16). -/
  krel : List KRel := []
  /-- tload and tstore instructions in progress (03 R86, R87; -). -/
  tops : List TileOp := []
deriving DecidableEq, Repr

/-- A core's state (R60). -/
inductive CoreState where
  | idle | running | done | edge | parked | held | doneFault | reset
deriving DecidableEq, Repr


/-- An entry of CORE_COURSE_LOG (R65). -/
structure CourseEntry where
  /-- CORE_CYCLE at release (02 R65; 64). -/
  start : Word := 0
  /-- low bits of the course number (02 R65; 24). -/
  course : BitVec 24 := 0
  /-- context run (02 R65; 3). -/
  ctx : BitVec 3 := 0
  /-- done came after the time edge (02 R65; 1). -/
  overrun : Bool := false
  /-- no context was named (02 R65; 1). -/
  idle : Bool := false
  /-- cc from start to done (02 R65; 32). -/
  busy : W32 := 0
deriving DecidableEq, Repr

/-- What a core runs and reports (R49–R66). -/
structure CoreRun where
  /-- CORE_STATUS state, reset 0x7 (02 R60; 4). -/
  state : CoreState := .reset
  /-- state kept while parked or frozen for a replay (14 R446; 4). -/
  before : CoreState := .reset
  /-- context running or last run (02 R60; 3). -/
  ctx : BitVec 3 := 0
  /-- the registers hold the context (02 R52; MODEL). -/
  holds : Bool := false
  /-- bit n: context n is loaded (12 R406; 8). -/
  loaded : BitVec 8 := 0
  /-- core clock count at the release of the core's last reset (02 R61; 64). -/
  clkBase : Nat := 0
  /-- CORE_CYCLE at release for this course (03 R83 course_start; 64). -/
  start : Word := 0
  /-- misfit counter (03 R111; 32). -/
  misfit : W32 := 0
  /-- misfits of the present course (03 R111; 32). -/
  misfitCourse : W32 := 0
  /-- a lost latch fault occurred in this course (02 R44; 1). -/
  faulted : Bool := false
  /-- CORE_COURSE_HEAD newest, reset 0xF (02 R64; 4). -/
  head : BitVec 4 := 0xF
  /-- CORE_COURSE_LOG (02 R65; 16 × 128). -/
  clog : SMap CourseEntry := []
  /-- CORE_CTX_TIME (02 R66; 8 × 64). -/
  ctxTime : SMap Word := []
  /-- CORE_CTX_COURSES (02 R66; 8 × 64). -/
  ctxCourses : SMap Word := []
  /-- spare position that runs the core (02 R54, R59; 7). -/
  spare : Option Nat := none
  /-- an uncorrected SRAM word was met (11 R358; 1). -/
  sramBad : Bool := false
deriving DecidableEq, Repr

/-- A logical core (R23). -/
structure Core where
  /-- strands 0–3 (02 R23; 4). -/
  strands : SMap Strand := []
  /-- vector registers and tiles (03 R68; -). -/
  regs : RegFile := {}
  /-- arrays and bank (02 R29; -). -/
  arr : ArrayUnit := {}
  /-- copy and remote engine (06 R188; -). -/
  eng : Engine := {}
  /-- run state and reports (02 R49; -). -/
  run : CoreRun := {}
deriving DecidableEq, Repr

/-- An entry or a wait at a keystone (R224, R226). -/
structure KMember where
  /-- module of the arriving engine (07 R209; 12). -/
  module : BitVec 12 := 0
  /-- its unit (07 R209; 10). -/
  unit : BitVec 10 := 0
  /-- its tag (07 R209; 6). -/
  tag : BitVec 6 := 0
  /-- round waited for (07 R226; 64). -/
  round : Word := 0
deriving DecidableEq, Repr

/-- A keystone slot (R222, R246). -/
structure KSlot where
  /-- memory key of the object it serves (07 R222; 64). -/
  obj : Word := 0
  /-- scope (07 R221; 2). -/
  scope : BitVec 2 := 0
  /-- broken (07 R232; 1). -/
  broken : Bool := false
  /-- local round complete, awaiting the chain home (07 R246; 1). -/
  chainPending : Bool := false
  /-- open round (07 R221; 64). -/
  round : Word := 0
  /-- address of the module mask (07 R221; 64). -/
  chainMask : Word := 0
  /-- participants (07 R221; 576). -/
  parts : BitVec 576 := 0
  /-- arrived for the open round (07 R221; 576). -/
  cur : BitVec 576 := 0
  /-- arrived for the next round (07 R221; 576). -/
  nxt : BitVec 576 := 0
  /-- held entries, oldest first (07 R224; -). -/
  held : List KMember := []
  /-- registered kwait instructions (07 R226; -). -/
  waiters : List KMember := []
deriving DecidableEq, Repr

/-- A cluster's controller (R240). -/
structure Cluster where
  /-- keystone slots bound (07 R222; 16). -/
  slots : SMap KSlot := []
  /-- karr and kwait waiting for a slot (07 R222; -). -/
  stalled : List Packet := []
  /-- CLU_KS_STALLS (07 R242; 64). -/
  stalls : Word := 0
  /-- CLU_BROKEN clm (07 R243; 1). -/
  brokenClm : Bool := false
  /-- CLU_BROKEN spad (07 R243; 8). -/
  brokenSpad : BitVec 8 := 0
  /-- CLU_BROKEN_EVENTS (07 R243; 64). -/
  brokenEvents : Word := 0
  /-- FULL answers sent (07 R244; 32). -/
  full : W32 := 0
  /-- most records in use since the last read (RC) (07 R244; 9). -/
  peak : BitVec 9 := 0
  /-- CLU_MC_HOLD (07 R245; 64). -/
  mcHold : Word := 0
  /-- CLU_ABSENT (07 R245; 64). -/
  absent : Word := 0
  /-- an uncorrected cluster-memory word was met (11 R358; 1). -/
  sramBad : Bool := false
deriving DecidableEq, Repr

/-- A request in a pseudo-channel's queue (R180). -/
structure PchReq where
  /-- arrival time at the plinth die, in plc (06 R180; 64). -/
  arrival : Nat := 0
  /-- fast-tier offset of its atom (06 R175; 46). -/
  offset : Nat := 0
  /-- a write (06 R179; 1). -/
  write : Bool := false
  /-- does not allocate in the read buffer (06 R178; 1). -/
  nofill : Bool := false
deriving DecidableEq, Repr

/-- A pseudo-channel of the fast tier (R174, R387). -/
structure Pch where
  /-- latency-critical queue, promoted requests included (06 R180; 64). -/
  crit : List PchReq := []
  /-- bulk queue (06 R180; 256). -/
  bulk : List PchReq := []
  /-- requests that found their queue full (06 R180; -). -/
  ingress : List (Bool × PchReq) := []
  /-- a re-read is in progress (11 R355; 1). -/
  reread : Bool := false
  /-- retrain in progress (11 R387; 1). -/
  retraining : Bool := false
  /-- retrains failed in a row (11 R355; 2). -/
  fails : Nat := 0
  /-- uncorrected reads (11 R387; 16). -/
  uncorrected : BitVec 16 := 0
  /-- retrains (11 R387; 16). -/
  retrains : BitVec 16 := 0
  /-- corrected reads in the present ft_window (11 R387; 16). -/
  window : BitVec 16 := 0
  /-- corrected reads since cold start (11 R387; 64). -/
  corrected : Word := 0
deriving DecidableEq, Repr

/-- A range counter slot (R143). -/
structure RangeSlot where
  /-- values converted (04 R143; 64). -/
  converted : Word := 0
  /-- overflowed (04 R143; 64). -/
  overflowed : Word := 0
  /-- vanished (04 R143; 64). -/
  vanished : Word := 0
  /-- non-finite (04 R143; 32). -/
  nonfinite : W32 := 0
  /-- largest exponent, 0x8000 for none (04 R143; 16). -/
  peak : BitVec 16 := 0x8000
deriving DecidableEq, Repr

/-- The fast tier's registers (R198). -/
structure FastTier where
  /-- FT_FACE_BASE0 base, in granules (06 R204; 37). -/
  base0 : BitVec 37 := 0
  /-- FT_FACE_BASE1 base (06 R204; 37). -/
  base1 : BitVec 37 := 0
  /-- FT_FACE_LEN len (06 R204; 37). -/
  len : BitVec 37 := 0
  /-- FT_FACE_STATE valid (06 R204; 1). -/
  faceValid : Bool := false
  /-- FT_FACE_STATE parity (06 R204; 1). -/
  parity : Bool := false
  /-- PCh retired, ascending (FT_PCH_LIVE) (06 R203; 512 bits). -/
  retired : List Nat := []
  /-- retired PCh that the installed table leaves out (06 R175, R184; 512 bits). -/
  installed : List Nat := []
  /-- tables installed since cold start (06 R201; 16). -/
  rebuilds : BitVec 16 := 0
  /-- CLU_BROKEN ft: the fast tier is a broken home (07 R243; 1). -/
  broken : Bool := false
  /-- the fast tier is in self-refresh (14 R445; 1). -/
  selfRefresh : Bool := false
  /-- pseudo-channels (06 R174; 512). -/
  pchs : SMap Pch := []
  /-- FT_RANGE_SLOT[g][f] at 9·g + f (04 R140; 64 × 9 × 256). -/
  range : SMap RangeSlot := []
  /-- read buffers: atoms held in each set, most recent first (06 R178; 8 × 64 MiB). -/
  rbuf : SMap (List Nat) := []
deriving DecidableEq, Repr

/-- A wait record at a tally's home (R217, R218). -/
structure WaitRec where
  /-- memory key of the tally (07 R217; 52). -/
  key : Nat := 0
  /-- value awaited (07 R217; 64). -/
  value : Word := 0
  /-- module of the waiting engine (07 R217; 12). -/
  module : BitVec 12 := 0
  /-- its unit (07 R217; 10). -/
  unit : BitVec 10 := 0
  /-- its tag (07 R217; 6). -/
  tag : BitVec 6 := 0
deriving DecidableEq, Repr

/-- A run whose last packet its landing agent has met (R212). -/
structure Landing where
  /-- the agent: core, cluster, issuing engine or quoin port (07 R212; 10). -/
  agent : Nat := 0
  /-- the run's packet with last = 1 (07 R212; -). -/
  pkt : Packet := {}
  /-- waits for the ACK of its signal's TADD, sent with this tag (07 R213; 6). -/
  sigWait : Option Nat := none
deriving DecidableEq, Repr

/-- A packet on its way inside the module (R171, R266). -/
structure Flight where
  /-- the packet (07 R209; -). -/
  pkt : Packet := {}
  /-- links crossed so far (08 R251; 6). -/
  hops : Nat := 0
  /-- the link by which it came, none for a packet of this module (07 R212, 08 R253; 4). -/
  link : Option Nat := none
  /-- credits of that link that its buffer holds (08 R253; 12). -/
  credits : Nat := 0
  /-- the address that a GET_RESP of this module answers (06 R171; MODEL). -/
  source : Option Word := none
deriving DecidableEq, Repr

/-- Packets in flight and the agents that land them. -/
structure Net where
  /-- packets in flight, oldest first (07 R207; -). -/
  flight : List Flight := []
  /-- write confirmations in flight (07 R212; -). -/
  confirms : List Confirm := []
  /-- confirmations that the landing agents have received and not yet used (07 R212; -). -/
  got : List Confirm := []
  /-- runs being landed, in the order in which their last packets came (07 R212; -). -/
  landings : List Landing := []
  /-- wait records at homes of this module (07 R218; 64 / 256 / 1,024 per home). -/
  waits : List WaitRec := []
  /-- registrations that a strand (4c + t) has sent, modulo 16: they tell its WAKEs apart (07 R234; MODEL). -/
  waitGen : SMap (BitVec 4) := []
  /-- WAIT_REG packets answered FULL, to be sent again (07 R218; -). -/
  resend : List Packet := []
  /-- replies to karr in flight (07 R224; -). -/
  replies : List KReply := []
  /-- packets waiting for a route (08 R267; -). -/
  routeWait : List Flight := []
  /-- chain home: (object, round, module) K_CHAIN received (07 R227; -). -/
  chainRounds : List (Nat × Nat × Nat) := []
deriving DecidableEq, Repr

/-- A bucket entry in force (R301). -/
structure Bucket where
  /-- index in the reduction block (09 R301; 10). -/
  idx : Nat := 0
  /-- count conversions (09 R301; 1). -/
  grpEn : Bool := false
  /-- range counter group (09 R301; 6). -/
  group : BitVec 6 := 0
  /-- bushel exponent (09 R301; 8). -/
  e : BitVec 8 := 0
  /-- fast-tier offset of element 0 (09 R301; 46). -/
  base : Nat := 0
  /-- bushel elements (09 R301; 40). -/
  elements : Nat := 0
deriving DecidableEq, Repr

/-- A fragment of an ACC packet at a front or an adder (R295). -/
structure Frag where
  /-- mortar adder (09 R293; 4). -/
  adder : Nat := 0
  /-- its front: plinth die 0–7, or 8 + quoin die (09 R295; 4). -/
  front : Nat := 0
  /-- it waits in its front's queue, not yet at the adder (09 R298; 1). -/
  waiting : Bool := false
  /-- when it reached the adder, in plc (09 R296; 64). -/
  arrival : Nat := 0
  /-- the packet it belongs to (its number below) (09 R295; MODEL). -/
  pkt : Nat := 0
  /-- fast-tier offset of its first element, or of its granule (09 R295; 46). -/
  offset : Nat := 0
  /-- grain: starting byte within the block (09 R309; 6). -/
  skip : Nat := 0
  /-- its source bytes (09 R295; 0–256 B). -/
  body : List Byte := []
deriving DecidableEq, Repr

/-- An ACC packet whose fragments are being added (R295). -/
structure AccPkt where
  /-- number (09 R295; MODEL). -/
  num : Nat := 0
  /-- its header (09 R295; -). -/
  pkt : Packet := {}
  /-- fragments not yet added (09 R295; 9). -/
  left : Nat := 0
  /-- already counted as mismatched (09 R304; 1). -/
  mismatch : Bool := false
  /-- already counted as undeclared (09 R304; 1). -/
  undeclared : Bool := false
deriving DecidableEq, Repr

/-- The reduction block in force (R299). -/
structure RedBlock where
  /-- fast-tier offset (09 R299; 46). -/
  offset : Nat := 0
  /-- entries taken, in index order (09 R303; 1,024). -/
  buckets : List Bucket := []
deriving DecidableEq, Repr

/-- A sent or received ledger (R311). -/
structure Ledger where
  /-- sum of CRC-64 values (09 R311; 64). -/
  sum : Word := 0
  /-- packets (09 R311; 64). -/
  count : Word := 0
deriving DecidableEq, Repr

/-- Mortar fronts, adders, ledgers and the reduction block. -/
structure Mortar where
  /-- fragments queued at fronts and adders, in order of entry (09 R298; 2,048 per adder, 256 per front and adder). -/
  frags : List Frag := []
  /-- first halves of split grain blocks (09 R310; 256 per adder). -/
  joins : List Frag := []
  /-- packets not yet confirmed (09 R295; -). -/
  packs : List AccPkt := []
  /-- next packet number (09 R295; MODEL). -/
  nextNum : Nat := 0
  /-- block in force (09 R299; 192 KiB). -/
  red : Option RedBlock := none
  /-- the block is being read (09 R302; 1). -/
  loading : Bool := false
  /-- sent ledgers by peer (09 R311; 4,095 × 16 B). -/
  sent : SMap Ledger := []
  /-- received ledgers by peer (09 R311; 4,095 × 16 B). -/
  recv : SMap Ledger := []
  /-- ledger epoch (09 R313; 64). -/
  epoch : Word := 0
deriving DecidableEq, Repr

/-- A flit in a replay buffer (R254). -/
structure TxFlit where
  /-- sequence number (08 R250; 16). -/
  seq : BitVec 16 := 0
  /-- kind: 0 DATA, 2 CTRL (08 R250; 2). -/
  kind : BitVec 2 := 0
  /-- the link that a CTRL flit is for (08 R252; 4). -/
  on : Option Nat := none
  /-- its body, zero bytes after it (08 R249; 488 B). -/
  body : List Byte := []
  /-- the link packet it carries; none for CTRL (08 R251; 512 B). -/
  pkt : Option Flight := none
deriving DecidableEq, Repr

/-- Errors of one lane (R287). -/
structure LaneErr where
  /-- segment CRC failures since cold start (08 R287; 32). -/
  total : W32 := 0
  /-- failures in the present window (08 R287; 16). -/
  window : BitVec 16 := 0
deriving DecidableEq, Repr

/-- What a link, or a bond as a whole, keeps to send and receive (R250–R254, R263). -/
structure LinkCh where
  /-- next sequence number to send (08 R250; 16). -/
  txSeq : BitVec 16 := 0
  /-- next sequence number expected (08 R254; 16). -/
  rxSeq : BitVec 16 := 0
  /-- flits not yet acknowledged, oldest first (08 R254; 1,024). -/
  replayBuf : List TxFlit := []
  /-- link messages that wait for room in the replay buffer: the link, the first 8 bytes (08 R254; MODEL). -/
  ctlWait : List (Nat × Word) := []
  /-- consecutive replays without ack advance (08 R255; 5). -/
  failed : Nat := 0
  /-- request credits in use (08 R253; 12). -/
  usedReq : Nat := 0
  /-- response credits in use (08 R253; 12). -/
  usedRsp : Nat := 0
  /-- request credits to return (08 R253; 12). -/
  retReq : Nat := 0
  /-- response credits to return (08 R253; 12). -/
  retRsp : Nat := 0
  /-- a nak is to be sent (08 R254; 1). -/
  nakDue : Bool := false
  /-- sequenced flits accepted since an ack was last sent (08 R254; 6). -/
  sinceAck : Nat := 0
  /-- body bytes of an unfinished link packet (08 R251; -). -/
  rxBytes : List Byte := []
  /-- header stored for each stream received (08 R251; 256). -/
  streams : SMap Packet := []
  /-- header of the last packet sent on each stream in use (08 R251; 256). -/
  txStreams : SMap Packet := []
  /-- flits sent, for the rotation over a bond's members (08 R263; MODEL). -/
  turn : Nat := 0
deriving DecidableEq, Repr

/-- An Evrok link (R282). -/
structure Link where
  /-- link state (08 R283; 4). -/
  state : BitVec 4 := 0
  /-- cause of DOWN or FAILED (08 R283; 4). -/
  cause : BitVec 4 := 0
  /-- lane rate (08 R283; 2). -/
  rate : BitVec 2 := 0
  /-- lanes in use (08 R283; 4). -/
  width : BitVec 4 := 0
  /-- negotiated generation (08 R283; 4). -/
  gen : BitVec 4 := 0
  /-- lowest link of the bond, 0xF for none (08 R283; 4). -/
  bond : BitVec 4 := 0xF
  /-- partner address known (08 R284; 1). -/
  pValid : Bool := false
  /-- partner address (08 R284; 13). -/
  pAddr : BitVec 13 := 0
  /-- partner's link number (08 R284; 4). -/
  pLink : BitVec 4 := 0
  /-- LNK_PARTNER_CAP (08 R284; 64). -/
  pCap : Word := 0
  /-- cable type (08 R285; 4). -/
  cableType : BitVec 4 := 0
  /-- cable length (08 R285; 14). -/
  lengthCm : BitVec 14 := 0
  /-- insertion loss (08 R285; 8). -/
  loss : BitVec 8 := 0
  /-- long passive cable (08 R285; 1). -/
  longPassive : Bool := false
  /-- CRC-16 of the cable's serial number (08 R285; 16). -/
  serialTag : BitVec 16 := 0
  /-- lanes retired (08 R286; 8). -/
  retired : BitVec 8 := 0
  /-- lanes in use (08 R286; 8). -/
  live : BitVec 8 := 0
  /-- lanes locked (08 R286; 8). -/
  locked : BitVec 8 := 0
  /-- LNK_LANE_ERR (08 R287; 8 × 48). -/
  laneErr : SMap LaneErr := []
  /-- LNK_REPLAYS (08 R287; 64). -/
  replays : Word := 0
  /-- LNK_RETRAINS (08 R287; 64). -/
  retrains : Word := 0
  /-- has trained since the cable came (08 R282; 1). -/
  trained : Bool := false
  /-- its sequence space, replay buffer, credits and streams (08 R250–R254; -). -/
  ch : LinkCh := {}
  /-- at width 4 for shedding step S3 (14 R445; 1). -/
  limited : Bool := false
deriving DecidableEq, Repr

/-- A route table entry (R265). -/
structure Route where
  /-- links on the shortest path (08 R288; 4). -/
  hops : Nat := 0
  /-- first-hop links (08 R288; 12). -/
  links : BitVec 12 := 0
deriving DecidableEq, Repr

/-- A reported link of the topology (R270). -/
structure TopoEdge where
  /-- reporting address (08 R270; 13). -/
  addr : Nat := 0
  /-- its link (08 R270; 4). -/
  link : Nat := 0
  /-- partner address (08 R270; 13). -/
  partner : Nat := 0
deriving DecidableEq, Repr

/-- Links, cages and routing. -/
structure Links where
  /-- links 0–11 (08 R282; 12). -/
  links : SMap Link := []
  /-- cages that hold a cable (15 R474; 6). -/
  cage : BitVec 6 := 0
  /-- cages whose supply is cut (15 R475; 6). -/
  cut : BitVec 6 := 0
  /-- LNK_ROUTE (08 R288; 4,096 × 16). -/
  routes : SMap Route := []
  /-- links reported UP (08 R265; -). -/
  topo : List TopoEdge := []
  /-- links reported down since they were last reported UP (08 R274; -). -/
  downs : List TopoEdge := []
  /-- retired lanes recorded: link, lane, serial tag (08 R262; 64 entries). -/
  retiredLanes : List (Nat × Nat × Nat) := []
  /-- last insertion loss measured at 26.5625 GHz (08 R257; 8). -/
  lossAtHalf : BitVec 8 := 0
deriving DecidableEq, Repr

/-- The chain port (R289). -/
structure Chain where
  /-- chain address (08 R290; 13). -/
  addr : BitVec 13 := 0
  /-- the module holds an address (08 R290; 1). -/
  addrValid : Bool := false
  /-- head (08 R290; 1). -/
  head : Bool := false
  /-- tail (08 R290; 1). -/
  tail : Bool := false
  /-- chain_full (08 R290; 1). -/
  full : Bool := false
  /-- own ready (08 R290; 1). -/
  ready : Bool := false
  /-- RDY received from downstream (08 R290; 1). -/
  rdyIn : Bool := false
  /-- port state (08 R290; 4). -/
  port : BitVec 4 := 0
  /-- REF is heard on CHAIN IN: a chain is there (08 R269; 1). -/
  inCable : Bool := false
  /-- a cable is on CHAIN OUT (08 R269; 1). -/
  outCable : Bool := false
  /-- clocks locked to REF (08 R269, 13 R435; 1). -/
  refLocked : Bool := false
  /-- cumulative delay in ps (08 R291; 32). -/
  c : W32 := 0
  /-- hop delay in ps (08 R291; 32). -/
  h : W32 := 0
  /-- a DELAY pass has given c since the port spliced (08 R281; 1). -/
  cMeasured : Bool := false
  /-- edge delay D in 10 ns (08 R291; 24). -/
  d : BitVec 24 := 0
  /-- a COMP's time and D, to adopt at a mark 5 ms later (08 R280; 64 + 24). -/
  newD : Option (Nat × BitVec 24) := none
  /-- CHN_TIME in 10 ns (08 R291; 64). -/
  time : Nat := 0
  /-- CHN_EDGES (08 R291; 64). -/
  edges : Word := 0
  /-- CHN_FRAME_ERR (08 R291; 64). -/
  frameErr : Word := 0
  /-- enumerations (08 R292; 16). -/
  enums : BitVec 16 := 0
  /-- splices (08 R292; 16). -/
  splices : BitVec 16 := 0
  /-- ABSENT frames received (08 R292; 16). -/
  absents : BitVec 16 := 0
  /-- head changes (08 R292; 16). -/
  headChanges : BitVec 16 := 0
  /-- addresses the head has broadcast ABSENT for (08 R268; 4,095 bits). -/
  declared : List Nat := []
  /-- head: addresses held on the chain (08 R273; 4,095 bits). -/
  granted : List Nat := []
  /-- head: the nonce of each JOIN_REQ that it granted and the address, to know a repeat (08 R270, R273; MODEL). -/
  joined : List (BitVec 19 × Nat) := []
  /-- new head: addresses that replied HERE (08 R269; 4,095 bits). -/
  here : List Nat := []
  /-- a census is in progress (08 R269; 1). -/
  census : Bool := false
  /-- head: largest cumulative delay of the last pass (08 R280; 32). -/
  maxC : W32 := 0
  /-- head: time of the previous mark (08 R278; 64). -/
  tsPrev : Nat := 0
  /-- Ts of the mark whose edge is to be applied (08 R279; 64). -/
  mark : Option Nat := none
  /-- time edge of the present course (08 R277; 64). -/
  te : Nat := 0
  /-- time of the last applied edge (08 R277; 64). -/
  lastEdge : Nat := 0
  /-- next frame sequence number (08 R270; 8). -/
  seqTx : BitVec 8 := 0
  /-- last downstream frames seen (08 R270; -). -/
  seqSeen : List (BitVec 4 × BitVec 8) := []
  /-- own upstream frames awaiting ACK, with sends made (08 R270; -). -/
  unacked : List (Frame × Nat) := []
  /-- nonce of the JOIN_REQ in progress (08 R270; 19). -/
  nonce : BitVec 19 := 0
  /-- the bypass is closed (08 R275; 1). -/
  bypass : Bool := true
  /-- time of the last TOPO frame of a change (08 R265; 64). -/
  topoAt : Option Nat := none
deriving DecidableEq, Repr

/-- An update descriptor (R323). -/
structure Desc where
  /-- M, A, S or T (10 R323; 2). -/
  rule : BitVec 2 := 0
  /-- frozen (10 R323; 1). -/
  frozen : Bool := false
  /-- Mason (10 R323; 2). -/
  mason : Nat := 0
  /-- bushel exponent (10 R323; 8). -/
  e : BitVec 8 := 0
  /-- n (10 R323; 40). -/
  count : Nat := 0
  /-- bucket element 0 (10 R323; 64). -/
  bucket : Word := 0
  /-- bucket tally (10 R323; 64). -/
  bktTally : Word := 0
  /-- its value (10 R323; 64). -/
  bktValue : Word := 0
  /-- scale slot (10 R323; 64). -/
  scaleSlot : Word := 0
  /-- scale tally (10 R323; 64). -/
  scaleTally : Word := 0
  /-- its value (10 R323; 64). -/
  scaleValue : Word := 0
  /-- offset within a face buffer (10 R323; 46). -/
  face : Nat := 0
  /-- target list (10 R323; 64). -/
  targets : Word := 0
  /-- face-arrival tally (10 R323; 64). -/
  arrival : Word := 0
  /-- slow-tier offset of the group block (10 R323; 40). -/
  recOff : Nat := 0
  /-- constant (10 R323; 32). -/
  eta : W32 := 0
  /-- constant (10 R323; 32). -/
  lam : W32 := 0
  /-- constant (10 R323; 32). -/
  beta1 : W32 := 0
  /-- constant (10 R323; 32). -/
  beta2 : W32 := 0
  /-- constant (10 R323; 32). -/
  eps : W32 := 0
  /-- constant (10 R323; 32). -/
  c1 : W32 := 0
  /-- constant (10 R323; 32). -/
  c2 : W32 := 0
deriving DecidableEq, Repr

/-- The pass a group is in (R326). -/
inductive GroupPhase where
  /-- rule pass in progress -/
  | rule
  /-- rule T: rule pass ended, trust pass to start -/
  | trustDue
  /-- trust pass in progress -/
  | trust
  /-- carry of a frozen group in progress (R330) -/
  | carry
  /-- multicast issued, its own branch not landed -/
  | sent
  /-- face pass in progress -/
  | face
  /-- face pass ended, waiting for the last ACKs -/
  | ending
deriving DecidableEq, Repr


/-- A group whose face multicast or face pass is in progress (R326). -/
structure GroupRun where
  /-- group-table index (10 R325; 12). -/
  idx : Nat := 0
  /-- its descriptor (10 R326; 128 B). -/
  desc : Desc := {}
  /-- the pass it is in (10 R326; 3). -/
  phase : GroupPhase := .rule
  /-- lift being written (10 R326; 64). -/
  lift : Word := 0
  /-- rule T: sw (10 R328; 32). -/
  sw : W32 := 0
  /-- rule T: sd (10 R328; 32). -/
  sd : W32 := 0
  /-- gradient scale read at its start (10 R324, 01 R15; 32). -/
  scale : W32 := 0
  /-- policy ZERO_POISONED, read at its start (01 R20, 10 R327; 1). -/
  zeroBad : Bool := false
  /-- target modules read at its start; none for a list that is not valid (10 R322, 07 R228; 4,095 bits). -/
  ids : Option (List Nat) := none
  /-- engine slot of its multicast, while it lasts (10 R326; 6). -/
  slot : Option Nat := none
  /-- the branch to its own module has landed (10 R326; 1). -/
  ownLanded : Bool := false
  /-- its face pass has ended (10 R326; 1). -/
  faceDone : Bool := false
  /-- every branch has its ACK (10 R326; 1). -/
  acked : Bool := false
  /-- part of a re-face, which writes no slow tier (11 R369; 1). -/
  reface : Bool := false
deriving DecidableEq, Repr

/-- A Mason (R316, R351). -/
structure Mason where
  /-- group table: descriptors with their list index (10 R322; 1 MiB). -/
  table : List (Nat × Desc) := []
  /-- next group to start (10 R325; 12). -/
  next : Nat := 0
  /-- group-table index of the current group (10 R351; 12). -/
  index : BitVec 12 := 0
  /-- what the Mason waits for (10 R351; 4). -/
  wait : BitVec 4 := 0
  /-- state (10 R351; 4). -/
  state : BitVec 4 := 0
  /-- MSN_UNIT_DONE (10 R351; 64). -/
  done : Word := 0
  /-- MSN_UNIT_FROZEN (10 R351; 64). -/
  frozen : Word := 0
  /-- MSN_UNIT_NONFINITE (10 R351; 64). -/
  nonfinite : Word := 0
  /-- stopped by a fault (10 R346; 1). -/
  stopped : Bool := false
  /-- groups in progress, oldest first (10 R325; -). -/
  runs : List GroupRun := []
  /-- its engine's remote operations, by tag (07 R209; 64). -/
  slots : SMap RemSlot := []
deriving DecidableEq, Repr

/-- A slow-tier channel (R352). -/
structure Chan where
  /-- in use (10 R352; 1). -/
  live : Bool := true
  /-- retrain in progress (10 R352; 1). -/
  retraining : Bool := false
  /-- a retry read is in progress (10 R345; 1). -/
  retry : Bool := false
  /-- retrainings failed in a row (10 R345; 2). -/
  fails : Nat := 0
  /-- uncorrected reads (10 R352; 16). -/
  uncorrected : BitVec 16 := 0
  /-- retrainings (10 R352; 16). -/
  retrains : BitVec 16 := 0
  /-- corrected words in the present window (10 R352; 16). -/
  window : BitVec 16 := 0
  /-- corrected words since cold start (10 R352; 64). -/
  corrected : Word := 0
deriving DecidableEq, Repr

/-- The lift controller and lift header (R332, R333). -/
structure Lift where
  /-- MSN_LIFT (10 R349; 64). -/
  closed : Word := 0
  /-- closed_valid (10 R349; 1). -/
  closedValid : Bool := false
  /-- open_state (10 R349; 2). -/
  openState : BitVec 2 := 0
  /-- prev_intact (10 R349; 1). -/
  prevIntact : Bool := false
  /-- pins_closed, those of pin commands and drains (10 R349; 16). -/
  pinsClosed : BitVec 16 := 0
  /-- pins_prev (10 R349; 16). -/
  pinsPrev : BitVec 16 := 0
  /-- lift on which a drain holds a pin (10 R343; 64). -/
  drainPin : Option Word := none
  /-- MSN_MIRROR_OUT, all ones for none (10 R350; 64). -/
  mirroredOut : Word := 0xFFFFFFFFFFFFFFFF
  /-- MSN_MIRROR_IN, all ones for none (10 R350; 64). -/
  receivedIn : Word := 0xFFFFFFFFFFFFFFFF
  /-- header sequence number (10 R332; 64). -/
  seq : Word := 0
  /-- update for L+1 in progress (10 R322; -). -/
  updTaken : Option Cmd := none
  /-- its descriptors not yet complete (10 R325; 13). -/
  updLeft : Nat := 0
  /-- some descriptor completed with writes (10 R334; 1). -/
  updWrote : Bool := false
  /-- lift_close for L+1 whose action has started (10 R15, R16; -). -/
  closeCmd : Option Cmd := none
  /-- a dirty verdict met SKIP_STEP (01 R20; 1). -/
  skipped : Bool := false
  /-- descriptors copied for each taken update whose action has not started (10 R322; 128 B each). -/
  updCopies : List (Cmd × List Desc) := []
deriving DecidableEq, Repr

/-- A mirror block in force (R338). -/
structure MirrorBlk where
  /-- mirror closed lifts to the partner (10 R338; 1). -/
  outEn : Bool := false
  /-- accept a mirror from the source (10 R338; 1). -/
  inEn : Bool := false
  /-- partner (10 R338; 12). -/
  partner : BitVec 12 := 0
  /-- source (10 R338; 12). -/
  source : BitVec 12 := 0
  /-- partner's ring (10 R338; 64). -/
  outRing : Word := 0
  /-- free tally on this module (10 R338; 64). -/
  outFree : Word := 0
  /-- this module's ring (10 R338; 64). -/
  inRing : Word := 0
  /-- this module's full tally (10 R338; 64). -/
  inFull : Word := 0
  /-- the source's free tally (10 R338; 64). -/
  inFree : Word := 0
  /-- mirror region (10 R338; 40). -/
  inRegion : Nat := 0
  /-- bytes in each mirror slot (10 R338; 40). -/
  inSlot : Nat := 0
  /-- base of out_free (10 R338; 64). -/
  outBase : Word := 0
  /-- base of in_full (10 R338; 64). -/
  inBase : Word := 0
deriving DecidableEq, Repr

/-- A mirror being sent (R339). -/
structure MirrorJob where
  /-- its command (10 R339; -). -/
  cmd : Cmd := {}
  /-- lift sent (10 R339; 64). -/
  lift : Word := 0
  /-- image bytes sent (10 R339; 40). -/
  offset : Nat := 0
  /-- image bytes (10 R339; 40). -/
  image : Nat := 0
  /-- completion tally when it started (10 R340; 64). -/
  doneBase : Word := 0
  /-- the last chunk has been sent (10 R339; 1). -/
  allSent : Bool := false
  /-- RETURN: its own chunk count (10 R485; 64). -/
  count : Nat := 0
  /-- RETURN: base of its free tally (10 R485; 64). -/
  freeBase : Word := 0
deriving DecidableEq, Repr

/-- A drain or restore in progress (R342, R350). -/
structure Xfer where
  /-- MSN_XFER kind (10 R350; 2). -/
  kind : BitVec 2 := 0
  /-- bytes moved (10 R350; 48). -/
  bytes : BitVec 48 := 0
  /-- the drain or restore in progress (10 R343; -). -/
  cmd : Option Cmd := none
  /-- the drain in progress (12 R408; -). -/
  drain : Option Cmd := none
  /-- RESTORE PARTNER: the last chunk has been written (10 R344; 1). -/
  chunksDone : Bool := false
  /-- RESTORE PARTNER: the face planes are written (10 R344; 1). -/
  facesDone : Bool := false
  /-- RESTORE PARTNER: face halves still to get: Mason, slow-tier offset, source, bytes (10 R344; -). -/
  faceWork : List (Nat × Nat × Word × Nat) := []
deriving DecidableEq, Repr

/-- Masons, lifts and the slow tier (R347). -/
structure MasonBlk where
  /-- Masons 0–3 (10 R316; 4). -/
  units : SMap Mason := []
  /-- channels 0–15 (10 R352; 16). -/
  chans : SMap Chan := []
  /-- lift controller (10 R333; -). -/
  lift : Lift := {}
  /-- mirror block in force (10 R338; 256 B). -/
  blk : Option MirrorBlk := none
  /-- mirror OUT in progress (10 R339; -). -/
  out : Option MirrorJob := none
  /-- taken mirror OUT commands waiting to start (10 R341; -). -/
  outWait : List Cmd := []
  /-- mirror RETURN in progress (12 R400; -). -/
  ret : Option MirrorJob := none
  /-- taken mirror RETURN commands, with the free tally's value when each was taken (10 R485; -). -/
  retBases : List (Cmd × Word) := []
  /-- the latest mirror of the closed lift has completed (10 R341; 1). -/
  mirrorDone : Bool := false
  /-- the latest mirror OUT taken for the closed lift (10 R341; MODEL). -/
  mirrorLast : Option Cmd := none
  /-- chunks sent (10 R485; 64). -/
  kOut : Nat := 0
  /-- chunks taken (10 R485; 64). -/
  kIn : Nat := 0
  /-- image taken whole, not yet recorded: a mirror (else a restore), lift, done tally (10 R340; -). -/
  recv : Option (Bool × Word × Word) := none
  /-- a chunk of the image being taken was discarded (10 R340; 1). -/
  recvBad : Bool := false
  /-- drain and restore (10 R350; -). -/
  xfer : Xfer := {}
  /-- LPDDR5X held in self-refresh (14 R445; 1). -/
  selfRefresh : Bool := false
deriving DecidableEq, Repr

/-- A work list (R418). -/
structure WorkList where
  /-- ring base, in 4 KiB (12 R418; 34). -/
  base : BitVec 34 := 0
  /-- enabled (12 R418; 1). -/
  enable : Bool := false
  /-- size_log2 (12 R418; 5). -/
  k : BitVec 5 := 0
  /-- doorbell tally, in 8 B (12 R418; 43). -/
  tally : BitVec 43 := 0
  /-- commands fetched since enable (12 R418; 64). -/
  consumed : Word := 0
deriving DecidableEq, Repr

/-- A notifier (R419). -/
structure Notifier where
  /-- tally watched (12 R419; 64). -/
  addr : Word := 0
  /-- value awaited, 0 when not armed (12 R419; 64). -/
  value : Word := 0
  /-- tag of its registration (12 R413; MODEL). -/
  reg : Option (BitVec 6) := none
deriving DecidableEq, Repr

/-- A status ring entry (R419). -/
structure RingEntry where
  /-- 1 once written (12 R419; 4). -/
  gen : BitVec 4 := 0
  /-- opcode (12 R419; 8). -/
  opcode : BitVec 8 := 0
  /-- sub (12 R419; 4). -/
  sub : BitVec 4 := 0
  /-- reason (12 R411; 8). -/
  reason : BitVec 8 := 0
  /-- state when refused (12 R419; 4). -/
  state : BitVec 4 := 0
  /-- work list (12 R419; 3). -/
  list : BitVec 3 := 0
  /-- tag (12 R419; 32). -/
  tag : W32 := 0
  /-- command number (12 R419; 64). -/
  index : Word := 0
deriving DecidableEq, Repr

/-- A host port (R414). -/
structure Port where
  /-- PCIe link up (12 R417; 1). -/
  up : Bool := false
  /-- link width (12 R417; 5). -/
  width : BitVec 5 := 0
  /-- link speed (12 R417; 3). -/
  speed : BitVec 3 := 0
  /-- flit mode (12 R417; 1). -/
  flit : Bool := false
  /-- PERST# asserted (15 R473; 1). -/
  perst : Bool := false
  /-- log2 of the BAR2 size, 512 GiB at reset (12 R389; 6). -/
  bar2Log : Nat := 39
  /-- HST_AP_BASE base, in GiB (12 R417; 16). -/
  apBase : BitVec 16 := 0
  /-- entries written (12 R417; 64). -/
  ringHead : Word := 0
  /-- commands taken (12 R417; 32). -/
  taken : W32 := 0
  /-- status entries written (12 R417; 32). -/
  refused : W32 := 0
  /-- work lists 0–7 (12 R418; 8 × 256). -/
  lists : SMap WorkList := []
  /-- notifiers 8–63 (12 R419; 56 × 128). -/
  notify : SMap Notifier := []
  /-- where the search for the next notifier's tag begins (12 R413; MODEL). -/
  nextTag : BitVec 6 := 0
  /-- status ring (12 R419; 64 × 128). -/
  ring : SMap RingEntry := []
  /-- MSI-X enabled by the host (12 R412; 1). Reset: DESIGN CHOICE (log entry 3). -/
  msixEn : Bool := false
  /-- MSI-X function mask (12 R412; 1). Reset: PRESUMED, the PCI standard's (log entry 110). -/
  maskAll : Bool := false
  /-- the function is in D3hot (12 R389; 1). Reset: PRESUMED, the PCI standard's (log entry 110). -/
  d3 : Bool := false
  /-- AER uncorrectable error status (12 R389; 32). Reset: PRESUMED, the PCI standard's (log entry 110). -/
  aerU : W32 := 0
  /-- AER correctable error status (12 R389; 32). Reset: PRESUMED, the PCI standard's (log entry 110). -/
  aerC : W32 := 0
  /-- this assertion of PERST# has its module reset (12 R390, 15 R473; MODEL). -/
  perstDone : Bool := false
  /-- MSI-X table bytes, listed where they differ from `msixReset` (12 R389; 1,024 B). Reset: PRESUMED, every vector
  masked, the PCI standard's (log entry 110). -/
  msix : SMap Byte := []
  /-- pending bits (12 R412; 64). -/
  pba : BitVec 64 := 0
  /-- port engine's operations, by tag (12 R394; 64). -/
  slots : SMap RemSlot := []
  /-- idled by shedding (14 R447; 1). -/
  idle : Bool := false
deriving DecidableEq, Repr

/-- The module's states (R407). -/
inductive ModState where
  | unset | set | running | held | rewinding | failed
deriving DecidableEq, Repr


/-- A taken run (R404). -/
structure RunPlan where
  /-- its command (12 R404; -). -/
  cmd : Cmd := {}
  /-- load the program table (12 R404; 1). -/
  load : Bool := false
  /-- leave RUNNING after the last course (12 R404; 1). -/
  last : Bool := false
  /-- course length in 10 ns (12 R404; 24). -/
  courseLen : Nat := 0
  /-- schedule entries (12 R404; 16). -/
  period : Nat := 0
  /-- courses covered (12 R404; 32). -/
  courses : Nat := 0
  /-- course number of the first, NOW resolved (12 R401; 64). -/
  first : Word := 0
  /-- start time, 0 for the next edge (12 R400; 64). -/
  start : Word := 0
  /-- module mask (12 R404; 64). -/
  jobMask : Word := 0
  /-- schedule offset (12 R404; 46). -/
  schedule : Nat := 0
  /-- program table offset (12 R404; 46). -/
  programs : Nat := 0
  /-- program table entries (12 R404; 13). -/
  progCount : Nat := 0
  /-- face_base0 in bytes (12 R404; 64). -/
  base0 : Word := 0
  /-- face_base1 (12 R404; 64). -/
  base1 : Word := 0
  /-- face_len (12 R404; 64). -/
  len : Word := 0
  /-- reduction block (12 R404; 46). -/
  red : Option Nat := none
  /-- its action has started (12 R406; 1). -/
  active : Bool := false
deriving DecidableEq, Repr

/-- The outcome of one suspect (R378). -/
structure Suspect where
  /-- logical core (11 R378; 10). -/
  core : Nat := 0
  /-- context (11 R378; 3). -/
  ctx : BitVec 3 := 0
  /-- outcome (11 R378; 4). -/
  outcome : BitVec 4 := 0
  /-- as in CORE_STATUS (11 R378; 4). -/
  atEnd : BitVec 4 := 0
  /-- as in CORE_STATUS (11 R378; 4). -/
  waiting : BitVec 4 := 0
  /-- kinds of the wait records (11 R378; 16). -/
  kinds : BitVec 16 := 0
  /-- cc from release to done (11 R378; 64). -/
  busy : Word := 0
  /-- instruction pointers (11 R378; 4 × 64). -/
  ips : List Word := []
  /-- addresses and values awaited (11 R378; 8 × 64). -/
  waits : List Word := []
deriving DecidableEq, Repr

/-- A suspect replay in progress (R376). -/
structure Replay where
  /-- its command (11 R376; -). -/
  cmd : Cmd := {}
  /-- course C (11 R376; 64). -/
  course : Word := 0
  /-- limit in 10 ns (11 R376; 64). -/
  limit : Nat := 0
  /-- suspects not yet replayed, ascending (11 R377; 576). -/
  left : List Nat := []
  /-- suspect being replayed (11 R377; 10). -/
  current : Option Nat := none
  /-- the module has quiesced and the suspects are known (11 R376; 1). -/
  begun : Bool := false
  /-- chain time at its release (11 R377; 64). -/
  beganAt : Nat := 0
  /-- outcomes recorded (11 R378; 576). -/
  done : List Suspect := []
deriving DecidableEq, Repr

/-- A rewind in progress or completed (R367, R369). -/
structure Rewind where
  /-- its command, none for a shed STOP (11 R367; -). -/
  cmd : Option Cmd := none
  /-- a RESUME, else a STOP (11 R369; 1). -/
  resume : Bool := false
  /-- lift R (11 R366; 64). -/
  lift : Word := 0
  /-- a shed STOP (14 R449; 1). -/
  shed : Bool := false
  /-- arrival tally (11 R368; 64). -/
  arrival : Word := 0
  /-- its value (11 R368; 64). -/
  arrivalValue : Word := 0
deriving DecidableEq, Repr

/-- The module's state machine and its work (R407). -/
structure Job where
  /-- module state: UNSET right after reset (12 R407; 4). -/
  st : ModState := .unset
  /-- state to return to from a SHEDDING hold (14 R448; 4). -/
  prior : ModState := .set
  /-- hold causes that stand, first first (11 R359; 4 + counts). -/
  holds : List (BitVec 4) := []
  /-- STOP commands completed (12 R415; 16). -/
  stops : BitVec 16 := 0
  /-- RESUME commands completed (12 R415; 16). -/
  resumes : BitVec 16 := 0
  /-- run commands taken and not ended, in order (12 R404; -). -/
  runs : List RunPlan := []
  /-- the job's course number (03 R83 course; 64). -/
  course : Word := 0
  /-- closed lift that the courses compute from, as of the last flip (03 R83, 06 R182; 64). Reset: DESIGN CHOICE (log entry 3). -/
  lift : Word := 0
  /-- last course the module has run since its start (12 R401; 64). -/
  ran : Option Word := none
  /-- a course is open (12 R401; 1). -/
  isOpen : Bool := false
  /-- commands taken whose action has not started (12 R397; -). -/
  taken : List Cmd := []
  /-- commands past the check whose effect is next (12 R401; -). -/
  started : List Cmd := []
  /-- list the rotation looks at first (8·port + list) (12 R397; 4). -/
  rot : Nat := 0
  /-- rewind in progress (12 R408; -). -/
  rewind : Option Rewind := none
  /-- lift R of the last completed STOP (11 R369; 64). -/
  stopLift : Option Word := none
  /-- suspect_replay in progress (12 R408; -). -/
  replay : Option Replay := none
  /-- re_enumerate in progress (12 R408; -). -/
  reenum : Option Cmd := none
  /-- its REENUM has come: the addresses are dropped (08 R272; 1). -/
  reenumHeard : Bool := false
  /-- dump command in progress (11 R379; -). -/
  dump : Option Cmd := none
  /-- strands frozen by a hold or a STOP (11 R359; 1). -/
  frozen : Bool := false
  /-- Masons stopped by a hold or a STOP (11 R359; 1). -/
  masonStop : Bool := false
  /-- cluster group parked (14 R446; 2). -/
  parked : Option Nat := none
  /-- group to park first (14 R446; 2). -/
  parkNext : Nat := 0
deriving DecidableEq, Repr

/-- An update request whose flash work is in progress (R462, R467). -/
inductive UpdReq where
  | begin (target : BitVec 4)
  | write (chunk : Nat) (bytes : Nat)
  | verify
  /-- an abort that waits until the slots may be written -/
  | abort (result : BitVec 4)
deriving DecidableEq, Repr

/-- The firmware and image update session (R462, R467). -/
structure Upd where
  /-- version of the last image verified (14 R467; 32). -/
  version : W32 := 0
  /-- state (14 R467; 4). -/
  state : BitVec 4 := 0
  /-- result (14 R467; 4). -/
  result : BitVec 4 := 0
  /-- owner (14 R467; 4). -/
  owner : BitVec 4 := 0
  /-- target (14 R467; 4). -/
  target : BitVec 4 := 0
  /-- chunks written (14 R467; 8). -/
  chunks : BitVec 8 := 0
  /-- PLB_UPD_BUF (14 R465; 64 KiB). -/
  buf : SMap Byte := []
  /-- request whose flash work is in progress (14 R467; -). -/
  busy : Option UpdReq := none
  /-- PLB_UPTIME count of the last request (14 R462; 64). -/
  lastReq : Nat := 0
deriving DecidableEq, Repr

/-- A temperature point (R466). -/
structure Temp where
  /-- highest since the last read (RC) (14 R466; 16). -/
  peak : BitVec 16 := 0x8000
  /-- latest reading (14 R466; 16). -/
  now : BitVec 16 := 0x8000
deriving DecidableEq, Repr

/-- A rail (R466). -/
structure Rail where
  /-- voltage (14 R466; 16). -/
  mv : BitVec 16 := 0
  /-- current (14 R466; 16). -/
  amps : BitVec 16 := 0
  /-- highest current since the last read (RC) (14 R466; 16). -/
  peak : BitVec 16 := 0
deriving DecidableEq, Repr

/-- A run-time spare replacement (R54, R458). -/
structure Replacement where
  /-- die (14 R458; 3). -/
  die : Nat := 0
  /-- grid position (14 R458; 7). -/
  grid : Nat := 0
  /-- spare position (14 R458; 7). -/
  spare : Nat := 0
deriving DecidableEq, Repr

/-- A lifetime log record in flash (R457, R458). -/
structure LogRec where
  /-- counts by record offset (14 R458; 256 KiB). Reset: DESIGN CHOICE (log entry 3). -/
  log : SMap Nat := []
  /-- run-time spare replacements (14 R458; 32). Reset: DESIGN CHOICE (log entry 3). -/
  replacements : List Replacement := []
  /-- kind, unit, minute, serial tag (14 R458; 64). Reset: DESIGN CHOICE (log entry 3). -/
  retirements : List (Nat × Nat × Nat × Nat) := []
  /-- chain address held (14 R458; 13). Reset: DESIGN CHOICE (log entry 3). -/
  logAddr : Option Nat := none
  /-- fail cause and the powered time, in 10 ns, at which it was set (14 R458; 4 + 64). Reset: DESIGN CHOICE (log entry 3). -/
  logFail : Option (BitVec 4 × Nat) := none
  /-- sequence number (14 R457; 64). Reset: DESIGN CHOICE (log entry 3). -/
  logSeq : Nat := 0
  /-- powered time since manufacture, in 10 ns (14 R458; 64). Reset: DESIGN CHOICE (log entry 3). -/
  powered : Nat := 0
  /-- cold starts (14 R458; 64). Reset: DESIGN CHOICE (log entry 3). -/
  coldStarts : Nat := 0
  /-- CRC-64 of the record as it was written (14 R457; 64). Reset: DESIGN CHOICE (log entry 3). -/
  crc : Word := 0
deriving DecidableEq, Repr

/-- The Plumb (R383, R465). -/
structure Plumb where
  /-- fail_cause (11 R384; 4). -/
  failCause : BitVec 4 := 0
  /-- unit of the last SRAM_UNCORRECTED (11 R384; 10). -/
  sramUnit : BitVec 10 := 0
  /-- resets since cold start (11 R385; 32). -/
  resetCount : W32 := 0
  /-- last reset's domain, 0x4 POWER (11 R385; 4). -/
  resetDomain : BitVec 4 := 4
  /-- its source (11 R385; 4). -/
  resetSource : BitVec 4 := 0
  /-- reset requested (domain, source), deferred while a dump is captured (11 R361, R379; -). -/
  resetReq : List (BitVec 4 × BitVec 4) := []
  /-- powered times of module resets that did not reach SET (11 R363; -). -/
  moduleResets : List Nat := []
  /-- seq of the newest dump (11 R386, R381; 64). Reset: DESIGN CHOICE (log entry 3). -/
  dumpSeq : Word := 0
  /-- dump state (11 R386; 4). -/
  dumpState : BitVec 4 := 0
  /-- trigger of the newest dump (11 R386; 4). -/
  dumpTrigger : BitVec 4 := 0
  /-- flash slot of the newest dump (11 R386; 8). -/
  dumpSlot : BitVec 8 := 0
  /-- records not READ or UNUSED (11 R386; 16). -/
  dumpUnread : BitVec 16 := 0
  /-- triggers of dumps to capture (11 R379; -). -/
  dumpWant : List (BitVec 4) := []
  /-- dump captured and not yet written (11 R381; 2 MiB). -/
  dumpNow : Option (BitVec 4 × List Byte) := none
  /-- its records that are neither READ nor UNUSED (11 R386; 16). -/
  dumpNowUnread : BitVec 16 := 0
  /-- units (type, index, words read) recorded unreadable (11 R380; -). -/
  timedOut : List (Nat × Nat × Nat) := []
  /-- source of the compute reset in progress (11 R361; 4 + 1). -/
  computing : Option (BitVec 4) := none
  /-- records in flash, newest first (14 R457; 32 × 256 KiB). Reset: DESIGN CHOICE (log entry 3). -/
  ring : List LogRec := []
  /-- error log in flash (14 R460; 4 MiB). Reset: DESIGN CHOICE (log entry 3). -/
  errFlash : List (Nat × Nat × Nat) := []
  /-- PLB_SRAM_ERR corrected (11 R386; 32). -/
  sramCorr : W32 := 0
  /-- PLB_SRAM_ERR uncorrected (11 R386; 32). -/
  sramUncorr : W32 := 0
  /-- 10 ns since the Plumb's last reset (PLB_UPTIME in ms) (14 R465; 64). -/
  uptime : Nat := 0
  /-- PLB_TEMP (14 R466; 128 × 32). -/
  temps : SMap Temp := []
  /-- PLB_RAIL (14 R466; 22 × 48). -/
  rails : SMap Rail := []
  /-- PLB_CLU_CUR (14 R466; 72 × 16). -/
  cluCur : SMap (BitVec 16) := []
  /-- update session (14 R467; -). -/
  upd : Upd := {}
  /-- live lifetime log: counts by record offset (14 R458; 256 KiB). Reset: DESIGN CHOICE (log entry 3). -/
  log : SMap Nat := []
  /-- run-time spare replacements (14 R458; 32). Reset: DESIGN CHOICE (log entry 3). -/
  replacements : List Replacement := []
  /-- kind, unit, minute, serial tag (14 R458; 64). Reset: DESIGN CHOICE (log entry 3). -/
  retirements : List (Nat × Nat × Nat × Nat) := []
  /-- chain address held (14 R458; 13). Reset: DESIGN CHOICE (log entry 3). -/
  logAddr : Option Nat := none
  /-- fail cause and the powered time, in 10 ns, at which it was set (14 R458; 4 + 64). Reset: DESIGN CHOICE (log entry 3). -/
  logFail : Option (BitVec 4 × Nat) := none
  /-- record sequence number (14 R457; 64). Reset: DESIGN CHOICE (log entry 3). -/
  logSeq : Nat := 0
  /-- powered time since manufacture, in 10 ns (14 R458; 64). Reset: DESIGN CHOICE (log entry 3). -/
  powered : Nat := 0
  /-- cold starts (14 R458; 64). Reset: DESIGN CHOICE (log entry 3). -/
  coldStarts : Nat := 0
  /-- error log: minute, cause code, unit (14 R460; 4 MiB). Reset: DESIGN CHOICE (log entry 3). -/
  errlog : List (Nat × Nat × Nat) := []
  /-- powered time of the last record write (14 R457; 64). Reset: DESIGN CHOICE (log entry 3). -/
  lastWrite : Nat := 0
deriving DecidableEq, Repr

/-- Input, rails, shedding and clock point (R452). -/
structure Power where
  /-- the 56 V input is applied (15 R469; 1). Reset: DESIGN CHOICE (log entry 3). -/
  input : Bool := false
  /-- power good has been reached (13 R430; 1). Reset: DESIGN CHOICE (log entry 3). -/
  good : Bool := false
  /-- input, 10 mV (14 R453; 16). -/
  vin : BitVec 16 := 0
  /-- input power, W (14 R453; 16). -/
  pin : BitVec 16 := 0
  /-- present shedding step (14 R453; 3). -/
  step : BitVec 3 := 0
  /-- deepest step since the last shed_ack (14 R453; 3). -/
  deepest : BitVec 3 := 0
  /-- PWR_DROOP (14 R454; 6 × 64). -/
  droop : SMap Word := []
  /-- PWR_ENERGY (14 R454; 64). -/
  energy : Word := 0
  /-- point that shedding sets (14 R442; 2). -/
  shedPoint : BitVec 2 := 0
  /-- point that the power limit sets (14 R442; 2). -/
  powPoint : BitVec 2 := 0
  /-- point that temperature sets, by die class (14 R443; 2 × 2). -/
  thermPoint : SMap (BitVec 2) := []
  /-- clock point in force (14 R453; 2). -/
  point : BitVec 2 := 0
  /-- ms for which power has stayed below 95 % (14 R442; 8). -/
  lowFor : Nat := 0
  /-- ms for which a class has stayed cool (14 R443; 2 × 8). -/
  coolFor : SMap Nat := []
  /-- consecutive readings at or above power-off temperature, by point (14 R443; 128 × 8). -/
  hotFor : SMap Nat := []
  /-- PWR_OK released high (15 R472; 1). -/
  pwrOk : Bool := false
  /-- address strap (15 R472; 2). Reset: DESIGN CHOICE (log entry 3). -/
  strap : BitVec 2 := 0
  /-- core clock cycles since power good (02 R61; 64). -/
  coreClk : Nat := 0
  /-- the rails are off (14 R450; 1). Reset: DESIGN CHOICE (log entry 3). -/
  off : Bool := true
  /-- the input is in the 60.0–62.0 V range (14 R440; 1). Reset: DESIGN CHOICE (log entry 3). -/
  overRange : Bool := false
  /-- the input above which the module starts again, in 10 mV: S1 plus the hysteresis (14 R450; 16). -/
  restartAt : Nat := 5100
deriving DecidableEq, Repr

/-- The fields of the setting-out image applied (R426). -/
structure Image where
  /-- version of the accepted image (13 R439; 32). -/
  version : W32 := 0
  /-- floor (13 R424; 32). -/
  floor : W32 := 0
  /-- spare-core map (13 R426; 32). -/
  spares : List Replacement := []
  /-- clock points in MHz (13 R426; 4 × 16). -/
  points : List Nat := [2700, 2200, 1600, 1000]
  /-- power_limit (13 R426; 16). -/
  powerLimit : Nat := 6000
  /-- bulk_threshold, FT_AGING_CTRL reset 0x04 (13 R426; 8). -/
  bulkThreshold : Nat := 4
  /-- margin_floor (13 R426; 8). -/
  marginFloor : Nat := 12
  /-- ft_ce_limit (13 R426; 16). -/
  ftCeLimit : Nat := 1024
  /-- ft_window (13 R426; 16). -/
  ftWindow : Nat := 600
  /-- retired PCh (13 R426; 7 × 16). -/
  ftRetired : List Nat := []
  /-- HBM3E mode registers, applied as written (13 R426; 16 B). Reset: DESIGN CHOICE (log entry 3). -/
  ftModes : List Byte := []
  /-- slow_ce_limit (13 R426; 16). -/
  slowCeLimit : Nat := 4096
  /-- slow_window (13 R426; 16). -/
  slowWindow : Nat := 600
  /-- retired channels (13 R426; 16). -/
  slowRetired : Nat := 0
  /-- LPDDR5X mode registers, applied as written (13 R426; 32 B). Reset: DESIGN CHOICE (log entry 3). -/
  slowModes : List Byte := []
  /-- link map (13 R426; 12 × 8). -/
  linkCfg : List Nat := [7, 7, 7, 7, 7, 7, 7, 7, 7, 7, 7, 7]
  /-- lane_window, ms (13 R426; 32). -/
  laneWindow : Nat := 1000
  /-- lane_err_limit (13 R426; 16). -/
  laneErrLimit : Nat := 64
  /-- join_policy LOWEST (13 R426; 8). -/
  joinLowest : Bool := false
  /-- course_min (13 R426; 32). -/
  courseMin : Nat := 2000
  /-- course_max (13 R426; 32). -/
  courseMax : Nat := 10000000
  /-- rw_quiesce, ms (13 R426; 16). -/
  rwQuiesce : Nat := 250
  /-- latch threshold (13 R426; 8). -/
  latchThreshold : Nat := 3
  /-- filler_en (13 R426; 1). -/
  fillerEn : Bool := true
  /-- zero_gate_en (13 R426; 1). -/
  zeroGateEn : Bool := true
  /-- S1–S6 and power-off, 0.1 V (13 R426; 7 × 16). -/
  shed : List Nat := [500, 480, 460, 440, 420, 400, 380]
  /-- hysteresis, 0.1 V (13 R426; 8). -/
  hysteresis : Nat := 10
  /-- ranges of eta, lambda, beta1, beta2, eps, c1, c2 (13 R426; 14 × 32). -/
  rules : List (W32 × W32) := [(0, 0x3F800000), (0, 0x3F800000), (0, 0x3F800000), (0, 0x3F800000), (0, 0x3F800000), (0x3F800000, 0x4B800000), (0x3F800000, 0x4B800000)]
deriving DecidableEq, Repr

/-- Start-up, flash and identity (R420–R439). -/
structure Start where
  /-- step in progress, reset 0x1 (13 R439; 4). -/
  phase : BitVec 4 := 1
  /-- last failure of this start (13 R439; 4). -/
  reason : BitVec 4 := 0
  /-- this start took the short path (13 R439; 1). Reset: DESIGN CHOICE (log entry 3). -/
  short : Bool := false
  /-- slot accepted (13 R439; 1). Reset: DESIGN CHOICE (log entry 3). -/
  slot : Bool := false
  /-- device key unwrapped (13 R439; 1). Reset: DESIGN CHOICE (log entry 3). -/
  identValid : Bool := false
  /-- key-encryption key, in Plumb SRAM (13 R429; 256). Reset: DESIGN CHOICE (log entry 3). -/
  kek : List Byte := []
  /-- device key, in Plumb SRAM (13 R429; RSA-4096). Reset: DESIGN CHOICE (log entry 3). -/
  devKey : List Byte := []
  /-- powered time, in 10 ns, of power good or of the reset's release (13 R439; 64). Reset: DESIGN CHOICE (log entry 3). -/
  began : Nat := 0
  /-- this start trains its interfaces in full (13 R431; 1). Reset: DESIGN CHOICE (log entry 3). -/
  fullTraining : Bool := false
  /-- flash offsets of the image slots whose write was cut off (13 R424; 4). Reset: DESIGN CHOICE (log entry 3). -/
  torn : List Nat := []
  /-- image_ms (13 R439; 16). -/
  imageMs : BitVec 16 := 0
  /-- memory_ms (13 R439; 16). -/
  memoryMs : BitVec 16 := 0
  /-- set_ms (13 R439; 16). -/
  setMs : BitVec 16 := 0
  /-- fields held until the next start (13 R427; 4 MiB slot). -/
  img : Image := {}
  /-- configuration flash (13 R421; 64 MiB). Reset: DESIGN CHOICE (log entry 3). -/
  flash : SMap Byte := []
  /-- the flash meets R420's table (13 R420; 1). Reset: DESIGN CHOICE (log entry 3). -/
  flashOk : Bool := true
  /-- RPMC counter 0, Plumb firmware (13 R421; 32). Reset: DESIGN CHOICE (log entry 3). -/
  rpmc0 : W32 := 0
  /-- RPMC counter 1, setting-out images (13 R421; 32). Reset: DESIGN CHOICE (log entry 3). -/
  rpmc1 : W32 := 0
  /-- running firmware version (14 R466; 32). Reset: DESIGN CHOICE (log entry 3). -/
  fwVersion : W32 := 0
  /-- firmware slot accepted (14 R466; 1). Reset: DESIGN CHOICE (log entry 3). -/
  fwSlot : Bool := false
  /-- floor of the running firmware (14 R461; 32). Reset: DESIGN CHOICE (log entry 3). -/
  fwFloor : W32 := 0
  /-- RPMC counters raised for this start (13 R424; 1). -/
  raised : Bool := false
  /-- a package or module reset is asserted (11 R372; 1). -/
  inReset : Bool := false
  /-- the start has ended in UNSET (13 R430; 1). -/
  stay : Bool := false
  /-- blade pairs that were open at power good (15 R470; 4). Reset: DESIGN CHOICE (log entry 3). -/
  pairOpen : BitVec 4 := 0
  /-- SPDM: GET_VERSION answered (14 R463; 1). -/
  spdmVersion : Bool := false
  /-- SPDM: GET_CAPABILITIES answered (14 R463; 1). -/
  spdmCaps : Bool := false
  /-- SPDM: NEGOTIATE_ALGORITHMS answered (14 R463; 1). -/
  spdmAlgs : Bool := false
  /-- SPDM transcript (14 R463; -). -/
  spdmTrans : List Byte := []
  /-- PLDM terminus ID (14 R464; 8). Reset: DESIGN CHOICE (log entry 3). -/
  pldmTid : Byte := 0
  /-- I3C dynamic address that the controller has assigned (14 R464; 7). -/
  i3cAddr : Option (BitVec 7) := none
deriving DecidableEq, Repr

/-- Every byte-addressed memory of the module (R161), ONE list. -/
structure Mem where
  /-- (key, byte) pairs, key = space·2^48 + offset (06 R161; all spaces). -/
  cells : List Host.Cell := []
  /-- region → number of its last loss; 0 is none (11 R361, 06 R176; MODEL). -/
  lost : SMap Nat := []
deriving DecidableEq, Repr

/-- What the module drives to the outside. -/
inductive Out where
  /-- an MSI-X message of a port -/
  | msix (port vector : Nat)
  /-- the data returned for a read -/
  | rdata (bytes : List Byte)
  /-- a control frame sent upstream -/
  | frameUp (f : Frame)
  /-- a control frame sent downstream -/
  | frameDn (f : Frame)
  /-- an EDGE mark sent by the head -/
  | edgeMark
  /-- a flit sent on a link: its eight segments, each with its lane -/
  | linkFlit (link : Nat) (segments : List (Nat × List Byte))
  /-- a write to host memory -/
  | hostWrite (port : Nat) (addr : Word) (bytes : List Byte)
  /-- an SPDM or PLDM response -/
  | response (path : RegPath) (bytes : List Byte)
  /-- an SPDM ERROR response with its code -/
  | spdmError (path : RegPath) (code : Byte)
  /-- the SMBus Alert Response: the module's own address -/
  | alertResponse (address : BitVec 7)
deriving DecidableEq, Repr


/-- The whole module (TWM-2740), and the queue of commands that are waiting. -/
structure State where
  /-- commands waiting, first in first out (-; MODEL). -/
  pending : List Instr := []
  /-- fast tier, cluster memories, scratchpads, slow tier (06 R161; -). -/
  mem : Mem := {}
  /-- logical cores (02 R23; 576). -/
  cores : SMap Core := []
  /-- cluster controllers (07 R240; 72). -/
  clusters : SMap Cluster := []
  /-- fast tier (06 R198; -). -/
  ft : FastTier := {}
  /-- packets and landing agents (07 R207; -). -/
  net : Net := {}
  /-- mortar fronts and adders (09 R293; -). -/
  mortar : Mortar := {}
  /-- Evrok links (08 R282; -). -/
  lnk : Links := {}
  /-- chain port (08 R289; -). -/
  chain : Chain := {}
  /-- Masons and lifts (10 R347; -). -/
  msn : MasonBlk := {}
  /-- host ports (12 R414; 2). -/
  ports : SMap Port := []
  /-- module state and work (12 R407; -). -/
  job : Job := {}
  /-- Plumb (14 R465; -). -/
  plb : Plumb := {}
  /-- power (14 R452; -). -/
  pwr : Power := {}
  /-- start-up, flash, identity (13 R430; -). -/
  start : Start := {}
  /-- counter of the free values handed out (-; MODEL). Reset: DESIGN CHOICE (log entry 3). -/
  free : Nat := 0
  /-- number of memory losses so far (11 R361; MODEL). -/
  losses : Nat := 0
  /-- what the module has driven to the outside, oldest first (-; MODEL). -/
  out : List Out := []
deriving DecidableEq, Repr

/-- Why a step could stop with a fault: the spec gives the block no such event (every error of the spec is a next
state: a count, a hold, a status), so there is none. Safe: nothing raises one. -/
inductive Fault where
deriving DecidableEq, Repr

/-- Why a step is refused. -/
inductive Refusal where
  /-- raised by exec for a command whose meaning is not written yet; safe, it proves nothing -/
  | notModelled (mnemonic : String)
deriving DecidableEq, Repr

/-- The module right after reset: unpowered, with every register at the value its table gives for reset (R4 tables),
nothing listed in any memory, no command waiting. -/
def State.reset : State := {}

end Sys2Proof.Machine
end

