-- ==== Sys2Proof/Machine/Flags.lean ====
section
/-! DEFINITION. The range counters (R139–R143): what conversions leave behind. -/

namespace Sys2Proof.Machine

/-- The slot of a destination format (R139). -/
inductive RSlot where
  | e4m3 | e5m2 | e2m1 | bf16 | fp32 | int8 | int32 | bushel | grain
deriving DecidableEq, Repr

/-- Its number (R139). -/
def RSlot.num : RSlot → Nat
  | .e4m3 => 0 | .e5m2 => 1 | .e2m1 => 2 | .bf16 => 3 | .fp32 => 4
  | .int8 => 5 | .int32 => 6 | .bushel => 7 | .grain => 8

/-- The slot of a float or integer destination (R139). -/
def rslotOf : DFmt → RSlot
  | .flt .e4m3 => .e4m3
  | .flt .e5m2 => .e5m2
  | .flt .e2m1 => .e2m1
  | .flt .bf16 => .bf16
  | .flt .fp32 => .fp32
  | .int8 => .int8
  | .int32 => .int32

/-- The peak raised to an exponent that exceeds it (R139, R143): 0x8000 stands for none. -/
def raisePeak (p : BitVec 16) (x : Int) : BitVec 16 := if p.toInt < x then BitVec.ofInt 16 x else p

/-- A slot with counts added, saturating at all ones (R143). -/
def RangeSlot.count (r : RangeSlot) (conv ovf van nonf : Nat) : RangeSlot :=
  { r with converted := satAdd r.converted conv, overflowed := satAdd r.overflowed ovf,
           vanished := satAdd r.vanished van, nonfinite := satAdd r.nonfinite nonf }

/-- A slot with its peak raised by exponents. -/
def RangeSlot.raise (r : RangeSlot) (xs : List Int) : RangeSlot := { r with peak := xs.foldl raisePeak r.peak }

/-- How many events of a class there are. -/
def classCount (k : CClass) (evs : List CEvent) : Nat := (evs.filter (fun e => e.cls = k)).length

/-- A slot after conversions (R139): each adds 1 to the conversion count and 1 to its class. -/
def RangeSlot.note (r : RangeSlot) (evs : List CEvent) : RangeSlot :=
  (r.count evs.length (classCount .overflowed evs) (classCount .vanished evs) (classCount .nonfinite evs)).raise
    (evs.filterMap (fun e => e.peak))

/-- Index of slot f of group g (R140). -/
def rangeIdx (g : BitVec 6) (f : RSlot) : Nat := 9 * g.toNat + f.num

/-- The slot of a group. -/
def State.rangeSlot (s : State) (i : Nat) : RangeSlot := SMap.get {} s.ft.range i

/-- Change one slot of the range counters. -/
def State.modRange (s : State) (i : Nat) (f : RangeSlot → RangeSlot) : State :=
  { s with ft := { s.ft with range := SMap.modify {} s.ft.range i f } }

/-- Conversions counted in a group's slot (R139). -/
def State.noteConv (s : State) (g : BitVec 6) (f : RSlot) (evs : List CEvent) : State :=
  if evs.isEmpty then s else s.modRange (rangeIdx g f) (fun r => r.note evs)

/-- A grain block counted (R137). -/
def State.noteGrain (s : State) (g : BitVec 6) (o : GrainOut) : State :=
  s.modRange (rangeIdx g .grain) (fun r => (r.count 256 o.overflowed o.vanished o.nonfinite).raise o.peaks)

/-- Groups cleared by a write to FT_RANGE_CLEAR (R142): every count 0 and every peak 0x8000. -/
def State.clearRange (s : State) (mask : Word) : State :=
  { s with ft := { s.ft with range := s.ft.range.filter (fun p => !mask.getLsbD (p.1 / 9)) } }

end Sys2Proof.Machine
end

