-- ==== Sys2Proof/Machine/Ops.lean ====
section
/-! DEFINITION. The named operations that every meaning is built of: memory, addresses, the lifetime log, tallies and
waits, packets, notifications, holds and completions. -/

namespace Sys2Proof.Machine

/-! ## Parts of the state -/

/-- A logical core. -/
def State.core (s : State) (c : Nat) : Core := SMap.get {} s.cores c
/-- Change a core. -/
def State.modCore (s : State) (c : Nat) (f : Core → Core) : State := { s with cores := SMap.modify {} s.cores c f }
/-- A strand of a core. -/
def State.strand (s : State) (c t : Nat) : Strand := SMap.get {} (s.core c).strands t
/-- Change a strand. -/
def State.modStrand (s : State) (c t : Nat) (f : Strand → Strand) : State :=
  s.modCore c (fun k => { k with strands := SMap.modify {} k.strands t f })
/-- Change a core's register file. -/
def State.modRegs (s : State) (c : Nat) (f : RegFile → RegFile) : State :=
  s.modCore c (fun k => { k with regs := f k.regs })
/-- Change a core's arrays. -/
def State.modArr (s : State) (c : Nat) (f : ArrayUnit → ArrayUnit) : State :=
  s.modCore c (fun k => { k with arr := f k.arr })
/-- Change a core's engine. -/
def State.modEng (s : State) (c : Nat) (f : Engine → Engine) : State :=
  s.modCore c (fun k => { k with eng := f k.eng })
/-- Change what a core runs and reports. -/
def State.modRun (s : State) (c : Nat) (f : CoreRun → CoreRun) : State :=
  s.modCore c (fun k => { k with run := f k.run })
/-- A cluster's controller. -/
def State.cluster (s : State) (k : Nat) : Cluster := SMap.get {} s.clusters k
/-- Change a cluster's controller. -/
def State.modCluster (s : State) (k : Nat) (f : Cluster → Cluster) : State :=
  { s with clusters := SMap.modify {} s.clusters k f }
/-- A pseudo-channel. -/
def State.pch (s : State) (p : Nat) : Pch := SMap.get {} s.ft.pchs p
/-- Change a pseudo-channel. -/
def State.modPch (s : State) (p : Nat) (f : Pch → Pch) : State :=
  { s with ft := { s.ft with pchs := SMap.modify {} s.ft.pchs p f } }
/-- A link. -/
def State.link (s : State) (l : Nat) : Link := SMap.get {} s.lnk.links l
/-- Change a link. -/
def State.modLink (s : State) (l : Nat) (f : Link → Link) : State :=
  { s with lnk := { s.lnk with links := SMap.modify {} s.lnk.links l f } }
/-- A Mason. -/
def State.mason (s : State) (m : Nat) : Mason := SMap.get {} s.msn.units m
/-- Change a Mason. -/
def State.modMason (s : State) (m : Nat) (f : Mason → Mason) : State :=
  { s with msn := { s.msn with units := SMap.modify {} s.msn.units m f } }
/-- A slow-tier channel. -/
def State.chan (s : State) (k : Nat) : Chan := SMap.get {} s.msn.chans k
/-- Change a slow-tier channel. -/
def State.modChan (s : State) (k : Nat) (f : Chan → Chan) : State :=
  { s with msn := { s.msn with chans := SMap.modify {} s.msn.chans k f } }
/-- A host port. -/
def State.port (s : State) (p : Nat) : Port := SMap.get {} s.ports p
/-- Change a host port. -/
def State.modPort (s : State) (p : Nat) (f : Port → Port) : State :=
  { s with ports := SMap.modify {} s.ports p f }
/-- Drive something to the outside. -/
def State.emit (s : State) (o : Out) : State := { s with out := s.out ++ [o] }
/-- Put a packet in flight. -/
def State.send (s : State) (p : Packet) : State :=
  { s with net := { s.net with flight := s.net.flight ++ [{ pkt := p }] } }
/-- Put a packet in flight that answers a read of an address. -/
def State.sendFrom (s : State) (p : Packet) (a : Word) : State :=
  { s with net := { s.net with flight := s.net.flight ++ [{ pkt := p, source := some a }] } }
/-- The link whose record holds the sequence space, the replay buffer and the credits: the bond's lowest (R263). -/
def State.leader (s : State) (l : Nat) : Nat := if (s.link l).bond = 0xF then l else (s.link l).bond.toNat

/-- Packets that travel on the response channel (R253): they go to the module that issued the operation. -/
def isResponse (op : BitVec 4) : Bool := decide (op = 3 ∨ op = 5 ∨ op = 7 ∨ op = 10)

/-- Return credits to the partner of a link as its buffer frees (R253). -/
def State.freeCredits (s : State) (l : Nat) (response : Bool) (n : Nat) : State :=
  s.modLink (s.leader l) (fun k => { k with ch :=
    if response then { k.ch with retRsp := k.ch.retRsp + n } else { k.ch with retReq := k.ch.retReq + n } })

/-- A packet leaves the module's buffers: the link that brought it gets its credits back (R253). -/
def State.freeFlight (s : State) (f : Flight) : State :=
  match f.link with
  | none => s
  | some l => s.freeCredits l (isResponse f.pkt.op) f.credits

/-- Take the first occurrence of a packet out of flight. -/
def State.takeFlight (s : State) (p : Packet) : State :=
  match s.net.flight.find? (fun f => f.pkt = p) with
  | none => s
  | some f => State.freeFlight { s with net := { s.net with flight := s.net.flight.erase f } } f

/-- The next free value. -/
def State.freeVal (s : State) : Word := Config.freeWord s.free
/-- The state after one free value has been used. -/
def State.useFree (s : State) : State := { s with free := s.free + 1 }
/-- The state after `n` free values have been used. -/
def State.useFrees (s : State) (n : Nat) : State := { s with free := s.free + n }

/-! ## Where things are (R22, R168) -/

/-- Column of a logical core. -/
def coreX (c : Nat) : Nat := c % 24
/-- Row of a logical core. -/
def coreY (c : Nat) : Nat := c / 24
/-- Ashlar die of a logical core (R22). -/
def coreDie (c : Nat) : Nat := 2 * (coreY c / 6) + coreX c / 12
/-- Grid position of a logical core on its die (R22). -/
def coreGrid (c : Nat) : Nat := 12 * (coreY c % 6) + coreX c % 12
/-- Cluster of a logical core (R22). -/
def coreCluster (c : Nat) : Nat := coreY c / 4 * 12 + coreX c / 2
/-- Member number of a logical core in its cluster (R168). -/
def coreMember (c : Nat) : Nat := 2 * (coreY c % 4) + coreX c % 2
/-- The core that is member `m` of cluster `k`. -/
def memberCore (k m : Nat) : Nat := 24 * (4 * (k / 12) + m / 2) + 2 * (k % 12) + m % 2
/-- Plinth die of a cluster memory (R167). -/
def clusterPlinth (k : Nat) : Nat :=
  let dc := k % 12 / 6
  let j := k % 12 % 6
  let dr := match k / 12 with
    | 0 => 0
    | 1 => if j < 3 then 0 else 1
    | 2 => 1
    | 3 => 2
    | 4 => if j < 3 then 2 else 3
    | _ => 3
  2 * dr + dc

/-! ## The lifetime log (R458) -/

/-- Add to a count of the lifetime log that is `bytes` bytes wide; it saturates at all ones. -/
def State.logAdd (s : State) (off bytes n : Nat) : State :=
  { s with plb := { s.plb with log := SMap.modify 0 s.plb.log off (fun v => min (v + n) (2 ^ (8 * bytes) - 1)) } }

/-- Store a value in the lifetime log. -/
def State.logSet (s : State) (off v : Nat) : State := { s with plb := { s.plb with log := SMap.set s.plb.log off v } }

/-- A count of the lifetime log. -/
def State.logGet (s : State) (off : Nat) : Nat := SMap.get 0 s.plb.log off

/-- A violation of a class (R459). -/
inductive Viol where
  | reservedSet | reservedSpace | outOfCapacity | slowTierSpace | windowWrite | generation
  | keystoneWrite | keystoneNonmember | bucketTable | bucketMismatch | undefined | readOnly
deriving DecidableEq, Repr

/-- Class codes (R459). -/
def Viol.code : Viol → Nat
  | .reservedSet => 1 | .reservedSpace => 2 | .outOfCapacity => 3 | .slowTierSpace => 4
  | .windowWrite => 5 | .generation => 6 | .keystoneWrite => 7 | .keystoneNonmember => 8
  | .bucketTable => 9 | .bucketMismatch => 10 | .undefined => 11 | .readOnly => 12

/-- Count a violation in the lifetime log. -/
def State.violate (s : State) (v : Viol) : State := s.logAdd (0x5100 + 8 * v.code) 8 1
/-- Count one violation of each class listed. -/
def State.violateAll (s : State) (vs : List Viol) : State := vs.foldl State.violate s
/-- Count a wait answered FULL, a multicast hold, a PEER_ABSENT completion or a slot stall (R458, 0x5240). -/
def State.logWait (s : State) (i : Nat) : State := s.logAdd (0x5240 + 8 * i) 8 1
/-- Count a lift closed, a rewind, a drain, a mirror out, a mirror in, a restore, a dump or a suspect replay. -/
def State.logOp (s : State) (i : Nat) : State := s.logAdd (0x5200 + 8 * i) 8 1
/-- Minutes of a powered time in 10 ns. -/
def minutesOf (powered : Nat) : Nat := powered / 6000000000
/-- Powered minutes since manufacture. -/
def State.minute (s : State) : Nat := minutesOf s.plb.powered
/-- Add to a list that keeps its newest `n` elements. -/
def ringPush {α : Type} (n : Nat) (l : List α) (x : α) : List α :=
  if n ≤ l.length then (l ++ [x]).drop 1 else l ++ [x]

/-- An entry of the error log (R460), a ring of as many 64-byte entries as its 4 MiB of flash hold (R421). (DESIGN
CHOICE, log entry 40) -/
def State.errLog (s : State) (cause unit : Nat) : State :=
  { s with plb := { s.plb with errlog := ringPush 65536 s.plb.errlog (s.minute, cause, unit) } }

/-- One misfit of a core (R110, R111). -/
def State.misfit (s : State) (c : Nat) : State :=
  s.modRun c (fun r => { r with misfit := satAdd r.misfit 1, misfitCourse := satAdd r.misfitCourse 1 })
/-- A misfit where the condition holds. -/
def State.misfitIf (s : State) (c : Nat) (b : Bool) : State := if b then s.misfit c else s
/-- A scratchpad offset of 2 MiB or more, counted once where the condition holds (R483). (DEDUCED, log entry 18) -/
def State.outOfCapIf (s : State) (b : Bool) : State := if b then s.violate .outOfCapacity else s

/-! ## Memory -/

/-- Key of a byte of the fast tier. -/
def fastKey (off : Nat) : Nat := off
/-- Key of a byte of a cluster memory. -/
def clusterKey (k off : Nat) : Nat := 2 ^ 48 + k * 2 ^ 25 + off
/-- Key of a byte of a scratchpad. -/
def spadKey (c off : Nat) : Nat := 2 * 2 ^ 48 + c * 2 ^ 21 + off
/-- Key of a byte of the slow tier. -/
def slowKey (off : Nat) : Nat := 12 * 2 ^ 48 + off

/-- Region number of the fast tier. -/
def fastRegion : Nat := 0
/-- Region number of a Mason's region of the slow tier (R316). -/
def slowRegion (m : Nat) : Nat := 1 + m
/-- Region number of the data of a cluster memory. -/
def clusterRegion (k : Nat) : Nat := 100 + k
/-- Region number of a scratchpad. -/
def spadRegion (c : Nat) : Nat := 1000 + c
/-- Region number of the saved state of context `n` of member `m` of cluster `k` (R170). -/
def saveRegion (k m n : Nat) : Nat := 10000 + 64 * k + 8 * n + m
/-- Bytes of a saved state (R50). -/
def saveSize : Nat := 394560
/-- Cluster-memory offset of the save area of context `n` of member `m` (R170). -/
def saveOff (m n : Nat) : Nat := 33554432 - (8 * n + m + 1) * 394752

/-- The region in which a key lies: what one reset loses together. The 64 saved states at the top of a cluster memory
are regions of their own (R170); the 192 bytes above each belong to the memory's data. -/
def regionOf (key : Nat) : Nat :=
  match key / 2 ^ 48 with
  | 0 => fastRegion
  | 1 =>
    let o := key % 2 ^ 48
    let down := 2 ^ 25 - 1 - o % 2 ^ 25
    if down / 394752 < 64 ∧ 394752 ≤ saveSize + down % 394752 then 10000 + 64 * (o / 2 ^ 25) + down / 394752
    else clusterRegion (o / 2 ^ 25)
  | 2 => spadRegion (key % 2 ^ 48 / 2 ^ 21)
  | _ => slowRegion (key % 2 ^ 48 / 2 ^ 38)

/-- What a byte reads as that is not listed: zero in a region that nothing has lost, else a free byte (log entry 4). -/
def Mem.dflt (m : Mem) (key : Nat) : Byte :=
  match SMap.get 0 m.lost (regionOf key) with
  | 0 => 0
  | n + 1 => Config.lostByte (n + 1) key

/-- Read one byte. -/
def Mem.byte (m : Mem) (key : Nat) : Byte := SMap.get (m.dflt key) m.cells key

/-- Write one byte, keeping the canonical form. -/
def Mem.put (m : Mem) (key : Nat) (b : Byte) : Mem := { m with cells := SMap.put (m.dflt key) m.cells key b }

/-- Write bytes from a key upwards. -/
def Mem.write (m : Mem) (key : Nat) : List Byte → Mem
  | [] => m
  | b :: bs => Mem.write (m.put key b) (key + 1) bs

/-- Write listed bytes. -/
def Mem.writeList (m : Mem) (l : List (Nat × Byte)) : Mem := l.foldl (fun m p => m.put p.1 p.2) m

/-- Read `n` bytes from a key upwards. -/
def Mem.read (m : Mem) (key n : Nat) : List Byte := (List.range n).map (fun i => m.byte (key + i))

/-- Read a word. -/
def Mem.word (m : Mem) (key : Nat) : Word := leWord (m.read key 8)

/-- Write zero over `n` bytes. -/
def Mem.zero (m : Mem) (key n : Nat) : Mem := m.write key (List.replicate n 0)

/-- The canonical form: keys strictly rising, and no entry equal to what an unlisted byte reads as. -/
def Mem.wf (m : Mem) : Bool := SMap.rises m.cells && m.cells.all (fun p => decide (p.2 ≠ m.dflt p.1))

/-- A region's bytes are lost: nothing stays listed there, and its bytes become free values of loss number `n`. -/
def Mem.lose (m : Mem) (r n : Nat) : Mem :=
  { cells := m.cells.filter (fun p => regionOf p.1 != r), lost := SMap.set m.lost r n }

/-- A region's bytes are written to zero. -/
def Mem.zeroRegion (m : Mem) (r : Nat) : Mem :=
  { cells := m.cells.filter (fun p => regionOf p.1 != r), lost := SMap.erase m.lost r }

/-- Lose regions (R361, R176): each gets a loss number of its own. -/
def State.loseRegions (s : State) (rs : List Nat) : State :=
  rs.foldl (fun s r => { s with mem := s.mem.lose r (s.losses + 1), losses := s.losses + 1 }) s

/-- Write zero over whole regions. -/
def State.zeroRegions (s : State) (rs : List Nat) : State :=
  { s with mem := rs.foldl Mem.zeroRegion s.mem }

/-! ## Addresses (R159–R163, R175, R182, R184) -/

/-- Module field of a global address. -/
def addrModule (a : Word) : Nat := a.toNat / 2 ^ 52
/-- Space field of a global address. -/
def addrSpace (a : Word) : Nat := a.toNat / 2 ^ 48 % 16
/-- Bits [47:0] of a global address. -/
def addrOff (a : Word) : Nat := a.toNat % 2 ^ 48
/-- A global address with another module field. -/
def withModule (a : Word) (m : Nat) : Word := BitVec.ofNat 64 (m % 2 ^ 12 * 2 ^ 52 + a.toNat % 2 ^ 52)
/-- A scratchpad address with another core field (R228). -/
def withCore (a : Word) (c : Nat) : Word :=
  BitVec.ofNat 64 (a.toNat / 2 ^ 31 * 2 ^ 31 + c % 2 ^ 10 * 2 ^ 21 + a.toNat % 2 ^ 21)

/-- The module's own address as packets carry it: 0xFFF while it holds none (R160, R83). -/
def State.self (s : State) : BitVec 12 := if s.chain.addrValid then s.chain.addr.truncate 12 else 0xFFF
/-- Whether a module field names this module (R160). -/
def State.isSelf (s : State) (m : Nat) : Bool :=
  decide (m = 0xFFF) || (s.chain.addrValid && decide (m = s.chain.addr.toNat))
/-- The global address of a memory key of this module. -/
def State.addrOf (s : State) (key : Nat) : Word := BitVec.ofNat 64 (s.self.toNat * 2 ^ 52 + key)

/-- The spread order of the PCh (R175). -/
def spread (i : Nat) : Nat := 32 * (i % 16) + i / 16 % 32
/-- The live list of the installed interleave table (R175, R184). -/
def FastTier.liveList (f : FastTier) : List Nat :=
  (((List.range 512).map spread)).filter (fun p => !f.installed.contains p)
/-- Live PCh that the installed table counts (R184). -/
def FastTier.live (f : FastTier) : Nat := 512 - f.installed.length
/-- Present capacity in bytes (R184). -/
def FastTier.capacity (f : FastTier) : Nat := 805306368 * f.live
/-- Used slots (R175, R201). -/
def FastTier.used (f : FastTier) : Nat := 8 * f.live
/-- The PCh of a slot (R175, R202). -/
def FastTier.slot (f : FastTier) (i : Nat) : Nat :=
  if f.installed.isEmpty then spread (i % 512) else (f.liveList).getD (i % f.live) 0
/-- The PCh of a fast-tier offset (R175). -/
def FastTier.pchOf (f : FastTier) (a : Nat) : Nat := f.slot (a / 2048 % f.used)
/-- The byte within the PCh of a fast-tier offset (R175). -/
def FastTier.byteIn (f : FastTier) (a : Nat) : Nat :=
  (8 * (a / 2048 / f.used) + a / 2048 % f.used / f.live) * 2048 + a % 2048
/-- The offset lies in a PCh that is retired and that the installed table still counts (R176, R357). -/
def FastTier.dead (f : FastTier) (a : Nat) : Bool :=
  decide (f.retired ≠ f.installed) && f.retired.contains (f.pchOf a)

/-- Where an access falls. -/
inductive Place where
  /-- a byte of memory -/
  | mem (key : Nat)
  /-- a byte of a retired PCh: reads as zero, writes are discarded -/
  | dead
  /-- a byte of the control space -/
  | ctl (off : Nat)
  /-- R162: reads as zero, writes are ignored, counted in the class -/
  | bad (v : Viol)
deriving DecidableEq, Repr

/-- A direct fast-tier offset. -/
def State.fastPlace (s : State) (y : Nat) : Place :=
  if s.ft.capacity ≤ y then .bad .outOfCapacity else if s.ft.dead y then .dead else .mem (fastKey y)

/-- The buffer that the face window resolves to, in bytes (R182). -/
def FastTier.faceBase (f : FastTier) : Nat := 2048 * (if f.parity then f.base1.toNat else f.base0.toNat)

/-- Where an access by any unit but a Mason falls (R161, R162). -/
def State.place (s : State) (a : Word) (write : Bool) : Place :=
  let o := addrOff a
  if 2 ^ 47 ≤ o then .bad .reservedSpace else
  match addrSpace a with
  | 0 =>
    if 2 ^ 46 ≤ o then
      if write then .bad .windowWrite
      else if 2048 * s.ft.len.toNat ≤ o - 2 ^ 46 then .bad .outOfCapacity
      else s.fastPlace (s.ft.faceBase + (o - 2 ^ 46))
    else s.fastPlace o
  | 1 => if 72 ≤ o / 2 ^ 25 then .bad .reservedSpace else .mem (2 ^ 48 + o)
  | 2 => if 576 ≤ o / 2 ^ 21 then .bad .reservedSpace else .mem (2 * 2 ^ 48 + o)
  | 8 => if 2 ^ 26 ≤ o then .bad .reservedSpace else .ctl o
  | 12 => if 2 ^ 40 ≤ o then .bad .reservedSpace else .bad .slowTierSpace
  | _ => .bad .reservedSpace

/-- The byte at a place of memory; every other place reads as zero. -/
def State.placeByte (s : State) : Place → Byte
  | .mem k => s.mem.byte k
  | _ => 0

/-- The bytes that a read of `n` bytes at a global address returns, the control space apart. -/
def State.readAt (s : State) (a : Word) (n : Nat) : List Byte :=
  (List.range n).map (fun i => s.placeByte (s.place (a + BitVec.ofNat 64 i) false))

/-- The classes of R162 that an access of `n` bytes meets, each once. (DEDUCED, log entry 18) -/
def State.badAt (s : State) (a : Word) (n : Nat) (write : Bool) : List Viol :=
  ((List.range n).filterMap (fun i => match s.place (a + BitVec.ofNat 64 i) write with
    | .bad v => some v
    | _ => none)).dedup

/-- Count an access that falls under R162: once in each class that it meets. (DEDUCED, log entry 18) -/
def State.countBad (s : State) (a : Word) (n : Nat) (write : Bool) : State := s.violateAll (s.badAt a n write)

/-! ## Waits (R216–R218) -/

/-- The home of a tally (R216). -/
inductive Home where
  | core (c : Nat)
  | cluster (k : Nat)
  | plinth (d : Nat)
deriving DecidableEq, Repr

/-- The home of a memory key. -/
def State.homeOf (s : State) (key : Nat) : Home :=
  match key / 2 ^ 48 with
  | 1 => .cluster (key % 2 ^ 48 / 2 ^ 25)
  | 2 => .core (key % 2 ^ 48 / 2 ^ 21)
  | _ => .plinth (s.ft.pchOf (key % 2 ^ 48) / 64)

/-- Wait records of a home (R218). -/
def Home.records : Home → Nat
  | .core _ => 64
  | .cluster _ => 256
  | .plinth _ => 1024

/-- The cluster whose keystone slots serve an object at a key (R222). -/
def servingCluster (key : Nat) : Nat :=
  if key / 2 ^ 48 = 1 then key % 2 ^ 48 / 2 ^ 25 else coreCluster (key % 2 ^ 48 / 2 ^ 21)

/-- Whether the memory of a key is a broken home (R231, R243). -/
def State.broken (s : State) (key : Nat) : Bool :=
  match key / 2 ^ 48 with
  | 1 => (s.cluster (key % 2 ^ 48 / 2 ^ 25)).brokenClm
  | 2 =>
    let c := key % 2 ^ 48 / 2 ^ 21
    (s.cluster (coreCluster c)).brokenSpad.getLsbD (coreMember c)
  | _ => s.ft.broken

/-- The WAKE that answers a wait record (R217). -/
def State.wakePacket (s : State) (r : WaitRec) (status : BitVec 3) : Packet :=
  { op := 7, status := status, dst := s.addrOf r.key, srcModule := r.module, srcUnit := r.unit, tag := r.tag }

/-- Every wait record whose value its tally has reached is answered with WAKE (R217): done after every change of
memory. -/
def State.checkWaits (s : State) : State :=
  let hit := s.net.waits.filter (fun r => decide (r.value ≤ s.mem.word r.key))
  if hit.isEmpty then s
  else { s with net := { s.net with
    waits := s.net.waits.filter (fun r => !decide (r.value ≤ s.mem.word r.key)),
    flight := s.net.flight ++ hit.map (fun r => { pkt := s.wakePacket r 0 }) } }

/-- Write bytes at a key, and answer the waits that this satisfies. -/
def State.store (s : State) (key : Nat) (bs : List Byte) : State :=
  State.checkWaits { s with mem := s.mem.write key bs }

/-- Write listed bytes, and answer the waits that this satisfies. -/
def State.storeList (s : State) (l : List (Nat × Byte)) : State :=
  State.checkWaits { s with mem := s.mem.writeList l }

/-- Whether a key lies in the unit of a bound keystone object (R223). -/
def State.boundAt (s : State) (key : Nat) : Bool :=
  (key / 2 ^ 48 == 1 || key / 2 ^ 48 == 2) &&
  (s.cluster (servingCluster key)).slots.any (fun p => decide (p.2.obj.toNat = key / 256 * 256))

/-- The memory keys, with their bytes, at which a write of bytes at a global address lands: neither under R162, nor in
a retired PCh, nor in the unit of a bound keystone object. -/
def State.landing (s : State) (a : Word) (bs : List Byte) : List (Nat × Byte) :=
  ((List.range bs.length).zip bs).filterMap (fun p => match s.place (a + BitVec.ofNat 64 p.1) true with
    | .mem k => if s.boundAt k then none else some (k, p.2)
    | _ => none)

/-- Whether a write of `n` bytes meets a bound keystone object. -/
def State.hitsBound (s : State) (a : Word) (n : Nat) : Bool :=
  (List.range n).any (fun i => match s.place (a + BitVec.ofNat 64 i) true with
    | .mem k => s.boundAt k
    | _ => false)

/-- A write by `put`, copy or host at a global address (R162, R176, R223). -/
def State.writeAt (s : State) (a : Word) (bs : List Byte) : State :=
  let l := s.landing a bs
  let s' := s.countBad a bs.length true
  let s'' := if s.hitsBound a bs.length then s'.violate .keystoneWrite else s'
  s''.storeList l

/-! ## Requests of the fast tier (R177–R180) -/

/-- The fast-tier offset that an access at a global address of this module reaches, if any (R161, R182). -/
def State.fastOff (s : State) (a : Word) (write : Bool) : Option Nat :=
  if addrSpace a = 0 then match s.place a write with
    | .mem k => some k
    | _ => none
  else none

/-- Queue a request: one that finds its class queue full, or others of its class at the ingress, waits there (R180). -/
def Pch.accept (p : Pch) (crit : Bool) (r : PchReq) : Pch :=
  if p.ingress.any (fun x => x.1 == crit) then { p with ingress := p.ingress ++ [(crit, r)] }
  else if crit then
    if p.crit.length < 64 then { p with crit := p.crit ++ [r] } else { p with ingress := p.ingress ++ [(crit, r)] }
  else
    if p.bulk.length < 256 then { p with bulk := p.bulk ++ [r] } else { p with ingress := p.ingress ++ [(crit, r)] }

/-- The present time in plc: the plinth clock runs at 1.8 GHz (R3, R180), 18 plc in each 10 ns of chain time. (DEDUCED,
log entry 99) -/
def State.plc (s : State) : Nat := 18 * s.chain.time

/-- The request for one atom, at the pseudo-channel that holds it. -/
def State.pchRequest (s : State) (off : Nat) (crit write nofill : Bool) : State :=
  s.modPch (s.ft.pchOf off) (fun p =>
    p.accept crit { arrival := s.plc, offset := off / 256 * 256, write := write, nofill := nofill })

/-- Offsets, from the start of an access of `n` bytes at an address, at which the parts begin that lie in different
atoms (R177). -/
def atomParts (a : Word) (n : Nat) : List Nat :=
  if n = 0 then []
  else (List.range ((a.toNat % 256 + n - 1) / 256 + 1)).map (fun i => 256 * i - a.toNat % 256)

/-- A read or write of `n` bytes at a global address: one request for each atom of the fast tier that it touches (R177,
R178). -/
def State.request (s : State) (a : Word) (n : Nat) (crit write nofill : Bool) : State :=
  (atomParts a n).foldl (fun s i => match s.fastOff (a + BitVec.ofNat 64 i) write with
    | some o => s.pchRequest o crit write nofill
    | none => s) s

/-- The global address of a fast-tier offset of this module. -/
def fastAddr (off : Nat) : Word := BitVec.ofNat 64 (0xFFF * 2 ^ 52 + off % 2 ^ 48)

/-- A bulk read of the fast tier by a Mason, a mirror or the command engine (R179). -/
def State.bulkRead (s : State) (off n : Nat) : State := s.request (fastAddr off) n false false false
/-- A bulk write of the fast tier (R179). -/
def State.bulkWrite (s : State) (off n : Nat) : State := s.request (fastAddr off) n false true false
/-- The module's own write at a fast-tier offset, as bulk traffic (R162, R178, R179). -/
def State.fastWrite (s : State) (off : Nat) (bs : List Byte) : State :=
  (s.writeAt (fastAddr off) bs).bulkWrite off bs.length
/-- What a read of `n` bytes at a global address costs one of the module's engines: a bulk read of the fast tier (R179),
counted where it falls under R162. -/
def State.engineRead (s : State) (a : Word) (n : Nat) : State := (s.countBad a n false).request a n false false false

/-! ## Where packets go (R171) -/

/-- The module to which a packet goes. -/
def packetModule (p : Packet) : Nat := if isResponse p.op then p.srcModule.toNat else addrModule p.dst

/-- The unit of the mesh to which an address leads: a core, a cluster memory, a plinth die, or the control space. -/
def State.meshUnit (s : State) (a : Word) : Nat :=
  match addrSpace a with
  | 0 => 2000 + (match s.fastOff a false with
    | some k => s.ft.pchOf k / 64
    | none => 0)
  | 1 => 1000 + addrOff a / 2 ^ 25
  | 2 => addrOff a / 2 ^ 21
  | _ => 3000

/-! ## Tallies (R107, R216, R231) -/

/-- An address with bits [2:0] cleared. -/
def align8 (a : Word) : Word := a &&& 0xFFFFFFFFFFFFFFF8

/-- A status of a packet (R209). -/
def stOk : BitVec 3 := 0
/-- PEER_ABSENT. -/
def stAbsent : BitVec 3 := 1
/-- BROKEN. -/
def stBroken : BitVec 3 := 2
/-- FULL. -/
def stFull : BitVec 3 := 3

/-- Add to the tally at a memory key; a broken home discards the addition (R231). -/
def State.addKey (s : State) (key : Nat) (amount : Word) : State × BitVec 3 :=
  if s.broken key then (s, stBroken)
  else (s.store key (wordBytes (s.mem.word key + amount)), stOk)

/-- Add to the tally at a global address of this module: it is read and written (R107, R162, R178). -/
def State.addLocal (s : State) (a : Word) (amount : Word) : State × BitVec 3 :=
  match s.place (align8 a) true with
  | .mem k =>
    if s.broken k then (s, stBroken)
    else (((s.addKey k amount).1.request (align8 a) 8 false false false).request (align8 a) 8 false true false, stOk)
  | .dead => (s, stOk)
  | .ctl _ => (s.violate .undefined, stOk)
  | .bad v => (s.violate v, stOk)

/-- Advance a tally by 1: on this module at once, on another by a TADD packet of the unit named. (DESIGN CHOICE, log
entry 33) -/
def State.advance (s : State) (a : Word) (unit : Nat) (tag : Nat) : State :=
  if s.isSelf (addrModule a) then (s.addLocal a 1).1
  else s.send { op := 4, dst := a, aux := 1, srcModule := s.self, srcUnit := BitVec.ofNat 10 unit,
                tag := BitVec.ofNat 6 tag }

/-- Advance the completion tally at scratchpad offset 8 × ct of a core; 0 names none (R101). -/
def State.advanceCt (s : State) (c : Nat) (ct : BitVec 18) : State :=
  if ct = 0 then s else (s.addKey (spadKey c (8 * ct.toNat)) 1).1

/-! ## Engines and their slots (R206) -/

/-- A slot of the engine with a unit number (R209): cores, Masons and host ports. -/
def State.slotOf (s : State) (unit tag : Nat) : Option RemSlot :=
  if unit < 576 then SMap.find? (s.core unit).eng.remotes tag
  else if unit < 580 then SMap.find? (s.mason (unit - 576)).slots tag
  else if unit < 582 then SMap.find? (s.port (unit - 580)).slots tag
  else none

/-- Write a slot of an engine; `none` frees it. -/
def State.setSlot (s : State) (unit tag : Nat) (v : Option RemSlot) : State :=
  let upd (m : SMap RemSlot) : SMap RemSlot := match v with
    | none => SMap.erase m tag
    | some x => SMap.set m tag x
  if unit < 576 then s.modEng unit (fun e => { e with remotes := upd e.remotes })
  else if unit < 580 then s.modMason (unit - 576) (fun m => { m with slots := upd m.slots })
  else if unit < 582 then s.modPort (unit - 580) (fun p => { p with slots := upd p.slots })
  else s

/-! ## Order of packets (R171, R215) -/

/-- Two chain addresses name one module: 0xFFF and the module's own address both name the module. -/
def State.oneModule (s : State) (a b : Nat) : Bool := decide (a = b) || (s.isSelf a && s.isSelf b)

/-- The address from which a response comes: what an ACK, a WAKE or a K_RELEASE names; what a GET_RESP answers, as its flight
or the issuer's slot says. -/
def State.sourceOf (s : State) (f : Flight) : Option Word :=
  if f.pkt.op ≠ 3 then some f.pkt.dst
  else f.source.or (((s.slotOf f.pkt.srcUnit.toNat f.pkt.tag.toNat).bind (fun x => x.branches[0]?)).map (fun b => b.dst))

/-- Two packets go to one unit of one module: a response to its issuer, a request to the unit that its address names. -/
def State.sameEnd (s : State) (p q : Packet) : Bool :=
  if isResponse p.op then s.oneModule p.srcModule.toNat q.srcModule.toNat && decide (p.srcUnit = q.srcUnit)
  else s.oneModule (addrModule p.dst) (addrModule q.dst) && decide (s.meshUnit p.dst = s.meshUnit q.dst)

/-- Two packets come from one unit of one module: two GET_RESPs whose source nothing tells answer one `get` or count as of
two sources (DEDUCED, log entry 86). -/
def State.sameStart (s : State) (f g : Flight) : Bool :=
  if isResponse f.pkt.op then
    match s.sourceOf f, s.sourceOf g with
    | some a, some b => s.oneModule (addrModule a) (addrModule b) && decide (s.meshUnit a = s.meshUnit b)
    | none, none => decide (f.pkt.tag = g.pkt.tag)
    | _, _ => false
  else s.oneModule f.pkt.srcModule.toNat g.pkt.srcModule.toNat && decide (f.pkt.srcUnit = g.pkt.srcUnit)

/-- Two packets travel from one source to one destination on one virtual channel (R171). (DEDUCED, log entry 86) -/
def State.sameStream (s : State) (f g : Flight) : Bool :=
  decide (isResponse f.pkt.op = isResponse g.pkt.op) && s.sameStart f g && s.sameEnd f.pkt g.pkt

/-- A packet's turn has come: no packet in flight was sent before it from its source to its destination (R171, R215). A
packet that is not in flight comes after those that are. (DEDUCED, log entry 86) -/
def State.inTurn (s : State) (p : Packet) : Bool :=
  let g := (s.net.flight.find? (fun f => f.pkt = p)).getD { pkt := p }
  (s.net.flight.find? (fun f => s.sameStream f g)).all (fun f => decide (f.pkt = p))

/-- The lowest index below `n` that a sparse array does not list. -/
def lowestFree {α : Type} (m : SMap α) (n : Nat) : Option Nat :=
  (List.range n).find? (fun i => (SMap.find? m i).isNone)

/-- Record a status in a strand's remote status bits (R105). -/
def State.noteStatus (s : State) (c t : Nat) (st : BitVec 3) : State :=
  if st = stAbsent then s.modStrand c t (fun x => { x with rstat := x.rstat ||| 1 })
  else if st = stBroken then s.modStrand c t (fun x => { x with rstat := x.rstat ||| 2 })
  else s

/-- An operation of a core ends with PEER_ABSENT: CLU_ABSENT and the lifetime log count it (R245, R458). -/
def State.countAbsent (s : State) (c : Nat) : State :=
  (s.modCluster (coreCluster c) (fun k => { k with absent := satAdd k.absent 1 })).logWait 2

/-! ## Notifications (R412) -/

/-- The reset value of a byte of the MSI-X table: every vector masked (PRESUMED, log entry 110). -/
def msixReset (off : Nat) : Byte := if off % 16 = 12 then 1 else 0

/-- A byte of the MSI-X table. -/
def Port.msixByte (p : Port) (off : Nat) : Byte := SMap.get (msixReset off) p.msix off

/-- The function mask, or the mask bit of an MSI-X vector: bit 0 of the fourth word of its table entry (PRESUMED, log
entry 8). -/
def Port.masked (p : Port) (v : Nat) : Bool := p.maskAll || (p.msixByte (16 * v + 12)).getLsbD 0

/-- Raise a vector of a port (R412). (PRESUMED, log entry 8) -/
def State.msix (s : State) (p v : Nat) : State :=
  if (s.port p).msixEn then
    if (s.port p).masked v then s.modPort p (fun q => { q with pba := q.pba ||| (1 <<< v) })
    else s.emit (.msix p v)
  else s

/-- Raise a vector of both ports. -/
def State.msixBoth (s : State) (v : Nat) : State := (s.msix 0 v).msix 1 v

/-- The module state changes (R407, R412 vector 0). -/
def State.setMod (s : State) (st : ModState) : State :=
  if s.job.st = st then s else ({ s with job := { s.job with st := st } }).msixBoth 0

/-! ## Fault holds (R359) -/

/-- Causes of a fault hold (R359). -/
inductive Hold where
  | peerLost | pchRetired | slowLost | latchLost | sramUncorrected | replay | shedding
deriving DecidableEq, Repr

/-- Cause codes (R359). -/
def Hold.code : Hold → BitVec 4
  | .peerLost => 1 | .pchRetired => 2 | .slowLost => 3 | .latchLost => 4
  | .sramUncorrected => 5 | .replay => 6 | .shedding => 7

/-- The causes that freeze every strand (R359). -/
def Hold.freezes : Hold → Bool
  | .pchRetired => true | .sramUncorrected => true | .replay => true
  | _ => false

/-- The causes that stop the Masons (R359). -/
def Hold.stopsMasons : Hold → Bool
  | .pchRetired => true | .slowLost => true | .sramUncorrected => true | .replay => true
  | _ => false

/-- The cause that HST_STATE and PLB_FAULT_STATE show: the first that stands. -/
def Job.holdCause (j : Job) : BitVec 4 := j.holds.headD 0

/-- A fault hold arises (R359, R370): ready to 0, the cause recorded, strands and Masons stopped as the cause asks;
HELD from RUNNING or SET; a RESUME in progress ends without completion; vector 2 unless the module is held already. A
module that is not up, or has failed, only records it. -/
def State.hold (s : State) (h : Hold) (unit : Nat) : State :=
  let was := s.job.st
  if was = .unset ∨ was = .failed then s.errLog h.code.toNat unit else
  let s := s.errLog h.code.toNat unit
  let s := { s with
    chain := { s.chain with ready := false }
    job := { s.job with
      holds := s.job.holds ++ [h.code]
      frozen := s.job.frozen || h.freezes
      masonStop := s.job.masonStop || h.stopsMasons
      rewind := s.job.rewind.filter (fun r => !r.resume)
      prior := if was = .running ∨ was = .set then was else s.job.prior } }
  let s := if was = .running ∨ was = .set then s.setMod .held else s
  if was = .held then s else s.msixBoth 2

/-! ## Commands of hosts (R402, R403, R410, R411) -/

/-- Reasons for which a command is not taken (R411). -/
inductive Reason where
  | generation | opcode | state | lift | operand | overlap | pin | lateStart | faceChange | program
  | rewound | hostError
deriving DecidableEq, Repr

/-- Reason codes (R411). -/
def Reason.code : Reason → BitVec 8
  | .generation => 1 | .opcode => 2 | .state => 3 | .lift => 4 | .operand => 5 | .overlap => 6
  | .pin => 7 | .lateStart => 8 | .faceChange => 9 | .program => 10 | .rewound => 11 | .hostError => 12

/-- State codes (R407). -/
def ModState.code : ModState → BitVec 4
  | .unset => 0 | .set => 1 | .running => 2 | .held => 3 | .rewinding => 4 | .failed => 5

/-- Write a status ring entry for a command that is not taken (R410). -/
def State.refuse (s : State) (k : Cmd) (r : Reason) : State :=
  let e : RingEntry :=
    { gen := 1, opcode := k.opcode, sub := k.sub, reason := r.code, state := s.job.st.code,
      list := BitVec.ofNat 3 k.list, tag := k.tag, index := k.index }
  let s := s.modPort k.port (fun p => { p with
    ring := SMap.set p.ring (p.ringHead.toNat % 64) e, ringHead := p.ringHead + 1,
    refused := satAdd p.refused 1 })
  (s.logAdd (0x5180 + 8 * r.code.toNat) 8 1).msix k.port 1

/-- A command completes: its completion tally advances by 1; 0 names none (R399, R403). -/
def State.complete (s : State) (k : Cmd) : State :=
  if k.done = 0 then s else s.advance k.done (580 + k.port) 63

/-! ## Issue of core instructions (R24, R27, R483) -/

/-- The strands of a core are frozen by a hold or a STOP; a suspect that is being replayed is not (R359, R377). -/
def State.coreFrozen (s : State) (c : Nat) : Bool :=
  s.job.frozen && (match s.job.replay with
    | some r => decide (r.current ≠ some c)
    | none => true)

/-- A strand can issue its next instruction, the instruction's own conditions apart (R27, R49, R84, R359). -/
def State.canIssue (s : State) (c t : Nat) : Bool :=
  decide ((s.core c).run.state = .running) && !s.coreFrozen c &&
  !(s.strand c t).atEnd && decide ((s.strand c t).wait = .none)

/-- Move a strand's instruction pointer on. -/
def State.advanceIp (s : State) (c t : Nat) (n : Word) : State :=
  s.modStrand c t (fun x => { x with ip := x.ip + n })

/-- An instruction pointer at which a fetch finds no scratchpad (R24, R483). -/
def State.pastEnd (s : State) (c t : Nat) : Bool := decide (2 ^ 21 ≤ (s.strand c t).ip.toNat)

/-- Issue an instruction of one word whose own conditions `ready` states: a strand that is not ready does nothing
(R27); past the end of the scratchpad zero words run as `nop` and count (R483). (DESIGN CHOICE, log entry 16) -/
def State.issue (s : State) (c t : Nat) (ready : Bool) (effect : State → State) : State :=
  if !s.canIssue c t then s
  else if s.pastEnd c t then (s.advanceIp c t 8).violate .outOfCapacity
  else if !ready then s
  else effect s

/-- A strand's own `tload` of a tile is in progress (R27, R86). -/
def State.tilePending (s : State) (c t tile : Nat) : Bool :=
  (s.core c).eng.tops.any (fun o => match o with
    | .load st tl _ _ => decide (st = t ∧ tl = tile)
    | .store _ _ => false)

/-- A strand's own `tstore` is in progress: its bytes come before the strand's later accesses (R27, R87). -/
def State.storePending (s : State) (c t : Nat) : Bool :=
  (s.core c).eng.tops.any (fun o => match o with
    | .load _ _ _ _ => false
    | .store st _ => decide (st = t))

/-- Registers that an abrd writes (R92). -/
def RdOp.writes (r : RdOp) (v : Nat) : Bool :=
  decide (v = r.vd) || (decide (r.ofmt = 6) && decide (v = r.vd + 1))

/-- A register that an earlier instruction of the strand has not yet written (R27). -/
def State.regPending (s : State) (c t v : Nat) : Bool :=
  let own (r : RdOp) : Bool := decide (r.strand = t) && r.writes v
  s.tilePending c t (v / 8) || (s.core c).arr.readout.any own || (s.core c).arr.queue.any (fun e => match e with
    | .rd r => own r
    | _ => false)

/-- Some register of a tile is still to be written by an earlier instruction of the strand (R27). -/
def State.tileBusy (s : State) (c t tile : Nat) : Bool :=
  (List.range 8).any (fun i => s.regPending c t (8 * tile + i))

end Sys2Proof.Machine
end

