-- ==== Sys2Proof/Machine/Operands.lean ====
section
/-! DEFINITION. Operand forms of core instructions: scalar registers (R67), vector registers and tiles through shapes
(R68–R75), the scratchpad through offsets (R81, R99, R483), and decoding of element formats (R69, R115–R118). -/

namespace Sys2Proof.Machine

/-! ## Scalar registers (R67) -/

/-- Read a scalar register; S0 reads as zero. -/
def State.sreg (s : State) (c t : Nat) (r : BitVec 5) : Word :=
  if r = 0 then 0 else SMap.get 0 (s.strand c t).regs r.toNat

/-- Write a scalar register; a write to S0 is discarded. -/
def State.setSreg (s : State) (c t : Nat) (r : BitVec 5) (v : Word) : State :=
  if r = 0 then s else s.modStrand c t (fun x => { x with regs := SMap.put 0 x.regs r.toNat v })

/-- The immediate of layouts S, T and VM, sign-extended (R80). -/
def immWord (imm : BitVec 32) : Word := imm.signExtend 64

/-- Operand b of a scalar instruction: Sb, or imm when i = 1 (R81). -/
def State.operandB (s : State) (c t : Nat) (w : SWord) : Word :=
  if w.i then immWord w.imm else s.sreg c t w.sb

/-- CORE_CYCLE: core clock cycles since the release of the core's last reset (R61). -/
def State.coreCycle (s : State) (c : Nat) : Word := BitVec.ofNat 64 (s.pwr.coreClk - (s.core c).run.clkBase)

/-! ## The scratchpad by offset (R483) -/

/-- Some byte of an access of `n` bytes lies at an offset of 2 MiB or more. -/
def spadPast (off : Word) (n : Nat) : Bool := decide (0 < n) && decide (2 ^ 21 < off.toNat + n)

/-- Read bytes of the own scratchpad: zero at 2 MiB or more. -/
def State.spadRead (s : State) (c : Nat) (off : Word) (n : Nat) : List Byte :=
  (List.range n).map (fun i =>
    if off.toNat + i < 2 ^ 21 then s.mem.byte (spadKey c (off.toNat + i)) else 0)

/-- Bytes to write to the own scratchpad: those at 2 MiB or more are dropped. -/
def spadBytes (c : Nat) (off : Word) (bs : List Byte) : List (Nat × Byte) :=
  ((List.range bs.length).zip bs).filterMap (fun p =>
    if off.toNat + p.1 < 2 ^ 21 then some (spadKey c (off.toNat + p.1), p.2) else none)

/-! ## Vector registers and tiles -/

/-- The mark that a vector instruction or `abrd` leaves: the whole tile, format ANY (R72). -/
def markAny : Mark := { fmt := 0xF, pitch := 0, width := 64, rows := 64 }

/-- Byte `b` of register `n`: a register of an empty tile reads as zero (R73). -/
def RegFile.byte (r : RegFile) (n b : Nat) : Byte :=
  if (SMap.get {} r.marks (n / 8)).rows = 0 then 0 else SMap.get 0 r.bytes (512 * n + b)

/-- The 512 bytes of a register. -/
def RegFile.vec (r : RegFile) (n : Nat) : List Byte := (List.range 512).map (fun b => r.byte n b)

/-- Lane `i` of a register. -/
def RegFile.lane (r : RegFile) (n i : Nat) : W32 :=
  BitVec.ofNat 32 (leNat ((List.range 4).map (fun j => r.byte n (4 * i + j))))

/-- The 128 lanes of a register. -/
def RegFile.lanes (r : RegFile) (n : Nat) : List W32 := (List.range 128).map (fun i => r.lane n i)

/-- Store bytes into the register file's storage, by index 512 · register + byte. -/
def RegFile.storeBytes (r : RegFile) (base : Nat) (bs : List Byte) : RegFile :=
  { r with bytes := ((List.range bs.length).zip bs).foldl (fun m p => SMap.put 0 m (base + p.1) p.2) r.bytes }

/-- A tile is written by an instruction: its write count advances (R75) and its mark is set (R72). -/
def RegFile.touch (r : RegFile) (mark : Mark) (tile : Nat) : RegFile :=
  { r with marks := SMap.put {} r.marks tile mark, wcnt := SMap.put 0 r.wcnt tile (SMap.get 0 r.wcnt tile + 1) }

/-- A tile that a vector instruction is about to write: the storage of an empty one reads as zero (R73). -/
def RegFile.openTile (r : RegFile) (tile : Nat) : RegFile :=
  if (SMap.get {} r.marks tile).rows = 0 then
    { r with bytes := SMap.clear r.bytes (4096 * tile) (4096 * tile + 4096) }
  else r

/-- A vector instruction's write of bytes from byte `b` of register `n`. -/
def RegFile.vecWrite (r : RegFile) (n b : Nat) (bs : List Byte) : RegFile :=
  ((r.openTile (n / 8)).storeBytes (512 * n + b) bs).touch markAny (n / 8)

/-- One instruction's write of two registers: a tile that holds both is written once (R75). -/
def RegFile.vecWrite2 (r : RegFile) (n b : Nat) (bs : List Byte) (n' b' : Nat) (bs' : List Byte) : RegFile :=
  let r' := (((r.openTile (n / 8)).openTile (n' / 8)).storeBytes (512 * n + b) bs).storeBytes (512 * n' + b') bs'
  if n / 8 = n' / 8 then r'.touch markAny (n / 8) else (r'.touch markAny (n / 8)).touch markAny (n' / 8)

/-- The bytes of lanes. -/
def laneBytes (ls : List W32) : List Byte := ls.flatMap (fun x => leBytes 4 x.toNat)

/-- Release a tile: its storage reads as zero, its mark is empty, and its write count advances (R72, R74, R75). -/
def RegFile.release (r : RegFile) (tile : Nat) : RegFile :=
  ({ r with bytes := SMap.clear r.bytes (4096 * tile) (4096 * tile + 4096) }).touch {} tile

/-! ## Element formats (R69) -/

/-- An element format. -/
inductive EFmt where
  | e4m3 | e5m2 | e4m3b | e5m2b | e2m1b | bf16 | fp32 | int8 | int32
deriving DecidableEq, Repr

/-- The element format that a code names as a tile (R69). -/
def tileFmt (code : BitVec 4) : Option EFmt :=
  match code.toNat with
  | 0 => some .e4m3 | 1 => some .e5m2 | 2 => some .e4m3b | 3 => some .e5m2b | 4 => some .e2m1b
  | 5 => some .bf16 | 6 => some .fp32 | 7 => some .int8 | 8 => some .int32
  | _ => none

/-- Bytes of an element; for E2M1 a column is a byte of two elements (R70). -/
def EFmt.size : EFmt → Nat
  | .bf16 => 2 | .fp32 => 4 | .int32 => 4
  | _ => 1

/-- A format whose elements share block scales (R118). -/
def EFmt.block : EFmt → Bool
  | .e4m3b => true | .e5m2b => true | .e2m1b => true
  | _ => false

/-- The float of a format, for formats that are not integers. -/
def EFmt.flt : EFmt → Option FFmt
  | .e4m3 => some .e4m3 | .e4m3b => some .e4m3 | .e5m2 => some .e5m2 | .e5m2b => some .e5m2
  | .e2m1b => some .e2m1 | .bf16 => some .bf16 | .fp32 => some .fp32
  | _ => none

/-- The value of an element's code. -/
def EFmt.val (f : EFmt) (code : Nat) : FVal :=
  match f with
  | .int8 => intVal 8 code
  | .int32 => intVal 32 code
  | _ => match f.flt with
    | some g => g.decode code
    | none => .nan

/-- Element `k` of a row of bytes (R70, R117). -/
def EFmt.elem (f : EFmt) (row : List Byte) (k : Nat) : FVal :=
  match f with
  | .e2m1b =>
    let b := (row.getD (k / 2) 0).toNat
    FFmt.e2m1.decode (if k % 2 = 0 then b % 16 else b / 16)
  | _ => f.val (leNat (slice row (k * f.size) f.size))

/-- Pack E2M1 codes two to a byte (R117). -/
def packE2m1 : List Nat → List Byte
  | a :: b :: l => BitVec.ofNat 8 (a % 16 + 16 * (b % 16)) :: packE2m1 l
  | [a] => [BitVec.ofNat 8 (a % 16)]
  | [] => []

/-! ## Shapes (R70, R78) -/

/-- Rows of a shape. -/
def shRows (sh : Shape) : Nat := sh.rows.toNat + 1
/-- Columns of a shape. -/
def shCols (sh : Shape) : Nat := sh.cols.toNat + 1
/-- Row bytes B (R70). -/
def shBytes (sh : Shape) (f : EFmt) : Nat := shCols sh * f.size
/-- Row pitch P (R70). -/
def pitchOf (b : Nat) : Nat := if b ≤ 64 then 64 else if b ≤ 128 then 128 else 256
/-- Pitch code of a fill mark (R71). -/
def pitchCode (b : Nat) : BitVec 2 := if b ≤ 64 then 0 else if b ≤ 128 then 1 else 2
/-- Pitch of a fill mark. -/
def Mark.pitchBytes (m : Mark) : Nat := if m.pitch = 0 then 64 else if m.pitch = 1 then 128 else 256
/-- Row capacity (R70). -/
def rowCap (b : Nat) : Nat := 4096 / pitchOf b

/-- Tile byte `t` is covered by a mark (R73). -/
def Mark.covers (m : Mark) (t : Nat) : Bool :=
  decide (t / m.pitchBytes < m.rows.toNat) && decide (t % m.pitchBytes < m.width.toNat)

/-- The fill mark of a tile. -/
def RegFile.mark (r : RegFile) (tile : Nat) : Mark := SMap.get {} r.marks tile

/-- Every byte of the element of `es` bytes in which row byte `j` of tile row start `base` lies is covered (R73). -/
def Mark.coversElem (m : Mark) (base es j : Nat) : Bool :=
  (List.range es).all (fun x => m.covers (base + j / es * es + x))

/-- Row `i` of a tile through a shape: `b` bytes at pitch P in elements of `es` bytes; an element that the mark does
not cover whole reads as zero (R73), and a row beyond the row capacity is not read. (DEDUCED, log entry 19) -/
def RegFile.tileRow (r : RegFile) (tile b es i : Nat) : List Byte :=
  if rowCap b ≤ i then List.replicate b 0
  else (List.range b).map (fun j =>
    if (r.mark tile).coversElem (i * pitchOf b) es j then SMap.get 0 r.bytes (4096 * tile + i * pitchOf b + j) else 0)

/-- A tile read of rows lo to hi − 1 covers bytes that a non-empty mark does not cover, or goes through a format other
than a non-empty mark's (R110). -/
def RegFile.readMisfit (r : RegFile) (tile b lo hi : Nat) (fmt : BitVec 4) : Bool :=
  let m := r.mark tile
  decide (m.rows ≠ 0) &&
  ((decide (m.fmt ≠ 0xF) && decide (m.fmt ≠ fmt)) ||
   (List.range (hi - lo)).any (fun i => (List.range b).any (fun j => !m.covers ((lo + i) * pitchOf b + j))))

/-- The mark that a `tload` leaves (R72). -/
def loadMark (sh : Shape) (f : EFmt) : Mark :=
  let b := shBytes sh f
  { fmt := sh.fmt, pitch := pitchCode b, width := BitVec.ofNat 9 b, rows := BitVec.ofNat 7 (min (shRows sh) (rowCap b)) }

/-- The scale byte of row `i` and segment `g` in a scale register (R70). -/
def RegFile.scaleByte (r : RegFile) (v i g : Nat) : Byte := r.byte v (4 * i + g)

/-! ## Issue of two-word instructions (R77) -/

/-- The shape word that a two-word instruction finds: zero at an offset of 2 MiB or more (R483). -/
def State.shapeAt (s : State) (c t : Nat) (sh : Shape) : Shape :=
  if 2 ^ 21 ≤ (s.strand c t).ip.toNat + 8 then {} else sh

/-- Count a shape word that lies at 2 MiB or more (R483). -/
def State.countShape (s : State) (c t : Nat) : State :=
  s.outOfCapIf (decide (2 ^ 21 ≤ (s.strand c t).ip.toNat + 8))

/-- Retire an instruction of `n` bytes: the pointer moves on, and a misfit counts once (R110). -/
def State.retire (s : State) (c t : Nat) (n : Word) (mis : Bool) : State := (s.advanceIp c t n).misfitIf c mis

/-- The instruction that a strand's instruction pointer names (R24, R79): the words there in the core's scratchpad. A
command that is an instruction stands for the fetch of exactly this one, and its meaning does not compare the two (DESIGN
CHOICE, log entry 113). -/
def State.fetched (s : State) (c : CoreId) (t : StrandId) : Instr :=
  let ip := (s.strand c t).ip
  decodeCore c t (leWord (s.spadRead c ip 8)) (leWord (s.spadRead c (ip + 8) 8))

end Sys2Proof.Machine
end

