-- ==== Sys2Proof/Machine/Regs.lean ====
section
/-! DEFINITION. The control space (R164): what each register word reads as, which words a write may reach, and the
fields that a read clears (R4, R6). -/

namespace Sys2Proof.Machine

/-- Assemble a word from (lowest bit, value) fields. -/
def fields (l : List (Nat × Nat)) : Word := BitVec.ofNat 64 (l.foldl (fun acc p => acc + p.2 * 2 ^ p.1) 0)

/-! ## Absence (R268) -/

/-- The route entry of an address. -/
def State.route (s : State) (a : Nat) : Route := SMap.get {} s.lnk.routes a

/-- The module treats an address as absent (R268): declared so by the head, or not its own and without a route. -/
def State.absent (s : State) (a : Nat) : Bool :=
  s.chain.declared.contains a || (!s.isSelf a && decide ((s.route a).links = 0))

/-! ## HST_ (R414–R419) -/

/-- A port is idled (R447): S4 idles port 1 while the link of port 0 is up. -/
def State.portIdled (s : State) (p : Nat) : Bool := (s.port p).idle && (s.port (1 - p)).up

/-- The width that a port's link runs at: an idled port is in L0p at ×2 (R447; DEDUCED, log entry 123). -/
def State.portWidth (s : State) (p : Nat) : Nat :=
  let w := (s.port p).width.toNat
  if s.portIdled p then min w 2 else w

/-- HST_PORT_STATUS (R417). -/
def State.portStatus (s : State) (p : Nat) : Word :=
  let q := s.port p
  fields [(16, ((List.range 8).map (fun w => b2n (SMap.get {} q.lists w).enable * 2 ^ w)).sum),
          (11, s.portWidth p), (8, q.speed.toNat), (7, b2n q.flit), (6, b2n (s.port (1 - p)).up)]

/-- HST_WL words (R418). -/
def WorkList.word (w : WorkList) (i : Nat) : Word :=
  match i with
  | 0 => fields [(12, w.base.toNat)]
  | 1 => fields [(63, b2n w.enable), (0, w.k.toNat)]
  | 2 => fields [(3, w.tally.toNat)]
  | _ => w.consumed

/-- HST_RING words (R419). -/
def RingEntry.word (e : RingEntry) (i : Nat) : Word :=
  match i with
  | 0 => fields [(60, e.gen.toNat), (52, e.opcode.toNat), (48, e.sub.toNat), (40, e.reason.toNat),
                 (36, e.state.toNat), (32, e.list.toNat), (0, e.tag.toNat)]
  | _ => e.index

/-- A port's registers, at an offset from its base (R414), out of reset. -/
def State.portLive (s : State) (p r : Nat) : Option Word :=
  let q := s.port p
  if r = 0 then some (s.portStatus p)
  else if r = 8 then some (fields [(30, q.apBase.toNat)])
  else if r = 0x10 then some q.ringHead
  else if r = 0x18 then some (fields [(32, q.taken.toNat), (0, q.refused.toNat)])
  else if within r 0x100 0x100 then some ((SMap.get {} q.lists ((r - 0x100) / 0x20)).word ((r - 0x100) % 0x20 / 8))
  else if within r 0x480 0x380 then
    let n := SMap.get {} q.notify ((r - 0x400) / 0x10)
    some (if r % 0x10 = 0 then n.addr else n.value)
  else if within r 0x1000 0x400 then some ((SMap.get {} q.ring ((r - 0x1000) / 0x10)).word (r % 0x10 / 8))
  else none

/-- A port's registers: its reset values while PERST# holds the port in reset (R390, R438). -/
def State.portWord (s : State) (p r : Nat) : Option Word :=
  if (s.port p).perst then (s.portLive p r).map (fun _ => 0) else s.portLive p r

/-- HST_STATE (R415). -/
def State.hstState (s : State) : Word :=
  fields [(48, s.job.stops.toNat), (32, s.job.resumes.toNat), (16, s.job.holdCause.toNat), (0, s.job.st.code.toNat)]

/-- The HST_ region as port `p` reads it (R414). -/
def State.hstWord (s : State) (p r : Nat) : Option Word :=
  if r = 0 then some (fields [(24, 0x40), (16, 0x40), (8, 8), (4, 2), (0, 1)])
  else if r = 8 then some s.hstState
  else if r = 0x10 ∨ r = 0x18 then some 0
  else if within r 0x1000 0x10000 then s.portWord 0 (r - 0x1000)
  else if within r 0x11000 0x10000 then s.portWord 1 (r - 0x11000)
  else if within r 0x80000 0x400 then
    some (leWord ((List.range 8).map (fun i => (s.port p).msixByte (r - 0x80000 + i))))
  else if r = 0x81000 then some (s.port p).pba
  else none

/-! ## The lifetime log record (R458) -/

/-- The record as the live log has it. -/
def Plumb.record (p : Plumb) : LogRec :=
  { log := p.log, replacements := p.replacements, retirements := p.retirements, logAddr := p.logAddr,
    logFail := p.logFail,
    logSeq := p.logSeq, powered := p.powered, coldStarts := p.coldStarts }

/-- A word of a record, its header's CRC apart. The places of fields that R458 does not place are PRESUMED
(log entry 11). -/
def LogRec.word (l : LogRec) (o : Nat) : Word :=
  if o = 0 then fields [(32, 0x474C5754), (28, 1)]
  else if o = 8 then BitVec.ofNat 64 l.logSeq
  else if o = 0x10 then BitVec.ofNat 64 (minutesOf l.powered)
  else if o = 0x18 then BitVec.ofNat 64 l.coldStarts
  else if o = 0x40 then BitVec.ofNat 64 (l.logAddr.getD 0xFFF)
  else if o = 0x48 then (match l.logFail with
    | some f => f.1.setWidth 64
    | none => 0)
  else if o = 0x50 then (match l.logFail with
    | some f => BitVec.ofNat 64 (minutesOf f.2)
    | none => 0)
  else if within o 0x140 0x100 then
    (match l.replacements[(o - 0x140) / 8]? with
     | some r => fields [(16, r.die), (8, r.grid), (0, r.spare)]
     | none => 0)
  else if within o 0x4500 0x400 then
    (match l.retirements[(o - 0x4500) / 16]? with
     | some (k, u, m, tag) => if o % 16 = 0 then fields [(32, k), (0, u)] else fields [(32, tag), (0, m)]
     | none => 0)
  else fields [(0, SMap.get 0 l.log o), (32, SMap.get 0 l.log (o + 4))]

/-- A record's bytes with its CRC field zero. -/
def LogRec.zeroed (l : LogRec) : List Byte := (List.range 32768).flatMap (fun i =>
  if i = 4 then leBytes 8 0 else wordBytes (l.word (8 * i)))

/-- The CRC that a record's content has. -/
def LogRec.sum (l : LogRec) : Word := crc64 l.zeroed

/-- A record's CRC holds (R457). -/
def LogRec.holds (l : LogRec) : Bool := decide (l.crc = l.sum)

/-- A byte of a record as the flash holds it. -/
def LogRec.byte (l : LogRec) (o : Nat) : Byte :=
  let w := if o / 8 = 4 then l.crc else l.word (8 * (o / 8))
  BitVec.ofNat 8 (w.toNat / 2 ^ (8 * (o % 8)))

/-- A word of the live record. -/
def State.recordWord (s : State) (o : Nat) : Word := s.plb.record.word o

/-- The CRC of the live record. -/
def State.recordCrc (s : State) : Word := s.plb.record.sum

/-! ## PLB_ (R383–R387, R439, R465–R467) -/

/-- PLB_FAULT_STATE (R384): a PCh that is retired after the eighth changes no reserved bit (R7). -/
def State.faultState (s : State) : Word :=
  fields [(26, s.plb.sramUnit.toNat), (20, s.plb.failCause.toNat), (12, s.job.holdCause.toNat),
          (8, b2n (decide (s.ft.retired ≠ s.ft.installed))), (0, min s.ft.retired.length 15)]

/-- PLB_PCH_ERR words (R387). -/
def State.pchErr (s : State) (p i : Nat) : Word :=
  let q := s.pch p
  if i = 0 then fields [(63, b2n (!s.ft.retired.contains p)), (62, b2n q.retraining), (32, q.uncorrected.toNat),
                        (16, q.retrains.toNat), (0, q.window.toNat)]
  else q.corrected

/-- PLB_UPD_STATUS (R467). -/
def State.updStatus (s : State) : Word :=
  let u := s.plb.upd
  fields [(32, u.version.toNat), (28, u.state.toNat), (24, u.result.toNat), (20, u.owner.toNat),
          (16, u.target.toNat), (8, u.chunks.toNat)]

/-- PLB_SO_STATUS (R439): no image is accepted before step 3 ends. -/
def State.soStatus (s : State) : Word :=
  fields [(32, if 4 ≤ s.start.phase.toNat then s.start.img.version.toNat else 0), (20, s.start.reason.toNat),
    (17, b2n s.start.short),
          (16, b2n s.start.identValid), (12, b2n s.start.slot), (8, s.start.phase.toNat), (0, 1)]

/-- The PLB_ region (R465). -/
def State.plbWord (s : State) (r : Nat) : Option Word :=
  let l := s.plb
  if r = 0 then some (fields [(32, s.start.fwVersion.toNat), (16, Config.romVersion.toNat), (8, b2n s.start.fwSlot),
                              (0, 1)])
  else if r = 8 then some (BitVec.ofNat 64 (l.uptime / 100000))
  else if within r 0x10000 0x400 then
    let t := SMap.get {} l.temps ((r - 0x10000) / 8)
    some (fields [(16, t.peak.toNat), (0, t.now.toNat)])
  else if within r 0x11000 0xB0 then
    let t := SMap.get {} l.rails ((r - 0x11000) / 8)
    some (fields [(48, t.mv.toNat), (32, t.amps.toNat), (16, t.peak.toNat)])
  else if within r 0x12000 0x240 then some ((SMap.get 0 l.cluCur ((r - 0x12000) / 8)).setWidth 64)
  else if r = 0x20000 then some 0
  else if r = 0x20008 then some s.updStatus
  else if within r 0x30000 0x10000 then
    some (leWord ((List.range 8).map (fun i => SMap.get 0 l.upd.buf (r - 0x30000 + i))))
  else if within r 0x40000 0x40000 then
    some (if r = 0x40020 then s.recordCrc else s.recordWord (r - 0x40000))
  else if r = 0x80000 then some s.faultState
  else if r = 0x80008 then some 0
  else if r = 0x80010 then
    some (fields [(32, l.resetCount.toNat), (28, l.resetDomain.toNat), (24, l.resetSource.toNat)])
  else if r = 0x80018 then
    some (fields [(32, l.dumpSeq.toNat % 2 ^ 32), (28, l.dumpState.toNat), (24, l.dumpTrigger.toNat),
                  (16, l.dumpSlot.toNat), (0, l.dumpUnread.toNat)])
  else if r = 0x80020 then some (fields [(32, l.sramCorr.toNat), (0, l.sramUncorr.toNat)])
  else if within r 0x81000 0x2000 then some (s.pchErr ((r - 0x81000) / 16) (r % 16 / 8))
  else if r = 0x90000 then some s.soStatus
  else if r = 0x90008 then
    some (fields [(48, s.start.imageMs.toNat), (32, s.start.memoryMs.toNat), (16, s.start.setMs.toNat)])
  else none

/-! ## PWR_ (R452–R454) -/

/-- The lowest of the points that the limiters set: the greatest index (R442). -/
def Power.wanted (p : Power) : BitVec 2 :=
  let t := max ((SMap.get 0 p.thermPoint 0).toNat) ((SMap.get 0 p.thermPoint 1).toNat)
  BitVec.ofNat 2 (max p.shedPoint.toNat (max p.powPoint.toNat t))

/-- What sets the point: the lowest code among those that set it, NONE where none does (R453). -/
def Power.limiter (p : Power) : Nat :=
  if p.point = 0 then 0
  else if p.shedPoint = p.point then 1
  else if p.powPoint = p.point then 2
  else if SMap.get 0 p.thermPoint 0 = p.point ∨ SMap.get 0 p.thermPoint 1 = p.point then 3
  else 0

/-- The PWR_ region (R452). -/
def State.pwrWord (s : State) (r : Nat) : Option Word :=
  let p := s.pwr
  if r = 0 then some (fields [(48, p.vin.toNat), (32, p.pin.toNat), (24, p.limiter), (16, p.point.toNat),
                              (8, p.deepest.toNat), (0, p.step.toNat)])
  else if r = 8 then some (fields [(16, 0x1770), (0, s.start.img.powerLimit)])
  else if within r 0x10 0x30 then some (SMap.get 0 p.droop ((r - 0x10) / 8 + 1))
  else if r = 0x40 then some p.energy
  else none

/-! ## CHN_ (R289–R292) -/

/-- The module's own ready (R277): a participant drives it as its work asks, a module that is HELD drives 0, any other 1; a
port whose bypass is closed drives nothing, and shows 0 (R290; DEDUCED, log entry 89). -/
def State.ownReady (s : State) : Bool :=
  if s.chain.bypass then false else
  match s.job.st with
  | .running => s.chain.ready
  | .held => false
  | _ => true

/-- The level of RDY upstream (R277): own ready and that of downstream, which is 1 for the tail; a bypass passes it. -/
def State.rdyOut (s : State) : Bool :=
  if s.chain.bypass then s.chain.rdyIn else s.ownReady && (s.chain.tail || s.chain.rdyIn)

/-- CHN_STATUS (R290). -/
def State.chnStatus (s : State) : Word :=
  let c := s.chain
  fields [(27, c.addr.toNat), (26, b2n c.addrValid), (25, b2n c.head), (24, b2n c.tail), (23, b2n c.full),
          (22, b2n (decide (s.job.st = .running))), (21, b2n s.ownReady), (20, b2n c.rdyIn), (16, c.port.toNat), (0, 1)]

/-- CHN_ABSENT (R292): an address that the module treats as absent, from its start-up's chain step on; until then the
reset value 0 (DEDUCED, log entry 89). -/
def State.absentBit (s : State) (a : Nat) : Bool := decide (7 ≤ s.start.phase.toNat) && decide (a < 4095) && s.absent a

/-- The CHN_ region (R289). -/
def State.chnWord (s : State) (r : Nat) : Option Word :=
  let c := s.chain
  if r = 0 then some s.chnStatus
  else if r = 8 then some (fields [(32, c.c.toNat), (0, c.h.toNat)])
  else if r = 0x10 then some (c.d.setWidth 64)
  else if r = 0x18 then some (BitVec.ofNat 64 c.time)
  else if r = 0x20 then some c.edges
  else if r = 0x28 then some c.frameErr
  else if r = 0x30 then some (fields [(48, c.enums.toNat), (32, c.splices.toNat), (16, c.absents.toNat),
                                      (0, c.headChanges.toNat)])
  else if within r 0x100 0x200 then
    let i := (r - 0x100) / 8
    some (BitVec.ofNat 64 ((List.range 64).map (fun k =>
      b2n (s.absentBit (64 * i + k)) * 2 ^ k)).sum)
  else none

/-! ## LNK_ (R282–R288) -/

/-- LNK_OWN_CAP (R284). -/
def ownCap : Word := 0x1103070880040000

/-- The registers of one link. -/
def Link.word (l : Link) (r : Nat) : Option Word :=
  match r with
  | 0 => some (fields [(20, l.cause.toNat), (16, l.bond.toNat), (12, l.width.toNat), (10, l.rate.toNat),
                       (4, l.gen.toNat), (0, l.state.toNat)])
  | 8 => some (fields [(31, b2n l.pValid), (18, l.pAddr.toNat), (14, l.pLink.toNat)])
  | 0x10 => some l.pCap
  | 0x18 => some (fields [(40, l.loss.toNat), (24, l.lengthCm.toNat), (20, l.cableType.toNat),
                          (19, b2n l.longPassive), (0, l.serialTag.toNat)])
  | 0x20 => some (fields [(16, l.retired.toNat), (8, l.live.toNat), (0, l.locked.toNat)])
  | 0x28 => some l.replays
  | 0x30 => some l.retrains
  | _ =>
    if within r 0x40 0x40 then
      let e := SMap.get {} l.laneErr ((r - 0x40) / 8)
      some (fields [(32, e.total.toNat), (0, e.window.toNat)])
    else none

/-- The LNK_ region (R282). -/
def State.lnkWord (s : State) (r : Nat) : Option Word :=
  if r < 0xC000 then (s.link (r / 0x1000)).word (r % 0x1000)
  else if r = 0xC000 then some ownCap
  else if within r 0x10000 0x8000 then
    let e := s.route ((r - 0x10000) / 8)
    some (fields [(16, min e.hops 15), (0, e.links.toNat)])
  else none

/-! ## MSN_ (R347–R352) -/

/-- GiB that a live channel gives (R318). -/
def chanGib : Nat := if Config.variantB then 32 else 64

/-- Live channels of a Mason (R318). -/
def State.liveChans (s : State) (m : Nat) : List Nat :=
  (List.range 4).map (fun i => 4 * m + i) |>.filter (fun k => (s.chan k).live)

/-- Present capacity of a Mason's region, in bytes (R318). -/
def State.masonCap (s : State) (m : Nat) : Nat := (s.liveChans m).length * chanGib * 2 ^ 30

/-- MSN_LIFT_STATE (R349). -/
def State.liftState (s : State) : Word :=
  let l := s.msn.lift
  fields [(48, l.pinsClosed.toNat), (32, l.pinsPrev.toNat), (7, b2n l.closedValid), (6, b2n l.prevIntact),
          (4, l.openState.toNat), (3, l.closed.toNat % 2)]

/-- Two addresses name one target of a multicast: one module, and in the scratchpad space one core. -/
def State.sameTarget (s : State) (a b : Word) : Bool :=
  (decide (addrModule a = addrModule b) || (s.isSelf (addrModule a) && s.isSelf (addrModule b))) &&
  (!decide (addrSpace a = 2) || decide (addrOff a / 2 ^ 21 = addrOff b / 2 ^ 21))

/-- A branch of an operation still has a packet that has not left the module, and so is held (R229). -/
def State.branchHeld (s : State) (unit tag : Nat) (b : Branch) : Bool :=
  s.net.flight.any (fun f => !isResponse f.pkt.op && s.isSelf f.pkt.srcModule.toNat &&
    decide (f.pkt.srcUnit.toNat = unit ∧ f.pkt.tag.toNat = tag) && s.sameTarget b.dst f.pkt.dst)

/-- A Mason has a multicast with a held branch (R229, R351). -/
def State.masonHeld (s : State) (m : Nat) : Bool :=
  (s.mason m).slots.any (fun p => p.2.mc && p.2.branches.any (fun b => decide (b.acksLeft ≠ 0) && s.branchHeld (576 + m) p.1 b))

/-- MSN_UNIT_STATUS (R351): a Mason with a held branch and nothing else that it waits for shows TARGETS. (DEDUCED, log
entry 50) -/
def State.unitStatus (s : State) (i : Nat) : Word :=
  let m := s.mason i
  let held := s.masonHeld i
  fields [(32, m.index.toNat), (4, if held && m.wait = 0 then 6 else m.wait.toNat),
          (0, if held && m.state = 0 then 1 else m.state.toNat)]

/-- The MSN_ region (R347). -/
def State.msnWord (s : State) (r : Nat) : Option Word :=
  if r = 0 then some (fields [(12, if Config.variantB then 0x200 else 0x400), (8, 4), (4, 4), (0, 1)])
  else if r = 8 then
    some (fields [(32, ((List.range 16).map (fun c => b2n (s.chan c).live * 2 ^ c)).sum),
                  (0, ((List.range 4).map (fun m => (s.liveChans m).length * chanGib * 1024)).sum)])
  else if r = 0x10 then some s.msn.lift.closed
  else if r = 0x18 then some s.liftState
  else if r = 0x20 then some s.msn.lift.mirroredOut
  else if r = 0x28 then some s.msn.lift.receivedIn
  else if r = 0x30 then some (fields [(62, s.msn.xfer.kind.toNat), (0, s.msn.xfer.bytes.toNat)])
  else if within r 0x100 0x80 then
    let m := s.mason ((r - 0x100) / 0x20)
    some (match r % 0x20 / 8 with
      | 0 => s.unitStatus ((r - 0x100) / 0x20)
      | 1 => m.done
      | 2 => m.frozen
      | _ => m.nonfinite)
  else if within r 0x200 0x100 then
    let c := s.chan ((r - 0x200) / 0x10)
    some (if r % 0x10 = 0 then fields [(63, b2n c.live), (62, b2n c.retraining), (32, c.uncorrected.toNat),
                                       (16, c.retrains.toNat), (0, c.window.toNat)]
          else c.corrected)
  else none

/-! ## FT_ (R140–R143, R198–R204) -/

/-- FT_RANGE_SLOT words (R143). -/
def RangeSlot.word (x : RangeSlot) (i : Nat) : Word :=
  match i with
  | 0 => x.converted
  | 1 => x.overflowed
  | 2 => x.vanished
  | _ => fields [(32, x.nonfinite.toNat), (0, x.peak.toNat)]

/-- The FT_ region (R198). -/
def State.ftWord (s : State) (r : Nat) : Option Word :=
  let f := s.ft
  if r = 0 then some (fields [(16, 0x200), (11, 0x10), (4, 0xB), (0, 1)])
  else if r = 8 then some (fields [(48, f.live), (0, f.capacity)])
  else if r = 0x10 then some (BitVec.ofNat 64 s.start.img.bulkThreshold)
  else if r = 0x18 then some (fields [(32, f.rebuilds.toNat), (0, f.used)])
  else if r = 0x20 then some (fields [(11, f.base0.toNat)])
  else if r = 0x28 then some (fields [(11, f.base1.toNat)])
  else if r = 0x30 then some (fields [(11, f.len.toNat)])
  else if r = 0x38 then some (fields [(1, b2n f.faceValid), (0, b2n f.parity)])
  else if within r 0x40 0x40 then
    let i := (r - 0x40) / 8
    some (BitVec.ofNat 64 ((List.range 64).map (fun k => b2n (!f.retired.contains (64 * i + k)) * 2 ^ k)).sum)
  else if within r 0x1000 0x8000 then
    let i := (r - 0x1000) / 8
    some (if i < f.used then fields [(15, 1), (0, f.slot i)] else 0)
  else if r = 0x10000 then some (fields [(12, 0x40), (4, 9), (0, 1)])
  else if r = 0x10008 then some 0
  else if within r 0x11000 0x8000 then
    let g := (r - 0x11000) / 0x200
    let o := (r - 0x11000) % 0x200
    if o < 0x120 then some ((s.rangeSlot (9 * g + o / 0x20)).word (o % 0x20 / 8)) else none
  else none

/-! ## CLU_ (R240–R246) -/

/-- Wait records of a cluster's controller in use. -/
def State.cluWaits (s : State) (k : Nat) : Nat :=
  (s.net.waits.filter (fun r => decide (s.homeOf r.key = .cluster k))).length

/-- Bits set in a mask. -/
def popcount (v : BitVec 576) : Nat := (setBits 576 v.toNat).length

/-- CLU_KS_SLOT words (R246). -/
def KSlot.word (x : KSlot) (i : Nat) : Word :=
  if i = 1 then x.round
  else
    let key := x.obj.toNat
    let inSpad := key / 2 ^ 48 = 2
    let unit := if inSpad then coreMember (key % 2 ^ 48 / 2 ^ 21) * 2 ^ 13 + key % 2 ^ 21 / 256
      else key % 2 ^ 25 / 256
    fields [(63, 1), (61, x.scope.toNat), (60, b2n x.broken), (59, b2n x.chainPending), (49, popcount x.cur),
            (39, popcount x.nxt), (29, popcount x.parts), (24, b2n (decide inSpad)), (0, unit)]

/-- A core is in reset (R60). -/
def State.coreInReset (s : State) (c : Nat) : Bool := decide ((s.core c).run.state = .reset)

/-- A cluster is in reset: with its members (R361). -/
def State.clusterInReset (s : State) (k : Nat) : Bool := (List.range 8).all (fun m => s.coreInReset (memberCore k m))

/-- A cluster's block (R240), out of reset. -/
def State.cluLive (s : State) (k r : Nat) : Option Word :=
  let x := s.cluster k
  if r = 0 then
    let cr := k / 12
    some (fields [(16, 0x10), (12, 8), (11, b2n (decide (cr = 1 ∨ cr = 4))), (8, clusterPlinth k), (0, 1)])
  else if r = 8 then some (BitVec.ofNat 64 ((x.slots.map (fun p => 2 ^ p.1)).sum))
  else if r = 0x10 then some x.stalls
  else if r = 0x18 then some (fields [(9, b2n s.ft.broken), (8, b2n x.brokenClm), (0, x.brokenSpad.toNat)])
  else if r = 0x20 then some x.brokenEvents
  else if r = 0x28 then some (fields [(32, x.full.toNat), (16, x.peak.toNat), (0, s.cluWaits k)])
  else if r = 0x30 then some x.mcHold
  else if r = 0x38 then some x.absent
  else if within r 0x100 0x100 then
    some (match SMap.find? x.slots ((r - 0x100) / 0x10) with
      | some y => y.word (r % 0x10 / 8)
      | none => 0)
  else none

/-- A cluster's block: its reset values while the cluster is in reset (R438; DEDUCED, log entry 105). -/
def State.cluWord (s : State) (k r : Nat) : Option Word :=
  if s.clusterInReset k && decide (r ≠ 0) then (s.cluLive k r).map (fun _ => 0) else s.cluLive k r

/-! ## CORE_ (R58–R66) -/

/-- State codes (R60). -/
def CoreState.code : CoreState → Nat
  | .idle => 0 | .running => 1 | .done => 2 | .edge => 3 | .parked => 4 | .held => 5 | .doneFault => 6 | .reset => 7

/-- The state that CORE_STATUS shows: HELD while the module is HELD with its strands frozen (R60; DEDUCED, log
entry 12). -/
def State.coreShown (s : State) (c : Nat) : CoreState :=
  if s.job.st = .held && s.coreFrozen c && decide ((s.core c).run.state = .running) then .held
  else (s.core c).run.state

/-- A mask of the strands that meet a condition. -/
def strandMask (k : Core) (f : Strand → Bool) : Nat :=
  ((List.range 4).map (fun t => b2n (f (SMap.get {} k.strands t)) * 2 ^ t)).sum

/-- A strand is blocked in `twait` (R60). -/
def Strand.inTwait (x : Strand) : Bool :=
  match x.wait with
  | .twait _ _ _ => true
  | _ => false

/-- CORE_STATUS (R60). -/
def State.coreStatus (s : State) (c : Nat) : Word :=
  let k := s.core c
  fields [(20, strandMask k (fun x => x.atEnd)), (16, strandMask k Strand.inTwait), (15, b2n (decide (k.run.loaded ≠ 0))),
          (12, k.run.ctx.toNat), (0, (s.coreShown c).code)]

/-- CORE_LATCH_FAULT (R62). -/
def State.latchFault (s : State) (c : Nat) : Word :=
  let a := (s.core c).arr
  fields [(32, a.lfTotal.toNat), (24, a.lfLostCount.toNat), (20, a.lfInCourse.toNat),
          (16, s.start.img.latchThreshold), (1, b2n a.lfLost), (0, b2n a.lfMarked)]

/-- CORE_COURSE_LOG words (R65). -/
def CourseEntry.word (e : CourseEntry) (i : Nat) : Word :=
  if i = 0 then e.start
  else fields [(40, e.course.toNat), (37, e.ctx.toNat), (36, b2n e.overrun), (35, b2n e.idle), (0, e.busy.toNat)]

/-- A core's block (R58), out of reset. -/
def State.coreLive (s : State) (c r : Nat) : Option Word :=
  let k := s.core c
  if r = 0 then
    let pos := k.run.spare.getD (coreGrid c)
    some (fields [(32, coreDie c), (25, coreCluster c), (15, c), (8, pos), (7, b2n k.run.spare.isSome), (0, 1)])
  else if r = 8 then some (s.coreStatus c)
  else if r = 0x10 then some (s.coreCycle c)
  else if r = 0x18 then some (s.latchFault c)
  else if r = 0x20 then
    some (fields [(8, 0x30), (4, 8), (2, b2n (decide (s.pwr.step = 0))), (1, b2n s.start.img.zeroGateEn),
                  (0, b2n s.start.img.fillerEn)])
  else if r = 0x28 then some (k.run.head.setWidth 64)
  else if within r 0x100 0x100 then some ((SMap.get {} k.run.clog ((r - 0x100) / 16)).word (r % 16 / 8))
  else if within r 0x200 0x40 then some (SMap.get 0 k.run.ctxTime ((r - 0x200) / 8))
  else if within r 0x240 0x40 then some (SMap.get 0 k.run.ctxCourses ((r - 0x240) / 8))
  else none

/-- A core's block: its reset values while the core is in reset (R438; DEDUCED, log entry 105). -/
def State.coreWord (s : State) (c r : Nat) : Option Word :=
  if !s.coreInReset c then s.coreLive c r
  else match r with
    | 0x10 => some 0
    | 0x18 => some (fields [(16, 3)])
    | 0x20 => some (fields [(8, 0x30), (4, 8), (2, 1), (1, 1), (0, 1)])
    | _ => s.coreLive c r

/-! ## The whole control space (R164) -/

/-- The 64-bit word at an 8-byte aligned control-space offset, as port `p` reads it: `none` where nothing is defined. -/
def State.ctlWord (s : State) (p o : Nat) : Option Word :=
  if o < 0x100000 then s.hstWord p o
  else if o < 0x200000 then s.plbWord (o - 0x100000)
  else if o < 0x300000 then s.pwrWord (o - 0x200000)
  else if o < 0x400000 then s.chnWord (o - 0x300000)
  else if o < 0x500000 then s.lnkWord (o - 0x400000)
  else if o < 0x600000 then s.msnWord (o - 0x500000)
  else if within o 0x1000000 0x100000 then s.ftWord (o - 0x1000000)
  else if within o 0x2000000 0x480000 then s.cluWord ((o - 0x2000000) / 0x10000) ((o - 0x2000000) % 0x10000)
  else if within o 0x3000000 0x240000 then s.coreWord ((o - 0x3000000) / 0x1000) ((o - 0x3000000) % 0x1000)
  else none

/-- The 8-byte aligned offsets of the words that a read of `n` bytes covers. -/
def wordsOf (o n : Nat) : List Nat :=
  if n = 0 then [] else (List.range ((o + n - 1) / 8 - o / 8 + 1)).map (fun i => 8 * (o / 8 + i))

/-- The bytes of `n` bytes of the control space. -/
def State.ctlBytes (s : State) (p o n : Nat) : List Byte :=
  let all := (wordsOf o n).flatMap (fun a => wordBytes ((s.ctlWord p a).getD 0))
  (all.drop (o % 8)).take n

/-- Clear the RC fields in bits [31:16] of the word at an offset (R4): PLB_TEMP and PLB_RAIL peak and CLU_WAIT_USE
peak. -/
def State.clearRc (s : State) (a : Nat) : State :=
  if within a 0x110000 0x400 then
    let temps := SMap.modify {} s.plb.temps ((a - 0x110000) / 8) (fun t => { t with peak := 0x8000 })
    { s with plb := { s.plb with temps := temps } }
  else if within a 0x111000 0xB0 then
    let rails := SMap.modify {} s.plb.rails ((a - 0x111000) / 8) (fun t => { t with peak := 0 })
    { s with plb := { s.plb with rails := rails } }
  else if within a 0x2000000 0x480000 && a % 0x10000 == 0x28 then
    let used := BitVec.ofNat 9 (s.cluWaits ((a - 0x2000000) / 0x10000))
    s.modCluster ((a - 0x2000000) / 0x10000) (fun k => { k with peak := used })
  else s

/-- The read covers a byte of bits [31:16] of the word at `a`. -/
def coversRc (o n a : Nat) : Bool := decide (o < a + 4) && decide (a + 2 < o + n)

/-- A read of the control space: words that nothing defines count as undefined (R9), each word of a read once (DESIGN
CHOICE, log entry 125), and RC fields are cleared. -/
def State.ctlRead (s : State) (p o n : Nat) : State :=
  (wordsOf o n).foldl (fun s a =>
    let s := if (s.ctlWord p a).isNone then s.violate .undefined else s
    if coversRc o n a then s.clearRc a else s) s

/-! ## Reserved bits (R7, R8) -/

/-- Reserved fields of a port's read-only words (R417, R419). -/
def portRsv (r : Nat) : List (Nat × Nat) :=
  if r = 0 then [(24, 40), (0, 6)]
  else if within r 0x1000 0x400 && r % 16 == 0 then [(35, 1)] else []

/-- Reserved fields of the HST_ words that cannot be written (R415, R417, R419). -/
def hstRsv (r : Nat) : List (Nat × Nat) :=
  if r = 0 then [(32, 32)]
  else if r = 8 then [(20, 12), (4, 12)]
  else if within r 0x1000 0x10000 then portRsv (r - 0x1000)
  else if within r 0x11000 0x10000 then portRsv (r - 0x11000) else []

/-- Reserved fields of the read-only PLB_ words (R384, R385, R387, R439, R466, R467). -/
def plbRsv (r : Nat) : List (Nat × Nat) :=
  if r = 0 then [(9, 7), (4, 4)]
  else if within r 0x10000 0x400 then [(32, 32)]
  else if within r 0x11000 0xB0 then [(0, 16)]
  else if within r 0x12000 0x240 then [(16, 48)]
  else if r = 0x20008 then [(0, 8)]
  else if r = 0x80000 then [(36, 28), (24, 2), (16, 4), (9, 3), (4, 4)]
  else if r = 0x80010 then [(0, 24)]
  else if within r 0x81000 0x2000 && r % 16 == 0 then [(48, 14)]
  else if r = 0x90000 then [(24, 8), (18, 2), (13, 3), (4, 4)]
  else if r = 0x90008 then [(0, 16)] else []

/-- Reserved fields of the CHN_ words (R290–R292). -/
def chnRsv (r : Nat) : List (Nat × Nat) :=
  if r = 0 then [(40, 24), (4, 12)] else if r = 0x10 then [(24, 40)] else if r = 0x2F8 then [(63, 1)] else []

/-- Reserved fields of the LNK_ words (R284–R288). -/
def lnkRsv (r : Nat) : List (Nat × Nat) :=
  if r = 0xC000 then [(0, 8)]
  else if within r 0x10000 0x8000 then [(20, 44), (12, 4)]
  else match r % 0x1000 with
    | 0 => [(24, 40), (8, 2)]
    | 8 => [(32, 32), (0, 14)]
    | 0x10 => [(0, 8)]
    | 0x18 => [(48, 16), (38, 2), (16, 3)]
    | 0x20 => [(24, 40)]
    | i => if within i 0x40 0x40 then [(16, 16)] else []

/-- Reserved fields of the MSN_ words (R348–R352). -/
def msnRsv (r : Nat) : List (Nat × Nat) :=
  if r = 0 then [(24, 40)]
  else if r = 8 then [(48, 16)]
  else if r = 0x18 then [(8, 24), (0, 3)]
  else if r = 0x30 then [(48, 14)]
  else if within r 0x100 0x80 && r % 0x20 == 0 then [(44, 20), (8, 24)]
  else if within r 0x200 0x100 && r % 0x10 == 0 then [(48, 14)] else []

/-- Reserved fields of the FT_ words (R141, R143, R199–R204). -/
def ftRsv (r : Nat) : List (Nat × Nat) :=
  if r = 0 then [(26, 38), (8, 3)]
  else if r = 8 then [(58, 6)]
  else if r = 0x10 then [(7, 57)]
  else if r = 0x18 then [(48, 16), (13, 19)]
  else if r = 0x20 ∨ r = 0x28 ∨ r = 0x30 then [(48, 16), (0, 11)]
  else if r = 0x38 then [(2, 62)]
  else if within r 0x1000 0x8000 then [(16, 48), (9, 6)]
  else if r = 0x10000 then [(20, 44)]
  else if within r 0x11000 0x8000 && r % 0x20 == 0x18 then [(16, 16)] else []

/-- Reserved fields of the CLU_ words (R241–R246). -/
def cluRsv (r : Nat) : List (Nat × Nat) :=
  if r = 0 then [(24, 40), (4, 4)]
  else if r = 8 then [(16, 48)]
  else if r = 0x18 then [(10, 54)]
  else if r = 0x28 then [(25, 7), (9, 7)]
  else if within r 0x100 0x100 && r % 16 == 0 then [(25, 4)] else []

/-- Reserved fields of the CORE_ words (R59–R65). -/
def coreRsv (r : Nat) : List (Nat × Nat) :=
  if r = 0 then [(36, 28), (4, 3)]
  else if r = 8 then [(24, 40), (4, 8)]
  else if r = 0x18 then [(48, 16), (2, 14)]
  else if r = 0x20 then [(16, 48), (3, 1)]
  else if r = 0x28 then [(4, 60)]
  else if within r 0x100 0x100 && r % 16 == 8 then [(32, 3)] else []

/-- The reserved fields of a word of the control space, as (lowest bit, width): of the words that no host field lies in. -/
def reservedFields (o : Nat) : List (Nat × Nat) :=
  if o < 0x100000 then hstRsv o
  else if o < 0x200000 then plbRsv (o - 0x100000)
  else if o < 0x300000 then (if o = 0x200000 then [(26, 6), (18, 6), (11, 5), (3, 5)] else if o = 0x200008 then [(32, 32)] else [])
  else if o < 0x400000 then chnRsv (o - 0x300000)
  else if o < 0x500000 then lnkRsv (o - 0x400000)
  else if o < 0x600000 then msnRsv (o - 0x500000)
  else if within o 0x1000000 0x100000 then ftRsv (o - 0x1000000)
  else if within o 0x2000000 0x480000 then cluRsv ((o - 0x2000000) % 0x10000)
  else if within o 0x3000000 0x240000 then coreRsv ((o - 0x3000000) % 0x1000)
  else []

/-- Those fields as a mask. -/
def reservedMask (o : Nat) : Word := fields ((reservedFields o).map (fun p => (p.1, 2 ^ p.2 - 1)))

/-- A write of `v` under a mask of the bits written reaches a word that has read-only fields: a reserved bit that is set is
counted (R8), and so is the write where it covers a read-only field (R9). -/
def State.roWrite (s : State) (o : Nat) (mask v : Word) : State :=
  let r := reservedMask o
  let s := if v &&& mask &&& r ≠ 0 then s.violate .reservedSet else s
  if mask &&& ~~~r ≠ 0 then s.violate .readOnly else s

/-- What a write to a word of the control space may reach. -/
inductive WKind where
  /-- nothing defined -/
  | none
  /-- read-only -/
  | ro
  /-- FT_RANGE_CLEAR -/
  | rangeClear
  /-- a register of a core, a cluster or a port in reset, whose writes are discarded uncounted (R438) -/
  | inReset
  /-- CORE_LATCH_FAULT, with its W1C bit -/
  | latchFault (c : Nat)
  /-- a field that only a host may write (R393) -/
  | host
  /-- a field that only BAR4 or MCTP may write (R465) -/
  | plumb
deriving DecidableEq, Repr

/-- The words of a port that a host may write (R417–R419). -/
def portWritable (r : Nat) : Bool :=
  r == 8 || (within r 0x100 0x100 && decide (r % 0x20 < 0x18)) || within r 0x480 0x380

/-- A word lies in the block of a core, of a cluster or of a port that is in reset. -/
def State.wordInReset (s : State) (a : Nat) : Bool :=
  (within a 0x1000 0x10000 && (s.port 0).perst) || (within a 0x11000 0x10000 && (s.port 1).perst) ||
  (within a 0x3000000 0x240000 && s.coreInReset ((a - 0x3000000) / 0x1000)) ||
  (within a 0x2000000 0x480000 && s.clusterInReset ((a - 0x2000000) / 0x10000))

/-- The kind of a word of the control space. -/
def State.wkind (s : State) (a : Nat) : WKind :=
  if (s.ctlWord 0 a).isNone then .none
  else if s.wordInReset a then .inReset
  else if a = 0x1010008 then .rangeClear
  else if within a 0x3000000 0x240000 && a % 0x1000 == 0x18 then .latchFault ((a - 0x3000000) / 0x1000)
  else if a = 0x10 ∨ a = 0x18 then .host
  else if within a 0x1000 0x10000 && portWritable (a - 0x1000) then .host
  else if within a 0x11000 0x10000 && portWritable (a - 0x11000) then .host
  else if within a 0x80000 0x400 then .host
  else if a = 0x180008 ∨ a = 0x120000 ∨ within a 0x130000 0x10000 then .plumb
  else .ro

/-- Clear the lost bit of CORE_LATCH_FAULT by W1C (R4, R62). -/
def State.clearLost (s : State) (c : Nat) (v : Word) : State :=
  if v.getLsbD 1 then s.modArr c (fun a => { a with lfLost := false }) else s

/-- The read-only fields of CORE_LATCH_FAULT (R62). -/
def latchRo : Word := 0x0000FFFFFFFF0001

/-- A host's write of CORE_LATCH_FAULT (R8, R9, R62): lost clears by W1C, reserved bits that are set are counted, and a
write that sets a bit of a read-only field, or does not cover lost, counts as read-only. (DESIGN CHOICE, log entry 102) -/
def State.latchWrite (s : State) (c : Nat) (mask v : Word) : State :=
  let s := if v &&& mask &&& reservedMask 0x3000018 ≠ 0 then s.violate .reservedSet else s
  let s := if v &&& mask &&& latchRo ≠ 0 ∨ mask &&& 2 = 0 then s.violate .readOnly else s
  s.clearLost c (v &&& mask)

/-- A strand's write of one word (R9, R140, R142, R205, R393, R465): FT_RANGE_CLEAR alone acts; CORE_LATCH_FAULT, whose lost
bit is W1C, is none of the fields that R205 lets a `put` write. (DESIGN CHOICE, log entry 102) -/
def State.strandCtlWord (s : State) (a : Nat) (v : Word) : State :=
  match s.wkind a with
  | .none => s.violate .undefined
  | .ro => s.roWrite a (BitVec.allOnes 64) v
  | .rangeClear => s.clearRange v
  | .inReset => s
  | .latchFault _ => s.violate .undefined
  | .host => s.violate .undefined
  | .plumb => s.violate .undefined

/-- A strand's write of bytes to the control space: whole aligned words act, any other size counts once as undefined.
(DESIGN CHOICE, log entry 84) -/
def State.strandCtl (s : State) (o : Nat) (bs : List Byte) : State :=
  if o % 8 = 0 ∧ bs.length % 8 = 0 then
    ((List.range (bs.length / 8)).foldl (fun s i => s.strandCtlWord (o + 8 * i) (leWord (slice bs (8 * i) 8)))) s
  else s.violate .undefined

end Sys2Proof.Machine
end

