-- ==== Sys2Proof/Machine/Clock.lean ====
section
/-! DEFINITION. The passage of time: one period of 10 ns of the reference clock (R434). The table has no row for it, so
it is what a step does when no command waits (DESIGN CHOICE, log entry 1). -/

namespace Sys2Proof.Machine

/-- The core clock in MHz at the point in force (R434). -/
def State.coreMHz (s : State) : Nat := s.start.img.points.getD s.pwr.point.toNat 1000

/-- One period of 10 ns (R61, R291, R465): chain time, the core clock and the Plumb's counters advance while the module
has power. -/
def State.tick (s : State) : State :=
  if s.pwr.good then
    { s with chain := { s.chain with time := s.chain.time + 1 }
             pwr := { s.pwr with coreClk := s.pwr.coreClk + s.coreMHz / 100 }
             plb := { s.plb with uptime := s.plb.uptime + 1, powered := s.plb.powered + 1 } }
  else s

end Sys2Proof.Machine
end

