-- ==== Sys2Proof/Machine/Context.lean ====
section
/-! DEFINITION. A context's saved state in its save area (R50, R52, R170, R234): the bytes that a save writes, and what
a restore reads. R50's table gives the items and their sizes, and R234 puts the wait records last: the items lie in
the table's order (DEDUCED, log entry 72). -/

namespace Sys2Proof.Machine

/-! ## Places (R50) -/

/-- Offset of the instruction pointers; the scalar registers lie below. -/
def saveIps : Nat := 1024
/-- Offset of the strand flags, 8 bytes for each strand. -/
def saveFlags : Nat := 1056
/-- Offset of the vector registers. -/
def saveRegs : Nat := 1088
/-- Offset of the fill marks. -/
def saveMarks : Nat := 132160
/-- Offset of the accumulation bank. -/
def saveBank : Nat := 132288
/-- Offset of the wait records (R234). -/
def saveWaits : Nat := 394432

/-- Key of the first byte of the save area of context `n` of a core. -/
def saveKey (c n : Nat) : Nat := clusterKey (coreCluster c) (saveOff (coreMember c) n)

/-! ## Records -/

/-- A fill mark's 32 bits (R71). -/
def Mark.code (m : Mark) : Nat :=
  m.fmt.toNat * 2 ^ 28 + m.pitch.toNat * 2 ^ 26 + m.width.toNat * 2 ^ 16 + m.rows.toNat

/-- The mark that 32 bits hold. -/
def Mark.ofCode (v : Nat) : Mark :=
  { fmt := BitVec.ofNat 4 (bitsOf v 28 4), pitch := BitVec.ofNat 2 (bitsOf v 26 2),
    width := BitVec.ofNat 9 (bitsOf v 16 9), rows := BitVec.ofNat 7 (bitsOf v 0 7) }

/-- The kind of a strand's wait record (R234). -/
def Wait.kind : Wait → Nat
  | .none => 0 | .twait _ _ _ => 1 | .kwait _ _ _ => 2 | .karr _ _ => 3

/-- The address and the value that a wait record carries (R234). -/
def Wait.words : Wait → List Word
  | .none => [0, 0] | .twait a v _ => [a, v] | .kwait a r _ => [a, r] | .karr a _ => [a, 0]

/-- The status or round register of a wait record. -/
def Wait.reg : Wait → BitVec 5
  | .none => 0 | .twait _ _ sd => sd | .kwait _ _ sd => sd | .karr _ sd => sd

/-- The 32 bytes of a wait record (R234). -/
def Wait.bytes (w : Wait) : List Byte :=
  leBytes 8 (w.kind * 2 ^ 60 + w.reg.toNat) ++ w.words.flatMap wordBytes ++ leBytes 8 0

/-- The wait that a record holds; a reserved kind holds none. -/
def Wait.ofBytes (bs : List Byte) : Wait :=
  let h := leNat (slice bs 0 8)
  let sd : BitVec 5 := BitVec.ofNat 5 h
  let a := leWord (slice bs 8 8)
  let v := leWord (slice bs 16 8)
  match h / 2 ^ 60 with
  | 1 => .twait a v sd
  | 2 => .kwait a v sd
  | 3 => .karr a sd
  | _ => .none

/-- The flags of a strand: rstat in bits [1:0], at_end in bit [2] (DESIGN CHOICE, log entry 97). -/
def Strand.flags (x : Strand) : Nat := x.rstat.toNat + 4 * b2n x.atEnd

/-! ## Saving -/

/-- Bytes placed from an offset on. -/
def placed (off : Nat) (bs : List Byte) : List (Nat × Byte) :=
  ((List.range bs.length).zip bs).map (fun p => (off + p.1, p.2))

/-- What a strand puts into the save area. -/
def Strand.image (x : Strand) (t : Nat) : List (Nat × Byte) :=
  x.regs.flatMap (fun r => if 0 < r.1 ∧ r.1 < 32 then placed (256 * t + 8 * r.1) (wordBytes r.2) else []) ++
  placed (saveIps + 8 * t) (wordBytes x.ip) ++ placed (saveFlags + 8 * t) (leBytes 8 x.flags) ++
  placed (saveWaits + 32 * t) x.wait.bytes

/-- The bytes of a core's context that need not be zero, by offset in the save area (R50). -/
def Core.image (k : Core) : List (Nat × Byte) :=
  (List.range 4).flatMap (fun t => (SMap.get {} k.strands t).image t) ++
  (k.regs.bytes.filter (fun p => p.1 < 131072)).map (fun p => (saveRegs + p.1, p.2)) ++
  k.regs.marks.flatMap (fun p => if p.1 < 32 then placed (saveMarks + 4 * p.1) (leBytes 4 p.2.code) else []) ++
  k.arr.bank.flatMap (fun p => if p.1 < 65536 then placed (saveBank + 4 * p.1) (leBytes 4 p.2.toNat) else [])

/-- Write a whole saved state: what the image does not list is zero. -/
def State.writeSaved (s : State) (c n : Nat) (img : List (Nat × Byte)) : State :=
  (s.zeroRegions [saveRegion (coreCluster c) (coreMember c) n]).storeList (img.map (fun p => (saveKey c n + p.1, p.2)))

/-! ## Restoring -/

/-- The bytes of a save area that are not zero, by offset: those that memory lists there, or every one of an area that
a loss has left without known contents. -/
def State.savedBytes (s : State) (c n : Nat) : List (Nat × Byte) :=
  let base := saveKey c n
  if SMap.get 0 s.mem.lost (saveRegion (coreCluster c) (coreMember c) n) = 0 then
    (s.mem.cells.filter (fun p => within p.1 base saveSize)).map (fun p => (p.1 - base, p.2))
  else (List.range saveSize).map (fun i => (i, s.mem.byte (base + i)))

/-- `n` bytes of a saved state. -/
def savedRead (m : SMap Byte) (off n : Nat) : List Byte := (List.range n).map (fun i => SMap.get 0 m (off + i))

/-- A strand out of a saved state. -/
def strandOf (m : SMap Byte) (t : Nat) : Strand :=
  let f := leNat (savedRead m (saveFlags + 8 * t) 1)
  { ip := leWord (savedRead m (saveIps + 8 * t) 8)
    regs := (List.range 31).foldl (fun r i => SMap.put 0 r (i + 1) (leWord (savedRead m (256 * t + 8 * (i + 1)) 8))) []
    rstat := BitVec.ofNat 2 f, atEnd := bitOf f 2
    wait := Wait.ofBytes (savedRead m (saveWaits + 32 * t) 32) }

/-- The bank entries of a saved state. -/
def bankOf (m : SMap Byte) : SMap W32 :=
  let idx := ((m.filter (fun p => within p.1 saveBank 262144)).map (fun p => (p.1 - saveBank) / 4)).dedup
  idx.foldl (fun b i => SMap.put 0 b i (BitVec.ofNat 32 (leNat (savedRead m (saveBank + 4 * i) 4)))) []

/-- The fill marks of a saved state. -/
def marksOf (m : SMap Byte) : SMap Mark :=
  (List.range 32).foldl (fun r i => SMap.put {} r i (Mark.ofCode (leNat (savedRead m (saveMarks + 4 * i) 4)))) []

/-- Restore a context from its save area (R52): registers, marks, bank, strands with their wait records. -/
def State.restoreCtx (s : State) (c n : Nat) : State :=
  let m : SMap Byte := s.savedBytes c n
  s.modCore c (fun k => { k with
    strands := (List.range 4).map (fun t => (t, strandOf m t))
    regs := { k.regs with
      bytes := (m.filter (fun p => within p.1 saveRegs 131072)).map (fun p => (p.1 - saveRegs, p.2)), marks := marksOf m }
    arr := { k.arr with bank := bankOf m }
    run := { k.run with holds := true } })

/-! ## Saving what the registers hold (R52, R446) -/

/-- Save the context that a core holds to its save area (R52, R170). -/
def State.saveCtx (s : State) (c : Nat) : State :=
  if (s.core c).run.holds then s.writeSaved c (s.core c).run.ctx.toNat (s.core c).image else s

/-- Save the context of a parked core once no `amm` of it streams (R446): from there on the registers hold none. A
core without a context in the course has none to save. -/
def State.parkSave (s : State) (c : Nat) : State :=
  let k := s.core c
  if k.run.state = .parked && decide (k.run.before ≠ .idle) && k.run.holds && k.arr.stream.isEmpty && k.arr.retries.isEmpty then
    (s.saveCtx c).modRun c (fun r => { r with holds := false })
  else s

/-- The arrays and registers of a core are gated: it is parked, and its context is saved (R446). -/
def State.gated (s : State) (c : Nat) : Bool := decide ((s.core c).run.state = .parked) && !(s.core c).run.holds

end Sys2Proof.Machine
end

