-- ==== Sys2Proof/Machine/Array.lean ====
section
/-! DEFINITION. The quad arrays: weight latches, the array queue, streaming, the accumulation bank, its readout, latch
faults and filler operations (R29–R48, R88–R92). A half is numbered 2a + h for half h of array Aa (R88). -/

namespace Sys2Proof.Machine

/-! ## Operand formats of the arrays (R31, R69) -/

/-- Families of operand formats (R91). -/
inductive Family where
  | eight | two | bf
deriving DecidableEq, Repr

/-- The family of a format that an array takes (R69, R91). -/
def EFmt.family : EFmt → Option Family
  | .e4m3 => some .eight | .e5m2 => some .eight | .e4m3b => some .eight | .e5m2b => some .eight
  | .e2m1b => some .two | .bf16 => some .bf
  | _ => none

/-- A format that an array takes (R69). -/
def arrayFmt (code : BitVec 4) : Option EFmt := (tileFmt code).filter (fun f => f.family.isSome)

/-- Array depth along K, in elements (R31). -/
def EFmt.depth : EFmt → Nat
  | .e2m1b => 128 | .bf16 => 32
  | _ => 64

/-- K of a shape in elements (R70, R90). -/
def kOf (f : EFmt) (sh : Shape) : Nat := if f = .e2m1b then 2 * shCols sh else shCols sh

/-- The halves that a target names (R89), for `awld` and `amm`; `quad` allows code 0x4. -/
def targetHalves (quad : Bool) (target : BitVec 4) (f : EFmt) : Option (List Nat) :=
  let t := target.toNat
  if t < 4 then some [2 * t, 2 * t + 1]
  else if t = 4 then (if quad then some [0, 1, 2, 3, 4, 5, 6, 7] else none)
  else if t < 8 then none
  else if f = .bf16 then none else some [t - 8]

/-- Columns in one half (R31, R37); a BF16 array has 32 columns, 16 in each half (DESIGN CHOICE, log entry 9). -/
def halfCols (f : EFmt) : Nat := if f = .bf16 then 16 else 32

/-- Bank column of column `j` of a half (R38). -/
def bankCol (f : EFmt) (half j : Nat) : Nat := 64 * (half / 2) + halfCols f * (half % 2) + j

/-! ## Latches -/

/-- The weight bytes and scales of one half, from tile rows `lo` on; `n` rows and `kw` elements are loaded, with the
scales of the segments in which they lie (R90). -/
def RegFile.latchOf (r : RegFile) (f : EFmt) (fmt : BitVec 4) (tile vs b n kw lo : Nat) : Latch :=
  let bytes := if f = .e2m1b then kw / 2 else kw * f.size
  let cols := (List.range (halfCols f)).filter (fun j => decide (lo + j < n))
  { fmt := some fmt, kw := kw, tile := tile, count := SMap.get 0 r.wcnt tile,
    w := cols.flatMap (fun j => ((List.range bytes).zip (r.tileRow tile b f.size (lo + j))).filterMap (fun p =>
      if p.2 = 0 then none else some (64 * j + p.1, p.2))),
    scales := if f.block then cols.flatMap (fun j => (List.range ((kw + 31) / 32)).filterMap (fun g =>
      let x := r.scaleByte vs (lo + j) g
      if x = 0 then none else some (4 * j + g, x))) else [] }

/-- The latches that an `awld` loads, by half. -/
def RegFile.awldLatches (r : RegFile) (f : EFmt) (w : AwldWord) (sh : Shape) (halves : List Nat) :
    List (Nat × Latch) :=
  let kw := min (kOf f sh) f.depth
  halves.map (fun h =>
    (h, r.latchOf f sh.fmt w.tw.toNat w.vs.toNat (shBytes sh f) (shRows sh) kw
      (if halves.length = 1 then 0 else halfCols f * (h % 2))))

/-- Output columns that an `awld` may load (R90). -/
def awldMaxN (f : EFmt) (halves : List Nat) : Nat := halfCols f * halves.length

/-- Latches written into the shadow side. -/
def setLatches (m : SMap Latch) (ls : List (Nat × Latch)) : SMap Latch := ls.foldl (fun m p => SMap.set m p.1 p.2) m

/-- The tile that a class A instruction reads is written, and so is its scale register where the format of its shape is
block-scaled (R27, R90, R91). -/
def State.arrayReady (s : State) (c t tile vs : Nat) (sh : Shape) : Bool :=
  !(List.range 8).any (fun i => s.regPending c t (8 * tile + i)) &&
  !((arrayFmt (s.shapeAt c t sh).fmt).any (fun f => f.block) && s.regPending c t vs)

/-- Misfits of an array operand's shape and reading (R90, R91, R110). -/
def RegFile.operandMisfit (r : RegFile) (f : EFmt) (sh : Shape) (tile lo hi : Nat) : Bool :=
  sh.rsv != 0 || decide (f.depth < kOf f sh) || capMisfitA f sh ||
  r.readMisfit tile (shBytes sh f) lo (min hi (rowCap (shBytes sh f))) sh.fmt
where
  /-- Shape rows beyond the row capacity. -/
  capMisfitA (f : EFmt) (sh : Shape) : Bool := decide (rowCap (shBytes sh f) < shRows sh)

/-- The halves of an `amm`. -/
def AmmOp.halves (o : AmmOp) : List Nat :=
  match arrayFmt o.fmt with
  | some f => (targetHalves true o.target f).getD []
  | none => []

/-- Two lists of halves share one. -/
def meets (a b : List Nat) : Bool := a.any (fun h => b.contains h)

/-- The arrays of a list of halves. -/
def arraysOf (hs : List Nat) : List Nat := (hs.map (fun h => h / 2)).dedup

/-! ## The array queue (R35, R40, R43) -/

/-- The halves that an entry of the queue names; an `abrd` names none. -/
def AEntry.halves : AEntry → List Nat
  | .amm o => o.halves
  | .wld _ ls => ls.map (fun p => p.1)
  | .flip _ hs => hs
  | .rd _ => []

/-- The halves of the arrays that an entry concerns: an `abrd` reads a row of all four. -/
def AEntry.span : AEntry → List Nat
  | .rd _ => List.range 8
  | e => (arraysOf e.halves).flatMap (fun a => [2 * a, 2 * a + 1])

/-- What an entry needs free of earlier ones before it may start. -/
def AEntry.needs : AEntry → List Nat
  | .rd _ => List.range 8
  | e => e.halves

/-- A retry holds what names some halves: any whole-array or quad retry holds the queue, a split one the entries of
its half (R43). -/
def ArrayUnit.held (a : ArrayUnit) (hs : List Nat) : Bool :=
  a.retries.any (fun r => if 8 ≤ r.op.target.toNat then meets r.halves hs else true)

/-- The halves that an entry which stays in the queue keeps from later ones: those of its arrays, in order (R35); one
that a split retry holds keeps its own halves only (R43). -/
def ArrayUnit.keeps (a : ArrayUnit) (e : AEntry) : List Nat := if a.held e.halves then e.needs else e.span

/-- Go through the queue in order: an `awld` whose turn it is loads, an `abrd` at the front goes to the readout path
while that has room, and every other entry stays. -/
def ArrayUnit.settleFrom : List AEntry → List Nat → ArrayUnit → ArrayUnit
  | [], _, a => a
  | e :: q, busy, a =>
    let stay : ArrayUnit := { a with queue := a.queue ++ [e] }
    if meets e.needs busy || a.held e.halves then settleFrom q (a.keeps e ++ busy) stay
    else match e with
      | .wld _ ls => settleFrom q busy { a with shadow := setLatches a.shadow ls }
      | .rd r =>
        if a.readout.length < 8 then settleFrom q busy { a with readout := a.readout ++ [r] }
        else settleFrom q (a.keeps e ++ busy) stay
      | _ => settleFrom q (a.keeps e ++ busy) stay

/-- The queue after whatever it holds has had its turn. -/
def ArrayUnit.settle (a : ArrayUnit) : ArrayUnit := ArrayUnit.settleFrom a.queue [] { a with queue := [] }

/-- Put an entry at the end of the queue, and let it have its turn. -/
def ArrayUnit.enqueue (a : ArrayUnit) (e : AEntry) : ArrayUnit :=
  { a with queue := a.queue ++ [e], seq := a.seq + 1 }.settle

/-- AWLD (R29, R90): through the array queue into the shadow latches. (DEDUCED, log entry 17) -/
def execAwld (c : CoreId) (t : StrandId) (w : AwldWord) (sh : Shape) (s : State) : Host.Outcome State Fault Refusal :=
  .next (s.issue c t (decide ((s.core c).arr.queue.length < 8) && s.arrayReady c t w.tw.toNat w.vs.toNat sh) (fun s =>
    let sh := s.shapeAt c t sh
    let s := s.countShape c t
    match arrayFmt sh.fmt with
    | none => s.retire c t 16 true
    | some f => match targetHalves false w.target f with
      | none => s.retire c t 16 true
      | some hs =>
        let r := (s.core c).regs
        let n := min (shRows sh) (awldMaxN f hs)
        let ls := r.awldLatches f w { sh with rows := BitVec.ofNat 6 (n - 1) } hs
        (s.modArr c (fun a => a.enqueue (.wld a.seq ls))).retire c t 16 (w.rsv != 0 || decide (awldMaxN f hs < shRows sh) ||
          r.operandMisfit f sh w.tw.toNat 0 n)))

/-- The halves of a mask: bit 2a + h (R88). -/
def flipHalves (w : AflipWord) : List Nat := setBits 8 w.halves.toNat

/-- AFLIP (R29): queued; the swap takes effect at the array's next row boundary. -/
def execAflip (c : CoreId) (t : StrandId) (w : AflipWord) (s : State) : Host.Outcome State Fault Refusal :=
  .next (s.issue c t (decide ((s.core c).arr.queue.length < 8)) (fun s =>
    (s.modArr c (fun a => if (flipHalves w).isEmpty then { a with seq := a.seq + 1 }
      else a.enqueue (.flip a.seq (flipHalves w)))).retire c t 8 (w.rsv != 0)))

/-- A half is busy with a streaming `amm` or a retry. -/
def ArrayUnit.halfBusy (a : ArrayUnit) (hs : List Nat) : Bool :=
  a.stream.any (fun o => meets o.halves hs) || a.retries.any (fun r => meets r.halves hs)

/-- Swap the shadow and active latches of halves (R29, R90). -/
def ArrayUnit.swap (a : ArrayUnit) (hs : List Nat) : ArrayUnit :=
  hs.foldl (fun a h => { a with
    shadow := SMap.set a.shadow h (SMap.get {} a.active h)
    active := SMap.set a.active h (SMap.get {} a.shadow h) }) a

/-- Take the halves of an array out of the first flip of the queue that names some of them, if its turn has come: the
halves that swap, and the queue left. `busy` holds what earlier entries keep. -/
def ArrayUnit.takeFlip (a : ArrayUnit) (arr : Nat) : List Nat → List AEntry → List Nat × List AEntry
  | _, [] => ([], [])
  | busy, e :: q =>
    let mine := match e with
      | .flip _ hs => hs.filter (fun h => h / 2 = arr)
      | _ => []
    if mine.isEmpty then
      let r := a.takeFlip arr (a.keeps e ++ busy) q
      (r.1, e :: r.2)
    else if meets mine busy || a.held mine then ([], e :: q)
    else
      let rest := e.halves.filter (fun h => h / 2 ≠ arr)
      (mine, match e with
        | .flip n _ => if rest.isEmpty then q else .flip n rest :: q
        | _ => q)

/-- AFLIP_TAKES_EFFECT (R29, R35, R43): between the last row of the earlier `amm` and the first row of the next one; a parked
core's queue is in retention (R446). -/
def execAflipTakesEffect (c : CoreId) (arr : Fin 4) (s : State) : Host.Outcome State Fault Refusal :=
  let a := (s.core c).arr
  let r := a.takeFlip arr [] a.queue
  .next (if r.1.isEmpty || a.halfBusy r.1 || decide ((s.core c).run.state = .parked) then s
    else s.modArr c (fun a => ({ a with queue := r.2 }.swap r.1).settle))

/-! ## `amm` -/

/-- The scale bytes of an activation row. -/
def RegFile.rowScales (r : RegFile) (f : EFmt) (vs i : Nat) : List Byte :=
  if f.block then (List.range 4).map (fun g => r.scaleByte vs i g) else []

/-- AMM (R36, R88, R91): enters the array queue with the rows as the tile holds them; its misfits known at issue
count there. (DEDUCED, log entries 17, 81) -/
def execAmm (c : CoreId) (t : StrandId) (w : AmmWord) (sh : Shape) (s : State) : Host.Outcome State Fault Refusal :=
  .next (s.issue c t (decide ((s.core c).arr.queue.length < 8) && s.arrayReady c t w.ta.toNat w.vs.toNat sh) (fun s =>
    let sh := s.shapeAt c t sh
    let s := s.countShape c t
    match arrayFmt sh.fmt with
    | none => s.retire c t 16 true
    | some f => match targetHalves true w.target f with
      | none => s.retire c t 16 true
      | some _ =>
        let r := (s.core c).regs
        let n := shRows sh
        let lo := w.rbase.toNat
        let b := shBytes sh f
        let mis := w.rsv != 0 || decide (64 < lo + n) || decide (rowCap b < lo + n) ||
          decide (256 < w.boff.toNat + n) || r.operandMisfit f sh w.ta.toNat lo (lo + n)
        let op : AmmOp :=
          { seq := (s.core c).arr.seq, strand := t, target := w.target, zero := w.zero, fmt := sh.fmt,
            k := min (kOf f sh) f.depth, boff := w.boff.toNat,
            rows := (List.range n).map (fun i => r.tileRow w.ta.toNat b f.size (lo + i)),
            scales := (List.range n).map (fun i =>
              if lo + i < 64 then r.rowScales f w.vs.toNat (lo + i) else [127, 127, 127, 127]),
            mis := mis }
        (s.modArr c (fun a => a.enqueue (.amm op))).retire c t 16 mis))

/-- An element of an activation row: zero beyond the elements that take part (R91). -/
def actElem (f : EFmt) (k : Nat) (row : List Byte) (i : Nat) : FVal := if i < k then f.elem row i else .fin false 0 0

/-- The bytes of column `j` of a latch. -/
def Latch.col (l : Latch) (j : Nat) : List Byte := (List.range 64).map (fun b => SMap.get 0 l.w (64 * j + b))

/-- The weight format of a half: a half without a format holds zeros of the activation's family, unscaled (R91). -/
def Latch.wfmt (l : Latch) (act : EFmt) : EFmt :=
  match l.fmt.bind arrayFmt with
  | some f => f
  | none => match act with
    | .e2m1b => .e2m1b
    | .bf16 => .bf16
    | _ => .e4m3

/-- The exact sum of products (R32). -/
def exactSum (ps : List FVal) : FVal :=
  match ps with
  | [] => .fin false 0 0
  | p :: ps => ps.foldl FVal.add p

/-- One segment of a block-scaled product, scaled exactly and rounded to FP32 (R32). A side without scales takes 1. -/
def segment (ps : List FVal) (sa sb : Option Nat) : W32 :=
  let f (v : FVal) (s : Option Nat) : FVal := match s with
    | none => v
    | some x => v.blockScaled x
  toF32 (f (f (exactSum ps) sa) sb)

/-- The result of one column of one row (R32). A segment without an element that takes part has no activation scale
(R91). A BF16 product beyond FP32's range is rounded to FP32 before the tree (DESIGN CHOICE, log entry 79). -/
def columnResult (act : EFmt) (k : Nat) (row scales : List Byte) (l : Latch) (j : Nat) : W32 :=
  let wf := l.wfmt act
  let col := l.col j
  let ps := (List.range act.depth).map (fun i => (actElem act k row i).mul (wf.elem col i))
  match act with
  | .bf16 => treeOf fadd 0 5 (ps.map toF32)
  | _ =>
    if act.block || (wf.block && l.fmt.isSome) then
      let segs := (List.range (act.depth / 32)).map (fun g =>
        segment ((ps.drop (32 * g)).take 32)
          (if act.block && decide (32 * g < k) then some (scales.getD g 0).toNat else none)
          (if wf.block && l.fmt.isSome then some (SMap.get 0 l.scales (4 * j + g)).toNat else none))
      match segs with
      | [] => 0
      | x :: xs => xs.foldl fadd x
    else toF32 (exactSum ps)

/-- Write or add a column result into a bank entry (R33). -/
def bankPut (bank : SMap W32) (idx : Nat) (zero : Bool) (v : W32) : SMap W32 :=
  SMap.put 0 bank idx (if zero then v else fadd (SMap.get 0 bank idx) v)

/-- Add row `i` of an `amm` into the bank for some halves (R33, R39): a row beyond 255 is discarded. -/
def ArrayUnit.writeRow (a : ArrayUnit) (o : AmmOp) (hs : List Nat) (i : Nat) : ArrayUnit :=
  match arrayFmt o.fmt with
  | none => a
  | some f =>
    if o.void || decide (256 ≤ o.boff + i) then a
    else { a with bank := hs.foldl (fun bank h => (List.range (halfCols f)).foldl (fun bank j =>
        bankPut bank (256 * (o.boff + i) + bankCol f h j) o.zero
          (columnResult f o.k (o.rows.getD i []) (o.scales.getD i []) (SMap.get {} a.active h) j)) bank) a.bank }

/-- K compared with Kw and the family check of R91, made when the `amm` starts: whether it writes nothing, and whether
that is a misfit. -/
def ArrayUnit.judge (a : ArrayUnit) (o : AmmOp) : Bool × Bool :=
  match arrayFmt o.fmt with
  | none => (true, false)
  | some f =>
    let ls := o.halves.map (fun h => SMap.get {} a.active h)
    let clash := ls.any (fun l => match l.fmt.bind arrayFmt with
      | some g => decide (g.family ≠ f.family)
      | none => false)
    let kw := ls.foldl (fun m l => max m l.kw) 0
    (clash, clash || decide (kw < o.k))

/-- The `amm` at a position of the queue may start: its turn has come, its halves are free, and no retry holds it
(R35, R36, R43). -/
def ArrayUnit.canStart (a : ArrayUnit) (pos : Nat) (o : AmmOp) : Bool :=
  !meets o.halves ((a.queue.take pos).flatMap a.keeps) && !a.halfBusy o.halves && !a.held o.halves

/-- AMM_START (R35, R41, R91, R446): on a core that is not parked, the `amm` starts streaming; its reuse latches are cleared (R76) and filler ends (R46). -/
def execAmmStart (c : CoreId) (pos : Nat) (s : State) : Host.Outcome State Fault Refusal :=
  .next (match (s.core c).arr.queue[pos]? with
    | some (.amm o) =>
      if (s.core c).arr.canStart pos o && decide ((s.core c).run.state ≠ .parked) then
        let j := (s.core c).arr.judge o
        (s.modArr c (fun a => { a with
          queue := a.queue.eraseIdx pos
          stream := a.stream ++ [{ o with void := j.1, mis := o.mis || j.2 }]
          reuse := (arraysOf o.halves).foldl SMap.erase a.reuse
          fillers := (arraysOf o.halves).foldl SMap.erase a.fillers }.settle)).misfitIf c (j.2 && !o.mis)
      else s
    | _ => s)

/-- The halves of a streaming `amm` whose writes a parity error suppresses. -/
def ArrayUnit.suppressed (a : ArrayUnit) (o : AmmOp) : List Nat :=
  (a.retries.filter (fun r => r.op.seq = o.seq)).flatMap (fun r => r.halves)

/-- An earlier `abrd` of a bank row has not read it yet (R40). -/
def ArrayUnit.abrdBefore (a : ArrayUnit) (seq row : Nat) : Bool :=
  a.readout.any (fun r => decide (r.seq < seq) && decide (r.row = row))

/-- Filler operations run: enabled by the image, and not held off by shedding (R46, R47). -/
def State.fillerOn (s : State) : Bool := s.start.img.fillerEn && decide (s.pwr.step = 0)

/-- AMM_ROW_WRITTEN (R33, R39, R41): the next row of a streaming `amm` reaches the bank; after the last one filler
operations begin (R46), and a parked core is saved (R446). -/
def execAmmRowWritten (c : CoreId) (pos : Nat) (s : State) : Host.Outcome State Fault Refusal :=
  .next (match (s.core c).arr.stream[pos]? with
    | some o =>
      if (s.core c).arr.abrdBefore o.seq (o.boff + o.next) then s
      else
        let on := s.fillerOn
        (s.modArr c (fun a =>
          let hs := o.halves.filter (fun h => !(a.suppressed o).contains h)
          let a := a.writeRow o hs o.next
          let row := (o.rows.getD o.next []) ++ (o.scales.getD o.next [])
          let a := { a with reuse := (arraysOf o.halves).foldl (fun m x => SMap.set m x row) a.reuse }
          if o.next + 1 < o.rows.length then { a with stream := a.stream.set pos { o with next := o.next + 1 } }
          else { a with
            stream := a.stream.eraseIdx pos
            fillers := if on then (arraysOf o.halves).foldl (fun m x => SMap.set m x { density := 8 }) a.fillers
              else a.fillers })).parkSave c
    | none => s)

/-! ## `abrd` (R40, R92) -/

/-- The output formats of `abrd` (R92). -/
def abrdFmt (code : BitVec 4) : Option FFmt :=
  match code.toNat with
  | 0 => some .e4m3 | 1 => some .e5m2 | 5 => some .bf16 | 6 => some .fp32
  | _ => none

/-- Registers that an `abrd` word writes. -/
def abrdRegs (w : AbrdWord) : List Nat := if w.ofmt = 6 then [w.vd.toNat, w.vd.toNat + 1] else [w.vd.toNat]

/-- ABRD (R40): into the array queue, which hands it to the bank readout path. -/
def execAbrd (c : CoreId) (t : StrandId) (w : AbrdWord) (s : State) : Host.Outcome State Fault Refusal :=
  .next (s.issue c t (decide ((s.core c).arr.queue.length < 8) &&
      !(abrdRegs w).any (fun v => s.regPending c t v)) (fun s =>
    if (abrdFmt w.ofmt).isNone || (w.ofmt == 6 && w.vd == 255) then s.retire c t 8 true
    else
      let op : RdOp := { seq := (s.core c).arr.seq, strand := t, vd := w.vd.toNat, row := w.row.toNat,
                         ofmt := w.ofmt, clr := w.clr, nfp := w.nfp, e := w.e, group := w.group }
      (s.modArr c (fun a => a.enqueue (.rd op))).retire c t 8 (w.rsv != 0)))

/-- An `amm` still has to write a bank row. -/
def AmmOp.owes (o : AmmOp) (row : Nat) : Bool :=
  decide (o.boff + o.next ≤ row) && decide (row < o.boff + o.rows.length)

/-- Every `amm` that left the queue before an `abrd` has written its row (R40). -/
def ArrayUnit.abrdReady (a : ArrayUnit) (r : RdOp) : Bool :=
  !a.stream.any (fun o => decide (o.seq < r.seq) && o.owes r.row) &&
  !a.retries.any (fun x => decide (x.op.seq < r.seq) &&
    decide (x.op.boff + x.fromRow ≤ r.row) && decide (r.row < x.op.boff + x.op.rows.length))

/-- The 256 entries of a bank row. -/
def ArrayUnit.bankRow (a : ArrayUnit) (row : Nat) : List W32 :=
  (List.range 256).map (fun j => SMap.get 0 a.bank (256 * row + j))

/-- The register file after an `abrd` of converted codes (R92). -/
def RegFile.abrdWrite (r : RegFile) (f : FFmt) (vd : Nat) (codes : List Nat) : RegFile :=
  match f with
  | .fp32 => r.vecWrite2 vd 0 ((codes.take 128).flatMap (leBytes 4)) (vd + 1) 0 ((codes.drop 128).flatMap (leBytes 4))
  | .bf16 => r.vecWrite vd 0 (codes.flatMap (leBytes 2))
  | _ => r.vecWrite vd 0 (codes.map (BitVec.ofNat 8) ++ List.replicate 256 0)

/-- ABRD_START (R40, R92): the oldest `abrd` reads its row, converts it, and clears it where clr is 1; a gated bank is
not read (R446). -/
def execAbrdStart (c : CoreId) (s : State) : Host.Outcome State Fault Refusal :=
  .next (match (s.core c).arr.readout with
    | [] => s
    | r :: rest =>
      if !(s.core c).arr.abrdReady r || s.gated c then s
      else match abrdFmt r.ofmt with
        | none => s.modArr c (fun a => { a with readout := rest }.settle)
        | some f =>
          let vs := ((s.core c).arr.bankRow r.row).map (fun x => (f32 x).scale r.e.toInt)
          let cs := vs.map (convFloat f r.nfp false false)
          let ev := List.zipWith (fun v k => convEvent v k.cls) vs cs
          let s := s.modArr c (fun a => { a with
            readout := rest
            bank := if r.clr then SMap.clear a.bank (256 * r.row) (256 * r.row + 256) else a.bank }.settle)
          (s.modRegs c (fun x => x.abrdWrite f r.vd (cs.map (fun k => k.code)))).noteConv r.group
            (rslotOf (.flt f)) ev)

/-! ## Latch faults (R42–R45) -/

/-- The halves that a parity error affects in an `amm`: its array, or its half in a split `amm` (R42). -/
def AmmOp.affected (o : AmmOp) (arr half : Nat) : List Nat :=
  if 8 ≤ o.target.toNat then o.halves.filter (fun h => h = 2 * arr + half)
  else o.halves.filter (fun h => h / 2 = arr)

/-- The retries that a parity error starts: one for each streaming `amm` that uses the latches. -/
def ArrayUnit.parityRetries (a : ArrayUnit) (arr half : Nat) : List Retry :=
  a.stream.filterMap (fun o =>
    let hs := (o.affected arr half).filter (fun h => !(a.suppressed o).contains h)
    if hs.isEmpty then none else some { op := o, halves := hs, fromRow := o.next })

/-- LATCH_PARITY_ERROR (R42): the row in flight and every later row of the `amm` are suppressed on the array or half
affected, and a retry starts. -/
def execLatchParityError (c : CoreId) (arr : Fin 4) (half : Fin 2) (s : State) : Host.Outcome State Fault Refusal :=
  .next (s.modArr c (fun a => { a with retries := a.retries ++ a.parityRetries arr half }))

/-- The tiles named by the `awld`s of the affected latches are unchanged since (R43, R75). Latches that no `awld` has filled
name no tile, and the retry goes on with no check of one (DESIGN CHOICE, log entry 114). -/
def Core.retrySafe (k : Core) (r : Retry) : Bool :=
  r.halves.all (fun h =>
    let l := SMap.get {} k.arr.active h
    l.fmt.isNone || decide (SMap.get 0 k.regs.wcnt l.tile = l.count))

/-- Free values for the affected bank columns of an `amm` (R44). (DEDUCED, log entry 75) -/
def State.freeColumns (s : State) (c : Nat) (r : Retry) : State :=
  match arrayFmt r.op.fmt with
  | none => s
  | some f =>
    let idx := (List.range r.op.rows.length).flatMap (fun i =>
      if 256 ≤ r.op.boff + i then [] else
      r.halves.flatMap (fun h => (List.range (halfCols f)).map (fun j => 256 * (r.op.boff + i) + bankCol f h j)))
    idx.foldl (fun s k =>
      let v := s.freeVal.setWidth 32
      (s.modArr c (fun a => { a with bank := SMap.put 0 a.bank k v })).useFree) s

/-- A retry may end: its `amm` has streamed, and no earlier `abrd` still has to read a row that it writes. -/
def ArrayUnit.retryReady (a : ArrayUnit) (r : Retry) : Bool :=
  !a.stream.any (fun o => decide (o.seq = r.op.seq)) &&
  !(List.range r.op.rows.length).any (fun i => decide (r.fromRow ≤ i) && a.abrdBefore r.op.seq (r.op.boff + i))

/-- Count a parity error (R43, R45, R62): the total and the in-course count rise, and at the threshold the core is
marked. -/
def ArrayUnit.countFault (a : ArrayUnit) (limit : Nat) : ArrayUnit :=
  let n := satAdd a.lfInCourse 1
  { a with lfTotal := satAdd a.lfTotal 1, lfInCourse := n, lfMarked := a.lfMarked || decide (limit ≤ n.toNat) }

/-- LATCH_RETRY_DONE (R43, R44, R45): the suppressed rows are streamed again, with the bits of a run without the
fault; or, where the source tile has changed, the affected columns stay undefined and the fault is lost. Each error counts as
its retry ends, the lost one too (R62; DEDUCED, log entries 75, 80). -/
def execLatchRetryDone (c : CoreId) (pos : Nat) (s : State) : Host.Outcome State Fault Refusal :=
  .next (match (s.core c).arr.retries[pos]? with
    | none => s
    | some r =>
      if !(s.core c).arr.retryReady r then s
      else if (s.core c).retrySafe r then
        let limit := s.start.img.latchThreshold
        (s.modArr c (fun a =>
          let a := { a with retries := a.retries.eraseIdx pos }
          let a := ((List.range r.op.rows.length).filter (fun i => r.fromRow ≤ i)).foldl
            (fun a i => a.writeRow r.op r.halves i) a
          (a.countFault limit).settle)).parkSave c
      else
        let limit := s.start.img.latchThreshold
        let s := s.modArr c (fun a => ({ a with
          retries := a.retries.eraseIdx pos, lfLost := true
          lfLostCount := satAdd a.lfLostCount 1 }.countFault limit).settle)
        ((s.modRun c (fun x => { x with faulted := true })).freeColumns c r).parkSave c)

/-! ## Filler operations (R46) -/

/-- FILLER_WINDOW_EXPIRY (R46): no `amm` has started, so the density begins to ramp down. -/
def execFillerWindowExpiry (c : CoreId) (arr : Fin 4) (s : State) : Host.Outcome State Fault Refusal :=
  .next (s.modArr c (fun a => match SMap.find? a.fillers arr.val with
    | some f => { a with fillers := SMap.set a.fillers arr.val { f with ramp := true } }
    | none => a))

/-- FILLER_RAMP_STEP (R46): the density falls by one eighth; at zero the array is idle. -/
def execFillerRampStep (c : CoreId) (arr : Fin 4) (s : State) : Host.Outcome State Fault Refusal :=
  .next (s.modArr c (fun a => match SMap.find? a.fillers arr.val with
    | some f =>
      if !f.ramp then a
      else if f.density ≤ 1 then { a with fillers := SMap.erase a.fillers arr.val }
      else { a with fillers := SMap.set a.fillers arr.val { f with density := f.density - 1 } }
    | none => a))

end Sys2Proof.Machine
end

