-- ==== Sys2Proof/Machine/Sha512.lean ====
section
/-! DEFINITION. SHA-512 as FIPS 180-4 gives it, which R422, R429 and R463 name (PRESUMED, log entry 6). -/

namespace Sys2Proof

/-- The round constants: the fractional parts of the cube roots of the first 80 primes. -/
def sha512K : List Word :=
  [0x428A2F98D728AE22, 0x7137449123EF65CD, 0xB5C0FBCFEC4D3B2F, 0xE9B5DBA58189DBBC,
   0x3956C25BF348B538, 0x59F111F1B605D019, 0x923F82A4AF194F9B, 0xAB1C5ED5DA6D8118,
   0xD807AA98A3030242, 0x12835B0145706FBE, 0x243185BE4EE4B28C, 0x550C7DC3D5FFB4E2,
   0x72BE5D74F27B896F, 0x80DEB1FE3B1696B1, 0x9BDC06A725C71235, 0xC19BF174CF692694,
   0xE49B69C19EF14AD2, 0xEFBE4786384F25E3, 0x0FC19DC68B8CD5B5, 0x240CA1CC77AC9C65] ++
  [0x2DE92C6F592B0275, 0x4A7484AA6EA6E483, 0x5CB0A9DCBD41FBD4, 0x76F988DA831153B5,
   0x983E5152EE66DFAB, 0xA831C66D2DB43210, 0xB00327C898FB213F, 0xBF597FC7BEEF0EE4,
   0xC6E00BF33DA88FC2, 0xD5A79147930AA725, 0x06CA6351E003826F, 0x142929670A0E6E70,
   0x27B70A8546D22FFC, 0x2E1B21385C26C926, 0x4D2C6DFC5AC42AED, 0x53380D139D95B3DF,
   0x650A73548BAF63DE, 0x766A0ABB3C77B2A8, 0x81C2C92E47EDAEE6, 0x92722C851482353B] ++
  [0xA2BFE8A14CF10364, 0xA81A664BBC423001, 0xC24B8B70D0F89791, 0xC76C51A30654BE30,
   0xD192E819D6EF5218, 0xD69906245565A910, 0xF40E35855771202A, 0x106AA07032BBD1B8,
   0x19A4C116B8D2D0C8, 0x1E376C085141AB53, 0x2748774CDF8EEB99, 0x34B0BCB5E19B48A8,
   0x391C0CB3C5C95A63, 0x4ED8AA4AE3418ACB, 0x5B9CCA4F7763E373, 0x682E6FF3D6B2B8A3,
   0x748F82EE5DEFB2FC, 0x78A5636F43172F60, 0x84C87814A1F0AB72, 0x8CC702081A6439EC] ++
  [0x90BEFFFA23631E28, 0xA4506CEBDE82BDE9, 0xBEF9A3F7B2C67915, 0xC67178F2E372532B,
   0xCA273ECEEA26619C, 0xD186B8C721C0C207, 0xEADA7DD6CDE0EB1E, 0xF57D4F7FEE6ED178,
   0x06F067AA72176FBA, 0x0A637DC5A2C898A6, 0x113F9804BEF90DAE, 0x1B710B35131C471B,
   0x28DB77F523047D84, 0x32CAAB7B40C72493, 0x3C9EBE0A15C9BEBC, 0x431D67C49C100D4C,
   0x4CC5D4BECB3E42B6, 0x597F299CFC657E2A, 0x5FCB6FAB3AD6FAEC, 0x6C44198C4A475817]

/-- The eight working variables of the hash. -/
structure ShaWords where
  a : Word
  b : Word
  c : Word
  d : Word
  e : Word
  f : Word
  g : Word
  h : Word
deriving DecidableEq, Repr

/-- The initial hash value. -/
def sha512Init : ShaWords :=
  { a := 0x6A09E667F3BCC908, b := 0xBB67AE8584CAA73B,
    c := 0x3C6EF372FE94F82B, d := 0xA54FF53A5F1D36F1,
    e := 0x510E527FADE682D1, f := 0x9B05688C2B3E6C1F,
    g := 0x1F83D9ABFB41BD6B, h := 0x5BE0CD19137E2179 }

/-- Eight bytes as a word, most significant first. -/
def beWord (bs : List Byte) : Word := leWord bs.reverse
/-- The eight bytes of a word, most significant first. -/
def beBytes (n v : Nat) : List Byte := (leBytes n v).reverse

/-- The next word of the message schedule, whose words so far stand newest first. -/
def shaNext (w : List Word) : List Word :=
  let x := w.getD 1 0
  let y := w.getD 14 0
  let s1 := x.rotateRight 19 ^^^ x.rotateRight 61 ^^^ (x >>> 6)
  let s0 := y.rotateRight 1 ^^^ y.rotateRight 8 ^^^ (y >>> 7)
  (s1 + w.getD 6 0 + s0 + w.getD 15 0) :: w

/-- The 80 words of the schedule of a block of 128 bytes. -/
def shaSchedule (block : List Byte) : List Word :=
  ((List.range 64).foldl (fun w _ => shaNext w) ((chunks 8 block).map beWord).reverse).reverse

/-- One round. -/
def shaRound (v : ShaWords) (k w : Word) : ShaWords :=
  let s1 := v.e.rotateRight 14 ^^^ v.e.rotateRight 18 ^^^ v.e.rotateRight 41
  let s0 := v.a.rotateRight 28 ^^^ v.a.rotateRight 34 ^^^ v.a.rotateRight 39
  let ch := (v.e &&& v.f) ^^^ (~~~v.e &&& v.g)
  let maj := (v.a &&& v.b) ^^^ (v.a &&& v.c) ^^^ (v.b &&& v.c)
  let t := v.h + s1 + ch + k + w
  { a := t + s0 + maj, b := v.a, c := v.b, d := v.c, e := v.d + t, f := v.e, g := v.f, h := v.g }

/-- The hash value after one more block. -/
def shaBlock (v : ShaWords) (block : List Byte) : ShaWords :=
  let u := (sha512K.zip (shaSchedule block)).foldl (fun x p => shaRound x p.1 p.2) v
  { a := v.a + u.a, b := v.b + u.b, c := v.c + u.c, d := v.d + u.d, e := v.e + u.e, f := v.f + u.f, g := v.g + u.g,
    h := v.h + u.h }

/-- A message padded to whole blocks: a one bit, zeros, and its length in bits. -/
def shaPadded (m : List Byte) : List Byte :=
  m ++ [0x80] ++ List.replicate ((239 - m.length % 128) % 128) 0 ++ beBytes 16 (8 * m.length)

/-- SHA-512 of a message: 64 bytes. -/
def sha512 (m : List Byte) : List Byte :=
  let v := (chunks 128 (shaPadded m)).foldl shaBlock sha512Init
  [v.a, v.b, v.c, v.d, v.e, v.f, v.g, v.h].flatMap (fun w => beBytes 8 w.toNat)

end Sys2Proof
end

