-- ==== Sys2Proof/Machine/Rsa.lean ====
section
/-! DEFINITION. RSASSA-PSS of RFC 8017 with the parameters of R422: RSA-4096, SHA-512, MGF1 with SHA-512, a 64-byte salt
and the trailer 0xBC (PRESUMED, log entry 6). -/

namespace Sys2Proof

/-- An RSA key: modulus, and the exponent, public or private. -/
structure RsaKey where
  n : Nat
  e : Nat
deriving DecidableEq, Repr

/-- The number that an octet string stands for, most significant octet first. -/
def os2ip (bs : List Byte) : Nat := leNat bs.reverse

/-- A power modulo the key's modulus, over the 4,096 bits of the exponent. -/
def RsaKey.power (k : RsaKey) (x : Nat) : Nat :=
  (List.range 4096).reverse.foldl (fun acc i =>
    let y := acc * acc % k.n
    if k.e.testBit i then y * x % k.n else y) 1

/-- The mask generation function MGF1: `n` bytes from a seed. -/
def mgf1 (seed : List Byte) (n : Nat) : List Byte :=
  ((List.range ((n + 63) / 64)).flatMap (fun c => sha512 (seed ++ beBytes 4 c))).take n

/-- Two byte strings of one length, bit by bit. -/
def xorBytes (a b : List Byte) : List Byte := List.zipWith (fun x y => x ^^^ y) a b

/-- The data block's mask and its first bit cleared: 4,095 bits are encoded. -/
def unmask (db h : List Byte) : List Byte :=
  match xorBytes db (mgf1 h 447) with
  | [] => []
  | b :: bs => (b &&& 0x7F) :: bs

/-- The hash over eight zero bytes, the message's hash and the salt. -/
def pssHash (mhash salt : List Byte) : List Byte := sha512 (List.replicate 8 0 ++ mhash ++ salt)

/-- The data block before its mask: zeros, a one octet, the salt. -/
def pssBlock (salt : List Byte) : List Byte := List.replicate 382 0 ++ [1] ++ salt

/-- EMSA-PSS encoding of a message with a salt: 512 bytes. -/
def pssEncode (m salt : List Byte) : List Byte :=
  let h := pssHash (sha512 m) salt
  unmask (pssBlock salt) h ++ h ++ [0xBC]

/-- EMSA-PSS verification of an encoded message of 512 bytes. -/
def pssVerify (m em : List Byte) : Bool :=
  let h := slice em 447 64
  let db := unmask (slice em 0 447) h
  let salt := slice db 383 64
  decide (em.length = 512) && decide (em.getD 511 0 = 0xBC) && !(em.getD 0 0).getLsbD 7 &&
  decide (db = pssBlock salt) && decide (h = pssHash (sha512 m) salt)

/-- RSASSA-PSS verification: key, message, signature. -/
def rsaVerify (k : RsaKey) (m sig : List Byte) : Bool :=
  let x := os2ip sig
  decide (sig.length = 512) && decide (x < k.n) && pssVerify m (beBytes 512 (k.power x))

/-- RSASSA-PSS signature with a private key and a salt. -/
def rsaSign (k : RsaKey) (m salt : List Byte) : List Byte := beBytes 512 (k.power (os2ip (pssEncode m salt)))

end Sys2Proof
end

