-- ==== Sys2Proof/Machine/Aes.lean ====
section
/-! DEFINITION. AES-256 of FIPS 197, decryption, and the key unwrap of RFC 5649, which R429 names (PRESUMED, log entry
6). -/

namespace Sys2Proof

/-- Twice a byte in the field of AES. -/
def aesDouble (b : Byte) : Byte := if b.msb then (b <<< 1) ^^^ 0x1B else b <<< 1

/-- The product of two bytes in the field. -/
def aesMul (a b : Byte) : Byte :=
  ((List.range 8).foldl (fun (r : Byte × Byte) i => (if b.getLsbD i then r.1 ^^^ r.2 else r.1, aesDouble r.2)) (0, a)).1

/-- The inverse of a byte, zero for zero: its 254th power. -/
def aesInv (a : Byte) : Byte :=
  let sq (x : Byte) : Byte := aesMul x x
  let p3 := aesMul (sq a) a
  let p15 := aesMul (sq (sq p3)) p3
  let p63 := aesMul (sq (sq p15)) p3
  sq (aesMul (sq p63) a)

/-- The S-box. -/
def aesSub (a : Byte) : Byte :=
  let x := aesInv a
  x ^^^ x.rotateLeft 1 ^^^ x.rotateLeft 2 ^^^ x.rotateLeft 3 ^^^ x.rotateLeft 4 ^^^ 0x63

/-- The inverse S-box. -/
def aesUnsub (a : Byte) : Byte := aesInv (a.rotateLeft 1 ^^^ a.rotateLeft 3 ^^^ a.rotateLeft 6 ^^^ 0x05)

/-- The next word of the key expansion, whose words so far stand newest first; `i` numbers it. -/
def aesNextKey (w : List (List Byte)) (i : Nat) : List (List Byte) :=
  let t := w.getD 0 []
  let rcon : Byte := (1#8) <<< (i / 8 - 1)
  let t := if i % 8 = 0 then xorBytes ((t.drop 1 ++ t.take 1).map aesSub) [rcon, 0, 0, 0]
    else if i % 8 = 4 then t.map aesSub else t
  xorBytes (w.getD 7 []) t :: w

/-- The 15 round keys of a 32-byte key. -/
def aesKeys (key : List Byte) : List (List Byte) :=
  chunks 16 ((((List.range 52).foldl (fun w i => aesNextKey w (i + 8)) (chunks 4 key).reverse).reverse).flatten)

/-- The rows of a block shifted right, each by its number. -/
def aesUnshift (s : List Byte) : List Byte :=
  (List.range 16).map (fun i => s.getD ((16 + i - 4 * (i % 4)) % 16) 0)

/-- The columns of a block mixed backwards. -/
def aesUnmix (s : List Byte) : List Byte :=
  (chunks 4 s).flatMap (fun c => (List.range 4).map (fun i =>
    (List.zipWith (fun j m => aesMul (c.getD ((i + j) % 4) 0) m) [0, 1, 2, 3] [0x0E, 0x0B, 0x0D, 0x09]).foldl
      (fun x y => x ^^^ y) 0))

/-- The block that encrypts to 16 bytes under a 32-byte key. -/
def aesDecrypt (key block : List Byte) : List Byte :=
  match (aesKeys key).reverse with
  | [] => block
  | k :: ks =>
    let start := xorBytes block k
    (ks.zip (List.range 14)).foldl (fun s r =>
      let t := xorBytes ((aesUnshift s).map aesUnsub) r.1
      if r.2 = 13 then t else aesUnmix t) start

/-- One step of the unwrap: semiblock number `i` with step number `t`. -/
def unwrapStep (key : List Byte) (r : List Byte × List (List Byte)) (i t : Nat) : List Byte × List (List Byte) :=
  let b := aesDecrypt key (xorBytes r.1 (beBytes 8 t) ++ r.2.getD i [])
  (b.take 8, r.2.set i (b.drop 8))

/-- The semiblocks that a wrapped key holds, the integrity check's first. -/
def unwrapBlocks (key c : List Byte) : List Byte × List (List Byte) :=
  if c.length = 16 then
    let b := aesDecrypt key c
    (b.take 8, [b.drop 8])
  else
    let r := chunks 8 (c.drop 8)
    let n := r.length
    (List.range (6 * n)).reverse.foldl (fun x k => unwrapStep key x (k % n) (k + 1)) (c.take 8, r)

/-- The key that RFC 5649 wraps under a 32-byte key-encryption key: none where the integrity check fails. -/
def unwrapKey (key c : List Byte) : Option (List Byte) :=
  let r := unwrapBlocks key c
  let p := r.2.flatten
  let n := os2ip (r.1.drop 4)
  if c.length % 8 = 0 ∧ 16 ≤ c.length ∧ r.1.take 4 = [0xA6, 0x59, 0x59, 0xA6] ∧ p.length < n + 8 ∧ n ≤ p.length ∧
      (p.drop n).all (fun b => b = 0) then some (p.take n)
  else none

end Sys2Proof
end

