-- ==== Sys2Proof/Machine/FastTier.lean ====
section
/-! DEFINITION. The fast tier's pseudo-channel queues and read buffers (R174–R181). A request takes its effect on data
when it reaches its memory (R186); the queues hold the requests that a pseudo-channel has still to serve. -/

namespace Sys2Proof.Machine

/-- Set of the read buffer in which an atom lies: 16,384 sets of 16 lines on each plinth die (R178; the choice of the
set is PRESUMED, log entry 10). -/
def FastTier.bufSet (f : FastTier) (off : Nat) : Nat := f.pchOf off / 64 * 16384 + off / 256 % 16384

/-- The read buffer after an access to an atom (R178): a hit becomes most recent, a read miss allocates unless it
carries nofill, a write miss allocates nothing. (PRESUMED, log entry 10) -/
def FastTier.bufAccess (f : FastTier) (off : Nat) (write nofill : Bool) : FastTier :=
  let i := f.bufSet off
  let a := off / 256
  let set := SMap.get [] f.rbuf i
  if set.contains a then { f with rbuf := SMap.set f.rbuf i (a :: set.erase a) }
  else if write || nofill then f
  else { f with rbuf := SMap.set f.rbuf i ((a :: set).take 16) }

/-- The oldest request of a queue: least arrival, first in the queue among equals. -/
def oldest : List PchReq → Option PchReq
  | [] => none
  | r :: rs => match oldest rs with
    | none => some r
    | some q => if q.arrival < r.arrival then some q else some r

/-- Requests at the ingress enter the queues that have room, in order of arrival per class (R180). -/
def Pch.letIn (p : Pch) : Pch :=
  p.ingress.foldl (fun (q : Pch) x => q.accept x.1 x.2) { p with ingress := [] }

/-- The request that a pseudo-channel serves next: the oldest latency-critical one, else the oldest bulk one; none
during a retrain (R180, R356), and none before a re-read that is due (R355). -/
def Pch.nextReq (q : Pch) : Option PchReq :=
  if q.retraining || q.reread then none else (oldest q.crit).or (oldest q.bulk)

/-- A pseudo-channel after it has served a request. -/
def Pch.served (q : Pch) (r : PchReq) : Pch :=
  (if q.crit.contains r then { q with crit := q.crit.erase r } else { q with bulk := q.bulk.erase r }).letIn

/-- PCH_SERVE (R178, R180). -/
def execPchServe (p : PchId) (s : State) : Host.Outcome State Fault Refusal :=
  .next (match (s.pch p).nextReq with
    | none => s
    | some r =>
      let s := s.modPch p (fun q => q.served r)
      { s with ft := s.ft.bufAccess r.offset r.write r.nofill })

/-- A bulk request's age has reached bulk_threshold, in µs (R180, R200). -/
def State.aged (s : State) (r : PchReq) : Bool :=
  decide (1800 * s.start.img.bulkThreshold ≤ s.plc - r.arrival)

/-- BULK_PROMOTE (R180): the oldest bulk request that has reached bulk_threshold joins the latency-critical class with
its original arrival time; its place in the bulk queue goes to the ingress. (DEDUCED, log entry 99) -/
def execBulkPromote (p : PchId) (s : State) : Host.Outcome State Fault Refusal :=
  .next (match oldest (s.pch p).bulk with
    | some r =>
      if s.aged r then s.modPch p (fun q => { q with bulk := q.bulk.erase r, crit := q.crit ++ [r] }.letIn) else s
    | none => s)

end Sys2Proof.Machine
end

