-- ==== Sys2Proof/Machine/Copy.lean ====
section
/-! DEFINITION. Copies (R146–R147, R188–R197): `cpy` reads its descriptor at issue; the data moves by the completion. -/

namespace Sys2Proof.Machine

/-- A copy descriptor from its 64 bytes (R189, R190). -/
def parseDesc (bs : List Byte) : CopyDesc :=
  let w (i : Nat) : Nat := leNat (slice bs (8 * i) 8)
  let c := w 0
  { gen := BitVec.ofNat 4 (bitsOf c 60 4), kind := BitVec.ofNat 4 (bitsOf c 56 4),
    srcFmt := BitVec.ofNat 4 (bitsOf c 52 4), dstFmt := BitVec.ofNat 4 (bitsOf c 48 4),
    bushel := bitOf c 47, clr := bitOf c 46, nfp := bitOf c 45, cls := bitOf c 44, nofill := bitOf c 43,
    grpEn := bitOf c 42, group := BitVec.ofNat 6 (bitsOf c 36 6), e := BitVec.ofNat 8 (bitsOf c 28 8),
    bexp := BitVec.ofNat 8 (bitsOf c 20 8), tallyEn := bitOf c 19,
    rsv := decide (bitsOf c 0 19 ≠ 0) || decide (bitsOf (w 7) 0 32 ≠ 0) ||
      (decide (bitsOf c 56 4 = 4) && decide (bitsOf (w 6) 21 43 ≠ 0)),
    src := BitVec.ofNat 64 (w 1), dst := BitVec.ofNat 64 (w 2),
    srcPitch := bitsOf (w 3) 32 32, dstPitch := bitsOf (w 3) 0 32,
    rows := bitsOf (w 4) 32 32, cols := bitsOf (w 4) 0 32,
    tally := BitVec.ofNat 64 (w 5), aux := BitVec.ofNat 64 (w 6), scalePitch := bitsOf (w 7) 32 32 }

/-- Kinds of copies (R190). -/
inductive CKind where
  | plain | transpose | convert | grain | gather
deriving DecidableEq, Repr

/-- The kind that a code names. -/
def copyKind (k : BitVec 4) : Option CKind :=
  match k.toNat with
  | 0 => some .plain | 1 => some .transpose | 2 => some .convert | 3 => some .grain | 4 => some .gather
  | _ => none

/-- A destination of a conversion: its float or integer, and whether it is block-scaled. -/
def EFmt.dest (f : EFmt) : DFmt :=
  match f with
  | .int8 => .int8
  | .int32 => .int32
  | _ => match f.flt with
    | some g => .flt g
    | none => .int8

/-- Valid source and destination of a CONVERT copy (R192). -/
def convertPair (bushel : Bool) (src dst : Option EFmt) : Bool :=
  match dst with
  | none => false
  | some d =>
    if bushel then true
    else match src with
      | none => false
      | some f => !f.block || decide (d = .bf16) || decide (d = .fp32)

/-- Valid source and destination of a TRANSPOSE copy (R147). -/
def transposePair (src dst : Option EFmt) : Bool :=
  match src, dst with
  | some f, some d =>
    (decide (f = .e4m3) || decide (f = .e5m2) || decide (f = .bf16) || decide (f = .fp32)) &&
    !decide (d = .int8) && !decide (d = .int32)
  | _, _ => false

/-- Bytes of a row of `n` elements (R191); an E2M1 row takes ⌈n / 2⌉. -/
def rowBytesOf (f : EFmt) (n : Nat) : Nat := if f = .e2m1b then (n + 1) / 2 else n * f.size

/-- Elements of a destination row. -/
def CopyDesc.dstLen (d : CopyDesc) : Nat := if d.kind = 1 then d.rows else d.cols

/-- Bytes of a destination row. -/
def CopyDesc.dstRow (d : CopyDesc) : Nat :=
  if d.kind = 0 ∨ d.kind = 4 then d.cols
  else match tileFmt d.dstFmt with
    | some f => rowBytesOf f d.dstLen
    | none => 0

/-- Bytes of a source row. -/
def CopyDesc.srcRow (d : CopyDesc) : Nat :=
  if d.kind = 0 ∨ d.kind = 4 then d.cols
  else if d.bushel then 8 * d.cols
  else match tileFmt d.srcFmt with
    | some f => rowBytesOf f d.cols
    | none => 0

/-- The copy uses its aux array by global address (R189, R194). -/
def CopyDesc.usesAux (d : CopyDesc) : Bool :=
  match copyKind d.kind with
  | some .grain => true
  | some .transpose => (tileFmt d.dstFmt).any EFmt.block
  | some .convert => (tileFmt d.dstFmt).any EFmt.block || (!d.bushel && (tileFmt d.srcFmt).any EFmt.block)
  | _ => false

/-- An endpoint of a copy: an address of this module in the fast tier, a cluster memory or a scratchpad (R196). -/
def State.copyEnd (s : State) (a : Word) : Bool :=
  s.isSelf (addrModule a) && (decide (addrSpace a = 0) || decide (addrSpace a = 1) || decide (addrSpace a = 2))

/-- The formats of a copy fit its kind (R191, R192, R147). -/
def CopyDesc.pairOk (d : CopyDesc) : Bool :=
  match copyKind d.kind with
  | none => false
  | some .plain => true
  | some .gather => true
  | some .transpose => transposePair (tileFmt d.srcFmt) (tileFmt d.dstFmt)
  | some .convert => convertPair d.bushel (tileFmt d.srcFmt) (tileFmt d.dstFmt)
  | some .grain => decide (d.srcFmt = 6) && decide (d.dstFmt = 9)

/-- The copy moves something (R196): none of the cases in which it moves nothing. -/
def State.copyOk (s : State) (d : CopyDesc) : Bool :=
  s.copyEnd d.src && s.copyEnd d.dst && (!d.usesAux || s.copyEnd d.aux) && d.pairOk &&
  (!d.clr || d.bushel) && (!d.bushel || decide (d.kind = 2)) &&
  (decide (d.kind = 3) || decide (d.dstRow ≤ d.dstPitch))

/-- Reserved bits of layout M that an instruction does not use (R101): those outside the fields listed. -/
structure MUse where
  sa : Bool := false
  sb : Bool := false
  sc : Bool := false
  sd : Bool := false
  acc : Bool := false
  mc : Bool := false
  ct : Bool := false

/-- Some bit outside the fields that an instruction uses is set. -/
def mUnused (w : MWord) (u : MUse) : Bool :=
  w.rsv || (!u.sa && decide (w.sa ≠ 0)) || (!u.sb && decide (w.sb ≠ 0)) || (!u.sc && decide (w.sc ≠ 0)) ||
  (!u.sd && decide (w.sd ≠ 0)) || (!u.acc && (decide (w.atype ≠ 0) || decide (w.sfmt ≠ 0) || decide (w.e ≠ 0))) ||
  (!u.mc && w.mc) || (!u.ct && decide (w.ct ≠ 0))

/-- Advance a copy's tally where tally_en is 1 (R196, R197). A broken home is noted in the strand's rstat (R105); the ACK
of a tally on another module comes back under tag 32 + strand (DESIGN CHOICE, log entry 33). -/
def State.copyTally (s : State) (c t : Nat) (d : CopyDesc) : State :=
  if !d.tallyEn then s
  else if s.isSelf (addrModule d.tally) then
    let r := s.addLocal d.tally 1
    r.1.noteStatus c t r.2
  else s.advance d.tally c (32 + t)

/-! ## The end of the issuing core's scratchpad (R103, R483) -/

/-- An address lies in a core's own scratchpad. -/
def State.ownSpad (s : State) (c : Nat) (a : Word) : Bool :=
  s.isSelf (addrModule a) && decide (addrSpace a = 2) && decide (addrOff a / 2 ^ 21 = c)

/-- How many bytes of a run lie before the end of the scratchpad in which its array begins. -/
def State.fits (s : State) (c : Nat) (base : Word) (r : Word × Nat) : Nat :=
  if s.ownSpad c base then min r.2 (2 ^ 21 - (addrOff base % 2 ^ 21 + (r.1 - base).toNat)) else r.2

/-- A run with the part past the end cut off. -/
def State.clipRun (s : State) (c : Nat) (base : Word) (r : Word × Nat) : Word × Nat := (r.1, s.fits c base r)

/-- The bytes of a run; the part past the end reads as zero (DESIGN CHOICE, log entry 83). -/
def State.readClip (s : State) (c : Nat) (base : Word) (r : Word × Nat) : List Byte :=
  s.readAt r.1 (s.fits c base r) ++ List.replicate (r.2 - s.fits c base r) 0

/-! ## The data of a copy -/

/-- Address of byte 0 of a source row. (DEDUCED, log entry 21) -/
def CopyDesc.srcAt (d : CopyDesc) (i : Nat) : Word := d.src + BitVec.ofNat 64 (i * d.srcPitch)
/-- Address of byte 0 of a destination row. (DEDUCED, log entry 21) -/
def CopyDesc.dstAt (d : CopyDesc) (i : Nat) : Word := d.dst + BitVec.ofNat 64 (i * d.dstPitch)
/-- Bytes between scale rows (R189). -/
def CopyDesc.scalePitchOf (d : CopyDesc) : Nat := if d.scalePitch = 0 then (d.dstLen + 31) / 32 else d.scalePitch
/-- Address of the scales of a row. (DEDUCED, log entry 21) -/
def CopyDesc.scaleRow (d : CopyDesc) (i : Nat) : Word := d.aux + BitVec.ofNat 64 (i * d.scalePitchOf)

/-- What a copy writes and counts. -/
structure CopyOut where
  /-- array, address and bytes of each run written, the cleared source first -/
  writes : List (Word × Word × List Byte) := []
  /-- conversions to count: slot and events -/
  events : List (RSlot × List CEvent) := []
  /-- grain blocks to count -/
  grains : List GrainOut := []

/-- The exact values of a source row, before scaling by 2^e. -/
def State.copyVals (s : State) (c : Nat) (d : CopyDesc) (i : Nat) : List FVal :=
  let row := s.readClip c d.src (d.srcAt i, d.srcRow)
  if d.bushel then (List.range d.cols).map (fun k => bushelVal d.bexp (leWord (slice row (8 * k) 8)))
  else match tileFmt d.srcFmt with
    | none => []
    | some f =>
      let sc := if f.block then s.readClip c d.aux (d.scaleRow i, (d.cols + 31) / 32) else []
      (List.range d.cols).map (fun k =>
        let v := f.elem row k
        if f.block then v.blockScaled (sc.getD (k / 32) 0).toNat else v)

/-- The bytes of a row of codes. -/
def codeBytes (f : EFmt) (cs : List Nat) : List Byte :=
  if f = .e2m1b then packE2m1 cs else cs.flatMap (leBytes f.size)

/-- Whether a conversion goes to a strictly wider float, or from INT8 (R123). -/
def widerThan (bushel : Bool) (src : Option EFmt) (dst : EFmt) : Bool :=
  match bushel, src with
  | false, some .int8 => true
  | false, some f => match f.flt, dst.flt with
    | some a, some b => decide (a.bits < b.bits)
    | _, _ => false
  | _, _ => false

/-- One converted destination row: its bytes, its scale bytes and its events. -/
def convRow (d : CopyDesc) (f : EFmt) (vals : List FVal) : List Byte × List Byte × List CEvent :=
  let vs := vals.map (FVal.scale d.e.toInt)
  match f.block, f.flt with
  | true, some g =>
    let bl := (chunks 32 vs).map (convBlock g d.nfp)
    let cs := bl.flatMap (fun b => b.1)
    (codeBytes f (cs.map (fun k => k.code)), bl.map (fun b => BitVec.ofNat 8 b.2),
     List.zipWith (fun v k => convEvent v k.cls) vs cs)
  | _, _ =>
    let cs := vs.map (convTo f.dest d.nfp (widerThan d.bushel (tileFmt d.srcFmt) f))
    (codeBytes f (cs.map (fun k => k.code)), [], List.zipWith (fun v k => convEvent v k.cls) vs cs)

/-- The writes and events of converted rows. -/
def convOut (d : CopyDesc) (f : EFmt) (rows : List (List FVal)) : CopyOut :=
  let rs := (List.range rows.length).zip (rows.map (convRow d f))
  { writes := rs.flatMap (fun p =>
      (d.dst, d.dstAt p.1, p.2.1) :: (if p.2.2.1.isEmpty then [] else [(d.aux, d.scaleRow p.1, p.2.2.1)])),
    events := rs.map (fun p => (rslotOf f.dest, p.2.2.2)) }

/-- Column `j` of a list of rows. -/
def columnOf (rows : List (List FVal)) (j : Nat) : List FVal := rows.map (fun r => r.getD j (.fin false 0 0))

/-- The FP32 elements of a GRAIN copy's source, in row order. -/
def State.grainSource (s : State) (c : Nat) (d : CopyDesc) : List W32 :=
  (List.range d.rows).flatMap (fun i =>
    let row := s.readClip c d.src (d.srcAt i, 4 * d.cols)
    (List.range d.cols).map (fun k => BitVec.ofNat 32 (leNat (slice row (4 * k) 4))))

/-- The blocks of a GRAIN copy (R193). -/
def State.grainBlocks (s : State) (c : Nat) (d : CopyDesc) : List GrainOut :=
  let g := s.grainSource c d
  (List.range (d.rows * d.cols / 256)).map (fun b =>
    let err := s.readClip c d.aux (d.aux + BitVec.ofNat 64 (1024 * b), 1024)
    grainCode (grainCorrect d.e ((g.drop (256 * b)).take 256)
      ((List.range 256).map (fun k => BitVec.ofNat 32 (leNat (slice err (4 * k) 4))))))

/-- The scratchpad offset of index `k` of a GATHER copy (R194). -/
def CopyDesc.indexAt (d : CopyDesc) (k : Nat) : Word :=
  BitVec.ofNat 64 (d.aux.toNat % 2 ^ 21 / 4 * 4 + 4 * k)

/-- The source row that a row of a copy comes from (R191, R194). -/
def State.copyFrom (s : State) (c : Nat) (d : CopyDesc) (i : Nat) : Word :=
  if d.kind = 4 then d.srcAt (leNat (s.spadRead c (d.indexAt i) 4)) else d.srcAt i

/-- The rows of a PLAIN or GATHER copy: the part of a source row past the end of the scratchpad is not moved (R103). -/
def State.plainRows (s : State) (c : Nat) (d : CopyDesc) : CopyOut :=
  { writes := (List.range d.rows).map (fun i =>
      let r := s.clipRun c d.src (s.copyFrom c d i, d.cols)
      (d.dst, d.dstAt i, s.readAt r.1 r.2)) }

/-- What a copy of core `c` does (R191). -/
def State.copyOut (s : State) (c : Nat) (d : CopyDesc) : CopyOut :=
  match copyKind d.kind with
  | none => {}
  | some .plain => s.plainRows c d
  | some .gather => s.plainRows c d
  | some .grain =>
    let bl := s.grainBlocks c d
    { writes := ((List.range bl.length).zip bl).flatMap (fun p =>
        [(d.dst, d.dst + BitVec.ofNat 64 (34 * p.1), grainBytes p.2),
         (d.aux, d.aux + BitVec.ofNat 64 (1024 * p.1), p.2.err.flatMap (fun x => leBytes 4 x.toNat))]),
      grains := bl }
  | some .convert => match tileFmt d.dstFmt with
    | none => {}
    | some f =>
      let o := convOut d f ((List.range d.rows).map (s.copyVals c d))
      if d.clr then
        { o with writes :=
            (List.range d.rows).map (fun i => (d.src, d.srcAt i, List.replicate (8 * d.cols) 0)) ++ o.writes }
      else o
  | some .transpose => match tileFmt d.dstFmt with
    | none => {}
    | some f =>
      let rows := (List.range d.rows).map (s.copyVals c d)
      convOut d f ((List.range d.cols).map (columnOf rows))

/-- The source rows that a copy reads. -/
def State.copyReads (s : State) (c : Nat) (d : CopyDesc) : List (Word × Nat) :=
  (List.range d.rows).map (fun i => (s.copyFrom c d i, d.srcRow))

/-- The copy reads its aux array: the error memory, or the scales of a block-scaled source (R192, R193). -/
def CopyDesc.readsAux (d : CopyDesc) : Bool :=
  decide (d.kind = 3) || (decide (d.kind = 2) && !d.bushel && (tileFmt d.srcFmt).any EFmt.block)

/-- Addresses of the aux array that a copy reads or writes. -/
def CopyDesc.auxRuns (d : CopyDesc) : List (Word × Nat) :=
  if !d.usesAux then []
  else if d.kind = 3 then [(d.aux, 1024 * (d.rows * d.cols / 256))]
  else (List.range (if d.kind = 1 then d.cols else d.rows)).map (fun i => (d.scaleRow i, (d.dstLen + 31) / 32))

/-- The memory keys that a read of a run reaches. -/
def State.keysOf (s : State) (r : Word × Nat) : List Nat :=
  (List.range r.2).filterMap (fun i => match s.place (r.1 + BitVec.ofNat 64 i) false with
    | .mem k => some k
    | _ => none)

/-- The memory keys at which a write of a run lands (R162, R223). -/
def State.landKeys (s : State) (r : Word × Nat) : List Nat := (s.landing r.1 (List.replicate r.2 0)).map (fun p => p.1)

/-- The address runs of a copy's destination, the scales and the error memory apart. -/
def CopyDesc.dstRuns (d : CopyDesc) : List (Word × Nat) :=
  if d.kind = 3 then [(d.dst, 34 * (d.rows * d.cols / 256))]
  else (List.range (if d.kind = 1 then d.cols else d.rows)).map (fun i => (d.dstAt i, d.dstRow))

/-- Some part of a copy's source, destination or aux array runs past the end of the core's own scratchpad (R483). -/
def State.copyPast (s : State) (c : Nat) (d : CopyDesc) : Bool :=
  let past (base : Word) (rs : List (Word × Nat)) : Bool := rs.any (fun r => decide (s.fits c base r < r.2))
  past d.src (s.copyReads c d) || past d.dst d.dstRuns || past d.aux d.auxRuns

/-- The memory keys of the source that a copy reads, the aux array included where it reads that (R148). -/
def State.sourceKeys (s : State) (c : Nat) (d : CopyDesc) : List Nat :=
  ((s.copyReads c d).map (s.clipRun c d.src) ++
    (if d.readsAux then d.auxRuns.map (s.clipRun c d.aux) else [])).flatMap s.keysOf

/-- The source bytes as they stand (R148). -/
def State.sourceNow (s : State) (c : Nat) (d : CopyDesc) : List (Nat × Byte) :=
  (s.sourceKeys c d).dedup.map (fun k => (k, s.mem.byte k))

/-- CPY (R188, R196): reads the descriptor and takes a slot; a copy that moves nothing ends at once; one that runs past
the end of the core's scratchpad is a misfit (R103, R483). (DEDUCED, log entry 17) A descriptor past the end of the scratchpad
reads as zeros, another generation, and counts no out-of-capacity (DESIGN CHOICE, log entry 115); rows or columns of 0 are
seen before the pair of formats is (DESIGN CHOICE, log entry 116). -/
def execCpy (c : CoreId) (t : StrandId) (w : MWord) (s : State) : Host.Outcome State Fault Refusal :=
  .next (s.issue c t ((lowestFree (s.core c).eng.copies 16).isSome && !s.storePending c t) (fun s =>
    let d := parseDesc (s.spadRead c (s.sreg c t w.sa &&& 0xFFFFFFFFFFFFFFC0) 64)
    let slot := (lowestFree (s.core c).eng.copies 16).getD 0
    let mis := mUnused w { sa := true }
    if d.gen ≠ 1 then ((s.violate .generation).copyTally c t d).retire c t 8 mis
    else
      let s := if d.rsv then s.violate .reservedSet else s
      if d.rows = 0 ∨ d.cols = 0 then (s.copyTally c t d).retire c t 8 mis
      else if !s.copyOk d then (s.copyTally c t d).retire c t 8 true
      else
        let old := s.sourceNow c d
        (s.modEng c (fun e => { e with
          copies := SMap.set e.copies slot { strand := t, desc := d, old := old } })).retire c t 8
          (mis || (d.kind == 3 && d.rows * d.cols % 256 != 0) || s.copyPast c d)))

/-- Bytes of the destination that overlap the source or the aux array are undefined (R197): they become free. -/
def State.freeOverlap (s : State) (ovl : List Nat) : State :=
  ovl.foldl (fun s k => ({ s with mem := s.mem.put k (s.freeVal.setWidth 8) }).useFree) s

/-- The atoms of the fast tier that some runs touch, each once (R148, R177). -/
def State.atomsOf (s : State) (rs : List (Word × Nat)) : List Nat :=
  (rs.flatMap (fun r => (atomParts r.1 r.2).filterMap (fun i =>
    (s.fastOff (r.1 + BitVec.ofNat 64 i) false).map (fun o => o / 256 * 256)))).dedup

/-- What a copy's reads count and request (R162, R179): reads of the class that the descriptor names, one for each atom
(R148). -/
def State.countReads (s : State) (d : CopyDesc) (rs : List (Word × Nat)) : State :=
  let s := rs.foldl (fun s r => s.countBad r.1 r.2 false) s
  (s.atomsOf rs).foldl (fun s o => s.pchRequest o d.cls false d.nofill) s

/-- The source atoms of a copy that have been written since its issue (R148). -/
def State.changedAtoms (s : State) (old : List (Nat × Byte)) : List Nat :=
  ((old.filter (fun p => s.mem.byte p.1 ≠ p.2)).map (fun p => p.1 / 256)).dedup

/-- Of the changed atoms, those that the copy had read before they were written: which ones is free (R148). (DEDUCED, log
entry 17) -/
def State.readEarly (s : State) (old : List (Nat × Byte)) : List Nat :=
  let l := s.changedAtoms old
  (((List.range l.length).zip l).filter (fun p => (Config.freeWord (s.free + p.1)).getLsbD 0)).map (fun p => p.2)

/-- The memory as a copy has read it: each atom as it stood at the copy's issue or as it stands, one or the other (R148). -/
def State.asRead (s : State) (old : List (Nat × Byte)) : State :=
  let early := s.readEarly old
  { s with mem := s.mem.writeList (old.filter (fun p => early.contains (p.1 / 256))) }

/-- What a copy writes: every write is bulk (R179). -/
def State.writeRuns (s : State) (c : Nat) (ws : List (Word × Word × List Byte)) : State :=
  ws.foldl (fun s r =>
    let bs := r.2.2.take (s.fits c r.1 (r.2.1, r.2.2.length))
    (s.writeAt r.2.1 bs).request r.2.1 bs.length false true false) s

/-- Apply what a copy does: reads and writes counted under R162 and requested of the fast tier, conversions counted in
the group, data written. -/
def State.applyCopy (s : State) (c : Nat) (d : CopyDesc) (old : List (Nat × Byte)) : State :=
  let o := (s.asRead old).copyOut c d
  let s := s.useFrees (s.changedAtoms old).length
  let reads := (s.copyReads c d).map (s.clipRun c d.src)
  let aux := d.auxRuns.map (s.clipRun c d.aux)
  let src := (reads ++ aux).flatMap s.keysOf
  let ovl := ((d.dstRuns.map (s.clipRun c d.dst)).flatMap s.landKeys).filter (fun k => src.contains k)
  let s := s.countReads d (reads ++ (if d.readsAux then aux else []))
  let s := s.outOfCapIf (d.kind == 4 && spadPast (d.indexAt 0) (4 * d.rows))
  let s := s.writeRuns c o.writes
  let s := (s.freeOverlap ovl).checkWaits
  if d.grpEn then o.grains.foldl (fun s g => s.noteGrain d.group g)
    (o.events.foldl (fun s e => s.noteConv d.group e.1 e.2) s)
  else s

/-- COPY_COMPLETE (R197): everything is written, the slot is free, and the tally advances. (DEDUCED, log entries 17, 76) -/
def execCopyComplete (c : CoreId) (slot : Fin 16) (s : State) : Host.Outcome State Fault Refusal :=
  .next (match SMap.find? (s.core c).eng.copies slot.val with
    | none => s
    | some k =>
      let s := s.modEng c (fun e => { e with copies := SMap.erase e.copies slot.val })
      (s.applyCopy c k.desc k.old).copyTally c k.strand k.desc)

end Sys2Proof.Machine
end

