-- ==== Sys2Proof/Machine/Lift.lean ====
section
/-! DEFINITION. The slow tier as the Masons see it (R316–R320), the lift header and the lift state (R332–R337). -/

namespace Sys2Proof.Machine

/-! ## The slow tier (R317, R318) -/

/-- Where a slow-tier offset lies for a Mason: `none` in a reserved offset or above present capacity. -/
def State.slowPlace (s : State) (off : Nat) : Option Nat :=
  if off < 2 ^ 40 ∧ off % 2 ^ 38 < s.masonCap (off / 2 ^ 38) then some (slowKey off) else none

/-- Read bytes of the slow tier: zero where nothing lies. -/
def State.readSlow (s : State) (off n : Nat) : List Byte :=
  (List.range n).map (fun i => match s.slowPlace (off + i) with
    | some k => s.mem.byte k
    | none => 0)

/-- The live channel that holds a granule of a Mason's region, and the granule's place in it: granule g lies in live
channel g mod k, at channel granule g div k (R318). The cells of `mem` keep the region offset, which this spreads one to
one. -/
def State.granuleAt (s : State) (m g : Nat) : Option (Nat × Nat) :=
  let l := s.liveChans m
  l[g % l.length]?.map (fun c => (c, g / l.length))

/-- The classes of R162 that a slow-tier access meets, each once: a reserved offset bit (R317), or an offset past present
capacity (R318). -/
def State.slowBad (s : State) (off n : Nat) : List Viol :=
  ((List.range n).filterMap (fun i =>
    if 2 ^ 40 ≤ off + i then some .reservedSpace
    else if (s.slowPlace (off + i)).isNone then some .outOfCapacity else none)).dedup

/-- Count a slow-tier access that falls under R162. -/
def State.countSlow (s : State) (off n : Nat) : State := s.violateAll (s.slowBad off n)

/-- Write bytes to the slow tier (R318). -/
def State.writeSlow (s : State) (off : Nat) (bs : List Byte) : State :=
  let l := ((List.range bs.length).zip bs).filterMap (fun p => (s.slowPlace (off + p.1)).map (fun k => (k, p.2)))
  let s := s.countSlow off bs.length
  { s with mem := s.mem.writeList l }

/-- A slow-tier range touches a held area: the first 1 MiB of a Mason's region (R320). -/
def heldArea (off n : Nat) : Bool :=
  (List.range 4).any (fun m => decide (off < m * 2 ^ 38 + 2 ^ 20) && decide (m * 2 ^ 38 < off + n))

/-! ## The header (R332) -/

/-- The 64 bytes of the lift header. -/
def headerOf (l : Lift) : List Byte :=
  let w0 := fields [(60, 1), (58, l.openState.toNat), (57, b2n l.prevIntact), (56, b2n l.closedValid)]
  let w2 := fields [(48, l.pinsClosed.toNat), (32, l.pinsPrev.toNat)]
  let body := wordBytes w0 ++ wordBytes l.closed ++ wordBytes w2 ++ wordBytes l.mirroredOut ++ wordBytes l.receivedIn ++
    wordBytes l.seq ++ wordBytes 0
  body ++ wordBytes (crc64 body)

/-- The header that 64 bytes hold: `none` for another generation or a CRC that does not hold. -/
def parseLift (bs : List Byte) : Option Lift :=
  let w (i : Nat) : Nat := leNat (slice bs (8 * i) 8)
  if bitsOf (w 0) 60 4 ≠ 1 ∨ w 7 ≠ (crc64 (slice bs 0 56)).toNat then none
  else some {
    openState := BitVec.ofNat 2 (bitsOf (w 0) 58 2), prevIntact := bitOf (w 0) 57, closedValid := bitOf (w 0) 56,
    closed := BitVec.ofNat 64 (w 1), pinsClosed := BitVec.ofNat 16 (bitsOf (w 2) 48 16),
    pinsPrev := BitVec.ofNat 16 (bitsOf (w 2) 32 16), mirroredOut := BitVec.ofNat 64 (w 3),
    receivedIn := BitVec.ofNat 64 (w 4), seq := BitVec.ofNat 64 (w 5) }

/-- Write all four copies of the header, with the sequence number raised by 1 (R332). -/
def State.writeHeaders (s : State) : State :=
  let l := { s.msn.lift with seq := s.msn.lift.seq + 1 }
  let s := { s with msn := { s.msn with lift := l } }
  (List.range 4).foldl (fun s m => { s with mem := s.mem.write (slowKey (m * 2 ^ 38)) (headerOf l) }) s

/-- Change the lift state; every change is written to the headers. -/
def State.modLift (s : State) (f : Lift → Lift) : State :=
  State.writeHeaders { s with msn := { s.msn with lift := f s.msn.lift } }

/-- Change what the lift controller holds outside the header. -/
def State.modLiftRam (s : State) (f : Lift → Lift) : State := { s with msn := { s.msn with lift := f s.msn.lift } }

/-- Start-up takes the copy with the highest sequence number whose CRC holds; with none, the reset values (R332,
R349). -/
def State.takeHeaders (s : State) : State :=
  let ls := (List.range 4).filterMap (fun m => parseLift (s.readSlow (m * 2 ^ 38) 64))
  let best := ls.foldl (fun (b : Option Lift) l => match b with
    | none => some l
    | some x => if x.seq.toNat < l.seq.toNat then some l else some x) none
  { s with msn := { s.msn with lift := best.getD {} } }

/-! ## Pins (R337) -/

/-- A pin of a lift may be taken. -/
def Lift.pinnable (l : Lift) (p : Word) : Bool :=
  decide (p = l.closed) || (decide (p + 1 = l.closed) && decide (p.toNat < l.closed.toNat) && l.prevIntact)

/-- Pins on a lift. -/
def Lift.pins (l : Lift) (p : Word) : BitVec 16 :=
  if p = l.closed then l.pinsClosed else if p + 1 = l.closed then l.pinsPrev else 0

/-- Set the pins on a lift. -/
def Lift.setPins (l : Lift) (p : Word) (n : BitVec 16) : Lift :=
  if p = l.closed then { l with pinsClosed := n } else if p + 1 = l.closed then { l with pinsPrev := n } else l

/-- Some pin holds the slots and the face buffer of a parity (R337). -/
def Lift.pinned (l : Lift) (parity : Bool) : Bool :=
  if l.closed.getLsbD 0 = parity then decide (l.pinsClosed ≠ 0) else decide (l.pinsPrev ≠ 0)

/-! ## Lift events (R334) -/

/-- The first write of a descriptor for the open lift. (DEDUCED, log entry 51) -/
def Lift.firstWrite (l : Lift) : Lift := { l with openState := 1, prevIntact := false }

/-- The close of the open lift (R16): the pins of the closed lift are those of the lift before from then on. -/
def Lift.close (l : Lift) : Lift :=
  { l with closed := l.closed + 1, openState := 0, prevIntact := true, pinsPrev := l.pinsClosed, pinsClosed := 0 }

/-- A retreat (R336). -/
def Lift.retreat (l : Lift) : Lift :=
  { l with closed := l.closed - 1, openState := 0, prevIntact := false, pinsClosed := l.pinsPrev, pinsPrev := 0 }

/-- The closed lift is lost (R334). -/
def Lift.invalid (l : Lift) : Lift := { l with openState := 0, prevIntact := false, closedValid := false }

/-- A committing restore (R334, R343): pins stay with the lifts they name. -/
def Lift.commit (l : Lift) (n : Word) : Lift :=
  { l with closed := n, openState := 0, prevIntact := false, closedValid := true, pinsClosed := l.pins n, pinsPrev := l.pins (n - 1) }

/-- Every pin that `pin` commands hold is released; a drain's stays (R367). -/
def Lift.unpinned (l : Lift) : Lift :=
  { l with pinsClosed := if l.drainPin = some l.closed then 1 else 0
           pinsPrev := if l.drainPin = some (l.closed - 1) then 1 else 0 }

/-! ## Groups and received images (R326, R334, R340) -/

/-- One descriptor of the update has completed (R326): the last one completes the `update`, and with writes makes the
open lift COMPLETE (R334). -/
def State.descriptorDone (s : State) (m : Nat) : State :=
  let s := s.modMason m (fun x => { x with done := satAdd x.done 1 })
  let s := s.modLiftRam (fun l => { l with updLeft := l.updLeft - 1 })
  if s.msn.lift.updLeft ≠ 0 then s else
  let s := if s.msn.lift.updWrote then s.modLift (fun l => { l with openState := 2 }) else s
  match s.msn.lift.updTaken with
  | some k => s.complete k
  | none => s

/-- A group whose passes have ended and whose branches all have their ACK. -/
def GroupRun.over (g : GroupRun) : Bool := g.faceDone && g.acked

/-- The groups of a Mason that are over leave it, each with its descriptor complete. -/
def State.endGroups (s : State) (m : Nat) : State :=
  let n := ((s.mason m).runs.filter GroupRun.over).length
  let s := s.modMason m (fun x => { x with runs := x.runs.filter (fun g => !g.over) })
  (List.range n).foldl (fun s _ => s.descriptorDone m) s

/-- The opcode of `tadd` (R79). -/
def opTadd : BitVec 8 := 0x70

/-- Some Mason's addition has not been applied yet. -/
def State.taddOpen (s : State) : Bool := (List.range 4).any (fun m => (s.mason m).slots.any (fun p => decide (p.2.op = opTadd)))

/-- An image that has been taken whole is recorded once every addition to its free tally has been applied; only then
does done_tally advance (R340). (DEDUCED, log entry 59) -/
def State.recordReceived (s : State) : State :=
  match s.msn.recv with
  | none => s
  | some r =>
    if s.taddOpen then s else
    let s := { s with msn := { s.msn with recv := none } }
    let s := if r.1 then (s.modLift (fun l => { l with receivedIn := r.2.1 })).logOp 4 else s
    s.advance r.2.2 576 63

end Sys2Proof.Machine
end

