-- ==== Sys2Proof/Machine/Remote.lean ====
section
/-! DEFINITION. Remote operations (R205–R214, R228–R231): issue by a core, the packets, their landing, and completion. -/

namespace Sys2Proof.Machine

/-! ## Packets (R207–R211) -/

/-- The answer to a packet, as it goes back to the issuer that the packet names. -/
def answer (p : Packet) (op : BitVec 4) (st : BitVec 3) : Packet :=
  { op := op, status := st, mcb := p.mcb, dst := p.dst, srcModule := p.srcModule, srcUnit := p.srcUnit, tag := p.tag }

/-- The ACK of a packet. -/
def ackFor (p : Packet) (st : BitVec 3) : Packet := answer p 5 st

/-- What ends a packet whose module cannot be reached (R230, R255): PEER_ABSENT to its issuer, in the form that the
issuer awaits (DEDUCED, log entry 14). -/
def absentAnswer (p : Packet) : Option Packet :=
  match p.op.toNat with
  | 0 => if p.last then some (ackFor p stAbsent) else none
  | 1 => if p.last then some (ackFor p stAbsent) else none
  | 2 | 3 | 4 | 5 => some (ackFor p stAbsent)
  | 6 | 7 | 8 => some (answer p 7 stAbsent)
  | 9 | 10 => some (answer p 10 stAbsent)
  | 11 => some { answer p 11 stAbsent with dst := withModule p.dst p.srcModule.toNat, aux := p.aux }
  | _ => none

/-- A packet ends with PEER_ABSENT: its answer sets out, unless its own module is absent too. (DEDUCED, log entry 14)
-/
def State.endAbsent (s : State) (p : Packet) : State :=
  match absentAnswer p with
  | none => s
  | some a => if s.isSelf (packetModule a) || !s.absent (packetModule a) then s.send a else s

/-- Send a packet: one for an absent module ends at once (R230). -/
def State.post (s : State) (p : Packet) : State :=
  if s.isSelf (packetModule p) || !s.absent (packetModule p) then s.send p else s.endAbsent p

/-- Send the answer to a read of an address: one for an absent module ends at once (R230). -/
def State.postFrom (s : State) (p : Packet) (a : Word) : State :=
  if s.isSelf (packetModule p) || !s.absent (packetModule p) then s.sendFrom p a else s.endAbsent p

/-- Send packets in order. -/
def State.postAll (s : State) (ps : List Packet) : State := ps.foldl State.post s

/-- A packet arrives where it is acted on, in its turn (R171). A module takes no packet of another generation or of a
reserved kind (R211); reserved header bits are counted and ignored (R8). -/
def State.takePacket (s : State) (p : Packet) (op : BitVec 4) (act : State → State) : State :=
  if !s.isSelf (packetModule p) || !s.inTurn p then s
  else if p.gen ≠ 1 ∨ 12 ≤ p.op.toNat then (s.takeFlight p).violate .generation
  else if p.op ≠ op then s
  else act (if p.rsv = 0 then s.takeFlight p else (s.takeFlight p).violate .reservedSet)

/-! ## Cutting (R207, R208) -/

/-- The parts of `len` bytes from position `a`, cut at every multiple of 256: offset from the start, and length.
(DEDUCED, log entry 23) -/
def cuts (a len : Nat) : List (Nat × Nat) :=
  if len = 0 then [] else
  (List.range ((a + len - 1) / 256 - a / 256 + 1)).map (fun i =>
    let lo := max a (256 * (a / 256 + i))
    (lo - a, min (a + len) (256 * (a / 256 + i + 1)) - lo))

/-- Set last and count on the last packet of a run, and sig with the signal's address on that of the final run (R208,
R209). -/
def sealRun (sig : Bool) (aux : Word) (run : List Packet) : List Packet :=
  match run.getLast? with
  | none => []
  | some p => run.dropLast ++
    [{ p with last := true, count := BitVec.ofNat 14 run.length, sig := sig, aux := if sig then aux else 0 }]

/-- Cut packets into runs of at most 16,383 (R208); `sig` marks the final run, with the signal's address. -/
def runsOf (sig : Bool) (aux : Word) (ps : List Packet) : List (List Packet) :=
  let rs := chunks 16383 ps
  (rs.dropLast.map (sealRun false 0)) ++ (match rs.getLast? with
    | none => []
    | some r => [sealRun sig aux r])

/-- The packets of a `put` of `data` to `dst`; an empty one is a single packet without payload (R251). (DEDUCED, log
entry 22) -/
def putRuns (hdr : Packet) (dst : Word) (data : List Byte) : List (List Packet) :=
  let parts := if data.isEmpty then [(0, 0)] else cuts (dst.toNat % 256) data.length
  runsOf hdr.sig hdr.aux (parts.map (fun c =>
    { hdr with dst := dst + BitVec.ofNat 64 c.1, len := BitVec.ofNat 9 c.2, payload := slice data c.1 c.2, sig := false, aux := 0 }))

/-- Bytes of a source element of an `acc`, by its format code (R104); a grain block counts as a whole. -/
def accSrcSize (sfmt : BitVec 4) : Nat :=
  if sfmt = 9 then 34 else match tileFmt sfmt with
    | some f => f.size
    | none => 1

/-- Bytes of a destination element of an `acc` (R294). -/
def accDstSize (atype : BitVec 4) : Nat :=
  match atype.toNat with
  | 0 => 4 | 1 => 2 | 2 => 4 | _ => 8

/-- Where source offset `o` of an `acc` goes (R294, R309). -/
def accDst (atype sfmt : BitVec 4) (dst : Word) (o : Nat) : Word :=
  if atype = 4 then dst + BitVec.ofNat 64 (2048 * (o / 34) + o % 34)
  else dst + BitVec.ofNat 64 (o / accSrcSize sfmt * accDstSize atype)

/-- The packets of an `acc` of `data` to `dst`: cut at every 256 B of the source, counted from the start of the
operation (R207, R309). (DEDUCED, log entry 22) (DEDUCED, log entry 23) -/
def accRuns (hdr : Packet) (dst : Word) (data : List Byte) : List (List Packet) :=
  let parts := if data.isEmpty then [(0, 0)] else cuts 0 data.length
  runsOf hdr.sig hdr.aux (parts.map (fun c =>
    { hdr with dst := accDst hdr.atype hdr.sfmt dst c.1, len := BitVec.ofNat 9 c.2,
               payload := slice data c.1 c.2, sig := false, aux := 0 }))

/-! ## Operations in slots (R206, R208, R229) -/

/-- A branch before its first packet leaves: the final run of several is held. -/
def branchOf (dst : Word) (runs : List (List Packet)) : Branch :=
  { dst := dst, acksLeft := runs.length, held := if runs.length ≤ 1 then [] else runs.getLastD [] }

/-- The packets that a branch sends at once. -/
def firstRuns (runs : List (List Packet)) : List Packet :=
  if runs.length ≤ 1 then runs.flatten else runs.dropLast.flatten

/-- The packets of several branches in rotation, one of each branch that has one left, with fuel (R229). -/
def rotate : Nat → List (List Packet) → List Packet
  | 0, _ => []
  | n + 1, bs => bs.filterMap List.head? ++ rotate n (bs.map List.tail)

/-- Take a slot for an operation and send what its branches may send, in rotation (R229). -/
def State.launch (s : State) (unit tag : Nat) (x : RemSlot) (brs : List (Word × List (List Packet))) : State :=
  let s := s.setSlot unit tag (some { x with branches := brs.map (fun b => branchOf b.1 b.2) })
  let ps := brs.map (fun b => firstRuns b.2)
  s.postAll (rotate ((ps.map List.length).foldl max 0) ps)

/-- The tally of a completed operation advances; a broken home discards the addition (R231). -/
def State.endCt (s : State) (c t : Nat) (ct : BitVec 18) : State :=
  if ct = 0 then s else
  let r := s.addKey (spadKey c (8 * ct.toNat)) 1
  r.1.noteStatus c t r.2

/-- An operation's last answer has come: its slot is free and its tally advances (R206, R213); a Mason's group has every
ACK (R326), and a re-face that met an absent peer raises PEER_LOST (R370). -/
def State.finishSlot (s : State) (unit tag : Nat) (x : RemSlot) : State :=
  let s := s.setSlot unit tag none
  if unit < 576 then
    let s := s.endCt unit x.strand x.ct
    if x.absent then s.countAbsent unit else s
  else
    let s := if x.absent then s.logWait 2 else s
    if unit < 580 then
      let s := s.modMason (unit - 576) (fun m => { m with runs := m.runs.map (fun g =>
        if g.slot = some tag then { g with slot := none, ownLanded := true, acked := true } else g) })
      let s := if x.absent && s.job.rewind.any (fun r => r.resume) then s.hold .peerLost 0 else s
      (s.endGroups (unit - 576)).recordReceived
    else s

/-- The branch that an answer belongs to. -/
def State.branchIdx (s : State) (x : RemSlot) (dst : Word) : Nat :=
  if x.branches.length ≤ 1 then 0 else x.branches.findIdx (fun b => s.sameTarget b.dst dst)

/-- A `get` whose request ended with PEER_ABSENT delivers zero (R230). -/
def State.zeroGet (s : State) (c : Nat) (x : RemSlot) (b : Branch) (dst : Word) : State :=
  let o := (dst - b.dst).toNat
  let at_ := x.ret + o
  let n := min (256 - at_ % 256) (x.len - o)
  if c < 576 then s.storeList (spadBytes c (BitVec.ofNat 64 at_) (List.replicate n 0))
  else s.writeSlow at_ (List.replicate n 0)

/-- A branch of a Mason's multicast has landed on this module (R326). -/
def State.markOwn (s : State) (unit tag : Nat) (b : Branch) : State :=
  if 576 ≤ unit ∧ unit < 580 ∧ b.acksLeft = 0 ∧ s.isSelf (addrModule b.dst) then
    s.modMason (unit - 576) (fun m => { m with runs := m.runs.map (fun g =>
      if g.slot = some tag then { g with ownLanded := true } else g) })
  else s

/-- One answer to a branch of an operation (R208, R213, R230). -/
def State.countAnswer (s : State) (unit tag : Nat) (x : RemSlot) (i : Nat) (b : Branch) (st : BitVec 3) : State :=
  let lost := decide (st = stAbsent) && !b.held.isEmpty
  let left := b.acksLeft - 1 - b2n lost
  let go := !b.held.isEmpty && !lost && decide (left = 1)
  let b' := { b with acksLeft := left, held := if lost || go then [] else b.held }
  let x' := { x with branches := x.branches.set i b', absent := x.absent || decide (st = stAbsent) }
  let s := s.markOwn unit tag b'
  if x'.branches.all (fun b => decide (b.acksLeft = 0)) then s.finishSlot unit tag x'
  else
    let s := s.setSlot unit tag (some x')
    if go then s.postAll b.held else s

/-- An answer reaches the engine that issued the operation; one for no open operation is dropped. -/
def State.answered (s : State) (unit tag : Nat) (dst : Word) (st : BitVec 3) (extra : RemSlot → Branch → State → State) :
    State :=
  match s.slotOf unit tag with
  | none => s
  | some x =>
    let i := s.branchIdx x dst
    match x.branches[i]? with
    | none => s
    | some b =>
      if b.acksLeft = 0 then s else
      let s := if unit < 576 then s.noteStatus unit x.strand st else s
      (extra x b s).countAnswer unit tag x i b st

/-! ## Landing (R212, R213) -/

/-- The address at which the run of a packet with last = 1 starts: its packets lie 256 B of source or destination apart
(R207, R208, R309). (DEDUCED, log entry 15) -/
def runStart (p : Packet) : Word :=
  let n := p.count.toNat - 1
  if p.op = 0 then if n = 0 then p.dst else BitVec.ofNat 64 (p.dst.toNat / 256 * 256 - 256 * n)
  else if p.atype = 4 then
    let pos := 34 * (p.dst.toNat / 2048) + p.dst.toNat % 64 - 256 * n
    BitVec.ofNat 64 (2048 * (pos / 34) + pos % 34)
  else BitVec.ofNat 64 (p.dst.toNat - 256 / accSrcSize p.sfmt * accDstSize p.atype * n)

/-- The landing agent of a run, by its destination (R212): a core's engine, a cluster's controller, the issuing engine,
or the inbound port of the quoin die whose link brought the last packet. (DEDUCED, log entry 15) -/
def State.agentOf (s : State) (p : Packet) (link : Option Nat) : Nat :=
  let a := runStart p
  let o := addrOff a
  if addrSpace a = 2 ∧ o / 2 ^ 21 < 576 then o / 2 ^ 21
  else if addrSpace a = 1 ∧ o / 2 ^ 25 < 72 then 600 + o / 2 ^ 25
  else if s.isSelf p.srcModule.toNat then p.srcUnit.toNat
  else 1000 + link.getD 0 / 6

/-- The link by which a packet in flight came. -/
def State.linkOf (s : State) (p : Packet) : Option Nat :=
  (s.net.flight.find? (fun f => f.pkt = p)).bind (fun f => f.link)

/-- Change the landing entries. -/
def State.modLandings (s : State) (f : List Landing → List Landing) : State :=
  { s with net := { s.net with landings := f s.net.landings } }

/-- An agent meets a packet: the last packet of a run says how many confirmations the run needs. -/
def State.noteLanding (s : State) (p : Packet) (link : Option Nat) : State :=
  if p.last then s.modLandings (fun ls => ls ++ [{ agent := s.agentOf p link, pkt := p }]) else s

/-- The confirmation of a packet's write sets out for its landing agent. -/
def State.confirm (s : State) (p : Packet) : State :=
  { s with net := { s.net with confirms := s.net.confirms ++
      [{ module := p.srcModule, unit := p.srcUnit, tag := p.tag, dst := p.dst }] } }

/-- A confirmation belongs to a run: its operation, and an address within the run. -/
def Landing.covers (l : Landing) (k : Confirm) : Bool :=
  decide (l.pkt.srcModule = k.module) && decide (l.pkt.srcUnit = k.unit) && decide (l.pkt.tag = k.tag) &&
  decide ((runStart l.pkt).toNat ≤ k.dst.toNat) && decide (k.dst.toNat ≤ l.pkt.dst.toNat)

/-- A run has landed: the confirmations received for it equal its count (R212). -/
def State.landed (s : State) (l : Landing) : Bool :=
  l.sigWait.isNone && decide (l.pkt.count.toNat ≤ (s.net.got.filter l.covers).length)

/-- The unit number under which landing agents send signals to other modules (log entry 15). -/
def landingUnit : Nat := 582

/-- The lowest tag that no landing agent's signal uses, if any is free. -/
def State.signalTag (s : State) : Option Nat :=
  (List.range 64).find? (fun i => !s.net.landings.any (fun l => l.sigWait == some i))

/-- The tally that a packet signals: module 0xFFF is the module that issued the packet (R159). -/
def State.signalAt (s : State) (p : Packet) : Word :=
  if addrModule p.aux = 0xFFF && !s.isSelf p.srcModule.toNat then withModule p.aux p.srcModule.toNat else p.aux

/-- The confirmations of a run are taken. -/
def State.takeGot (s : State) (l : Landing) : State :=
  { s with net := { s.net with got := s.net.got.filter (fun k => !l.covers k) } }

/-- A run that has landed: its signal, then its ACK (R213); a signal to another module waits for its own ACK, and for a tag
where every one is in use. -/
def State.landRun (s : State) (l : Landing) : State :=
  let n := l.pkt
  if n.sig && !s.isSelf (addrModule (s.signalAt n)) then
    match s.signalTag with
    | none => s
    | some tag =>
      ((s.takeGot l).modLandings (fun ls => ls.map (fun x => if x = l then { x with sigWait := some tag } else x))).post
        { op := 4, dst := s.signalAt n, aux := 1, srcModule := s.self, srcUnit := BitVec.ofNat 10 landingUnit,
          tag := BitVec.ofNat 6 tag }
  else
    let r := if n.sig then (s.takeGot l).addLocal (s.signalAt n) 1 else (s.takeGot l, stOk)
    (r.1.modLandings (fun ls => ls.erase l)).post (ackFor n r.2)

/-- Land every run that has landed, oldest first. -/
def State.landAll (s : State) : State :=
  s.net.landings.foldl (fun s l => if s.landed l then s.landRun l else s) s

/-- WRITE_CONFIRM (R212). -/
def execWriteConfirm (k : Confirm) (s : State) : Host.Outcome State Fault Refusal :=
  .next (State.landAll { s with net := { s.net with confirms := s.net.confirms.erase k, got := s.net.got ++ [k] } })

/-- The ACK of a signal sent to another module: the operation's own ACK now goes, with its status (R213), and a signal that
waited for a tag has this one. -/
def State.signalAcked (s : State) (p : Packet) : State :=
  match s.net.landings.find? (fun l => l.sigWait == some p.tag.toNat) with
  | none => s
  | some l => ((s.modLandings (fun ls => ls.erase l)).post (ackFor l.pkt p.status)).landAll

/-! ## Packets at their destination -/

/-- PUT (R185, R207, R212): written at its destination unit, then confirmed. -/
def execPutPacket (p : Packet) (s : State) : Host.Outcome State Fault Refusal :=
  let link := s.linkOf p
  .next (s.takePacket p 0 (fun s =>
    let s := s.noteLanding p link
    let s := match s.place p.dst true with
      | .ctl o => if p.payload.isEmpty then s else s.strandCtl o p.payload
      | _ => if p.payload.isEmpty then s else (s.writeAt p.dst p.payload).request p.dst p.payload.length false true false
    s.confirm p))

/-- The bytes that a read of `n` bytes returns, the control space included. -/
def State.readAny (s : State) (a : Word) (n : Nat) : List Byte :=
  match s.place a false with
  | .ctl o => s.ctlBytes 0 o n
  | _ => s.readAt a n

/-- What a read of `n` bytes in a class does: it counts, clears RC fields, and asks the pseudo-channels for its atoms. -/
def State.readEffect (s : State) (a : Word) (n : Nat) (crit : Bool) : State :=
  match s.place a false with
  | .ctl o => s.ctlRead 0 o n
  | _ => (s.countBad a n false).request a n crit false false

/-- GET_REQ (R207): the source memory answers with the data. -/
def execGetReq (p : Packet) (s : State) : Host.Outcome State Fault Refusal :=
  .next (s.takePacket p 2 (fun s =>
    let n := p.len.toNat
    let bs := s.readAny p.dst n
    let back := BitVec.ofNat 64 (p.srcModule.toNat * 2 ^ 52 + 2 * 2 ^ 48 + p.srcUnit.toNat * 2 ^ 21 + p.aux.toNat % 2 ^ 21)
    (s.readEffect p.dst n p.cls).postFrom { answer p 3 stOk with dst := back, len := p.len, payload := bs } p.dst))

/-- The opcode of `get` (R79). -/
def opGet : BitVec 8 := 0x63

/-- The requests of a `get`, one for each 256 B unit of its destination (R207). -/
def getReqs (hdr : Packet) (src : Word) (off n : Nat) : List Packet :=
  (cuts off n).map (fun c =>
    { hdr with op := 2, cls := true, dst := src + BitVec.ofNat 64 c.1, len := BitVec.ofNat 9 c.2,
               aux := BitVec.ofNat 64 (off + c.1) })

/-- Issue the next `get` of a restore's face halves by its Mason (R344): `none` where the Mason has no tag free.
(DEDUCED, log entry 62) -/
def State.faceGet (s : State) (w : Nat × Nat × Word × Nat) : Option State :=
  match lowestFree (s.mason w.1).slots 63 with
  | none => none
  | some tag =>
    let hdr : Packet := { srcModule := s.self, srcUnit := BitVec.ofNat 10 (576 + w.1), tag := BitVec.ofNat 6 tag }
    let reqs := (getReqs hdr w.2.2.1 0 w.2.2.2).map (fun p => { p with cls := false })
    let x : RemSlot := { op := opGet, ret := w.2.1, len := w.2.2.2, branches := [{ dst := w.2.2.1, acksLeft := reqs.length }] }
    some ((s.setSlot (576 + w.1) tag (some x)).postAll reqs)

/-- Some Mason's `get` is in progress. -/
def State.getOpen (s : State) : Bool := (List.range 4).any (fun m => (s.mason m).slots.any (fun p => decide (p.2.op = opGet)))

/-- Change the transfers. -/
def State.modXfer (s : State) (f : Xfer → Xfer) : State := { s with msn := { s.msn with xfer := f s.msn.xfer } }

/-- Issue one piece of a restore's face halves, or keep it for later. -/
def State.facePiece (s : State) (w : Nat × Nat × Word × Nat) : State :=
  match s.faceGet w with
  | some s' => s'
  | none => s.modXfer (fun x => { x with faceWork := x.faceWork ++ [w] })

/-- Drain, restore and mirror traffic is paused from shedding step S2 on (R445). -/
def State.paused (s : State) : Bool := decide (2 ≤ s.pwr.step.toNat)

/-- Issue what the Masons have tags for, in order; when nothing is left and every response has come, the face planes
are written. Paused traffic goes on as the step is left (R445). (DEDUCED, log entry 62) -/
def State.faceGets (s : State) : State :=
  if s.paused then s else
  let work := s.msn.xfer.faceWork
  let s' := work.foldl State.facePiece (s.modXfer (fun x => { x with faceWork := [] }))
  let x := s'.msn.xfer
  let fin := x.cmd.any (fun k => k.sub = 2) && x.faceWork.isEmpty && !s'.getOpen
  s'.modXfer (fun x => { x with facesDone := x.facesDone || fin })

/-- The data of a `get` is written at a global address of the issuer; R223 does not discard it (R102, R213). -/
def State.writeGot (s : State) (a : Word) (bs : List Byte) : State :=
  (s.countBad a bs.length true).storeList (((List.range bs.length).zip bs).filterMap (fun p =>
    match s.place (a + BitVec.ofNat 64 p.1) true with
    | .mem k => some (k, p.2)
    | _ => none))

/-- GET_RESP (R213): the data is written at the issuer, which counts the response: a core's in its scratchpad, a
Mason's in its slow tier (R344), at the place in the operation that the return offset names. -/
def execGetResp (p : Packet) (s : State) : Host.Outcome State Fault Refusal :=
  .next (s.takePacket p 3 (fun s =>
    let unit := p.srcUnit.toNat
    (s.answered unit p.tag.toNat p.dst p.status (fun x _ s =>
      if 576 ≤ unit ∧ unit < 580 then s.writeSlow (x.ret + p.dst.toNat % 2 ^ 21) p.payload
      else s.writeGot p.dst p.payload)).faceGets))

/-- TADD (R216, R231): the home applies the addition and returns an ACK. -/
def execTaddPacket (p : Packet) (s : State) : Host.Outcome State Fault Refusal :=
  .next (s.takePacket p 4 (fun s =>
    let r := s.addLocal p.dst p.aux
    r.1.post (ackFor p r.2)))

/-- Take packets that a test names out of the module's buffers (R230): in flight, waiting for a route, and kept for a replay,
where the flit goes on without an owner. -/
def State.dropPackets (s : State) (f : Packet → Bool) : State :=
  let gone := (s.net.flight ++ s.net.routeWait).filter (fun x => f x.pkt)
  let s := gone.foldl State.freeFlight s
  let own (t : TxFlit) : TxFlit := if t.pkt.any (fun x => f x.pkt) then { t with pkt := none } else t
  { s with
    net := { s.net with
      flight := s.net.flight.filter (fun x => !f x.pkt), routeWait := s.net.routeWait.filter (fun x => !f x.pkt) }
    lnk := { s.lnk with links := s.lnk.links.map (fun k =>
      (k.1, { k.2 with ch := { k.2.ch with replayBuf := k.2.ch.replayBuf.map own } })) } }

/-- A packet belongs to a branch of an open operation: a request of it, or an answer to it. -/
def State.ofBranch (s : State) (unit tag : Nat) (b : Branch) (p : Packet) : Bool :=
  s.isSelf p.srcModule.toNat && decide (p.srcUnit.toNat = unit) && decide (p.tag.toNat = tag) &&
  decide (p.op ≠ 6 ∧ p.op ≠ 7 ∧ p.op ≠ 8 ∧ p.op ≠ 9 ∧ p.op ≠ 10) && (decide (p.op = 3) || s.sameTarget b.dst p.dst)

/-- A branch to a module that has become absent ends with PEER_ABSENT, and whatever of it was in flight with it (R230). -/
def State.endBranch (s : State) (unit tag i : Nat) : State :=
  match s.slotOf unit tag with
  | none => s
  | some x => match x.branches[i]? with
    | none => s
    | some b =>
      if b.acksLeft = 0 ∨ s.isSelf (addrModule b.dst) ∨ !s.absent (addrModule b.dst) then s else
      let s := if unit < 576 then s.noteStatus unit x.strand stAbsent else s
      let s := if x.op ≠ opGet then s
        else if unit < 576 then s.storeList (spadBytes unit (BitVec.ofNat 64 x.ret) (List.replicate x.len 0))
        else s.writeSlow x.ret (List.replicate x.len 0)
      (s.dropPackets (s.ofBranch unit tag b)).countAnswer unit tag x i { b with acksLeft := 1, held := [] } stAbsent

/-- The open slots of every engine: unit and tag, with the branches. -/
def State.openSlots (s : State) : List (Nat × Nat × Nat) :=
  let of (u : Nat) (m : SMap RemSlot) : List (Nat × Nat × Nat) :=
    m.flatMap (fun p => (List.range p.2.branches.length).map (fun i => (u, p.1, i)))
  s.cores.flatMap (fun k => of k.1 k.2.eng.remotes) ++ s.msn.units.flatMap (fun m => of (576 + m.1) m.2.slots) ++
  s.ports.flatMap (fun p => of (580 + p.1) p.2.slots)

/-- Every branch to an absent module ends (R230). -/
def State.endBranches (s : State) : State := s.openSlots.foldl (fun s x => s.endBranch x.1 x.2.1 x.2.2) s

/-- Every signal that awaits an absent module's ACK ends with PEER_ABSENT (R213). -/
def State.endSignals (s : State) : State :=
  s.net.landings.foldl (fun s l => match l.sigWait with
    | some tag =>
      let m := addrModule (s.signalAt l.pkt)
      if s.absent m && !s.isSelf m then s.signalAcked { op := 5, status := stAbsent, tag := BitVec.ofNat 6 tag } else s
    | none => s) s

/-- A module field names an absent module. -/
def State.gone (s : State) (m : BitVec 12) : Bool := !s.isSelf m.toNat && s.absent m.toNat

/-- What has come of an absent module's operations and has not landed is dropped: their signals are never applied, and nothing
of them counts for a later operation (R230). -/
def State.dropLandings (s : State) : State :=
  let s := s.dropPackets (fun p => !isResponse p.op && s.gone p.srcModule)
  let packs := s.mortar.packs.filter (fun k => s.gone k.pkt.srcModule)
  let dead (f : Frag) : Bool := packs.any (fun k => k.num = f.pkt)
  { s with
    net := { s.net with
      got := s.net.got.filter (fun k => !s.gone k.module), confirms := s.net.confirms.filter (fun k => !s.gone k.module)
      landings := s.net.landings.filter (fun l => !s.gone l.pkt.srcModule) }
    mortar := { s.mortar with
      frags := s.mortar.frags.filter (fun f => !dead f), joins := s.mortar.joins.filter (fun f => !dead f)
      packs := s.mortar.packs.filter (fun k => !packs.contains k) } }

/-- ACK (R213). -/
def execAckPacket (p : Packet) (s : State) : Host.Outcome State Fault Refusal :=
  .next (s.takePacket p 5 (fun s =>
    let unit := p.srcUnit.toNat
    if unit = landingUnit then s.signalAcked p
    else if unit < 576 ∧ 32 ≤ p.tag.toNat then
      let s := s.noteStatus unit (p.tag.toNat % 4) p.status
      if p.status = stAbsent then s.countAbsent unit else s
    else (s.answered unit p.tag.toNat p.dst p.status (fun x b s =>
      if x.op = opGet && decide (p.status = stAbsent) then s.zeroGet unit x b p.dst else s)).faceGets))

/-! ## Issue by a core (R102–R107, R205, R228) -/

/-- An address names the face window. -/
def isWindow (a : Word) : Bool := decide (addrSpace a = 0) && a.getLsbD 46

/-- Spaces in which a `put` may write (R205). -/
def putSpace (a : Word) : Bool :=
  !isWindow a && decide (addrSpace a = 0 ∨ addrSpace a = 1 ∨ addrSpace a = 2 ∨ addrSpace a = 8)
/-- Spaces from which a `get` may read (R205). -/
def getSpace (a : Word) : Bool := decide (addrSpace a = 0 ∨ addrSpace a = 1 ∨ addrSpace a = 2 ∨ addrSpace a = 8)
/-- Spaces that hold tallies (R205). -/
def tallySpace (a : Word) : Bool := !isWindow a && decide (addrSpace a = 0 ∨ addrSpace a = 1 ∨ addrSpace a = 2)
/-- Spaces that hold keystone objects (R205). -/
def keySpace (a : Word) : Bool := decide (addrSpace a = 1 ∨ addrSpace a = 2)
/-- Spaces into which an `acc` of a type may add (R205). -/
def accSpace (atype : BitVec 4) (a : Word) : Bool :=
  if atype.toNat < 3 then tallySpace a else !isWindow a && decide (addrSpace a = 0)

/-- Valid pairs of accumulate type and source format (R104). -/
def accPair (atype sfmt : BitVec 4) : Bool :=
  match atype.toNat with
  | 0 => decide (sfmt = 6)
  | 1 => decide (sfmt = 5)
  | 2 => decide (sfmt = 8)
  | 3 => decide (sfmt = 6 ∨ sfmt = 5 ∨ sfmt = 0 ∨ sfmt = 1)
  | 4 => decide (sfmt = 9)
  | _ => false

/-- The targets of an operation. -/
structure Targets where
  /-- CORES, else MODULES -/
  cores : Bool
  /-- the destination before substitution -/
  dst : Word
  /-- the targets; `none` for an operation to one target -/
  ids : Option (List Nat)
  /-- the list has a reserved bit set -/
  rsv : Bool
  /-- the module mask read, if any -/
  mask : Option Word

/-- Substitute target `i` in an address (R228). -/
def Targets.sub (t : Targets) (a : Word) (i : Nat) : Word := if t.cores then withCore a i else withModule a i

/-- The targets with their substituted destination and signal addresses. -/
def Targets.all (t : Targets) (sig : Word) : List (Word × Word) :=
  match t.ids with
  | none => [(t.dst, sig)]
  | some l => l.map (fun i => (t.sub t.dst i, t.sub sig i))

/-- A target list from its 128 bytes (R228): `none` where it is not valid. -/
def State.targetList (s : State) (bs : List Byte) : Option Targets :=
  let w (i : Nat) : Nat := leNat (slice bs (8 * i) 8)
  let dst := BitVec.ofNat 64 (w 1)
  let mask := BitVec.ofNat 64 (w 2)
  let tail := decide (bitsOf (w 0) 0 58 ≠ 0) || (slice bs 96 32).any (fun b => b != 0)
  if bitsOf (w 0) 60 4 ≠ 1 then none
  else match bitsOf (w 0) 58 2 with
    | 0 => if addrSpace dst ≠ 2 then none else
      some { cores := true, dst := dst, ids := some (setBits 576 (leNat (slice bs 24 72))),
             rsv := tail || decide (w 2 ≠ 0), mask := none }
    | 1 => if !s.isSelf (addrModule mask) ∨ addrSpace mask ≠ 0 then none else
      some { cores := false, dst := dst, ids := some (setBits 4095 (leNat (s.readAt mask 512))),
             rsv := tail || (slice bs 24 72).any (fun b => b != 0), mask := some mask }
    | _ => none

/-- The targets that an instruction names: those of its list with mc = 1, else the address in Sb (R228). A list past the
end of the scratchpad reads as zeros, another generation, and counts no out-of-capacity (DESIGN CHOICE, log entry 115). -/
def State.targetsOf (s : State) (c t : Nat) (w : MWord) : Option Targets :=
  if w.mc then s.targetList (s.spadRead c (s.sreg c t w.sb &&& 0xFFFFFFFFFFFFFFC0) 128)
  else some { cores := false, dst := s.sreg c t w.sb, ids := none, rsv := false, mask := none }

/-- What reading a target list counts (R8, R162). -/
def State.countList (s : State) (t : Targets) : State :=
  let s := if t.rsv then s.violate .reservedSet else s
  match t.mask with
  | some m => s.engineRead m 512
  | none => s

/-- The part of a length that lies in the scratchpad (R103). -/
def clipLen (off len : Word) : Nat := if 2 ^ 21 ≤ off.toNat then 0 else min len.toNat (2 ^ 21 - off.toNat)

/-- The header of a core's packets. -/
def State.coreHdr (s : State) (c tag : Nat) : Packet :=
  { srcModule := s.self, srcUnit := BitVec.ofNat 10 c, tag := BitVec.ofNat 6 tag }

/-- An operation without a slot is not ready (R206); the strand's own `tstore` comes first (R27). -/
def State.remoteReady (s : State) (c t : Nat) : Bool :=
  (lowestFree (s.core c).eng.remotes 32).isSome && !s.storePending c t

/-- The slot that an operation takes. -/
def State.freeSlot (s : State) (c : Nat) : Nat := (lowestFree (s.core c).eng.remotes 32).getD 0

/-- Issue a `put`, `put.s`, `acc` or `acc.s` of `data` to its targets; an empty mask completes at once (R228). -/
def State.issueWrite (s : State) (c t : Nat) (w : MWord) (op : BitVec 8) (hdr : Packet) (tg : Targets) (data : List Byte) :
    State :=
  let slot := s.freeSlot c
  let h := { s.coreHdr c slot with op := hdr.op, atype := hdr.atype, sfmt := hdr.sfmt, e := hdr.e, sig := hdr.sig, mcb := w.mc }
  let ts := tg.all (s.sreg c t w.sd)
  let s := s.countList tg
  if ts.isEmpty then s.endCt c t w.ct
  else
    let brs := ts.map (fun x =>
      let hx := { h with aux := if hdr.sig then x.2 else 0 }
      (x.1, if hdr.op = 1 then accRuns hx x.1 data else putRuns hx x.1 data))
    s.launch c slot { op := op, strand := t, ct := w.ct, mc := w.mc } brs

/-- A `put` or `put.s` (R102, R103, R205): its source is read at issue, once for every branch (R106, R229; DESIGN CHOICE,
log entry 103). -/
def State.putOp (s : State) (c : CoreId) (t : StrandId) (w : MWord) (op : BitVec 8) (sig : Bool) : State :=
  s.issue c t (s.remoteReady c t) (fun s =>
    match s.targetsOf c t w with
    | none => s.retire c t 8 true
    | some tg =>
      if !putSpace tg.dst || (sig && !tallySpace (s.sreg c t w.sd)) then s.retire c t 8 true
      else
        let off := s.sreg c t w.sa
        let len := s.sreg c t w.sc
        let n := clipLen off len
        let mis := decide (n ≠ len.toNat) || mUnused w { sa := true, sb := true, sc := true, sd := sig, mc := true, ct := true }
        (s.issueWrite c t w op { op := 0, sig := sig } tg (s.spadRead c off n)).retire c t 8 mis)

/-- PUT (R102). -/
def execPutI (c : CoreId) (t : StrandId) (w : MWord) (s : State) : Host.Outcome State Fault Refusal :=
  .next (s.putOp c t w 0x61 false)
/-- PUT_S (R102). -/
def execPutSI (c : CoreId) (t : StrandId) (w : MWord) (s : State) : Host.Outcome State Fault Refusal :=
  .next (s.putOp c t w 0x62 true)

/-- An `acc` or `acc.s` (R103, R104, R205, R308). -/
def State.accOp (s : State) (c : CoreId) (t : StrandId) (w : MWord) (op : BitVec 8) (sig : Bool) : State :=
  s.issue c t (s.remoteReady c t) (fun s =>
    match s.targetsOf c t w with
    | none => s.retire c t 8 true
    | some tg =>
      if !accPair w.atype w.sfmt || !accSpace w.atype tg.dst || (sig && !tallySpace (s.sreg c t w.sd)) ||
          (decide (w.atype = 4) && decide (tg.dst.toNat % 2048 ≠ 0)) then s.retire c t 8 true
      else
        let off := s.sreg c t w.sa
        let len := s.sreg c t w.sc
        let n := clipLen off len / accSrcSize w.sfmt * accSrcSize w.sfmt
        let mis := decide (n ≠ len.toNat) ||
          mUnused w { sa := true, sb := true, sc := true, sd := sig, acc := true, mc := true, ct := true }
        let hdr : Packet := { op := 1, atype := w.atype, sfmt := w.sfmt, e := if 3 ≤ w.atype.toNat then w.e else 0, sig := sig }
        (s.issueWrite c t w op hdr tg (s.spadRead c off n)).retire c t 8 mis)

/-- ACC (R104). -/
def execAccI (c : CoreId) (t : StrandId) (w : MWord) (s : State) : Host.Outcome State Fault Refusal :=
  .next (s.accOp c t w 0x64 false)
/-- ACC_S (R104). -/
def execAccSI (c : CoreId) (t : StrandId) (w : MWord) (s : State) : Host.Outcome State Fault Refusal :=
  .next (s.accOp c t w 0x65 true)

/-- GET (R102, R103, R205). -/
def execGetI (c : CoreId) (t : StrandId) (w : MWord) (s : State) : Host.Outcome State Fault Refusal :=
  .next (s.issue c t (s.remoteReady c t) (fun s =>
    let src := s.sreg c t w.sb
    if w.mc || !getSpace src then s.retire c t 8 true
    else
      let off := s.sreg c t w.sa
      let len := s.sreg c t w.sc
      let n := clipLen off len
      let mis := decide (n ≠ len.toNat) || mUnused w { sa := true, sb := true, sc := true, ct := true }
      let slot := s.freeSlot c
      let reqs := getReqs (s.coreHdr c slot) src off.toNat n
      let b : Branch := { dst := src, acksLeft := reqs.length }
      let x : RemSlot := { op := opGet, strand := t, ct := w.ct, ret := off.toNat, len := n, branches := [b] }
      (if reqs.isEmpty then s.endCt c t w.ct else (s.setSlot c slot (some x)).postAll reqs).retire c t 8 mis))

/-- TADD (R107). -/
def execTadd (c : CoreId) (t : StrandId) (w : MWord) (s : State) : Host.Outcome State Fault Refusal :=
  .next (s.issue c t (s.remoteReady c t) (fun s =>
    let a := s.sreg c t w.sb
    if w.mc || !tallySpace a then s.retire c t 8 true
    else
      let slot := s.freeSlot c
      let p := { s.coreHdr c slot with op := 4, dst := a, aux := s.sreg c t w.sc }
      (s.launch c slot { op := 0x70, strand := t, ct := w.ct } [(a, [[p]])]).retire c t 8
        (mUnused w { sb := true, sc := true, ct := true })))

/-- MC_HOLD_TIMEOUT (R229, R245): a branch of a multicast held for 100 µs is counted once. -/
def execMcHoldTimeout (c : CoreId) (slot : Fin 32) (branch : Nat) (s : State) : Host.Outcome State Fault Refusal :=
  .next (match s.slotOf c slot with
    | none => s
    | some x => match x.branches[branch]? with
      | none => s
      | some b =>
        if !x.mc || b.holdCounted || decide (b.acksLeft = 0) || !s.branchHeld c slot b then s
        else
          let s := s.setSlot c slot (some { x with branches := x.branches.set branch { b with holdCounted := true } })
          (s.modCluster (coreCluster c) (fun k => { k with mcHold := satAdd k.mcHold 1 })).logWait 1)

end Sys2Proof.Machine
end

