-- ==== Sys2Proof/Machine/Mortar.lean ====
section
/-! DEFINITION. Accumulation (R293–R315): the mortar fronts and adders, the reduction block, poison, and the ledgers. -/

namespace Sys2Proof.Machine

/-! ## Headers as bytes (R209) -/

/-- The 32 bytes of a packet's header. -/
def headerBytes (p : Packet) : List Byte :=
  wordBytes (fields [(60, p.gen.toNat), (56, p.op.toNat), (52, p.atype.toNat), (48, p.sfmt.toNat), (40, p.e.toNat),
    (31, p.len.toNat), (30, b2n p.sig), (29, b2n p.last), (28, b2n p.mcb), (27, b2n p.cls), (24, p.status.toNat),
    (10, p.count.toNat), (0, p.rsv.toNat % 2 ^ 10)]) ++
  wordBytes p.dst ++
  wordBytes (fields [(52, p.srcModule.toNat), (42, p.srcUnit.toNat), (36, p.tag.toNat), (0, p.rsv.toNat / 2 ^ 10)]) ++
  wordBytes p.aux

/-- The header that 32 bytes hold. -/
def parseHeader (bs : List Byte) : Packet :=
  let w (i : Nat) : Nat := leNat (slice bs (8 * i) 8)
  let a := w 0
  let b := w 2
  { gen := BitVec.ofNat 4 (bitsOf a 60 4), op := BitVec.ofNat 4 (bitsOf a 56 4), atype := BitVec.ofNat 4 (bitsOf a 52 4),
    sfmt := BitVec.ofNat 4 (bitsOf a 48 4), e := BitVec.ofNat 8 (bitsOf a 40 8), len := BitVec.ofNat 9 (bitsOf a 31 9),
    sig := bitOf a 30, last := bitOf a 29, mcb := bitOf a 28, cls := bitOf a 27,
    status := BitVec.ofNat 3 (bitsOf a 24 3), count := BitVec.ofNat 14 (bitsOf a 10 14), dst := BitVec.ofNat 64 (w 1),
    srcModule := BitVec.ofNat 12 (bitsOf b 52 12), srcUnit := BitVec.ofNat 10 (bitsOf b 42 10),
    tag := BitVec.ofNat 6 (bitsOf b 36 6), aux := BitVec.ofNat 64 (w 3),
    rsv := BitVec.ofNat 46 (bitsOf a 0 10 + 2 ^ 10 * bitsOf b 0 36) }

/-! ## Ledgers (R311–R314) -/

/-- A reduction packet: bushel or grain, between two modules (R311). -/
def State.isReduction (s : State) (p : Packet) : Bool :=
  decide (p.op = 1) && decide (p.atype = 3 ∨ p.atype = 4) &&
  !(decide (p.srcModule.toNat = addrModule p.dst) || (s.isSelf p.srcModule.toNat && s.isSelf (addrModule p.dst)))

/-- Add a packet to a ledger (R311, R312). -/
def Ledger.note (l : Ledger) (p : Packet) : Ledger :=
  { sum := l.sum + crc64 (headerBytes p ++ p.payload), count := l.count + 1 }

/-- The sent ledger takes a reduction packet as it first enters a link (R311). -/
def State.noteSent (s : State) (p : Packet) : State :=
  if s.isReduction p && s.isSelf p.srcModule.toNat then
    { s with mortar := { s.mortar with sent := SMap.modify {} s.mortar.sent (addrModule p.dst) (fun l => l.note p) } }
  else s

/-- The received ledger takes a reduction packet that the quoin die accepts as its own (R311). -/
def State.noteReceived (s : State) (p : Packet) : State :=
  if s.isReduction p && s.isSelf (addrModule p.dst) then
    { s with mortar := { s.mortar with recv := SMap.modify {} s.mortar.recv p.srcModule.toNat (fun l => l.note p) } }
  else s

/-- Reset every ledger; the epoch is the closed lift (R313). -/
def State.resetLedgers (s : State) : State :=
  { s with mortar := { s.mortar with sent := [], recv := [], epoch := s.msn.lift.closed } }

/-- The entries of a ledger as the block holds them (R314). -/
def ledgerBytes (m : SMap Ledger) : List Byte :=
  (List.range 4096).flatMap (fun a =>
    let l := if a = 4095 then {} else SMap.get {} m a
    wordBytes l.sum ++ wordBytes l.count)

/-- A word of a block in the fast tier. -/
def State.fastWord (s : State) (off : Nat) : Nat := (s.mem.word (fastKey off)).toNat

/-- The reduction block in force (R299): one whose header is being read is judged by its generation alone (R303). -/
def State.redInForce (s : State) : Option RedBlock :=
  s.mortar.red.filter (fun b => !s.mortar.loading || decide (bitsOf (s.fastWord b.offset) 60 4 = 1))

/-- Write a snapshot of the ledgers into the block in force (R314), epoch and then course last: none is written when no
block is in force. -/
def State.snapshot (s : State) (course : Word) : State :=
  match s.redInForce with
  | none => s
  | some b =>
    (((s.fastWrite (b.offset + 0x10000) (ledgerBytes s.mortar.sent)).fastWrite (b.offset + 0x20000)
      (ledgerBytes s.mortar.recv)).fastWrite (b.offset + 8) (wordBytes s.mortar.epoch)).fastWrite (b.offset + 16)
      (wordBytes course)

/-- A block comes into force, or none (R299, R302): the header and entries of one are read from the edge on. -/
def State.setBlock (s : State) (b : Option Nat) : State :=
  { s with mortar := { s.mortar with red := b.map (fun o => ({ offset := o } : RedBlock)), loading := b.isSome } }

/-! ## The reduction block (R299–R303) -/

/-- A bucket entry's words. -/
def bucketOf (i : Nat) (a b c : Nat) : Bucket :=
  { idx := i, grpEn := bitOf a 58, group := BitVec.ofNat 6 (bitsOf a 52 6), e := BitVec.ofNat 8 (bitsOf a 44 8),
    base := bitsOf b 0 46, elements := bitsOf c 0 40 }

/-- The end of a bucket. -/
def Bucket.stop (b : Bucket) : Nat := b.base + 8 * b.elements

/-- What reading the entries has given so far: those taken, how many were not, and the violations. -/
structure BucketScan where
  taken : List Bucket := []
  bad : Nat := 0
  viols : List Viol := []

/-- Take or leave one entry (R303). (DEDUCED, log entry 78) -/
def BucketScan.entry (k : BucketScan) (cap i : Nat) (a b c : Nat) : BucketScan :=
  if !bitOf a 59 then k
  else
    let x := bucketOf i a b c
    let rsv := decide (bitsOf a 0 44 ≠ 0 ∨ bitsOf b 46 18 ≠ 0 ∨ bitsOf c 40 24 ≠ 0)
    if bitsOf a 60 4 ≠ 1 then { k with bad := k.bad + 1, viols := k.viols ++ [.generation, .bucketTable] }
    else
    let k := if rsv then { k with viols := k.viols ++ [.reservedSet] } else k
    if x.base % 256 ≠ 0 ∨ x.elements = 0 ∨ x.elements % 32 ≠ 0 ∨ cap < x.stop ∨
        x.base < (k.taken.getLast?.map Bucket.stop).getD 0 then
      { k with bad := k.bad + 1, viols := k.viols ++ [.bucketTable] }
    else { k with taken := k.taken ++ [x] }

/-- Add to a word of the block: it is read and written (R178, R304). -/
def State.fastAdd (s : State) (off n : Nat) : State :=
  (s.bulkRead off 8).fastWrite off (wordBytes (BitVec.ofNat 64 (s.fastWord off + n)))

/-- A reserved bit of a reduction header is set: in word 0, or in words 6 to 31 (R8, R300). -/
def State.headReserved (s : State) (off : Nat) : Bool :=
  decide (bitsOf (s.fastWord off) 11 49 ≠ 0) || (List.range 26).any (fun i => decide (s.fastWord (off + 48 + 8 * i) ≠ 0))

/-- REDUCTION_BLOCK_LOADED (R302, R303): the header and entries named at the edge are in force; fragments proceed. -/
def execReductionBlockLoaded (s : State) : Host.Outcome State Fault Refusal :=
  .next (
    if !s.mortar.loading then s else
    match s.mortar.red with
    | none => { s with mortar := { s.mortar with loading := false } }
    | some b =>
      let s := s.bulkRead b.offset 0x8100
      let h := s.fastWord b.offset
      if bitsOf h 60 4 ≠ 1 then
        State.violate { s with mortar := { s.mortar with loading := false, red := none } } .generation
      else
        let n := min (bitsOf h 0 11) 1024
        let k := (List.range n).foldl (fun (k : BucketScan) i =>
          let o := b.offset + 256 + 32 * i
          k.entry s.ft.capacity i (s.fastWord o) (s.fastWord (o + 8)) (s.fastWord (o + 16))) {}
        let s := { s with mortar := { s.mortar with loading := false, red := some { b with buckets := k.taken } } }
        let s := s.violateAll k.viols
        let s := if s.headReserved b.offset then s.violate .reservedSet else s
        if k.bad = 0 then s else s.fastAdd (b.offset + 40) k.bad)

/-! ## One element (R294) -/

/-- The value that source element `i` of a body contributes. -/
def accValue (sfmt : BitVec 4) (body : List Byte) (i : Nat) : FVal :=
  match tileFmt sfmt with
  | some f => f.elem body i
  | none => .nan

/-- A destination element of atype 0x0–0x2 after the addition of a source element's code. -/
def accPlain (atype : BitVec 4) (old src : Nat) : Nat :=
  match atype.toNat with
  | 0 => (fadd (BitVec.ofNat 32 old) (BitVec.ofNat 32 src)).toNat
  | 1 => FFmt.bf16.encode ((FFmt.bf16.decode old).add (FFmt.bf16.decode src))
  | _ => (old + src) % 2 ^ 32

/-- Source element `i` of a body, as a number. -/
def srcCode (sfmt : BitVec 4) (body : List Byte) (i : Nat) : Nat :=
  leNat (slice body (accSrcSize sfmt * i) (accSrcSize sfmt))

/-- The bucket in which an offset falls. -/
def State.bucketAt (s : State) (off : Nat) : Option Bucket :=
  match s.mortar.red with
  | some b => b.buckets.find? (fun x => decide (x.base ≤ off) && decide (off < x.stop))
  | none => none

/-- Change an ACC packet that is being added. -/
def State.modPack (s : State) (num : Nat) (f : AccPkt → AccPkt) : State :=
  { s with mortar := { s.mortar with packs := s.mortar.packs.map (fun p => if p.num = num then f p else p) } }

/-- The packet of a number. -/
def State.pack (s : State) (num : Nat) : AccPkt := (s.mortar.packs.find? (fun p => p.num = num)).getD {}

/-- A packet is poisoned under R304: counted once. -/
def State.countMismatch (s : State) (num : Nat) : State :=
  if (s.pack num).mismatch then s else
  match s.mortar.red with
  | none => s
  | some b => (((s.modPack num (fun p => { p with mismatch := true })).fastAdd (b.offset + 24) 1)).violate .bucketMismatch

/-- A packet has elements outside every bucket: counted once, while a block is in force (R303, R304). -/
def State.countUndeclared (s : State) (num : Nat) : State :=
  if (s.pack num).undeclared then s else
  match s.mortar.red with
  | none => s
  | some b => (s.modPack num (fun p => { p with undeclared := true })).fastAdd (b.offset + 32) 1

/-- Write a bushel element of a bucket; one that turns to poison counts in the bucket's poison word (R306). -/
def State.putBushel (s : State) (b : Bucket) (off : Nat) (v : Word) : State :=
  let old := s.mem.word (fastKey off)
  let s := s.store (fastKey off) (wordBytes v)
  if v = poison ∧ old ≠ poison then
    match s.mortar.red with
    | some r => s.fastAdd (r.offset + 256 + 32 * b.idx + 24) 1
    | none => s
  else s

/-- A bushel contribution reaches an element (R131, R132, R304). -/
def State.addBushel (s : State) (num : Nat) (e : BitVec 8) (off : Nat) (v : FVal) : State :=
  let c := toBushel e v
  match s.bucketAt off with
  | none =>
    (s.store (fastKey off) (wordBytes (bushelAdd (s.mem.word (fastKey off)) c.1))).countUndeclared num
  | some b =>
    if e = b.e then
      let s := s.putBushel b off (bushelAdd (s.mem.word (fastKey off)) c.1)
      if b.grpEn then s.noteConv b.group .bushel [convEvent v c.2] else s
    else (s.putBushel b (b.base + (off - b.base) / 8 * 8) poison).countMismatch num

/-- A contribution of atype 0x0–0x2 reaches an element of the fast tier (R294, R304). -/
def State.addPlain (s : State) (num : Nat) (atype : BitVec 4) (off src : Nat) : State :=
  match s.bucketAt off with
  | none =>
    let n := accDstSize atype
    s.store (fastKey off) (leBytes n (accPlain atype (leNat (s.mem.read (fastKey off) n)) src))
  | some b => (s.putBushel b (b.base + (off - b.base) / 8 * 8) poison).countMismatch num

/-! ## Fragments (R295, R296, R309, R310) -/

/-- The adder of a fast-tier offset: that of its stack (R174, R293). -/
def State.adderOf (s : State) (off : Nat) : Nat := s.ft.pchOf off / 32

/-- The fragments of a packet whose source is not grain-coded: one for each 256 B destination unit. -/
def plainParts (p : Packet) (off : Nat) : List (Nat × Nat × List Byte) :=
  let ssz := accSrcSize p.sfmt
  let dsz := accDstSize p.atype
  let n := p.payload.length / ssz
  if n = 0 then [] else
  (List.range ((off + n * dsz - 1) / 256 - off / 256 + 1)).filterMap (fun j =>
    let u := off / 256 + j
    let first (x : Nat) : Nat := min n ((x - off + dsz - 1) / dsz)
    let lo := first (256 * u)
    let hi := first (256 * (u + 1))
    if lo < hi then some (off + lo * dsz, 0, slice p.payload (lo * ssz) ((hi - lo) * ssz)) else none)

/-- The fragments of a grain-coded packet: one for each block that it touches. -/
def grainParts (p : Packet) (off : Nat) : List (Nat × Nat × List Byte) :=
  let skip := off % 64
  let base := off / 2048 * 2048
  let n := p.payload.length
  if n = 0 then [] else
  (List.range ((skip + n - 1) / 34 + 1)).filterMap (fun j =>
    let lo := max skip (34 * j)
    let hi := min (skip + n) (34 * (j + 1))
    if lo < hi then some (base + 2048 * j, lo - 34 * j, slice p.payload (lo - skip) (hi - lo)) else none)

/-- The mortar front by which a packet enters (R295): the plinth die beneath the issuing core, or the quoin die whose link
brought it. Masons and host ports enter at plinth dies that the spec does not place (DESIGN CHOICE, log entry 85). -/
def State.frontOf (s : State) (p : Packet) (link : Option Nat) : Nat :=
  let u := p.srcUnit.toNat
  if !s.isSelf p.srcModule.toNat then 8 + link.getD 0 / 6
  else if u < 576 then coreDie u
  else if u < 580 then 2 * (u - 576)
  else u - 580

/-- Fragments in a front's queue for an adder (R298). -/
def State.frontQueue (s : State) (front adder : Nat) : Nat :=
  (s.mortar.frags.filter (fun f => f.waiting && decide (f.front = front ∧ f.adder = adder))).length

/-- Fragments in an adder's queue (R298). -/
def State.adderQueue (s : State) (adder : Nat) : Nat :=
  (s.mortar.frags.filter (fun f => !f.waiting && decide (f.adder = adder))).length

/-- A fragment is part of a grain block. -/
def State.isSplit (s : State) (f : Frag) : Bool := decide ((s.pack f.pkt).pkt.atype = 4) && decide (f.body.length < 34)

/-- What tells the block of a split fragment from others: issuing module, unit, tag and granule (R309). -/
def State.joinKey (s : State) (f : Frag) : BitVec 12 × BitVec 10 × BitVec 6 × Nat :=
  let p := (s.pack f.pkt).pkt
  (p.srcModule, p.srcUnit, p.tag, f.offset)

/-- The split blocks that hold join slots of an adder: those of the halves at it (R310). -/
def State.joinsAt (s : State) (adder : Nat) : List (BitVec 12 × BitVec 10 × BitVec 6 × Nat) :=
  let halves := s.mortar.joins ++ s.mortar.frags.filter (fun f => !f.waiting && s.isSplit f)
  ((halves.filter (fun f => f.adder = adder)).map s.joinKey).dedup

/-- An adder's queue has room for a fragment, and for a split one there is a join slot (R298, R310). -/
def State.adderRoom (s : State) (f : Frag) : Bool :=
  decide (s.adderQueue f.adder < 2048) &&
  (!s.isSplit f || (s.joinsAt f.adder).contains (s.joinKey f) || decide ((s.joinsAt f.adder).length < 256))

/-- A fragment goes from its front's queue to its adder. -/
def State.passFrag (s : State) (f : Frag) : State :=
  { s with mortar := { s.mortar with
    frags := s.mortar.frags.erase f ++ [{ f with waiting := false, arrival := s.plc }] } }

/-- Fragments move from the fronts' queues to an adder's queue while there is room, the oldest first; the others pass a
split fragment that a front holds for want of a join slot (R298, R310). (DEDUCED, log entry 121) -/
def State.refill (s : State) (adder : Nat) : State :=
  (s.mortar.frags.filter (fun f => f.waiting && decide (f.adder = adder))).foldl (fun s f =>
    if s.adderRoom f then s.passFrag f else s) s

/-- A fragment enters its front: it goes on to its adder, or waits behind others and for room (R298, R310). -/
def State.enterFrag (s : State) (f : Frag) : State :=
  let wait := decide (0 < s.frontQueue f.front f.adder) || !s.adderRoom f
  { s with mortar := { s.mortar with frags := s.mortar.frags ++ [{ f with waiting := wait, arrival := s.plc }] } }

/-- The parts of an ACC packet that reach memory: one in a retired pseudo-channel or out of capacity does not. -/
def State.liveParts (s : State) (p : Packet) : List (Nat × Nat × List Byte) :=
  let off := addrOff p.dst
  (if p.atype = 4 then grainParts p off else plainParts p off).filter (fun x => match s.fastPlace x.1 with
    | .mem _ => true
    | _ => false)

/-- The fragments of a packet at a front. -/
def State.fragsOf (s : State) (p : Packet) (front : Nat) : List Frag :=
  (s.liveParts p).map (fun x =>
    ({ adder := s.adderOf x.1, front := front, pkt := s.mortar.nextNum, offset := x.1, skip := x.2.1, body := x.2.2 } : Frag))

/-- A front accepts a packet while none of its queues is full and none would hold more than 256 fragments (R298);
otherwise the packet waits before it. -/
def State.frontReady (s : State) (p : Packet) (front : Nat) : Bool :=
  let fs := s.fragsOf p front
  (List.range 16).all (fun a =>
    let n := (fs.filter (fun f => f.adder = a)).length
    decide (s.frontQueue front a < 256) && decide (s.frontQueue front a + n ≤ 256))

/-- A mortar front takes an ACC packet (R295): parts out of capacity are discarded and counted once, parts in a retired
pseudo-channel are discarded. -/
def State.frontTake (s : State) (p : Packet) (front : Nat) : State :=
  let off := addrOff p.dst
  let parts := if p.atype = 4 then grainParts p off else plainParts p off
  let s := if parts.any (fun x => decide (s.fastPlace x.1 = .bad .outOfCapacity)) then s.violate .outOfCapacity else s
  let fs := s.fragsOf p front
  if fs.isEmpty then s.confirm p
  else
    let num := s.mortar.nextNum
    let k : AccPkt := { num := num, pkt := p, left := fs.length }
    fs.foldl State.enterFrag { s with mortar := { s.mortar with nextNum := num + 1, packs := s.mortar.packs ++ [k] } }

/-- One more fragment of a packet is added; with the last, the front confirms the packet (R295). -/
def State.fragDone (s : State) (num : Nat) : State :=
  let k := s.pack num
  if k.left ≤ 1 then
    State.confirm { s with mortar := { s.mortar with packs := s.mortar.packs.filter (fun p => p.num != num) } } k.pkt
  else s.modPack num (fun p => { p with left := p.left - 1 })

/-- Add a fragment of whole elements. -/
def State.addElems (s : State) (f : Frag) : State :=
  let p := (s.pack f.pkt).pkt
  let dsz := accDstSize p.atype
  (List.range (f.body.length / accSrcSize p.sfmt)).foldl (fun s i =>
    if p.atype = 3 then s.addBushel f.pkt p.e (f.offset + i * dsz) (accValue p.sfmt f.body i)
    else s.addPlain f.pkt p.atype (f.offset + i * dsz) (srcCode p.sfmt f.body i)) s

/-- Decode a whole grain block and add its 256 elements (R136). -/
def State.addBlock (s : State) (num off : Nat) (block : List Byte) : State :=
  let p := (s.pack num).pkt
  let scale := leNat (slice block 32 2)
  (List.range 256).foldl (fun s k =>
    let neg := bitOf ((block.getD (k / 8) 0).toNat) (k % 8)
    s.addBushel num p.e (off + 8 * k) (grainElem scale neg k)) s

/-- Two fragments are the halves of one split block: same adder, issuing module, unit, tag and granule (R309). -/
def State.joins (s : State) (a b : Frag) : Bool :=
  decide (a.adder = b.adder) && decide (s.joinKey a = s.joinKey b)

/-- A fragment that its adder can take: a first half needs one of its 256 join slots (R310). -/
def State.canAdd (s : State) (f : Frag) : Bool :=
  !s.isSplit f || s.mortar.joins.any (fun g => s.joins g f) ||
  decide ((s.mortar.joins.filter (fun g => g.adder = f.adder)).length < 256)

/-- The fragment of an adder's queue that comes first (R296): the earliest, and of two of the same plc the one of the
lower issuing module and then unit. Chain time tells 10 ns apart (DESIGN CHOICE, log entry 100). -/
def State.before (s : State) (a b : Frag) : Bool :=
  let key (f : Frag) : Nat :=
    let p := (s.pack f.pkt).pkt
    (f.arrival * 2 ^ 12 + p.srcModule.toNat) * 2 ^ 10 + p.srcUnit.toNat
  decide (key b < key a)

/-- The fragment that an adder takes next (R296): a first half of a split block without a join slot is held (R310). -/
def State.nextFrag (s : State) (adder : Nat) : Option Frag :=
  (s.mortar.frags.filter (fun f => !f.waiting && decide (f.adder = adder) && s.canAdd f)).foldl (fun best f =>
    match best with
    | none => some f
    | some b => if s.before b f then some f else best) none

/-- The fast-tier traffic of a fragment's elements (R297): its destination atoms read and written, as bulk. -/
def State.adderTraffic (s : State) (f : Frag) : State :=
  let n := if (s.pack f.pkt).pkt.atype = 4 then 2048 else 256 - f.offset % 256
  (s.bulkRead f.offset n).bulkWrite f.offset n

/-- An adder applies a fragment (R294, R309): the halves of a split block wait for one another. -/
def State.addFrag (s : State) (f : Frag) : State :=
  if !s.isSplit f then
    let s := s.adderTraffic f
    (if (s.pack f.pkt).pkt.atype = 4 then s.addBlock f.pkt f.offset f.body else s.addElems f).fragDone f.pkt
  else match s.mortar.joins.find? (fun g => s.joins g f) with
    | none => { s with mortar := { s.mortar with joins := s.mortar.joins ++ [f] } }
    | some g =>
      let block := if g.skip ≤ f.skip then g.body ++ f.body else f.body ++ g.body
      let s := State.adderTraffic { s with mortar := { s.mortar with joins := s.mortar.joins.erase g } } f
      ((s.addBlock f.pkt f.offset block).fragDone g.pkt).fragDone f.pkt

/-- FRAGMENT_ADD (R296, R298, R302, R309): the adder takes its next fragment, and its queue refills; while the block is
being read it waits. -/
def execFragmentAdd (adder : Fin 16) (s : State) : Host.Outcome State Fault Refusal :=
  .next (
    if s.mortar.loading then s else
    match s.nextFrag adder with
    | none => s.refill adder
    | some f =>
      let s := { s with mortar := { s.mortar with frags := s.mortar.frags.erase f } }
      (s.addFrag f).refill adder)

/-- The other half of a split fragment has not come to its adder. -/
def State.alone (s : State) (f : Frag) : Bool :=
  !(s.mortar.joins ++ s.mortar.frags.filter (fun g => !g.waiting && s.isSplit g)).any (fun g =>
    g.pkt != f.pkt && s.joins g f)

/-- A module that takes a rewind discards the joins whose second fragment has not come: neither packet of one is
confirmed (R310). -/
def State.dropJoins (s : State) : State :=
  { s with mortar := { s.mortar with
    joins := s.mortar.joins.filter (fun f => !s.alone f)
    frags := s.mortar.frags.filter (fun f => f.waiting || !s.isSplit f || !s.alone f) } }

/-! ## ACC packets (R293, R295) -/

/-- An `acc` of atype 0x0–0x2 into a scratchpad or a cluster memory: its engine or controller adds every element; one
in the unit of a bound keystone object is discarded and counted (R223, R293). -/
def State.accLocal (s : State) (p : Packet) : State :=
  let ssz := accSrcSize p.sfmt
  let dsz := accDstSize p.atype
  let n := p.payload.length / ssz
  let s := s.countBad p.dst (n * dsz) true
  let s := if s.hitsBound p.dst (n * dsz) then s.violate .keystoneWrite else s
  (List.range n).foldl (fun s i => match s.place (p.dst + BitVec.ofNat 64 (i * dsz)) true with
    | .mem k => if s.boundAt k then s
      else s.store k (leBytes dsz (accPlain p.atype (leNat (s.mem.read k dsz)) (srcCode p.sfmt p.payload i)))
    | _ => s) s

/-- A mortar front takes part in a packet: one for the direct fast tier, with a payload of a defined kind. -/
def toFront (p : Packet) : Bool :=
  !p.payload.isEmpty && decide (p.atype.toNat < 5) && decide (addrSpace p.dst = 0) && decide (addrOff p.dst < 2 ^ 46)

/-- ACC_PACKET (R293, R295, R205): the fast tier's packets enter a mortar front that has room; a scratchpad's or a
cluster memory's are added at once; a packet that no engine sends (a reserved type, or a bushel outside the fast tier)
is discarded and counted as undefined. -/
def execAccPacket (p : Packet) (s : State) : Host.Outcome State Fault Refusal :=
  let link := s.linkOf p
  let front := s.frontOf p link
  .next (if toFront p && !s.frontReady p front then s else s.takePacket p 1 (fun s =>
    let s := s.noteLanding p link
    let o := addrOff p.dst
    if p.payload.isEmpty then s.confirm p
    else if 5 ≤ p.atype.toNat ∨ (3 ≤ p.atype.toNat ∧ addrSpace p.dst ≠ 0) then (s.violate .undefined).confirm p
    else if addrSpace p.dst = 0 then
      if 2 ^ 47 ≤ o then (s.violate .reservedSpace).confirm p
      else if 2 ^ 46 ≤ o then (s.violate .windowWrite).confirm p
      else s.frontTake p front
    else if addrSpace p.dst = 8 then (s.violate .undefined).confirm p
    else (s.accLocal p).confirm p))

end Sys2Proof.Machine
end

