-- ==== Sys2Proof/Machine/Sync.lean ====
section
/-! DEFINITION. Waits on tallies (R108, R217–R219), and keystones (R109, R221–R227, R231, R232). -/

namespace Sys2Proof.Machine

/-! ## Strands that wait -/

/-- Two module fields name one module. -/
def State.sameModule (s : State) (a b : Word) : Bool :=
  decide (addrModule a = addrModule b) || (s.isSelf (addrModule a) && s.isSelf (addrModule b))

/-- Two addresses name one tally. -/
def State.sameTally (s : State) (a b : Word) : Bool :=
  s.sameModule a b && decide (a.toNat % 2 ^ 52 / 8 = b.toNat % 2 ^ 52 / 8)

/-- Two addresses name one keystone object: a 256-byte unit. -/
def State.sameObj (s : State) (a b : Word) : Bool :=
  s.sameModule a b && decide (a.toNat % 2 ^ 52 / 256 = b.toNat % 2 ^ 52 / 256)

/-- Status of a wait as the strand reads it (R108), from a packet's status. -/
def waitCode (st : BitVec 3) : Word := if st = stBroken then 1 else if st = stAbsent then 2 else 0

/-- Block a strand. -/
def State.block (s : State) (c t : Nat) (w : Wait) : State := s.modStrand c t (fun x => { x with wait := w })

/-- An operation of a core that ends with PEER_ABSENT is counted (R245). -/
def State.absentIf (s : State) (c : Nat) (st : BitVec 3) : State := if st = stAbsent then s.countAbsent c else s

/-- A `twait` or `kwait` returns: its status goes to sd and to rstat, and the strand is ready (R105, R108). -/
def State.unblock (s : State) (c t : Nat) (sd : BitVec 5) (st : BitVec 3) : State :=
  (((s.block c t .none).setSreg c t sd (waitCode st)).noteStatus c t st).absentIf c st

/-- A `karr` returns with a round (R109, R224). -/
def State.karrDone (s : State) (c t : Nat) (sd : BitVec 5) (round : Word) (st : BitVec 3) : State :=
  (((s.block c t .none).setSreg c t sd round).noteStatus c t st).absentIf c st

/-- The memory key of a tally in the core's own scratchpad, which its engine watches (R217). -/
def State.ownTally (s : State) (c : Nat) (a : Word) : Option Nat :=
  if s.isSelf (addrModule a) && decide (addrSpace a = 2) && decide (addrOff a / 2 ^ 21 = c) then
    some (2 * 2 ^ 48 + addrOff a / 8 * 8)
  else none

/-- A watched tally lets its strand go: the status with which it does. -/
def State.tallyAnswer (s : State) (key : Nat) (value : Word) : Option (BitVec 3) :=
  if s.broken key then some stBroken else if value ≤ s.mem.word key then some stOk else none

/-- Register a strand's wait with a tally's home (R217). Each registration has a tag of its own, so that the WAKE of one
that was withdrawn is told apart (R234; DESIGN CHOICE, log entry 104). -/
def State.register (s : State) (c t : Nat) (a v : Word) : State :=
  let g := SMap.get 0 s.net.waitGen (4 * c + t) + 1
  let s := { s with net := { s.net with waitGen := SMap.set s.net.waitGen (4 * c + t) g } }
  s.post { s.coreHdr c (t + 4 * g.toNat) with op := 6, dst := a, aux := v }

/-- TWAIT (R108, R205, R217). One on a tally in the core's own scratchpad waits even while all 64 records of its engine are
in use (R218; DESIGN CHOICE, log entry 120). -/
def execTwait (c : CoreId) (t : StrandId) (w : MWord) (s : State) : Host.Outcome State Fault Refusal :=
  .next (s.issue c t (!s.storePending c t) (fun s =>
    let a := s.sreg c t w.sb
    let v := s.sreg c t w.sc
    if w.mc || !tallySpace a then s.retire c t 8 true
    else
      let s := s.retire c t 8 (mUnused w { sb := true, sc := true, sd := true })
      match s.ownTally c a with
      | some key => match s.tallyAnswer key v with
        | some st => s.unblock c t w.sd st
        | none => s.block c t (.twait a v w.sd)
      | none => (s.block c t (.twait a v w.sd)).register c t a v))

/-- STRAND_WAKE (R217): the engine of the core sees that a tally in its own scratchpad has reached a strand's value; the waits
of a parked core are withdrawn (R234). -/
def execStrandWake (c : CoreId) (t : StrandId) (s : State) : Host.Outcome State Fault Refusal :=
  .next (if (s.core c).run.state = .parked then s else match (s.strand c t).wait with
    | .twait a v sd => match s.ownTally c a with
      | some key => match s.tallyAnswer key v with
        | some st => s.unblock c t sd st
        | none => s
      | none => s
    | _ => s)

/-- Wait records that a home has in use, a core's own waits included (R218), unless parking has withdrawn them (R234). -/
def State.recordsUsed (s : State) (h : Home) : Nat :=
  (s.net.waits.filter (fun r => decide (s.homeOf r.key = h))).length +
  match h with
  | .core c => if (s.core c).run.state = .parked then 0 else ((List.range 4).filter (fun t => match (s.strand c t).wait with
    | .twait a _ _ => (s.ownTally c a).isSome
    | _ => false)).length
  | _ => 0

/-- A home whose records are all in use answers FULL, which the lifetime log and CLU_WAIT_USE count (R218, R244). -/
def State.countFull (s : State) (h : Home) : State :=
  let s := s.logWait 0
  match h with
  | .cluster k => s.modCluster k (fun x => { x with full := satAdd x.full 1 })
  | _ => s

/-- Keep a wait record; CLU_WAIT_USE keeps the peak (R244). -/
def State.addRecord (s : State) (h : Home) (r : WaitRec) : State :=
  let s := { s with net := { s.net with waits := s.net.waits ++ [r] } }
  match h with
  | .cluster k => s.modCluster k (fun x => { x with peak := BitVec.ofNat 9 (max x.peak.toNat (s.cluWaits k)) })
  | _ => s

/-- WAIT_REG (R217, R218, R231): the home answers at once or keeps a record. -/
def execWaitReg (p : Packet) (s : State) : Host.Outcome State Fault Refusal :=
  .next (s.takePacket p 6 (fun s =>
    let a := align8 p.dst
    match s.place a true with
    | .mem key => match s.tallyAnswer key p.aux with
      | some st => s.post (answer p 7 st)
      | none =>
        let h := s.homeOf key
        if h.records ≤ s.recordsUsed h then (s.countFull h).post (answer p 7 stFull)
        else s.addRecord h { key := key, value := p.aux, module := p.srcModule, unit := p.srcUnit, tag := p.tag }
    | .bad v => if p.aux = 0 then (s.violate v).post (answer p 7 stOk) else s.violate v
    | _ => if p.aux = 0 then s.post (answer p 7 stOk) else s))

/-- A notifier fires (R413): its value returns to zero and its vector is raised. -/
def State.notifyFire (s : State) (p v : Nat) : State :=
  (s.modPort p (fun q => { q with
    notify := SMap.modify {} q.notify v (fun n => { n with value := 0, reg := none }) })).msix p v

/-- Keep a WAIT_REG that was answered FULL, to be sent again (R218). -/
def State.resendLater (s : State) (unit : BitVec 10) (tag : BitVec 6) (a v : Word) : State :=
  { s with net := { s.net with resend := s.net.resend ++
      [{ op := 6, dst := a, aux := v, srcModule := s.self, srcUnit := unit, tag := tag }] } }

/-- A WAKE reaches a strand (R217): one that waits for another tally or in another registration, or that is parked
(R234), takes no notice. A reply to a `karr` on another module's keystone, which only PEER_ABSENT or that module's home
sends, comes in the same form (log entry 14). -/
def State.wakeStrand (s : State) (c t : Nat) (p : Packet) : State :=
  if (s.core c).run.state = .parked then s else
  match (s.strand c t).wait with
  | .twait a v sd =>
    if !s.sameTally a p.dst || decide (p.tag.toNat / 4 ≠ (SMap.get 0 s.net.waitGen (4 * c + t)).toNat) then s
    else if p.status = stFull then s.resendLater p.srcUnit p.tag a v
    else s.unblock c t sd p.status
  | .karr a sd =>
    if !s.sameObj a p.dst then s
    else if p.status = stAbsent then (s.karrDone c t sd s.freeVal p.status).useFree
    else s.karrDone c t sd p.aux p.status
  | _ => s

/-- A WAKE reaches the notifier whose registration it answers (R413). -/
def State.wakeNotifier (s : State) (p : Nat) (k : Packet) : State :=
  match List.find? (fun n => decide (n.2.reg = some k.tag)) (s.port p).notify with
  | none => s
  | some (v, n) =>
    if n.value = 0 || !s.sameTally n.addr k.dst then s
    else if k.status = stFull then s.resendLater k.srcUnit k.tag n.addr n.value
    else s.notifyFire p v

/-- WAKE (R217, R218). (DEDUCED, log entry 26) -/
def execWake (p : Packet) (s : State) : Host.Outcome State Fault Refusal :=
  .next (s.takePacket p 7 (fun s =>
    let u := p.srcUnit.toNat
    if u < 576 then s.wakeStrand u (p.tag.toNat % 4) p
    else if u = 580 ∨ u = 581 then s.wakeNotifier (u - 580) p
    else s))

/-- WAIT_REG_RESEND (R218): 512 cc after a FULL answer the WAIT_REG is sent again. -/
def execWaitRegResend (pos : Nat) (s : State) : Host.Outcome State Fault Refusal :=
  .next (match s.net.resend[pos]? with
    | none => s
    | some p => State.post { s with net := { s.net with resend := s.net.resend.eraseIdx pos } } p)

/-! ## Keystone objects (R221, R222) -/

/-- A 576-bit mask of nine words. -/
def State.mask576 (s : State) (key : Nat) : BitVec 576 := BitVec.ofNat 576 (leNat (s.mem.read key 72))

/-- The object at a key, as a slot loads it. -/
def State.loadSlot (s : State) (key : Nat) : KSlot :=
  let w := s.mem.word key
  { obj := BitVec.ofNat 64 key, scope := w.extractLsb' 58 2, broken := w.getLsbD 57, round := s.mem.word (key + 8),
    chainMask := s.mem.word (key + 16), parts := s.mask576 (key + 32), cur := s.mask576 (key + 104),
    nxt := s.mask576 (key + 176) }

/-- Why an object is not taken (R221, R227). -/
def State.objectFault (s : State) (key : Nat) : Option Viol :=
  let w := s.mem.word key
  let m := s.mem.word (key + 16)
  if w.extractLsb' 60 4 ≠ 1 ∨ 2 ≤ (w.extractLsb' 58 2).toNat then some .generation
  else if w.extractLsb' 58 2 = 1 ∧ (!s.isSelf (addrModule m) ∨ addrSpace m ≠ 0) then some .reservedSpace
  else none

/-- Write a slot's state back to its object (R222). -/
def State.writeBack (s : State) (x : KSlot) : State :=
  let key := x.obj.toNat
  let w := s.mem.word key
  let w' : Word := if x.broken then w ||| (1#64 <<< 57) else w &&& ~~~(1#64 <<< 57)
  State.checkWaits { s with mem :=
    ((((s.mem.write key (wordBytes w')).write (key + 8) (wordBytes x.round)).write (key + 104) (leBytes 72 x.cur.toNat)).write
      (key + 176) (leBytes 72 x.nxt.toNat)) }

/-- Set a keystone slot. -/
def State.setKSlot (s : State) (cl i : Nat) (x : KSlot) : State :=
  s.modCluster cl (fun k => { k with slots := SMap.set k.slots i x })

/-- Free a keystone slot. -/
def State.freeKSlot (s : State) (cl i : Nat) : State :=
  s.modCluster cl (fun k => { k with slots := SMap.erase k.slots i })

/-- The slot that serves an object. -/
def State.slotServing (s : State) (cl key : Nat) : Option (Nat × KSlot) :=
  List.find? (fun p => decide (p.2.obj.toNat = key)) (s.cluster cl).slots

/-! ## Replies -/

/-- Who sent a K_ARRIVE or K_WAIT. -/
def memberOf (p : Packet) : KMember := { module := p.srcModule, unit := p.srcUnit, tag := p.tag, round := p.aux }

/-- The reply to a `karr` (R224): to a core of this module in the form of KARR_REPLY, to another module as a WAKE that
carries the round (log entry 14). -/
def State.replyKarr (s : State) (key : Nat) (m : KMember) (round : Word) (st : BitVec 3) : State :=
  if s.isSelf m.module.toNat && decide (m.unit.toNat < 576) then
    { s with net := { s.net with replies := s.net.replies ++
        [{ core := m.unit.toNat, strand := m.tag.toNat, round := round, status := st }] } }
  else s.post { op := 7, status := st, dst := s.addrOf key, srcModule := m.module, srcUnit := m.unit, tag := m.tag,
                aux := round }

/-- A K_RELEASE to one engine (R225). -/
def State.sendRelease (s : State) (key : Nat) (m : KMember) (round : Word) (st : BitVec 3) : State :=
  s.post { op := 10, status := st, dst := s.addrOf key, srcModule := m.module, srcUnit := m.unit, tag := m.tag,
           aux := round }

/-- The answer BROKEN to an arrival or a wait (R231): a `karr` gets the round of the last write-back. -/
def State.answerBroken (s : State) (key : Nat) (p : Packet) : State :=
  if p.op = 8 then s.replyKarr key (memberOf p) (s.mem.word (key + 8)) stBroken
  else s.sendRelease key (memberOf p) (s.mem.word (key + 8)) stBroken

/-! ## Rounds (R224–R227) -/

/-- The modules of a module mask (R227). -/
def State.maskModules (s : State) (a : Word) : List Nat := setBits 4095 (leNat (s.readAt a 512))

/-- The bit of a core in a mask. -/
def coreBit (c : Nat) : BitVec 576 := 1 <<< c

/-- A core is set in a mask. -/
def hasCore (v : BitVec 576) (c : Nat) : Bool := v.getLsbD c

/-- Admit an entry of a participant (R224). -/
def State.letIn (s : State) (x : KSlot) (m : KMember) : State × KSlot :=
  let c := m.unit.toNat
  let key := x.obj.toNat
  if !hasCore x.cur c then (s.replyKarr key m x.round stOk, { x with cur := x.cur ||| coreBit c })
  else if !hasCore x.nxt c then (s.replyKarr key m (x.round + 1) stOk, { x with nxt := x.nxt ||| coreBit c })
  else (s, { x with held := x.held ++ [m] })

/-- The engines that a close releases: the participants' and those with a `kwait` on the round or an earlier one. -/
def State.releaseTo (s : State) (x : KSlot) : List KMember :=
  let ps : List KMember := (setBits 576 x.parts.toNat).map (fun c => { module := s.self, unit := BitVec.ofNat 10 c })
  let ws := x.waiters.filter (fun m => decide (m.round ≤ x.round))
  ps ++ ws.filter (fun m => !(s.isSelf m.module.toNat && hasCore x.parts m.unit.toNat))

/-- Close the open round (R225), write the object back, and free the slot where nothing holds it (R222). -/
def State.kClose (s : State) (cl i : Nat) (x : KSlot) : State :=
  let key := x.obj.toNat
  let s := (s.releaseTo x).foldl (fun s m => s.sendRelease key m x.round stOk) s
  let rest := x.waiters.filter (fun m => !decide (m.round ≤ x.round))
  let y := { x with round := x.round + 1, cur := x.nxt, nxt := 0, held := [], waiters := rest, chainPending := false }
  let r := x.held.foldl (fun (a : State × KSlot) m => a.1.letIn a.2 m) (s, y)
  let s := r.1.writeBack r.2
  if x.nxt = 0 && rest.isEmpty && x.held.isEmpty then s.freeKSlot cl i else s.setKSlot cl i r.2

/-- A keystone whose participants have all arrived closes its round, or asks the chain home (R225, R227). -/
def State.kCheck (s : State) (cl i : Nat) (x : KSlot) : State :=
  if x.parts = 0 ∨ x.cur &&& x.parts ≠ x.parts ∨ x.broken ∨ x.chainPending then s.setKSlot cl i x
  else if x.scope = 0 then s.kClose cl i x
  else
    let s := (s.setKSlot cl i { x with chainPending := true }).engineRead x.chainMask 512
    match (s.maskModules x.chainMask).head? with
    | none => s
    | some home => s.post { op := 11, dst := withModule (s.addrOf x.obj.toNat) home, aux := x.round,
                            srcModule := s.self, srcUnit := BitVec.ofNat 10 landingUnit }

/-- An arrival or a wait at its bound slot (R224, R226, R232). -/
def State.kAct (s : State) (cl i : Nat) (x : KSlot) (p : Packet) : State :=
  let key := x.obj.toNat
  let m := memberOf p
  if x.broken then s.answerBroken key p
  else if p.op = 8 then
    if s.isSelf m.module.toNat && decide (m.unit.toNat < 576) && hasCore x.parts m.unit.toNat then
      let r := s.letIn x m
      r.1.kCheck cl i r.2
    else (s.violate .keystoneNonmember).replyKarr key m x.round stOk
  else if m.round < x.round then s.sendRelease key m (x.round - 1) stOk
  else s.setKSlot cl i { x with waiters := x.waiters ++ [m] }

/-- Serve an arrival or a wait: bind a slot where none serves its object; `count` says whether a stall is counted. -/
def State.kServe (s : State) (cl key : Nat) (p : Packet) (count : Bool) : State :=
  if s.broken key then s.answerBroken key p
  else match s.slotServing cl key with
    | some (i, x) => s.kAct cl i x p
    | none => match s.objectFault key with
      | some v => (s.violate v).answerBroken key p
      | none =>
        let x := s.loadSlot key
        if x.broken then s.answerBroken key p
        else match lowestFree (s.cluster cl).slots 16 with
          | some i => (s.setKSlot cl i x).kAct cl i x p
          | none =>
            let s := s.modCluster cl (fun k => { k with
              stalled := k.stalled ++ [p], stalls := if count then satAdd k.stalls 1 else k.stalls })
            if count then s.logWait 3 else s

/-- A packet for a keystone home: the object's key, or the classes of R162 with the answer BROKEN (an address that
holds no object reads as zero, which is no object). -/
def State.atHome (s : State) (p : Packet) : State :=
  match s.place p.dst true with
  | .mem k =>
    let key := k / 256 * 256
    if k / 2 ^ 48 = 1 ∨ k / 2 ^ 48 = 2 then s.kServe (servingCluster key) key p true
    else (s.violate .generation).answerBroken key p
  | .bad v =>
    let s := s.violateAll [v, .generation]
    if p.op = 8 then s.replyKarr (p.dst.toNat % 2 ^ 52) (memberOf p) 0 stBroken
    else s.sendRelease (p.dst.toNat % 2 ^ 52) (memberOf p) 0 stBroken
  | _ => s.violate .generation

/-- K_ARRIVE (R224). -/
def execKArrive (p : Packet) (s : State) : Host.Outcome State Fault Refusal :=
  .next (s.takePacket p 8 (fun s => s.atHome p))

/-- K_WAIT (R226). -/
def execKWait (p : Packet) (s : State) : Host.Outcome State Fault Refusal :=
  .next (s.takePacket p 9 (fun s => s.atHome p))

/-- KS_CASCADE_CLOSE (R225): a new current round that is already full closes in the next plc. -/
def execKsCascadeClose (cl : ClusterId) (slot : Fin 16) (s : State) : Host.Outcome State Fault Refusal :=
  .next (match SMap.find? (s.cluster cl).slots slot with
    | none => s
    | some x => s.kCheck cl slot x)

/-- KS_SLOT_BIND (R222): a free slot serves the oldest arrival or wait that stalled; one whose object a slot serves
meanwhile goes to that slot. -/
def execKsSlotBind (cl : ClusterId) (s : State) : Host.Outcome State Fault Refusal :=
  .next (
    let free := (lowestFree (s.cluster cl).slots 16).isSome
    let keyOf (p : Packet) : Nat := p.dst.toNat % 2 ^ 52 / 256 * 256
    match (s.cluster cl).stalled.find? (fun p => free || (s.slotServing cl (keyOf p)).isSome) with
    | none => s
    | some p => (s.modCluster cl (fun k => { k with stalled := k.stalled.erase p })).kServe cl (keyOf p) p false)

/-- A keystone is set broken (R230–R232): every waiter and held arrival gets BROKEN, and the object is written back. -/
def State.kBreak (s : State) (cl i : Nat) (x : KSlot) : State :=
  let key := x.obj.toNat
  let last := s.mem.word (key + 8)
  let s := x.held.foldl (fun s m => s.replyKarr key m last stBroken) s
  let s := x.waiters.foldl (fun s m => s.sendRelease key m last stBroken) s
  let y := { x with broken := true, chainPending := false, held := [], waiters := [] }
  (s.setKSlot cl i y).writeBack y

/-- The address of an object's module mask, from its slot or from memory. -/
def State.maskAddr (s : State) (cl key : Nat) : Word :=
  match s.slotServing cl key with
  | some (_, x) => x.chainMask
  | none => s.mem.word (key + 16)

/-- The local home closes a round that the chain home released (R227). -/
def State.chainClose (s : State) (cl key : Nat) (round : Word) : State :=
  match s.slotServing cl key with
  | some (i, x) => if x.chainPending && decide (x.round = round) then s.kClose cl i x else s
  | none => s

/-- A chain keystone is broken at this module's home (R230): in the slot that serves it, or in its object. -/
def State.chainBreak (s : State) (cl key : Nat) : State :=
  match s.slotServing cl key with
  | some (i, x) => s.kBreak cl i x
  | none =>
    if (s.objectFault key).isNone && decide ((s.mem.word key).extractLsb' 58 2 = 1) then
      s.store key (wordBytes (s.mem.word key ||| (1#64 <<< 57)))
    else s

/-- Send a K_CHAIN to the other modules of a mask. -/
def State.tellModules (s : State) (key : Nat) (ms : List Nat) (round : Word) (st : BitVec 3) : State :=
  (ms.filter (fun m => !s.isSelf m)).foldl (fun s m =>
    s.post { op := 11, status := st, dst := withModule (s.addrOf key) m, aux := round, srcModule := s.self,
             srcUnit := BitVec.ofNat 10 landingUnit }) s

/-- The object of a chain keystone at this module's home is broken. -/
def State.chainBroken (s : State) (cl key : Nat) : Bool :=
  match s.slotServing cl key with
  | some (_, x) => x.broken
  | none => (s.mem.word key).getLsbD 57

/-- The chain home has K_CHAIN for a round from a module (R227): once from every module of the mask, the round closes
everywhere; with its own object broken, or a module of the mask absent, the keystone is broken everywhere (R230). -/
def State.chainArrive (s : State) (cl key : Nat) (ms : List Nat) (p : Packet) : State :=
  let r := p.aux.toNat
  let from_ := if s.isSelf p.srcModule.toNat then s.chain.addr.toNat else p.srcModule.toNat
  let rounds := if s.net.chainRounds.contains (key, r, from_) then s.net.chainRounds
    else s.net.chainRounds ++ [(key, r, from_)]
  let s := { s with net := { s.net with chainRounds := rounds } }
  if s.chainBroken cl key || ms.any (fun m => !s.isSelf m && s.absent m) then
    (s.tellModules key ms p.aux stBroken).chainBreak cl key
  else if ms.all (fun m => s.net.chainRounds.contains (key, r, m)) then
    let s := { s with net := { s.net with
      chainRounds := s.net.chainRounds.filter (fun x => !(x.1 == key && x.2.1 == r)) } }
    (s.tellModules key ms p.aux stOk).chainClose cl key p.aux
  else s

/-- K_CHAIN with a status (R230): the keystone is broken here, and the chain home tells the other homes once. -/
def State.chainEnds (s : State) (cl key : Nat) (p : Packet) : State :=
  if s.chainBroken cl key then s else
  let ms := s.maskModules (s.maskAddr cl key)
  let s := if ms.head?.any s.isSelf then s.tellModules key ms p.aux stBroken else s
  s.chainBreak cl key

/-- K_CHAIN (R227, R230). -/
def execKChain (p : Packet) (s : State) : Host.Outcome State Fault Refusal :=
  .next (s.takePacket p 11 (fun s =>
    let key := p.dst.toNat % 2 ^ 52 / 256 * 256
    let cl := servingCluster key
    if p.status ≠ 0 then s.chainEnds cl key p
    else
      let a := s.maskAddr cl key
      let ms := s.maskModules a
      let s := s.engineRead a 512
      match ms.head? with
      | some home => if s.isSelf home then s.chainArrive cl key ms p else s.chainClose cl key p.aux
      | none => s))

/-! ## The arriving and waiting core (R109, R226) -/

/-- KARR (R109, R205). -/
def execKarr (c : CoreId) (t : StrandId) (w : MWord) (s : State) : Host.Outcome State Fault Refusal :=
  .next (s.issue c t (!s.storePending c t) (fun s =>
    let a := s.sreg c t w.sb
    if w.mc || !keySpace a then s.retire c t 8 true
    else
      let s := s.retire c t 8 (mUnused w { sb := true, sd := true })
      (s.block c t (.karr a w.sd)).post { s.coreHdr c t with op := 8, dst := a }))

/-- KARR_REPLY (R224): the admitted round goes to sd, and the strand may issue past `karr`; a reply to a parked core
waits until its context is restored (R446). -/
def execKarrReply (r : KReply) (s : State) : Host.Outcome State Fault Refusal :=
  .next (
    if r.core < 576 ∧ (s.core r.core).run.state = .parked then s else
    let s := { s with net := { s.net with replies := s.net.replies.erase r } }
    if 576 ≤ r.core ∨ 4 ≤ r.strand then s else
    match (s.strand r.core r.strand).wait with
    | .karr _ sd => s.karrDone r.core r.strand sd r.round r.status
    | _ => s)

/-- The engine's record of an object's last K_RELEASE shows round `x` closed (R226). -/
def State.roundSeen (s : State) (c : Nat) (a x : Word) : Bool :=
  (s.core c).eng.krel.any (fun r => s.sameObj r.obj a && decide (x ≤ r.round))

/-- KWAIT (R226). -/
def execKwait (c : CoreId) (t : StrandId) (w : MWord) (s : State) : Host.Outcome State Fault Refusal :=
  .next (s.issue c t (!s.storePending c t) (fun s =>
    let a := s.sreg c t w.sb
    let x := s.sreg c t w.sc
    if w.mc || !keySpace a then s.retire c t 8 true
    else
      let s := s.retire c t 8 (mUnused w { sb := true, sc := true, sd := true })
      if s.roundSeen c a x then s.unblock c t w.sd stOk
      else (s.block c t (.kwait a x w.sd)).post { s.coreHdr c t with op := 9, dst := a, aux := x }))

/-- The record of a K_RELEASE replaces the object's older one; 16 are kept (R226). -/
def State.noteRelease (s : State) (c : Nat) (p : Packet) : State :=
  s.modEng c (fun e => { e with krel :=
    ({ obj := p.dst, round := p.aux } :: e.krel.filter (fun r => !s.sameObj r.obj p.dst)).take 16 })

/-- Release a strand's `kwait` that a K_RELEASE answers. -/
def State.releaseStrand (s : State) (c : Nat) (p : Packet) (t : Nat) : State :=
  match (s.strand c t).wait with
  | .kwait a x sd =>
    if s.sameObj a p.dst && (decide (p.status ≠ 0) || decide (x ≤ p.aux)) then s.unblock c t sd p.status else s
  | _ => s

/-- K_RELEASE (R225, R226). -/
def execKRelease (p : Packet) (s : State) : Host.Outcome State Fault Refusal :=
  .next (s.takePacket p 10 (fun s =>
    let c := p.srcUnit.toNat
    if 576 ≤ c then s
    else
      let s := if p.status = 0 then s.noteRelease c p else s
      if (s.core c).run.state = .parked then s
      else (List.range 4).foldl (fun s t => s.releaseStrand c p t) s))

/-! ## Waits withdrawn (R114, R234) -/

/-- A wait's packet was sent by a strand of this module. -/
def State.ofStrand (s : State) (c t : Nat) (p : Packet) : Bool :=
  s.isSelf p.srcModule.toNat && decide (p.srcUnit.toNat = c) && decide (p.tag.toNat % 4 = t)

/-- A keystone entry is a strand's. -/
def State.memberIs (s : State) (c t : Nat) (m : KMember) : Bool :=
  s.isSelf m.module.toNat && decide (m.unit.toNat = c) && decide (m.tag.toNat % 4 = t)

/-- Withdraw what a strand that waits has registered (R234, R114): its wait records and held or waiting entries at the
homes of this module, and the registrations still on their way. R210 names no packet that withdraws one at another
module's home. (DEDUCED, log entry 26) -/
def State.withdraw (s : State) (c t : Nat) : State :=
  if (s.strand c t).wait = .none then s else
  let s := { s with net := { s.net with
    waits := s.net.waits.filter (fun r =>
      !(s.isSelf r.module.toNat && decide (r.unit.toNat = c) && decide (r.tag.toNat % 4 = t)))
    resend := s.net.resend.filter (fun p => !s.ofStrand c t p)
    flight := s.net.flight.filter (fun f =>
      !(decide (f.pkt.op = 6 ∨ f.pkt.op = 8 ∨ f.pkt.op = 9) && s.ofStrand c t f.pkt)) } }
  { s with clusters := s.clusters.map (fun k => (k.1, { k.2 with
      stalled := k.2.stalled.filter (fun p => !s.ofStrand c t p)
      slots := k.2.slots.map (fun x => (x.1, { x.2 with
        held := x.2.held.filter (fun m => !s.memberIs c t m)
        waiters := x.2.waiters.filter (fun m => !s.memberIs c t m) })) })) }

/-! ## Absence and broken homes (R230, R231) -/

/-- An address on an absent module. -/
def State.addrAbsent (s : State) (a : Word) : Bool := !s.isSelf (addrModule a) && s.absent (addrModule a)

/-- A strand that waits on an absent module gets PEER_ABSENT; one of a parked core does once its wait is issued again
(R234). -/
def State.endWait (s : State) (c t : Nat) : State :=
  if (s.core c).run.state = .parked then s else
  match (s.strand c t).wait with
  | .twait a _ sd => if s.addrAbsent a then s.unblock c t sd stAbsent else s
  | .kwait a _ sd => if s.addrAbsent a then s.unblock c t sd stAbsent else s
  | .karr a sd => if s.addrAbsent a then (s.karrDone c t sd s.freeVal stAbsent).useFree else s
  | .none => s

/-- Every strand and notifier that waits on an absent module returns (R230, R413); its registration goes with it. -/
def State.endWaits (s : State) : State :=
  let s := s.dropPackets (fun p =>
    decide (p.op = 6 ∨ p.op = 8 ∨ p.op = 9) && s.isSelf p.srcModule.toNat && s.addrAbsent p.dst)
  let s := (s.cores.flatMap (fun k => (List.range 4).map (fun t => (k.1, t)))).foldl (fun s x => s.endWait x.1 x.2) s
  (s.ports.flatMap (fun q => q.2.notify.map (fun n => (q.1, n.1)))).foldl (fun s x =>
    let n := SMap.get {} (s.port x.1).notify x.2
    if n.value ≠ 0 && s.addrAbsent n.addr then s.notifyFire x.1 x.2 else s) s

/-- A chain keystone of this module's home is broken for an absent member (R230): the chain home tells every other home, and
a home tells the chain home. -/
def State.breakChain (s : State) (cl key : Nat) : State :=
  if s.chainBroken cl key then s else
  let ms := s.maskModules (s.maskAddr cl key)
  let ends := match ms.head? with
    | some home => if s.isSelf home then ms else [home]
    | none => []
  (s.tellModules key ends (s.mem.word (key + 8)) stBroken).chainBreak cl key

/-- Every chain keystone whose module mask names an absent module is broken, in the slots of this module and where K_CHAIN
has come for its round (R230). -/
def State.endKeystones (s : State) : State :=
  let slots := s.clusters.flatMap (fun k => (k.2.slots.filter (fun p => p.2.scope = 1)).map (fun p => p.2.obj.toNat))
  ((slots ++ s.net.chainRounds.map (fun x => x.1)).dedup).foldl (fun s key =>
    let cl := servingCluster key
    if (s.maskModules (s.maskAddr cl key)).any (fun m => !s.isSelf m && s.absent m) then s.breakChain cl key else s) s

/-- What peers see once a module is absent (R230). -/
def State.sweepAbsent (s : State) : State := s.endBranches.endSignals.dropLandings.endWaits.endKeystones

/-- Every wait and keystone in the memories that a test names returns BROKEN (R231): records, local waits of strands,
stalled arrivals, bound slots. -/
def State.breakWaits (s : State) (hit : Nat → Bool) : State :=
  let gone := s.net.waits.filter (fun r => hit r.key)
  let s := { s with net := { s.net with waits := s.net.waits.filter (fun r => !hit r.key) } }
  let s := gone.foldl (fun s r => s.post (s.wakePacket r stBroken)) s
  let s := (s.cores.flatMap (fun k => (List.range 4).map (fun t => (k.1, t)))).foldl (fun s x =>
    match (s.strand x.1 x.2).wait with
    | .twait a _ sd => match s.ownTally x.1 a with
      | some key => if hit key then s.unblock x.1 x.2 sd stBroken else s
      | none => s
    | _ => s) s
  let s := (s.clusters.flatMap (fun k => k.2.stalled.map (fun p => (k.1, p)))).foldl (fun s x =>
    let key := x.2.dst.toNat % 2 ^ 52 / 256 * 256
    if hit key then
      (s.modCluster x.1 (fun k => { k with stalled := k.stalled.erase x.2 })).answerBroken key x.2
    else s) s
  (s.clusters.flatMap (fun k => k.2.slots.map (fun p => (k.1, p)))).foldl (fun s x =>
    if hit x.2.2.obj.toNat then (s.kBreak x.1 x.2.1 x.2.2).freeKSlot x.1 x.2.1 else s) s

end Sys2Proof.Machine
end

