-- ==== Sys2Proof/Machine/Link.lean ====
section
/-! DEFINITION. Evrok links (R247–R268, R282–R288, R474, R475): flits, replay, training, lanes, bonds and routing; and
the control frames that a link change sends (R265, R270). -/

namespace Sys2Proof.Machine

/-! ## Control frames (R270) -/

/-- The CRC-8 over bytes 0–5 of a frame (R270). -/
def frameCrc (f : Frame) : Byte :=
  crc8 ([BitVec.ofNat 8 (f.ty.toNat * 16 + f.gen.toNat), f.seq] ++ leBytes 4 f.body.toNat)

/-- Send a frame upstream; the sender keeps it until the ACK comes, HERE apart (R270). -/
def State.sendUp (s : State) (ty : BitVec 4) (body : W32) : State :=
  let f : Frame := { ty := ty, seq := s.chain.seqTx, body := body }
  let una := if ty = 0xE then s.chain.unacked else s.chain.unacked ++ [(f, 1)]
  let s := { s with chain := { s.chain with seqTx := s.chain.seqTx + 1, unacked := una } }
  s.emit (.frameUp f)

/-- The head sends a downstream frame, twice (R270). -/
def State.sendDown (s : State) (ty : BitVec 4) (body : W32) : State :=
  let f : Frame := { ty := ty, seq := s.chain.seqTx, body := body }
  let s := { s with chain := { s.chain with seqTx := s.chain.seqTx + 1 } }
  (s.emit (.frameDn f)).emit (.frameDn f)

/-- Record a reported link of the topology (R265). -/
def State.noteTopo (s : State) (e : TopoEdge) (up : Bool) : State :=
  let other (x : TopoEdge) : Bool := !(x.addr == e.addr && x.link == e.link)
  let ups := s.lnk.topo.filter other
  let downs := s.lnk.downs.filter other
  { s with lnk := { s.lnk with topo := if up then ups ++ [e] else ups, downs := if up then downs else downs ++ [e] }
           chain := { s.chain with topoAt := some s.chain.time } }

/-- The body of a TOPO frame (R270). -/
def topoBody (e : TopoEdge) (up : Bool) : W32 :=
  BitVec.ofNat 32 (e.addr % 2 ^ 13 + e.link % 16 * 2 ^ 13 + e.partner % 2 ^ 13 * 2 ^ 17 + b2n up * 2 ^ 30)

/-! ## Absence (R230, R268, R274, R360) -/

/-- The absent addresses differ between two states. -/
def absentDiffers (a b : State) : Bool := (List.range 4095).any (fun i => a.absent i != b.absent i)

/-- A module of the job mask of the taken `run` is absent (R360). -/
def State.jobPeerLost (s : State) : Bool :=
  match s.job.runs.find? (fun r => r.active) with
  | none => false
  | some r => (s.maskModules r.jobMask).any (fun m => !s.isSelf m && s.absent m)

/-- What follows a change in which modules are absent (R230, R360, R412). -/
def State.afterAbsence (s old : State) : State :=
  if !absentDiffers old s then s
  else
    let s := (s.sweepAbsent).msixBoth 6
    if decide (s.job.st = .running ∨ s.job.st = .held) && s.jobPeerLost && !s.job.holds.contains Hold.peerLost.code then
      s.hold .peerLost 0
    else s

/-- The head broadcasts ABSENT for an address, which becomes free (R273, R274). -/
def State.broadcastAbsent (s : State) (a : Nat) : State :=
  if s.chain.declared.contains a then s else
  let s' := { s with chain := { s.chain with
    declared := a :: s.chain.declared, granted := s.chain.granted.filter (fun x => x != a)
    joined := s.chain.joined.filter (fun x => x.2 != a) } }
  (s'.sendDown 0xA (BitVec.ofNat 32 a)).afterAbsence s

/-- Links that one address has reported to another, in a list of reports. -/
def linksTo (l : List TopoEdge) (a b : Nat) : Nat := (l.filter (fun e => e.addr == a && e.partner == b)).length

/-- One end reports every link between two addresses down: none of its own stands as UP, and it has reported down at least
as many as the other end's reports still show UP. -/
def Links.reportsDown (k : Links) (a x : Nat) : Bool :=
  decide (linksTo k.topo a x = 0) && decide (linksTo k.topo x a ≤ linksTo k.downs a x)

/-- The TOPO reports show every link of an address down (R274): towards each partner, one end reports them all down.
(DEDUCED, log entry 47) -/
def Links.allDown (k : Links) (x : Nat) : Bool :=
  let peers := (k.topo.filter (fun e => e.addr == x || e.partner == x)).map (fun e => if e.addr == x then e.partner else e.addr)
  peers.all (fun a => k.reportsDown a x || k.reportsDown x a)

/-- The head has a TOPO report: it records it, repeats it down, and broadcasts ABSENT for an address all of whose links
are down (R265, R274). -/
def State.headTopo (s : State) (e : TopoEdge) (up : Bool) (body : W32) : State :=
  let s := (s.noteTopo e up).sendDown 0xB body
  if up then s
  else [e.addr, e.partner].foldl (fun s x =>
    if s.lnk.allDown x && !(s.chain.addrValid && decide (s.chain.addr.toNat = x)) then s.broadcastAbsent x else s) s

/-- Report a link's state to the head (R265); the head repeats its own report down. -/
def State.reportTopo (s : State) (l : Nat) (up : Bool) : State :=
  if !s.chain.addrValid || !(s.link l).pValid then s
  else
    let e : TopoEdge := { addr := s.chain.addr.toNat, link := l, partner := (s.link l).pAddr.toNat }
    if s.chain.head then s.headTopo e up (topoBody e up) else s.sendUp 0xB (topoBody e up)

/-! ## Changes of a link -/

/-- Link state codes (R283). -/
def lkTraining : BitVec 4 := 1
/-- UP. -/
def lkUp : BitVec 4 := 2
/-- RETRAINING. -/
def lkRetraining : BitVec 4 := 3
/-- DOWN. -/
def lkDown : BitVec 4 := 4
/-- FAILED. -/
def lkFailed : BitVec 4 := 5
/-- GEN_MISMATCH. -/
def lkMismatch : BitVec 4 := 6
/-- STANDBY. -/
def lkStandby : BitVec 4 := 7

/-- Change a link; a change of its LNK_STATE raises vector 6 (R412). -/
def State.changeLink (s : State) (l : Nat) (f : Link → Link) : State :=
  let s' := s.modLink l f
  if (s.link l).word 0 = (s'.link l).word 0 then s' else s'.msixBoth 6

/-- A link carries flits: it is UP, or changes its width. -/
def Link.carries (l : Link) : Bool := decide (l.state = 2 ∨ l.state = 3)

/-- The members of a link's bond, itself included. -/
def State.bondOf (s : State) (l : Nat) : List Nat :=
  if (s.link l).bond = 0xF then [l] else (List.range 12).filter (fun k => (s.link k).bond = (s.link l).bond)

/-! ## Sending flits (R249–R254, R263) -/

/-- A link or bond is UP while one of its members is (R266). -/
def State.bondUp (s : State) (lead : Nat) : Bool := (s.bondOf lead).any (fun m => decide ((s.link m).state = lkUp))

/-- Change what a link keeps to send and receive. -/
def State.modCh (s : State) (l : Nat) (f : LinkCh → LinkCh) : State := s.modLink l (fun k => { k with ch := f k.ch })

/-- The lane of a segment: the live lanes in ascending order, in turn (R249). -/
def laneOf (live : BitVec 8) (i : Nat) : Nat :=
  let ls := setBits 8 live.toNat
  ls.getD (i % ls.length) 0

/-- The eight segments of a flit: header and body in 62 content bytes each, with their CRC-16 (R249). -/
def flitSegments (header : Word) (body : List Byte) : List (List Byte) :=
  let content := wordBytes header ++ body
  (List.range 8).map (fun i =>
    let c := (List.range 62).map (fun j => content.getD (62 * i + j) 0)
    c ++ leBytes 2 (crc16 c).toNat)

/-- The member of a bond that sends its next flit: in rotation, weighted by width (R263); the link itself where it is
not bonded. (DEDUCED, log entry 24) -/
def State.nextMember (s : State) (lead : Nat) : Nat :=
  let ms := ((s.bondOf lead).filter (fun m => (s.link m).state = 2)).flatMap (fun m =>
    List.replicate (s.link m).width.toNat m)
  ms.getD ((s.link lead).ch.turn % ms.length) lead

/-- Send a flit (R249, R250): its header has the ack, a nak that is due, and the credits to return. -/
def State.sendFlit (s : State) (l : Nat) (kind : BitVec 2) (on : Option Nat) (seq : BitVec 16) (body : List Byte) : State :=
  let lead := s.leader l
  let k := (s.link lead).ch
  let m := on.getD (s.nextMember lead)
  let req := min k.retReq 4095
  let rsp := min k.retRsp 4095
  let h : Word := fields [(60, 1), (58, kind.toNat), (42, seq.toNat), (26, (k.rxSeq - 1).toNat), (25, b2n k.nakDue),
    (13, req), (1, rsp)]
  let live := (s.link m).live
  let s := s.modCh lead (fun k => { k with
    nakDue := false, sinceAck := 0, retReq := k.retReq - req, retRsp := k.retRsp - rsp, turn := k.turn + 1 })
  s.emit (.linkFlit m (((List.range 8).map (laneOf live)).zip (flitSegments h body)))

/-- Send a DATA or CTRL flit, which the replay buffer keeps until it is acknowledged (R254). -/
def State.sendSeq (s : State) (l : Nat) (kind : BitVec 2) (on : Option Nat) (body : List Byte) (pkt : Option Flight) : State :=
  let lead := s.leader l
  let q := (s.link lead).ch.txSeq
  let t : TxFlit := { seq := q, kind := kind, on := on, body := body, pkt := pkt }
  (s.modCh lead (fun k => { k with txSeq := k.txSeq + 1, replayBuf := k.replayBuf ++ [t] })).sendFlit lead kind on q body

/-- Flits that a link's replay buffer holds: 1,024 for each member of its bond (R254, R263). -/
def State.replayRoom (s : State) (l : Nat) : Bool :=
  decide ((s.link l).ch.replayBuf.length < 1024 * (s.bondOf l).length)

/-- Send a link message in a CTRL flit (R252); while the replay buffer is full the message waits (R254). -/
def State.sendCtrl (s : State) (l : Nat) (code : Nat) (arg : Nat) : State :=
  let w : Word := fields [(56, code), (0, arg % 2 ^ 56)]
  let lead := s.leader l
  if (s.link lead).ch.ctlWait.isEmpty && s.replayRoom lead then s.sendSeq l 2 (some l) (wordBytes w) none
  else s.modCh lead (fun k => { k with ctlWait := k.ctlWait ++ [(l, w)] })

/-- Send the link messages that wait, while the replay buffer has room. -/
def State.flushCtrl (s : State) (lead : Nat) : State :=
  let l := (s.link lead).ch.ctlWait
  l.foldl (fun s m =>
    if s.replayRoom lead then
      (s.modCh lead (fun k => { k with ctlWait := k.ctlWait.drop 1 })).sendSeq m.1 2 (some m.1) (wordBytes m.2) none
    else s) s

/-- An IDLE flit: an ack, a nak, credits (R250). -/
def State.sendIdle (s : State) (l : Nat) : State := s.sendFlit l 1 none 0 []

/-- Send every flit that the partner has not acknowledged again, from ack + 1. -/
def State.resend (s : State) (l : Nat) : State :=
  (s.link l).ch.replayBuf.foldl (fun s t => s.sendFlit l t.kind t.on t.seq t.body) s

/-- A replay of a link or bond that has unacknowledged flits, counted (R254); while no member of it is UP, as during a
change of width, traffic waits in the replay buffer (R261). -/
def State.replay (s : State) (l : Nat) : State :=
  if (s.link l).ch.replayBuf.isEmpty || !s.bondUp l then s
  else ((s.modLink l (fun k => { k with replays := satAdd k.replays 1 })).modCh l (fun k =>
    { k with failed := k.failed + 1 })).resend l

/-! ## Widths (R261) -/

/-- Lanes lo to lo + n − 1 are free of retirement. -/
def lanesWhole (bad : BitVec 8) (lo n : Nat) : Bool := (List.range n).all (fun i => !bad.getLsbD (lo + i))

/-- A mask of lanes. -/
def laneMask (lo n : Nat) : BitVec 8 := BitVec.ofNat 8 ((2 ^ n - 1) * 2 ^ lo)

/-- The widest width up to `most` whose lanes are all good, with its lanes (R261). -/
def widest (bad : BitVec 8) (most : Nat) : Option (Nat × BitVec 8) :=
  if 8 ≤ most && lanesWhole bad 0 8 then some (8, laneMask 0 8)
  else if 4 ≤ most && lanesWhole bad 0 4 then some (4, laneMask 0 4)
  else if 4 ≤ most && lanesWhole bad 4 4 then some (4, laneMask 4 4)
  else match [0, 2, 4, 6].find? (fun p => 2 ≤ most && lanesWhole bad p 2) with
    | some p => some (2, laneMask p 2)
    | none => none

/-- The width that a link may have: max_width of both capability words (R258), and 4 under shedding step S3 (R445). -/
def Link.maxWidth (k : Link) : Nat := min (if k.limited then 4 else 8) (k.pCap.extractLsb' 32 8).toNat

/-! ## Packets that a link loses (R255) -/

/-- Two packets belong to one operation and target. -/
def State.sameOp (s : State) (a b : Packet) : Bool :=
  decide (a.op = b.op) && decide (a.srcModule = b.srcModule) && decide (a.srcUnit = b.srcUnit) &&
  decide (a.tag = b.tag) && s.sameTarget a.dst b.dst

/-- A packet is lost: PEER_ABSENT goes to its issuer, once for each run of which packets are lost (DEDUCED, log
entry 14). -/
def State.endLost (s : State) (p : Packet) (rest : List Packet) : State :=
  if (p.op = 0 ∨ p.op = 1) ∧ !p.last ∧ rest.any (fun q => s.sameOp p q) then s
  else s.endAbsent { p with last := true }

/-- Every packet of a list is lost. -/
def State.endAllLost (s : State) : List Packet → State
  | [] => s
  | p :: rest => (s.endLost p rest).endAllLost rest

/-! ## Bonds (R263, R264) -/

/-- A bit of a link's byte in the image's LINK section (R426): 0 enabled, 1 212.5 Gb/s allowed, 2 bonding allowed. -/
def State.linkBit (s : State) (l i : Nat) : Bool := bitOf (s.start.img.linkCfg.getD l 7) i

/-- A link may bond: both capability words set the bonding feature (R258), and the image allows it (R426). -/
def State.canBond (s : State) (l : Nat) : Bool := (s.link l).pCap.getLsbD 40 && s.linkBit l 2

/-- Two lengths lie within 2.0 m of one another. -/
def nearLength (a b : Nat) : Bool := decide (a ≤ b + 200) && decide (b ≤ a + 200)

/-- Add a link to groups of at most four to one partner; a further one is left out. -/
def State.joinGroup (s : State) (gs : List (List Nat)) (l : Nat) : List (List Nat) :=
  let k := s.link l
  let fits (g : List Nat) : Bool := g.all (fun m =>
    decide ((s.link m).pAddr = k.pAddr) && s.canBond m && s.canBond l &&
    nearLength (s.link m).lengthCm.toNat k.lengthCm.toNat)
  match gs.findIdx? fits with
  | some i => gs.modify i (fun g => g ++ [l])
  | none => gs ++ [[l]]

/-- The bonds that stand. -/
def State.bonds (s : State) : List (List Nat) :=
  ((List.range 12).filter (fun l => decide ((s.link l).bond = BitVec.ofNat 4 l))).map s.bondOf

/-- Links without a bond that are UP with a partner. -/
def State.loose (s : State) : List Nat :=
  (List.range 12).filter (fun l => decide ((s.link l).bond = 0xF) && (s.link l).carries && (s.link l).pValid)

/-- The groups of links to one partner: the bonds that stand, with the links that may join them or form one, in ascending
link number. -/
def State.linkGroups (s : State) : List (List Nat) :=
  (s.loose.foldl (fun gs l => s.joinGroup gs l) s.bonds).map (fun g => (List.range 12).filter g.contains)

/-- Nothing of a link is unacknowledged or half received. -/
def State.drained (s : State) (l : Nat) : Bool :=
  (s.link l).ch.replayBuf.isEmpty && (s.link l).ch.ctlWait.isEmpty && (s.link l).ch.rxBytes.isEmpty

/-- The link whose sequence space goes on in a group: that of the bond it grows from, or its lowest. -/
def State.spaceOf (s : State) (g : List Nat) : Nat := s.leader ((g.find? (fun l => (s.link l).bond ≠ 0xF)).getD (g.headD 0))

/-- A link is to join a bond once its own flits are acknowledged, and takes no packet until then. -/
def State.joinsSoon (s : State) (l : Nat) : Bool :=
  decide ((s.link l).bond = 0xF) && s.linkGroups.any (fun g => g.contains l && decide (2 ≤ g.length) && decide (s.spaceOf g ≠ l))

/-- Packets that some links have brought count as brought by another, whose record they belong to from now on. -/
def State.relabel (s : State) (from_ : List Nat) (l : Nat) : State :=
  let f (x : Flight) : Flight := if x.link.any from_.contains then { x with link := some l } else x
  { s with net := { s.net with flight := s.net.flight.map f, routeWait := s.net.routeWait.map f } }

/-- Give a bond's sequence space, replay buffer, credits and streams to another member. -/
def State.moveLead (s : State) (old new : Nat) : State :=
  if old = new then s else
  let a := (s.link old).ch
  ((s.modCh new (fun b => { a with usedReq := a.usedReq + b.usedReq, usedRsp := a.usedRsp + b.usedRsp })).modCh old
    (fun _ => {})).relabel [old] new

/-- A member that joins a bond brings the credits that it has in use; its own record is over. -/
def State.giveCredits (s : State) (lead l : Nat) : State :=
  if l = lead then s else
  let k := (s.link l).ch
  ((s.modCh lead (fun b => { b with usedReq := b.usedReq + k.usedReq, usedRsp := b.usedRsp + k.usedRsp })).modCh l
    (fun _ => {})).relabel [l] lead

/-- Form one bond: its sequence space goes on. A link joins once all that it has sent in its own is acknowledged, with the
ack of what it has received in it, so nothing is lost or comes twice (R254). (DEDUCED, log entry 24) -/
def State.formBond (s : State) (old : Nat) (mem : List Nat) : State :=
  let lead := mem.headD 0
  let joining := mem.filter (fun l => (s.link l).bond = 0xF && l != old)
  let s := joining.foldl State.sendIdle s
  let s := joining.foldl (fun s l => s.giveCredits lead l) (s.moveLead old lead)
  let b : BitVec 4 := if mem.length < 2 then 0xF else BitVec.ofNat 4 lead
  mem.foldl (fun s l => s.changeLink l (fun k => { k with bond := b })) s

/-- Form the bonds: four members each, a further link on STANDBY. -/
def State.rebond (s : State) : State :=
  s.linkGroups.foldl (fun s g =>
    let old := s.spaceOf g
    let g := g.filter (fun l => (s.link l).bond ≠ 0xF || l == old || s.drained l)
    (g.drop 4).foldl
      (fun s l => s.changeLink l (fun k => { k with bond := 0xF, state := lkStandby })) (s.formBond old (g.take 4))) s

/-- A link that waits to join a bond joins it as its last own flit is acknowledged (R263). -/
def State.joinDrained (s : State) (l : Nat) : State := if s.joinsSoon l && s.drained l then s.rebond else s

/-! ## Down (R255, R264) -/

/-- The credits of packets that a link has brought go with its record. -/
def State.forgetCredits (s : State) (l : Nat) : State :=
  let f (x : Flight) : Flight := if x.link = some l then { x with credits := 0 } else x
  { s with net := { s.net with flight := s.net.flight.map f, routeWait := s.net.routeWait.map f } }

/-- A flit that a bond sends again once a member has gone: a message of that member, which concerns it alone, leaves its
number to a flit of padding. (DEDUCED, log entry 24) -/
def TxFlit.without (t : TxFlit) (l : Nat) : TxFlit := if t.on = some l then { seq := t.seq } else t

/-- A link leaves service with a state and a cause. A bond goes on with its other members, and loses no packet; the
packets that a link without one holds end with PEER_ABSENT (R255, R264). -/
def State.linkOut (s : State) (l : Nat) (state cause : BitVec 4) : State :=
  let wasUp := (s.link l).carries
  let lead := s.leader l
  let others := (s.bondOf l).filter (fun k => k != l && (s.link k).carries)
  let s := if wasUp then s.reportTopo l false else s
  let clear (k : Link) : Link := { k with
    state := state, cause := cause, width := 0, rate := 0, live := 0, locked := 0, bond := 0xF, ch := {} }
  match others.head? with
  | some m =>
    let s := if lead = l then s.moveLead l m else s
    let s := s.changeLink l clear
    let b : BitVec 4 := if others.length < 2 then 0xF else BitVec.ofNat 4 m
    let s := others.foldl (fun s k => s.changeLink k (fun x => { x with bond := b })) s
    let s := s.modCh (s.leader m) (fun k => { k with
      replayBuf := k.replayBuf.map (fun t => t.without l), ctlWait := k.ctlWait.filter (fun w => w.1 != l) })
    s.replay (s.leader m)
  | none =>
    let lost := ((s.link l).ch.replayBuf.filterMap (fun t => t.pkt)).map (fun f => f.pkt)
    ((s.changeLink l clear).forgetCredits l).endAllLost lost

/-- LINK_DOWN (R255): by 16 replays without an ack advancing, by loss of lock on every lane, or by loss of the cable. -/
def execLinkDown (l : LinkId) (why : DownCause) (s : State) : Host.Outcome State Fault Refusal :=
  .next (
    let k := s.link l
    let live := k.carries || decide (k.state = lkStandby)
    match why with
    | .replays => if live && decide (16 ≤ (s.link (s.leader l)).ch.failed) then s.linkOut l lkDown 2 else s
    | .lossOfLock => if live then s.linkOut l lkDown 1 else s
    | .cableLoss => if live || decide (k.state = lkTraining) then s.linkOut l lkDown 8 else s)

/-- A partner announces its reset (R255). -/
def State.partnerReset (s : State) (l : Nat) : State :=
  if (s.link l).carries || decide ((s.link l).state = lkStandby) then s.linkOut l lkDown 3 else s

/-- RESET_NOTICE (R252, R255): the link goes DOWN with cause PARTNER_RESET, and trains again. -/
def execResetNotice (l : LinkId) (s : State) : Host.Outcome State Fault Refusal := .next (s.partnerReset l)

/-! ## Training (R256–R259) -/

/-- The cage of a link. -/
def cageOf (l : Nat) : Nat := l / 2

/-- A link may train: start-up has reached the links (R430), the image enables it (R426), and the cage holds a cable
with its supply. -/
def State.canTrain (s : State) (l : Nat) : Bool :=
  s.pwr.good && !s.start.inReset && decide (6 ≤ s.start.phase.toNat) && s.linkBit l 0 && decide (s.job.st ≠ .failed) && s.lnk.cage.getLsbD (cageOf l) &&
  !s.lnk.cut.getLsbD (cageOf l)

/-- Begin to train; a FAILED link stays so (R283). -/
def State.startTraining (s : State) (l : Nat) : State :=
  if s.canTrain l && decide ((s.link l).state ≠ lkFailed) then s.changeLink l (fun k => { k with state := lkTraining, cause := 0 }) else s

/-- CABLE_INSERT (R256, R474): both links of the cage begin to train. -/
def execCableInsert (cage : Fin 6) (s : State) : Host.Outcome State Fault Refusal :=
  .next (
    if s.lnk.cage.getLsbD cage then s else
    let s := { s with lnk := { s.lnk with cage := s.lnk.cage ||| (1#6 <<< cage.val) } }
    let s := [2 * cage.val, 2 * cage.val + 1].foldl (fun s l => s.modLink l (fun k => { k with trained := false })) s
    (s.startTraining (2 * cage.val)).startTraining (2 * cage.val + 1))

/-- A cable goes (R283, R474): a link that is in use or FAILED goes DOWN with cause CABLE_REMOVED; an EMPTY one stays so. -/
def State.cableGone (s : State) (l : Nat) : State :=
  let s := if (s.link l).state = 0 then s else s.linkOut l lkDown 8
  s.changeLink l (fun k => { k with
    trained := false, cableType := 0, lengthCm := 0, loss := 0, longPassive := false, serialTag := 0 })

/-- CABLE_REMOVE (R474): both links lose their cable; the cage's supply returns (R475). -/
def execCableRemove (cage : Fin 6) (s : State) : Host.Outcome State Fault Refusal :=
  .next (
    if !s.lnk.cage.getLsbD cage then s else
    let s := { s with lnk := { s.lnk with cage := s.lnk.cage &&& ~~~(1#6 <<< cage.val), cut := s.lnk.cut &&& ~~~(1#6 <<< cage.val) } }
    (s.cableGone (2 * cage.val)).cableGone (2 * cage.val + 1))

/-- A link goes DOWN with a cause; one that is EMPTY or FAILED stays so (R283, R426). -/
def State.darken (s : State) (l : Nat) (cause : BitVec 4) : State :=
  if (s.link l).state = 0 ∨ (s.link l).state = lkFailed then s else s.linkOut l lkDown cause

/-- CAGE_OVERCURRENT (R475): the cage loses its supply, and its links go DOWN with cause NO_SIGNAL. -/
def execCageOvercurrent (cage : Fin 6) (s : State) : Host.Outcome State Fault Refusal :=
  .next (
    if !s.lnk.cage.getLsbD cage || s.lnk.cut.getLsbD cage then s else
    let s := { s with lnk := { s.lnk with cut := s.lnk.cut ||| (1#6 <<< cage.val) } }
    (s.darken (2 * cage.val) 1).darken (2 * cage.val + 1) 1)

/-- LINK_RETRAIN_TIMER (R256, R283): a link DOWN without a signal or by its partner's reset trains again while its cable
is present; one whose cage holds nothing is EMPTY. (DEDUCED, log entry 88) -/
def execLinkRetrainTimer (l : LinkId) (s : State) : Host.Outcome State Fault Refusal :=
  .next (
    let k := s.link l
    if k.state ≠ lkDown then s
    else if !s.lnk.cage.getLsbD (cageOf l) then s.changeLink l (fun k => { k with state := 0, cause := 0 })
    else if k.cause = 1 ∨ k.cause = 3 then s.startTraining l
    else s)

/-- The generation that two capability words allow, if any (R258). -/
def negotiate (partner : Word) : Option (BitVec 4) :=
  let g := min 1 (partner.extractLsb' 60 4).toNat
  if g < 1 ∨ g < (partner.extractLsb' 56 4).toNat then none else some (BitVec.ofNat 4 g)

/-- Cable type codes (R257, R285). -/
def cableTypeOf (r : TrainResult) : BitVec 4 :=
  if !r.memory then 4 else if r.optical then 3 else if r.active then 2 else 1

/-- The lanes whose retirement the module has recorded for a link on a cable (R262). -/
def State.recordedLanes (s : State) (l : Nat) (tag : BitVec 16) : BitVec 8 :=
  s.lnk.retiredLanes.foldl (fun m x => if x.1 = l ∧ x.2.2 = tag.toNat then m ||| (1#8 <<< x.2.1) else m) 0

/-- Announce the module's address to a partner (R252, R256). -/
def State.sendAddress (s : State) (l : Nat) : State :=
  if s.chain.addrValid then s.sendCtrl l 2 (s.chain.addr.toNat + l * 2 ^ 13 + 2 ^ 17) else s

/-- The record of a lane in the lifetime log (R458): retrains, CRC failures, lowest eye margin, retired flag. -/
def laneLog (l lane : Nat) : Nat := 0x4900 + 16 * (8 * l + lane)

/-- Each lane of a mask has trained again. -/
def State.countRetrains (s : State) (l : Nat) (lanes : BitVec 8) : State :=
  ((List.range 8).filter (fun i => lanes.getLsbD i)).foldl (fun s i => s.logAdd (laneLog l i) 4 1) s

/-- The eye margin of a lane as it trains: the log keeps the lowest (R458). (DESIGN CHOICE, log entry 109) -/
def State.noteMargin (s : State) (l lane : Nat) : State :=
  let o := laneLog l lane + 8
  let m := (Config.eyeMargin (8 * l + lane) s.plb.powered).toNat
  s.logSet o (((SMap.find? s.plb.log o).map (min m)).getD m)

/-- The eye margins of the lanes of a mask are read. -/
def State.noteMargins (s : State) (l : Nat) (lanes : BitVec 8) : State :=
  ((List.range 8).filter (fun i => lanes.getLsbD i)).foldl (fun s i => s.noteMargin l i) s

/-- The link comes UP at the width and generation found, or goes out for want of lanes or of a generation (R256, R258,
R261). The lanes of a link that had trained before count a retrain (R458; DESIGN CHOICE, log entry 109). The partner's CAP
was its flit 0 and the module's CAP is flit 0 of its own (DESIGN CHOICE, log entry 101). -/
def State.trainedUp (s : State) (l : Nat) (full : Bool) : Option (Nat × BitVec 8) → Option (BitVec 4) → State
  | none, _ => s.linkOut l lkFailed 4
  | some _, none => (s.sendCtrl l 1 (ownCap.toNat / 256)).linkOut l lkMismatch 6
  | some w, some g =>
    let again := (s.link l).trained
    let s := s.changeLink l (fun k => { k with
      state := lkUp, cause := 0, rate := if full then 2 else 1, width := BitVec.ofNat 4 w.1, live := w.2, gen := g,
      bond := 0xF, trained := true, retrains := if again then satAdd k.retrains 1 else k.retrains, ch := { rxSeq := 1 } })
    let s := (if again then s.countRetrains l w.2 else s).noteMargins l w.2
    (s.sendCtrl l 1 (ownCap.toNat / 256)).sendAddress l

/-- What training found goes into the link (R256–R258, R262). -/
def State.trainedLink (s : State) (l : Nat) (r : TrainResult) : State :=
  let type := cableTypeOf r
  let passive := decide (type = 1 ∨ type = 4)
  let tag : BitVec 16 := if r.memory then r.serialTag else 0
  let retired := if r.memory then s.recordedLanes l tag else 0
  let cm := min (r.roundTripPs / 100) 0x3FFF
  let full := decide (r.lanesFull ||| retired = 255) && !(passive && decide (152 < r.loss)) && s.linkBit l 1
  let good := (if full then r.lanesFull else r.lanesHalf) &&& ~~~retired
  let s := s.changeLink l (fun k => { k with
    cableType := type, lengthCm := BitVec.ofNat 14 cm, loss := BitVec.ofNat 8 (min r.loss 255),
    longPassive := decide (type = 1) && decide (200 < cm), serialTag := tag, retired := retired
    pCap := r.partnerCap &&& ~~~0xFF, pValid := false, pAddr := 0, pLink := 0, gen := 0, live := 0, locked := good, bond := 0xF, ch := {} })
  let s := { s with lnk := { s.lnk with lossAtHalf := BitVec.ofNat 8 (min r.lossHalf 255) } }
  if passive && decide (152 < r.lossHalf) then s.linkOut l lkFailed 5
  else s.trainedUp l full (widest (~~~good) (s.link l).maxWidth) (negotiate r.partnerCap)

/-- Training that finds no signal: the link is DOWN, and a cable that has a memory is known by it all the same (R256,
R257). -/
def State.trainedDark (s : State) (l : Nat) (r : TrainResult) : State :=
  let s := if r.memory then s.changeLink l (fun k => { k with cableType := cableTypeOf r, serialTag := r.serialTag }) else s
  s.linkOut l lkDown 1

/-- LINK_TRAINING_DONE (R256, R257). -/
def execLinkTrainingDone (l : LinkId) (r : TrainResult) (s : State) : Host.Outcome State Fault Refusal :=
  .next (
    if !s.canTrain l || decide ((s.link l).state ≠ lkTraining) then s
    else if !r.signal then s.trainedDark l r
    else s.trainedLink l r)

/-! ## Link messages (R252) -/

/-- CAP: the partner's capability word; the generation is negotiated (R258, R284). -/
def State.takeCap (s : State) (l : Nat) (arg : BitVec 56) : State :=
  let w : Word := (arg.setWidth 64) <<< 8
  let s := s.modLink l (fun k => { k with pCap := w })
  match negotiate w with
  | none => s.linkOut l lkMismatch 6
  | some g => s.changeLink l (fun k => { k with gen := g })

/-- CAP (R258). -/
def execCapMsg (l : LinkId) (arg : BitVec 56) (s : State) : Host.Outcome State Fault Refusal := .next (s.takeCap l arg)

/-- ADDRESS: the partner's address (R259); one that names this module is a loopback. -/
def State.takeAddress (s : State) (l : Nat) (arg : BitVec 56) : State :=
  let a := arg.extractLsb' 0 13
  let valid := arg.getLsbD 17
  let s := if (s.link l).pValid && !valid then s.reportTopo l false else s
  let s := s.modLink l (fun k => { k with pAddr := a, pLink := arg.extractLsb' 13 4, pValid := valid })
  if valid && s.chain.addrValid && decide (a = s.chain.addr) then s.linkOut l lkFailed 7
  else if valid && (s.link l).carries then (s.reportTopo l true).rebond
  else s

/-- ADDRESS (R259). -/
def execAddressMsg (l : LinkId) (arg : BitVec 56) (s : State) : Host.Outcome State Fault Refusal :=
  .next (s.takeAddress l arg)

/-- Move a link to a width (R261): traffic waits until the change completes. -/
def State.toWidth (s : State) (l : Nat) (w : Nat) (lanes : BitVec 8) : State :=
  s.changeLink l (fun k => { k with state := lkRetraining, width := BitVec.ofNat 4 w, live := lanes })

/-- Move a link to the widest width that its lanes allow, and announce it by WIDTH (R252, R261). -/
def State.rewidth (s : State) (l : Nat) : State :=
  let k := s.link l
  if !k.carries then s
  else match widest (k.retired ||| ~~~k.locked) k.maxWidth with
    | none => s.linkOut l lkFailed 4
    | some w =>
      if w.2 = k.live then s
      else (s.toWidth l w.1 w.2).sendCtrl l 4 (w.1 + w.2.toNat * 16)

/-- Retire a lane (R260, R262): recorded in the lifetime log against its cable. -/
def State.retireLink (s : State) (l lane : Nat) : State :=
  if (s.link l).retired.getLsbD lane then s else
  let tag := (s.link l).serialTag.toNat
  let s := s.changeLink l (fun k => { k with retired := k.retired ||| (1#8 <<< lane), locked := k.locked &&& ~~~(1#8 <<< lane) })
  let s := { s with lnk := { s.lnk with retiredLanes := s.lnk.retiredLanes ++ [(l, lane, tag)] }
                    plb := { s.plb with retirements := s.plb.retirements ++ [(2, 8 * l + lane, s.minute, tag)] } }
  ((s.logSet (laneLog l lane + 12) 1).errLog 0x12 (8 * l + lane)).rewidth l

/-- RETIRE (R252, R260). A lane retired in one direction is no longer live, and a link has one width in both (R261), so bit
[3] changes nothing (DEDUCED, log entry 88). -/
def execRetireLane (l : LinkId) (arg : BitVec 56) (s : State) : Host.Outcome State Fault Refusal :=
  .next (s.retireLink l (arg.toNat % 8))

/-- WIDTH: the partner's new width and lanes (R252, R261). -/
def State.takeWidth (s : State) (l : Nat) (arg : BitVec 56) : State :=
  if (s.link l).carries then s.toWidth l (arg.toNat % 16) (arg.extractLsb' 4 8) else s

/-- WIDTH (R261). -/
def execWidthMsg (l : LinkId) (arg : BitVec 56) (s : State) : Host.Outcome State Fault Refusal :=
  .next (s.takeWidth l arg)

/-- WIDTH_CHANGE_DONE (R261, R287): traffic resumes from ack + 1, and packets that found no link UP set out again (R267;
DEDUCED, log entry 24). -/
def execWidthChangeDone (l : LinkId) (s : State) : Host.Outcome State Fault Refusal :=
  .next (
    if (s.link l).state ≠ lkRetraining then s else
    let s := s.changeLink l (fun k => { k with state := lkUp, retrains := satAdd k.retrains 1 })
    State.resend { s with net := { s.net with flight := s.net.routeWait ++ s.net.flight, routeWait := [] } } (s.leader l))

/-- LANE_WINDOW_EXPIRY (R260): the lane's window count starts again. -/
def execLaneWindowExpiry (l : LinkId) (lane : Fin 8) (s : State) : Host.Outcome State Fault Refusal :=
  .next (s.modLink l (fun k => { k with laneErr := SMap.modify {} k.laneErr lane.val (fun e => { e with window := 0 }) }))

/-- The module itself retires a lane: it tells its partner by RETIRE (R252, R260). -/
def State.retireOwn (s : State) (l lane : Nat) : State :=
  (s.sendCtrl l 3 (lane + 8)).retireLink l lane

/-- LANE_ERR_LIMIT (R260). -/
def execLaneErrLimit (l : LinkId) (lane : Fin 8) (s : State) : Host.Outcome State Fault Refusal :=
  .next (
    let e := SMap.get {} (s.link l).laneErr lane.val
    if (s.link l).carries && !(s.link l).retired.getLsbD lane && decide (s.start.img.laneErrLimit ≤ e.window.toNat) then
      s.retireOwn l lane
    else s)

/-- LANE_LOCK_LOSS (R260): a lane has lost lock for 100 µs while others keep it. -/
def execLaneLockLoss (l : LinkId) (lane : Fin 8) (s : State) : Host.Outcome State Fault Refusal :=
  .next (
    let k := s.link l
    if k.carries && !k.retired.getLsbD lane && decide (k.locked &&& ~~~(1#8 <<< lane.val) ≠ 0) then s.retireOwn l lane else s)

/-- BOND_STANDBY_JOIN (R263): a link on STANDBY joins its partner's bond once that has a place. -/
def execBondStandbyJoin (l : LinkId) (s : State) : Host.Outcome State Fault Refusal :=
  .next (
    let k := s.link l
    let peers := (List.range 12).filter (fun m => (s.link m).carries && (s.link m).pValid &&
      decide ((s.link m).pAddr = k.pAddr) && nearLength (s.link m).lengthCm.toNat k.lengthCm.toNat)
    if k.state = lkStandby ∧ peers.length < 4 then (s.changeLink l (fun k => { k with state := lkUp })).rebond
    else s)

/-- A link message from a CTRL flit (R252); a reserved code is counted and ignored. -/
def State.linkMessage (s : State) (l : Nat) (code : Nat) (arg : BitVec 56) : State :=
  match code with
  | 1 => s.takeCap l arg
  | 2 => s.takeAddress l arg
  | 3 => s.retireLink l (arg.toNat % 8)
  | 4 => s.takeWidth l arg
  | 5 => s.partnerReset l
  | _ => s.violate .generation

/-! ## Receiving flits (R249–R254) -/

/-- Credits of 64 B that a link packet takes (R253). -/
def linkCredits (bytes : Nat) : Nat := (bytes + 63) / 64

/-- The header of a compact packet, rebuilt from its stream's (R251). -/
def rebuilt (h : Packet) (pre : Nat) : Packet :=
  { h with dst := h.dst + h.len.setWidth 64, len := BitVec.ofNat 9 (bitsOf pre 45 9), sig := bitOf pre 44,
           last := bitOf pre 43, status := BitVec.ofNat 3 (bitsOf pre 40 3), count := BitVec.ofNat 14 (bitsOf pre 26 14) }

/-- A segment of a flit: its 62 content bytes. -/
def flitSegment (flit : List Byte) (i : Nat) : List Byte := slice flit (64 * i) 62
/-- The segments whose CRC fails. -/
def badSegments (flit : List Byte) : List Nat :=
  (List.range 8).filter (fun i => (crc16 (flitSegment flit i)).toNat ≠ leNat (slice flit (64 * i + 62) 2))
/-- The 496 content bytes: the header and the body. -/
def flitContent (flit : List Byte) : List Byte := (List.range 8).flatMap (flitSegment flit)

/-- The header of a flit (R250). -/
def flitHeader (flit : List Byte) : Nat := leNat ((flitContent flit).take 8)
/-- Its kind. -/
def flitKind (flit : List Byte) : Nat := bitsOf (flitHeader flit) 58 2
/-- Its sequence number. -/
def flitSeq (flit : List Byte) : BitVec 16 := BitVec.ofNat 16 (bitsOf (flitHeader flit) 42 16)

/-- Count segment failures on their lanes (R260, R287). -/
def State.countLanes (s : State) (l : Nat) (bad : List Nat) : State :=
  bad.foldl (fun s i =>
    let lane := laneOf (s.link l).live i
    (s.modLink l (fun k => { k with laneErr := SMap.modify {} k.laneErr lane (fun e =>
      { e with total := satAdd e.total 1, window := satAdd e.window 1 }) })).logAdd (laneLog l lane + 4) 4 1) s

/-- Apply the ack, the nak and the credits of a flit header (R250, R253, R254). -/
def State.takeAck (s : State) (l : Nat) (h : Nat) : State :=
  let ack := BitVec.ofNat 16 (bitsOf h 26 16)
  let s := match (s.link l).ch.replayBuf.findIdx? (fun t => t.seq = ack) with
    | some i => (s.modCh l (fun k => { k with replayBuf := k.replayBuf.drop (i + 1), failed := 0 })).flushCtrl l
    | none => s
  let s := s.modCh l (fun k => { k with usedReq := k.usedReq - bitsOf h 13 12, usedRsp := k.usedRsp - bitsOf h 1 12 })
  if bitOf h 25 then s.replay l else s

/-- A packet comes off a link: one for this module is taken or, by its generation or kind, discarded (R211); the
received ledger notes a reduction packet (R311). -/
def State.offLink (s : State) (f : Flight) : State :=
  let keep (s : State) : State := { s with net := { s.net with flight := s.net.flight ++ [f] } }
  if !s.isSelf (packetModule f.pkt) then keep s
  else if f.pkt.gen ≠ 1 ∨ 12 ≤ f.pkt.op.toNat then (s.freeFlight f).violate .generation
  else keep (s.noteReceived f.pkt)

/-- Take one link packet of `n` bytes in all from the front of the bytes received; its buffer holds its credits until
it has left the quoin die (R253). A compact packet on a stream without a header is discarded. -/
def State.linkPacket (s : State) (l : Nat) (pre : Nat) (body : List Byte) (n : Nat) : State :=
  let stream := bitsOf pre 54 8
  let hdr : Option Packet := if bitOf pre 63 then some (parseHeader (body.take 32))
    else (SMap.find? (s.link l).ch.streams stream).map (fun h => rebuilt h pre)
  let s := if bitsOf pre 0 20 = 0 then s else s.violate .reservedSet
  match hdr with
  | none => s.freeCredits l (bitOf pre 62) (linkCredits n)
  | some h =>
    let p := { h with payload := slice body (if bitOf pre 63 then 32 else 0) (bitsOf pre 45 9) }
    let s := s.modCh l (fun k => { k with
      streams := if h.last then SMap.erase k.streams stream else SMap.set k.streams stream { h with payload := [] } })
    s.offLink { pkt := p, hops := bitsOf pre 20 6, link := some l, credits := linkCredits n }

/-- Take link packets from the bytes received (R251), with fuel: a prefix of eight zero bytes pads the rest. -/
def State.linkPackets : Nat → Nat → List Byte → State → State
  | 0, _, _, s => s
  | fuel + 1, l, bytes, s =>
    let keep : State := s.modCh l (fun k => { k with rxBytes := bytes })
    if bytes.length < 8 then keep
    else
      let pre := leNat (bytes.take 8)
      let n := 8 + (if bitOf pre 63 then 32 else 0) + bitsOf pre 45 9
      if pre = 0 then s.modCh l (fun k => { k with rxBytes := [] })
      else if bytes.length < n then keep
      else State.linkPackets fuel l (bytes.drop n) (s.linkPacket l pre ((bytes.drop 8).take (n - 8)) n)

/-- An in-sequence flit is accepted: its packets, or its message; an ack goes at least every 32 flits (R254). (DEDUCED,
log entry 24) -/
def State.acceptFlit (s : State) (l lead : Nat) (flit : List Byte) : State :=
  let body := (flitContent flit).drop 8
  let s := s.modCh lead (fun k => { k with rxSeq := k.rxSeq + 1, sinceAck := k.sinceAck + 1 })
  let s := if 32 ≤ (s.link lead).ch.sinceAck then s.sendIdle lead else s
  if flitKind flit = 0 then
    let bytes := (s.link lead).ch.rxBytes ++ body
    State.linkPackets bytes.length lead bytes s
  else
    let m := leNat (body.take 8)
    s.linkMessage l (m / 2 ^ 56) (BitVec.ofNat 56 m)

/-- A flit that passes its CRCs: its acks and credits apply; a sequenced one is taken in sequence only, and a failure
before it keeps it out (R254). A link that waited for the ack joins its bond (R263). -/
def State.goodFlit (s : State) (l : Nat) (flit : List Byte) : State :=
  let lead := s.leader l
  let h := flitHeader flit
  if bitsOf h 60 4 ≠ 1 then s.violate .generation
  else
    let s := s.takeAck lead h
    (if (flitKind flit = 0 ∨ flitKind flit = 2) ∧ flitSeq flit = (s.link lead).ch.rxSeq then s.acceptFlit l lead flit
      else s).joinDrained l

/-- A receiver takes a flit (R254): a segment that fails its CRC counts on its lane, the flit is discarded, and a nak is
due. -/
def State.takeFlit (s : State) (l : Nat) (flit : List Byte) : State :=
  let bad := badSegments flit
  if bad.isEmpty then s.goodFlit l flit
  else (s.countLanes l bad).modCh (s.leader l) (fun k => { k with nakDue := true })

/-- DATA_FLIT (R249–R254): a sequenced flit, of kind DATA or CTRL. -/
def execDataFlit (l : LinkId) (flit : List Byte) (s : State) : Host.Outcome State Fault Refusal :=
  .next (if (s.link l).carries then s.takeFlit l flit else s)

/-- IDLE_FLIT (R250): the ack, the nak and the credits of its header apply; its body is unused. -/
def execIdleFlit (l : LinkId) (flit : List Byte) (s : State) : Host.Outcome State Fault Refusal :=
  .next (if (s.link l).carries then s.takeFlit l flit else s)

/-- LINK_ACK_TIMER (R254): the receiver sends its ack, a nak that is due, and the credits to return. -/
def execLinkAckTimer (l : LinkId) (s : State) : Host.Outcome State Fault Refusal :=
  .next (if (s.link l).carries then s.sendIdle l else s)

/-- REPLAY_TIMEOUT (R254): no ack advance for 20 µs. -/
def execReplayTimeout (l : LinkId) (s : State) : Host.Outcome State Fault Refusal :=
  .next (if (s.link l).carries then s.replay (s.leader l) else s)

/-! ## Routing (R265–R268) -/

/-- The first hops of a packet that are UP, a bond as its lowest member, ascending (R266); a packet of a chain keystone
takes none whose partner lacks that feature (R258). -/
def State.candidates (s : State) (p : Packet) : List Nat :=
  ((setBits 12 (s.route (packetModule p)).links.toNat).filter (fun l => (s.link l).carries &&
    (decide (p.op ≠ 11) || (s.link l).pCap.getLsbD 42))).map s.leader |>.dedup |>.filter s.bondUp |>.mergeSort

/-- Credits of a channel that the partner grants a link, or the members of its bond together (R253, R258, R263). -/
def State.granted (s : State) (l : Nat) (response : Bool) : Nat :=
  ((s.bondOf l).map (fun m => ((s.link m).pCap.extractLsb' (if response then 8 else 20) 12).toNat)).sum

/-- The stream on which a packet goes, and whether its header goes with it (R251): a packet of data whose header is the
one before it on its stream, moved on, goes compact where both ends can (R258). (DEDUCED, log entry 24) -/
def State.linkForm (s : State) (l : Nat) (p : Packet) : Nat × Bool :=
  let tx : List (Nat × Packet) := (s.link l).ch.txStreams
  match tx.find? (fun e => s.sameOp e.2 p) with
  | some e =>
    let next : Packet := { e.2 with dst := e.2.dst + e.2.len.setWidth 64, len := p.len, sig := p.sig, last := p.last,
                                    status := p.status, count := p.count }
    (e.1, !((s.link l).pCap.getLsbD 41 && !p.payload.isEmpty && decide (next = { p with payload := [] })))
  | none => ((lowestFree tx 256).getD 255, true)

/-- The bytes of a link packet (R251). -/
def linkBytes (f : Flight) (stream : Nat) (full : Bool) : List Byte :=
  let p := f.pkt
  wordBytes (fields [(63, b2n full), (62, b2n (isResponse p.op)), (54, stream), (45, p.payload.length), (44, b2n p.sig),
    (43, b2n p.last), (40, p.status.toNat), (26, p.count.toNat), (20, f.hops)]) ++
  (if full then headerBytes p else []) ++ p.payload

/-- Give a packet to a link, in a DATA flit of its own (R251, R253, R254, R311). (DESIGN CHOICE, log entry 101) -/
def State.onLink (s : State) (l : Nat) (f : Flight) : State :=
  let w := s.linkForm l f.pkt
  let bytes := linkBytes f w.1 w.2
  let n := linkCredits bytes.length
  let s := (s.noteSent f.pkt).modCh l (fun k => { k with
    usedReq := if isResponse f.pkt.op then k.usedReq else k.usedReq + n
    usedRsp := if isResponse f.pkt.op then k.usedRsp + n else k.usedRsp
    txStreams := if f.pkt.payload.isEmpty || f.pkt.last then SMap.erase k.txStreams w.1
      else SMap.set k.txStreams w.1 { f.pkt with payload := [] } })
  s.sendSeq l 0 none bytes (some f)

/-- A link can take a packet now: it holds the credits, its replay buffer has room, and it is not about to join a bond
(R253, R254, R263). -/
def State.linkReady (s : State) (l : Nat) (f : Flight) : Bool :=
  let w := s.linkForm l f.pkt
  let rsp := isResponse f.pkt.op
  decide (linkCredits (linkBytes f w.1 w.2).length + (if rsp then (s.link l).ch.usedRsp else (s.link l).ch.usedReq) ≤
    s.granted l rsp) && s.replayRoom l && !s.joinsSoon l

/-- LINK_FORWARD (R266–R268): a packet for another module, in its turn (R171), goes to a first hop; one for an absent
module ends; one whose entry has no link UP waits for a table, and those sent after it behind it; one that would cross
its 32nd link is discarded, counted where R458 has no place of its own (DESIGN CHOICE, log entry 101). (DEDUCED, log entry 24) -/
def execLinkForward (pos : Nat) (s : State) : Host.Outcome State Fault Refusal :=
  .next (match s.net.flight[pos]? with
    | none => s
    | some f =>
      let a := packetModule f.pkt
      if s.isSelf a || !s.inTurn f.pkt then s
      else
        let rest := s.net.flight.eraseIdx pos
        let out := { s with net := { s.net with flight := rest } }
        if s.absent a then (out.freeFlight f).endLost f.pkt (rest.map (fun x => x.pkt))
        else if 32 ≤ f.hops + 1 then ((out.freeFlight f).endLost f.pkt (rest.map (fun x => x.pkt))).logAdd 0x40000 8 1
        else
          let cs := s.candidates f.pkt
          if cs.isEmpty || s.net.routeWait.any (fun g => s.sameStream g f) then
            { out with net := { out.net with routeWait := out.net.routeWait ++ [f] } }
          else
            let l := cs.getD (a % cs.length) 0
            let g : Flight := { f with hops := f.hops + 1, link := none, credits := 0 }
            if s.linkReady l g then (out.freeFlight f).onLink l g else s)

/-- ROUTE_WAIT_EXPIRY (R267): a packet that has waited 100 ms ends with PEER_ABSENT. -/
def execRouteWaitExpiry (pos : Nat) (s : State) : Host.Outcome State Fault Refusal :=
  .next (match s.net.routeWait[pos]? with
    | none => s
    | some f =>
      let rest := s.net.routeWait.eraseIdx pos
      (State.freeFlight { s with net := { s.net with routeWait := rest } } f).endLost f.pkt (rest.map (fun x => x.pkt)))

/-- One level of the breadth-first search: the modules that the frontier reaches first, with the first hops. -/
def nextLevel (topo : List TopoEdge) (self : Nat) (seen : List Nat) (front : SMap (BitVec 12)) : SMap (BitVec 12) :=
  topo.foldl (fun m e => match SMap.find? front e.addr with
    | none => m
    | some hops =>
      if seen.contains e.partner then m
      else SMap.modify 0 m e.partner (fun x => x ||| (if e.addr = self then (1#12 <<< e.link) else hops))) []

/-- The levels of the search, with fuel. -/
def bfs (topo : List TopoEdge) (self : Nat) : Nat → Nat → List Nat → SMap (BitVec 12) → SMap Route → SMap Route
  | 0, _, _, _, out => out
  | fuel + 1, d, seen, front, out =>
    let nxt := nextLevel topo self seen front
    if nxt.isEmpty then out
    else bfs topo self fuel (d + 1) (seen ++ nxt.map (fun p => p.1)) nxt
      (nxt.foldl (fun o p => SMap.set o p.1 { hops := d, links := p.2 }) out)

/-- The route table over the topology that TOPO frames report (R265). -/
def State.computeRoutes (s : State) : SMap Route :=
  if s.chain.addrValid then
    let me := s.chain.addr.toNat
    bfs s.lnk.topo me (s.lnk.topo.length + 1) 1 [me] [(me, 0)] []
  else []

/-- A `re_enumerate` ends once the enumeration that it asked for and the route install after it are done (R272,
R400). -/
def State.endReenum (s : State) : State :=
  match s.job.reenum with
  | some k =>
    if s.job.reenumHeard && (s.chain.full || (s.chain.addrValid && decide (s.chain.port = 5))) then
      State.complete { s with job := { s.job with reenum := none, reenumHeard := false } } k
    else s
  | none => s

/-- ROUTE_INSTALL (R265): the new table takes effect whole; packets that waited for it set out again. -/
def execRouteInstall (s : State) : Host.Outcome State Fault Refusal :=
  .next (
    let s' := { s with
      lnk := { s.lnk with routes := s.computeRoutes }
      chain := { s.chain with topoAt := none }
      net := { s.net with flight := s.net.routeWait ++ s.net.flight, routeWait := [] } }
    (s'.afterAbsence s).endReenum)

end Sys2Proof.Machine
end

