-- ==== Sys2Proof/Machine/Chain.lean ====
section
/-! DEFINITION. The chain port (R269–R281): control frames, enumeration, joining, absence, delays and edge marks. -/

namespace Sys2Proof.Machine

/-- The low 13 bits of a frame's body: an address. -/
def Frame13 (f : Frame) : Nat := f.body.toNat % 2 ^ 13

/-- The address that stands for none (R270). -/
def noAddress : Nat := 0x1FFF

/-- Change the chain port. -/
def State.modChain (s : State) (f : Chain → Chain) : State := { s with chain := f s.chain }

/-- A frame arrives (R270): a CRC failure is dropped and counted, another generation is dropped and counted as a
violation; a module whose port is not spliced takes no frame, and a row acts on frames of its own type only. -/
def State.takeFrame (s : State) (f : Frame) (crcOk : Bool) (ty : BitVec 4) (act : State → State) : State :=
  if s.chain.bypass then s
  else if !crcOk then s.modChain (fun c => { c with frameErr := satAdd c.frameErr 1 })
  else if f.gen ≠ 1 then s.violate .generation
  else if f.ty ≠ ty then s
  else act s

/-- Repeat a frame downstream (R270); the tail has nobody to repeat it to. -/
def State.passDown (s : State) (f : Frame) : State := if s.chain.tail then s else s.emit (.frameDn f)

/-- A downstream frame as a module repeats it: ENUM with the address plus 1, DELAY with its hop delay added (R270). -/
def State.onward (s : State) (f : Frame) : Frame :=
  if f.ty = 1 then { f with body := BitVec.ofNat 32 (f.body.toNat / 2 ^ 13 * 2 ^ 13 + (Frame13 f + 1) % 2 ^ 13) }
  else if f.ty = 3 then { f with body := f.body + s.chain.h }
  else f

/-- A downstream frame arrives: a second one of a sequence number that has been seen is repeated to the next hop and
otherwise ignored (R270); the tail answers an ENUM or a DELAY once. -/
def State.takeDown (s : State) (f : Frame) (crcOk : Bool) (ty : BitVec 4) (act : State → State) : State :=
  s.takeFrame f crcOk ty (fun s =>
    if s.chain.seqSeen.contains (f.ty, f.seq) then (if s.chain.head then s else s.passDown (s.onward f))
    else act (s.modChain (fun c => { c with seqSeen := ((f.ty, f.seq) :: c.seqSeen).take 128 })))

/-- The head acknowledges an upstream frame (R270). -/
def State.ackFrame (s : State) (a : Nat) (ty : BitVec 4) : State :=
  s.sendDown 0xF (BitVec.ofNat 32 (a % 2 ^ 13 + ty.toNat * 2 ^ 16))

/-- An upstream frame arrives: the head acts on it and acknowledges it to an address, any other module repeats it. -/
def State.takeUp (s : State) (f : Frame) (crcOk : Bool) (ty : BitVec 4) (ackTo : Option Nat) (act : State → State) : State :=
  s.takeFrame f crcOk ty (fun s =>
    if !s.chain.head then s.emit (.frameUp f)
    else
      let s := match ackTo with
        | some a => s.ackFrame a ty
        | none => s
      act s)

/-! ## Addresses (R271–R273) -/

/-- Announce the module's address on every link that is UP, and report the links (R259, R265). -/
def State.announce (s : State) : State :=
  (List.range 12).foldl (fun s l => if (s.link l).carries then (s.sendAddress l).reportTopo l true else s) s

/-- Take a chain address, and record it in the lifetime log (R271–R273); `old` is the state before, for the changes of
absence. (DEDUCED, log entry 47) -/
def State.takeChainAddr (s old : State) (a : Nat) : State :=
  let s := s.modChain (fun c => { c with
    addr := BitVec.ofNat 13 a, addrValid := true, full := false, port := 5,
    unacked := c.unacked.filter (fun u => u.1.ty != 6) })
  (State.afterAbsence { s with plb := { s.plb with logAddr := some a } } old).announce

/-- The edge delay that a largest cumulative delay gives, in 10 ns: plus 1 µs, rounded up. -/
def edgeDelay (maxC : W32) : Nat := (maxC.toNat + 1000000 + 9999) / 10000

/-- The head has the largest cumulative delay: it broadcasts COMP when D is to grow, or to fall by more than 1 µs. -/
def State.setDelay (s : State) (maxC : W32) : State :=
  let v := edgeDelay maxC
  let d := s.chain.d.toNat
  let s := s.modChain (fun c => { c with maxC := maxC })
  if d < v ∨ v + 100 < d then
    (s.modChain (fun c => { c with newD := some (c.time, BitVec.ofNat 24 v) })).sendDown 5 (BitVec.ofNat 32 (v % 2 ^ 24))
  else s

/-- The head finishes an enumeration that gave `n` addresses. -/
def State.enumerated (s : State) (n : Nat) : State :=
  s.modChain (fun c => { c with granted := List.range n, joined := [], port := 5 })

/-- The head enumerates the chain (R271): it takes address 0; alone on its chain it has the result of the enumeration and
of the DELAY pass after it at once (R280). (DEDUCED, log entry 47) -/
def State.startEnumeration (s : State) : State :=
  let s := (s.modChain (fun c => { c with enums := satAdd c.enums 1, declared := [], port := 3 })).takeChainAddr s 0
  if s.chain.tail then (s.enumerated 1).setDelay 0
  else (s.modChain (fun c => { c with port := 3 })).sendDown 1 1

/-- ENUM (R271): take the address in the frame and repeat it with one more; above 4,094 take none. The tail answers with
the addresses given. -/
def execEnumFrame (f : Frame) (crcOk : Bool) (s : State) : Host.Outcome State Fault Refusal :=
  .next (s.takeDown f crcOk 1 (fun s =>
    if s.chain.head then s else
    let n := Frame13 f
    let old := s
    let s := s.modChain (fun c => { c with enums := satAdd c.enums 1, declared := [] })
    let s := if 4094 < n then (s.modChain (fun c => { c with full := true, addrValid := false, addr := 0 })).afterAbsence old
      else s.takeChainAddr old n
    if s.chain.tail then s.sendUp 2 (BitVec.ofNat 32 (min (n + 1) 4095)) else s.passDown (s.onward f)))

/-- ENUM_DONE (R271): the head learns the addresses given, and starts a DELAY pass (R280). -/
def execEnumDone (f : Frame) (crcOk : Bool) (s : State) : Host.Outcome State Fault Refusal :=
  .next (s.takeUp f crcOk 2 (some (Frame13 f - 1)) (fun s => (s.enumerated (Frame13 f)).sendDown 3 0))

/-- Every address is dropped, the partners' too, and every peer is absent until the routes are installed (R272). -/
def State.dropAddresses (s : State) : State :=
  let s := { s with job := { s.job with reenumHeard := s.job.reenum.isSome } }
  let s' := s.modChain (fun c => { c with
    addr := 0, addrValid := false, full := false, declared := [], granted := [], joined := [], port := 3 })
  let s' := (List.range 12).foldl (fun s l => s.modLink l (fun k => { k with pValid := false, pAddr := 0, pLink := 0 })) s'
  State.afterAbsence { s' with lnk := { s'.lnk with topo := [], routes := [] } } s

/-- REENUM (R272): the head sends it down and enumerates anew; every module drops its address. -/
def execReenumFrame (f : Frame) (crcOk : Bool) (s : State) : Host.Outcome State Fault Refusal :=
  .next (
    if s.chain.head then
      s.takeFrame f crcOk 0xC (fun s => (((s.ackFrame noAddress 0xC).sendDown 0xC 0).dropAddresses).startEnumeration)
    else s.takeDown f crcOk 0xC (fun s => (s.passDown f).dropAddresses))

/-- The lowest address below 4,095 that no module holds. -/
def Chain.lowestAddr (c : Chain) : Option Nat :=
  (List.range (c.granted.length + 1)).find? (fun a => !c.granted.contains a && decide (a < 4095))

/-- The address that the head grants (R273). -/
def State.grantFor (s : State) (want : Nat) : Option Nat :=
  if !s.start.img.joinLowest && decide (want < 4095) && !s.chain.granted.contains want then some want
  else s.chain.lowestAddr

/-- The address that a JOIN_REQ is to get: a repeat of one that the head has granted, which its nonce tells, gets the same
(R270). -/
def State.answerFor (s : State) (want : Nat) (nonce : BitVec 19) : Option Nat :=
  match s.chain.joined.find? (fun x => x.1 = nonce) with
  | some x => some x.2
  | none => s.grantFor want

/-- JOIN_REQ (R273): the head grants an address and broadcasts JOINED. -/
def execJoinReq (f : Frame) (crcOk : Bool) (s : State) : Host.Outcome State Fault Refusal :=
  .next (s.takeUp f crcOk 6 (some (Frame13 f)) (fun s =>
    let nonce := f.body.toNat / 2 ^ 13
    match s.answerFor (Frame13 f) (BitVec.ofNat 19 nonce) with
    | none => s.sendDown 7 (BitVec.ofNat 32 (noAddress + nonce * 2 ^ 13))
    | some a =>
      let s' := s.modChain (fun c => { c with
        granted := if c.granted.contains a then c.granted else (a :: c.granted).mergeSort
        joined := (BitVec.ofNat 19 nonce, a) :: c.joined.filter (fun x => x.1 != BitVec.ofNat 19 nonce)
        declared := c.declared.filter (fun x => x != a) })
      (((s'.sendDown 7 (BitVec.ofNat 32 (a + nonce * 2 ^ 13))).sendDown 8 (BitVec.ofNat 32 a))).afterAbsence s))

/-- JOIN_GRANT (R273): the joining module with the nonce takes its address. -/
def execJoinGrant (f : Frame) (crcOk : Bool) (s : State) : Host.Outcome State Fault Refusal :=
  .next (s.takeDown f crcOk 7 (fun s =>
    let s := s.passDown f
    if s.chain.port ≠ 4 ∨ f.body.toNat / 2 ^ 13 ≠ s.chain.nonce.toNat then s
    else if 4094 < Frame13 f then s.modChain (fun c => { c with full := true })
    else s.takeChainAddr s (Frame13 f)))

/-- JOINED (R273, R268): the address is no longer declared absent. -/
def execJoinedFrame (f : Frame) (crcOk : Bool) (s : State) : Host.Outcome State Fault Refusal :=
  .next (s.takeDown f crcOk 8 (fun s =>
    let s := s.passDown f
    (s.modChain (fun c => { c with declared := c.declared.filter (fun x => x != Frame13 f) })).afterAbsence s))

/-! ## Absence (R268, R269, R274) -/

/-- LEAVE (R274). -/
def execLeaveFrame (f : Frame) (crcOk : Bool) (s : State) : Host.Outcome State Fault Refusal :=
  .next (s.takeUp f crcOk 9 (some (Frame13 f)) (fun s => s.broadcastAbsent (Frame13 f)))

/-- ABSENT (R268, R292, R360). -/
def execAbsentFrame (f : Frame) (crcOk : Bool) (s : State) : Host.Outcome State Fault Refusal :=
  .next (s.takeDown f crcOk 0xA (fun s =>
    let s := s.passDown f
    let a := Frame13 f
    (s.modChain (fun c => { c with
      absents := satAdd c.absents 1, declared := if c.declared.contains a then c.declared else a :: c.declared })).afterAbsence
      s))

/-- The link that a TOPO frame reports. -/
def topoOf (f : Frame) : TopoEdge :=
  { addr := bitsOf f.body.toNat 0 13, link := bitsOf f.body.toNat 13 4, partner := bitsOf f.body.toNat 17 13 }

/-- TOPO (R265, R270, R274): recorded; the head repeats it down, and broadcasts ABSENT for an address all of whose
links are down. A module that is not head takes the frame as the head's repeat of it. -/
def execTopoFrame (f : Frame) (crcOk : Bool) (s : State) : Host.Outcome State Fault Refusal :=
  .next (
    let up := bitOf f.body.toNat 30
    let e := topoOf f
    if s.chain.head then s.takeUp f crcOk 0xB (some e.addr) (fun s => s.headTopo e up f.body)
    else s.takeDown f crcOk 0xB (fun s => (s.passDown f).noteTopo e up))

/-- CENSUS (R269): answered with HERE. -/
def execCensusFrame (f : Frame) (crcOk : Bool) (s : State) : Host.Outcome State Fault Refusal :=
  .next (s.takeDown f crcOk 0xD (fun s =>
    let s := s.passDown f
    if s.chain.addrValid then s.sendUp 0xE (s.chain.addr.setWidth 32) else s))

/-- HERE (R269): a new head learns an address that is held. -/
def execHereFrame (f : Frame) (crcOk : Bool) (s : State) : Host.Outcome State Fault Refusal :=
  .next (s.takeUp f crcOk 0xE none (fun s =>
    s.modChain (fun c => { c with here := if c.here.contains (Frame13 f) then c.here else Frame13 f :: c.here })))

/-- CENSUS_END (R269): ABSENT for every address granted earlier that no longer replies; the replies are the addresses
held. -/
def execCensusEnd (s : State) : Host.Outcome State Fault Refusal :=
  .next (
    if !s.chain.head || !s.chain.census then s else
    let own := if s.chain.addrValid then [s.chain.addr.toNat] else []
    let held := (s.chain.here ++ own).dedup.mergeSort
    let gone := s.chain.granted.filter (fun a => !held.contains a)
    let s := gone.foldl State.broadcastAbsent s
    s.modChain (fun c => { c with census := false, here := [], granted := held }))

/-- An upstream frame that an ACK names: its type, and the module's own address or the one in the frame. -/
def State.acked (s : State) (f : Frame) (u : Frame) : Bool :=
  decide (u.ty.toNat = bitsOf f.body.toNat 16 4) &&
  (decide (Frame13 f = noAddress) || decide (Frame13 f = Frame13 u) ||
   (s.chain.addrValid && decide (Frame13 f = s.chain.addr.toNat)))

/-- ACK (R270): the frame is not sent again. -/
def execChainAck (f : Frame) (crcOk : Bool) (s : State) : Host.Outcome State Fault Refusal :=
  .next (s.takeDown f crcOk 0xF (fun s =>
    let s := s.passDown f
    s.modChain (fun c => { c with unacked := c.unacked.filter (fun u => !s.acked f u.1) })))

/-- Ask the head for the address in the lifetime log (R273). -/
def State.joinLate (s : State) : State :=
  let nonce : BitVec 19 := s.freeVal.setWidth 19
  let s := (s.modChain (fun c => { c with port := 4, nonce := nonce })).useFree
  s.sendUp 6 (BitVec.ofNat 32 ((s.plb.logAddr.getD noAddress) % 2 ^ 13 + nonce.toNat * 2 ^ 13))

/-- Send every unacknowledged frame of a type again, each at most 16 times (R270). -/
def State.resendFrames (s : State) (ty : BitVec 4) : State :=
  let again (u : Frame × Nat) : Bool := decide (u.1.ty = ty) && decide (u.2 ≤ 16)
  let due := s.chain.unacked.filter again
  let s := s.modChain (fun c => { c with
    unacked := (c.unacked.filter (fun u => decide (u.1.ty ≠ ty) || again u)).map (fun u => if u.1.ty = ty then (u.1, u.2 + 1) else u) })
  due.foldl (fun s u => s.emit (.frameUp u.1)) s

/-- FRAME_RESEND (R270): every 1 ms, at most 16 times. A port that has spliced and has met no enumeration joins with the
first JOIN_REQ (R273; DESIGN CHOICE, log entry 94). -/
def execFrameResend (ty : BitVec 4) (s : State) : Host.Outcome State Fault Refusal :=
  .next (if ty = 6 ∧ s.chain.port = 2 then s.joinLate else s.resendFrames ty)

/-! ## Delays (R280) -/

/-- DELAY_PASS_TIMER (R280): the head starts a pass; alone on its chain it has the result at once. -/
def execDelayPassTimer (s : State) : Host.Outcome State Fault Refusal :=
  .next (
    if !s.chain.head || s.chain.bypass then s
    else if s.chain.tail then s.setDelay 0
    else s.sendDown 3 0)

/-- DELAY (R280): the module adds its hop delay and keeps the sum; the tail answers with it. -/
def execDelayFrame (f : Frame) (crcOk : Bool) (s : State) : Host.Outcome State Fault Refusal :=
  .next (s.takeDown f crcOk 3 (fun s =>
    if s.chain.head then s else
    let c := f.body + s.chain.h
    let s := s.modChain (fun k => { k with c := c, cMeasured := true })
    if s.chain.tail then s.sendUp 4 c else s.passDown (s.onward f)))

/-- DELAY_DONE (R280): acknowledged to the tail, which holds the highest address. -/
def execDelayDone (f : Frame) (crcOk : Bool) (s : State) : Host.Outcome State Fault Refusal :=
  .next (s.takeUp f crcOk 4 (some (s.chain.granted.getLastD 0)) (fun s => s.setDelay f.body))

/-- COMP (R280): a new D, to adopt at a mark 5 ms later. -/
def execCompFrame (f : Frame) (crcOk : Bool) (s : State) : Host.Outcome State Fault Refusal :=
  .next (s.takeDown f crcOk 5 (fun s =>
    (s.passDown f).modChain (fun c => { c with newD := some (c.time, f.body.setWidth 24) })))

/-- EDGE_ECHO_MEASURE (R280, R281, R291): a module that has spliced since the last DELAY pass takes its own h as its
provisional c (DESIGN CHOICE, log entry 94). -/
def execEdgeEchoMeasure (hopPs : W32) (s : State) : Host.Outcome State Fault Refusal :=
  .next (s.modChain (fun c => { c with h := hopPs, c := if c.cMeasured || c.head then c.c else hopPs }))

/-! ## Marks (R277–R279) -/

/-- A mark passes at a time: a D broadcast 5 ms before or more is adopted (R280). -/
def Chain.adopt (c : Chain) (t : Nat) : Chain :=
  match c.newD with
  | some (t0, d) => if t0 + 500000 ≤ t then { c with d := d, newD := none } else c
  | none => c

/-- The conditions of R278 for a mark. -/
def State.maySendMark (s : State) : Bool :=
  let c := s.chain
  let gap := 2 * c.d.toNat + 400
  c.head && !c.bypass && s.rdyOut && decide (c.tsPrev + gap < c.time) &&
  decide (c.tsPrev + max 2000 gap ≤ c.time)

/-- EDGE_MARK_SEND (R278). -/
def execEdgeMarkSend (s : State) : Host.Outcome State Fault Refusal :=
  .next (
    if !s.maySendMark then s
    else (s.modChain (fun c => (({ c with tsPrev := c.time, mark := some c.time } : Chain).adopt c.time))).emit .edgeMark)

/-- EDGE_MARK_RECEIVE (R275, R279): Ts is the arrival time less the cumulative delay, and a spliced module repeats the
mark. A port that listens notes the mark for its splice window only (R276). -/
def execEdgeMarkReceive (arrivalPs : Nat) (s : State) : Host.Outcome State Fault Refusal :=
  .next (
    if s.chain.head then s else
    let s := s.modChain (fun c => { c with tsPrev := arrivalPs / 10000 })
    if s.chain.bypass then s
    else
      let s := s.modChain (fun c =>
        ({ c with mark := some ((arrivalPs - c.c.toNat) / 10000) } : Chain).adopt (arrivalPs / 10000))
      if s.chain.tail then s else s.emit .edgeMark)

/-! ## The port itself (R269, R275, R276) -/

/-- REF_LOCK (R269, R435): the port hears a chain on CHAIN IN, and the module takes its reference; a bypass that is
closed listens, unless the module is FAILED (R363). -/
def execRefLock (s : State) : Host.Outcome State Fault Refusal :=
  .next (
    if !s.pwr.good then s else
    let listen := s.chain.bypass && decide (s.job.st ≠ .failed)
    s.modChain (fun c => { c with refLocked := true, inCable := true, head := false, port := if listen then 1 else c.port }))

/-- Step 7 of the start-up (R430): a module with nothing on CHAIN IN is head and enumerates; any other listens. -/
def State.startChain (s : State) : State :=
  let s := s.modChain (fun c => { c with tail := !c.outCable, rdyIn := c.rdyIn || !c.outCable, head := !c.inCable })
  if s.chain.head then (s.modChain (fun c => { c with bypass := false })).startEnumeration
  else s.modChain (fun c => { c with port := if c.bypass then 1 else c.port })

/-- REF_LOSS (R269): the module holds on its local oscillator, becomes head, and requests a census. A port whose bypass is
closed loses the chain: one that listens at chain enumeration has nothing on CHAIN IN any more, and enumerates as head.
(DEDUCED, log entry 89) -/
def execRefLoss (s : State) : Host.Outcome State Fault Refusal :=
  .next (
    let s := s.modChain (fun c => { c with refLocked := false, inCable := false })
    if s.chain.head then s
    else if s.chain.bypass then
      if s.chain.port = 1 ∧ 7 ≤ s.start.phase.toNat ∧ s.job.st ≠ .failed then
        (s.modChain (fun c => { c with headChanges := satAdd c.headChanges 1 })).startChain
      else s
    else
      let s := s.modChain (fun c => { c with
        head := true, headChanges := satAdd c.headChanges 1, census := true, here := [] })
      s.sendDown 0xD 0)

/-- SPLICE (R276): from 1 µs to 3 µs after a mark, a listening port that is locked opens its bypass once the module has
reached chain enumeration; a FAILED module keeps it closed (R363). -/
def execSplice (s : State) : Host.Outcome State Fault Refusal :=
  .next (
    let c := s.chain
    if c.bypass && decide (c.port = 1) && c.refLocked && decide (7 ≤ s.start.phase.toNat) && decide (s.job.st ≠ .failed) &&
        decide (c.tsPrev + 100 ≤ c.time) && decide (c.time ≤ c.tsPrev + 300) then
      s.modChain (fun c => { c with bypass := false, port := 2, splices := satAdd c.splices 1, cMeasured := false, c := c.h })
    else s)

/-- RDY_IN_CHANGE (R277): the level from downstream; the tail takes 1. -/
def execRdyInChange (level : Bool) (s : State) : Host.Outcome State Fault Refusal :=
  .next (s.modChain (fun c => { c with rdyIn := level || c.tail }))

/-- CHAIN_OUT_PRESENCE_CHANGE (R269): the module stops or starts being tail, which takes RDY as 1. -/
def execChainOutPresenceChange (present : Bool) (s : State) : Host.Outcome State Fault Refusal :=
  .next (s.modChain (fun c => { c with outCable := present, tail := !present, rdyIn := !present }))

/-- LEAVE upstream and RESET_NOTICE on every link that is UP (R274). -/
def State.sendLeave (s : State) : State :=
  let s := if s.chain.addrValid && !s.chain.head && !s.chain.bypass then s.sendUp 9 (s.chain.addr.setWidth 32) else s
  (List.range 12).foldl (fun s l => if (s.link l).carries then s.sendCtrl l 5 0 else s) s

/-- The port closes its bypass and holds no address (R275). -/
def State.closeBypass (s : State) : State :=
  s.modChain (fun c => { c with bypass := true, port := 0, addr := 0, addrValid := false, unacked := [] })

end Sys2Proof.Machine
end

