-- ==== Sys2Proof/Machine/CoreEdge.lean ====
section
/-! DEFINITION. Courses and course edges (R49–R53, R64–R66, R277, R279, R401, R406): a core's done, the module's ready,
the edge, and the release of the strands. -/

namespace Sys2Proof.Machine

/-! ## What a core runs -/

/-- The state of a core, the state that parking keeps while it is parked. -/
def CoreRun.now (r : CoreRun) : CoreState := if r.state = .parked then r.before else r.state
/-- A core enters a state; a parked one does so behind its parking. -/
def CoreRun.enter (r : CoreRun) (st : CoreState) : CoreRun :=
  if r.state = .parked then { r with before := st } else { r with state := st }

/-- Write the next entry of a core's course log, and then advance newest (R64). -/
def State.logCourse (s : State) (c : Nat) (e : CourseEntry) : State :=
  s.modRun c (fun r => { r with clog := SMap.set r.clog ((r.head.toNat + 1) % 16) e, head := r.head + 1 })

/-- A core has finished its course work (R51): every strand at its `cend`, and everything issued complete. (DEDUCED,
log entry 25) -/
def State.workDone (s : State) (c : Nat) : Bool :=
  let k := s.core c
  decide (k.run.state = .running) && (List.range 4).all (fun t => (s.strand c t).atEnd) &&
  k.arr.queue.isEmpty && k.arr.stream.isEmpty && k.arr.readout.isEmpty && k.arr.retries.isEmpty &&
  k.eng.copies.isEmpty && k.eng.remotes.isEmpty && k.eng.tops.isEmpty

/-- CORE_DONE (R51, R44, R65, R66): the core reports done, with an overrun when the time edge has passed; a course
that lost a latch fault ends as DONE_FAULT, which the Plumb answers with a hold (R354). (DEDUCED, log entry 25) -/
def execCoreDone (c : CoreId) (s : State) : Host.Outcome State Fault Refusal :=
  .next (
    if !s.workDone c then s else
    let r := (s.core c).run
    let busy : W32 := satAdd 0 ((s.coreCycle c).toNat - r.start.toNat)
    let e : CourseEntry := { start := r.start, course := s.job.course.setWidth 24, ctx := r.ctx,
                             overrun := decide (s.chain.te < s.chain.time), idle := false, busy := busy }
    let n := r.ctx.toNat
    let s := (s.logCourse c e).modRun c (fun r => { r with
      state := if r.faulted then .doneFault else .done
      ctxTime := SMap.modify 0 r.ctxTime n (fun v => v + busy.setWidth 64)
      ctxCourses := SMap.modify 0 r.ctxCourses n (fun v => v + 1) })
    if r.faulted then s.hold .latchLost c else s)

/-! ## Ready (R277, R19) -/

/-- Every core has reported its course done. -/
def State.allDone (s : State) : Bool :=
  (List.range 576).all (fun c => match (s.core c).run.now with
    | .idle => true
    | .done => true
    | .doneFault => true
    | _ => false)

/-- A taken run covers a course. -/
def RunPlan.covers (p : RunPlan) (n : Nat) : Bool := decide (p.first.toNat ≤ n) && decide (n < p.first.toNat + p.courses)
/-- The course after the last that a run covers. -/
def RunPlan.stop (p : RunPlan) : Nat := p.first.toNat + p.courses
/-- The run in progress. -/
def Job.activeRun (j : Job) : Option RunPlan := j.runs.find? (fun p => p.active)

/-- The next course may open (R19, R406): a taken run covers it, or the run in progress ends here with last. -/
def Job.nextCovered (j : Job) : Bool :=
  let n := j.course.toNat + 1
  j.runs.any (fun p => p.covers n || (p.active && p.last && decide (p.stop = n)))

/-- READY_UPDATE (R277): a participant whose work is done drives ready from te − 2·D on. -/
def execReadyUpdate (s : State) : Host.Outcome State Fault Refusal :=
  .next (
    if decide (s.job.st = .running) && s.job.isOpen && s.allDone && s.job.nextCovered &&
        decide (s.chain.te ≤ s.chain.time + 2 * s.chain.d.toNat) then
      s.modChain (fun c => { c with ready := true })
    else s)

/-! ## The action of a run (R401, R406) -/

/-- Change the runs. -/
def State.modRuns (s : State) (f : List RunPlan → List RunPlan) : State := { s with job := { s.job with runs := f s.job.runs } }

/-- The action of a taken run starts (R401): its lift field is to name the closed lift, and the reduction block that it
names, or none, is in force from here on (R299, R302). -/
def State.startRun (s : State) (p : RunPlan) : State :=
  let s := { s with job := { s.job with taken := s.job.taken.erase p.cmd } }
  if p.cmd.lift = s.msn.lift.closed then
    let s := { s with job := { s.job with started := s.job.started ++ [p.cmd] } }
    (s.modRuns (fun l => l.map (fun q => if q = p then { q with active := true } else q))).setBlock p.red
  else (s.modRuns (fun l => l.erase p)).refuse p.cmd .lift

/-! ## The edge -/

/-- The time at which the edge of the last mark is due (R279). -/
def State.edgeTime (s : State) : Option Nat :=
  match s.chain.mark with
  | none => none
  | some ts =>
    let t := ts + s.chain.d.toNat
    let t := if s.job.st = .running then max t s.chain.te else t
    if t ≤ s.chain.time then some t else none

/-- The overrun counter that an excess falls in (R458), the excess in 10 ns. -/
def overrunBand (n : Nat) : Nat :=
  if n < 1000 then 0 else if n < 10000 then 1 else if n < 100000 then 2 else if n < 1000000 then 3
  else if n < 10000000 then 4 else 5

/-- The arrays at an edge (R30, R53): latches cleared, the queue empty, the in-course count at zero (R45). -/
def ArrayUnit.edge (a : ArrayUnit) : ArrayUnit :=
  { a with shadow := [], active := [], reuse := [], queue := [], stream := [], readout := [], retries := [], lfInCourse := 0 }

/-- A core at the edge that ends a course (R52, R53, R75, R111): a core without a context in the course has none to
save, and the strands' ends of the course are over. -/
def State.coreEdge (s : State) (c : Nat) : State :=
  let s := if (s.core c).run.now = .idle then s else s.saveCtx c
  let r := (s.core c).run
  let s := (s.modArr c ArrayUnit.edge).modRegs c (fun g => { g with wcnt := [] })
  let s := s.modCore c (fun k => { k with
    strands := k.strands.map (fun (p : Nat × Strand) => (p.1, { p.2 with atEnd := false }))
    run := { k.run with misfitCourse := 0, faulted := false } })
  s.logAdd (0x6000 + 8 * c) 8 r.misfitCourse.toNat

/-- A course opens at a time: every core is at its edge until its strands are released. -/
def State.openCourse (s : State) (n : Word) (t : Nat) : State :=
  let len := (s.job.activeRun.map (fun p => p.courseLen)).getD 0
  let s := { s with job := { s.job with course := n, ran := some n, isOpen := true } }
  let s := s.modChain (fun c => { c with te := t + len, ready := false })
  (List.range 576).foldl (fun s c => s.modRun c (fun r => { r.enter .edge with misfitCourse := 0 })) s

/-- The module has no course: back to SET after a run with last 1 (R406). -/
def State.closeCourses (s : State) : State :=
  let s := { s with job := { s.job with isOpen := false } }
  let s := (List.range 576).foldl (fun s c => s.modRun c (fun r => r.enter .idle)) s
  s.setMod .set

/-- The run in progress ends where its last course has ended: its completion tally advances (R400), and its reduction
block is in force no more (R299). -/
def State.endRun (s : State) (n : Nat) : State :=
  match s.job.activeRun with
  | some p => if p.stop ≤ n then ((s.modRuns (fun l => l.erase p)).setBlock none).complete p.cmd else s
  | none => s

/-- The action of the run whose first course is to open starts. -/
def State.startDue (s : State) (n : Nat) : State :=
  match s.job.runs.find? (fun p => !p.active && decide (p.first.toNat = n)) with
  | some p => s.startRun p
  | none => s

/-- A parked core leaves its parking (R446, R52): a context that was saved is restored, and the remote status that came
in between is kept (R105). -/
def State.endPark (s : State) (c : Nat) : State :=
  let k := s.core c
  if k.run.state ≠ .parked then s else
  let s := if k.run.holds || decide (k.run.before = .idle) then s else
    (s.restoreCtx c k.run.ctx.toNat).modCore c (fun k' => { k' with
      strands := k'.strands.map (fun (p : Nat × Strand) =>
        (p.1, { p.2 with rstat := p.2.rstat ||| (SMap.get {} k.strands p.1).rstat })) })
  s.modRun c (fun r => { r with state := r.before })

/-- Every parked core is restored before an edge is handled (R446); at an edge no strand waits. -/
def State.restoreParked (s : State) : State :=
  let s := (List.range 576).foldl State.endPark s
  { s with job := { s.job with parked := none } }

/-- A participant's edge (R277, R279, R314, R406). A run that fails its lift check at the very edge leaves the course open
with length 0 and no run (R19; DESIGN CHOICE, log entry 91). -/
def State.courseEdge (s : State) (t : Nat) : State :=
  let s := if s.chain.te < t then s.logAdd (0x5000 + 8 * overrunBand (t - s.chain.te)) 8 1 else s
  let s := s.snapshot s.job.course
  let next := s.job.course + 1
  let s := (List.range 576).foldl State.coreEdge s
  let last := s.job.runs.any (fun p => p.active && p.last && decide (p.stop ≤ next.toNat))
  let s := (s.endRun next.toNat).startDue next.toNat
  if last && s.job.activeRun.isNone then s.closeCourses else s.openCourse next t

/-- The first edge of a run taken in SET (R406): RUNNING, with the run's course; while a compute reset holds the cores no
course opens (DEDUCED, log entry 42). -/
def State.firstEdge (s : State) (t : Nat) : State :=
  match s.job.runs.find? (fun p => !p.active && s.plb.computing.isNone && decide (p.start.toNat ≤ t)) with
  | none => s
  | some p =>
    let s := s.startRun p
    if s.job.activeRun.isSome then (s.setMod .running).openCourse p.first t else s

/-- The face window flips to the closed lift's buffer: at a participant's course edge (R17, R12), at an edge applied in SET,
so that after a committing restore the window follows the restored lift at the next edge with no run yet (DEDUCED, log entry
43), and on a retreat (R336). -/
def State.flipFace (s : State) : State :=
  let s := { s with job := { s.job with lift := s.msn.lift.closed } }
  if s.ft.faceValid then { s with ft := { s.ft with parity := s.msn.lift.closed.getLsbD 0 } } else s

/-- EDGE_APPLY (R279). -/
def execEdgeApply (s : State) : Host.Outcome State Fault Refusal :=
  .next (match s.edgeTime with
    | none => s
    | some t =>
      if s.job.st = .running && !s.chain.ready then s else
      let s := s.modChain (fun c => { c with mark := none, lastEdge := t, edges := satAdd c.edges 1 })
      match s.job.st with
      | .running => (s.restoreParked.courseEdge t).flipFace
      | .set => (s.restoreParked.firstEdge t).flipFace
      | _ => s)

/-! ## Strands released (R49, R52, R404) -/

/-- The nibble that a run's schedule holds for a core in a course (R404). -/
def State.scheduled (s : State) (p : RunPlan) (c : Nat) : Nat :=
  let i := (s.job.course.toNat - p.first.toNat) % p.period
  let off := p.schedule + 288 * i + c / 2
  bitsOf ((s.placeByte (s.fastPlace off)).toNat) (4 * (c % 2)) 4

/-- Let the strands of a context run (R52): a context other than the one that the core holds is restored first. -/
def State.releaseCtx (s : State) (c n : Nat) : State :=
  let r := (s.core c).run
  let s := if r.holds && decide (r.ctx.toNat = n) then s else s.restoreCtx c n
  let s := s.modCore c (fun k => { k with
    strands := k.strands.map (fun (p : Nat × Strand) => (p.1, { p.2 with atEnd := false, wait := .none })) })
  let now := s.coreCycle c
  s.modRun c (fun r => { r.enter .running with ctx := BitVec.ofNat 3 n, holds := true, start := now })

/-- A core without a context for the course reports it done (R49). Its log entry has the CORE_CYCLE value of the
release, busy 0 and the last context (DESIGN CHOICE, log entry 82). -/
def State.idleCourse (s : State) (c : Nat) : State :=
  let e : CourseEntry := { start := s.coreCycle c, course := s.job.course.setWidth 24, ctx := (s.core c).run.ctx, idle := true }
  (s.logCourse c e).modRun c (fun r => { r.enter .idle with start := e.start })

/-- STRANDS_RELEASED (R52): after the edge and the run's own action, the core runs the context that the schedule
names; codes 0x8–0xE leave it IDLE and count as reserved-set, and a context that is not loaded counts a misfit (R49,
R404).
(DEDUCED, log entry 43) -/
def execStrandsReleased (c : CoreId) (s : State) : Host.Outcome State Fault Refusal :=
  .next (match s.job.activeRun with
    | none => s
    | some p =>
      if !s.job.isOpen || decide ((s.core c).run.now ≠ .edge) || s.job.started.any (fun k => k.opcode == 1) then s
      else
        let n := s.scheduled p c
        if n = 0xF then s.idleCourse c
        else if 8 ≤ n then (s.violate .reservedSet).idleCourse c
        else if (s.core c).run.loaded.getLsbD n then s.releaseCtx c n
        else (s.misfit c).idleCourse c)

end Sys2Proof.Machine
end

