-- ==== Sys2Proof/Machine/Domains.lean ====
section
/-! DEFINITION. Losses and resets as shared operations (R353–R364, R457, R460): what each domain loses, FAILED, the
lifetime log in flash, and requests for crash dumps. -/

namespace Sys2Proof.Machine

/-! ## The lifetime log in flash (R457, R460) -/

/-- Change the Plumb. -/
def State.modPlb (s : State) (f : Plumb → Plumb) : State := { s with plb := f s.plb }
/-- Change the power state. -/
def State.modPwr (s : State) (f : Power → Power) : State := { s with pwr := f s.pwr }
/-- Change the start-up state. -/
def State.modStart (s : State) (f : Start → Start) : State := { s with start := f s.start }
/-- Change the work of the module. -/
def State.modJob (s : State) (f : Job → Job) : State := { s with job := f s.job }
/-- Change the Masons' block. -/
def State.modMsn (s : State) (f : MasonBlk → MasonBlk) : State := { s with msn := f s.msn }

/-- Write the record, with its CRC, to the next of the 32 slots of the ring, and the error log with it. -/
def State.writeLog (s : State) : State :=
  s.modPlb (fun p =>
    let q := { p with logSeq := p.logSeq + 1, lastWrite := p.powered, errFlash := p.errlog }
    { q with ring := ({ q.record with crc := q.record.sum } :: q.ring).take 32 })

/-- The record of a ring with the highest sequence number among those whose CRC holds (R457). -/
def newestRecord (ring : List LogRec) : Option LogRec :=
  ring.foldl (fun best r => if best.all (fun b => decide (b.logSeq < r.logSeq)) && r.holds then some r else best) none

/-- What the Plumb takes from flash at start-up: that record, or a new module's. -/
def Plumb.takeLog (p : Plumb) : Plumb :=
  match newestRecord p.ring with
  | none => p
  | some r => { p with
      log := r.log, replacements := r.replacements, retirements := r.retirements, logAddr := r.logAddr,
      logFail := r.logFail, logSeq := r.logSeq, powered := r.powered, coldStarts := r.coldStarts,
      lastWrite := r.powered, errlog := p.errFlash }

/-! ## Image slots (R421, R424) -/

/-- The kinds of image: a Plumb firmware image or a setting-out image. -/
inductive ImgKind where
  | firmware | setout
deriving DecidableEq, Repr

/-- Offset of a slot: B where `slot` holds (R421). -/
def ImgKind.base (k : ImgKind) (slot : Bool) : Nat :=
  match k with
  | .firmware => 0x10000 + b2n slot * 2 ^ 23
  | .setout => 0x1010000 + b2n slot * 2 ^ 22

/-- The kind of image of an update target. -/
def updKind (target : BitVec 4) : ImgKind := if target = 1 then .firmware else .setout

/-- The slot that a session writes: the one of its kind that the present start did not accept. (DEDUCED, log
entry 28) -/
def State.updSlot (s : State) (target : BitVec 4) : Bool := if target = 1 then !s.start.fwSlot else !s.start.slot

/-- Offset of that slot in flash. -/
def State.updBase (s : State) (target : BitVec 4) : Nat := (updKind target).base (s.updSlot target)

/-- The image slots whose write a loss of input cuts off now, with those cut off before (R424). -/
def State.tornSlots (s : State) : List Nat :=
  let b := s.updBase s.plb.upd.target
  match s.plb.upd.busy with
  | some (.begin _) => b :: s.start.torn
  | some (.write _ _) => b :: s.start.torn
  | _ => s.start.torn

/-! ## Records of resets (R385, R458) -/

/-- Domain codes (R385). -/
def domCompute : BitVec 4 := 1
/-- PACKAGE. -/
def domPackage : BitVec 4 := 2
/-- MODULE. -/
def domModule : BitVec 4 := 3
/-- POWER. -/
def domPower : BitVec 4 := 4

/-- Sources of a reset (R385). -/
def srcHost : BitVec 4 := 1
/-- PERST. -/
def srcPerst : BitVec 4 := 2
/-- QUIESCE_TIMEOUT. -/
def srcQuiesce : BitVec 4 := 3
/-- PLUMB. -/
def srcPlumb : BitVec 4 := 4
/-- SHEDDING. -/
def srcShed : BitVec 4 := 5

/-- Record a reset in PLB_RESET_CAUSE, the lifetime log and the error log (cause 0x30 + domain). -/
def State.recordReset (s : State) (dom src : BitVec 4) : State :=
  let s := s.modPlb (fun p => { p with resetCount := satAdd p.resetCount 1, resetDomain := dom, resetSource := src })
  (s.logAdd (0x5040 + 8 * ((dom.toNat - 1) * 6 + src.toNat)) 8 1).errLog (0x30 + dom.toNat) src.toNat

/-- Ask for a crash dump (R379): capture begins where none is captured or written (R386). -/
def State.wantDump (s : State) (trigger : BitVec 4) : State :=
  s.modPlb (fun p => { p with
    dumpWant := p.dumpWant ++ [trigger], dumpState := if p.dumpState = 0 then 1 else p.dumpState })

/-! ## FAILED (R363) -/

/-- Every link goes DOWN on this side. -/
def State.linksDown (s : State) : State := (List.range 12).foldl (fun s l => s.darken l 0) s

/-- The module enters FAILED for a cause (R363): dump, LEAVE and RESET_NOTICE, bypass closed, links DOWN. -/
def State.enterFailed (s : State) (cause : BitVec 4) : State :=
  let s := s.modPlb (fun p => { p with failCause := cause, logFail := some (cause, p.powered) })
  let s := (s.errLog (0x20 + cause.toNat) 0).wantDump 2
  let s := (s.sendLeave).linksDown.closeBypass
  let s := s.modJob (fun j => { j with
    frozen := true, masonStop := true, rewind := none, replay := none, runs := [], isOpen := false, started := [], taken := [] })
  (s.setMod .failed).msixBoth 3

/-! ## Core, cluster and compute resets (R361) -/

/-- A key lies in the scratchpad of a core. -/
def inSpad (c key : Nat) : Bool := decide (key / 2 ^ 21 = 2 ^ 28 + c)
/-- A key lies in the memory of a cluster. -/
def inCluster (k key : Nat) : Bool := decide (key / 2 ^ 25 = 2 ^ 23 + k)

/-- The registers that a core reset leaves (R361): the latch-fault totals, lost and the mark for a spare stay, and the course
log, its head and the context counts go with the core (DESIGN CHOICE, log entry 119). -/
def Core.reset (k : Core) (clk : Nat) : Core :=
  { arr := { lfTotal := k.arr.lfTotal, lfLostCount := k.arr.lfLostCount, lfLost := k.arr.lfLost, lfMarked := k.arr.lfMarked }
    run := { state := .idle, clkBase := clk, spare := k.run.spare } }

/-- A core is reset (R361): its strands' waits are withdrawn (R114), and its scratchpad is lost and becomes a broken home
(R231, R243). -/
def State.resetCore (s : State) (c : Nat) : State :=
  let clk := s.pwr.coreClk
  let s := (List.range 4).foldl (fun s t => s.withdraw c t) s
  let s := s.breakWaits (inSpad c)
  let s := s.modCluster (coreCluster c) (fun k => { k with
    brokenSpad := k.brokenSpad ||| (1#8 <<< coreMember c), brokenEvents := satAdd k.brokenEvents 1 })
  (s.modCore c (fun k => k.reset clk)).loseRegions [spadRegion c]

/-- A key lies in the memory of a cluster or in the scratchpad of a member: one of its keystone slots serves it. -/
def servedBy (k key : Nat) : Bool := inCluster k key || (List.range 8).any (fun m => inSpad (memberCore k m) key)

/-- A cluster is reset with its eight members (R361): its memory, save areas included, is lost and becomes a broken
home; what waits in the memories that it serves returns BROKEN (R231). -/
def State.resetCluster (s : State) (k : Nat) : State :=
  let s := s.breakWaits (servedBy k)
  let s := s.modCluster k (fun x => { x with
    brokenClm := true, brokenEvents := satAdd x.brokenEvents 1, slots := [], stalled := [], sramBad := false })
  let saves := (List.range 8).flatMap (fun n => (List.range 8).map (fun m => saveRegion k m n))
  let s := s.loseRegions (clusterRegion k :: saves)
  (List.range 8).foldl (fun s m => s.resetCore (memberCore k m)) s

/-- A packet of an operation that a core or a Mason of this module has issued; those of the host ports go on (R361). -/
def State.ownOp (s : State) (p : Packet) : Bool := s.isSelf p.srcModule.toNat && decide (p.srcUnit.toNat < 580)

/-- The module's own open operations count as ended (R367): what they have under way inside the module is dropped. What
peers have sent goes on (R361). (DESIGN CHOICE, log entry 98) -/
def State.endOwn (s : State) : State :=
  let mine := s.mortar.packs.filter (fun k => s.ownOp k.pkt)
  let dead (f : Frag) : Bool := mine.any (fun k => k.num = f.pkt)
  let own (k : Confirm) : Bool := s.ownOp { srcModule := k.module, srcUnit := k.unit }
  let s := ((s.net.flight ++ s.net.routeWait).filter (fun f => s.ownOp f.pkt)).foldl State.freeFlight s
  let s := { s with
    net := { s.net with
      flight := s.net.flight.filter (fun f => !s.ownOp f.pkt), routeWait := s.net.routeWait.filter (fun f => !s.ownOp f.pkt)
      confirms := s.net.confirms.filter (fun k => !own k), got := s.net.got.filter (fun k => !own k)
      landings := s.net.landings.filter (fun l => !s.ownOp l.pkt), resend := s.net.resend.filter (fun p => !s.ownOp p)
      replies := [], chainRounds := [] }
    mortar := { s.mortar with
      frags := s.mortar.frags.filter (fun f => !dead f), joins := s.mortar.joins.filter (fun f => !dead f)
      packs := s.mortar.packs.filter (fun k => !mine.contains k) } }
  let s := (List.range 4).foldl (fun s m => s.modMason m (fun x => { x with slots := [] })) s
  (List.range 2).foldl (fun s p => s.modPort p (fun q => { q with slots := [] })) s

/-- A compute reset begins (R361): every scratchpad, cluster memory and context is lost, and the fast tier is held in
self-refresh; operations in flight count as ended (R367). -/
def State.computeReset (s : State) (src : BitVec 4) : State :=
  let s := (s.recordReset domCompute src).endOwn
  let s := (List.range 72).foldl State.resetCluster s
  let s := (List.range 576).foldl (fun s c => s.modRun c (fun r => { r with state := .reset })) s
  { s with ft := { s.ft with selfRefresh := true }, plb := { s.plb with computing := some src } }

/-! ## Package and module resets (R361, R364, R372) -/

/-- The Plumb through a reset that includes it (R455): what flash and the counts since cold start hold stays. -/
def Plumb.reset (p : Plumb) : Plumb :=
  { p with
    sramUnit := 0, resetReq := [], dumpState := 0, dumpWant := [], dumpNow := none, dumpNowUnread := 0, timedOut := []
    computing := none, uptime := 0, temps := [], rails := [], cluCur := [], upd := {} }

/-- A slow-tier channel through a reset of its Mason: the counts since cold start stay. -/
def Chan.reset (c : Chan) : Chan := { live := c.live, corrected := c.corrected, uncorrected := c.uncorrected, retrains := c.retrains }

/-- A pseudo-channel through a reset of its plinth die: the count since cold start stays (R387). -/
def Pch.reset (p : Pch) : Pch := { corrected := p.corrected }

/-- The Masons through a reset (R361, R485): a package reset ends their commands; a module reset, which includes them,
takes their state, the mirror block in force and the chunk counts too. The slow tier and the group tables in it stay. -/
def MasonBlk.reset (b : MasonBlk) (whole : Bool) : MasonBlk :=
  let r : MasonBlk :=
    { units := b.units.map (fun m => (m.1,
        if whole then { table := m.2.table }
        else { table := m.2.table, done := m.2.done, frozen := m.2.frozen, nonfinite := m.2.nonfinite }))
      chans := b.chans.map (fun c => (c.1, c.2.reset)), lift := b.lift, selfRefresh := true }
  if whole then r else { r with blk := b.blk, kOut := b.kOut, kIn := b.kIn }

/-- A link through a reset that includes its quoin die (R283, R287): the lanes' totals since cold start stay, and a FAILED
link stays FAILED. -/
def Link.reset (l : Link) : Link :=
  let l' : Link := { laneErr := l.laneErr.map (fun e => (e.1, { e.2 with window := 0 })) }
  if l.state = lkFailed then { l' with state := l.state, cause := l.cause } else l'

/-- A host port through a reset of its link and configuration (R390): PERST# stays as it is driven, and so does the mark
that this assertion has its module reset (R473). -/
def Port.reset (p : Port) : Port := { perst := p.perst, perstDone := p.perstDone }

/-- The chain port through a reset: what its cables bring stays. -/
def Chain.pins (c : Chain) : Chain := { inCable := c.inCable, outCable := c.outCable, rdyIn := c.rdyIn && c.outCable }

/-- The memories that a package reset loses. -/
def packageRegions : List Nat :=
  fastRegion :: (List.range 72).flatMap (fun k =>
    clusterRegion k :: (List.range 64).map (fun i => 10000 + 64 * k + i)) ++ (List.range 576).map spadRegion

/-- The package is asserted in reset (R361, R372): notices sent, logs written, the bypass closed, everything but the
slow tier lost. FAILED is left only through a cold start (R363). -/
def State.packageReset (s : State) (dom src : BitVec 4) : State :=
  let st := if s.job.st = .failed then ModState.failed else .unset
  let s := (s.recordReset dom src).sendLeave.writeLog
  let s := (s.setMod st).loseRegions packageRegions
  { s with
    cores := [], clusters := [], net := {}, mortar := { epoch := s.msn.lift.closed }, job := { st := st }
    ft := { retired := s.ft.retired, installed := s.ft.installed, rebuilds := s.ft.rebuilds
            pchs := s.ft.pchs.map (fun p => (p.1, p.2.reset)) }
    lnk := { links := s.lnk.links.map (fun l => (l.1, l.2.reset)), cage := s.lnk.cage, cut := s.lnk.cut,
             retiredLanes := s.lnk.retiredLanes }
    chain := s.chain.pins
    msn := s.msn.reset (decide (dom = domModule))
    ports := s.ports.map (fun p => (p.1, p.2.reset))
    plb := s.plb.reset
    start := { img := s.start.img, flash := s.start.flash, flashOk := s.start.flashOk, rpmc0 := s.start.rpmc0,
               rpmc1 := s.start.rpmc1, torn := s.start.torn, inReset := true, short := true
               pairOpen := s.start.pairOpen, stay := decide (s.start.pairOpen ≠ 0) } }

/-- A module reset: the third in 30 minutes of which none reached SET enters FAILED (R363, RESET_EXHAUSTED). -/
def State.moduleReset (s : State) (src : BitVec 4) : State :=
  let s := s.packageReset domModule src
  let recent := (s.plb.moduleResets ++ [s.plb.powered]).filter (fun t => decide (s.plb.powered ≤ t + 180000000000))
  let s := s.modPlb (fun p => { p with moduleResets := recent })
  if 3 ≤ recent.length then s.enterFailed 4 else s

/-! ## Loss of power (R361, R450) -/

/-- The threshold of a shedding step, 1–6, or of the power-off, 7, in 10 mV. -/
def State.shedAt (s : State) (n : Nat) : Nat := 10 * s.start.img.shed.getD (n - 1) 0

/-- The input above which the module that is off starts again (R450): S1 plus the hysteresis. -/
def State.restartLevel (s : State) : Nat := s.shedAt 1 + 10 * s.start.img.hysteresis

/-- Everything outside the flash is lost (R361): what remains is the flash, the cables in their cages and ports, and
the levels that the outside drives. -/
def State.powerDown (s : State) : State :=
  let m : SMap Nat := ((List.range 4).map slowRegion ++ packageRegions).foldl
    (fun m r => SMap.set m r (s.losses + 1)) []
  { State.reset with
    pending := s.pending, out := s.out, free := s.free, losses := s.losses + 1
    mem := { cells := [], lost := m }
    lnk := { cage := s.lnk.cage }
    chain := s.chain.pins
    ports := s.ports.map (fun p => (p.1, p.2.reset))
    plb := { ring := s.plb.ring, errFlash := s.plb.errFlash, dumpSeq := s.plb.dumpSeq }
    pwr := { input := s.pwr.input, vin := s.pwr.vin, strap := s.pwr.strap, restartAt := s.restartLevel }
    start := { flash := s.start.flash, flashOk := s.start.flashOk, rpmc0 := s.start.rpmc0, rpmc1 := s.start.rpmc1
               torn := s.tornSlots } }

end Sys2Proof.Machine
end

