-- ==== Sys2Proof/Machine/Dump.lean ====
section
/-! DEFINITION. Crash dumps (R379–R382, R386): capture over the scan path, timeouts, and the flash. -/

namespace Sys2Proof.Machine

/-- The data words of a unit of each type (R382). -/
def unitWords : Nat → Nat
  | 1 => 256 | 2 => 64 | 3 => 512 | 4 => 256 | 5 => 128 | 6 => 128 | 7 => 256
  | _ => 0

/-- The units of a dump in order: type and index (R382). -/
def dumpUnits : List (Nat × Nat) :=
  let all (ty n : Nat) : List (Nat × Nat) := (List.range n).map (fun i => (ty, i))
  all 1 608 ++ all 2 72 ++ all 3 8 ++ all 4 2 ++ all 5 2 ++ all 6 4 ++ all 7 1

/-- The spare positions that run a core, by die and position. -/
def State.sparesUsed (s : State) : List (Nat × Nat) :=
  s.cores.filterMap (fun k => k.2.run.spare.map (fun p => (coreDie k.1, p)))

/-- A core position is a spare that runs no core (R382). -/
def State.unusedSpare (s : State) (idx : Nat) : Bool :=
  decide (72 ≤ idx % 76) && !s.sparesUsed.contains (idx / 76, idx % 76)

/-- Registers of a block at the given offsets. -/
def regWords (f : Nat → Option Word) (l : List Nat) : List (Option Word) := l.map (fun r => some ((f r).getD 0))
/-- Offsets of `n` words from `o` on. -/
def wordOffs (o n : Nat) : List Nat := (List.range n).map (fun i => o + 8 * i)
/-- Four 16-bit values in a word. -/
def packed (f : Nat → BitVec 16) (i : Nat) : Word :=
  fields ((List.range 4).map (fun j => (16 * j, (f (4 * i + j)).toNat)))

/-- The logical core that a core position runs. -/
def State.coreAtPos (s : State) (die pos : Nat) : Option Nat :=
  (List.range 576).find? (fun c => decide (coreDie c = die) && decide ((s.core c).run.spare.getD (coreGrid c) = pos))

/-- What a core position holds (R382): CORE_ registers and course log, strands, fill marks, the array queue, slot masks,
misfit counter, rstat. -/
def State.coreContent (s : State) (c : Nat) : List (Option Word) :=
  let k := s.core c
  let mark (i : Nat) : Nat := (SMap.get {} k.regs.marks i).code
  let strand (t : Nat) : List (Option Word) :=
    let x := s.strand c t
    some x.ip :: some (BitVec.ofNat 64 x.flags) :: (List.range 31).map (fun i => some (SMap.get 0 x.regs (i + 1)))
  regWords (s.coreWord c) (wordOffs 0 6 ++ wordOffs 0x100 32 ++ wordOffs 0x200 16) ++ (List.range 4).flatMap strand ++
  (List.range 16).map (fun i => some (fields [(32, mark (2 * i + 1)), (0, mark (2 * i))])) ++ List.replicate 8 none ++
  [some (fields [(16, (k.eng.remotes.map (fun p => 2 ^ p.1)).sum), (0, (k.eng.copies.map (fun p => 2 ^ p.1)).sum)]),
   some (k.run.misfit.setWidth 64),
   some (fields ((List.range 4).map (fun t => (2 * t, (s.strand c t).rstat.toNat))))]

/-- What a plinth die holds (R382): the queue depths and states of its pseudo-channels, its adders' queues and join slots;
the state of its read buffer has no form in the spec. -/
def State.plinthContent (s : State) (i : Nat) : List (Option Word) :=
  (List.range 64).flatMap (fun j =>
    let p := SMap.get {} s.ft.pchs (64 * i + j)
    [some (fields [(32, p.ingress.length), (16, p.bulk.length), (0, p.crit.length)]),
     some (s.pchErr (64 * i + j) 0), some (s.pchErr (64 * i + j) 1)]) ++
  [2 * i, 2 * i + 1].flatMap (fun a =>
    [some (BitVec.ofNat 64 (s.adderQueue a)), some (BitVec.ofNat 64 (s.joinsAt a).length)])

/-- What a quoin die holds (R382): LNK_ state, credits and replay pointers of its six links. -/
def State.quoinContent (s : State) (i : Nat) : List (Option Word) :=
  (List.range 6).flatMap (fun j =>
    let l := 6 * i + j
    let k := (s.link l).ch
    regWords s.lnkWord (wordOffs (0x1000 * l) 7 ++ wordOffs (0x1000 * l + 0x40) 8) ++
    [some (fields [(32, k.usedReq), (0, k.usedRsp)]), some (fields [(32, k.retReq), (0, k.retRsp)]),
     some (fields [(32, k.replayBuf.length), (16, k.txSeq.toNat), (0, k.rxSeq.toNat)])])

/-- What a lintel die holds (R382): port state, work-list pointers, AER status. -/
def State.lintelContent (s : State) (i : Nat) : List (Option Word) :=
  regWords (s.portWord i) (wordOffs 0 4 ++ wordOffs 0x100 32) ++
    [some (fields [(32, (s.port i).aerU.toNat), (0, (s.port i).aerC.toNat)])]

/-- What a Mason holds (R382): MSN_UNIT_ state, group index, its lift header copy. -/
def State.masonContent (s : State) (i : Nat) : List (Option Word) :=
  regWords s.msnWord (wordOffs (0x100 + 0x20 * i) 4) ++ [some (BitVec.ofNat 64 (s.mason i).next)] ++
  (List.range 8).map (fun j => some (s.mem.word (slowKey (i * 2 ^ 38) + 8 * j)))

/-- What the Plumb holds (R382): PLB_ fault registers, and the readings of its sensors. -/
def State.plumbContent (s : State) : List (Option Word) :=
  regWords s.plbWord (wordOffs 0x80000 5) ++
  (List.range 32).map (fun i => some (packed (fun j => (SMap.get {} s.plb.temps j).now) i)) ++
  (List.range 22).map (fun i =>
    let r := SMap.get {} s.plb.rails i
    some (fields [(32, r.peak.toNat), (16, r.amps.toNat), (0, r.mv.toNat)])) ++
  (List.range 18).map (fun i => some (packed (SMap.get 0 s.plb.cluCur) i)) ++
  [some (fields [(16, s.pwr.pin.toNat), (0, s.pwr.vin.toNat)])]

/-- What a unit holds of the content that R382 lists, in the order of that list (DESIGN CHOICE, log entry 41). -/
def State.unitContent (s : State) (ty idx : Nat) : List (Option Word) :=
  match ty with
  | 1 => match s.coreAtPos (idx / 76) (idx % 76) with
    | some c => s.coreContent c
    | none => []
  | 2 => regWords (s.cluWord idx) (wordOffs 0 8 ++ wordOffs 0x100 32)
  | 3 => s.plinthContent idx
  | 4 => s.quoinContent idx
  | 5 => s.lintelContent idx
  | 6 => s.masonContent idx
  | _ => s.plumbContent

/-- Data word `i` of a unit: what its content has there, and a free value where the spec gives no form or no content. -/
def unitWord (content : List (Option Word)) (free i : Nat) : Word :=
  match content[i]? with
  | some (some w) => w
  | _ => Config.freeWord (free + i)

/-- One unit record (R382): its bytes, and whether it is neither READ nor UNUSED. The order of the words within a unit is
not given (DESIGN CHOICE, log entry 41). -/
def State.unitRecord (s : State) (ty idx free : Nat) : List Byte × Bool :=
  if ty = 1 ∧ s.unusedSpare idx then
    (wordBytes (fields [(56, ty), (40, idx), (38, 3)]) ++ wordBytes (BitVec.ofNat 64 s.chain.time), false)
  else
    let n := unitWords ty
    let content := s.unitContent ty idx
    let read := match s.plb.timedOut.find? (fun x => x.1 = ty ∧ x.2.1 = idx) with
      | some x => x.2.2
      | none => n
    let status := if read = n then 0 else if read = 0 then 2 else 1
    let data := (List.range n).flatMap (fun i => wordBytes (if i < read then unitWord content free i else 0))
    let valid := (List.range ((n + 63) / 64)).flatMap (fun w =>
      wordBytes (BitVec.ofNat 64 ((List.range 64).map (fun b => b2n (decide (64 * w + b < read)) * 2 ^ b)).sum))
    (wordBytes (fields [(56, ty), (40, idx), (38, status), (0, n)]) ++ wordBytes (BitVec.ofNat 64 s.chain.time) ++
      data ++ valid, decide (status ≠ 0))

/-- Every unit record, with the free values each takes: 512 for every unit. -/
def State.unitRecords (s : State) : List (List Byte × Bool) :=
  ((List.range dumpUnits.length).zip dumpUnits).map (fun u => s.unitRecord u.2.1 u.2.2 (s.free + 512 * u.1))

/-- The dump of a trigger, and its records that are neither READ nor UNUSED (R381). -/
def State.dumpOf (s : State) (trigger : BitVec 4) : List Byte × Nat :=
  let rs := s.unitRecords
  let body := rs.flatMap (fun r => r.1)
  let head (crc : Word) : List Byte :=
    wordBytes (fields [(60, 1), (56, trigger.toNat), (0, rs.length)]) ++ wordBytes (s.plb.dumpSeq + 1) ++
    wordBytes s.msn.lift.closed ++ wordBytes s.chain.edges ++ wordBytes (BitVec.ofNat 64 s.chain.time) ++
    wordBytes s.faultState ++ wordBytes (BitVec.ofNat 64 (64 + body.length)) ++ wordBytes crc
  (head (crc64 (head 0 ++ body)) ++ body, (rs.filter (fun r => r.2)).length)

/-- Capture a dump (R380). -/
def State.captureDump (s : State) (trigger : BitVec 4) : State :=
  let d := s.dumpOf trigger
  (s.modPlb (fun p => { p with
    dumpState := 2, dumpNow := some (trigger, d.1), dumpNowUnread := BitVec.ofNat 16 d.2, timedOut := [] })).useFrees
    (512 * dumpUnits.length)

/-- Write bytes to the flash. -/
def State.flashWrite (s : State) (off : Nat) (bs : List Byte) : State :=
  s.modStart (fun x => { x with
    flash := ((List.range bs.length).zip bs).foldl (fun m p => SMap.put 0xFF m (off + p.1) p.2) x.flash })

/-- A byte of the lifetime log's area of the flash (R421, R457): 32 slots of 256 KiB, the record of each sequence number in
the slot of its residue. (DESIGN CHOICE, log entry 40) -/
def Plumb.ringByte (p : Plumb) (o : Nat) : Byte :=
  match p.ring.find? (fun r => decide (r.logSeq % 32 = o / 2 ^ 18)) with
  | some r => r.byte (o % 2 ^ 18)
  | none => 0xFF

/-- A byte of the error log's area of the flash (R421, R460): 64-byte entries, oldest first, each the powered minute, the
cause code and the unit. (DESIGN CHOICE, log entry 40) -/
def Plumb.errByte (p : Plumb) (o : Nat) : Byte :=
  match p.errFlash[o / 64]? with
  | some e => (leBytes 8 e.1 ++ leBytes 8 e.2.1 ++ leBytes 8 e.2.2).getD (o % 64) 0
  | none => 0xFF

/-- A byte of the flash at its offset (R421); an erased one reads as 0xFF. -/
def State.flashByte (s : State) (o : Nat) : Byte :=
  if within o 0x1920000 0x800000 then s.plb.ringByte (o - 0x1920000)
  else if within o 0x2120000 0x400000 then s.plb.errByte (o - 0x2120000)
  else SMap.get 0xFF s.start.flash o

/-- Read bytes of the flash. -/
def State.flashRead (s : State) (off n : Nat) : List Byte := (List.range n).map (fun i => s.flashByte (off + i))

/-- Erase bytes of the flash. -/
def State.flashErase (s : State) (off n : Nat) : State :=
  s.modStart (fun x => { x with flash := SMap.clear x.flash off (off + n) })

/-- Offset of a dump slot (R421). -/
def dumpSlotAt (slot : Nat) : Nat := 0x2520000 + slot * 2 ^ 21

/-- The dump is in flash, over the older one (R379, R386): the slots take turns, slot 0 first (DESIGN CHOICE, log entry
107). A command's dump also goes to its buffer, and the command completes. -/
def State.commitDump (s : State) : State :=
  match s.plb.dumpNow with
  | none => s
  | some (trigger, bs) =>
    let slot := s.plb.dumpSeq.toNat % 2
    let s := (s.flashErase (dumpSlotAt slot) (2 ^ 21)).flashWrite (dumpSlotAt slot) bs
    let s := s.modPlb (fun p => { p with
      dumpSeq := p.dumpSeq + 1, dumpTrigger := trigger, dumpSlot := BitVec.ofNat 8 slot, dumpNow := none
      dumpUnread := p.dumpNowUnread
      dumpState := if p.dumpWant.isEmpty then 0 else 1 })
    let s := (s.logOp 6).msixBoth 5
    if trigger ≠ 1 then s else
    match s.job.dump with
    | none => s
    | some k =>
      let s := s.modJob (fun j => { j with dump := none })
      let s := if k.a = 0 then s else s.fastWrite (k.a.toNat % 2 ^ 46) bs
      s.complete k

/-- SCAN_READ_TIMEOUT (R380): the unit's remaining words are recorded as unreadable; how many had been read is free.
(DESIGN CHOICE, log entry 41) -/
def execScanReadTimeout (ty idx : Nat) (s : State) : Host.Outcome State Fault Refusal :=
  .next (
    if s.plb.dumpState ≠ 1 ∨ !dumpUnits.contains (ty, idx) then s
    else
      let k := s.freeVal.toNat % max 1 (unitWords ty)
      (s.modPlb (fun p => { p with timedOut := p.timedOut ++ [(ty, idx, k)] })).useFree)

end Sys2Proof.Machine
end

