-- ==== Sys2Proof/Machine/Image.lean ====
section
/-! DEFINITION. Images in flash (R420–R428, R461): layout, checks, and the fields that an accepted setting-out image
gives. -/

namespace Sys2Proof.Machine

/-! ## Slots and headers (R421, R422) -/

/-- Bytes of a slot. -/
def ImgKind.size : ImgKind → Nat
  | .firmware => 2 ^ 23
  | .setout => 2 ^ 22

/-- The magic of an image (R422, R461). -/
def ImgKind.magic : ImgKind → Nat
  | .firmware => 0x46505754
  | .setout => 0x4F535754

/-- The purpose bit that a key record needs (R422, R461). -/
def ImgKind.purpose : ImgKind → Nat
  | .firmware => 1
  | .setout => 0

/-- The header of an image. -/
structure ImgHead where
  magic : Nat
  gen : Nat
  sections : Nat
  floor : W32
  version : W32
  length : Nat
  key : Nat
  /-- a reserved field is not zero -/
  rsv : Bool
deriving DecidableEq, Repr

/-- The header that 64 bytes hold. -/
def imgHead (bs : List Byte) : ImgHead :=
  let w (i : Nat) : Nat := leNat (slice bs (8 * i) 8)
  { magic := bitsOf (w 0) 32 32, gen := bitsOf (w 0) 28 4, sections := bitsOf (w 0) 0 8,
    floor := BitVec.ofNat 32 (bitsOf (w 1) 32 32), version := BitVec.ofNat 32 (bitsOf (w 1) 0 32),
    length := bitsOf (w 2) 32 32, key := bitsOf (w 2) 0 3,
    rsv := decide (bitsOf (w 0) 8 20 ≠ 0 ∨ bitsOf (w 2) 3 29 ≠ 0) || (slice bs 24 40).any (fun b => b != 0) }

/-- A directory entry. -/
structure ImgEntry where
  ty : Nat
  gen : Nat
  skipOk : Bool
  offset : Nat
  size : Nat
  rsv : Bool
deriving DecidableEq, Repr

/-- The entry that 16 bytes hold. -/
def imgEntry (bs : List Byte) : ImgEntry :=
  let a := leNat (slice bs 0 8)
  let b := leNat (slice bs 8 8)
  { ty := bitsOf a 48 16, gen := bitsOf a 44 4, skipOk := bitOf a 43, offset := bitsOf a 0 32, size := bitsOf b 0 32,
    rsv := decide (bitsOf a 32 11 ≠ 0 ∨ bitsOf b 32 32 ≠ 0) }

/-- An image as the flash holds it: its header and its directory. -/
structure ImgView where
  kind : ImgKind
  slot : Bool
  head : ImgHead
  entries : List ImgEntry

/-- The image in a slot. -/
def State.imgView (s : State) (k : ImgKind) (slot : Bool) : ImgView :=
  let h := imgHead (s.flashRead (k.base slot) 64)
  { kind := k, slot := slot, head := h,
    entries := (List.range h.sections).map (fun i => imgEntry (s.flashRead (k.base slot + 64 + 16 * i) 16)) }

/-- Bytes of a section, zero beyond its end. -/
def State.sectionBytes (s : State) (v : ImgView) (e : ImgEntry) : List Byte :=
  s.flashRead (v.kind.base v.slot + e.offset) e.size

/-- The directory entry that gives a section: the one of its type that is taken. -/
def ImgView.entry (v : ImgView) (ty : Nat) : Option ImgEntry := v.entries.find? (fun e => e.ty = ty ∧ e.gen = 1)

/-- The bytes of a section of a setting-out image, none where it is absent. -/
def State.imgSection (s : State) (v : ImgView) (ty : Nat) : List Byte :=
  match v.entry ty with
  | some e => s.sectionBytes v e
  | none => []

/-! ## Checks (R423, R461) -/

/-- Reason codes of a check that fails (R439). -/
def rsnFlash : BitVec 4 := 1
/-- NO_IMAGE. -/
def rsnNoImage : BitVec 4 := 2
/-- KEY. -/
def rsnKey : BitVec 4 := 3
/-- SIGNATURE. -/
def rsnSignature : BitVec 4 := 4
/-- ROLLBACK. -/
def rsnRollback : BitVec 4 := 5
/-- SECTION. -/
def rsnSection : BitVec 4 := 6
/-- VALUE. -/
def rsnValue : BitVec 4 := 7
/-- IDENT. -/
def rsnIdent : BitVec 4 := 8
/-- FIRMWARE. -/
def rsnFirmware : BitVec 4 := 9

/-- The boot header. -/
def State.bootHeader (s : State) : List Byte := s.flashRead 0 65536

/-- The root public key, where its hash is the one the boot ROM holds. -/
def State.rootKey (s : State) : Option (List Byte) :=
  let k := Config.rootKey s.bootHeader
  if sha512 k = Config.rootKeyHash then some k else none

/-- A public key of the flash. -/
def publicKey (bs : List Byte) : RsaKey :=
  let k := Config.pubKey bs
  { n := k.1, e := k.2 }

/-- The key that an image names, where it is usable. -/
def State.imgKey (s : State) (k : ImgKind) (n : Nat) : Option (List Byte) :=
  match s.rootKey with
  | none => none
  | some root =>
    if n = 0 then some root
    else if 4 < n then none
    else
      let r := Config.keyRecord s.bootHeader n
      if r.2.1.getLsbD k.purpose && rsaVerify (publicKey root) r.2.2.1 r.2.2.2 then some r.1 else none

/-- The signature over an image holds: that of a slot whose write a loss of input cut off does not (R424). -/
def State.imgSigned (s : State) (v : ImgView) (key : List Byte) : Bool :=
  let b := v.kind.base v.slot
  !s.start.torn.contains b && rsaVerify (publicKey key) (s.flashRead b v.head.length) (s.flashRead (b + v.head.length) 512)

/-- magic, gen, section count and length (R423): the signature lies in the slot too (R422). -/
def ImgView.formOk (v : ImgView) : Bool :=
  decide (v.head.magic = v.kind.magic ∧ v.head.gen = 1 ∧ v.head.length + 512 ≤ v.kind.size) &&
  (match v.kind with
    | .setout => decide (1 ≤ v.head.sections ∧ v.head.sections ≤ 64)
    | .firmware => decide (v.head.sections = 1))

/-- The bytes that R426 gives a section, by its type; the counts of SPARE and FTIER say how many entries follow.
(DEDUCED, log entry 27) -/
def sectionSize (ty : Nat) (bs : List Byte) : Nat :=
  match ty with
  | 1 => 0x12
  | 2 => let n := (bs.getD 0 0).toNat
         if n = 0 then 1 else 4 * n + 3
  | 3 => 0x0A
  | 4 => let n := (bs.getD 0x16 0).toNat
         if n = 0 then 0x17 else 0x18 + 2 * n
  | 5 => 0x26
  | 6 => 0x12
  | 7 => 1
  | 8 => 0x0E
  | 9 => 0x0F
  | _ => 56

/-- An entry is skipped: a later type, or another generation, that allows it (R423). -/
def ImgEntry.skipped (e : ImgEntry) : Bool := e.skipOk && decide (0x100 ≤ e.ty ∨ e.gen ≠ 1)

/-- Two entries share bytes. -/
def ImgEntry.overlaps (a b : ImgEntry) : Bool := decide (a.offset < b.offset + b.size) && decide (b.offset < a.offset + a.size)

/-- No two entries of a list share bytes. -/
def disjointEntries : List ImgEntry → Bool
  | [] => true
  | e :: es => es.all (fun f => !e.overlaps f) && disjointEntries es

/-- The SECTION check of a setting-out image (R423). (DEDUCED, log entry 27) -/
def State.sectionsOk (s : State) (v : ImgView) : Bool :=
  let es := v.entries
  es.all (fun e => decide (e.offset + e.size ≤ v.head.length)) && disjointEntries es &&
  es.all (fun e => decide (e.ty ≠ 0) && !decide (0xB ≤ e.ty ∧ e.ty < 0x100) &&
    (!decide (0x100 ≤ e.ty ∨ e.gen ≠ 1) || e.skipOk)) &&
  (List.range 10).all (fun i =>
    let mine := es.filter (fun e => e.ty = i + 1 ∧ e.gen = 1)
    decide (mine.length = 1) && mine.all (fun e => decide (sectionSize (i + 1) (s.sectionBytes v e) ≤ e.size)))

/-- The SECTION check of a firmware image (R461): its one section holds the code. -/
def ImgView.codeOk (v : ImgView) : Bool :=
  v.entries.all (fun e => decide (e.ty = 1 ∧ e.gen = 1 ∧ e.offset + e.size ≤ v.head.length))

/-! ## The fields (R426) -/

/-- An unsigned field of a section. -/
def fieldAt (bs : List Byte) (o n : Nat) : Nat := leNat (slice bs o n)

/-- The SPARE entries. -/
def spareEntries (bs : List Byte) : List Replacement :=
  (List.range (fieldAt bs 0 1)).map (fun i =>
    { die := fieldAt bs (4 + 4 * i) 1, grid := fieldAt bs (5 + 4 * i) 1, spare := fieldAt bs (6 + 4 * i) 1 })

/-- `lo ≤ v ≤ hi`. -/
def inRange (v lo hi : Nat) : Bool := decide (lo ≤ v) && decide (v ≤ hi)

/-- Nothing in a list stands twice. -/
def distinct {α : Type} [DecidableEq α] (l : List α) : Bool := decide l.Nodup

/-- The order of a finite FP32 value: its magnitude with its sign. -/
def w32Key (v : W32) : Int := if v.msb then -(v.toNat % 2 ^ 31 : Nat) else (v.toNat : Nat)

/-- An FP32 value is finite. -/
def w32Finite (v : W32) : Bool := decide (bitsOf v.toNat 23 8 ≠ 255)

/-- Each element at or below the one before, by a distance at least `d`. -/
def descending (d : Nat) : List Nat → Bool
  | a :: b :: l => decide (b + d ≤ a) && descending d (b :: l)
  | _ => true

/-- The fields of a setting-out image. -/
def State.imageOf (s : State) (v : ImgView) : Image :=
  let sec := s.imgSection v
  let pair (i : Nat) : W32 × W32 :=
    (BitVec.ofNat 32 (fieldAt (sec 10) (8 * i) 4), BitVec.ofNat 32 (fieldAt (sec 10) (8 * i + 4) 4))
  { version := v.head.version, floor := v.head.floor, spares := spareEntries (sec 2)
    points := (List.range 4).map (fun i => fieldAt (sec 3) (2 * i) 2), powerLimit := fieldAt (sec 3) 8 2
    ftModes := slice (sec 4) 0 16, bulkThreshold := fieldAt (sec 4) 0x10 1, marginFloor := fieldAt (sec 4) 0x11 1
    ftCeLimit := fieldAt (sec 4) 0x12 2, ftWindow := fieldAt (sec 4) 0x14 2
    ftRetired := (List.range (fieldAt (sec 4) 0x16 1)).map (fun i => fieldAt (sec 4) (0x18 + 2 * i) 2)
    slowModes := slice (sec 5) 0 32, slowCeLimit := fieldAt (sec 5) 0x20 2, slowWindow := fieldAt (sec 5) 0x22 2
    slowRetired := fieldAt (sec 5) 0x24 2
    linkCfg := (List.range 12).map (fun i => fieldAt (sec 6) i 1 % 8), laneWindow := fieldAt (sec 6) 0x0C 4
    laneErrLimit := fieldAt (sec 6) 0x10 2
    joinLowest := decide (fieldAt (sec 7) 0 1 = 1)
    courseMin := fieldAt (sec 8) 0 4, courseMax := fieldAt (sec 8) 4 4, rwQuiesce := fieldAt (sec 8) 8 2
    latchThreshold := fieldAt (sec 8) 0xA 1, fillerEn := bitOf (fieldAt (sec 8) 0xB 1) 0
    zeroGateEn := bitOf (fieldAt (sec 8) 0xB 1) 1
    shed := (List.range 7).map (fun i => fieldAt (sec 9) (2 * i) 2), hysteresis := fieldAt (sec 9) 0xE 1
    rules := (List.range 7).map pair }

/-- The VALUE check (R423, R426). (DEDUCED, log entry 74) -/
def State.valuesOk (s : State) (v : ImgView) : Bool :=
  let i := s.imageOf v
  let ident := s.imgSection v 1
  let course := s.imgSection v 8
  inRange (fieldAt ident 0x10 1) 1 2 && decide (fieldAt ident 0x11 1 = 0xB0) &&
  decide (i.spares.length ≤ 32) &&
  i.spares.all (fun r => decide (r.die < 8) && decide (r.grid < 72) && inRange r.spare 72 75) &&
  distinct (i.spares.map (fun r => (r.die, r.grid))) && distinct (i.spares.map (fun r => (r.die, r.spare))) &&
  i.points.all (fun p => inRange p 1000 2700 && decide (p % 100 = 0)) && descending 0 i.points &&
  inRange i.powerLimit 3000 6000 &&
  inRange i.bulkThreshold 1 64 && inRange i.marginFloor 4 32 && inRange i.ftCeLimit 64 65535 &&
  inRange i.ftWindow 60 3600 && decide (i.ftRetired.length ≤ 7) && i.ftRetired.all (fun p => decide (p < 512)) &&
  distinct i.ftRetired &&
  inRange i.slowCeLimit 64 65535 && inRange i.slowWindow 60 3600 &&
  (List.range 4).all (fun m => decide ((setBits 4 (i.slowRetired / 2 ^ (4 * m))).length ≤ 1)) &&
  inRange i.laneWindow 10 60000 && inRange i.laneErrLimit 8 4096 &&
  decide (fieldAt (s.imgSection v 7) 0 1 ≤ 1) &&
  inRange i.courseMin 2000 10000000 && inRange i.courseMax i.courseMin 10000000 && inRange i.rwQuiesce 10 1000 &&
  inRange i.latchThreshold 1 15 && decide (fieldAt course 0xC 1 = 48) && decide (fieldAt course 0xD 1 = 8) &&
  decide (i.shed.headD 0 ≤ 500) && descending 10 i.shed && decide (350 ≤ i.shed.getD 6 0) && inRange i.hysteresis 5 20 &&
  i.rules.all (fun r => w32Finite r.1 && w32Finite r.2 && decide (w32Key r.1 ≤ w32Key r.2))

/-- The IDENT check (R423, R426): serial number and variant are the module's. (DEDUCED, log entry 74) -/
def State.identOk (s : State) (v : ImgView) : Bool :=
  let b := s.imgSection v 1
  decide (slice b 0 16 = Config.serial) && decide (fieldAt b 0x10 1 = if Config.variantB then 2 else 1)

/-- The checks of a slot in their order: the reason of the first that fails, 0 where all pass (R423, R461). (DEDUCED,
log entry 74) -/
def State.checkSlot (s : State) (k : ImgKind) (slot : Bool) : BitVec 4 :=
  let v := s.imgView k slot
  let rpmc := match k with
    | .firmware => s.start.rpmc0
    | .setout => s.start.rpmc1
  if !v.formOk then rsnNoImage else
  match s.imgKey k v.head.key with
  | none => rsnKey
  | some key =>
    if !s.imgSigned v key then rsnSignature
    else if v.head.version.toNat < rpmc.toNat then rsnRollback
    else match k with
      | .firmware => if v.codeOk then 0 else rsnSection
      | .setout =>
        if !s.sectionsOk v then rsnSection
        else if !s.valuesOk v then rsnValue
        else if !s.identOk v then rsnIdent
        else 0

/-- The slots in the order in which they are tried: highest version first, A first when they are equal (R423). -/
def State.slotOrder (s : State) (k : ImgKind) : List Bool :=
  if (s.imgView k false).head.version.toNat < (s.imgView k true).head.version.toNat then [true, false] else [false, true]

/-- Try the slots: the slot accepted, and the reason of the last check that failed. -/
def State.trySlots (s : State) (k : ImgKind) : Option Bool × BitVec 4 :=
  (s.slotOrder k).foldl (fun r slot => match r.1 with
    | some _ => r
    | none => let c := s.checkSlot k slot
              if c = 0 then (some slot, r.2) else (none, c)) (none, 0)

/-! ## What an accepted image counts (R8, R423) -/

/-- Non-zero reserved fields, and bytes past a section's defined fields, that the image holds. -/
def State.imgReserved (s : State) (v : ImgView) : Nat :=
  let sec := s.imgSection v
  let taken := v.entries.filter (fun e => !e.skipped)
  b2n v.head.rsv + (v.entries.filter (fun e => e.rsv)).length +
  (taken.filter (fun e =>
    let b := s.sectionBytes v e
    (b.drop (sectionSize e.ty b)).any (fun x => x != 0))).length +
  ((List.range 12).filter (fun i => decide (8 ≤ fieldAt (sec 6) i 1))).length + b2n (decide (4 ≤ fieldAt (sec 8) 0xB 1))

/-- Count what an accepted image sets in reserved fields, and the sections it skips. (DEDUCED, log entry 27) -/
def State.countImage (s : State) (v : ImgView) : State :=
  let s := s.violateAll (List.replicate (s.imgReserved v) .reservedSet)
  s.violateAll ((v.entries.filter ImgEntry.skipped).map (fun _ => .generation))

end Sys2Proof.Machine
end

