-- ==== Sys2Proof/Machine/Reset.lean ====
section
/-! DEFINITION. Resets as they are requested, performed and released (R361, R362, R372, R379, R385, R390), the host
ports' links, and the Plumb's periodic work. -/

namespace Sys2Proof.Machine

/-! ## Requests (R361, R379, R385) -/

/-- A requested compute reset takes the module's work with it: the courses end, and a STOP is to follow (R408). It
acts in the states from which the module can be in REWINDING after it, and a RESUME in progress ends without completion,
so that a STOP can be taken (R408, R484). (DEDUCED, log entry 42) -/
def State.requestCompute (s : State) (src : BitVec 4) : State :=
  if s.job.st = .unset ∨ s.job.st = .failed ∨ s.plb.computing.isSome then s
  else
    let s := s.computeReset src
    let s := { s with chain := { s.chain with ready := false } }
    s.modJob (fun j => { j with runs := [], isOpen := false, frozen := true, masonStop := true, replay := none,
                                 rewind := j.rewind.filter (fun r => !r.resume) })

/-- Perform a reset, unless one is under way. -/
def State.doReset (s : State) (dom src : BitVec 4) : State :=
  if s.start.inReset then s
  else if dom = domCompute then
    if src = srcQuiesce ∨ src = srcShed then (if s.job.rewind.isSome then s.computeReset src else s)
    else s.requestCompute src
  else if dom = domPackage then s.packageReset domPackage src
  else s.moduleReset src

/-- Request a reset: one that comes while a dump is captured waits for the capture's end (R379). -/
def State.requestReset (s : State) (dom src : BitVec 4) : State :=
  if s.plb.dumpState = 1 && !s.start.inReset then s.modPlb (fun p => { p with resetReq := p.resetReq ++ [(dom, src)] })
  else s.doReset dom src

/-- The Plumb's own reset (R379): it captures a dump with trigger RESET first, and resets once that is in flash. -/
def State.plumbReset (s : State) (dom : BitVec 4) : State :=
  (s.modPlb (fun p => { p with resetReq := p.resetReq ++ [(dom, srcPlumb)] })).wantDump 4

/-- Perform the waiting resets whose source meets a condition, in the order requested. -/
def State.dueReset (s : State) (f : BitVec 4 → Bool) : State :=
  (s.plb.resetReq.filter (fun r => f r.2)).foldl (fun s r => s.doReset r.1 r.2)
    (s.modPlb (fun p => { p with resetReq := p.resetReq.filter (fun r => !f r.2) }))

/-- DUMP_CAPTURE (R379, R380): the dump is captured, and the resets that waited for it follow. -/
def execDumpCapture (s : State) : Host.Outcome State Fault Refusal :=
  .next (
    if s.plb.dumpState ≠ 1 then s else
    match s.plb.dumpWant with
    | [] => s
    | t :: rest =>
      ((s.modPlb (fun p => { p with dumpWant := rest })).captureDump t).dueReset (fun src => decide (src ≠ srcPlumb)))

/-- DUMP_WRITTEN (R379, R386): the dump is in flash; after one of trigger RESET the Plumb's own reset that waited for it
follows. -/
def execDumpWritten (s : State) : Host.Outcome State Fault Refusal :=
  .next (
    if s.plb.dumpState ≠ 2 then s else
    let own := s.plb.dumpNow.any (fun d => d.1 = 4)
    s.commitDump.dueReset (fun src => own && decide (src = srcPlumb)))

/-- A path that may request resets (R362, R385). -/
def plumbPath : RegPath → Bool
  | .bar4 _ => true
  | .mctp => true
  | .bar0 _ => false
  | .strand => false
  | .cfg _ => false

/-- A port's link carries requests to its function (R390, R432). -/
def State.portAnswers (s : State) (p : Nat) : Bool := (s.port p).up && !(s.port p).perst

/-- An access by a path reaches the register block (R391, R432): BAR0 does not answer in UNSET; a port answers while
its link is up (DEDUCED, log entry 45), its windows in D0 alone (PRESUMED, log entry 110). -/
def State.reaches (s : State) (path : RegPath) : Bool :=
  s.pwr.good && !s.start.inReset &&
  match path with
  | .bar0 p => s.portAnswers p && !(s.port p).d3 && decide (s.job.st ≠ .unset)
  | .bar4 p => s.portAnswers p && !(s.port p).d3
  | .cfg p => s.portAnswers p
  | .mctp => true
  | .strand => true

/-- A write of PLB_RESET_REQ by a path (R362, R385): other paths are ignored under R9. -/
def State.resetReqWrite (s : State) (path : RegPath) (dom : BitVec 4) : State :=
  if !s.reaches path then s
  else if plumbPath path && decide (dom = 1 ∨ dom = 2 ∨ dom = 3) then s.requestReset dom srcHost else s.violate .undefined

/-- RESET_REQ_COMPUTE (R385). -/
def execResetReqCompute (path : RegPath) (s : State) : Host.Outcome State Fault Refusal := .next (s.resetReqWrite path domCompute)
/-- RESET_REQ_PACKAGE (R385). -/
def execResetReqPackage (path : RegPath) (s : State) : Host.Outcome State Fault Refusal := .next (s.resetReqWrite path domPackage)
/-- RESET_REQ_MODULE (R385). -/
def execResetReqModule (path : RegPath) (s : State) : Host.Outcome State Fault Refusal := .next (s.resetReqWrite path domModule)

/-- COMPUTE_RESET_DONE (R361, R60, R61): the cores are released; the Plumb writes its logs (R362); the module is in
REWINDING; the fast tier leaves self-refresh unless shedding holds it. -/
def execComputeResetDone (s : State) : Host.Outcome State Fault Refusal :=
  .next (
    if s.plb.computing.isNone then s else
    let s := (s.modPlb (fun p => { p with computing := none })).writeLog
    let clk := s.pwr.coreClk
    let s := (List.range 576).foldl (fun s c => s.modRun c (fun r => { r with state := .idle, clkBase := clk })) s
    let s := { s with ft := { s.ft with selfRefresh := decide (5 ≤ s.pwr.step.toNat) } }
    match s.job.st with
    | .unset => s
    | .failed => s
    | _ => (s.modJob (fun j => { j with runs := [], isOpen := false })).setMod .rewinding)

/-- COMPUTE_RESET_TIMEOUT (R361): the Plumb performs a package reset. -/
def execComputeResetTimeout (s : State) : Host.Outcome State Fault Refusal :=
  .next (if s.plb.computing.isNone then s else s.plumbReset domPackage)

/-- PACKAGE_RESET_NOT_SET (R361): the Plumb performs a module reset. -/
def execPackageResetNotSet (s : State) : Host.Outcome State Fault Refusal :=
  .next (if s.plb.resetDomain = domPackage ∧ s.job.st = .unset then s.plumbReset domModule else s)

/-- RESET_RELEASE (R372): the short start path begins. -/
def execResetRelease (s : State) : Host.Outcome State Fault Refusal :=
  .next (
    if !s.start.inReset then s else
    s.modStart (fun x => { x with inReset := false, phase := 2, began := s.plb.powered }))

/-! ## Host ports (R390, R432, R473) -/

/-- Reset a port: its link, its function's configuration, its work lists and its notifiers (R390). -/
def State.resetPort (s : State) (p : Nat) : State :=
  let mine (m : BitVec 12) (u : BitVec 10) : Bool := s.isSelf m.toNat && decide (u.toNat = 580 + p)
  let s := { s with net := { s.net with
    waits := s.net.waits.filter (fun r => !mine r.module r.unit)
    resend := s.net.resend.filter (fun r => !mine r.srcModule r.srcUnit) } }
  s.modPort p Port.reset

/-- PERST_ASSERT (R390, R473), by the table of R390: an assertion that overlaps one which has its module reset makes no
second. -/
def execPerstAssert (p : PortId) (s : State) : Host.Outcome State Fault Refusal :=
  .next (
    if (s.port p).perst then s else
    let other := s.port (1 - p.val)
    let s := (s.resetPort p).modPort p (fun q => { q with perst := true })
    if !s.pwr.good ∨ s.job.st = .unset ∨ (other.up ∧ !other.perst) ∨ (other.perst ∧ other.perstDone) then s
    else (s.modPort p (fun q => { q with perstDone := true })).moduleReset srcPerst)

/-- PERST_RELEASE (R432): the port trains its link from here on. -/
def execPerstRelease (p : PortId) (s : State) : Host.Outcome State Fault Refusal :=
  .next (s.modPort p (fun q => { q with perst := false, perstDone := false }))

/-- PCIE_LINK_DOWN (R390). -/
def execPcieLinkDown (p : PortId) (s : State) : Host.Outcome State Fault Refusal :=
  .next (s.modPort p (fun q => { q with up := false, width := 0, speed := 0, flit := false }))

/-- PCIE_LINK_UP (R390, R432): a port that has power and whose PERST# is released trains to a speed and a width.
(DEDUCED, log entry 71) -/
def execPcieLinkUp (p : PortId) (speed : BitVec 3) (width : BitVec 5) (flit : Bool) (s : State) :
    Host.Outcome State Fault Refusal :=
  .next (
    let ok := decide (speed ≠ 0 ∧ speed ≠ 7) && ([1, 2, 4, 8, 16].contains width.toNat)
    if !s.pwr.good || (s.port p).perst || s.start.inReset || !ok then s
    else s.modPort p (fun q => { q with up := true, width := width, speed := speed, flit := flit }))

/-! ## The Plumb's periodic work (R457, R460) -/

/-- LIFETIME_LOG_WRITE (R457): 10 minutes of powered time after the last write. -/
def execLifetimeLogWrite (s : State) : Host.Outcome State Fault Refusal :=
  .next (if s.pwr.good && !s.start.inReset && decide (s.plb.lastWrite + 60000000000 ≤ s.plb.powered) then
    s.writeLog else s)

/-- FAIL_CAUSE_EXPIRY (R460): RESET_EXHAUSTED stands for 30 minutes of powered time. -/
def execFailCauseExpiry (s : State) : Host.Outcome State Fault Refusal :=
  .next (match s.plb.logFail with
    | some (c, t) => if c = 4 ∧ t + 180000000000 ≤ s.plb.powered then
      s.modPlb (fun p => { p with logFail := none }) else s
    | none => s)

end Sys2Proof.Machine
end

