-- ==== Sys2Proof/Machine/Update.lean ====
section
/-! DEFINITION. The update session (R462, R467): requests, the flash work that ends them, and the staging buffer. -/

namespace Sys2Proof.Machine

/-- Session states (R467): 0 IDLE, 1 OPEN, 2 BUSY, 3 VERIFIED, 4 FAILED. -/
def updIdle : BitVec 4 := 0
/-- OPEN. -/
def updOpen : BitVec 4 := 1
/-- BUSY. -/
def updBusy : BitVec 4 := 2
/-- VERIFIED. -/
def updVerified : BitVec 4 := 3
/-- FAILED. -/
def updFailed : BitVec 4 := 4

/-- The owner code of a source that may drive a session: BAR4 of a port, or MCTP. -/
def ownerCode : RegPath → Option (BitVec 4)
  | .bar4 p => some (BitVec.ofNat 4 p.val)
  | .mctp => some 2
  | .bar0 _ => none
  | .strand => none
  | .cfg _ => none

/-- Change the session. -/
def State.modUpd (s : State) (f : Upd → Upd) : State := s.modPlb (fun p => { p with upd := f p.upd })

/-- Erase the first bytes of the session's slot: what a loss of input cut off there is gone. -/
def State.eraseSlot (s : State) (n : Nat) : State :=
  let b := s.updBase s.plb.upd.target
  (s.flashErase b n).modStart (fun x => { x with torn := x.torn.filter (fun t => t != b) })

/-- Erase the header sector of the session's slot. -/
def State.eraseHeader (s : State) : State := s.eraseSlot 4096

/-- The Plumb takes no write to a slot in steps 2 and 3 of a start: R424 says so of a cold start, and the model of every
start, since each reads the slots then (DEDUCED, log entry 106). -/
def State.slotsHeld (s : State) : Bool := decide (s.start.phase = 2 ∨ s.start.phase = 3) && !s.start.stay

/-- The session ends, with its slot erased (R462). (DEDUCED, log entry 30) -/
def State.endSession (s : State) (result : BitVec 4) : State :=
  (s.eraseSlot (updKind s.plb.upd.target).size).modUpd
    (fun u => { u with state := updIdle, result := result, busy := none })

/-- Abort the session (R462); while no slot takes a write the abort waits as a request that is busy (R424). -/
def State.abortUpd (s : State) (result : BitVec 4) : State :=
  if s.slotsHeld then s.modUpd (fun u => { u with state := updBusy, busy := some (.abort result) })
  else s.endSession result

/-- A request begins its flash work. -/
def State.startReq (s : State) (r : UpdReq) : State :=
  let now := s.plb.uptime
  s.modUpd (fun u => { u with state := updBusy, result := 0, busy := some r, lastReq := now })

/-- A request of PLB_UPD_CTRL by a source (R462, R467): BUSY, another owner and a value that is not taken fall under R9. -/
def State.updCtrl (s : State) (path : RegPath) (v : Word) (act : BitVec 4 → State → State) : State :=
  if !s.reaches path then s else
  match ownerCode path with
  | none => s.violate .undefined
  | some o =>
    if s.plb.upd.state = updBusy then s.violate .undefined
    else
      let s := if bitsOf v.toNat 48 16 ≠ 0 ∨ bitsOf v.toNat 8 16 ≠ 0 then s.violate .reservedSet else s
      act o s

/-- A request of the owner of an open session. -/
def State.ownerReq (s : State) (o : BitVec 4) (act : State → State) : State :=
  if s.plb.upd.state = updOpen ∧ s.plb.upd.owner = o then act s else s.violate .undefined

/-- BEGIN (R462). -/
def State.updBegin (s : State) (target o : BitVec 4) : State :=
  if target ≠ 1 ∧ target ≠ 2 then s.violate .undefined
  else if s.plb.upd.state = updOpen ∧ s.plb.upd.owner ≠ o then s.modUpd (fun u => { u with result := 1 })
  else if 4 ≤ s.pwr.step.toNat then s.modUpd (fun u => { u with result := 2 })
  else (s.modUpd (fun u => { u with owner := o, target := target, chunks := 0 })).startReq (.begin target)

/-- WRITE (R462). -/
def State.updWrite (s : State) (chunk len8 : Nat) (o : BitVec 4) : State :=
  if 127 < chunk ∨ len8 = 0 ∨ 8192 < len8 then s.violate .undefined
  else s.ownerReq o (fun s => s.startReq (.write chunk (8 * len8)))

/-- ABORT (R462). -/
def State.updAbort (s : State) (o : BitVec 4) : State := s.ownerReq o (fun s => s.abortUpd 0)

/-- UPD_BEGIN (R462, R467). -/
def execUpdBegin (path : RegPath) (v : Word) (s : State) : Host.Outcome State Fault Refusal :=
  .next (s.updCtrl path v (fun o s => s.updBegin (BitVec.ofNat 4 (bitsOf v.toNat 4 4)) o))

/-- UPD_WRITE (R462, R467). -/
def execUpdWrite (path : RegPath) (v : Word) (s : State) : Host.Outcome State Fault Refusal :=
  .next (s.updCtrl path v (fun o s => s.updWrite (bitsOf v.toNat 40 8) (bitsOf v.toNat 24 16) o))

/-- UPD_VERIFY (R462, R467). -/
def execUpdVerify (path : RegPath) (v : Word) (s : State) : Host.Outcome State Fault Refusal :=
  .next (s.updCtrl path v (fun o s => s.ownerReq o (fun s => s.startReq .verify)))

/-- UPD_ABORT (R462, R467). -/
def execUpdAbort (path : RegPath) (v : Word) (s : State) : Host.Outcome State Fault Refusal :=
  .next (s.updCtrl path v (fun o s => s.updAbort o))

/-- UPD_SESSION_TIMEOUT (R462): an open session without a request for 10 s is aborted. -/
def execUpdSessionTimeout (s : State) : Host.Outcome State Fault Refusal :=
  .next (if s.plb.upd.state = updOpen ∧ s.plb.upd.lastReq + 1000000000 ≤ s.plb.uptime then s.abortUpd 0 else s)

/-- The result that a failed check of VERIFY shows (R467). -/
def verifyResult (reason : BitVec 4) : BitVec 4 := if reason = rsnSignature then 3 else if reason = rsnRollback then 4 else 5

/-- The flash work of VERIFY: the checks of R423 or R461 on the written image. -/
def State.finishVerify (s : State) : State :=
  let t := s.plb.upd.target
  let c := s.checkSlot (updKind t) (s.updSlot t)
  if c = 0 then
    let ver := (s.imgView (updKind t) (s.updSlot t)).head.version
    s.modUpd (fun u => { u with state := updVerified, result := 0, busy := none, version := ver })
  else s.eraseHeader.modUpd (fun u => { u with state := updFailed, result := verifyResult c, busy := none })

/-- The flash work of WRITE: a chunk past the end of its slot ends with FLASH. (DEDUCED, log entry 29) -/
def State.finishWrite (s : State) (chunk n : Nat) : State :=
  let t := s.plb.upd.target
  if (updKind t).size < 65536 * chunk + n then s.modUpd (fun u => { u with state := updFailed, result := 6, busy := none })
  else
    let bs := (List.range n).map (fun i => SMap.get 0 s.plb.upd.buf i)
    (s.flashWrite (s.updBase t + 65536 * chunk) bs).modUpd (fun u => { u with
      state := updOpen, result := 0, busy := none, chunks := satAdd u.chunks 1 })

/-- UPD_REQUEST_COMPLETE (R462, R467): a chunk waits for a crash dump that is being written. (DEDUCED, log entry 71)
-/
def execUpdRequestComplete (flashOk : Bool) (s : State) : Host.Outcome State Fault Refusal :=
  .next (
    match s.plb.upd.busy with
    | none => s
    | some r =>
      if s.slotsHeld then s
      else if !flashOk then s.modUpd (fun u => { u with state := updFailed, result := 6, busy := none })
      else match r with
        | .begin _ => s.eraseHeader.modUpd (fun u => { u with state := updOpen, result := 0, busy := none })
        | .write chunk n => if s.plb.dumpState = 2 then s else s.finishWrite chunk n
        | .verify => s.finishVerify
        | .abort result => s.endSession result)

/-- Bytes of the staging buffer written by a source (R462): only the session's owner. (DEDUCED, log entry 31) -/
def State.bufWrite (s : State) (path : RegPath) (off : Nat) (bs : List Byte) : State :=
  if !s.reaches path then s else
  match ownerCode path with
  | none => s.violate .undefined
  | some o =>
    let u := s.plb.upd
    if (u.state = updOpen ∨ u.state = updBusy) ∧ u.owner = o ∧ off + bs.length ≤ 65536 then
      s.modUpd (fun u => { u with
        buf := ((List.range bs.length).zip bs).foldl (fun m p => SMap.put 0 m (off + p.1) p.2) u.buf })
    else s.violate .undefined

/-- PLB_UPD_BUF_WRITE (R462). -/
def execPlbUpdBufWrite (path : RegPath) (off : Nat) (bytes : List Byte) (s : State) : Host.Outcome State Fault Refusal :=
  .next (s.bufWrite path off bytes)

end Sys2Proof.Machine
end

