-- ==== Sys2Proof/Machine/Attest.lean ====
section
/-! DEFINITION. Attestation and board management (R463, R464, R472): SPDM over DOE and MCTP, PLDM over MCTP, the SMBus
alert. The layouts of the bodies of the DMTF messages are constants of Config (log entry 6). -/

namespace Sys2Proof.Machine

/-- The Plumb's firmware answers a path: DOE on a port whose link is up, or MCTP. -/
def State.answers (s : State) (path : RegPath) : Bool :=
  s.pwr.good && !s.start.inReset && decide (3 ≤ s.start.phase.toNat) &&
  match path with
  | .bar0 p => s.portAnswers p
  | .bar4 p => s.portAnswers p
  | .cfg p => s.portAnswers p
  | .mctp => true
  | .strand => false

/-- Answer a request with a message of a code over data of the module; the transcript takes both (R463). -/
def State.spdm (s : State) (path : RegPath) (code : Nat) (data req : List Byte) : State :=
  let r := Config.dmtfResponse code data req
  (s.modStart (fun x => { x with spdmTrans := x.spdmTrans ++ req ++ r })).emit (.response path r)

/-- Answer where the responder expects the request, with ERROR, code UnexpectedRequest, elsewhere. (PRESUMED, log
entry 32) -/
def State.spdmWhen (s : State) (path : RegPath) (ok : Bool) (act : State → State) : State :=
  if !s.answers path then s else if ok then act s else s.emit (.spdmError path 0x04)

/-- Answer where the module has its identity, with ERROR, code Unspecified, elsewhere (R463). -/
def State.withIdentity (s : State) (path : RegPath) (act : State → State) : State :=
  if s.start.identValid then act s else s.emit (.spdmError path 0x05)

/-- The salt of a signature: 64 bytes, free (log entry 6). -/
def State.salt (s : State) : List Byte := (List.range 8).flatMap (fun i => wordBytes (Config.freeWord (s.free + i)))

/-- Answer with data and the device key's signature over the transcript, the request and the data (R463). (PRESUMED, log
entry 32) -/
def State.spdmSigned (s : State) (path : RegPath) (code : Nat) (data req : List Byte) : State :=
  let k := Config.devKey s.start.devKey
  let sig := rsaSign { n := k.1, e := k.2 } (s.start.spdmTrans ++ req ++ data) s.salt
  (s.useFrees 8).spdm path code (data ++ sig) req

/-- The bytes of an image in flash. -/
def State.imageBytes (s : State) (k : ImgKind) (slot : Bool) : List Byte :=
  s.flashRead (k.base slot) (s.imgView k slot).head.length

/-- The measurement blocks 1–5 (R463). -/
def State.measurements (s : State) : List Byte :=
  leBytes 2 Config.romVersion.toNat ++
  sha512 (s.imageBytes .firmware s.start.fwSlot) ++ sha512 (s.imageBytes .setout s.start.slot) ++
  leBytes 4 s.start.rpmc0.toNat ++ leBytes 4 s.start.rpmc1.toNat ++
  leBytes 1 (if Config.variantB then 2 else 1) ++ leBytes 1 0xB0 ++ Config.serial ++
  leBytes 2 s.ft.retired.length ++
  leBytes 2 ((List.range 16).filter (fun c => !(s.chan c).live)).length ++ leBytes 2 s.lnk.retiredLanes.length

/-- The certificate chain of slot 0: the root key and the device certificate that flash holds (R422, R429). -/
def State.certChain (s : State) : List Byte :=
  Config.rootKey s.bootHeader ++ (Config.identity (s.flashRead 0x1810000 65536)).2.2

/-- GET_VERSION (R463): it begins a new exchange. -/
def execGetVersion (path : RegPath) (req : List Byte) (s : State) : Host.Outcome State Fault Refusal :=
  .next (s.spdmWhen path true (fun s =>
    (s.modStart (fun x => { x with spdmVersion := true, spdmCaps := false, spdmAlgs := false, spdmTrans := [] })).spdm
      path 0x84 [] req))

/-- GET_CAPABILITIES (R463). -/
def execGetCapabilities (path : RegPath) (req : List Byte) (s : State) : Host.Outcome State Fault Refusal :=
  .next (s.spdmWhen path s.start.spdmVersion (fun s =>
    (s.modStart (fun x => { x with spdmCaps := true })).spdm path 0xE1 [] req))

/-- NEGOTIATE_ALGORITHMS (R463). -/
def execNegotiateAlgorithms (path : RegPath) (req : List Byte) (s : State) : Host.Outcome State Fault Refusal :=
  .next (s.spdmWhen path s.start.spdmCaps (fun s =>
    (s.modStart (fun x => { x with spdmAlgs := true })).spdm path 0xE3 [] req))

/-- GET_DIGESTS (R463). -/
def execGetDigests (path : RegPath) (req : List Byte) (s : State) : Host.Outcome State Fault Refusal :=
  .next (s.spdmWhen path s.start.spdmAlgs (fun s => s.spdm path 0x81 (sha512 s.certChain) req))

/-- GET_CERTIFICATE (R463). -/
def execGetCertificate (path : RegPath) (req : List Byte) (s : State) : Host.Outcome State Fault Refusal :=
  .next (s.spdmWhen path s.start.spdmAlgs (fun s => s.spdm path 0x82 s.certChain req))

/-- CHALLENGE (R463): signed with the device key; ERROR while there is no identity. -/
def execChallenge (path : RegPath) (req : List Byte) (s : State) : Host.Outcome State Fault Refusal :=
  .next (s.spdmWhen path s.start.spdmAlgs (fun s => s.withIdentity path (fun s =>
    s.spdmSigned path 0x83 (sha512 s.certChain) req)))

/-- A request for measurements asks for a signature: bit 0 of its attributes. -/
def wantsSignature (req : List Byte) : Bool := (req.getD 2 0).getLsbD 0

/-- GET_MEASUREMENTS (R463): a signed answer needs the identity. -/
def execGetMeasurements (path : RegPath) (req : List Byte) (s : State) : Host.Outcome State Fault Refusal :=
  .next (s.spdmWhen path s.start.spdmAlgs (fun s =>
    if wantsSignature req then s.withIdentity path (fun s => s.spdmSigned path 0xE0 s.measurements req)
    else s.spdm path 0xE0 s.measurements req))

/-- A PLDM answer. -/
def State.pldm (s : State) (path : RegPath) (code : Nat) (data : List Byte) : State :=
  s.emit (.response path (Config.dmtfResponse code data []))

/-- An update request that PLDM carries (R462): the answer shows the session. -/
def State.pldmUpd (s : State) (path : RegPath) (code : Nat) (act : State → State) : State :=
  let s := act s
  s.pldm path code (wordBytes s.updStatus)

/-- A request of PLDM Base (R464): SetTID, command 0x01, gives the terminus ID that GetTID reads. (PRESUMED, log
entry 32) -/
def State.pldmBase (s : State) (path : RegPath) (command : Byte) (data : List Byte) : State :=
  let s := if command = 1 then s.modStart (fun x => { x with pldmTid := data.headD x.pldmTid }) else s
  s.pldm path command.toNat ([s.start.pldmTid] ++ data)

/-- PLDM_REQUEST (R464): Base, sensors, and the update session, over MCTP. -/
def execPldmRequest (path : RegPath) (req : PldmReq) (s : State) : Host.Outcome State Fault Refusal :=
  .next (
    if path ≠ .mctp ∨ !s.answers path then s else
    match req with
    | .temperature i => s.pldm path 0x211 (leBytes 2 (SMap.get {} s.plb.temps i.val).now.toNat)
    | .rail r =>
      let x := SMap.get {} s.plb.rails r.val
      s.pldm path 0x211 (leBytes 2 x.mv.toNat ++ leBytes 2 x.amps.toNat)
    | .input => s.pldm path 0x211 (leBytes 2 s.pwr.vin.toNat ++ leBytes 2 s.pwr.pin.toNat)
    | .base command data => s.pldmBase path command data
    | .updBegin t => s.pldmUpd path 0x510 (fun s => s.updCtrl path 0 (fun o s => s.updBegin t o))
    | .updChunk chunk data => s.pldmUpd path 0x515 (fun s =>
        let n := (data.length + 7) / 8
        (s.bufWrite path 0 (slice data 0 (8 * n))).updCtrl path 0 (fun o s => s.updWrite chunk.toNat n o))
    | .updVerify => s.pldmUpd path 0x517 (fun s => s.updCtrl path 0 (fun o s => s.ownerReq o (fun s => s.startReq .verify)))
    | .updAbort => s.pldmUpd path 0x51D (fun s => s.updCtrl path 0 (fun o s => s.updAbort o)))

/-- SMB_ALERT# is driven low (R472): FAILED, a fault hold, or a shedding step. -/
def State.alert (s : State) : Bool :=
  s.pwr.good && (decide (s.job.st = .failed) || !s.job.holds.isEmpty || decide (s.pwr.step ≠ 0))

/-- SMBUS_ALERT_RESPONSE (R464, R472): the module answers with its own address, 0x4C + strap. -/
def execSmbusAlertResponse (s : State) : Host.Outcome State Fault Refusal :=
  .next (if s.alert then s.emit (.alertResponse (BitVec.ofNat 7 (0x4C + s.pwr.strap.toNat))) else s)

end Sys2Proof.Machine
end

