-- ==== Sys2Proof/Machine/Strands.lean ====
section
/-! DEFINITION. Waits withdrawn and issued again, strands reset, and parking (R114, R234, R446). -/

namespace Sys2Proof.Machine

/-- A strand's reply to its `karr` is on its way: the arrival has been admitted. -/
def State.replyComing (s : State) (c t : Nat) : Bool := s.net.replies.any (fun r => decide (r.core = c ∧ r.strand = t))

/-- Issue a strand's recorded wait again (R234). -/
def State.reissue (s : State) (c t : Nat) : State :=
  match (s.strand c t).wait with
  | .none => s
  | .twait a v _ => if (s.ownTally c a).isSome then s else s.register c t a v
  | .kwait a x sd =>
    if s.roundSeen c a x then s.unblock c t sd stOk else s.post { s.coreHdr c t with op := 9, dst := a, aux := x }
  | .karr a _ => if s.replyComing c t then s else s.post { s.coreHdr c t with op := 8, dst := a }

/-- The tile and scratchpad transfers of a strand at its reset (R114): a `tload` leaves its tile empty and zero, a
`tstore` may have written part of its rows (a free number of its bytes). -/
def State.dropTops (s : State) (c t : Nat) : State :=
  let mine := (s.core c).eng.tops.filter (fun o => match o with
    | .load st _ _ _ => decide (st = t)
    | .store st _ => decide (st = t))
  let s := s.modEng c (fun e => { e with tops := e.tops.filter (fun o => !mine.contains o) })
  mine.foldl (fun s o => match o with
    | .load _ tile _ _ => s.modRegs c (fun g => { g with
        marks := SMap.set g.marks tile {}, bytes := SMap.clear g.bytes (4096 * tile) (4096 * tile + 4096) })
    | .store _ data => (s.storeList (data.take (s.freeVal.toNat % (data.length + 1)))).useFree) s

/-- Forget the answers to a strand's `karr` that are on their way: they are for the arrival of a strand that is reset. -/
def State.dropReplies (s : State) (c t : Nat) : State :=
  { s with net := { s.net with
    replies := s.net.replies.filter (fun r => !decide (r.core = c ∧ r.strand = t))
    flight := s.net.flight.filter (fun f => !(decide (f.pkt.op = 7) && s.ofStrand c t f.pkt)) } }

/-- Reset a strand (R114, R361): registers, instruction pointer and waits. -/
def State.resetStrand (s : State) (c t : Nat) : State :=
  (((s.withdraw c t).dropReplies c t).dropTops c t).modStrand c t (fun _ => {})

/-- Cores of the clusters of a parking group (R446). -/
def groupCores (g : Nat) : List Nat := (List.range 576).filter (fun c => coreCluster c % 4 = g)

/-- Park a core (R446): its strands frozen, their registrations withdrawn, its context saved with their wait records
as soon as no `amm` streams. A core that a compute reset holds shows PARKED too (R60; DESIGN CHOICE, log entry 118). -/
def State.parkCore (s : State) (c : Nat) : State :=
  let r := (s.core c).run
  if r.state = .parked then s else
  let s := (List.range 4).foldl (fun s t => s.withdraw c t) s
  (s.modRun c (fun r => { r with before := r.state, state := .parked })).parkSave c

/-- Unpark a core: the context restored, the recorded waits issued again, the strands released. -/
def State.unparkCore (s : State) (c : Nat) : State :=
  if (s.core c).run.state ≠ .parked then s else
  (List.range 4).foldl (fun s t => s.reissue c t) (s.endPark c)

/-- Unpark the group that is parked, if any. (DEDUCED, log entry 67) -/
def State.unpark (s : State) : State :=
  match s.job.parked with
  | none => s
  | some g => ((groupCores g).foldl State.unparkCore s).modJob (fun j => { j with parked := none })

/-- Park a group. (DEDUCED, log entry 67) -/
def State.park (s : State) (g : Nat) : State :=
  ((groupCores g).foldl State.parkCore s).modJob (fun j => { j with parked := some g, parkNext := (g + 1) % 4 })

end Sys2Proof.Machine
end

