-- ==== Sys2Proof/Machine/HostPort.lean ====
section
/-! DEFINITION. What a host reads and writes (R388–R395, R412–R419): BAR0, BAR2, BAR4, the HST_ registers and the
notifiers. Offsets of registers are control-space offsets (R164). -/

namespace Sys2Proof.Machine

/-! ## The function of a port (R2, R388, R389, R412, R432) -/

/-- What the configuration space of a host port says of its function. -/
structure PciIdentity where
  vendor : BitVec 16
  device : BitVec 16
  revision : BitVec 8
  classCode : BitVec 24
  subVendor : BitVec 16
  subId : BitVec 16
  functions : Nat
deriving DecidableEq, Repr

/-- The identity that each host port presents (R388), with the stepping B0 as its Revision ID (R2). -/
def pciIdentity (_ : PortId) : PciIdentity :=
  { vendor := 0x1F7C, device := 0x2740, revision := 0xB0, classCode := 0x120000, subVendor := 0x1F7C, subId := 0, functions := 1 }

/-- The double word of a port's configuration space at an offset. R388 and R389 say what the function has, and the PCI
standard where it stands: identity, PM (0x40), MSI-X (0x50), PCIe (0x60), AER (0x100), Resizable BAR (0x200) and DOE
(0x240). (PRESUMED, log entry 110) -/
def Port.cfgDword (q : Port) (id : PciIdentity) (o : Nat) : Nat :=
  match o with
  | 0x00 => id.vendor.toNat + id.device.toNat * 2 ^ 16
  | 0x04 => 0x100000
  | 0x08 => id.revision.toNat + id.classCode.toNat * 2 ^ 8
  | 0x10 => 0x4
  | 0x18 => 0xC
  | 0x20 => 0x4
  | 0x2C => id.subVendor.toNat + id.subId.toNat * 2 ^ 16
  | 0x34 => 0x40
  | 0x40 => 0x00035001
  | 0x44 => 0x8 + 3 * b2n q.d3
  | 0x50 => 0x003F6011 + 2 ^ 30 * b2n q.maskAll + 2 ^ 31 * b2n q.msixEn
  | 0x54 => 0x80000
  | 0x58 => 0x81000
  | 0x60 => 0x00020010
  | 0x64 => 0x2
  | 0x70 => 2 ^ 16 * q.speed.toNat + 2 ^ 20 * q.width.toNat
  | 0x100 => 0x20020001
  | 0x104 => q.aerU.toNat
  | 0x110 => q.aerC.toNat
  | 0x200 => 0x24010015
  | 0x204 => 0x00FFC000
  | 0x208 => 2 + 2 ^ 5 + 2 ^ 8 * (q.bar2Log - 20)
  | 0x240 => 0x0001002E
  | _ => 0

/-- A configuration request has a size and an alignment that the bus has: 1, 2 or 4 bytes within one double word. -/
def cfgSize (off n : Nat) : Bool := decide (n = 1 ∨ n = 2 ∨ n = 4) && decide (off % n = 0) && decide (off + n ≤ 4096)

/-- Bytes of a port's configuration space (R432). -/
def State.cfgBytes (s : State) (p : PortId) (off n : Nat) : List Byte :=
  (leBytes 4 ((s.port p).cfgDword (pciIdentity p) (off / 4 * 4))).drop (off % 4) |>.take n

/-- A write of the BAR2 size (R389): 1 GiB to 512 GiB. A base that the new size does not admit goes to 0 (R392). (PRESUMED,
log entry 110) -/
def Port.setBar2 (q : Port) (log : Nat) : Port :=
  if log < 30 ∨ 39 < log then q
  else if q.apBase.toNat * 2 ^ 30 % 2 ^ log = 0 ∧ q.apBase.toNat * 2 ^ 30 + 2 ^ log ≤ 2 ^ 39 then
    { q with bar2Log := log }
  else { q with bar2Log := log, apBase := 0 }

/-- A byte written to a port's configuration space: the fields that a host sets are the power state, the MSI-X enable and
function mask, the BAR2 size, and the AER status bits, which a 1 clears; any other write is ignored. (PRESUMED, log entry
110) -/
def Port.cfgWrite (q : Port) (o : Nat) (b : Byte) : Port :=
  if o = 0x44 then
    (if b &&& 3 = 0 then { q with d3 := false } else if b &&& 3 = 3 then { q with d3 := true } else q)
  else if o = 0x53 then { q with msixEn := b.getLsbD 7, maskAll := b.getLsbD 6 }
  else if o = 0x209 then q.setBar2 (20 + b.toNat % 64)
  else if within o 0x104 4 then { q with aerU := q.aerU &&& ~~~(b.setWidth 32 <<< (8 * (o - 0x104))) }
  else if within o 0x110 4 then { q with aerC := q.aerC &&& ~~~(b.setWidth 32 <<< (8 * (o - 0x110))) }
  else q

/-! ## Accesses that a window takes (R393) -/

/-- A size and an alignment that BAR0 takes: 4 or 8 naturally aligned bytes, or whole words within a 64-byte block. -/
def barSize (off n : Nat) : Bool :=
  (decide (n = 4) && decide (off % 4 = 0)) ||
  (decide (off % 8 = 0) && decide (n % 8 = 0) && decide (8 ≤ n) && decide (off % 64 + n ≤ 64))

/-- A register word as a write reaches it: its offset, the bytes written as a mask, and their values in place. -/
structure WordWrite where
  /-- control-space offset, 8-byte aligned -/
  at_ : Nat
  /-- bits written -/
  mask : Word
  /-- values of those bits -/
  value : Word
deriving DecidableEq, Repr

/-- The word writes of a write whose size BAR0 takes. -/
def wordWrites (off : Nat) (bs : List Byte) : List WordWrite :=
  if bs.length = 4 then
    let sh := 8 * (off % 8)
    [{ at_ := off / 8 * 8, mask := BitVec.ofNat 64 (0xFFFFFFFF * 2 ^ sh), value := BitVec.ofNat 64 (leNat bs * 2 ^ sh) }]
  else (List.range (bs.length / 8)).map (fun i =>
    { at_ := off + 8 * i, mask := BitVec.allOnes 64, value := leWord (slice bs (8 * i) 8) })

/-- A field lies wholly within the bytes written (R393). -/
def WordWrite.has (w : WordWrite) (lo n : Nat) : Bool := decide (bitsOf w.mask.toNat lo n = 2 ^ n - 1)
/-- The value written to a field. -/
def WordWrite.get (w : WordWrite) (lo n : Nat) : Nat := bitsOf w.value.toNat lo n

/-- A reserved field is written with a bit set (R8). -/
def State.reservedIf (s : State) (b : Bool) : State := if b then s.violate .reservedSet else s

/-! ## Port registers (R417–R419) -/

/-- Write HST_AP_BASE (R417): the base is a multiple of the BAR2 size, and the BAR stays in the aperture. A write that
leaves the straddling field as it is counts nothing (R393; DESIGN CHOICE, log entry 111). -/
def State.writeApBase (s : State) (p : Nat) (w : WordWrite) : State :=
  let s := s.reservedIf (decide (w.get 46 18 ≠ 0 ∨ w.get 0 30 ≠ 0))
  if !w.has 30 16 then s
  else
    let v := w.get 30 16
    let size := 2 ^ (s.port p).bar2Log
    if v * 2 ^ 30 % size = 0 ∧ v * 2 ^ 30 + size ≤ 2 ^ 39 then s.modPort p (fun q => { q with apBase := BitVec.ofNat 16 v })
    else s.violate .undefined

/-- Change a work list. -/
def State.modList (s : State) (p l : Nat) (f : WorkList → WorkList) : State :=
  s.modPort p (fun q => { q with lists := SMap.modify {} q.lists l f })

/-- Write word 1 of a work list (R418): size_log2 only while disabled, and otherwise left uncounted (DESIGN CHOICE, log
entry 111), enable only with a size of 4–16. -/
def State.writeListCtl (s : State) (p l : Nat) (w : WordWrite) : State :=
  let x := SMap.get {} (s.port p).lists l
  let k := if w.has 0 5 && !x.enable then BitVec.ofNat 5 (w.get 0 5) else x.k
  let e := if w.has 63 1 then decide (w.get 63 1 = 1) else x.enable
  let s := s.reservedIf (decide (w.get 5 58 ≠ 0))
  if e && !x.enable && (decide (k.toNat < 4) || decide (16 < k.toNat)) then s.violate .undefined
  else s.modList p l (fun x => { x with k := k, enable := e, consumed := if e && !x.enable then 0 else x.consumed })

/-- Write a word of a work list (R418): base and tally straddle bit 32, and a write of half of them changes and counts
nothing (R393; DESIGN CHOICE, log entry 111). -/
def State.writeList (s : State) (p l i : Nat) (w : WordWrite) : State :=
  match i with
  | 0 =>
    let s := s.reservedIf (decide (w.get 46 18 ≠ 0 ∨ w.get 0 12 ≠ 0))
    if w.has 12 34 then s.modList p l (fun x => { x with base := BitVec.ofNat 34 (w.get 12 34) }) else s
  | 1 => s.writeListCtl p l w
  | 2 =>
    let s := s.reservedIf (decide (w.get 46 18 ≠ 0 ∨ w.get 0 3 ≠ 0))
    if w.has 3 43 then s.modList p l (fun x => { x with tally := BitVec.ofNat 43 (w.get 3 43) }) else s
  | _ => s.violate .readOnly

/-- Take back what a notifier has registered (R413). -/
def State.withdrawNotifier (s : State) (p v : Nat) : State :=
  let mine (m : BitVec 12) (u : BitVec 10) (t : BitVec 6) : Bool :=
    s.isSelf m.toNat && decide (u.toNat = 580 + p) && decide ((SMap.get {} (s.port p).notify v).reg = some t)
  { s with net := { s.net with
    waits := s.net.waits.filter (fun r => !mine r.module r.unit r.tag)
    resend := s.net.resend.filter (fun r => !mine r.srcModule r.srcUnit r.tag)
    flight := s.net.flight.filter (fun f => !(decide (f.pkt.op = 6) && mine f.pkt.srcModule f.pkt.srcUnit f.pkt.tag)) } }

/-- The tag of a notifier's next registration: the next one in turn that no notifier's registration has, so that the WAKE
of one that was withdrawn is told apart (R413; DESIGN CHOICE, log entry 104). -/
def Port.freshTag (q : Port) : BitVec 6 :=
  (((List.range 64).map (fun i => q.nextTag + BitVec.ofNat 6 i)).find? (fun t =>
    !q.notify.any (fun n => decide (n.2.reg = some t)))).getD q.nextTag

/-- Arm a notifier with a value: the port registers its wait (R413); 0 disarms it. -/
def State.armNotifier (s : State) (p v : Nat) (value : Word) : State :=
  let t := (s.port p).freshTag
  let s := (s.withdrawNotifier p v).modPort p (fun q => { q with
    nextTag := if value = 0 then q.nextTag else t + 1
    notify := SMap.modify {} q.notify v (fun n => { n with value := value, reg := if value = 0 then none else some t }) })
  if value = 0 then s
  else s.post { op := 6, dst := (SMap.get {} (s.port p).notify v).addr, aux := value, srcModule := s.self,
                srcUnit := BitVec.ofNat 10 (580 + p), tag := t }

/-- Write a word of a notifier (R419): both words are one 64-bit field each, and a write of half of one changes and counts
nothing (R393; DESIGN CHOICE, log entry 111). -/
def State.writeNotify (s : State) (p v i : Nat) (w : WordWrite) : State :=
  if !w.has 0 64 then s
  else if i = 0 then s.modPort p (fun q => { q with notify := SMap.modify {} q.notify v (fun n => { n with addr := w.value }) })
  else s.armNotifier p v w.value

/-- Vectors whose pending bit is set and that are unmasked are raised (R412; log entry 8). -/
def State.raisePending (s : State) (p : Nat) : State :=
  (List.range 64).foldl (fun s v =>
    if (s.port p).msixEn && (s.port p).pba.getLsbD v && !(s.port p).masked v then
      (s.modPort p (fun q => { q with pba := q.pba &&& ~~~((1 : BitVec 64) <<< v) })).emit (.msix p v)
    else s) s

/-- A configuration write to a port (R412, R432): vectors that it unmasks and that are pending are raised. -/
def State.writeCfg (s : State) (p : PortId) (off : Nat) (bs : List Byte) : State :=
  if !s.reaches (.cfg p) || !cfgSize off bs.length then s
  else
    (s.modPort p (fun q => ((List.range bs.length).zip bs).foldl (fun q x => q.cfgWrite (off + x.1) x.2) q)).raisePending p

/-- Write bytes of the MSI-X table of a port. -/
def State.writeMsix (s : State) (p off : Nat) (w : WordWrite) : State :=
  let put (m : SMap Byte) : SMap Byte := (List.range 8).foldl (fun m i =>
    if w.has (8 * i) 8 then SMap.put (msixReset (off + i)) m (off + i) (BitVec.ofNat 8 (w.get (8 * i) 8)) else m) m
  (s.modPort p (fun q => { q with msix := put q.msix })).raisePending p

/-- Write a word of a port's registers, at an offset from its base (R417–R419). -/
def State.writePortWord (s : State) (p r : Nat) (w : WordWrite) : State :=
  if r = 8 then s.writeApBase p w
  else if r < 0x200 then s.writeList p ((r - 0x100) / 0x20) ((r - 0x100) % 0x20 / 8) w
  else s.writeNotify p ((r - 0x400) / 0x10) (r % 0x10 / 8) w

/-- A host's write of one word through BAR0 of port `p` (R9, R393): half of FT_RANGE_CLEAR changes and counts nothing
(DESIGN CHOICE, log entry 111). -/
def State.bar0Word (s : State) (p : Nat) (w : WordWrite) : State :=
  match s.wkind w.at_ with
  | .none => s.violate .undefined
  | .ro => s.roWrite w.at_ w.mask w.value
  | .plumb => s.violate .undefined
  | .rangeClear => if w.has 0 64 then s.clearRange w.value else s
  | .inReset => s
  | .latchFault c => s.latchWrite c w.mask w.value
  | .host =>
    if w.at_ = 0x10 ∨ w.at_ = 0x18 then s.violate .undefined
    else if w.at_ < 0x11000 then s.writePortWord 0 (w.at_ - 0x1000) w
    else if w.at_ < 0x80000 then s.writePortWord 1 (w.at_ - 0x11000) w
    else s.writeMsix p (w.at_ - 0x80000) w

/-- A host's addition to a tally (R394): the port's engine issues it. With every tag in use it goes out untracked. -/
def State.hostTadd (s : State) (p : Nat) (bs : List Byte) : State :=
  let a := leWord (slice bs 0 8)
  let hdr : Packet := { op := 4, dst := a, aux := leWord (slice bs 8 8), srcModule := s.self, srcUnit := BitVec.ofNat 10 (580 + p) }
  match lowestFree (s.port p).slots 63 with
  | none => s.post { hdr with tag := 63 }
  | some t => s.launch (580 + p) t { op := 0x70 } [(a, [[{ hdr with tag := BitVec.ofNat 6 t }]])]

/-- A host's write through BAR0 (R393). -/
def State.bar0Write (s : State) (p : PortId) (off : Nat) (bs : List Byte) : State :=
  if !s.reaches (.bar0 p) then s
  else if off = 0x10 ∧ bs.length = 16 then s.hostTadd p bs
  else if !barSize off bs.length then s.violate .undefined
  else (wordWrites off bs).foldl (fun s w => s.bar0Word p w) s

/-! ## The PLB_ region through BAR4 and MCTP (R385, R465, R467) -/

/-- A write of PLB_UPD_CTRL, by its op. -/
def State.writeUpdCtrl (s : State) (path : RegPath) (v : Word) : State :=
  s.updCtrl path v (fun o s => match bitsOf v.toNat 0 4 with
    | 1 => s.updBegin (BitVec.ofNat 4 (bitsOf v.toNat 4 4)) o
    | 2 => s.updWrite (bitsOf v.toNat 40 8) (bitsOf v.toNat 24 16) o
    | 3 => s.ownerReq o (fun s => s.startReq .verify)
    | 4 => s.updAbort o
    | _ => s.violate .undefined)

/-- A write of one word of the PLB_ region. -/
def State.plbWord_write (s : State) (path : RegPath) (w : WordWrite) : State :=
  match s.wkind w.at_ with
  | .plumb =>
    if w.at_ = 0x180008 then
      let s := s.reservedIf (decide (w.get 4 60 ≠ 0))
      if w.has 0 4 then s.resetReqWrite path (BitVec.ofNat 4 (w.get 0 4)) else s
    else if w.at_ = 0x120000 then s.writeUpdCtrl path w.value
    else s
  | .ro => s.roWrite w.at_ w.mask w.value
  | _ => s.violate .undefined

/-- A write to the PLB_ region through BAR4 or over MCTP. -/
def State.plbWrite (s : State) (path : RegPath) (off : Nat) (bs : List Byte) : State :=
  if !s.reaches path then s
  else if !within off 0x100000 0x100000 then s.violate .undefined
  else if within off 0x130000 0x10000 then s.bufWrite path (off - 0x130000) bs
  else if !barSize off bs.length then s.violate .undefined
  else (wordWrites off bs).foldl (fun s w => s.plbWord_write path w) s

/-- A write to a register by any path (R9). (DEDUCED, log entry 45) -/
def State.writeReg (s : State) (path : RegPath) (off : Nat) (bs : List Byte) : State :=
  match path with
  | .bar0 p => s.bar0Write p off bs
  | .strand => s.strandCtl off bs
  | .cfg p => s.writeCfg p off bs
  | .bar4 _ => s.plbWrite path off bs
  | .mctp => s.plbWrite path off bs

/-- HST_TADD_WRITE (R394). (DESIGN CHOICE, log entry 33) -/
def execHstTaddWrite (p : PortId) (bytes : List Byte) (s : State) : Host.Outcome State Fault Refusal :=
  .next (if !s.reaches (.bar0 p) then s else if bytes.length = 16 then s.hostTadd p bytes else s.violate .undefined)

/-- Base of a port's registers (R414). -/
def portBase (p : PortId) : Nat := 0x1000 + 0x10000 * p.val

/-- HST_WL_WRITE (R418): bytes from an offset within the list's four words. -/
def execHstWlWrite (p : PortId) (list : Fin 8) (off : Nat) (bytes : List Byte) (s : State) : Host.Outcome State Fault Refusal :=
  .next (s.bar0Write p (portBase p + 0x100 + 0x20 * list.val + off % 0x20) bytes)

/-- HST_NOTIFY_WRITE (R413, R419): bytes from an offset within the notifier's two words. -/
def execHstNotifyWrite (p : PortId) (v : Fin 64) (off : Nat) (bytes : List Byte) (s : State) : Host.Outcome State Fault Refusal :=
  .next (s.bar0Write p (portBase p + 0x400 + 0x10 * v.val + off % 0x10) bytes)

/-- HST_AP_BASE_WRITE (R417): bytes from an offset within the register. -/
def execHstApBaseWrite (p : PortId) (off : Nat) (bytes : List Byte) (s : State) : Host.Outcome State Fault Refusal :=
  .next (s.bar0Write p (portBase p + 8 + off % 8) bytes)

/-- FT_RANGE_CLEAR_WRITE (R140, R142): bytes from an offset within the register. -/
def execFtRangeClearWrite (path : RegPath) (off : Nat) (bytes : List Byte) (s : State) : Host.Outcome State Fault Refusal :=
  .next (s.writeReg path (0x1010008 + off % 8) bytes)

/-- LATCH_FAULT_LOST_CLEAR (R5, R62): a host's write of the word with 1 in the lost bit; an event of the same cycle that
sets it wins. The write to a core in reset is discarded (R438). (DEDUCED, log entry 44) -/
def execLatchFaultLostClear (c : CoreId) (value : Word) (setNow : Bool) (s : State) : Host.Outcome State Fault Refusal :=
  .next (if !s.pwr.good || decide (s.job.st = .unset) || s.coreInReset c then s
    else s.latchWrite c (BitVec.allOnes 64) (if setNow then value &&& ~~~2 else value))

/-- REGISTER_WRITE (R9). -/
def execRegisterWrite (path : RegPath) (off : Nat) (bytes : List Byte) (s : State) : Host.Outcome State Fault Refusal :=
  .next (s.writeReg path off bytes)

/-! ## Reads (R6, R391, R393) -/

/-- The port whose own registers a path sees. -/
def pathPort : RegPath → Nat
  | .bar0 p => p.val
  | .bar4 p => p.val
  | .cfg p => p.val
  | .mctp => 0
  | .strand => 0

/-- A window maps an offset of the control space (R391): BAR4 and MCTP reach the PLB_ region alone. -/
def pathMaps (path : RegPath) (off : Nat) : Bool :=
  match path with
  | .bar4 _ => within off 0x100000 0x100000
  | .mctp => within off 0x100000 0x100000
  | .bar0 _ => true
  | .strand => true
  | .cfg _ => false

/-- A configuration read of a port (R432): a request that the bus does not have reads as zero. -/
def State.readCfg (s : State) (p : PortId) (off size : Nat) : State :=
  s.emit (.rdata (if cfgSize off size then s.cfgBytes p off size else List.replicate size 0))

/-- A read of the control space by a path that reaches it (R6, R9, R393): the data goes out, and RC fields that the read
covers are cleared; a size that the window does not take reads as zero. -/
def State.readWindow (s : State) (path : RegPath) (off size : Nat) : State :=
  if !barSize off size || !pathMaps path off then (s.emit (.rdata (List.replicate size 0))).violate .undefined
  else (s.emit (.rdata (s.ctlBytes (pathPort path) off size))).ctlRead (pathPort path) off size

/-- READ_CLEAR (R6, R9, R391, R393, R432): what does not answer reads as zero. -/
def execReadClear (path : RegPath) (off size : Nat) (s : State) : Host.Outcome State Fault Refusal :=
  .next (
    if !s.reaches path then s.emit (.rdata (List.replicate size 0))
    else match path with
      | .cfg p => s.readCfg p off size
      | .bar0 _ => s.readWindow path off size
      | .bar4 _ => s.readWindow path off size
      | .mctp => s.readWindow path off size
      | .strand => s.readWindow path off size)

/-! ## BAR2 (R392) -/

/-- The global address that a BAR2 offset reaches; `none` past the BAR. -/
def State.bar2Addr (s : State) (p off : Nat) : Option Word :=
  if 2 ^ (s.port p).bar2Log ≤ off then none
  else
    let y := (s.port p).apBase.toNat * 2 ^ 30 + off
    some (BitVec.ofNat 64 (0xFFF * 2 ^ 52 + (if y < 384 * 2 ^ 30 then y else 2 ^ 46 + (y - 384 * 2 ^ 30))))

/-- BAR2_READ (R392). -/
def execBar2Read (p : PortId) (off size : Nat) (s : State) : Host.Outcome State Fault Refusal :=
  .next (
    match s.reaches (.bar0 p), s.bar2Addr p off with
    | true, some a => (((s.emit (.rdata (s.readAt a size))).countBad a size false).request a size false false true)
    | _, _ => s.emit (.rdata (List.replicate size 0)))

/-- BAR2_WRITE (R392). -/
def execBar2Write (p : PortId) (off : Nat) (bytes : List Byte) (s : State) : Host.Outcome State Fault Refusal :=
  .next (
    match s.reaches (.bar0 p), s.bar2Addr p off with
    | true, some a => (s.writeAt a bytes).request a bytes.length false true false
    | _, _ => s)

end Sys2Proof.Machine
end

