-- ==== Sys2Proof/Machine/Command.lean ====
section
/-! DEFINITION. The command engine (R396–R411): fetch in rotation, the checks of a command against the state, and the
start of a taken command's action. -/

namespace Sys2Proof.Machine

/-! ## A command's words (R399) -/

/-- The command that 64 bytes hold. -/
def parseCmd (port list : Nat) (index : Word) (bs : List Byte) : Cmd :=
  let w (i : Nat) : Nat := leNat (slice bs (8 * i) 8)
  let v (i : Nat) : Word := BitVec.ofNat 64 (w i)
  { port := port, list := list, index := index, opcode := BitVec.ofNat 8 (bitsOf (w 0) 52 8),
    sub := BitVec.ofNat 4 (bitsOf (w 0) 48 4), tag := BitVec.ofNat 32 (bitsOf (w 0) 0 32),
    lift := v 1, course := v 2, done := v 3, a := v 4, b := v 5, c := v 6, d := v 7 }

/-- NOW in a course field. -/
def courseNow : Word := 0xFFFFFFFFFFFFFFFF

/-- Opcodes that use sub, with their sub codes (R400). -/
def subCodes (op : Nat) : Option Nat :=
  match op with
  | 3 => some 2
  | 6 => some 2
  | 8 => some 3
  | 9 => some 2
  | _ => none

/-- A field that the opcode does not use holds a bit (R8, R399, R400). -/
def cmdReserved (k : Cmd) : Bool :=
  let op := k.opcode.toNat
  let usesLift := ([1, 2, 3, 4, 5, 6, 7, 8, 9] : List Nat).contains op
  let usesA := ([1, 2, 3, 7, 8, 9, 10, 11, 12, 13] : List Nat).contains op || (op == 6 && k.sub == 1)
  let usesB := ([1, 2, 3, 7, 8, 9, 11] : List Nat).contains op
  let usesC := op == 11 || (op == 8 && k.sub == 2) || (op == 9 && k.sub == 1)
  ((subCodes op).isNone && k.sub != 0) || (!usesLift && k.lift != 0) || (!usesA && k.a != 0) || (!usesB && k.b != 0) ||
  (!usesC && k.c != 0) || k.d != 0 || (op == 10 && k.a.toNat / 512 != 0) || (op == 13 && k.a.toNat / 16 != 0)

/-! ## Addresses in commands -/

/-- The fast-tier offset of `n` bytes that a global address names in this module's direct fast tier, aligned. -/
def State.ownFast (s : State) (a : Word) (n align : Nat) : Option Nat :=
  let o := addrOff a
  if s.isSelf (addrModule a) ∧ addrSpace a = 0 ∧ o + n ≤ s.ft.capacity ∧ o % align = 0 then some o else none

/-- A tally of the module's own lies where R484 says: on this module, in a scratchpad, a cluster memory or the direct
fast tier. -/
def State.ownTallyAt (s : State) (a : Word) : Bool :=
  s.isSelf (addrModule a) && tallySpace a && (match s.place (align8 a) true with
    | .bad _ => false
    | _ => true)

/-- Bytes at a fast-tier offset, as the module reads them. -/
def State.fastBytes (s : State) (off n : Nat) : List Byte := (List.range n).map (fun i => s.placeByte (s.fastPlace (off + i)))

/-- Whether a tally of the module's own has reached a value (R484): one in a broken home never does. (DEDUCED, log
entry 46) -/
def State.tallyReached (s : State) (a value : Word) : Bool :=
  match s.place (align8 a) false with
  | .mem k => !s.broken k && decide (value.toNat ≤ (s.mem.word k).toNat)
  | .dead => decide (value = 0)
  | _ => false

/-- The value of a tally of the module's own. -/
def State.tallyVal (s : State) (a : Word) : Word :=
  match s.place (align8 a) false with
  | .mem k => s.mem.word k
  | _ => 0

/-! ## Blocks that commands name -/

/-- A run block with its course field (R404); `first` is resolved by the caller. -/
def runPlan (k : Cmd) (bs : List Byte) : RunPlan :=
  let w (i : Nat) : Nat := leNat (slice bs (8 * i) 8)
  let v (i : Nat) : Word := BitVec.ofNat 64 (w i)
  { cmd := k, load := bitOf (w 0) 59, last := bitOf (w 0) 58, courseLen := bitsOf (w 0) 0 24,
    period := bitsOf (w 1) 32 16, courses := bitsOf (w 1) 0 32, first := k.course, start := k.b, jobMask := v 2,
    schedule := bitsOf (w 3) 0 46, programs := bitsOf (w 4) 0 46, progCount := bitsOf (w 5) 0 13,
    base0 := v 6, base1 := v 7, len := v 8, red := if bitOf (w 9) 63 then some (bitsOf (w 9) 0 46) else none }

/-- Reserved bits of a run block that are set. -/
def runReserved (bs : List Byte) : Bool :=
  let w (i : Nat) : Nat := leNat (slice bs (8 * i) 8)
  decide (bitsOf (w 0) 24 34 ≠ 0 ∨ bitsOf (w 1) 48 16 ≠ 0 ∨ bitsOf (w 3) 46 18 ≠ 0 ∨ bitsOf (w 4) 46 18 ≠ 0 ∨
    bitsOf (w 5) 13 51 ≠ 0 ∨ bitsOf (w 9) 46 17 ≠ 0) || (slice bs 80 48).any (fun b => b != 0)

/-- An entry of a program table (R405): image address, context, core field, and whether a reserved bit is set. -/
structure ProgEntry where
  image : Word
  ctx : Nat
  core : Nat
  rsv : Bool
deriving DecidableEq, Repr

/-- The entries of a run's program table. -/
def State.progEntries (s : State) (p : RunPlan) : List ProgEntry :=
  (List.range p.progCount).map (fun i =>
    let b := s.fastBytes (p.programs + 16 * i) 16
    let w := leNat (slice b 8 8)
    { image := leWord (slice b 0 8), ctx := bitsOf w 10 3, core := bitsOf w 0 10, rsv := decide (bitsOf w 13 51 ≠ 0) })

/-- The header of a program image: gen, length, load offset, start pointers (R405). -/
structure ProgImage where
  gen : Nat
  length : Nat
  load : Nat
  ips : List Word
  rsv : Bool
deriving DecidableEq, Repr

/-- The image at a global address. -/
def State.progImage (s : State) (a : Word) : ProgImage :=
  let b := s.readAt a 64
  let w (i : Nat) : Nat := leNat (slice b (8 * i) 8)
  { gen := bitsOf (w 0) 60 4, length := bitsOf (w 0) 0 32, load := bitsOf (w 1) 0 21,
    ips := (List.range 4).map (fun i => BitVec.ofNat 64 (w (2 + i))),
    rsv := decide (bitsOf (w 0) 32 28 ≠ 0 ∨ bitsOf (w 1) 21 43 ≠ 0 ∨ w 6 ≠ 0 ∨ w 7 ≠ 0) }

/-- The cores that an entry names. -/
def ProgEntry.cores (e : ProgEntry) : List Nat := if e.core = 0x3FF then List.range 576 else [e.core]

/-- A clear extent of a restart block, or an extent of a transfer. -/
structure Extent where
  gen : Nat
  port : Nat
  slow : Nat
  length : Nat
  host : Word
  rsv : Bool
deriving DecidableEq, Repr

/-- The extents of a transfer (R342). -/
def State.extents (s : State) (off n : Nat) : List Extent :=
  (List.range n).map (fun i =>
    let b := s.fastBytes (off + 32 * i) 32
    let w (j : Nat) : Nat := leNat (slice b (8 * j) 8)
    { gen := bitsOf (w 0) 60 4, port := bitsOf (w 0) 58 2, slow := bitsOf (w 0) 0 40, length := w 1,
      host := BitVec.ofNat 64 (w 2), rsv := decide (bitsOf (w 0) 40 18 ≠ 0 ∨ w 3 ≠ 0) })

/-- The restart block (R368): gen, arrival, value, face fields, clear extents as (offset, length). -/
structure Restart where
  gen : Nat
  arrival : Word
  value : Word
  base0 : Word
  base1 : Word
  len : Word
  extents : List (Nat × Nat)
  count : Nat
  /-- how many of its header and its extents have reserved bits set -/
  rsv : Nat
deriving DecidableEq, Repr

/-- The restart block at a fast-tier offset. -/
def State.restartAt (s : State) (off : Nat) : Restart :=
  let b := s.fastBytes off 64
  let w (i : Nat) : Nat := leNat (slice b (8 * i) 8)
  let v (i : Nat) : Word := BitVec.ofNat 64 (w i)
  let n := min (bitsOf (w 0) 0 13) 4096
  let ext (i : Nat) : List Byte := s.fastBytes (off + 64 + 16 * i) 16
  { gen := bitsOf (w 0) 60 4, arrival := v 1, value := v 2, base0 := v 3, base1 := v 4, len := v 5
    extents := (List.range n).map (fun i => (leNat (slice (ext i) 0 8) % 2 ^ 46, leNat (slice (ext i) 8 8)))
    count := bitsOf (w 0) 0 13
    rsv := b2n (decide (bitsOf (w 0) 13 47 ≠ 0 ∨ w 6 ≠ 0 ∨ w 7 ≠ 0)) +
      ((List.range n).filter (fun i => decide (leNat (slice (ext i) 0 8) / 2 ^ 46 ≠ 0))).length }

/-- The update descriptor that 128 bytes hold (R323). -/
def parseUpd (bs : List Byte) : Desc :=
  let w (i : Nat) : Nat := leNat (slice bs (8 * i) 8)
  let v (i : Nat) : Word := BitVec.ofNat 64 (w i)
  let hi (i : Nat) : W32 := BitVec.ofNat 32 (w i / 2 ^ 32)
  let lo (i : Nat) : W32 := BitVec.ofNat 32 (w i)
  { rule := BitVec.ofNat 2 (bitsOf (w 0) 58 2), frozen := bitOf (w 0) 57, mason := bitsOf (w 0) 55 2,
    e := BitVec.ofNat 8 (bitsOf (w 0) 47 8), count := bitsOf (w 0) 0 40, bucket := v 1, bktTally := v 2, bktValue := v 3,
    scaleSlot := v 4, scaleTally := v 5, scaleValue := v 6, face := bitsOf (w 7) 0 46, targets := v 8, arrival := v 9,
    recOff := bitsOf (w 10) 0 40, eta := hi 11, lam := lo 11, beta1 := hi 12, beta2 := lo 12, eps := hi 13, c1 := lo 13,
    c2 := hi 14 }

/-- Reserved bits of an update descriptor that are set. -/
def updReserved (bs : List Byte) : Bool :=
  let w (i : Nat) : Nat := leNat (slice bs (8 * i) 8)
  decide (bitsOf (w 0) 40 7 ≠ 0 ∨ bitsOf (w 7) 46 18 ≠ 0 ∨ bitsOf (w 10) 40 24 ≠ 0 ∨ bitsOf (w 14) 0 32 ≠ 0 ∨ w 15 ≠ 0)

/-- The bytes of each descriptor of a list. -/
def State.descBytes (s : State) (off n : Nat) : List (List Byte) := (List.range n).map (fun i => s.fastBytes (off + 128 * i) 128)

/-- The mirror block that 256 bytes hold (R338). -/
def parseMirror (bs : List Byte) : MirrorBlk :=
  let w (i : Nat) : Nat := leNat (slice bs (8 * i) 8)
  let v (i : Nat) : Word := BitVec.ofNat 64 (w i)
  { outEn := bitOf (w 0) 59, inEn := bitOf (w 0) 58, partner := BitVec.ofNat 12 (bitsOf (w 0) 12 12),
    source := BitVec.ofNat 12 (bitsOf (w 0) 0 12), outRing := v 1, outFree := v 2, inRing := v 3, inFull := v 4, inFree := v 5,
    inRegion := bitsOf (w 6) 0 40, inSlot := bitsOf (w 7) 0 40, outBase := v 8, inBase := v 9 }

/-- Reserved bits of a mirror block that are set. -/
def mirrorReserved (bs : List Byte) : Bool :=
  let w (i : Nat) : Nat := leNat (slice bs (8 * i) 8)
  decide (bitsOf (w 0) 24 34 ≠ 0 ∨ bitsOf (w 6) 40 24 ≠ 0 ∨ bitsOf (w 7) 40 24 ≠ 0) ||
  (slice bs 80 176).any (fun b => b != 0)

/-! ## Limits of one in progress (R408) -/

/-- Commands that are taken, or whose action is in progress, with an opcode. -/
def Job.has (j : Job) (op : BitVec 8) (f : Cmd → Bool) : Bool := (j.taken ++ j.started).any (fun k => decide (k.opcode = op) && f k)

/-- A `rewind` is in progress. -/
def State.rewinding (s : State) : Bool := s.job.rewind.isSome || s.job.has 6 (fun _ => true)
/-- A `drain` is in progress. -/
def State.draining (s : State) : Bool := s.msn.xfer.drain.isSome || s.job.has 7 (fun _ => true)
/-- A `restore` is in progress. -/
def State.restoring (s : State) : Bool := s.msn.xfer.cmd.isSome || s.job.has 8 (fun _ => true)
/-- An `update` is taken for a lift. -/
def State.updTakenFor (s : State) (l : Word) : Bool :=
  s.job.has 2 (fun k => k.lift = l) || (s.msn.lift.updTaken.any (fun k => k.lift = l))
/-- A `lift_close` is taken for a lift. -/
def State.closeTakenFor (s : State) (l : Word) : Bool :=
  s.job.has 3 (fun k => k.lift = l) || (s.msn.lift.closeCmd.any (fun k => k.lift = l))

/-- The states in which a command is taken (R408), with the limits of one in progress. A compute reset in progress leaves
the state as it is, and keeps only a RESUME back. (DEDUCED, log entry 42) -/
def State.stateOk (s : State) (k : Cmd) : Bool :=
  let st := s.job.st
  let set := decide (st = .set)
  let live := decide (st = .running ∨ st = .held)
  let work := set || live
  let back := decide (st = .rewinding)
  match k.opcode.toNat with
  | 1 => work
  | 2 => work && !s.updTakenFor k.lift
  | 3 => work && !s.closeTakenFor k.lift
  | 4 => work
  | 5 => work
  | 6 =>
    if k.sub = 0 then (work || back) && !s.rewinding
    else back && !s.rewinding && s.plb.computing.isNone && s.job.stopLift.isSome && s.job.holds.isEmpty &&
      decide (s.pwr.step.toNat < 4)
  | 7 => work && !s.draining
  | 8 => (if k.sub = 0 then work || back else set || back) && !s.restoring
  | 9 => work || back
  | 10 => work || back
  | 11 => live && !s.job.holds.contains Hold.replay.code && s.job.replay.isNone && !s.job.has 11 (fun _ => true)
  | 14 => (set || back) && s.job.reenum.isNone && !s.job.has 14 (fun _ => true)
  | _ => decide (st ≠ .unset)

/-! ## The checks of a `run` (R406) -/

/-- The course that NOW stands for in a `run` (R401). -/
def Job.runNow (j : Job) : Word :=
  if j.st = .set then (match j.ran with
    | some n => n + 1
    | none => 0)
  else match j.runs.getLast? with
    | some p => BitVec.ofNat 64 p.stop
    | none => j.course + 1

/-- The course after the last that a taken `run` covers. -/
def Job.nextCourse (j : Job) : Word :=
  match j.runs.getLast? with
  | some p => BitVec.ofNat 64 p.stop
  | none => j.course + 1

/-- The first reason in a list of conditions and reasons whose condition holds. -/
def firstReason : List (Bool × Reason) → Option Reason
  | [] => none
  | (b, r) :: l => if b then some r else firstReason l

/-- An image of a program table that the module does not take, with its reason. -/
def State.imageFault (s : State) (e : ProgEntry) : Option Reason :=
  let i := s.progImage e.image
  if within e.core 576 447 then some .program
  else if i.gen ≠ 1 then some .generation
  else if i.load % 64 ≠ 0 ∨ 2 ^ 21 < i.load + i.length then some .program
  else none

/-- Some context of a core is loaded, or will be when the courses of a `run` open (R406). -/
def State.willLoad (s : State) (p : RunPlan) (c n : Nat) : Bool :=
  let by_ (q : RunPlan) : Bool := q.load && (s.progEntries q).any (fun e => decide (e.ctx = n) && e.cores.contains c)
  (s.core c).run.loaded.getLsbD n || by_ p || s.job.runs.any (fun q => !q.active && by_ q)

/-- The schedule names a context that is not loaded (R406). -/
def State.scheduleFault (s : State) (p : RunPlan) : Bool :=
  (List.range p.period).any (fun i =>
    (List.range 576).any (fun c =>
      let b := (s.placeByte (s.fastPlace (p.schedule + 288 * i + c / 2))).toNat
      let n := bitsOf b (4 * (c % 2)) 4
      decide (n < 8) && !s.willLoad p c n))

/-- The plan of a `run` that the engine judges, NOW resolved (R401). -/
def State.planOf (s : State) (k : Cmd) (bs : List Byte) : RunPlan :=
  { runPlan k bs with first := if k.course = courseNow then s.job.runNow else k.course }

/-- period, courses and course_len are in range (R404, R427). -/
def State.runRange (s : State) (p : RunPlan) : Bool :=
  inRange p.period 1 4096 && decide (p.courses ≠ 0) && inRange p.courseLen s.start.img.courseMin s.start.img.courseMax

/-- The blocks that a run block names lie in the fast tier, aligned as R299 and R404 say. -/
def State.runPlaces (s : State) (p : RunPlan) : Bool :=
  decide (p.progCount ≤ 4608) && decide (p.schedule + 288 * p.period ≤ s.ft.capacity) &&
  decide (p.programs + 16 * p.progCount ≤ s.ft.capacity) &&
  p.red.all (fun r => decide (r % 2048 = 0) && decide (r + 196608 ≤ s.ft.capacity))

/-- The face fields are aligned to 2 KiB (R404). -/
def RunPlan.faceAligned (p : RunPlan) : Bool :=
  decide (p.base0.toNat % 2048 = 0) && decide (p.base1.toNat % 2048 = 0) && decide (p.len.toNat % 2048 = 0)

/-- The face fields name the window that the face registers hold (R406). -/
def State.sameFace (s : State) (p : RunPlan) : Bool :=
  decide (p.base0.toNat = 2048 * s.ft.base0.toNat) && decide (p.base1.toNat = 2048 * s.ft.base1.toNat) &&
  decide (p.len.toNat = 2048 * s.ft.len.toNat)

/-- What a `run` meets that comes to a module in RUNNING or HELD (R406). -/
def State.runLive (s : State) (p : RunPlan) : Option Reason :=
  if s.job.st = .set then (if p.start ≠ 0 ∧ p.start.toNat < s.chain.time then some .lateStart else none)
  else if p.load || decide (p.start ≠ 0) then some .state
  else if !s.sameFace p then some .faceChange
  else if p.first ≠ s.job.nextCourse then some .operand
  else none

/-- The reason for which a program table is not taken (R405, R406), with load 0 too. -/
def State.programFault (s : State) (p : RunPlan) : Option Reason :=
  let faults := (s.progEntries p).filterMap s.imageFault
  if faults.contains .generation then some .generation else faults.head?

/-- The check of a `run` (R404, R406, R427). -/
def State.checkRun (s : State) (k : Cmd) : Option Reason :=
  match s.ownFast k.a 128 64 with
  | none => some .operand
  | some o =>
    let bs := s.fastBytes o 128
    let p := s.planOf k bs
    if bitsOf (leNat (slice bs 0 8)) 60 4 ≠ 1 then some .generation
    else ((((s.programFault p).or
      (if (s.maskModules p.jobMask).any s.isSelf then none else some .program)).or
      (if s.runRange p && s.runPlaces p && p.faceAligned then none else some .operand)).or (s.runLive p)).or
      (if s.scheduleFault p then some .program else none)

/-! ## The checks of an `update` (R156, R322, R427) -/

/-- Two ranges share a place. -/
def rangesMeet (a n b m : Nat) : Bool := decide (a < b + m) && decide (b < a + n)

/-- Two descriptors overlap in face range, bucket or group block. -/
def Desc.meets (a b : Desc) : Bool :=
  rangesMeet a.face (2 * a.count) b.face (2 * b.count) ||
  rangesMeet (addrOff a.bucket) (8 * a.count) (addrOff b.bucket) (8 * b.count) ||
  rangesMeet a.recOff (48 * a.count) b.recOff (48 * b.count)

/-- Some two descriptors of a list overlap. -/
def descsMeet : List Desc → Bool
  | [] => false
  | d :: ds => ds.any d.meets || descsMeet ds

/-- A constant lies in its range and is a number (R427). -/
def constOk (r : W32 × W32) (v : W32) : Bool :=
  !(decide (bitsOf v.toNat 23 8 = 255) && decide (bitsOf v.toNat 0 23 ≠ 0)) &&
  decide (w32Key r.1 ≤ w32Key v) && decide (w32Key v ≤ w32Key r.2)

/-- The constants that a descriptor's rule uses lie in the image's ranges. -/
def State.constsOk (s : State) (d : Desc) : Bool :=
  let r (i : Nat) : W32 × W32 := s.start.img.rules.getD i (0, 0)
  let base := constOk (r 0) d.eta && constOk (r 1) d.lam && constOk (r 2) d.beta1
  match d.rule.toNat with
  | 0 => base
  | 2 => base && constOk (r 3) d.beta2
  | _ => base && constOk (r 3) d.beta2 && constOk (r 4) d.eps && constOk (r 5) d.c1 && constOk (r 6) d.c2

/-- The target list of a descriptor, where it is valid (R228, R322). -/
def State.descTargets (s : State) (d : Desc) : Option Targets :=
  match s.ownFast d.targets 128 64 with
  | none => none
  | some o => match s.targetList (s.fastBytes o 128) with
    | some t => if !t.cores && t.mask.any (fun m => (s.ownFast m 512 1).isSome) then some t else none
    | none => none

/-- The face checks of a descriptor (R322). -/
def State.faceOk (s : State) (d : Desc) : Bool :=
  let stop := d.face + 2 * d.count
  s.ft.faceValid && decide (stop ≤ 2048 * s.ft.len.toNat) && decide (2048 * s.ft.base0.toNat + stop ≤ s.ft.capacity) &&
  decide (2048 * s.ft.base1.toNat + stop ≤ s.ft.capacity)

/-- A descriptor's own operands (R322). -/
def State.descOk (s : State) (d : Desc) : Bool :=
  decide (0 < d.count ∧ d.count % 1024 = 0) && decide (d.face % 2048 = 0) &&
  decide (d.recOff / 2 ^ 38 = d.mason ∧ d.recOff % 2048 = 0 ∧ d.recOff % 2 ^ 38 + 48 * d.count ≤ s.masonCap d.mason) &&
  !heldArea d.recOff (48 * d.count) && (s.ownFast d.bucket (8 * d.count) 2048).isSome &&
  (s.ownFast d.scaleSlot 8 8).isSome && s.ownTallyAt d.bktTally && s.ownTallyAt d.scaleTally && s.constsOk d

/-- The check of a descriptor list of an `update`, or of a `restore` PARTNER: of several reasons that hold, GENERATION
comes before OPERAND and that before OVERLAP (DESIGN CHOICE, log entry 112). -/
def State.checkDescs (s : State) (a : Word) (n : Nat) : Option Reason :=
  if n = 0 ∨ 4096 < n then some .operand else
  match s.ownFast a (128 * n) 128 with
  | none => some .operand
  | some o =>
    let bs := s.descBytes o n
    let ds := bs.map parseUpd
    firstReason [
      (bs.any (fun b => decide (bitsOf (leNat (slice b 0 8)) 60 4 ≠ 1)), .generation),
      (!ds.all (fun d => s.descOk d && (s.descTargets d).isSome), .operand),
      (descsMeet ds, .overlap)]

/-! ## The other checks -/

/-- The check of an extent list (R342, R343, R320). -/
def State.checkExtents (s : State) (a : Word) (n : Nat) : Option Reason :=
  match s.ownFast a (32 * n) 1 with
  | none => some .operand
  | some o =>
    let es := s.extents o n
    firstReason [
      (es.any (fun e => decide (e.gen ≠ 1)), .generation),
      (es.any (fun e => decide (e.port = 3 ∨ e.slow % 256 ≠ 0 ∨ e.length % 256 ≠ 0) ||
        decide (s.masonCap (e.slow / 2 ^ 38) < e.slow % 2 ^ 38 + e.length) || heldArea e.slow e.length), .operand)]

/-- The check of a restart block (R368, R369). -/
def State.checkRestart (s : State) (k : Cmd) : Option Reason :=
  match s.ownFast k.a 64 64 with
  | none => some .operand
  | some o =>
    let r := s.restartAt o
    let base := (if k.lift.getLsbD 0 then r.base1 else r.base0).toNat
    firstReason [
      (decide (r.gen ≠ 1), .generation),
      (decide (4096 < r.count), .operand),
      (r.extents.any (fun e => decide (e.1 % 256 ≠ 0 ∨ e.2 % 256 ≠ 0 ∨ s.ft.capacity < e.1 + e.2) ||
        rangesMeet e.1 e.2 base r.len.toNat), .operand),
      (!(decide (r.base0.toNat % 2048 = 0) && decide (r.base1.toNat % 2048 = 0) && decide (r.len.toNat % 2048 = 0)), .operand),
      (!s.ownTallyAt r.arrival, .operand)]

/-- An address names a module's memory: 0xFFF, or the module's own address, names the module itself. -/
def State.namesModule (s : State) (a : Word) (m : BitVec 12) : Bool :=
  decide (addrModule a = m.toNat) || (s.isSelf (addrModule a) && s.isSelf m.toNat)

/-- The check of a `mirror` OUT (R338, R340, R320). (DEDUCED, log entry 56) -/
def State.checkMirror (s : State) (k : Cmd) : Option Reason :=
  match s.ownFast k.a 256 1 with
  | none => some .operand
  | some o =>
    let bs := s.fastBytes o 256
    let m := parseMirror bs
    firstReason [
      (decide (bitsOf (leNat (slice bs 0 8)) 60 4 ≠ 1), .generation),
      ((s.ownFast m.inRing (2 ^ 23) 2048).isNone || !s.ownTallyAt m.outFree || !s.ownTallyAt m.inFull, .operand),
      (!(s.namesModule m.outRing m.partner && tallySpace m.outRing), .operand),
      (!(s.namesModule m.inFree m.source && tallySpace m.inFree), .operand),
      ((m.outEn && decide (k.done = 0)) || (decide (k.done ≠ 0) && !s.ownTallyAt k.done), .operand),
      (heldArea m.inRegion (2 * m.inSlot), .operand)]

/-- The operand check of a command (R411). -/
def State.checkOperands (s : State) (k : Cmd) : Option Reason :=
  match k.opcode.toNat with
  | 1 => s.checkRun k
  | 2 => s.checkDescs k.a k.b.toNat
  | 3 => if s.ownTallyAt k.a then none else some .operand
  | 6 => if k.sub = 1 then s.checkRestart k else none
  | 7 => s.checkExtents k.a k.b.toNat
  | 8 =>
    if k.sub = 2 then
      if addrSpace k.c = 0 && !isWindow k.c then s.checkDescs k.a k.b.toNat else some .operand
    else s.checkExtents k.a k.b.toNat
  | 9 =>
    if k.sub = 0 then s.checkMirror k
    else if s.ownTallyAt k.c && decide (k.done ≠ 0) && s.ownTallyAt k.done && s.msn.blk.isSome then none else some .operand
  | 11 =>
    if k.a = s.job.course ∧ s.job.isOpen ∧ k.c.toNat % 256 = 0 ∧ k.c.toNat + 64 + 128 * 576 ≤ s.ft.capacity then none
    else some .operand
  | 12 => if k.a = 0 ∨ k.a.toNat + 2 ^ 21 ≤ s.ft.capacity then none else some .operand
  | 13 =>
    let n := k.a.toNat % 16
    if 1 ≤ n ∧ n ≤ 6 ∧ s.pwr.deepest.toNat ≤ n then none else some .operand
  | _ => none

/-- The checks of a command before the engine reads what it names (R397, R408). -/
def State.checkFront (s : State) (k : Cmd) (gen : Nat) : Option Reason :=
  let op := k.opcode.toNat
  if gen ≠ 1 then some .generation
  else if op = 0 ∨ 14 < op ∨ (subCodes op).any (fun n => decide (n ≤ k.sub.toNat)) then some .opcode
  else if !s.stateOk k then some .state
  else none

/-- The check of a command when the engine takes it (R397, R408, R411). -/
def State.check (s : State) (k : Cmd) (gen : Nat) : Option Reason := (s.checkFront k gen).or (s.checkOperands k)

/-! ## What the engine reads (R162, R179) -/

/-- A list of `n` blocks of `len` bytes at an address of the fast tier, and where the module reads it. -/
def State.listRead (s : State) (a : Word) (n len : Nat) : List (Word × Nat) :=
  if (s.ownFast a (len * n) 1).isSome then [(a, len * n)] else []

/-- The target list of a descriptor and its module mask, as a read. -/
def State.targetReads (s : State) (d : Desc) : List (Word × Nat) :=
  if (s.ownFast d.targets 128 64).isNone then [] else
  (d.targets, 128) :: ((s.descTargets d).bind (fun t => t.mask)).toList.map (fun m => (m, 512))

/-- Descriptors and what they name: target lists and module masks. -/
def State.descReads (s : State) (a : Word) (n : Nat) : List (Word × Nat) :=
  if n = 0 ∨ 4096 < n ∨ (s.ownFast a (128 * n) 128).isNone then [] else
  (a, 128 * n) :: ((s.descBytes (addrOff a) n).map parseUpd).flatMap s.targetReads

/-- What the engine reads of the blocks that a command names as it judges it: address and bytes. (DESIGN CHOICE, log
entry 95) -/
def State.cmdReads (s : State) (k : Cmd) : List (Word × Nat) :=
  match k.opcode.toNat with
  | 1 =>
    if (s.ownFast k.a 128 64).isNone then [] else
    let p := s.planOf k (s.fastBytes (addrOff k.a) 128)
    [(k.a, 128), (p.jobMask, 512)] ++
      (fastAddr p.programs, 16 * p.progCount) :: (s.progEntries p).map (fun e => (e.image, 64)) ++
      (if s.runPlaces p then [(fastAddr p.schedule, 288 * p.period)] else [])
  | 2 => s.descReads k.a k.b.toNat
  | 6 => if k.sub = 1 ∧ (s.ownFast k.a 64 64).isSome
    then [(k.a, 64), (k.a + 64, 16 * (s.restartAt (addrOff k.a)).extents.length)] else []
  | 7 => s.listRead k.a k.b.toNat 32
  | 8 => if k.sub = 2 then s.descReads k.a k.b.toNat else s.listRead k.a k.b.toNat 32
  | 9 => if k.sub = 0 then s.listRead k.a 1 256 else []
  | _ => []

/-- Reads of the module's own, one after another. -/
def State.readAll (s : State) (l : List (Word × Nat)) : State := l.foldl (fun s r => s.engineRead r.1 r.2) s

/-! ## Reserved fields of what a command names (R8) -/

/-- Of a descriptor list, the descriptors and the target lists that have reserved bits set (R228, R323). -/
def State.descsReserved (s : State) (o n : Nat) : Nat :=
  ((s.descBytes o n).map (fun b => b2n (updReserved b) + b2n ((s.descTargets (parseUpd b)).any (fun t => t.rsv)))).sum

/-- Of an extent list, the extents that have reserved bits set (R342). -/
def State.extentsReserved (s : State) (o n : Nat) : Nat := ((s.extents o n).filter (fun e => e.rsv)).length

/-- Of a run's block, its table entries and their images, those that have reserved bits set (R404, R405). -/
def State.runsReserved (s : State) (k : Cmd) (bs : List Byte) : Nat :=
  b2n (runReserved bs) +
    ((s.progEntries (runPlan k bs)).map (fun e => b2n e.rsv + b2n (s.progImage e.image).rsv)).sum

/-- How many of the blocks that a command names have reserved bits set: each descriptor, target list, extent, table entry
and image is one (R8). -/
def State.blockReserved (s : State) (k : Cmd) : Nat :=
  let o := addrOff k.a
  match k.opcode.toNat with
  | 1 => s.runsReserved k (s.fastBytes o 128)
  | 2 => s.descsReserved o k.b.toNat
  | 6 => if k.sub = 1 then (s.restartAt o).rsv else 0
  | 7 => s.extentsReserved o k.b.toNat
  | 8 => if k.sub = 2 then s.descsReserved o k.b.toNat else s.extentsReserved o k.b.toNat
  | 9 => if k.sub = 0 then b2n (mirrorReserved (s.fastBytes o 256)) else 0
  | _ => 0

/-! ## COMMAND_FETCH (R396, R397) -/

/-- List `i` (8 × port + list) has a command that the engine may take: enabled, its port up and not idled (which it is
only while the link of port 0 is up, R447), its doorbell tally past the commands fetched. (DEDUCED, log entry 69) -/
def State.listWaits (s : State) (i : Nat) : Bool :=
  let q := s.port (i / 8)
  let w := SMap.get {} q.lists (i % 8)
  w.enable && q.up && !q.perst && !(q.idle && (s.port 0).up) &&
  s.tallyReached (BitVec.ofNat 64 (0xFFF * 2 ^ 52 + 8 * w.tally.toNat)) (w.consumed + 1)

/-- The list that the rotation serves next. -/
def State.nextList (s : State) : Option Nat := ((List.range 16).map (fun i => (s.job.rot + i) % 16)).find? s.listWaits

/-- Take a command that has passed its checks: what it names is held for its action. (DEDUCED, log entry 39) -/
def State.take (s : State) (k : Cmd) : State :=
  let s := s.modPort k.port (fun p => { p with taken := satAdd p.taken 1 })
  let o := addrOff k.a
  match k.opcode.toNat with
  | 1 =>
    let p := s.planOf k (s.fastBytes o 128)
    s.modJob (fun j => { j with taken := j.taken ++ [k], runs := j.runs ++ [p] })
  | 2 =>
    let ds := (s.descBytes o k.b.toNat).map parseUpd
    (s.modJob (fun j => { j with taken := j.taken ++ [k] })).modLiftRam (fun l => { l with updCopies := l.updCopies ++ [(k, ds)] })
  | 9 =>
    let s := s.modJob (fun j => { j with taken := j.taken ++ [k] })
    if k.sub = 1 then s.modMsn (fun m => { m with retBases := m.retBases ++ [(k, s.tallyVal k.c)] }) else s
  | _ => s.modJob (fun j => { j with taken := j.taken ++ [k] })

/-- Judge a command against the state (R409): reserved bits of the blocks that it names are counted only once it has
passed its checks, one by one (R8). (DESIGN CHOICE, log entry 96) -/
def State.judge (s : State) (k : Cmd) (gen : Nat) (rsv : Bool) : State :=
  let s := if gen ≠ 1 then s.violate .generation else if rsv || cmdReserved k then s.violate .reservedSet else s
  let s := if (s.checkFront k gen).isNone then s.readAll (s.cmdReads k) else s
  match s.check k gen with
  | some r => s.refuse k r
  | none => (s.violateAll (List.replicate (s.blockReserved k) .reservedSet)).take k

/-- COMMAND_FETCH (R396, R397, R408–R411). (DEDUCED, log entry 46) -/
def execCommandFetch (s : State) : Host.Outcome State Fault Refusal :=
  .next (
    if !s.pwr.good || s.start.inReset || decide (s.job.st = .unset) then s else
    match s.nextList with
    | none => s
    | some i =>
      let w := SMap.get {} (s.port (i / 8)).lists (i % 8)
      let off := 4096 * w.base.toNat + 64 * (w.consumed.toNat % 2 ^ w.k.toNat)
      let bs := s.fastBytes off 64
      let k := parseCmd (i / 8) (i % 8) w.consumed bs
      let h := leNat (slice bs 0 8)
      let s := s.engineRead (fastAddr off) 64
      let s := s.modList (i / 8) (i % 8) (fun w => { w with consumed := w.consumed + 1 })
      let s := s.modJob (fun j => { j with rot := (i + 1) % 16 })
      s.judge k (bitsOf h 60 4) (decide (bitsOf h 32 16 ≠ 0)))

/-! ## COMMAND_ACTION_START (R401, R402) -/

/-- The action of a taken command is due: at once for NOW and for a course already open, the earlier
courses included, else at the edge that opens its course (R401; DEDUCED, log entry 108). -/
def State.isDue (s : State) (k : Cmd) : Bool :=
  decide (k.course = courseNow) || (s.job.isOpen && decide (k.course.toNat ≤ s.job.course.toNat))

/-- Commands whose action a hold does not delay (R402). -/
def throughHold (k : Cmd) : Bool := ([6, 10, 11, 12, 13] : List Nat).contains k.opcode.toNat

/-- The STOP of a lift is taken (R336, R337, R366): a retreat needs the lift before whole, and no pin on the closed lift,
neither a `pin` command's nor a drain's, which counts among them (R343). (DEDUCED, log entry 77) -/
def State.stopTaken (s : State) (r : Word) : Bool :=
  let l := s.msn.lift
  if l.closedValid && decide (l.closed = r + 1) then
    l.prevIntact && decide (l.pinsClosed = 0)
  else true

/-- The checks at the point at which an action starts (R322, R336, R337, R343, R366, R369, R401). -/
def State.checkStart (s : State) (k : Cmd) : Option Reason :=
  let l := s.msn.lift
  let pinFault : Option Reason :=
    if !l.pinnable k.lift then some .lift else if l.pins k.lift = 0xFFFF then some .pin else none
  match k.opcode.toNat with
  | 1 => if k.lift = l.closed then none else some .lift
  | 2 =>
    if k.lift ≠ l.closed + 1 then some .lift
    else match l.updCopies.find? (fun x => x.1 = k) with
      | some x => if x.2.all (fun d => (s.descTargets d).isSome && s.faceOk d) then none else some .operand
      | none => none
  | 3 => if k.lift = l.closed + 1 then none else some .lift
  | 4 => pinFault
  | 5 => if l.pins k.lift = 0 then some .pin else none
  | 6 =>
    if k.sub = 0 then if s.stopTaken k.lift then none else some .lift
    else if s.job.stopLift = some k.lift ∧ l.closedValid ∧ l.closed = k.lift then none else some .lift
  | 7 => pinFault
  | 9 => if k.sub = 0 ∧ k.lift ≠ l.closed then some .lift else none
  | _ => none

/-- The plan of a taken `run` whose action may start now: in RUNNING its first course is open and nothing else covers
it (the runs that open a course start at its edge, R279). -/
def State.dueRun (s : State) (k : Cmd) : Option RunPlan :=
  s.job.runs.find? (fun p => decide (p.cmd = k) && !p.active && s.job.isOpen && p.covers s.job.course.toNat &&
    s.job.activeRun.isNone)

/-- COMMAND_ACTION_START (R401): the action of a taken command starts, or the command is refused at that point. -/
def execCommandActionStart (pos : Nat) (s : State) : Host.Outcome State Fault Refusal :=
  .next (match s.job.taken[pos]? with
    | none => s
    | some k =>
      if !s.job.holds.isEmpty && !throughHold k then s
      else if k.opcode = 1 then (match s.dueRun k with
        | some p => s.startRun p
        | none => s)
      else if !s.isDue k then s
      else
        let s := s.modJob (fun j => { j with taken := j.taken.eraseIdx pos })
        match s.checkStart k with
        | none => s.modJob (fun j => { j with started := j.started ++ [k] })
        | some r =>
          (s.modLiftRam (fun l => { l with updCopies := l.updCopies.filter (fun x => x.1 ≠ k) })).refuse k r)

end Sys2Proof.Machine
end

