-- ==== Sys2Proof/Machine/Startup.lean ====
section
/-! DEFINITION. Start-up (R424, R427–R432, R363, R369–R372, R470): power good, the steps of R430, and the spare map. -/

namespace Sys2Proof.Machine

/-! ## Power good (R430, R470, R472) -/

/-- POWER_GOOD (R430): the cold start begins; the Plumb takes its log from flash (R457), a reset of domain POWER is
recorded (R458, R460), and an open blade pair, which the log shows by its number, keeps the module in UNSET (R470).
(PRESUMED, log entry 11) -/
def execPowerGood (strap : BitVec 2) (openPairs : BitVec 4) (s : State) : Host.Outcome State Fault Refusal :=
  .next (
    if !s.pwr.input || s.pwr.off || s.pwr.good then s else
    let s := s.modPwr (fun p => { p with good := true, pwrOk := true, strap := strap })
    let s := s.modPlb (fun p => { p.takeLog with coldStarts := p.takeLog.coldStarts + 1 })
    let s := (s.logAdd (0x5040 + 8 * 18) 8 1).errLog 0x34 0
    let s := s.modStart (fun x => { x with
      phase := 2, short := false, began := s.plb.powered, pairOpen := openPairs, stay := decide (openPairs ≠ 0) })
    if openPairs = 0 then s else s.logSet 0x70 openPairs.toNat)

/-! ## Spares (R54–R56, R428) -/

/-- The logical core of a die and a grid position (R22). -/
def coreAt (die grid : Nat) : Nat := 24 * (6 * (die / 2) + grid / 12) + 12 * (die % 2) + grid % 12

/-- The spare that a core position gets among those not used (R55). -/
def chooseSpare (used : List Replacement) (die grid : Nat) : Option Nat :=
  let free := (List.range 4).filter (fun k => !used.any (fun r => decide (r.die = die ∧ r.spare = 72 + k)))
  ((free.find? (fun k => decide (k = grid % 12 / 3))).or free.head?).map (fun k => 72 + k)

/-- Add recorded replacements to a map (R428): one whose spare is taken, or is not yet chosen, takes another; one that
the map holds already adds nothing. The result is the map and the records as they then stand; `none` where no spare is
left. -/
def placeSpares : List Replacement → List Replacement → Option (List Replacement × List Replacement)
  | m, [] => some (m, [])
  | m, r :: rs =>
    if m.contains r then (placeSpares m rs).map (fun p => (p.1, r :: p.2))
    else
      let taken := decide (r.spare < 72) || m.any (fun x => decide (x.die = r.die ∧ x.spare = r.spare))
      match if taken then chooseSpare m r.die r.grid else some r.spare with
      | none => none
      | some k =>
        let r' := { r with spare := k }
        (placeSpares (m ++ [r']) rs).map (fun p => (p.1, r' :: p.2))

/-- The spare that a map gives a core: the latest replacement of its position counts. -/
def spareOf (m : List Replacement) (c : Nat) : Option Nat :=
  ((m.filter (fun x => decide (coreAt x.die x.grid = c))).getLast?).map (fun x => x.spare)

/-- Apply the spare map: the image's entries, then the recorded replacements (R54, R428); SPARES_EXHAUSTED where no
spare is left (R363). -/
def State.applySpares (s : State) : State :=
  match placeSpares s.start.img.spares s.plb.replacements with
  | none => s.enterFailed 3
  | some (m, recs) =>
    let s := s.modPlb (fun p => { p with replacements := recs })
    (List.range 576).foldl (fun s c => s.modRun c (fun r => { r with spare := spareOf m c })) s

/-- Record that a core position is to be replaced: its spare is chosen as the map is applied. -/
def State.recordSpare (s : State) (die grid : Nat) : State :=
  s.modPlb (fun p => { p with replacements := p.replacements ++ [{ die := die, grid := grid }] })

/-- Record a core position that fails the test of start-up, unless it is replaced already. -/
def State.recordBadCore (s : State) (die grid : Nat) : State :=
  if (s.start.img.spares ++ s.plb.replacements).any (fun r => decide (r.die = die ∧ r.grid = grid)) then s
  else s.recordSpare die grid

/-! ## Retirements at start (R176, R346, R427) -/

/-- Units of a kind that the lifetime log records as retired: 0 PCh, 1 channel, 2 lane. -/
def State.loggedRetired (s : State) (kind : Nat) : List Nat :=
  (s.plb.retirements.filter (fun r => decide (r.1 = kind))).map (fun r => r.2.1)

/-- Record a retirement in the lifetime log and the error log (R458, R460). -/
def State.recordRetired (s : State) (kind unit : Nat) : State :=
  let s := if (s.loggedRetired kind).contains unit then s
    else s.modPlb (fun p => { p with retirements := p.retirements ++ [(kind, unit, s.minute, 0)] })
  s.errLog (0x10 + kind) unit

/-- The PCh that start-up leaves out, ascending: the image's, the log's, and those that did not train. -/
def State.startRetired (s : State) (bad : List Nat) : List Nat :=
  (List.range 512).filter (fun p => s.start.img.ftRetired.contains p || (s.loggedRetired 0).contains p || bad.contains p)

/-- The slow-tier channels that start-up leaves out. -/
def State.startChansOut (s : State) (bad : List Nat) : List Nat :=
  (List.range 16).filter (fun c => bitOf s.start.img.slowRetired c || (s.loggedRetired 1).contains c || bad.contains c)

/-- Some Mason has lost two channels (R346). -/
def twoOnOneMason (out : List Nat) : Bool := (List.range 4).any (fun m => decide (2 ≤ (out.filter (fun c => c / 4 = m)).length))

/-! ## The training record (R431) -/

/-- Offset of the training record in flash (R421). -/
def trainAt : Nat := 0x1820000

/-- The values that the record holds: one for each PCh, slow channel and lane. (DESIGN CHOICE, log entry 124) -/
def trainValues : Nat := 512 + 16 + 96

/-- The record after its CRC: the image version, the cold start count, and the values, which are free. -/
def State.trainContent (s : State) : List Byte :=
  leBytes 8 s.start.img.version.toNat ++ leBytes 8 s.plb.coldStarts ++
  (List.range trainValues).flatMap (fun i => wordBytes (Config.freeWord (s.free + i)))

/-- Write the record (R430, R431). -/
def State.writeTraining (s : State) : State :=
  let c := s.trainContent
  let s := (s.flashErase trainAt (2 ^ 20)).flashWrite trainAt (wordBytes (crc64 c) ++ c)
  s.useFrees trainValues

/-- The record's CRC holds, and its image version is that of the image accepted. -/
def State.trainingHolds (s : State) : Bool :=
  let r := s.flashRead trainAt (8 * (3 + trainValues))
  decide (leWord (slice r 0 8) = crc64 (r.drop 8)) && decide (leNat (slice r 8 8) = s.start.img.version.toNat)

/-! ## The steps (R430) -/

/-- The time since the start began, in ms, as PLB_SO_TIMES holds it (R439). -/
def State.sinceStart (s : State) : BitVec 16 := BitVec.ofNat 16 (min ((s.plb.powered - s.start.began) / 100000) 0xFFFF)

/-- The start stays in UNSET for a reason (R439). -/
def State.stayUnset (s : State) (reason : BitVec 4) : State := s.modStart (fun x => { x with reason := reason, stay := true })

/-- Step 2: the flash is checked (R420) and a firmware slot verified (R461). -/
def State.startFirmware (s : State) : State :=
  if !s.start.flashOk then s.stayUnset rsnFlash else
  match (s.trySlots .firmware).1 with
  | none => s.stayUnset rsnFirmware
  | some slot =>
    let h := (s.imgView .firmware slot).head
    s.modStart (fun x => { x with phase := 3, fwSlot := slot, fwVersion := h.version, fwFloor := h.floor })

/-- The identity (R429): the PUF's pattern, corrected with the helper data, gives the key-encryption key, which unwraps the
device key; where it does not, ident_valid is 0. -/
def State.unwrapIdentity (s : State) (pattern : List Byte) : State :=
  let id := Config.identity (s.flashRead 0x1810000 65536)
  let kek := (sha512 (Config.pufCorrect pattern id.1)).take 32
  let key := unwrapKey kek id.2.1
  s.modStart (fun x => { x with kek := kek, devKey := key.getD [], identValid := key.isSome })

/-- Step 3: the identity is unwrapped (R429) and an image slot accepted (R423). -/
def State.startImage (s : State) (r : StepResult) : State :=
  let s := (s.unwrapIdentity r.puf).modStart (fun x => { x with imageMs := s.sinceStart })
  let t := s.trySlots .setout
  match t.1 with
  | none => (s.modStart (fun x => { x with img := {} })).stayUnset t.2
  | some slot =>
    let v := s.imgView .setout slot
    let s := s.countImage v
    s.modStart (fun x => { x with img := s.imageOf v, slot := slot, reason := if t.2 = 0 then x.reason else t.2, phase := 4 })

/-- The core positions that the test of step 4 finds bad are recorded; a short start tests none (R430, R431). -/
def State.testDies (s : State) (bad : List (Nat × Nat)) : State :=
  if s.start.short then s
  else (bad.filter (fun b => decide (b.1 < 8 ∧ b.2 < 72))).foldl (fun s b => s.recordBadCore b.1 b.2) s

/-- After a cold start no PCh that the image or the log retires is live (R203, R427). -/
def State.knownRetired (s : State) : State :=
  if s.start.short then s else
  let out := s.startRetired []
  { s with ft := { s.ft with retired := out, installed := if 8 ≤ out.length then s.ft.installed else out } }

/-- Step 4: SRAM tested and written to zero, every core brought up, the spare map applied, in a short start too (R54, R372;
DESIGN CHOICE, log entry 92). -/
def State.startDies (s : State) (r : StepResult) : State :=
  let s := (s.testDies r.badCores).knownRetired
  let clk := s.pwr.coreClk
  let s := { s with
    cores := (List.range 576).map (fun c => (c, ({ run := { state := .idle, clkBase := clk } } : Core))), clusters := [] }
  let s := s.zeroRegions (packageRegions.filter (fun g => g != fastRegion))
  (s.applySpares).modStart (fun x => { x with phase := 5 })

/-- Step 5, the slow tier: retired channels, each with the region of its Mason and the group table in it, zero after a cold
start, the lift header (R332, R346, R431). -/
def State.startSlow (s : State) (r : StepResult) : State :=
  let out := s.startChansOut r.badChan
  let fresh := out.filter (fun c => (s.chan c).live)
  let s := (fresh.filter r.badChan.contains).foldl (fun s c => s.recordRetired 1 c) s
  let s := out.foldl (fun s c => s.modChan c (fun k => { k with live := false })) s
  let lost := (fresh.map (fun c => c / 4)).dedup
  let s := lost.foldl (fun s m => s.modMason m (fun x => { x with table := [] })) s
  let s := if s.start.short then s.loseRegions (lost.map slowRegion) else s.zeroRegions ((List.range 4).map slowRegion)
  let s := ({ s with msn := { s.msn with selfRefresh := false } } : State).takeHeaders
  let s := if s.start.short && !fresh.isEmpty then s.modLift Lift.invalid else s
  if twoOnOneMason out then s.enterFailed 2 else s

/-- Step 5, the fast tier: the interleave table of the PCh in use, and zero everywhere (R176, R431). The eighth
retirement installs no table (R199); a table other than the last, installed by the short start, is a rebuild (R201;
DEDUCED, log entry 87). -/
def State.startFast (s : State) (r : StepResult) : State :=
  let out := s.startRetired r.badPch
  let s := (r.badPch.filter (fun p => decide (p < 512))).foldl (fun s p => s.recordRetired 0 p) s
  let s := State.zeroRegions { s with ft := { s.ft with retired := out, selfRefresh := false } } [fastRegion]
  if 8 ≤ out.length then s.enterFailed 1
  else
    let n := if s.start.short && out != s.ft.installed then satAdd s.ft.rebuilds 1 else s.ft.rebuilds
    { s with ft := { s.ft with installed := out, rebuilds := n } }

/-- A fail cause that stands in the lifetime log enters FAILED again (R363); its minute stays (R460). (DEDUCED, log
entry 34) -/
def State.standingFailure (s : State) : State :=
  match s.plb.logFail with
  | none => s
  | some f => if s.job.st = .failed then s else (s.enterFailed f.1).modPlb (fun p => { p with logFail := some f })

/-- Memories trained: in full by a cold start, which writes the training record, and by a short start whose record does not
hold (R430, R431). -/
def State.trainMemory (s : State) : State :=
  let s := s.modStart (fun x => { x with fullTraining := !x.short || !s.trainingHolds, memoryMs := s.sinceStart })
  if s.start.short then s else s.writeTraining

/-- Step 5: memories trained; then the links begin to train (R256, R430), with the lanes that the log records as
retired (R262), and the ledgers take their epoch (R313). -/
def State.startMemory (s : State) (r : StepResult) : State :=
  let s := (((s.startSlow r).startFast r).resetLedgers).trainMemory
  let s := s.standingFailure
  if s.job.st = .failed then s else
  let lanes := (s.plb.retirements.filter (fun x => decide (x.1 = 2))).map (fun x => (x.2.1 / 8, x.2.1 % 8, x.2.2.2))
  let s := { s with lnk := { s.lnk with retiredLanes := lanes } }
  let s := s.modStart (fun x => { x with phase := 6 })
  (List.range 12).foldl State.startTraining s

/-- Step 8: SET (R430); the first start of an image or a firmware raises its counter to its floor (R424, R461).
(DEDUCED, log entry 35) -/
def State.startSet (s : State) : State :=
  let s := s.modStart (fun x => { x with
    phase := 8, setMs := s.sinceStart, raised := true
    rpmc0 := if x.rpmc0.toNat < x.fwFloor.toNat then x.fwFloor else x.rpmc0
    rpmc1 := if x.rpmc1.toNat < x.img.floor.toNat then x.img.floor else x.rpmc1 })
  let s := (s.modPlb (fun p => { p with moduleResets := [] })).setMod .set
  if 4 ≤ s.pwr.step.toNat then s.hold .shedding 0 else s

/-- START_STEP_DONE (R430, R431). -/
def execStartStepDone (r : StepResult) (s : State) : Host.Outcome State Fault Refusal :=
  .next (
    if !s.pwr.good || s.start.inReset || s.start.stay || decide (s.job.st ≠ .unset) then s else
    match s.start.phase.toNat with
    | 2 => s.startFirmware
    | 3 => s.startImage r
    | 4 => s.startDies r
    | 5 => s.startMemory r
    | 6 => (s.modStart (fun x => { x with phase := 7 })).startChain
    | 7 => s.startSet
    | _ => s)

end Sys2Proof.Machine
end

