-- ==== Sys2Proof/Machine/Faults.lean ====
section
/-! DEFINITION. Memory faults (R345, R346, R354–R358): corrected and uncorrected reads, retrains, retirement of a
pseudo-channel or a slow-tier channel, and SRAM errors. -/

namespace Sys2Proof.Machine

/-! ## Pseudo-channels (R355–R357) -/

/-- Offset of a PCh's counts in the lifetime log (R458): corrected, uncorrected, retrains. -/
def pchLog (p : Nat) : Nat := 0x2400 + 16 * p

/-- Insert a number into an ascending list. -/
def insertSorted (x : Nat) : List Nat → List Nat
  | [] => [x]
  | y :: l => if x < y then x :: y :: l else if x = y then y :: l else y :: insertSorted x l

/-- Retire a PCh (R357): its offsets read as zero until the next STOP installs a table without it; the eighth enters
FAILED (R176). -/
def State.retirePch (s : State) (p : Nat) : State :=
  if s.ft.retired.contains p then s else
  let s := s.recordRetired 0 p
  let s := { s with ft := { s.ft with retired := insertSorted p s.ft.retired } }
  let s := s.modPch p (fun q => { q with reread := false, retraining := false })
  if 8 ≤ s.ft.retired.length then s.enterFailed 1 else s.hold .pchRetired p

/-- An event of a PCh that is in use. -/
def State.onPch (s : State) (p : Nat) (act : State → State) : State :=
  if !s.pwr.good || s.ft.retired.contains p then s else act s

/-- A corrected read counts. -/
def State.pchGoodRead (s : State) (p : Nat) : State :=
  (s.modPch p (fun q => { q with corrected := satAdd q.corrected 1, window := satAdd q.window 1 })).logAdd (pchLog p) 8 1

/-- PCH_CORRECTED (R355, R387). -/
def execPchCorrected (p : PchId) (s : State) : Host.Outcome State Fault Refusal := .next (s.onPch p (fun s => s.pchGoodRead p))

/-- An uncorrected read counts. -/
def State.pchBadRead (s : State) (p : Nat) (reread : Bool) : State :=
  (s.modPch p (fun q => { q with uncorrected := satAdd q.uncorrected 1, reread := reread })).logAdd (pchLog p + 8) 4 1

/-- PCH_UNCORRECTED_READ (R355): the read is read again, ahead of every queued request. -/
def execPchUncorrectedRead (p : PchId) (s : State) : Host.Outcome State Fault Refusal :=
  .next (s.onPch p (fun s => if (s.pch p).reread then s else s.pchBadRead p true))

/-- PCH_REREAD_DONE (R355, R387): a clean or corrected re-read ends the event as transient, and a corrected one counts as
one; another retires the PCh. -/
def execPchRereadDone (p : PchId) (r : Reread) (s : State) : Host.Outcome State Fault Refusal :=
  .next (s.onPch p (fun s =>
    if !(s.pch p).reread then s
    else
      let done := s.modPch p (fun q => { q with reread := false })
      match r with
      | .clean => done
      | .corrected => done.pchGoodRead p
      | .uncorrected => (s.pchBadRead p false).retirePch p))

/-- PCH_CE_LIMIT (R355). -/
def execPchCeLimit (p : PchId) (s : State) : Host.Outcome State Fault Refusal :=
  .next (s.onPch p (fun s => if s.start.img.ftCeLimit ≤ (s.pch p).window.toNat then s.retirePch p else s))

/-- PCH_WINDOW_EXPIRY (R355): the window's count starts again. (DEDUCED, log entry 71) -/
def execPchWindowExpiry (p : PchId) (s : State) : Host.Outcome State Fault Refusal :=
  .next (s.onPch p (fun s => s.modPch p (fun q => { q with window := 0 })))

/-- Start a retrain (R356): requests to the PCh queue for it. -/
def State.pchRetrain (s : State) (p : Nat) : State :=
  if (s.pch p).retraining then s
  else (s.modPch p (fun q => { q with retraining := true, retrains := satAdd q.retrains 1 })).logAdd (pchLog p + 12) 4 1

/-- PCH_INTERFACE_CHECK (R356): a margin below the image's floor starts a retrain. -/
def execPchInterfaceCheck (p : PchId) (margin : Nat) (s : State) : Host.Outcome State Fault Refusal :=
  .next (s.onPch p (fun s => if margin < s.start.img.marginFloor then s.pchRetrain p else s))

/-- PCH_CA_PARITY_ERROR (R356). -/
def execPchCaParityError (p : PchId) (s : State) : Host.Outcome State Fault Refusal :=
  .next (s.onPch p (fun s => s.pchRetrain p))

/-- PCH_RETRAIN_DONE (R355, R356): three failed retrains in a row retire the PCh. -/
def execPchRetrainDone (p : PchId) (ok : Bool) (s : State) : Host.Outcome State Fault Refusal :=
  .next (s.onPch p (fun s =>
    if !(s.pch p).retraining then s
    else
      let s := s.modPch p (fun q => { q with retraining := false, fails := if ok then 0 else q.fails + 1 })
      if 3 ≤ (s.pch p).fails then s.retirePch p else s))

/-! ## Slow-tier channels (R345, R346) -/

/-- Offset of a channel's counts in the lifetime log (R458). -/
def chanLog (c : Nat) : Nat := 0x4400 + 16 * c

/-- Retire a slow-tier channel (R346): its Mason's region is lost, with its group table; the closed lift is lost
(R334); a second one on a Mason enters FAILED. (DEDUCED, log entry 37) -/
def State.retireChan (s : State) (c : Nat) : State :=
  if !(s.chan c).live then s else
  let m := c / 4
  let s := s.recordRetired 1 c
  let s := s.modChan c (fun k => { k with live := false, retry := false, retraining := false })
  let s := s.modMason m (fun x => { x with stopped := true, state := 6, table := [], runs := [], wait := 0 })
  let s := (s.loseRegions [slowRegion m]).modLift Lift.invalid
  if (s.liveChans m).length < 3 then s.enterFailed 2 else s.hold .slowLost c

/-- An event of a channel that is in use. -/
def State.onChan (s : State) (c : Nat) (act : State → State) : State :=
  if !s.pwr.good || !(s.chan c).live then s else act s

/-- A corrected code word counts. -/
def State.chanGoodRead (s : State) (c : Nat) : State :=
  (s.modChan c (fun k => { k with corrected := satAdd k.corrected 1, window := satAdd k.window 1 })).logAdd (chanLog c) 8 1

/-- SLOW_CORRECTED (R345, R352). -/
def execSlowCorrected (ch : ChanId) (s : State) : Host.Outcome State Fault Refusal := .next (s.onChan ch (fun s => s.chanGoodRead ch))

/-- An uncorrected read counts. -/
def State.chanBadRead (s : State) (c : Nat) (retry : Bool) : State :=
  (s.modChan c (fun k => { k with uncorrected := satAdd k.uncorrected 1, retry := retry })).logAdd (chanLog c + 8) 4 1

/-- SLOW_UNCORRECTED_READ (R345): read again once. -/
def execSlowUncorrectedRead (ch : ChanId) (s : State) : Host.Outcome State Fault Refusal :=
  .next (s.onChan ch (fun s => if (s.chan ch).retry then s else s.chanBadRead ch true))

/-- SLOW_RETRY_RESULT (R345, R346). -/
def execSlowRetryResult (ch : ChanId) (r : Reread) (s : State) : Host.Outcome State Fault Refusal :=
  .next (s.onChan ch (fun s =>
    if !(s.chan ch).retry then s
    else
      let done := s.modChan ch (fun k => { k with retry := false })
      match r with
      | .clean => done
      | .corrected => done.chanGoodRead ch
      | .uncorrected => (s.chanBadRead ch false).retireChan ch))

/-- SLOW_CE_LIMIT (R345). -/
def execSlowCeLimit (ch : ChanId) (s : State) : Host.Outcome State Fault Refusal :=
  .next (s.onChan ch (fun s => if s.start.img.slowCeLimit ≤ (s.chan ch).window.toNat then s.retireChan ch else s))

/-- SLOW_WINDOW_EXPIRY (R345). -/
def execSlowWindowExpiry (ch : ChanId) (s : State) : Host.Outcome State Fault Refusal :=
  .next (s.onChan ch (fun s => s.modChan ch (fun k => { k with window := 0 })))

/-- SLOW_RETRAIN_START (R345, R352). -/
def execSlowRetrainStart (ch : ChanId) (s : State) : Host.Outcome State Fault Refusal :=
  .next (s.onChan ch (fun s =>
    if (s.chan ch).retraining then s
    else (s.modChan ch (fun k => { k with retraining := true, retrains := satAdd k.retrains 1 })).logAdd (chanLog ch + 12) 4 1))

/-- SLOW_RETRAIN_DONE (R345): three consecutive failures retire the channel. -/
def execSlowRetrainDone (ch : ChanId) (ok : Bool) (s : State) : Host.Outcome State Fault Refusal :=
  .next (s.onChan ch (fun s =>
    if !(s.chan ch).retraining then s
    else
      let s := s.modChan ch (fun k => { k with retraining := false, fails := if ok then 0 else k.fails + 1 })
      if 3 ≤ (s.chan ch).fails then s.retireChan ch else s))

/-! ## SRAM (R354, R358) -/

/-- The number of a unit: logical core, or 576 + cluster (R384). -/
def sramNumber : SramUnit → Nat
  | .core c => c
  | .cluster k => 576 + k

/-- SRAM_CORRECTED (R354, R386, R458). -/
def execSramCorrected (u : SramUnit) (s : State) : Host.Outcome State Fault Refusal :=
  .next (if !s.pwr.good then s else
    (s.modPlb (fun p => { p with sramCorr := satAdd p.sramCorr 1 })).logAdd (0x8000 + 4 * sramNumber u) 4 1)

/-- The word that was met reads as zero (R358): the model writes zero over it. (DEDUCED, log entry 36) -/
def State.zeroWord (s : State) (u : SramUnit) (place : SramPlace) (off : Nat) : State :=
  let o := off / 8 * 8
  match u, place with
  | .core c, .scratchpad => if o < 2 ^ 21 then { s with mem := s.mem.zero (spadKey c o) 8 } else s
  | .core c, .vectorRegisters =>
    s.modRegs c (fun g => { g with bytes := (List.range 8).foldl (fun m i => SMap.erase m (o + i)) g.bytes })
  | .core c, .bank => s.modArr c (fun a => { a with bank := SMap.erase (SMap.erase a.bank (o / 4)) (o / 4 + 1) })
  | .cluster k, .clusterMemory => if o < 2 ^ 25 then { s with mem := s.mem.zero (clusterKey k o) 8 } else s
  | _, _ => s

/-- SRAM_UNCORRECTED (R358): the next STOP resets the unit. -/
def execSramUncorrected (u : SramUnit) (place : SramPlace) (off : Nat) (s : State) : Host.Outcome State Fault Refusal :=
  .next (if !s.pwr.good then s else
    let n := sramNumber u
    let s := s.zeroWord u place off
    let s := s.modPlb (fun p => { p with sramUncorr := satAdd p.sramUncorr 1, sramUnit := BitVec.ofNat 10 n })
    let s := match u with
      | .core c => s.modRun c (fun r => { r with sramBad := true })
      | .cluster k => s.modCluster k (fun x => { x with sramBad := true })
    s.hold .sramUncorrected n)

end Sys2Proof.Machine
end

