-- ==== Sys2Proof/Machine/Work.lean ====
section
/-! DEFINITION. The actions of `run`, `update`, `lift_close`, `pin`, `unpin`, `retire`, `dump`, `shed_ack` and
`re_enumerate` (R16, R272, R322, R337, R355, R379, R404–R406, R451). A command's action takes effect once it has
started (R401). -/

namespace Sys2Proof.Machine

/-- The action of a command that has started and not yet taken effect; a command of another kind, or one that has not
started, has no action to take. (DEDUCED, log entry 48) -/
def State.effect (s : State) (k : Cmd) (op : Nat) (act : State → State) : State :=
  if s.job.started.contains k && decide (k.opcode.toNat = op) then
    act (s.modJob (fun j => { j with started := j.started.erase k }))
  else s

/-- An action with a sub code. -/
def State.effectSub (s : State) (k : Cmd) (op sub : Nat) (act : State → State) : State :=
  if k.sub.toNat = sub then s.effect k op act else s

/-- An action whose lift checks are made as it takes effect, so that two of them do not pass one check together.
(DEDUCED, log entry 48) -/
def State.effectChecked (s : State) (k : Cmd) (op : Nat) (act : State → State) : State :=
  s.effect k op (fun s => match s.checkStart k with
    | some r => s.refuse k r
    | none => act s)

/-! ## run (R404–R406) -/

/-- Load an image for a context into a core (R405, R66): its bytes, a fresh save area with the start pointers, and the
context's counts at zero. -/
def State.loadProg (s : State) (e : ProgEntry) (c : Nat) : State :=
  let i := s.progImage e.image
  let bytes := s.readAt (e.image + 64) i.length
  let s := (s.engineRead e.image 64).engineRead (e.image + 64) i.length
  let s := s.storeList (spadBytes c (BitVec.ofNat 64 i.load) bytes)
  let n := e.ctx
  let s := s.modRun c (fun r => { r with
    holds := r.holds && decide (r.ctx.toNat ≠ n)
    loaded := r.loaded ||| (1#8 <<< n)
    ctxTime := SMap.set r.ctxTime n 0
    ctxCourses := SMap.set r.ctxCourses n 0 })
  s.writeSaved c n (((List.range 4).zip i.ips).flatMap (fun p => placed (saveIps + 8 * p.1) (wordBytes p.2)))

/-- Load the program table of a run (R405), entry by entry. -/
def State.loadProgs (s : State) (p : RunPlan) : State :=
  (s.progEntries p).foldl (fun s e => e.cores.foldl (fun s c => s.loadProg e c) s) s

/-- The face window that a run places in force (R182, R404). -/
def State.placeFace (s : State) (base0 base1 len lift : Word) : State :=
  { s with
    ft := { s.ft with
      base0 := BitVec.ofNat 37 (base0.toNat / 2048), base1 := BitVec.ofNat 37 (base1.toNat / 2048)
      len := BitVec.ofNat 37 (len.toNat / 2048), faceValid := true, parity := lift.getLsbD 0 }
    job := { s.job with lift := lift } }

/-- What a run brings to its first edge: the face window, which stays with the lift of that edge (R12, R182), and
programs; a member of its job that is absent raises PEER_LOST (R360). -/
def State.applyRun (s : State) (p : RunPlan) : State :=
  let s := s.placeFace p.base0 p.base1 p.len s.job.lift
  let s := if p.load then s.loadProgs p else s
  if s.jobPeerLost && !s.job.holds.contains Hold.peerLost.code then s.hold .peerLost 0 else s

/-- RUN (R404–R406). (DEDUCED, log entry 43) -/
def execRun (k : Cmd) (s : State) : Host.Outcome State Fault Refusal :=
  .next (s.effect k 1 (fun s => match s.job.activeRun with
    | some p => s.applyRun p
    | none => s))

/-! ## update and lift_close (R16, R322, R325) -/

/-- Each Mason's descriptors go into its group table, in list order (R322). -/
def State.placeTables (s : State) (ds : List Desc) : State :=
  let l := (List.range ds.length).zip ds
  (List.range 4).foldl (fun s m => s.modMason m (fun x => { x with
    table := l.filter (fun p => decide (p.2.mason = m)), next := 0, wait := 0 })) s

/-- UPDATE (R322). (DEDUCED, log entry 39) -/
def execUpdate (k : Cmd) (s : State) : Host.Outcome State Fault Refusal :=
  .next (s.effect k 2 (fun s =>
    match s.msn.lift.updCopies.find? (fun x => x.1 = k) with
    | none => s
    | some x =>
      (s.placeTables x.2).modLiftRam (fun l => { l with
        updCopies := l.updCopies.erase x, updTaken := some k, updLeft := x.2.length, updWrote := false, skipped := false })))

/-- LIFT_CLOSE (R16). -/
def execLiftClose (k : Cmd) (s : State) : Host.Outcome State Fault Refusal :=
  .next (s.effect k 3 (fun s => s.modLiftRam (fun l => { l with closeCmd := some k })))

/-! ## Pins (R337) -/

/-- Change the pins on a lift by a step. -/
def State.movePins (s : State) (p : Word) (f : BitVec 16 → BitVec 16) : State := s.modLift (fun l => l.setPins p (f (l.pins p)))

/-- PIN (R337). -/
def execPin (k : Cmd) (s : State) : Host.Outcome State Fault Refusal :=
  .next (s.effectChecked k 4 (fun s => (s.movePins k.lift (fun n => n + 1)).complete k))

/-- UNPIN (R337). -/
def execUnpin (k : Cmd) (s : State) : Host.Outcome State Fault Refusal :=
  .next (s.effectChecked k 5 (fun s => (s.movePins k.lift (fun n => n - 1)).complete k))

/-! ## retire, dump, shed_ack, re_enumerate -/

/-- RETIRE_PCH (R355, R357, R400). -/
def execRetirePch (k : Cmd) (s : State) : Host.Outcome State Fault Refusal :=
  .next (s.effect k 10 (fun s => (s.retirePch (k.a.toNat % 512)).complete k))

/-- DUMP (R379): one command's dump is captured at a time. -/
def execDump (k : Cmd) (s : State) : Host.Outcome State Fault Refusal :=
  .next (
    if s.job.dump.isSome then s
    else s.effect k 12 (fun s => (s.modJob (fun j => { j with dump := some k })).wantDump 1))

/-- SHED_ACK (R451). -/
def execShedAck (k : Cmd) (s : State) : Host.Outcome State Fault Refusal :=
  .next (s.effect k 13 (fun s => (s.modPwr (fun p => { p with deepest := p.step })).complete k))

/-- RE_ENUMERATE (R272): REENUM goes to the head; the head itself drops every address and enumerates. -/
def execReEnumerate (k : Cmd) (s : State) : Host.Outcome State Fault Refusal :=
  .next (s.effect k 14 (fun s =>
    let s := s.modJob (fun j => { j with reenum := some k, reenumHeard := false })
    if s.chain.head then ((s.sendDown 0xC 0).dropAddresses).startEnumeration else s.sendUp 0xC 0))

end Sys2Proof.Machine
end

