-- ==== Sys2Proof/Machine/Mason.lean ====
section
/-! DEFINITION. Masons and lift events (R15–R17, R20, R321–R335, R369): the start of a group, its passes, the rules'
arithmetic, the face multicast, and the close or discard of the open lift. -/

namespace Sys2Proof.Machine

/-! ## Planes of a group block (R321) -/

/-- Offset of the slot that holds a lift. -/
def Desc.slotOff (d : Desc) (lift : Word) : Nat := d.recOff + 24 * d.count * (lift.toNat % 2)
/-- Read a plane of a slot: `off` and `width` are the table's multiples of n. -/
def State.plane (s : State) (d : Desc) (lift : Word) (off width : Nat) : List Byte :=
  s.readSlow (d.slotOff lift + off * d.count) (width * d.count)
/-- Write the beginning of a plane. -/
def State.setPlane (s : State) (d : Desc) (lift : Word) (off : Nat) (bs : List Byte) : State :=
  s.writeSlow (d.slotOff lift + off * d.count) bs

/-- Bytes as 16-bit values. -/
def halves (bs : List Byte) : List Nat := (chunks 2 bs).map leNat
/-- Bytes as FP32 values. -/
def floats (bs : List Byte) : List W32 := (chunks 4 bs).map (fun b => BitVec.ofNat 32 (leNat b))
/-- FP32 values as bytes. -/
def floatBytes (l : List W32) : List Byte := l.flatMap (fun x => leBytes 4 x.toNat)

/-- Offset in the fast tier of a group's face halves of a lift (R323). -/
def State.faceOff (s : State) (d : Desc) (lift : Word) : Nat :=
  2048 * (if lift.getLsbD 0 then s.ft.base1.toNat else s.ft.base0.toNat) + d.face

/-! ## The rules (R327, R328) -/

/-- 1.0 -/
def oneF : W32 := 0x3F800000#32

/-- A bucket element as FP32 (R327, R133): poison is not-a-number, or +0 under ZERO_POISONED. (DEDUCED, log entry 53)
-/
def bucketF32 (e : BitVec 8) (zeroBad : Bool) (n : Word) : W32 :=
  if n = poison ∧ zeroBad then 0
  else BitVec.ofNat 32 (convFloat .fp32 false false false (bushelVal e n)).code

/-- A master weight from its halves (R129). -/
def master (face bed : Nat) : W32 := BitVec.ofNat 32 (face * 2 ^ 16 + bed)

/-- What one element of a group is computed from. -/
structure ElemIn where
  g : W32
  w : W32
  m : W32
  v : W32
deriving DecidableEq, Repr

/-- What one element becomes: w′ (for rule T: d), m′ and v′. -/
structure ElemOut where
  w : W32
  m : W32
  v : W32
deriving DecidableEq, Repr

/-- w′ := w − eta × (u + lambda × w). -/
def Desc.decayed (d : Desc) (w u : W32) : W32 := fsub w (fmul d.eta (fadd u (fmul d.lam w)))

/-- Rule M. -/
def Desc.ruleM (d : Desc) (x : ElemIn) : ElemOut :=
  let m := fadd (fmul d.beta1 x.m) x.g
  { w := d.decayed x.w m, m := m, v := x.v }

/-- Rules A and T up to u, with m′ and v′. -/
def Desc.adam (d : Desc) (x : ElemIn) : ElemOut :=
  let m := fadd (fmul d.beta1 x.m) (fmul (fsub oneF d.beta1) x.g)
  let r := fmul (fsub oneF d.beta2) (fmul x.g x.g)
  let v := fadd (fmul d.beta2 x.v) r
  let den := fadd (fsqrt (fmul d.c2 v)) d.eps
  { w := fdiv (fmul d.c1 m) den, m := m, v := v }

/-- Rule A. -/
def Desc.ruleA (d : Desc) (x : ElemIn) : ElemOut := let o := d.adam x; { o with w := d.decayed x.w o.w }

/-- Rule T in its rule pass: d in place of w′. -/
def Desc.ruleT (d : Desc) (x : ElemIn) : ElemOut := let o := d.adam x; { o with w := fadd o.w (fmul d.lam x.w) }

/-- The sign of a value: u = 0 for a zero or not-a-number (R328). -/
def signF (x : W32) : W32 :=
  if (FVal.fin false 0 0).lt (f32 x) then oneF else if (f32 x).lt (.fin false 0 0) then 0xBF800000#32 else 0

/-- Rule S. -/
def Desc.ruleS (d : Desc) (x : ElemIn) : ElemOut :=
  let u := signF (fadd (fmul d.beta1 x.m) (fmul (fsub oneF d.beta1) x.g))
  let m := fadd (fmul d.beta2 x.m) (fmul (fsub oneF d.beta2) x.g)
  { w := d.decayed x.w u, m := m, v := x.v }

/-- One element under a descriptor's rule. -/
def Desc.apply (d : Desc) (x : ElemIn) : ElemOut :=
  match d.rule.toNat with
  | 0 => d.ruleM x
  | 1 => d.ruleA x
  | 2 => d.ruleS x
  | _ => d.ruleT x

/-- The trust pass of one element: w′ from w, d and t. -/
def Desc.trust (d : Desc) (t w u : W32) : W32 := fsub w (fmul d.eta (fmul t u))

/-- A sum of squares over a group (R328): 16 lanes in element order, then a tree of four levels. -/
def sumSquares (l : List W32) : W32 :=
  let lane (j : Nat) : W32 :=
    (((List.range l.length).zip l).filter (fun p => p.1 % 16 = j)).foldl (fun a p => fadd a (fmul p.2 p.2)) 0
  treeOf fadd 0 4 ((List.range 16).map lane)

/-- The trust factor (R328): 1.0 when a sum is zero or not finite. -/
def trustFactor (sw sd : W32) : W32 :=
  let bad (x : W32) : Bool := (f32 x).isZero || !(f32 x).isFinite
  if bad sw || bad sd then oneF else fdiv (fsqrt sw) (fsqrt sd)

/-! ## A pass over a group (R326) -/

/-- Rule v uses the second moment; T writes d, not w′, in its rule pass. -/
def Desc.usesV (d : Desc) : Bool := decide (d.rule = 1 ∨ d.rule = 3)

/-- The closed lift that a group is computed from. -/
def GroupRun.from (g : GroupRun) : Word := g.lift - 1

/-- The weights of the closed lift (R129). -/
def State.weights (s : State) (g : GroupRun) : List W32 :=
  List.zipWith master (halves (s.fastBytes (s.faceOff g.desc g.from) (2 * g.desc.count)))
    (halves (s.plane g.desc g.from 2 2))

/-- The inputs of a group's rule pass (R327). (DEDUCED, log entry 53) -/
def State.passIn (s : State) (g : GroupRun) : List ElemIn :=
  let d := g.desc
  let b := (chunks 8 (s.fastBytes (addrOff d.bucket) (8 * d.count))).map (fun x =>
    fmul (bucketF32 d.e g.zeroBad (leWord x)) g.scale)
  let m := floats (s.plane d g.from 4 4)
  let v := floats (s.plane d g.from 8 4)
  List.zipWith (fun (p : W32 × W32) (q : W32 × W32) => { g := p.1, w := p.2, m := q.1, v := q.2 })
    (b.zip (s.weights g)) (m.zip v)

/-- A pass reads the planes of a group's slot of a lift (R318, R162). -/
def State.readPlanes (s : State) (d : Desc) (lift : Word) (ps : List (Nat × Nat)) : State :=
  ps.foldl (fun s p => s.countSlow (d.slotOff lift + p.1 * d.count) (p.2 * d.count)) s

/-- A pass reads the face halves of a lift from the fast tier (R179). -/
def State.readFaces (s : State) (d : Desc) (lift : Word) : State := s.bulkRead (s.faceOff d lift) (2 * d.count)

/-- What the passes of a group read (R15, R326, R328, R330): from the fast tier as bulk traffic (R179), from the slow tier
as far as it goes (R318). -/
def State.readPass (s : State) (g : GroupRun) : State :=
  let d := g.desc
  match g.phase with
  | .rule =>
    if g.reface then s.readPlanes d g.lift [(0, 2)] else
    ((s.bulkRead (addrOff d.bucket) (8 * d.count)).readFaces d g.from).readPlanes d g.from
      ([(2, 2), (4, 4)] ++ (if d.usesV then [(8, 4)] else []))
  | .trust => ((s.readFaces d g.from).readPlanes d g.from [(2, 2)]).readPlanes d g.lift [(12, 4)]
  | .carry => s.readPlanes d g.from [(0, 2), (2, 2), (4, 4), (8, 4)]
  | .face => s.readFaces d g.lift
  | _ => s

/-- The planes that the rule pass writes for the first `k` elements of its results, and the face halves. -/
def State.writeRule (s : State) (g : GroupRun) (l : List ElemOut) : State :=
  let d := g.desc
  let s := s.setPlane d g.lift 4 (floatBytes (l.map (fun o => o.m)))
  let s := if d.usesV then s.setPlane d g.lift 8 (floatBytes (l.map (fun o => o.v))) else s
  if d.rule = 3 then s.setPlane d g.lift 12 (floatBytes (l.map (fun o => o.w)))
  else s.setPlane d g.lift 2 (l.flatMap (fun o => leBytes 2 (o.w.toNat % 2 ^ 16)))

/-- The new weights of a trust pass. -/
def State.trustOut (s : State) (g : GroupRun) : List W32 :=
  let t := trustFactor g.sw g.sd
  List.zipWith (g.desc.trust t) (s.weights g) (floats (s.plane g.desc g.lift 12 4))

/-- Write the bed plane of weights. -/
def State.writeBeds (s : State) (g : GroupRun) (l : List W32) : State :=
  s.setPlane g.desc g.lift 2 (l.flatMap (fun w => leBytes 2 (w.toNat % 2 ^ 16)))

/-- The planes that a carry copies (R330): offset and width. -/
def carried : List (Nat × Nat) := [(0, 2), (2, 2), (4, 4), (8, 4)]

/-- Carry the first `k` elements of a frozen group. -/
def State.writeCarry (s : State) (g : GroupRun) (k : Nat) : State :=
  carried.foldl (fun s p => s.setPlane g.desc g.lift p.1 ((s.plane g.desc g.from p.1 p.2).take (p.2 * k))) s

/-- A value is not finite. -/
def notFinite (x : W32) : Bool := !(f32 x).isFinite

/-- Count results that are not finite, once per element (R329). -/
def State.countNonfinite (s : State) (m n : Nat) : State := s.modMason m (fun x => { x with nonfinite := satAdd x.nonfinite n })

/-- The elements of a rule pass's results that are counted: rule T's w′ comes in the trust pass (R329). -/
def Desc.ruleBad (d : Desc) (l : List ElemOut) : Nat :=
  (l.filter (fun o => (d.rule ≠ 3 && notFinite o.w) || notFinite o.m || (d.usesV && notFinite o.v))).length

/-- The elements of a trust pass's results that are counted, those apart that the rule pass has counted (R329). -/
def State.trustBad (s : State) (g : GroupRun) (ws : List W32) : Nat :=
  let mv := (floats (s.plane g.desc g.lift 4 4)).zip (floats (s.plane g.desc g.lift 8 4))
  ((ws.zip mv).filter (fun p => notFinite p.1 && !notFinite p.2.1 && !notFinite p.2.2)).length

/-! ## The face multicast (R326, R323) -/

/-- Change one group of a Mason. -/
def State.modGroup (s : State) (m idx : Nat) (f : GroupRun → GroupRun) : State :=
  s.modMason m (fun x => { x with runs := x.runs.map (fun g => if g.idx = idx then f g else g) })

/-- A Mason has an engine slot for a multicast. (DESIGN CHOICE, log entry 33) -/
def State.masonTag (s : State) (m : Nat) : Option Nat := lowestFree (s.mason m).slots 63

/-- Send a group's face halves of a lift to its targets as one multicast `put.s` (R326); a list that was not valid
sends nothing and counts as ended (R322), as does one without targets (R228). (DEDUCED, log entry 55) -/
def State.sendFaces (s : State) (m : Nat) (g : GroupRun) (lift : Word) (faces : List Byte) : State :=
  let s := (s.modGroup m g.idx (fun g => { g with phase := .sent })).modMason m (fun x => { x with wait := 0 })
  let ended := s.modGroup m g.idx (fun g => { g with ownLanded := true, acked := true })
  match g.ids, s.masonTag m with
  | some ids, some tag =>
    if ids.isEmpty then ended else
    let dst := s.addrOf (fastKey (s.faceOff g.desc lift))
    let hdr : Packet :=
      { srcModule := s.self, srcUnit := BitVec.ofNat 10 (576 + m), tag := BitVec.ofNat 6 tag, sig := true, mcb := true }
    let brs := ids.map (fun i =>
      (withModule dst i, putRuns { hdr with aux := withModule g.desc.arrival i } (withModule dst i) faces))
    (s.modGroup m g.idx (fun g => { g with slot := some tag })).launch (576 + m) tag { op := 0x62, mc := true } brs
  | _, _ => ended

/-! ## What a Mason shows (R351) -/

/-- The group in its rule, trust or carry pass: the one that holds later groups. -/
def Mason.current (x : Mason) : Option GroupRun :=
  x.runs.find? (fun g => decide (g.phase = .rule ∨ g.phase = .trustDue ∨ g.phase = .trust ∨ g.phase = .carry))

/-- MSN_UNIT_STATUS after a change. (DEDUCED, log entry 50) -/
def Mason.shown (x : Mason) : BitVec 4 :=
  if x.stopped then 6 else
  match x.current with
  | some g => match g.phase with
    | .carry => 5
    | .rule => 2
    | _ => 3
  | none => if x.runs.any (fun g => decide (g.phase = .face)) then 4 else if x.wait ≠ 0 then 1 else 0

/-- Bring the state of a Mason up to date. -/
def State.showMason (s : State) (m : Nat) : State := s.modMason m (fun x => { x with state := x.shown })

/-- A Mason does no work: a fault, a hold or a STOP has stopped it, or its memory is not at hand. -/
def State.masonIdle (s : State) (m : Nat) : Bool :=
  !s.pwr.good || s.start.inReset || (s.mason m).stopped || s.job.masonStop || s.msn.selfRefresh || s.plb.computing.isSome

/-- A RESUME is at its re-face (R369). -/
def State.refacing (s : State) : Bool := s.job.rewind.any (fun r => r.resume)

/-! ## GROUP_START (R15, R20, R325) -/

/-- The `lift_close` that has been taken for a lift. (DEDUCED, log entry 49) -/
def State.closeFor (s : State) (lift : Word) : Option Cmd :=
  (s.job.taken ++ s.job.started ++ s.msn.lift.closeCmd.toList).find? (fun k => decide (k.opcode = 3 ∧ k.lift = lift))

/-- What a group for a lift waits for, as MSN_UNIT_STATUS codes it (R15, R325, R351). (DEDUCED, log entry 50) -/
def State.groupWait (s : State) (d : Desc) (lift : Word) : BitVec 4 :=
  if (s.closeFor lift).isNone then 1
  else if !s.tallyReached d.bktTally d.bktValue then 2
  else if !s.tallyReached d.scaleTally d.scaleValue then 3
  else if !s.msn.mirrorDone then 4
  else if s.msn.lift.pinned (lift.getLsbD 0) then 5
  else 0

/-- The target modules of a group, read at its start (R322). -/
def State.groupIds (s : State) (d : Desc) : Option (List Nat) := (s.descTargets d).bind (fun t => t.ids)

/-- A Mason moves on to the next group of its table. -/
def State.nextGroup (s : State) (m : Nat) : State :=
  s.modMason m (fun x => { x with next := x.next + 1, index := BitVec.ofNat 12 x.next, wait := 0 })

/-- Start a group for a lift (R325): under SKIP_STEP with a dirty verdict it completes without writing (R20, R335);
otherwise its first write follows at once (R334). (DEDUCED, log entry 51) -/
def State.startGroup (s : State) (m i : Nat) (d : Desc) (lift : Word) : State :=
  let slot := leNat (s.fastBytes (addrOff d.scaleSlot) 8)
  let policy : BitVec 4 := ((s.closeFor lift).map (fun k => k.sub)).getD 0
  let s := ((s.bulkRead (addrOff d.scaleSlot) 8).readAll (s.targetReads d)).nextGroup m
  if slot / 2 ^ 32 ≠ 0 ∧ policy = 0 then
    ((s.modLiftRam (fun l => { l with skipped := true })).descriptorDone m).showMason m
  else
    let s := if s.msn.lift.openState = 0 then s.modLift Lift.firstWrite else s
    let s := s.modLiftRam (fun l => { l with updWrote := true })
    let g : GroupRun :=
      { idx := i, desc := d, phase := if d.frozen then .carry else .rule, lift := lift, scale := BitVec.ofNat 32 slot
        zeroBad := decide (policy = 1), ids := s.groupIds d }
    (s.modMason m (fun x => { x with runs := x.runs ++ [g] })).showMason m

/-- GROUP_START (R15, R325, R369): the next group of the table starts when its conditions hold, else the Mason shows
what it waits for; in a RESUME it takes the groups in order to re-face them. -/
def execGroupStart (m : MasonId) (s : State) : Host.Outcome State Fault Refusal :=
  .next (
    let x := s.mason m
    if s.masonIdle m || x.current.isSome then s else
    match x.table[x.next]? with
    | none => s
    | some (i, d) =>
      if s.refacing then
        let g : GroupRun := { idx := i, desc := d, phase := .rule, lift := s.msn.lift.closed, ids := s.groupIds d, reface := true }
        ((s.nextGroup m).modMason m (fun x => { x with runs := x.runs ++ [g] })).showMason m
      else
        let lift := s.msn.lift.closed + 1
        if s.msn.lift.updTaken.all (fun k => k.lift ≠ lift) then s else
        let w := s.groupWait d lift
        if w = 0 then s.startGroup m i d lift
        else (s.modMason m (fun x => { x with wait := w })).showMason m)

/-! ## The passes (R326, R330, R369) -/

/-- The face halves of weights. -/
def faceBytes (l : List W32) : List Byte := l.flatMap (fun w => leBytes 2 (w.toNat / 2 ^ 16))

/-- The rule pass of a group ends: planes written; rules M, A and S send the new face halves, rule T keeps its sums. -/
def State.endRule (s : State) (m : Nat) (g : GroupRun) : State :=
  let ins := s.passIn g
  let l := ins.map g.desc.apply
  let s := ((s.readPass g).writeRule g l).countNonfinite m (g.desc.ruleBad l)
  if g.desc.rule = 3 then
    s.modGroup m g.idx (fun x => { x with
      phase := .trustDue, sw := sumSquares (ins.map (fun x => x.w)), sd := sumSquares (l.map (fun o => o.w)) })
  else s.sendFaces m g g.lift (faceBytes (l.map (fun o => o.w)))

/-- A carry ends (R330): every plane copied, the lift-L face halves sent; the descriptor is complete with its ACKs.
(DEDUCED, log entry 54) -/
def State.endCarry (s : State) (m : Nat) (g : GroupRun) : State :=
  let s := (s.readPass g).writeCarry g g.desc.count
  let s := s.modMason m (fun x => { x with frozen := satAdd x.frozen 1 })
  let s := s.modGroup m g.idx (fun x => { x with faceDone := true })
  (s.sendFaces m g g.lift (s.plane g.desc g.from 0 2)).endGroups m

/-- A re-face of a group ends: the face plane of the closed slot sent, the slow tier not written (R369). -/
def State.endReface (s : State) (m : Nat) (g : GroupRun) : State :=
  let s := (s.readPass g).sendFaces m g g.lift (s.plane g.desc g.lift 0 2)
  s.modMason m (fun x => { x with runs := x.runs.filter (fun y => y.idx ≠ g.idx) })

/-- A multicast waits for an engine slot: the Mason shows TARGETS. (DEDUCED, log entry 50) -/
def State.waitTargets (s : State) (m : Nat) : State := s.modMason m (fun x => { x with wait := 6 })

/-- RULE_PASS_END (R326, R328, R330, R369). -/
def execRulePassEnd (m : MasonId) (s : State) : Host.Outcome State Fault Refusal :=
  .next (
    if s.masonIdle m then s else
    match (s.mason m).current with
    | none => s
    | some g =>
      if decide (g.phase = .trustDue ∨ g.phase = .trust) then s
      else if (s.masonTag m).isNone && !(decide (g.phase = .rule) && !g.reface && decide (g.desc.rule = 3)) then s.waitTargets m
      else if g.reface then (s.endReface m g).showMason m
      else if g.phase = .carry then (s.endCarry m g).showMason m
      else (s.endRule m g).showMason m)

/-- TRUST_PASS_START (R328). -/
def execTrustPassStart (m : MasonId) (s : State) : Host.Outcome State Fault Refusal :=
  .next (
    if s.masonIdle m then s else
    match (s.mason m).current with
    | none => s
    | some g => if g.phase = .trustDue then (s.modGroup m g.idx (fun x => { x with phase := .trust })).showMason m else s)

/-- TRUST_PASS_END (R326, R328, R329): the new weights' bed plane written and their face halves sent. -/
def execTrustPassEnd (m : MasonId) (s : State) : Host.Outcome State Fault Refusal :=
  .next (
    if s.masonIdle m then s else
    match (s.mason m).current with
    | none => s
    | some g =>
      if g.phase ≠ .trust then s
      else if (s.masonTag m).isNone then s.waitTargets m
      else
        let ws := s.trustOut g
        ((((s.readPass g).countNonfinite m (s.trustBad g ws)).writeBeds g ws).sendFaces m g g.lift
          (faceBytes ws)).showMason m)

/-- A group whose own branch has landed and whose face pass is still to come. -/
def GroupRun.faceDue (g : GroupRun) : Bool := decide (g.phase = .sent) && g.ownLanded && !g.faceDone

/-- FACE_PASS_START (R326). -/
def execFacePassStart (m : MasonId) (s : State) : Host.Outcome State Fault Refusal :=
  .next (
    if s.masonIdle m then s else
    match (s.mason m).runs.find? GroupRun.faceDue with
    | none => s
    | some g => (s.modGroup m g.idx (fun x => { x with phase := .face })).showMason m)

/-- The face pass of a group: the new face halves read back from the module's own buffer. -/
def State.writeFace (s : State) (g : GroupRun) (k : Nat) : State :=
  s.setPlane g.desc g.lift 0 ((s.fastBytes (s.faceOff g.desc g.lift) (2 * g.desc.count)).take (2 * k))

/-- FACE_PASS_END (R326, R334). -/
def execFacePassEnd (m : MasonId) (s : State) : Host.Outcome State Fault Refusal :=
  .next (
    if s.masonIdle m then s else
    match (s.mason m).runs.find? (fun g => g.phase = .face) with
    | none => s
    | some g =>
      let s := (s.readPass g).writeFace g g.desc.count
      let s := s.modGroup m g.idx (fun x => { x with phase := .ending, faceDone := true })
      (s.endGroups m).showMason m)

/-! ## A Mason that STOP stops (R367) -/

/-- The part of a group's pass that a STOP lets finish: the element in hand and a free number of elements before it, in
order, of what the pass writes; those that are not finite are counted (R329). (DEDUCED, log entry 52) -/
def State.stopGroup (m : Nat) (s : State) (g : GroupRun) : State :=
  let k := s.freeVal.toNat % g.desc.count + 1
  let s := s.useFree
  match g.phase with
  | .rule =>
    let l := ((s.passIn g).map g.desc.apply).take k
    if g.reface then s else (s.writeRule g l).countNonfinite m (g.desc.ruleBad l)
  | .carry => s.writeCarry g k
  | .trust =>
    let ws := (s.trustOut g).take k
    (s.countNonfinite m (s.trustBad g ws)).writeBeds g ws
  | .face => s.writeFace g k
  | _ => s

/-- Every Mason ends its passes at the element in hand. (DEDUCED, log entry 52) -/
def State.stopMasons (s : State) : State :=
  (List.range 4).foldl (fun s m =>
    let s := (s.mason m).runs.foldl (State.stopGroup m) s
    s.modMason m (fun x => { x with runs := [], wait := 0, state := if x.stopped then 6 else 0 })) s

/-! ## Close and discard (R16, R20, R334) -/

/-- No fault hold and no rewind stands in the way of a lift event (R359, R367). -/
def State.liftFree (s : State) : Bool :=
  s.pwr.good && !s.start.inReset && s.job.holds.isEmpty && s.job.rewind.isNone && !s.msn.selfRefresh &&
  s.plb.computing.isNone

/-- The `lift_close` and the `update` for the open lift are both in hand, and every descriptor is complete. (DEDUCED,
log entry 49) -/
def State.closing (s : State) : Option Cmd :=
  let l := s.msn.lift
  match l.closeCmd with
  | none => none
  | some k =>
    if s.liftFree && decide (k.lift = l.closed + 1) && l.updTaken.any (fun u => u.lift = k.lift) && decide (l.updLeft = 0) then
      some k
    else none

/-- After a close or a discard: ledgers reset, the commands for the lift ended, the close tally advanced. -/
def State.liftEnded (s : State) (k : Cmd) : State :=
  ((s.modLiftRam (fun l => { l with closeCmd := none, updTaken := none, updWrote := false, skipped := false })).resetLedgers).complete
    k

/-- LIFT_CLOSE_COMMIT (R16, R334). -/
def execLiftCloseCommit (s : State) : Host.Outcome State Fault Refusal :=
  .next (match s.closing with
    | none => s
    | some k =>
      if s.msn.lift.openState = 2 && !s.msn.lift.skipped && s.tallyReached k.a k.b && s.msn.mirrorDone then
        let s := s.modLift Lift.close
        let s := s.modMsn (fun b => { b with mirrorDone := false })
        (s.logOp 0).liftEnded k
      else s)

/-- LIFT_DISCARD (R20, R334): the open lift is discarded without writes. An update of which some groups were skipped and
others written neither closes nor is discarded (DESIGN CHOICE, log entry 93). -/
def execLiftDiscard (s : State) : Host.Outcome State Fault Refusal :=
  .next (match s.closing with
    | none => s
    | some k =>
      if s.msn.lift.skipped && !s.msn.lift.updWrote && decide (k.sub = 0) then
        (s.modLift (fun l => { l with openState := 0 })).liftEnded k
      else s)

end Sys2Proof.Machine
end

