-- ==== Sys2Proof/Machine/Mirror.lean ====
section
/-! DEFINITION. Mirrors, drains and restores (R338–R344, R485, R343, R400, R410). -/

namespace Sys2Proof.Machine

/-- The Masons work: nothing stops them all. -/
def State.masonsWork (s : State) : Bool :=
  s.pwr.good && !s.start.inReset && !s.job.masonStop && !s.msn.selfRefresh && s.plb.computing.isNone

/-- A Mason with an engine slot to give, and the slot. (DEDUCED, log entry 58) -/
def State.anyTag (s : State) : Option (Nat × Nat) :=
  (List.range 4).findSome? (fun m => (s.masonTag m).map (fun t => (m, t)))

/-- The header of a Mason's packets. -/
def State.masonHdr (s : State) (u : Nat × Nat) : Packet :=
  { srcModule := s.self, srcUnit := BitVec.ofNat 10 (576 + u.1), tag := BitVec.ofNat 6 u.2 }

/-! ## The mirror image (R339) -/

/-- Insert a descriptor by its list index. -/
def insertDesc (x : Nat × Desc) : List (Nat × Desc) → List (Nat × Desc)
  | [] => [x]
  | y :: l => if x.1 ≤ y.1 then x :: y :: l else y :: insertDesc x l

/-- The descriptors of the group tables, in the order of their list. -/
def State.imageDescs (s : State) : List Desc :=
  (((List.range 4).flatMap (fun m => (s.mason m).table)).foldr insertDesc []).map (fun p => p.2)

/-- The planes of a group that the image holds: multiples of n for place and bytes. -/
def Desc.imagePlanes (d : Desc) : List (Nat × Nat) := [(2, 2), (4, 4)] ++ (if d.usesV then [(8, 4)] else [])

/-- The pieces of the image of a lift: slow-tier offset and bytes, in image order. -/
def State.imagePieces (s : State) (lift : Word) : List (Nat × Nat) :=
  s.imageDescs.flatMap (fun d => d.imagePlanes.map (fun p => (d.slotOff lift + p.1 * d.count, p.2 * d.count)))

/-- The bytes of the image of a lift. -/
def State.image (s : State) (lift : Word) : List Byte := (s.imagePieces lift).flatMap (fun p => s.readSlow p.1 p.2)

/-- A chunk of an image is read: what of its bytes lies past present capacity is counted (R318). -/
def State.readImage (s : State) (lift : Word) (off n : Nat) : State :=
  ((s.imagePieces lift).foldl (fun (r : State × Nat) p =>
    let lo := max off r.2
    let hi := min (off + n) (r.2 + p.2)
    (if lo < hi then r.1.countSlow (p.1 + (lo - r.2)) (hi - lo) else r.1, r.2 + p.2)) (s, 0)).1

/-- Write bytes at an offset of the image into the planes that hold it. -/
def State.writeImage (s : State) (lift : Word) (off : Nat) (bs : List Byte) : State :=
  ((s.imagePieces lift).foldl (fun (r : State × Nat) p =>
    let lo := max off r.2
    let hi := min (off + bs.length) (r.2 + p.2)
    (if lo < hi then r.1.writeSlow (p.1 + (lo - r.2)) (slice bs (lo - off) (hi - lo)) else r.1, r.2 + p.2)) (s, 0)).1

/-! ## Sending (R339–R341, R485) -/

/-- Image bytes of a chunk at most. -/
def chunkMax : Nat := 1048512

/-- The 64 bytes that open a chunk. -/
def chunkHead (last : Bool) (len : Nat) (lift : Word) (off : Nat) (done : Word) : List Byte :=
  wordBytes (fields [(60, 1), (59, b2n last), (0, len)]) ++ wordBytes lift ++ wordBytes (BitVec.ofNat 64 off) ++
  wordBytes done ++ List.replicate 32 0

/-- A buffer for chunk `k` of a ring is free: the first eight, then those that the free tally gives back (R339). -/
def State.bufferFree (s : State) (free base : Word) (k : Nat) : Bool :=
  decide (k < 8) || s.tallyReached free (base + BitVec.ofNat 64 (k - 7))

/-- Send the next chunk of a mirror as chunk number `k` of a ring. -/
def State.sendChunk (s : State) (u : Nat × Nat) (j : MirrorJob) (bytes : List Byte) (ring full : Word) (k : Nat) : State :=
  let part := slice bytes j.offset chunkMax
  let last := decide (j.image ≤ j.offset + chunkMax)
  let dst := ring + BitVec.ofNat 64 (k % 8 * 2 ^ 20)
  let data := chunkHead last part.length j.lift j.offset j.cmd.done ++ part
  s.launch (576 + u.1) u.2 { op := 0x62 } [(dst, putRuns { s.masonHdr u with sig := true, aux := full } dst data)]

/-- A mirror after a chunk has been sent. -/
def MirrorJob.sent (j : MirrorJob) : MirrorJob :=
  { j with offset := j.offset + min chunkMax (j.image - j.offset), allSent := decide (j.image ≤ j.offset + chunkMax), count := j.count + 1 }

/-- A mirror OUT ends: the closed lift counts as mirrored with the latest taken for it (R16, R325, R341). -/
def MasonBlk.mirrorEnds (m : MasonBlk) (k : Cmd) : MasonBlk :=
  { m with out := none, mirrorDone := m.mirrorDone || decide (k.lift = m.lift.closed ∧ m.mirrorLast = some k) }

/-- Place a mirror block in force and start its mirror (R338, R339, R485); with out_en 0 it completes at once.
(DEDUCED, log entry 56) -/
def State.startMirror (s : State) (k : Cmd) : State :=
  let b := parseMirror (s.fastBytes (addrOff k.a) 256)
  let same (f : MirrorBlk → Bool) : Bool := s.msn.blk.any f
  let outSame := same (fun x => decide (x.partner = b.partner ∧ x.outRing = b.outRing ∧ x.outFree = b.outFree))
  let inSame := same (fun x =>
    decide (x.source = b.source ∧ x.inRing = b.inRing) && decide (x.inFull = b.inFull ∧ x.inFree = b.inFree))
  let s := s.modMsn (fun m => { m with
    blk := some b, kOut := if outSame then m.kOut else 0, kIn := if inSame then m.kIn else 0 })
  if b.outEn then
    let n := (s.image k.lift).length
    s.modMsn (fun m => { m with out := some { cmd := k, lift := k.lift, image := n, doneBase := s.tallyVal k.done } })
  else
    (s.modMsn (fun m => m.mirrorEnds k)).complete k

/-- The mirrors OUT that wait start in the order taken, until one sends (R341). -/
def State.startWaiting (s : State) : List Cmd → State
  | [] => s
  | k :: rest =>
    let s := (s.modMsn (fun m => { m with outWait := rest })).startMirror k
    if s.msn.out.isSome then s else s.startWaiting rest

/-- Where no mirror OUT is in progress, the next that waits starts (R341). -/
def State.nextMirror (s : State) : State := if s.msn.out.isSome then s else s.startWaiting s.msn.outWait

/-- MIRROR_OUT (R338, R341): one that names the partner of a mirror in progress waits for it; one that names another
partner abandons it. -/
def execMirrorOut (k : Cmd) (s : State) : Host.Outcome State Fault Refusal :=
  .next (s.effectSub k 9 0 (fun s =>
    let b := parseMirror (s.fastBytes (addrOff k.a) 256)
    let s := if k.lift = s.msn.lift.closed then
      s.modMsn (fun m => { m with mirrorDone := false, mirrorLast := some k }) else s
    if s.msn.out.isSome && s.msn.blk.any (fun x => x.partner = b.partner) then
      s.modMsn (fun m => { m with outWait := m.outWait ++ [k] })
    else (s.startMirror k).nextMirror))

/-- MIRROR_RETURN (R344, R400, R485): the slot held for the source goes back, its chunks numbered from 0, on the free
tally's value when the command was taken. One is in progress at a time. (DEDUCED, log entry 57) -/
def execMirrorReturn (k : Cmd) (s : State) : Host.Outcome State Fault Refusal :=
  .next (
    if s.msn.ret.isSome then s else
    s.effectSub k 9 1 (fun s =>
      let n := (s.msn.blk.map (fun b => b.inSlot)).getD 0
      let base := ((s.msn.retBases.find? (fun x => x.1 = k)).map (fun x => x.2)).getD 0
      s.modMsn (fun m => { m with
        retBases := m.retBases.filter (fun x => x.1 ≠ k)
        ret := some { cmd := k, lift := k.lift, image := n, doneBase := s.tallyVal k.done, freeBase := base } })))

/-- The mirror OUT in progress may send a chunk. -/
def State.outReady (s : State) : Option (MirrorJob × MirrorBlk) :=
  match s.msn.out, s.msn.blk with
  | some j, some b => if !j.allSent && s.bufferFree b.outFree b.outBase s.msn.kOut then some (j, b) else none
  | _, _ => none

/-- The mirror RETURN in progress may send a chunk. (DEDUCED, log entry 57) -/
def State.retReady (s : State) : Option (MirrorJob × MirrorBlk) :=
  match s.msn.ret, s.msn.blk with
  | some j, some b => if !j.allSent && s.bufferFree j.cmd.c j.freeBase j.count then some (j, b) else none
  | _, _ => none

/-- MIRROR_CHUNK_SEND (R339). -/
def execMirrorChunkSend (s : State) : Host.Outcome State Fault Refusal :=
  .next (
    if !s.masonsWork || s.paused then s else
    match s.anyTag with
    | none => s
    | some u =>
      match s.outReady with
      | some (j, b) =>
        let s := s.readImage j.lift j.offset chunkMax
        (s.sendChunk u j (s.image j.lift) b.outRing j.cmd.b s.msn.kOut).modMsn (fun m => { m with
          out := some j.sent, kOut := m.kOut + 1 })
      | none => match s.retReady with
        | some (j, b) =>
          let slot := b.inRegion + j.lift.toNat % 2 * b.inSlot
          let bytes := s.readSlow slot b.inSlot
          let s := s.countSlow (slot + j.offset) (min chunkMax (b.inSlot - j.offset))
          (s.sendChunk u j bytes j.cmd.a j.cmd.b j.count).modMsn (fun m => { m with ret := some j.sent })
        | none => s)

/-- A mirror whose chunks have all been sent, and whose completion tally has risen by 1 since it started (R340). -/
def State.mirrorOver (s : State) (j : MirrorJob) : Bool := j.allSent && s.tallyReached j.cmd.done (j.doneBase + 1)

/-- MIRROR_COMPLETE (R340, R341): MSN_MIRROR_OUT and the header take the lift; a waiting mirror starts. A RETURN ends
in the same way, and records nothing. (DEDUCED, log entry 56) -/
def execMirrorComplete (s : State) : Host.Outcome State Fault Refusal :=
  .next (
    if !s.masonsWork then s else
    match s.msn.out.filter s.mirrorOver with
    | some j =>
      let s := s.modLift (fun l => { l with mirroredOut := j.lift })
      ((s.modMsn (fun m => m.mirrorEnds j.cmd)).logOp 3).nextMirror
    | none => match s.msn.ret.filter s.mirrorOver with
      | some _ => s.modMsn (fun m => { m with ret := none })
      | none => s)

/-! ## Taking (R340, R344) -/

/-- A chunk's header. -/
structure ChunkHead where
  gen : Nat
  last : Bool
  len : Nat
  lift : Word
  offset : Nat
  done : Word
  rsv : Bool
deriving DecidableEq, Repr

/-- The header that 64 bytes hold. -/
def parseChunk (bs : List Byte) : ChunkHead :=
  let w (i : Nat) : Nat := leNat (slice bs (8 * i) 8)
  { gen := bitsOf (w 0) 60 4, last := bitOf (w 0) 59, len := bitsOf (w 0) 0 20, lift := BitVec.ofNat 64 (w 1), offset := w 2
    done := BitVec.ofNat 64 (w 3), rsv := decide (bitsOf (w 0) 20 39 ≠ 0) || (slice bs 32 32).any (fun b => b != 0) }

/-- A restore from the partner is in progress. -/
def State.partnerRestore (s : State) : Bool := s.msn.xfer.cmd.any (fun k => k.sub = 2)

/-- Change the count of bytes that a transfer has moved. -/
def State.moved (s : State) (n : Nat) : State := s.modXfer (fun x => { x with bytes := x.bytes + BitVec.ofNat 48 n })

/-- Where a chunk's bytes go: the planes of the lift that a restore rebuilds (R344), or a mirror slot (R340). -/
def State.placeChunk (s : State) (b : MirrorBlk) (h : ChunkHead) (bs : List Byte) : State :=
  if s.partnerRestore then (s.writeImage ((s.msn.xfer.cmd.map Cmd.lift).getD 0) h.offset bs).moved bs.length
  else s.writeSlow (b.inRegion + h.lift.toNat % 2 * b.inSlot + h.offset) bs

/-- Take a chunk from its buffer, and add 1 to the sender's free tally; an image of which a chunk was discarded is not
whole, and ends nothing. (DEDUCED, log
entries 59 and 78) -/
def State.takeChunk (s : State) (u : Nat × Nat) (b : MirrorBlk) : State :=
  let off := addrOff b.inRing + s.msn.kIn % 8 * 2 ^ 20
  let h := parseChunk (s.fastBytes off 64)
  let s := (s.engineRead (fastAddr off) 64).engineRead (fastAddr (off + 64)) h.len
  let bad := decide (h.gen ≠ 1) || (!s.partnerRestore && decide (b.inSlot < h.offset + h.len))
  let s := if h.rsv && decide (h.gen = 1) then s.violate .reservedSet else s
  let s := if bad then s.violate .generation else s.placeChunk b h (s.fastBytes (off + 64) h.len)
  let lost := s.msn.recvBad || bad
  let mirror := !s.partnerRestore
  let s := s.modMsn (fun m => { m with
    kIn := m.kIn + 1, recvBad := lost && !h.last
    recv := if h.last && !lost then some (mirror, h.lift, h.done) else m.recv
    xfer := if h.last && !lost && !mirror then { m.xfer with chunksDone := true } else m.xfer })
  s.launch (576 + u.1) u.2 { op := opTadd }
    [(b.inFree, [[{ s.masonHdr u with op := 4, dst := b.inFree, aux := 1 }]])]

/-- MIRROR_CHUNK_TAKE (R340). -/
def execMirrorChunkTake (s : State) : Host.Outcome State Fault Refusal :=
  .next (
    if !s.masonsWork || s.paused || s.msn.recv.isSome then s else
    match s.anyTag, s.msn.blk with
    | some u, some b =>
      if b.inEn && s.tallyReached b.inFull (b.inBase + BitVec.ofNat 64 (s.msn.kIn + 1)) then s.takeChunk u b else s
    | _, _ => s)

/-! ## Drain (R342, R343) -/

/-- The extents that a command names. -/
def State.cmdExtents (s : State) (k : Cmd) : List Extent := s.extents (addrOff k.a) k.b.toNat

/-- The port that moves an extent: the one it names, or the one with less outstanding (R342). (DESIGN CHOICE, log
entry 60) -/
def State.extentPort (s : State) (e : Extent) : Nat :=
  if e.port < 2 then e.port else if (s.port 0).slots.length ≤ (s.port 1).slots.length then 0 else 1

/-- DRAIN (R343): the drain holds a pin on its lift from here on. -/
def execDrain (k : Cmd) (s : State) : Host.Outcome State Fault Refusal :=
  .next (s.effectChecked k 7 (fun s =>
    let s := (s.movePins k.lift (fun n => n + 1)).modLiftRam (fun l => { l with drainPin := some k.lift })
    s.modXfer (fun x => { x with kind := 1, bytes := 0, drain := some k })))

/-- MSN_XFER kind while no drain is in progress (R350). -/
def Xfer.restoreKind (x : Xfer) : BitVec 2 :=
  match x.cmd with
  | some k => if k.sub = 2 then 3 else 2
  | none => 0

/-- A drain ends: its pin is released. -/
def State.endDrain (s : State) : State :=
  let s := match s.msn.lift.drainPin with
    | some p => s.movePins p (fun n => if n = 0 then 0 else n - 1)
    | none => s
  (s.modLiftRam (fun l => { l with drainPin := none })).modXfer (fun x =>
    { x with drain := none, kind := x.restoreKind })

/-- DRAIN_COMPLETE (R342, R343, R400): the extents are in host memory. (DEDUCED, log entry 61) -/
def execDrainComplete (s : State) : Host.Outcome State Fault Refusal :=
  .next (match s.msn.xfer.drain with
    | none => s
    | some k =>
      if s.paused || s.msn.selfRefresh then s else
      let es := s.cmdExtents k
      let s := es.foldl (fun s e =>
        (s.countSlow e.slow e.length).emit (.hostWrite (s.extentPort e) e.host (s.readSlow e.slow e.length))) s
      let s := s.moved (es.map (fun e => e.length)).sum
      (s.endDrain.logOp 2).complete k)

/-! ## Restore (R343, R344) -/

/-- A restore from hosts begins (R343). -/
def State.startRestore (s : State) (k : Cmd) : State :=
  s.modXfer (fun x => { x with kind := 2, bytes := 0, cmd := some k, chunksDone := false, facesDone := false, faceWork := [] })

/-- RESTORE_STAGE (R343). -/
def execRestoreStage (k : Cmd) (s : State) : Host.Outcome State Fault Refusal :=
  .next (s.effectSub k 8 0 (fun s => s.startRestore k))

/-- RESTORE_COMMIT (R343). -/
def execRestoreCommit (k : Cmd) (s : State) : Host.Outcome State Fault Refusal :=
  .next (s.effectSub k 8 1 (fun s => s.startRestore k))

/-- The pieces of at most 1 MiB in which a group's face halves are got from the face source into the face plane.
(DEDUCED, log entry 62) -/
def Desc.facePieces (d : Desc) (lift src : Word) : List (Nat × Nat × Word × Nat) :=
  let n := 2 * d.count
  (List.range ((n + 2 ^ 20 - 1) / 2 ^ 20)).map (fun i =>
    let o := i * 2 ^ 20
    (d.mason, d.slotOff lift + o, src + BitVec.ofNat 64 (d.face + o), min (2 ^ 20) (n - o)))

/-- RESTORE_PARTNER (R344): the descriptors go into the group tables, and the Masons get the face halves of every
group from the face source; the chunks of the mirror slot come by MIRROR_CHUNK_TAKE. -/
def execRestorePartner (k : Cmd) (s : State) : Host.Outcome State Fault Refusal :=
  .next (s.effectSub k 8 2 (fun s =>
    let ds := (s.descBytes (addrOff k.a) k.b.toNat).map parseUpd
    let s := s.placeTables ds
    let work := ds.flatMap (fun d => d.facePieces k.lift k.c)
    (s.modXfer (fun x => { x with
      kind := 3, bytes := 0, cmd := some k, chunksDone := false, facesDone := false, faceWork := work })).faceGets))

/-- Write the bytes of a restore's extents, in order. -/
def State.writeExtents (s : State) (es : List Extent) (data : List Byte) : State :=
  (es.foldl (fun (r : State × List Byte) e => (r.1.writeSlow e.slow (r.2.take e.length), r.2.drop e.length)) (s, data)).1

/-- The command of a restore has ended. -/
def State.restored (s : State) (k : Cmd) : State :=
  let s := s.modXfer (fun x => { x with cmd := none, kind := if x.drain.isSome then 1 else 0 })
  (s.logOp 5).complete k

/-- The lift that a committing restore makes the closed one (R334, R343). -/
def State.commitLift (s : State) (lift : Word) : State :=
  (s.modLift (fun l => l.commit lift)).modMsn (fun m => { m with mirrorDone := false })

/-- RESTORE_COMPLETE (R343, R344): `data` is what host memory holds at the extents of a restore from hosts; one from a
partner ends when its chunks and its face planes are written. (DEDUCED, log entry 61) -/
def execRestoreComplete (data : List Byte) (s : State) : Host.Outcome State Fault Refusal :=
  .next (match s.msn.xfer.cmd with
    | none => s
    | some k =>
      if s.paused || s.msn.selfRefresh then s
      else if s.partnerRestore then
        if s.msn.xfer.chunksDone && s.msn.xfer.facesDone then (s.commitLift k.lift).restored k else s
      else
        let es := s.cmdExtents k
        let n := (es.map (fun e => e.length)).sum
        if data.length ≠ n then s else
        let s := (s.writeExtents es data).moved n
        (if k.sub = 1 then s.commitLift k.lift else s).restored k)

/-- HOST_ACCESS_TIMEOUT (R410): a drain or a restore ends without completion, with HOST_ERROR. -/
def execHostAccessTimeout (isDrain : Bool) (s : State) : Host.Outcome State Fault Refusal :=
  .next (
    if isDrain then (match s.msn.xfer.drain with
      | some k => s.endDrain.refuse k .hostError
      | none => s)
    else match s.msn.xfer.cmd with
      | some k =>
        if s.partnerRestore then s
        else (s.modXfer (fun x => { x with cmd := none, kind := if x.drain.isSome then 1 else 0 })).refuse k .hostError
      | none => s)

end Sys2Proof.Machine
end

