-- ==== Sys2Proof/Machine/Rewind.lean ====
section
/-! DEFINITION. The warm rewind (R365–R370) and the suspect replay (R375–R378). -/

namespace Sys2Proof.Machine

/-! ## Quiescence (R367 step 2) -/

/-- An engine has no operation open (R361). -/
def Engine.quiet (e : Engine) : Bool := e.copies.isEmpty && e.remotes.isEmpty

/-- The compute reset of a STOP whose rw_quiesce has expired waits for the end of a dump's capture (R379). -/
def State.quiesceReset (s : State) : Bool := s.plb.resetReq.any (fun r => r.2 = srcQuiesce ∨ r.2 = srcShed)

/-- No copy, remote operation or Mason multicast is open, and no compute reset is due or in progress. (DEDUCED, log
entry 64) -/
def State.quiesced (s : State) : Bool :=
  !s.quiesceReset &&
  s.cores.all (fun k => k.2.eng.quiet) && s.msn.units.all (fun m => m.2.slots.isEmpty) &&
  s.ports.all (fun p => p.2.slots.isEmpty) && s.plb.computing.isNone

/-! ## STOP, step 1 (R367, R402) -/

/-- Every taken command whose action has not taken place is discarded with REWOUND (R402). (DEDUCED, log entry 48) -/
def State.rewound (s : State) : State :=
  let ks := s.job.taken ++ s.job.started ++ s.msn.outWait
  let s := s.modJob (fun j => { j with taken := [], started := [] })
  let s := s.modMsn (fun m => { m with outWait := [], retBases := [] })
  let s := s.modLiftRam (fun l => { l with updCopies := [] })
  ks.foldl (fun s k => s.refuse k .rewound) s

/-- Step 1 of a STOP: REWINDING; strands frozen; Masons stopped at the element in hand; mirrors abandoned; joins that
are not whole discarded (R310). -/
def State.beginStop (s : State) (k : Option Cmd) (lift : Word) (shed : Bool) : State :=
  let s := s.rewound.stopMasons.dropJoins
  let s := s.modMsn (fun m => { m with out := none, ret := none, recv := none, recvBad := false, mirrorDone := false })
  let s := s.modChain (fun c => { c with ready := false })
  let s := s.modJob (fun j => { j with
    frozen := true, masonStop := true, runs := [], isOpen := false, replay := none
    rewind := some { cmd := k, lift := lift, shed := shed } })
  s.setMod .rewinding

/-- REWIND_STOP (R366, R367). -/
def execRewindStop (k : Cmd) (s : State) : Host.Outcome State Fault Refusal :=
  .next (s.effectSub k 6 0 (fun s => s.beginStop (some k) k.lift false))

/-! ## STOP, step 4: the lift (R366, R368) -/

/-- A discard made by STOP (R368). -/
def Lift.discard (l : Lift) : Lift := { l with openState := 0, prevIntact := l.prevIntact && decide (l.openState = 0) }

/-- The lift state that a STOP of lift R leaves (R366, R367). -/
def Lift.stopped (l : Lift) (r : Word) : Lift :=
  let d := l.discard
  let d := if !d.closedValid ∨ d.closed = r then d
    else if d.closed = r + 1 ∧ d.prevIntact then d.retreat
    else d.invalid
  { d.unpinned with updTaken := none, updLeft := 0, updWrote := false, skipped := false, closeCmd := none, updCopies := [] }

/-- Steps 3 and 4: the snapshot, the ledgers, whose epoch is the lift closed until now (R313), no reduction block in
force, the lift with its face window (R336), the chunk counts. -/
def State.stopLifts (s : State) (r : Word) : State :=
  let closed := s.msn.lift.closed
  let s := ((s.snapshot s.job.course).resetLedgers).setBlock none
  let s := s.modLift (fun l => l.stopped r)
  let s := if s.msn.lift.closed = closed then s else s.flipFace
  let s := s.modMsn (fun m => { m with kOut := 0, kIn := 0 })
  (List.range 4).foldl (fun s m => s.modMason m (fun x => { x with stopped := false, state := 0, wait := 0 })) s

/-! ## STOP, steps 5 to 8 -/

/-- A core at step 5: strands reset, contexts not loaded, tiles empty, bank and latches zero. -/
def State.clearCore (s : State) (c : Nat) : State :=
  let s := (List.range 4).foldl (fun s t => s.resetStrand c t) s
  let s := s.modRegs c (fun g => { g with marks := [] })
  let s := s.modArr c (fun a => { a.edge with bank := [] })
  let s := s.modEng c (fun e => { e with krel := [], tops := [] })
  s.modRun c (fun r => { r with
    state := .idle, holds := false, loaded := 0, faulted := false, misfitCourse := 0 })

/-- Cores marked under R45. -/
def State.markedCores (s : State) : List Nat := (List.range 576).filter (fun c => (s.core c).arr.lfMarked)

/-- A controller has not quiesced: an arrival that found every keystone slot in use waits at it (R222, R361). (DEDUCED, log
entry 122) -/
def Cluster.unquiet (k : Cluster) : Bool := !k.stalled.isEmpty

/-- Steps 5 and 6: strands, cores and clusters; the spare map with every marked core (R54, R56, R361). -/
def State.stopCores (s : State) : State :=
  let ks := (List.range 72).filter (fun k => (s.cluster k).sramBad || (s.cluster k).unquiet)
  let s := (List.range 576).foldl State.clearCore s
  let s := ((List.range 576).filter (fun c => (s.core c).run.sramBad || !(s.core c).eng.quiet)).foldl State.resetCore s
  let s := ks.foldl State.resetCluster s
  let marked := s.markedCores
  let s := marked.foldl (fun s c => ((s.recordSpare (coreDie c) (coreGrid c)).resetCore c).modArr c (fun a => { a with lfMarked := false })) s
  s.applySpares

/-- Every work list disabled, its consumed count at zero (R398). -/
def Port.listsOff (p : Port) : Port :=
  { p with lists := p.lists.map (fun (l : Nat × WorkList) => (l.1, { l.2 with enable := false, consumed := 0 })) }

/-- Step 7: the interleave table without the PCh retired since the last install (R176, R398). -/
def State.installTable (s : State) : State :=
  if s.ft.retired = s.ft.installed then s else
  let s := s.breakWaits (fun key => decide (key / 2 ^ 48 = 0))
  let s := s.loseRegions [fastRegion]
  let s := { s with ft := { s.ft with
    installed := s.ft.retired, rebuilds := satAdd s.ft.rebuilds 1, rbuf := [], broken := true
    pchs := s.ft.pchs.map (fun (p : Nat × Pch) => (p.1, { p.2 with crit := [], bulk := [], ingress := [] })) } }
  let s := (List.range 72).foldl (fun s k => s.modCluster k (fun x => { x with brokenEvents := satAdd x.brokenEvents 1 })) s
  { s with ports := s.ports.map (fun (p : Nat × Port) => (p.1, p.2.listsOff)) }

/-- Every keystone slot writes its object back as it unbinds (R222). -/
def State.writeSlots (s : State) : State :=
  (s.clusters.flatMap (fun k => k.2.slots.map (fun p => p.2))).foldl State.writeBack s

/-- Step 8: every broken-home mark cleared, every keystone slot unbound. -/
def State.clearBroken (s : State) : State :=
  let s := s.writeSlots
  { s with
    ft := { s.ft with broken := false }
    clusters := s.clusters.map (fun (k : Nat × Cluster) =>
      (k.1, { k.2 with brokenClm := false, brokenSpad := 0, slots := [], stalled := [] }))
    net := { s.net with chainRounds := [] } }

/-! ## STOP, step 9 -/

/-- Step 9: the hold cause cleared and the command completed; a shed STOP leaves the cause standing, confirms the
closed lift, and puts the fast tier in self-refresh (R449). (DEDUCED, log entry 65) -/
def State.endStop (s : State) (r : Rewind) : State :=
  let s := s.modJob (fun j => { j with
    rewind := none, frozen := false, masonStop := false, parked := none
    holds := if r.shed then j.holds else []
    stopLift := if r.shed then none else some r.lift })
  match r.cmd with
  | some k => ((s.modJob (fun j => { j with stops := satAdd j.stops 1 })).logOp 1).complete k
  | none => { s.writeHeaders with ft := { s.ft with selfRefresh := decide (5 ≤ s.pwr.step.toNat) } }

/-- STOP_QUIESCED (R367): steps 3 to 9. A suspect replay that has quiesced goes on too (R376). -/
def State.finishStop (s : State) (r : Rewind) : State :=
  let s := (s.stopLifts r.lift).stopCores
  if s.job.st = .failed then s else (s.installTable.clearBroken).endStop r

/-! ## The suspect replay (R376–R378) -/

/-- A suspect's entry as its strands stand (R378). -/
def State.suspectAt (s : State) (c : Nat) (outcome : BitVec 4) (busy : Word) : Suspect :=
  let k := s.core c
  let w (t : Nat) : Wait := (SMap.get {} k.strands t).wait
  { core := c, ctx := k.run.ctx, outcome := outcome, atEnd := BitVec.ofNat 4 (strandMask k (fun x => x.atEnd))
    waiting := BitVec.ofNat 4 (strandMask k Strand.inTwait)
    kinds := BitVec.ofNat 16 ((List.range 4).map (fun t => (w t).kind * 2 ^ (4 * t))).sum, busy := busy
    ips := (List.range 4).map (fun t => (SMap.get {} k.strands t).ip), waits := (List.range 4).flatMap (fun t => (w t).words) }

/-- The 128 bytes of an entry (R378). -/
def Suspect.bytes (x : Suspect) : List Byte :=
  wordBytes (fields [(54, x.core), (51, x.ctx.toNat), (47, x.outcome.toNat), (43, x.atEnd.toNat), (39, x.waiting.toNat),
    (23, x.kinds.toNat)]) ++ wordBytes x.busy ++ x.ips.flatMap wordBytes ++ x.waits.flatMap wordBytes ++ List.replicate 16 0

/-- The bytes of the report (R378). -/
def Replay.report (r : Replay) : List Byte :=
  wordBytes (fields [(60, 1), (0, r.done.length)]) ++ wordBytes r.course ++ List.replicate 48 0 ++ r.done.flatMap Suspect.bytes

/-- Change the replay. -/
def State.modReplay (s : State) (f : Replay → Replay) : State := s.modJob (fun j => { j with replay := j.replay.map f })

/-- The replay ends: it is counted (R458), its report is written and the command completes; the module stays in HELD
(R377). -/
def State.endReplay (s : State) (r : Replay) : State :=
  let s := (s.modJob (fun j => { j with replay := none })).logOp 7
  (s.fastWrite (r.cmd.c.toNat % 2 ^ 46) r.report).complete r.cmd

/-- Replay a suspect (R377): strands reset, the context restored from its save area, the strands released. (DEDUCED,
log entry 63) The course goes on, and its in-course count of latch faults with it (R45). -/
def State.replayCore (s : State) (c : Nat) : State :=
  let n := (s.core c).run.ctx.toNat
  let s := (List.range 4).foldl (fun s t => s.resetStrand c t) s
  let s := (s.modArr c (fun a => { a.edge with lfInCourse := a.lfInCourse })).modRegs c (fun g => { g with wcnt := [] })
  ((s.modRun c (fun r => { r with faulted := false, holds := false })).releaseCtx c n).modReplay (fun r => { r with current := some c })

/-- Take the next suspect that can be restored; with none left, or no time left, the replay ends. (DEDUCED, log
entry 63) -/
def State.nextSuspect (s : State) (r : Replay) : List Nat → State
  | [] => s.endReplay { r with left := [], current := none }
  | c :: rest =>
    if r.beganAt + r.limit ≤ s.chain.time then
      s.nextSuspect { r with done := r.done ++ [s.suspectAt c 0 0] } rest
    else if (s.cluster (coreCluster c)).brokenClm then
      s.nextSuspect { r with done := r.done ++ [s.suspectAt c 4 0] } rest
    else
      (s.modJob (fun j => { j with replay := some { r with left := rest, current := some c } })).replayCore c

/-- The module has quiesced: the suspects are the contexts of the cores in RUNNING, in ascending order (R376). -/
def State.beginSuspects (s : State) (r : Replay) : State :=
  let cs := (List.range 576).filter (fun c => (s.core c).run.state = .running)
  s.nextSuspect { r with begun := true, beganAt := s.chain.time } cs

/-- SUSPECT_REPLAY (R376): HELD with cause REPLAY; a limit of 0 is four times the course length. -/
def execSuspectReplay (k : Cmd) (s : State) : Host.Outcome State Fault Refusal :=
  .next (s.effect k 11 (fun s =>
    let len := (s.job.activeRun.map (fun p => p.courseLen)).getD 0
    let r : Replay := { cmd := k, course := k.a, limit := if k.b = 0 then 4 * len else 100 * k.b.toNat }
    let s := (s.hold .replay 0).modJob (fun j => { j with replay := some r })
    if s.quiesced then s.beginSuspects r else s))

/-- STOP_QUIESCED (R367, R376). -/
def execStopQuiesced (s : State) : Host.Outcome State Fault Refusal :=
  .next (
    if !s.quiesced then s else
    match s.job.rewind, s.job.replay with
    | some r, _ => if r.resume then s else s.finishStop r
    | none, some r => if r.begun then s else s.beginSuspects r
    | none, none => s)

/-- RW_QUIESCE_EXPIRY (R367, R376, R379, R449): a STOP performs a compute reset, at the end of a dump's capture where one
is under way; a suspect replay goes on. -/
def execRwQuiesceExpiry (s : State) : Host.Outcome State Fault Refusal :=
  .next (
    if s.quiesced || s.plb.computing.isSome || s.quiesceReset then s else
    match s.job.rewind, s.job.replay with
    | some r, _ =>
      let src := if r.shed then srcShed else srcQuiesce
      if r.resume then s
      else if s.plb.dumpState = 1 then s.modPlb (fun p => { p with resetReq := p.resetReq ++ [(domCompute, src)] })
      else s.computeReset src
    | none, some r => if r.begun then s else s.beginSuspects r
    | none, none => s)

/-- The outcome of the suspect being replayed, once it is known (R378): its course finished, or its time up. -/
def State.suspectOver (s : State) (r : Replay) (c : Nat) : Option (BitVec 4 × Word) :=
  let k := (s.core c).run
  let busy : Word := (SMap.get {} k.clog k.head.toNat).busy.setWidth 64
  match k.state with
  | .done => some (1, busy)
  | .doneFault => some (3, busy)
  | _ => if r.beganAt + r.limit ≤ s.chain.time then some (2, s.coreCycle c - k.start) else none

/-- SUSPECT_DONE (R377, R378). -/
def execSuspectDone (s : State) : Host.Outcome State Fault Refusal :=
  .next (match s.job.replay with
    | none => s
    | some r => match r.current with
      | none => s
      | some c => match s.suspectOver r c with
        | none => s
        | some o => s.nextSuspect { r with current := none, done := r.done ++ [s.suspectAt c o.1 o.2] } r.left)

/-! ## RESUME (R368–R370) -/

/-- Write zero over the clear extents (R369). -/
def State.clearExtents (s : State) (l : List (Nat × Nat)) : State :=
  l.foldl (fun s e => s.fastWrite e.1 (List.replicate e.2 0)) s

/-- REWIND_RESUME (R369): steps 1 and 2 at once; the Masons then re-face every group from the first on. -/
def execRewindResume (k : Cmd) (s : State) : Host.Outcome State Fault Refusal :=
  .next (s.effectSub k 6 1 (fun s =>
    let b := s.restartAt (addrOff k.a)
    let s := (s.placeFace b.base0 b.base1 b.len k.lift).clearExtents b.extents
    let s := (List.range 4).foldl (fun s m => s.modMason m (fun x => { x with next := 0, runs := [], wait := 0 })) s
    s.modJob (fun j => { j with rewind := some {
      cmd := some k, resume := true, lift := k.lift, arrival := b.arrival, arrivalValue := b.value } })))

/-- Every group of every table has been re-faced. -/
def State.refaced (s : State) : Bool :=
  (List.range 4).all (fun m => decide ((s.mason m).table.length ≤ (s.mason m).next) && (s.mason m).runs.isEmpty)

/-- RESUME_ARRIVAL_REACHED (R369): SET, and the command completes. At shedding step S4 and deeper the hold with cause
SHEDDING arises in SET (R445). (DEDUCED, log entry 35) -/
def execResumeArrivalReached (s : State) : Host.Outcome State Fault Refusal :=
  .next (match s.job.rewind with
    | none => s
    | some r =>
      if r.resume && s.refaced && s.tallyReached r.arrival r.arrivalValue then
        let s := s.modJob (fun j => { j with rewind := none, stopLift := none, resumes := satAdd j.resumes 1 })
        let s := s.setMod .set
        let s := match r.cmd with
          | some k => s.complete k
          | none => s
        if 4 ≤ s.pwr.step.toNat then s.hold .shedding 0 else s
      else s)

end Sys2Proof.Machine
end

