-- ==== Sys2Proof/Machine/Power.lean ====
section
/-! DEFINITION. Power (R434, R440–R450, R469, R472): the input, shedding, parking by rotation, the power limit,
temperatures, and the orderly power-off. Input voltages are in 10 mV, temperatures in 0.0625 °C. -/

namespace Sys2Proof.Machine

/-! ## The input (R361, R440, R450, R469) -/

/-- The input lies in the 60.0–62.0 V range (R440). -/
def overRange (vin : BitVec 16) : Bool := decide (6000 < vin.toNat) && decide (vin.toNat ≤ 6200)

/-- Record the input (R453): one outside the over-range ends the stay in it (R440). -/
def State.setVin (s : State) (vin : BitVec 16) : State :=
  s.modPwr (fun p => { p with vin := vin, overRange := p.overRange && Machine.overRange vin })

/-- INPUT_APPLIED (R469): the input is there; power good is to follow. -/
def execInputApplied (s : State) : Host.Outcome State Fault Refusal :=
  .next (if s.pwr.input then s else s.modPwr (fun p => { p with input := true, off := false }))

/-- POWER_LOSS (R361): only the flash survives. -/
def execPowerLoss (s : State) : Host.Outcome State Fault Refusal :=
  .next (if s.pwr.input then s.powerDown.modPwr (fun p => { p with input := false, vin := 0 }) else s)

/-- Finish a crash dump that is under way (R450). (DEDUCED, log entry 38) -/
def State.finishDump (s : State) : State :=
  let s := match s.plb.dumpWant with
    | [] => s
    | t :: rest => if s.plb.dumpState = 1 then (s.modPlb (fun p => { p with dumpWant := rest })).captureDump t else s
  if s.plb.dumpState = 2 then s.commitDump else s

/-- The orderly power-off (R450, R457, R458, R472): counted; LEAVE and RESET_NOTICE sent; the bypass closed; a dump
under way finished and the log written; PWR_OK low and the rails off. (DEDUCED, log entry 38) -/
def State.orderlyOff (s : State) : State :=
  let s := s.logAdd 0x2230 8 1
  ((s.sendLeave.closeBypass).finishDump.writeLog).powerDown

/-- OVER_VOLTAGE (R440). -/
def execOverVoltage (vin : BitVec 16) (s : State) : Host.Outcome State Fault Refusal :=
  .next (if s.pwr.good && decide (6200 < vin.toNat) then (s.setVin vin).orderlyOff else s)

/-- UNDERVOLTAGE_CUTOFF (R440, R472): the power stage turns off at once. -/
def execUndervoltageCutoff (vin : BitVec 16) (s : State) : Host.Outcome State Fault Refusal :=
  .next (if s.pwr.input && !s.pwr.off && decide (vin.toNat < 3400) then (s.setVin vin).powerDown else s)

/-- OVER_RANGE_EVENT (R440): an entry into 60.0–62.0 V counts; a reading outside ends the stay. (PRESUMED, log entry
11) -/
def execOverRangeEvent (vin : BitVec 16) (s : State) : Host.Outcome State Fault Refusal :=
  .next (
    if !s.pwr.good then s else
    let s' := if overRange vin && !s.pwr.overRange then s.logAdd 0x58 8 1 else s
    (s'.setVin vin).modPwr (fun p => { p with overRange := Machine.overRange vin }))

/-- POWER_RESTART (R450): the input has been above S1 plus the hysteresis for 1 s; the module may start cold. (DEDUCED, log
entry 71) -/
def execPowerRestart (vin : BitVec 16) (s : State) : Host.Outcome State Fault Refusal :=
  .next (if s.pwr.input && s.pwr.off && decide (s.pwr.restartAt < vin.toNat) then
    (s.setVin vin).modPwr (fun p => { p with off := false }) else s)

/-- RAIL_OUT_OF_REGULATION (R472). -/
def execRailOutOfRegulation (_rail : Fin 22) (s : State) : Host.Outcome State Fault Refusal :=
  .next (if s.pwr.good then s.modPwr (fun p => { p with pwrOk := false }) else s)

/-! ## Shedding (R444–R449) -/

/-- Count and show an entered step (R451, R453, R454, R458). -/
def State.noteStep (s : State) (n : Nat) : State :=
  let s := s.modPwr (fun p => { p with
    step := BitVec.ofNat 3 n, deepest := if p.deepest.toNat < n then BitVec.ofNat 3 n else p.deepest
    droop := SMap.modify 0 p.droop n (fun v => satAdd v 1) })
  (s.logAdd (0x2200 + 8 * (n - 1)) 8 1).msixBoth 4

/-- Set the point that shedding asks for (R442). -/
def State.shedTo (s : State) (p : BitVec 2) : State := s.modPwr (fun x => { x with shedPoint := p })

/-- Every link moves to width 4, or back to its full live width (R445). (DEDUCED, log entry 68) -/
def State.limitLinks (s : State) (on : Bool) : State :=
  (List.range 12).foldl (fun s l => (s.modLink l (fun k => { k with limited := on })).rewidth l) s

/-- The shed STOP (R449): for the lift that is closed; an update session that is open, or busy with a request, is aborted
(R462; DEDUCED, log entry 30). A module that is not up has nothing to stop. -/
def State.shedStop (s : State) : State :=
  let s := if s.plb.upd.state = updOpen ∨ s.plb.upd.state = updBusy then s.abortUpd 2 else s
  if s.job.st = .unset ∨ s.job.st = .failed then { s with ft := { s.ft with selfRefresh := true } }
  else s.beginStop none s.msn.lift.closed true

/-- The actions of an entered step (R445). -/
def State.enterStep (s : State) (n : Nat) : State :=
  match n with
  | 1 =>
    let s := s.shedTo 1
    (List.range 576).foldl (fun s c => s.modArr c (fun a => { a with fillers := [] })) s
  | 2 => s.shedTo 2
  | 3 => (s.park 0).limitLinks true
  | 4 => (s.modPort 1 (fun p => { p with idle := true })).hold .shedding 0
  | 5 => s.shedStop
  | _ => ((s.modMsn (fun m => { m with selfRefresh := true })).wantDump 3).writeLog

/-- S3's actions are done (R445): no link changes its width, and every core of the parked group is saved. -/
def State.parkDone (s : State) : Bool :=
  (List.range 12).all (fun l => decide ((s.link l).state ≠ lkRetraining)) &&
  match s.job.parked with
  | none => true
  | some g => (groupCores g).all (fun c =>
      let r := (s.core c).run
      !(decide (r.state = .parked) && decide (r.before ≠ .idle) && r.holds))

/-- A step waits for the actions of the step before (R444): S4 for the parking and the widths of S3, the power-off for the
dump of S6; and a STOP ends before S5 begins its own, and before S6. A RESUME in progress gives way to the shed STOP, and
ends without completion (R408). (DEDUCED, log entry 66) -/
def State.stepReady (s : State) (n : Nat) : Bool :=
  match n with
  | 4 => s.parkDone
  | 5 => s.job.rewind.all Rewind.resume
  | 6 => s.job.rewind.all Rewind.resume
  | 7 => s.job.rewind.all Rewind.resume && decide (s.plb.dumpState = 0) && s.plb.dumpWant.isEmpty
  | _ => true

/-- SHED_STEP_ENTER (R444, R445, R450): the next step below the input, one at a time; below S6 the orderly power-off. -/
def execShedStepEnter (vin : BitVec 16) (s : State) : Host.Outcome State Fault Refusal :=
  .next (
    let n := s.pwr.step.toNat + 1
    if !s.pwr.good || s.start.inReset || decide (s.shedAt n ≤ vin.toNat) || !s.stepReady n then s
    else if n = 7 then (s.setVin vin).orderlyOff
    else ((s.setVin vin).noteStep n).enterStep n)

/-- The hold with cause SHEDDING ends (R448). -/
def State.endShedHold (s : State) : State :=
  let rest := s.job.holds.filter (fun h => h ≠ Hold.shedding.code)
  let was := s.job.holds.contains Hold.shedding.code
  let s := s.modJob (fun j => { j with holds := rest })
  if was && rest.isEmpty && decide (s.job.st = .held) then s.setMod s.job.prior else s

/-- The actions of a step that is left (R445). -/
def State.leaveStep (s : State) (n : Nat) : State :=
  match n with
  | 1 => s.shedTo 0
  | 2 => (s.shedTo 1).faceGets
  | 3 => s.unpark.limitLinks false
  | 4 => (s.modPort 1 (fun p => { p with idle := false })).endShedHold
  | 5 => { s with ft := { s.ft with selfRefresh := false } }
  | _ => s.modMsn (fun m => { m with selfRefresh := false })

/-- SHED_STEP_LEAVE (R444, R445, R451). -/
def execShedStepLeave (vin : BitVec 16) (s : State) : Host.Outcome State Fault Refusal :=
  .next (
    let n := s.pwr.step.toNat
    if !s.pwr.good || n = 0 || decide (vin.toNat < s.shedAt n + 10 * s.start.img.hysteresis) then s
    else
      let s := ((s.setVin vin).modPwr (fun p => { p with step := BitVec.ofNat 3 (n - 1) })).leaveStep n
      s.msixBoth 4)

/-- PARK_ROTATE (R446): one group is restored before the next is parked. (DEDUCED, log entry 67) -/
def execParkRotate (s : State) : Host.Outcome State Fault Refusal :=
  .next (if s.pwr.good && decide (3 ≤ s.pwr.step.toNat) then s.unpark.park s.job.parkNext else s)

/-! ## Clock points (R434, R442, R443) -/

/-- One point lower: the next index, 3 at most. -/
def pointDown (p : BitVec 2) : BitVec 2 := if p = 3 then 3 else p + 1
/-- One point higher. -/
def pointUp (p : BitVec 2) : BitVec 2 := if p = 0 then 0 else p - 1

/-- The power limit's point after a comparison (R442). -/
def Power.limitStep (p : Power) (limit : Nat) : Power :=
  if limit < p.pin.toNat then { p with powPoint := pointDown p.powPoint, lowFor := 0 }
  else if 100 * p.pin.toNat < 95 * limit then
    if 50 ≤ p.lowFor + 1 then { p with powPoint := pointUp p.powPoint, lowFor := 0 } else { p with lowFor := p.lowFor + 1 }
  else { p with lowFor := 0 }

/-- Temperature points of a die class: 1 is HBM3E, 0 every other die (R443, R456). -/
def classPoints (hbm : Bool) : List Nat :=
  if hbm then (List.range 16).map (fun i => 96 + i) else List.range 96 ++ (List.range 12).map (fun i => 112 + i)

/-- Throttle temperature of a class. -/
def throttleAt (hbm : Bool) : Int := if hbm then 1440 else 1600
/-- Power-off temperature of a class. -/
def offAt (hbm : Bool) : Int := if hbm then 1600 else 1760

/-- The latest reading of a point. -/
def Plumb.tempNow (p : Plumb) (i : Nat) : Int := (SMap.get {} p.temps i).now.toInt

/-- Some point of a class is at or above its throttle temperature. -/
def State.classHot (s : State) (hbm : Bool) : Bool := (classPoints hbm).any (fun i => decide (throttleAt hbm ≤ s.plb.tempNow i))
/-- Every point of a class is at least 5 °C below it. -/
def State.classCool (s : State) (hbm : Bool) : Bool :=
  (classPoints hbm).all (fun i => decide (s.plb.tempNow i + 80 ≤ throttleAt hbm))

/-- Set the point of a class, and its cool time to zero. -/
def Power.movePoint (p : Power) (k : Nat) (f : BitVec 2 → BitVec 2) : Power :=
  { p with thermPoint := SMap.modify 0 p.thermPoint k f, coolFor := SMap.set p.coolFor k 0 }

/-- The point of a class after a millisecond (R443): lowered while the class is hot, raised once it has stayed cool for
50 ms. (DEDUCED, log entry 70) -/
def State.throttle (s : State) (hbm : Bool) : State :=
  let k := b2n hbm
  let n := SMap.get 0 s.pwr.coolFor k + 1
  if s.classHot hbm then s.modPwr (fun p => p.movePoint k pointDown)
  else if !s.classCool hbm then s.modPwr (fun p => { p with coolFor := SMap.set p.coolFor k 0 })
  else if 50 ≤ n then s.modPwr (fun p => p.movePoint k pointUp)
  else s.modPwr (fun p => { p with coolFor := SMap.set p.coolFor k n })

/-- The input band of R458 that the input falls in: one below 36.0 V, 60 of 0.5 V, one above 66.0 V. -/
def vinBand (vin : Nat) : Nat := if vin < 3600 then 0 else if 6600 ≤ vin then 61 else 1 + (vin - 3600) / 50

/-- A reading of a rail. -/
def Rail.read (r : Rail) (mv amps : BitVec 16) : Rail :=
  { mv := mv, amps := amps, peak := if r.peak.toNat < amps.toNat then amps else r.peak }

/-- Readings of the rails and of the clusters' currents (R441, R456). -/
def State.readRails (s : State) (rails : List (BitVec 16 × BitVec 16)) (clu : List (BitVec 16)) : State :=
  s.modPlb (fun p => { p with
    rails := ((List.range 22).zip rails).foldl (fun m x => SMap.modify {} m x.1 (fun r => r.read x.2.1 x.2.2)) p.rails
    cluCur := ((List.range 72).zip clu).foldl (fun m x => SMap.set m x.1 x.2) p.cluCur })

/-- POWER_LIMIT_TICK (R441–R443, R454, R456, R458): every 1 ms; `pin` is the 10 ms mean in W, so 1 ms at it is that
many mJ. (DEDUCED, log entry 70) -/
def execPowerLimitTick (pin : BitVec 16) (rails : List (BitVec 16 × BitVec 16)) (clu : List (BitVec 16)) (s : State) :
    Host.Outcome State Fault Refusal :=
  .next (
    if !s.pwr.good || s.start.inReset then s else
    let s := s.readRails rails clu
    let s := s.modPwr (fun p => ({ p with pin := pin, energy := p.energy + pin.setWidth 64 }).limitStep s.start.img.powerLimit)
    let s := (s.throttle false).throttle true
    if s.plb.uptime % 100000000 < 100000 then s.logAdd (0x2000 + 8 * vinBand s.pwr.vin.toNat) 8 1 else s)

/-- A reading of a temperature point. -/
def Temp.read (t : Temp) (v : BitVec 16) : Temp := { now := v, peak := if t.peak.toInt < v.toInt then v else t.peak }

/-- The points of each die of the lifetime log, in its order (R456, R458). -/
def diePoints : List (List Nat) :=
  let run (base n k : Nat) : List (List Nat) := (List.range n).map (fun d => (List.range k).map (fun i => base + k * d + i))
  run 96 16 1 ++ run 0 8 8 ++ run 64 8 4 ++ run 112 2 2 ++ run 116 2 2 ++ run 120 4 1

/-- The temperature band of a die: 5 °C each from 0, band 25 from 125 °C. -/
def tempBand (t : Int) : Nat := min 25 (t / 80).toNat

/-- Count a minute in the band of every die (R458). -/
def State.countBands (s : State) : State :=
  ((List.range 40).zip diePoints).foldl (fun s d =>
    let hottest := d.2.foldl (fun (a : Int) i => max a (s.plb.tempNow i)) 0
    s.logAdd (0x400 + 4 * (26 * d.1 + tempBand hottest)) 4 1) s

/-- Points at or above their power-off temperature. -/
def State.offPoints (s : State) : List Nat :=
  [false, true].flatMap (fun h => (classPoints h).filter (fun i => decide (offAt h ≤ s.plb.tempNow i)))

/-- THERMAL_TICK (R443, R456, R458): every 10 ms, a reading of each point. (DEDUCED, log entry 70) -/
def execThermalTick (temps : List (BitVec 16)) (s : State) : Host.Outcome State Fault Refusal :=
  .next (
    if !s.pwr.good || s.start.inReset then s else
    let s := s.modPlb (fun p => { p with
      temps := ((List.range 128).zip temps).foldl (fun m x => SMap.modify {} m x.1 (fun t => t.read x.2)) p.temps })
    let hot := s.offPoints
    let s := s.modPwr (fun p => { p with
      hotFor := hot.foldl (fun m i => SMap.set m i (min 2 (SMap.get 0 p.hotFor i + 1))) [] })
    if s.plb.powered % 6000000000 < 1000000 then s.countBands else s)

/-- THERMAL_POWER_OFF (R443): a point at its power-off temperature in two readings 10 ms apart; the point and the
count are logged, a dump with trigger FAILED is written, and the orderly power-off follows. (PRESUMED, log entry 11)
(DEDUCED, log entry 70) -/
def execThermalPowerOff (s : State) : Host.Outcome State Fault Refusal :=
  .next (match List.find? (fun (x : Nat × Nat) => decide (2 ≤ x.2)) s.pwr.hotFor with
    | none => s
    | some x =>
      if !s.pwr.good then s else
      let s := s.logSet 0x60 x.1
      ((s.logAdd 0x68 8 1).finishDump.captureDump 2).commitDump.orderlyOff)

/-- CLOCK_POINT_CHANGE (R434, R442): the core clock moves to the lowest of the three points. -/
def execClockPointChange (s : State) : Host.Outcome State Fault Refusal :=
  .next (if s.pwr.good then s.modPwr (fun p => { p with point := p.wanted }) else s)

end Sys2Proof.Machine
end

