-- ==== Sys2Proof/Machine/Scalar.lean ====
section
/-! DEFINITION. Scalar and control instructions (R80–R84) and `trel` (R74). -/

namespace Sys2Proof.Machine

/-- A scalar instruction: its result of operands a and b goes to sd, and the pointer moves on (R81). -/
def State.scalar (s : State) (c : CoreId) (t : StrandId) (w : SWord) (f : Word → Word → Word) : State :=
  s.issue c t true (fun s =>
    (s.setSreg c t w.sd (f (s.sreg c t w.sa) (s.operandB c t w))).retire c t 8 (w.rsv != 0))

/-- Unsigned division: by zero all ones (R81). -/
def divuWord (a b : Word) : Word := if b = 0 then BitVec.allOnes 64 else a / b
/-- Signed division towards zero: by zero all ones; −2^63 by −1 gives −2^63 (R81). -/
def divWord (a b : Word) : Word := if b = 0 then BitVec.allOnes 64 else a.sdiv b

/-- `nop` (R81). -/
def execNop (c : CoreId) (t : StrandId) (w : SWord) (s : State) : Host.Outcome State Fault Refusal :=
  .next (s.issue c t true (fun s => s.retire c t 8 (w.rsv != 0)))
/-- `add` (R81). -/
def execAdd (c : CoreId) (t : StrandId) (w : SWord) (s : State) : Host.Outcome State Fault Refusal :=
  .next (s.scalar c t w (fun a b => a + b))
/-- `sub` (R81). -/
def execSub (c : CoreId) (t : StrandId) (w : SWord) (s : State) : Host.Outcome State Fault Refusal :=
  .next (s.scalar c t w (fun a b => a - b))
/-- `mul` (R81). -/
def execMul (c : CoreId) (t : StrandId) (w : SWord) (s : State) : Host.Outcome State Fault Refusal :=
  .next (s.scalar c t w (fun a b => a * b))
/-- `div` (R81). -/
def execDiv (c : CoreId) (t : StrandId) (w : SWord) (s : State) : Host.Outcome State Fault Refusal :=
  .next (s.scalar c t w divWord)
/-- `divu` (R81). -/
def execDivu (c : CoreId) (t : StrandId) (w : SWord) (s : State) : Host.Outcome State Fault Refusal :=
  .next (s.scalar c t w divuWord)
/-- `and` (R81). -/
def execAndI (c : CoreId) (t : StrandId) (w : SWord) (s : State) : Host.Outcome State Fault Refusal :=
  .next (s.scalar c t w (fun a b => a &&& b))
/-- `or` (R81). -/
def execOrI (c : CoreId) (t : StrandId) (w : SWord) (s : State) : Host.Outcome State Fault Refusal :=
  .next (s.scalar c t w (fun a b => a ||| b))
/-- `xor` (R81). -/
def execXorI (c : CoreId) (t : StrandId) (w : SWord) (s : State) : Host.Outcome State Fault Refusal :=
  .next (s.scalar c t w (fun a b => a ^^^ b))
/-- `shl` (R81): by b[5:0]. -/
def execShl (c : CoreId) (t : StrandId) (w : SWord) (s : State) : Host.Outcome State Fault Refusal :=
  .next (s.scalar c t w (fun a b => a <<< (b.toNat % 64)))
/-- `shr` (R81). -/
def execShr (c : CoreId) (t : StrandId) (w : SWord) (s : State) : Host.Outcome State Fault Refusal :=
  .next (s.scalar c t w (fun a b => a >>> (b.toNat % 64)))
/-- `sra` (R81). -/
def execSra (c : CoreId) (t : StrandId) (w : SWord) (s : State) : Host.Outcome State Fault Refusal :=
  .next (s.scalar c t w (fun a b => a.sshiftRight (b.toNat % 64)))
/-- `slt` (R81). -/
def execSlt (c : CoreId) (t : StrandId) (w : SWord) (s : State) : Host.Outcome State Fault Refusal :=
  .next (s.scalar c t w (fun a b => if a.slt b then 1 else 0))
/-- `sltu` (R81). -/
def execSltu (c : CoreId) (t : StrandId) (w : SWord) (s : State) : Host.Outcome State Fault Refusal :=
  .next (s.scalar c t w (fun a b => if a.ult b then 1 else 0))
/-- `min` (R81). -/
def execMinI (c : CoreId) (t : StrandId) (w : SWord) (s : State) : Host.Outcome State Fault Refusal :=
  .next (s.scalar c t w (fun a b => if b.slt a then b else a))
/-- `max` (R81). -/
def execMaxI (c : CoreId) (t : StrandId) (w : SWord) (s : State) : Host.Outcome State Fault Refusal :=
  .next (s.scalar c t w (fun a b => if a.slt b then b else a))
/-- `lui` (R81): i is ignored. -/
def execLui (c : CoreId) (t : StrandId) (w : SWord) (s : State) : Host.Outcome State Fault Refusal :=
  .next (s.scalar c t w (fun a _ => ((w.imm.setWidth 64) <<< 32) ||| (a &&& 0xFFFFFFFF)))

/-- The scratchpad offset of `ld` and `st`: a + imm with bits [2:0] ignored (R81). -/
def State.ldOffset (s : State) (c : CoreId) (t : StrandId) (w : SWord) : Word :=
  align8 (s.sreg c t w.sa + immWord w.imm)

/-- `ld` (R81, R483). -/
def execLd (c : CoreId) (t : StrandId) (w : SWord) (s : State) : Host.Outcome State Fault Refusal :=
  .next (s.issue c t (!s.storePending c t) (fun s =>
    let off := s.ldOffset c t w
    (((s.setSreg c t w.sd (leWord (s.spadRead c off 8))).outOfCapIf (spadPast off 8))).retire c t 8 (w.rsv != 0)))

/-- `st` (R81, R483). -/
def execSt (c : CoreId) (t : StrandId) (w : SWord) (s : State) : Host.Outcome State Fault Refusal :=
  .next (s.issue c t (!s.storePending c t) (fun s =>
    let off := s.ldOffset c t w
    ((s.storeList (spadBytes c off (wordBytes (s.sreg c t w.sb)))).outOfCapIf (spadPast off 8)).retire c t 8
      (w.rsv != 0)))

/-- Set a strand's instruction pointer; bits [2:0] of a target are ignored (R77). -/
def State.jumpTo (s : State) (c t : Nat) (a : Word) : State := s.modStrand c t (fun x => { x with ip := align8 a })

/-- The target of a branch: its own address + 8 × imm (R82). -/
def State.branchTarget (s : State) (c t : Nat) (w : SWord) : Word := (s.strand c t).ip + 8 * immWord w.imm

/-- A branch on a comparison of Sa and Sb; i is ignored (R82). -/
def State.branch (s : State) (c : CoreId) (t : StrandId) (w : SWord) (taken : Word → Word → Bool) : State :=
  s.issue c t true (fun s =>
    (if taken (s.sreg c t w.sa) (s.sreg c t w.sb) then s.jumpTo c t (s.branchTarget c t w)
     else s.advanceIp c t 8).misfitIf c (w.rsv != 0))

/-- `beq` (R82). -/
def execBeq (c : CoreId) (t : StrandId) (w : SWord) (s : State) : Host.Outcome State Fault Refusal :=
  .next (s.branch c t w (fun a b => a == b))
/-- `bne` (R82). -/
def execBne (c : CoreId) (t : StrandId) (w : SWord) (s : State) : Host.Outcome State Fault Refusal :=
  .next (s.branch c t w (fun a b => a != b))
/-- `blt` (R82). -/
def execBlt (c : CoreId) (t : StrandId) (w : SWord) (s : State) : Host.Outcome State Fault Refusal :=
  .next (s.branch c t w (fun a b => a.slt b))
/-- `bge` (R82). -/
def execBge (c : CoreId) (t : StrandId) (w : SWord) (s : State) : Host.Outcome State Fault Refusal :=
  .next (s.branch c t w (fun a b => !a.slt b))
/-- `bltu` (R82). -/
def execBltu (c : CoreId) (t : StrandId) (w : SWord) (s : State) : Host.Outcome State Fault Refusal :=
  .next (s.branch c t w (fun a b => a.ult b))

/-- `jal` (R82): own address + 8 into sd, then to own address + 8 × imm. -/
def execJal (c : CoreId) (t : StrandId) (w : SWord) (s : State) : Host.Outcome State Fault Refusal :=
  .next (s.issue c t true (fun s =>
    let ip := (s.strand c t).ip
    let target := s.branchTarget c t w
    (((s.setSreg c t w.sd (ip + 8)).jumpTo c t target)).misfitIf c (w.rsv != 0)))

/-- `jr` (R82): own address + 8 into sd, then to a + imm, a read before sd is written. -/
def execJr (c : CoreId) (t : StrandId) (w : SWord) (s : State) : Host.Outcome State Fault Refusal :=
  .next (s.issue c t true (fun s =>
    let ip := (s.strand c t).ip
    let target := s.sreg c t w.sa + immWord w.imm
    (((s.setSreg c t w.sd (ip + 8)).jumpTo c t target)).misfitIf c (w.rsv != 0)))

/-- A special value (R83): `none` for a code that is not listed. -/
def State.special (s : State) (c t : Nat) (code : Nat) : Option Word :=
  match code with
  | 0 => some (BitVec.ofNat 64 t)
  | 1 => some (BitVec.ofNat 64 c)
  | 2 => some (BitVec.ofNat 64 (coreCluster c))
  | 3 => some (if s.chain.addrValid then s.chain.addr.setWidth 64 else 0xFFF)
  | 4 => some ((s.core c).run.ctx.setWidth 64)
  | 5 => some s.job.course
  | 6 => some (s.coreCycle c)
  | 7 => some (s.core c).run.start
  | 8 => some ((s.core c).run.misfit.setWidth 64)
  | 9 => some s.job.lift
  | 10 => some ((s.strand c t).rstat.setWidth 64)
  | 11 => some 1
  | _ => none

/-- `srd` (R83): reading rstat clears it; a code that is not listed gives zero and is a misfit. -/
def execSrd (c : CoreId) (t : StrandId) (w : SWord) (s : State) : Host.Outcome State Fault Refusal :=
  .next (s.issue c t true (fun s =>
    let code := w.imm.toNat % 256
    let v := s.special c t code
    let s' := if code = 10 then s.modStrand c t (fun x => { x with rstat := 0 }) else s
    (s'.setSreg c t w.sd (v.getD 0)).retire c t 8 (w.rsv != 0 || v.isNone)))

/-- `cend` (R84): the strand issues nothing more in the course; its pointer is the address after the `cend`. -/
def execCend (c : CoreId) (t : StrandId) (w : SWord) (s : State) : Host.Outcome State Fault Refusal :=
  .next (s.issue c t true (fun s =>
    (s.modStrand c t (fun x => { x with atEnd := true })).retire c t 8 (w.rsv != 0)))

/-- The tiles that the mask of a `trel` names (R81). -/
def trelTiles (w : SWord) : List Nat := setBits 32 w.imm.toNat

/-- `trel` (R74, R81): it issues after the strand's own earlier instructions on those tiles. -/
def execTrel (c : CoreId) (t : StrandId) (w : SWord) (s : State) : Host.Outcome State Fault Refusal :=
  .next (s.issue c t (!(trelTiles w).any (fun n => s.tileBusy c t n)) (fun s =>
    (s.modRegs c (fun r => (trelTiles w).foldl RegFile.release r)).retire c t 8 (w.rsv != 0)))

/-- A reserved opcode (R110) executes as `nop` and is a misfit. A command whose opcode is defined is none of these and
changes nothing. -/
def isReservedOp (op : Nat) : Bool :=
  within op 0x1C 4 || op == 0x27 || within op 0x2B 5 || within op 0x38 8 || within op 0x43 13 ||
  within op 0x54 12 || within op 0x66 10 || decide (0x74 ≤ op)

/-- RESERVED_OPCODE (R79, R110). -/
def execReservedOpcode (c : CoreId) (t : StrandId) (op : BitVec 8) (_rest : BitVec 56) (s : State) :
    Host.Outcome State Fault Refusal :=
  .next (if isReservedOp op.toNat then s.issue c t true (fun s => s.retire c t 8 true) else s)

end Sys2Proof.Machine
end

