-- ==== Sys2Proof/Machine/Tile.lean ====
section
/-! DEFINITION. `tload` and `tstore` (R85–R87): issue, and completion when the last row has been written. -/

namespace Sys2Proof.Machine

/-- Row stride of a tile instruction: S0 gives the dense stride (R85). -/
def State.tStride (s : State) (c t : Nat) (w : TWord) (f : EFmt) (sh : Shape) : Word :=
  if w.sb = 0 then BitVec.ofNat 64 (shBytes sh f) else s.sreg c t w.sb

/-- Scratchpad offset of row `i` (R86). -/
def State.tRow (s : State) (c t : Nat) (w : TWord) (f : EFmt) (sh : Shape) (i : Nat) : Word :=
  s.sreg c t w.sa + immWord w.imm + BitVec.ofNat 64 i * s.tStride c t w f sh

/-- Rows that an instruction reads or writes: those beyond the row capacity are left out (R70, R110). -/
def tRows (f : EFmt) (sh : Shape) : Nat := min (shRows sh) (rowCap (shBytes sh f))

/-- Some row of a tile instruction reaches an offset of 2 MiB or more. -/
def State.tPast (s : State) (c t : Nat) (w : TWord) (f : EFmt) (sh : Shape) : Bool :=
  (List.range (tRows f sh)).any (fun i => spadPast (s.tRow c t w f sh i) (shBytes sh f))

/-- The tile bytes that a `tload` reads: tile byte index and value, row by row. -/
def State.tloadData (s : State) (c t : Nat) (w : TWord) (f : EFmt) (sh : Shape) : List (Nat × Byte) :=
  (List.range (tRows f sh)).flatMap (fun i =>
    (List.range (shBytes sh f)).zip (s.spadRead c (s.tRow c t w f sh i) (shBytes sh f))
      |>.map (fun p => (i * pitchOf (shBytes sh f) + p.1, p.2)))

/-- The scratchpad bytes that a `tstore` writes, in row order: elements that the mark does not cover as zero. -/
def State.tstoreData (s : State) (c t : Nat) (w : TWord) (f : EFmt) (sh : Shape) : List (Nat × Byte) :=
  (List.range (tRows f sh)).flatMap (fun i =>
    spadBytes c (s.tRow c t w f sh i) ((s.core c).regs.tileRow w.tt.toNat (shBytes sh f) f.size i))

/-- Shape rows beyond the row capacity (R110). -/
def capMisfit (f : EFmt) (sh : Shape) : Bool := decide (rowCap (shBytes sh f) < shRows sh)

/-- TLOAD (R86): the shape's rows are read; the tile and its mark change when the last row is written. -/
def execTload (c : CoreId) (t : StrandId) (w : TWord) (sh : Shape) (s : State) : Host.Outcome State Fault Refusal :=
  .next (s.issue c t (!s.tileBusy c t w.tt.toNat && !s.storePending c t) (fun s =>
    let sh := s.shapeAt c t sh
    let s := s.countShape c t
    match tileFmt sh.fmt with
    | none => s.retire c t 16 true
    | some f =>
      let op := TileOp.load t w.tt.toNat (loadMark sh f) (s.tloadData c t w f sh)
      ((s.modEng c (fun e => { e with tops := e.tops ++ [op] })).outOfCapIf (s.tPast c t w f sh)).retire c t 16
        (w.rsv != 0 || sh.rsv != 0 || capMisfit f sh)))

/-- A `tload` of a tile in progress. -/
def isLoadOf (tile : Nat) : TileOp → Bool
  | .load _ tl _ _ => decide (tl = tile)
  | .store _ _ => false

/-- A `tstore` of a strand in progress. -/
def isStoreOf (t : Nat) : TileOp → Bool
  | .load _ _ _ _ => false
  | .store st _ => decide (st = t)

/-- The register file with a loaded tile: every other byte zero, and the mark set once (R72, R74). -/
def RegFile.loadTile (r : RegFile) (tile : Nat) (mark : Mark) (data : List (Nat × Byte)) : RegFile :=
  let empty := SMap.clear r.bytes (4096 * tile) (4096 * tile + 4096)
  let full := data.foldl (fun m p => SMap.put 0 m (4096 * tile + p.1) p.2) empty
  ({ r with bytes := full }).touch mark tile

/-- TLOAD_COMPLETE (R72, R86): the oldest `tload` of the tile writes it whole and sets its mark; gated registers are
not written (R446). -/
def execTloadComplete (c : CoreId) (tile : BitVec 5) (s : State) : Host.Outcome State Fault Refusal :=
  .next (if s.gated c then s else match (s.core c).eng.tops.find? (isLoadOf tile.toNat) with
    | some (.load _ tl mark data) =>
      (s.modEng c (fun e => { e with tops := e.tops.eraseP (isLoadOf tile.toNat) })).modRegs c
        (fun r => r.loadTile tl mark data)
    | _ => s)

/-- TSTORE (R87): rows 0 to r − 1 are read through the shape; they reach the scratchpad when it retires. (DEDUCED,
log entry 17) -/
def execTstore (c : CoreId) (t : StrandId) (w : TWord) (sh : Shape) (s : State) : Host.Outcome State Fault Refusal :=
  .next (s.issue c t (!s.tileBusy c t w.tt.toNat && !s.storePending c t) (fun s =>
    let sh := s.shapeAt c t sh
    let s := s.countShape c t
    match tileFmt sh.fmt with
    | none => s.retire c t 16 true
    | some f =>
      let op := TileOp.store t (s.tstoreData c t w f sh)
      let mis := w.rsv != 0 || sh.rsv != 0 || capMisfit f sh ||
        (s.core c).regs.readMisfit w.tt.toNat (shBytes sh f) 0 (tRows f sh) sh.fmt
      ((s.modEng c (fun e => { e with tops := e.tops ++ [op] })).outOfCapIf (s.tPast c t w f sh)).retire c t 16 mis))

/-- TSTORE_COMPLETE (R87): the strand's oldest `tstore` writes its rows and retires. (DEDUCED, log entry 17) -/
def execTstoreComplete (c : CoreId) (t : StrandId) (s : State) : Host.Outcome State Fault Refusal :=
  .next (match (s.core c).eng.tops.find? (isStoreOf t) with
    | some (.store _ data) =>
      (s.modEng c (fun e => { e with tops := e.tops.eraseP (isStoreOf t) })).storeList data
    | _ => s)

end Sys2Proof.Machine
end

