-- ==== Sys2Proof/Machine/Vector.lean ====
section
/-! DEFINITION. Vector and row-reduce instructions, `vld` and `vst` (R93–R99). -/

namespace Sys2Proof.Machine

/-- A register named by an 8-bit field. -/
abbrev vreg (f : BitVec 8) : Nat := f.toNat

/-- Every register named is written (R27). -/
def State.vready (s : State) (c t : Nat) (regs : List Nat) : Bool := !regs.any (fun v => s.regPending c t v)

/-- A vector instruction: when `valid` fails it executes as `nop` and is a misfit (R94, R110). -/
def State.vector (s : State) (c : CoreId) (t : StrandId) (regs : List Nat) (valid mis : Bool)
    (effect : State → State) : State :=
  s.issue c t (s.vready c t regs) (fun s =>
    if valid then (effect s).retire c t 8 mis else s.retire c t 8 true)

/-- Write all 128 lanes of vd. -/
def State.setLanes (s : State) (c : Nat) (vd : Nat) (ls : List W32) : State :=
  s.modRegs c (fun r => r.vecWrite vd 0 (laneBytes ls))

/-- The lanes of a register of a core. -/
def State.lanes (s : State) (c v : Nat) : List W32 := (s.core c).regs.lanes v

/-- A lane-wise operation of two registers in FP32 (f = 0x6) or INT32 (f = 0x8) (R94). Fields of layouts S and V that an
instruction does not use are ignored, uncounted (R110; DESIGN CHOICE, log entry 90). -/
def State.lanewise2 (s : State) (c : CoreId) (t : StrandId) (w : VWord) (ff fi : W32 → W32 → W32) : State :=
  s.vector c t [vreg w.va, vreg w.vb, vreg w.vd] (w.f == 6 || w.f == 8) false (fun s =>
    s.setLanes c (vreg w.vd)
      (List.zipWith (if w.f = 6 then ff else fi) (s.lanes c (vreg w.va)) (s.lanes c (vreg w.vb))))

/-- A lane-wise FP32 operation of one register (R94, R95). -/
def State.lanewise1 (s : State) (c : CoreId) (t : StrandId) (w : VWord) (f : W32 → W32) : State :=
  s.vector c t [vreg w.va, vreg w.vd] (w.f == 6) false (fun s =>
    s.setLanes c (vreg w.vd) ((s.lanes c (vreg w.va)).map f))

/-- `vadd` (R94). -/
def execVadd (c : CoreId) (t : StrandId) (w : VWord) (s : State) : Host.Outcome State Fault Refusal :=
  .next (s.lanewise2 c t w fadd (fun a b => a + b))
/-- `vsub` (R94). -/
def execVsub (c : CoreId) (t : StrandId) (w : VWord) (s : State) : Host.Outcome State Fault Refusal :=
  .next (s.lanewise2 c t w fsub (fun a b => a - b))
/-- `vmul` (R94). -/
def execVmul (c : CoreId) (t : StrandId) (w : VWord) (s : State) : Host.Outcome State Fault Refusal :=
  .next (s.lanewise2 c t w fmul (fun a b => a * b))
/-- `vmax` (R94). -/
def execVmax (c : CoreId) (t : StrandId) (w : VWord) (s : State) : Host.Outcome State Fault Refusal :=
  .next (s.lanewise2 c t w fmax (fun a b => if a.slt b then b else a))
/-- `vmin` (R94). -/
def execVmin (c : CoreId) (t : StrandId) (w : VWord) (s : State) : Host.Outcome State Fault Refusal :=
  .next (s.lanewise2 c t w fmin (fun a b => if b.slt a then b else a))

/-- `vfma` (R94): FP32 only, rounded once. -/
def execVfma (c : CoreId) (t : StrandId) (w : VWord) (s : State) : Host.Outcome State Fault Refusal :=
  .next (s.vector c t [vreg w.va, vreg w.vb, vreg w.vc, vreg w.vd] (w.f == 6) false (fun s =>
    s.setLanes c (vreg w.vd)
      (List.zipWith (fun f x => f x)
        (List.zipWith (fun a b => ffma a b) (s.lanes c (vreg w.va)) (s.lanes c (vreg w.vb)))
        (s.lanes c (vreg w.vc)))))

/-- `vabs` (R94): of −2^31 in INT32, −2^31. -/
def execVabs (c : CoreId) (t : StrandId) (w : VWord) (s : State) : Host.Outcome State Fault Refusal :=
  .next (s.vector c t [vreg w.va, vreg w.vd] (w.f == 6 || w.f == 8) false (fun s =>
    s.setLanes c (vreg w.vd)
      ((s.lanes c (vreg w.va)).map (if w.f = 6 then fabs else fun a => if a.msb then -a else a))))

/-- `vmov` (R94): any contents, f ignored. -/
def execVmov (c : CoreId) (t : StrandId) (w : VWord) (s : State) : Host.Outcome State Fault Refusal :=
  .next (s.vector c t [vreg w.va, vreg w.vd] true false (fun s =>
    s.modRegs c (fun r => r.vecWrite (vreg w.vd) 0 (r.vec (vreg w.va)))))

/-- The scalar register that vc[28:24] names (R94). -/
def vcScalar (w : VWord) : BitVec 5 := w.vc.setWidth 5

/-- `vbcast` (R94): the low 32 bits of a scalar register in every lane; f ignored. -/
def execVbcast (c : CoreId) (t : StrandId) (w : VWord) (s : State) : Host.Outcome State Fault Refusal :=
  .next (s.vector c t [vreg w.vd] true false (fun s =>
    s.setLanes c (vreg w.vd) (List.replicate 128 ((s.sreg c t (vcScalar w)).setWidth 32))))

/-- `vlane` (R94): lane ext[12:6] of va, zero-extended, into a scalar register; vd ignored. -/
def execVlane (c : CoreId) (t : StrandId) (w : VWord) (s : State) : Host.Outcome State Fault Refusal :=
  .next (s.vector c t [vreg w.va] (w.f == 6 || w.f == 8) false (fun s =>
    s.setSreg c t (vcScalar w)
      (((s.core c).regs.lane (vreg w.va) (bitsOf w.ext.toNat 6 7)).setWidth 64)))

/-- `vexp` (R95, R127). -/
def execVexp (c : CoreId) (t : StrandId) (w : VWord) (s : State) : Host.Outcome State Fault Refusal :=
  .next (s.lanewise1 c t w (fun x => fexp (Config.vexpUnits x) x))
/-- `vrcp` (R95, R127). -/
def execVrcp (c : CoreId) (t : StrandId) (w : VWord) (s : State) : Host.Outcome State Fault Refusal :=
  .next (s.lanewise1 c t w (fun x => frcp (Config.vrcpUnits x) x))
/-- `vrsqrt` (R95, R127). -/
def execVrsqrt (c : CoreId) (t : StrandId) (w : VWord) (s : State) : Host.Outcome State Fault Refusal :=
  .next (s.lanewise1 c t w (fun x => frsqrt (Config.vrsqrtUnits x) x))

/-! ## `vcvt` (R96, R119–R125) -/

/-- What a `vcvt` is, by its source and destination formats. -/
inductive VcvtKind where
  /-- 128 lanes to a 1-byte format -/
  | narrow (d : DFmt)
  /-- FP32 lanes to BF16 -/
  | toBf16
  /-- 128 bytes of an unscaled 1-byte format to lanes -/
  | widen (f : EFmt) (d : DFmt)
  /-- a block-scaled format to FP32 lanes -/
  | fromBlock (f : EFmt)
  /-- BF16 to FP32 lanes -/
  | fromBf16
  /-- FP32 lanes to a block-scaled format -/
  | toBlock (f : FFmt)
  /-- lanes to lanes -/
  | lane (d : DFmt)
deriving DecidableEq, Repr

/-- The 1-byte unscaled formats as destinations. -/
def narrowFmt : EFmt → Option DFmt
  | .e4m3 => some (.flt .e4m3) | .e5m2 => some (.flt .e5m2) | .int8 => some .int8
  | _ => none

/-- FP32 and INT32 as destinations. -/
def wideFmt : EFmt → Option DFmt
  | .fp32 => some (.flt .fp32) | .int32 => some .int32
  | _ => none

/-- The kind of a pair of the table of R96; `none` for a pair that is not valid. -/
def vcvtKind (src dst : EFmt) : Option VcvtKind :=
  match src, dst with
  | .fp32, .bf16 => some .toBf16
  | .bf16, .fp32 => some .fromBf16
  | .fp32, .e4m3b => some (.toBlock .e4m3)
  | .fp32, .e5m2b => some (.toBlock .e5m2)
  | .fp32, .e2m1b => some (.toBlock .e2m1)
  | .fp32, .fp32 => some (.lane (.flt .fp32))
  | .fp32, .int32 => some (.lane .int32)
  | .int32, .fp32 => some (.lane (.flt .fp32))
  | .e4m3b, .fp32 => some (.fromBlock .e4m3b)
  | .e5m2b, .fp32 => some (.fromBlock .e5m2b)
  | .e2m1b, .fp32 => some (.fromBlock .e2m1b)
  | s, d =>
    if s = .fp32 ∨ s = .int32 then (narrowFmt d).map .narrow
    else if (narrowFmt s).isSome then (wideFmt d).map (.widen s)
    else none

/-- Fields of the ext of `vcvt` (R96). -/
def vcvtNfp (w : VWord) : Bool := w.ext.getLsbD 19
/-- Range counter group. -/
def vcvtGroup (w : VWord) : BitVec 6 := w.ext.extractLsb' 13 6
/-- Scale exponent. -/
def vcvtE (w : VWord) : Int := (w.ext.extractLsb' 5 8).toInt
/-- Part. -/
def vcvtPart (w : VWord) : Nat := bitsOf w.ext.toNat 3 2

/-- The byte of a scale register that holds the scale of the block whose first element lies at byte `d` of register
`v`; a block takes `len` bytes (R119). -/
def scaleAt (v d len : Nat) : Nat := 4 * (8 * (v % 8) + d / 64) + d % 64 / len

/-- Convert values one by one: codes and events. -/
def convMany (d : DFmt) (nfp wider : Bool) (vs : List FVal) : List Nat × List CEvent :=
  let cs := vs.map (convTo d nfp wider)
  (cs.map (fun c => c.code), List.zipWith (fun v c => convEvent v c.cls) vs cs)

/-- The register file after a `vcvt`, and the events to count with their slot. Where the scales of a block-scaled result fall
on its data (vb is vd), the data is written first and the scales over it (DESIGN CHOICE, log entry 117). -/
def vcvtEffect (r : RegFile) (k : VcvtKind) (src : EFmt) (vd va vb part : Nat) (e : Int) (nfp : Bool) :
    RegFile × RSlot × List CEvent :=
  let lanes := (r.lanes va).map (fun x => (src.val x.toNat).scale e)
  match k with
  | .narrow d =>
    let (cs, ev) := convMany d nfp false lanes
    (r.vecWrite vd (128 * part) (cs.map (BitVec.ofNat 8)), rslotOf d, ev)
  | .toBf16 =>
    let (cs, ev) := convMany (.flt .bf16) nfp false lanes
    (r.vecWrite vd (256 * (part % 2)) (cs.flatMap (leBytes 2)), .bf16, ev)
  | .widen f d =>
    let vs := (List.range 128).map (fun i => (f.val (r.byte va (128 * part + i)).toNat).scale e)
    let (cs, ev) := convMany d nfp true vs
    (r.vecWrite vd 0 (cs.flatMap (leBytes 4)), rslotOf d, ev)
  | .fromBf16 =>
    let row := (List.range 256).map (fun i => r.byte va (256 * (part % 2) + i))
    let vs := (List.range 128).map (fun i => (EFmt.bf16.elem row i).scale e)
    let (cs, ev) := convMany (.flt .fp32) nfp true vs
    (r.vecWrite vd 0 (cs.flatMap (leBytes 4)), .fp32, ev)
  | .fromBlock f =>
    let len := if f = .e2m1b then 16 else 32
    let row := (List.range (4 * len)).map (fun i => r.byte va (128 * part + i))
    let vs := (List.range 128).map (fun i =>
      ((f.elem row i).blockScaled (r.byte vb (scaleAt va (128 * part + i / 32 * len) len)).toNat).scale e)
    let (cs, ev) := convMany (.flt .fp32) nfp true vs
    (r.vecWrite vd 0 (cs.flatMap (leBytes 4)), .fp32, ev)
  | .toBlock f =>
    let len := if f = .e2m1 then 16 else 32
    let blocks := (chunks 32 lanes).map (convBlock f nfp)
    let codes := blocks.flatMap (fun b => b.1.map (fun c => c.code))
    let data := if f = .e2m1 then packE2m1 codes else codes.map (BitVec.ofNat 8)
    let ev := List.zipWith (fun v c => convEvent v c) lanes (blocks.flatMap (fun b => b.1.map (fun c => c.cls)))
    let r' := r.vecWrite vd (128 * part) data
    let scales := (List.range blocks.length).zip (blocks.map (fun b => BitVec.ofNat 8 b.2))
    let r'' := scales.foldl (fun q p => q.storeBytes (512 * vb + scaleAt vd (128 * part + p.1 * len) len) [p.2])
      (r'.openTile (vb / 8))
    (if vb / 8 = vd / 8 then r'' else r''.touch markAny (vb / 8), rslotOf (.flt f), ev)
  | .lane d =>
    let (cs, ev) := convMany d nfp false lanes
    (r.vecWrite vd 0 (cs.flatMap (leBytes 4)), rslotOf d, ev)

/-- The kind of a `vcvt`, `none` when its codes are not valid. -/
def vcvtOf (w : VWord) : Option (EFmt × VcvtKind) :=
  match tileFmt (w.vc.setWidth 4), tileFmt w.f with
  | some a, some b => (vcvtKind a b).map (fun k => (a, k))
  | _, _ => none

/-- The registers of a `vcvt`: vb only where a side is block-scaled. -/
def vcvtRegs (w : VWord) : List Nat :=
  match vcvtOf w with
  | some (_, .fromBlock _) => [vreg w.va, vreg w.vb, vreg w.vd]
  | some (_, .toBlock _) => [vreg w.va, vreg w.vb, vreg w.vd]
  | _ => [vreg w.va, vreg w.vd]

/-- `vcvt` (R96). -/
def execVcvt (c : CoreId) (t : StrandId) (w : VWord) (s : State) : Host.Outcome State Fault Refusal :=
  .next (s.vector c t (vcvtRegs w) (vcvtOf w).isSome (bitsOf w.ext.toNat 0 3 != 0) (fun s =>
    match vcvtOf w with
    | none => s
    | some (src, k) =>
      let o := vcvtEffect (s.core c).regs k src (vreg w.vd) (vreg w.va) (vreg w.vb) (vcvtPart w) (vcvtE w) (vcvtNfp w)
      (s.modRegs c (fun _ => o.1)).noteConv (vcvtGroup w) o.2.1 o.2.2))

/-! ## Row reduce (R97, R98) -/

/-- The tree of R97 over 128 terms: seven levels. -/
def laneTree (f : W32 → W32 → W32) (terms : List W32) : W32 := treeOf f 0 7 terms

/-- The first `n` terms, then the identity up to 128. -/
def padTerms (n : Nat) (ident : W32) (terms : List W32) : List W32 :=
  terms.take n ++ List.replicate (128 - n) ident

/-- The value of a `rred` mode (R97): `none` for a mode that is not valid. -/
def rredVal (mode : Nat) (n : Nat) (a b : List W32) : Option W32 :=
  match mode with
  | 0 => some (laneTree fadd (padTerms n 0 a))
  | 1 => some (laneTree fadd (padTerms n 0 (a.map (fun x => fmul x x))))
  | 2 => some (laneTree fadd (padTerms n 0 (List.zipWith fmul a b)))
  | 3 => some (laneTree fmax (padTerms n 0xFF800000 a))
  | 4 => some (laneTree fmin (padTerms n 0x7F800000 a))
  | _ => none

/-- n of a row reduce: ext[19:13] + 1. -/
def rredN (w : VWord) : Nat := bitsOf w.ext.toNat 13 7 + 1
/-- ln of a row reduce: ext[12:6]. -/
def rredLn (w : VWord) : Nat := bitsOf w.ext.toNat 6 7

/-- `rred` (R97). -/
def execRred (c : CoreId) (t : StrandId) (w : VWord) (s : State) : Host.Outcome State Fault Refusal :=
  .next (s.vector c t (if w.f = 2 then [vreg w.va, vreg w.vb, vreg w.vd] else [vreg w.va, vreg w.vd])
    (decide (w.f.toNat ≤ 4)) (bitsOf w.ext.toNat 0 6 != 0)
    (fun s =>
      let v := (rredVal w.f.toNat (rredN w) (s.lanes c (vreg w.va)) (s.lanes c (vreg w.vb))).getD 0
      s.modRegs c (fun r => r.vecWrite (vreg w.vd) (4 * rredLn w) (leBytes 4 v.toNat))))

/-- `rred2` (R98): s1 = Σ va × vb and s2 = Σ (va × vb) × vc over lanes 0 to n − 1. -/
def execRred2 (c : CoreId) (t : StrandId) (w : VWord) (s : State) : Host.Outcome State Fault Refusal :=
  .next (s.vector c t [vreg w.va, vreg w.vb, vreg w.vc, vreg w.vd, vreg w.vd + 1] (w.vd != 255)
    (w.f != 0 || bitsOf w.ext.toNat 0 6 != 0) (fun s =>
      let p := List.zipWith fmul (s.lanes c (vreg w.va)) (s.lanes c (vreg w.vb))
      let s1 := laneTree fadd (padTerms (rredN w) 0 p)
      let s2 := laneTree fadd (padTerms (rredN w) 0 (List.zipWith fmul p (s.lanes c (vreg w.vc))))
      s.modRegs c (fun r => r.vecWrite2 (vreg w.vd) (4 * rredLn w) (leBytes 4 s1.toNat)
        (vreg w.vd + 1) (4 * rredLn w) (leBytes 4 s2.toNat))))

/-! ## `vld` and `vst` (R99) -/

/-- The offset of `vld` and `vst`: a + imm with bits [5:0] ignored. -/
def State.vOffset (s : State) (c : CoreId) (t : StrandId) (w : VMWord) : Word :=
  (s.sreg c t w.sa + immWord w.imm) &&& 0xFFFFFFFFFFFFFFC0

/-- `vld` (R99, R483). -/
def execVld (c : CoreId) (t : StrandId) (w : VMWord) (s : State) : Host.Outcome State Fault Refusal :=
  .next (s.issue c t (s.vready c t [vreg w.vv] && !s.storePending c t) (fun s =>
    let off := s.vOffset c t w
    let bs := s.spadRead c off 512
    ((s.modRegs c (fun r => r.vecWrite (vreg w.vv) 0 bs)).outOfCapIf (spadPast off 512)).retire c t 8 (w.rsv != 0)))

/-- `vst` (R99, R483). -/
def execVst (c : CoreId) (t : StrandId) (w : VMWord) (s : State) : Host.Outcome State Fault Refusal :=
  .next (s.issue c t (s.vready c t [vreg w.vv] && !s.storePending c t) (fun s =>
    let off := s.vOffset c t w
    ((s.storeList (spadBytes c off ((s.core c).regs.vec (vreg w.vv)))).outOfCapIf (spadPast off 512)).retire c t 8
      (w.rsv != 0)))

end Sys2Proof.Machine
end

