-- ==== Sys2Proof/Machine/Dispatch.lean ====
section
/-! DEFINITION. The dispatch of a command to its meaning: one arm per constructor. -/

namespace Sys2Proof.Machine

/-- The effect of a command on everything but the queue. -/
def exec (i : Instr) (s : State) : Host.Outcome State Fault Refusal :=
  match i with
  | .nop c t w => Sys2Proof.Machine.execNop c t w s
  | .add c t w => Sys2Proof.Machine.execAdd c t w s
  | .sub c t w => Sys2Proof.Machine.execSub c t w s
  | .mul c t w => Sys2Proof.Machine.execMul c t w s
  | .div c t w => Sys2Proof.Machine.execDiv c t w s
  | .divu c t w => Sys2Proof.Machine.execDivu c t w s
  | .andI c t w => Sys2Proof.Machine.execAndI c t w s
  | .orI c t w => Sys2Proof.Machine.execOrI c t w s
  | .xorI c t w => Sys2Proof.Machine.execXorI c t w s
  | .shl c t w => Sys2Proof.Machine.execShl c t w s
  | .shr c t w => Sys2Proof.Machine.execShr c t w s
  | .sra c t w => Sys2Proof.Machine.execSra c t w s
  | .slt c t w => Sys2Proof.Machine.execSlt c t w s
  | .sltu c t w => Sys2Proof.Machine.execSltu c t w s
  | .minI c t w => Sys2Proof.Machine.execMinI c t w s
  | .maxI c t w => Sys2Proof.Machine.execMaxI c t w s
  | .lui c t w => Sys2Proof.Machine.execLui c t w s
  | .ld c t w => Sys2Proof.Machine.execLd c t w s
  | .st c t w => Sys2Proof.Machine.execSt c t w s
  | .beq c t w => Sys2Proof.Machine.execBeq c t w s
  | .bne c t w => Sys2Proof.Machine.execBne c t w s
  | .blt c t w => Sys2Proof.Machine.execBlt c t w s
  | .bge c t w => Sys2Proof.Machine.execBge c t w s
  | .bltu c t w => Sys2Proof.Machine.execBltu c t w s
  | .jal c t w => Sys2Proof.Machine.execJal c t w s
  | .jr c t w => Sys2Proof.Machine.execJr c t w s
  | .srd c t w => Sys2Proof.Machine.execSrd c t w s
  | .cend c t w => Sys2Proof.Machine.execCend c t w s
  | .vadd c t w => Sys2Proof.Machine.execVadd c t w s
  | .vsub c t w => Sys2Proof.Machine.execVsub c t w s
  | .vmul c t w => Sys2Proof.Machine.execVmul c t w s
  | .vfma c t w => Sys2Proof.Machine.execVfma c t w s
  | .vmax c t w => Sys2Proof.Machine.execVmax c t w s
  | .vmin c t w => Sys2Proof.Machine.execVmin c t w s
  | .vabs c t w => Sys2Proof.Machine.execVabs c t w s
  | .vbcast c t w => Sys2Proof.Machine.execVbcast c t w s
  | .vlane c t w => Sys2Proof.Machine.execVlane c t w s
  | .vmov c t w => Sys2Proof.Machine.execVmov c t w s
  | .vexp c t w => Sys2Proof.Machine.execVexp c t w s
  | .vrcp c t w => Sys2Proof.Machine.execVrcp c t w s
  | .vrsqrt c t w => Sys2Proof.Machine.execVrsqrt c t w s
  | .vcvt c t w => Sys2Proof.Machine.execVcvt c t w s
  | .rred c t w => Sys2Proof.Machine.execRred c t w s
  | .rred2 c t w => Sys2Proof.Machine.execRred2 c t w s
  | .vld c t w => Sys2Proof.Machine.execVld c t w s
  | .vst c t w => Sys2Proof.Machine.execVst c t w s
  | .tload c t w sh => Sys2Proof.Machine.execTload c t w sh s
  | .tloadComplete c tile => Sys2Proof.Machine.execTloadComplete c tile s
  | .tstore c t w sh => Sys2Proof.Machine.execTstore c t w sh s
  | .tstoreComplete c t => Sys2Proof.Machine.execTstoreComplete c t s
  | .trel c t w => Sys2Proof.Machine.execTrel c t w s
  | .awld c t w sh => Sys2Proof.Machine.execAwld c t w sh s
  | .aflip c t w => Sys2Proof.Machine.execAflip c t w s
  | .aflipTakesEffect c arr => Sys2Proof.Machine.execAflipTakesEffect c arr s
  | .amm c t w sh => Sys2Proof.Machine.execAmm c t w sh s
  | .ammStart c pos => Sys2Proof.Machine.execAmmStart c pos s
  | .ammRowWritten c pos => Sys2Proof.Machine.execAmmRowWritten c pos s
  | .abrd c t w => Sys2Proof.Machine.execAbrd c t w s
  | .abrdStart c => Sys2Proof.Machine.execAbrdStart c s
  | .cpy c t w => Sys2Proof.Machine.execCpy c t w s
  | .copyComplete c slot => Sys2Proof.Machine.execCopyComplete c slot s
  | .putI c t w => Sys2Proof.Machine.execPutI c t w s
  | .putSI c t w => Sys2Proof.Machine.execPutSI c t w s
  | .getI c t w => Sys2Proof.Machine.execGetI c t w s
  | .accI c t w => Sys2Proof.Machine.execAccI c t w s
  | .accSI c t w => Sys2Proof.Machine.execAccSI c t w s
  | .tadd c t w => Sys2Proof.Machine.execTadd c t w s
  | .twait c t w => Sys2Proof.Machine.execTwait c t w s
  | .karr c t w => Sys2Proof.Machine.execKarr c t w s
  | .kwait c t w => Sys2Proof.Machine.execKwait c t w s
  | .reservedOpcode c t op rest => Sys2Proof.Machine.execReservedOpcode c t op rest s
  | .strandWake c t => Sys2Proof.Machine.execStrandWake c t s
  | .latchParityError c arr half => Sys2Proof.Machine.execLatchParityError c arr half s
  | .latchRetryDone c pos => Sys2Proof.Machine.execLatchRetryDone c pos s
  | .fillerWindowExpiry c arr => Sys2Proof.Machine.execFillerWindowExpiry c arr s
  | .fillerRampStep c arr => Sys2Proof.Machine.execFillerRampStep c arr s
  | .coreDone c => Sys2Proof.Machine.execCoreDone c s
  | .strandsReleased c => Sys2Proof.Machine.execStrandsReleased c s
  | .readyUpdate => Sys2Proof.Machine.execReadyUpdate s
  | .edgeMarkSend => Sys2Proof.Machine.execEdgeMarkSend s
  | .edgeMarkReceive arrivalPs => Sys2Proof.Machine.execEdgeMarkReceive arrivalPs s
  | .edgeApply => Sys2Proof.Machine.execEdgeApply s
  | .edgeEchoMeasure hopPs => Sys2Proof.Machine.execEdgeEchoMeasure hopPs s
  | .reductionBlockLoaded => Sys2Proof.Machine.execReductionBlockLoaded s
  | .putPacket p => Sys2Proof.Machine.execPutPacket p s
  | .accPacket p => Sys2Proof.Machine.execAccPacket p s
  | .getReq p => Sys2Proof.Machine.execGetReq p s
  | .getResp p => Sys2Proof.Machine.execGetResp p s
  | .taddPacket p => Sys2Proof.Machine.execTaddPacket p s
  | .ackPacket p => Sys2Proof.Machine.execAckPacket p s
  | .waitReg p => Sys2Proof.Machine.execWaitReg p s
  | .wake p => Sys2Proof.Machine.execWake p s
  | .waitRegResend pos => Sys2Proof.Machine.execWaitRegResend pos s
  | .writeConfirm k => Sys2Proof.Machine.execWriteConfirm k s
  | .kArrive p => Sys2Proof.Machine.execKArrive p s
  | .kWait p => Sys2Proof.Machine.execKWait p s
  | .kRelease p => Sys2Proof.Machine.execKRelease p s
  | .kChain p => Sys2Proof.Machine.execKChain p s
  | .ksCascadeClose cl slot => Sys2Proof.Machine.execKsCascadeClose cl slot s
  | .ksSlotBind cl => Sys2Proof.Machine.execKsSlotBind cl s
  | .mcHoldTimeout c slot branch => Sys2Proof.Machine.execMcHoldTimeout c slot branch s
  | .pchServe p => Sys2Proof.Machine.execPchServe p s
  | .bulkPromote p => Sys2Proof.Machine.execBulkPromote p s
  | .fragmentAdd adder => Sys2Proof.Machine.execFragmentAdd adder s
  | .linkForward pos => Sys2Proof.Machine.execLinkForward pos s
  | .routeWaitExpiry pos => Sys2Proof.Machine.execRouteWaitExpiry pos s
  | .dataFlit l flit => Sys2Proof.Machine.execDataFlit l flit s
  | .linkAckTimer l => Sys2Proof.Machine.execLinkAckTimer l s
  | .replayTimeout l => Sys2Proof.Machine.execReplayTimeout l s
  | .linkDown l why => Sys2Proof.Machine.execLinkDown l why s
  | .capMsg l arg => Sys2Proof.Machine.execCapMsg l arg s
  | .addressMsg l arg => Sys2Proof.Machine.execAddressMsg l arg s
  | .retireLane l arg => Sys2Proof.Machine.execRetireLane l arg s
  | .widthMsg l arg => Sys2Proof.Machine.execWidthMsg l arg s
  | .resetNotice l => Sys2Proof.Machine.execResetNotice l s
  | .widthChangeDone l => Sys2Proof.Machine.execWidthChangeDone l s
  | .laneWindowExpiry l lane => Sys2Proof.Machine.execLaneWindowExpiry l lane s
  | .laneErrLimit l lane => Sys2Proof.Machine.execLaneErrLimit l lane s
  | .laneLockLoss l lane => Sys2Proof.Machine.execLaneLockLoss l lane s
  | .cableInsert cage => Sys2Proof.Machine.execCableInsert cage s
  | .cableRemove cage => Sys2Proof.Machine.execCableRemove cage s
  | .linkTrainingDone l r => Sys2Proof.Machine.execLinkTrainingDone l r s
  | .linkRetrainTimer l => Sys2Proof.Machine.execLinkRetrainTimer l s
  | .bondStandbyJoin l => Sys2Proof.Machine.execBondStandbyJoin l s
  | .cageOvercurrent cage => Sys2Proof.Machine.execCageOvercurrent cage s
  | .routeInstall => Sys2Proof.Machine.execRouteInstall s
  | .enumFrame f crcOk => Sys2Proof.Machine.execEnumFrame f crcOk s
  | .enumDone f crcOk => Sys2Proof.Machine.execEnumDone f crcOk s
  | .delayFrame f crcOk => Sys2Proof.Machine.execDelayFrame f crcOk s
  | .delayDone f crcOk => Sys2Proof.Machine.execDelayDone f crcOk s
  | .delayPassTimer => Sys2Proof.Machine.execDelayPassTimer s
  | .compFrame f crcOk => Sys2Proof.Machine.execCompFrame f crcOk s
  | .joinReq f crcOk => Sys2Proof.Machine.execJoinReq f crcOk s
  | .joinGrant f crcOk => Sys2Proof.Machine.execJoinGrant f crcOk s
  | .joinedFrame f crcOk => Sys2Proof.Machine.execJoinedFrame f crcOk s
  | .leaveFrame f crcOk => Sys2Proof.Machine.execLeaveFrame f crcOk s
  | .absentFrame f crcOk => Sys2Proof.Machine.execAbsentFrame f crcOk s
  | .topoFrame f crcOk => Sys2Proof.Machine.execTopoFrame f crcOk s
  | .reenumFrame f crcOk => Sys2Proof.Machine.execReenumFrame f crcOk s
  | .censusFrame f crcOk => Sys2Proof.Machine.execCensusFrame f crcOk s
  | .hereFrame f crcOk => Sys2Proof.Machine.execHereFrame f crcOk s
  | .chainAck f crcOk => Sys2Proof.Machine.execChainAck f crcOk s
  | .frameResend ty => Sys2Proof.Machine.execFrameResend ty s
  | .refLock => Sys2Proof.Machine.execRefLock s
  | .refLoss => Sys2Proof.Machine.execRefLoss s
  | .splice => Sys2Proof.Machine.execSplice s
  | .hstTaddWrite p bytes => Sys2Proof.Machine.execHstTaddWrite p bytes s
  | .hstWlWrite p list off bytes => Sys2Proof.Machine.execHstWlWrite p list off bytes s
  | .hstNotifyWrite p v off bytes => Sys2Proof.Machine.execHstNotifyWrite p v off bytes s
  | .hstApBaseWrite p off bytes => Sys2Proof.Machine.execHstApBaseWrite p off bytes s
  | .ftRangeClearWrite path off bytes => Sys2Proof.Machine.execFtRangeClearWrite path off bytes s
  | .latchFaultLostClear c value setNow => Sys2Proof.Machine.execLatchFaultLostClear c value setNow s
  | .readClear path off size => Sys2Proof.Machine.execReadClear path off size s
  | .registerWrite path off bytes => Sys2Proof.Machine.execRegisterWrite path off bytes s
  | .bar2Read p off size => Sys2Proof.Machine.execBar2Read p off size s
  | .bar2Write p off bytes => Sys2Proof.Machine.execBar2Write p off bytes s
  | .commandFetch => Sys2Proof.Machine.execCommandFetch s
  | .commandActionStart pos => Sys2Proof.Machine.execCommandActionStart pos s
  | .run k => Sys2Proof.Machine.execRun k s
  | .update k => Sys2Proof.Machine.execUpdate k s
  | .liftClose k => Sys2Proof.Machine.execLiftClose k s
  | .pin k => Sys2Proof.Machine.execPin k s
  | .unpin k => Sys2Proof.Machine.execUnpin k s
  | .rewindStop k => Sys2Proof.Machine.execRewindStop k s
  | .stopQuiesced => Sys2Proof.Machine.execStopQuiesced s
  | .rwQuiesceExpiry => Sys2Proof.Machine.execRwQuiesceExpiry s
  | .rewindResume k => Sys2Proof.Machine.execRewindResume k s
  | .resumeArrivalReached => Sys2Proof.Machine.execResumeArrivalReached s
  | .drain k => Sys2Proof.Machine.execDrain k s
  | .drainComplete => Sys2Proof.Machine.execDrainComplete s
  | .restoreStage k => Sys2Proof.Machine.execRestoreStage k s
  | .restoreCommit k => Sys2Proof.Machine.execRestoreCommit k s
  | .restorePartner k => Sys2Proof.Machine.execRestorePartner k s
  | .restoreComplete data => Sys2Proof.Machine.execRestoreComplete data s
  | .hostAccessTimeout isDrain => Sys2Proof.Machine.execHostAccessTimeout isDrain s
  | .mirrorOut k => Sys2Proof.Machine.execMirrorOut k s
  | .mirrorReturn k => Sys2Proof.Machine.execMirrorReturn k s
  | .mirrorChunkSend => Sys2Proof.Machine.execMirrorChunkSend s
  | .mirrorChunkTake => Sys2Proof.Machine.execMirrorChunkTake s
  | .retirePch k => Sys2Proof.Machine.execRetirePch k s
  | .suspectReplay k => Sys2Proof.Machine.execSuspectReplay k s
  | .suspectDone => Sys2Proof.Machine.execSuspectDone s
  | .dump k => Sys2Proof.Machine.execDump k s
  | .shedAck k => Sys2Proof.Machine.execShedAck k s
  | .reEnumerate k => Sys2Proof.Machine.execReEnumerate k s
  | .groupStart m => Sys2Proof.Machine.execGroupStart m s
  | .rulePassEnd m => Sys2Proof.Machine.execRulePassEnd m s
  | .trustPassStart m => Sys2Proof.Machine.execTrustPassStart m s
  | .facePassStart m => Sys2Proof.Machine.execFacePassStart m s
  | .liftCloseCommit => Sys2Proof.Machine.execLiftCloseCommit s
  | .liftDiscard => Sys2Proof.Machine.execLiftDiscard s
  | .slowCorrected ch => Sys2Proof.Machine.execSlowCorrected ch s
  | .slowUncorrectedRead ch => Sys2Proof.Machine.execSlowUncorrectedRead ch s
  | .slowRetryResult ch ok => Sys2Proof.Machine.execSlowRetryResult ch ok s
  | .slowCeLimit ch => Sys2Proof.Machine.execSlowCeLimit ch s
  | .slowWindowExpiry ch => Sys2Proof.Machine.execSlowWindowExpiry ch s
  | .slowRetrainDone ch ok => Sys2Proof.Machine.execSlowRetrainDone ch ok s
  | .pchCorrected p => Sys2Proof.Machine.execPchCorrected p s
  | .pchUncorrectedRead p => Sys2Proof.Machine.execPchUncorrectedRead p s
  | .pchRereadDone p ok => Sys2Proof.Machine.execPchRereadDone p ok s
  | .pchCeLimit p => Sys2Proof.Machine.execPchCeLimit p s
  | .pchWindowExpiry p => Sys2Proof.Machine.execPchWindowExpiry p s
  | .pchInterfaceCheck p margin => Sys2Proof.Machine.execPchInterfaceCheck p margin s
  | .pchCaParityError p => Sys2Proof.Machine.execPchCaParityError p s
  | .pchRetrainDone p ok => Sys2Proof.Machine.execPchRetrainDone p ok s
  | .sramCorrected u => Sys2Proof.Machine.execSramCorrected u s
  | .sramUncorrected u place off => Sys2Proof.Machine.execSramUncorrected u place off s
  | .resetReqCompute path => Sys2Proof.Machine.execResetReqCompute path s
  | .resetReqPackage path => Sys2Proof.Machine.execResetReqPackage path s
  | .resetReqModule path => Sys2Proof.Machine.execResetReqModule path s
  | .computeResetDone => Sys2Proof.Machine.execComputeResetDone s
  | .computeResetTimeout => Sys2Proof.Machine.execComputeResetTimeout s
  | .packageResetNotSet => Sys2Proof.Machine.execPackageResetNotSet s
  | .resetRelease => Sys2Proof.Machine.execResetRelease s
  | .perstAssert p => Sys2Proof.Machine.execPerstAssert p s
  | .perstRelease p => Sys2Proof.Machine.execPerstRelease p s
  | .pcieLinkDown p => Sys2Proof.Machine.execPcieLinkDown p s
  | .dumpCapture => Sys2Proof.Machine.execDumpCapture s
  | .scanReadTimeout ty idx => Sys2Proof.Machine.execScanReadTimeout ty idx s
  | .dumpWritten => Sys2Proof.Machine.execDumpWritten s
  | .inputApplied => Sys2Proof.Machine.execInputApplied s
  | .powerGood strap openPairs => Sys2Proof.Machine.execPowerGood strap openPairs s
  | .startStepDone r => Sys2Proof.Machine.execStartStepDone r s
  | .powerLoss => Sys2Proof.Machine.execPowerLoss s
  | .railOutOfRegulation rail => Sys2Proof.Machine.execRailOutOfRegulation rail s
  | .shedStepEnter vin => Sys2Proof.Machine.execShedStepEnter vin s
  | .shedStepLeave vin => Sys2Proof.Machine.execShedStepLeave vin s
  | .parkRotate => Sys2Proof.Machine.execParkRotate s
  | .overVoltage vin => Sys2Proof.Machine.execOverVoltage vin s
  | .undervoltageCutoff vin => Sys2Proof.Machine.execUndervoltageCutoff vin s
  | .powerRestart vin => Sys2Proof.Machine.execPowerRestart vin s
  | .powerLimitTick pin rails clu => Sys2Proof.Machine.execPowerLimitTick pin rails clu s
  | .thermalTick temps => Sys2Proof.Machine.execThermalTick temps s
  | .thermalPowerOff => Sys2Proof.Machine.execThermalPowerOff s
  | .clockPointChange => Sys2Proof.Machine.execClockPointChange s
  | .lifetimeLogWrite => Sys2Proof.Machine.execLifetimeLogWrite s
  | .failCauseExpiry => Sys2Proof.Machine.execFailCauseExpiry s
  | .updBegin path v => Sys2Proof.Machine.execUpdBegin path v s
  | .updWrite path v => Sys2Proof.Machine.execUpdWrite path v s
  | .updVerify path v => Sys2Proof.Machine.execUpdVerify path v s
  | .updAbort path v => Sys2Proof.Machine.execUpdAbort path v s
  | .updSessionTimeout => Sys2Proof.Machine.execUpdSessionTimeout s
  | .plbUpdBufWrite path off bytes => Sys2Proof.Machine.execPlbUpdBufWrite path off bytes s
  | .getVersion path req => Sys2Proof.Machine.execGetVersion path req s
  | .getCapabilities path req => Sys2Proof.Machine.execGetCapabilities path req s
  | .negotiateAlgorithms path req => Sys2Proof.Machine.execNegotiateAlgorithms path req s
  | .getDigests path req => Sys2Proof.Machine.execGetDigests path req s
  | .getCertificate path req => Sys2Proof.Machine.execGetCertificate path req s
  | .challenge path req => Sys2Proof.Machine.execChallenge path req s
  | .getMeasurements path req => Sys2Proof.Machine.execGetMeasurements path req s
  | .pldmRequest path req => Sys2Proof.Machine.execPldmRequest path req s
  | .smbusAlertResponse => Sys2Proof.Machine.execSmbusAlertResponse s
  | .idleFlit l flit => Sys2Proof.Machine.execIdleFlit l flit s
  | .karrReply r => Sys2Proof.Machine.execKarrReply r s
  | .rdyInChange level => Sys2Proof.Machine.execRdyInChange level s
  | .chainOutPresenceChange present => Sys2Proof.Machine.execChainOutPresenceChange present s
  | .censusEnd => Sys2Proof.Machine.execCensusEnd s
  | .trustPassEnd m => Sys2Proof.Machine.execTrustPassEnd m s
  | .facePassEnd m => Sys2Proof.Machine.execFacePassEnd m s
  | .mirrorComplete => Sys2Proof.Machine.execMirrorComplete s
  | .slowRetrainStart ch => Sys2Proof.Machine.execSlowRetrainStart ch s
  | .pcieLinkUp p speed width flit => Sys2Proof.Machine.execPcieLinkUp p speed width flit s
  | .overRangeEvent vin => Sys2Proof.Machine.execOverRangeEvent vin s
  | .updRequestComplete flashOk => Sys2Proof.Machine.execUpdRequestComplete flashOk s

end Sys2Proof.Machine
end

