-- ==== Sys2Proof/Safety.lean ====
section
/-! DEFINITION. The terms in which claims about the block are stated: which commands are instructions of a strand, when
a strand issues, and what an event leaves as it was. A frame is stated as an equation between states: a state with the
changed parts put back is the state before. -/

namespace Sys2Proof.Machine

/-! ## Issue -/

/-- The core and strand that issue a command, where it is an instruction (R77). -/
def issuer : Instr → Option (Nat × Nat)
  | .nop c t _ | .add c t _ | .sub c t _ | .mul c t _ | .div c t _ | .divu c t _ | .andI c t _ | .orI c t _
  | .xorI c t _ | .shl c t _ | .shr c t _ | .sra c t _ | .slt c t _ | .sltu c t _ | .minI c t _ | .maxI c t _
  | .lui c t _ | .ld c t _ | .st c t _ | .beq c t _ | .bne c t _ | .blt c t _ | .bge c t _ | .bltu c t _
  | .jal c t _ | .jr c t _ | .srd c t _ | .cend c t _ | .trel c t _ => some (c, t)
  | .vadd c t _ | .vsub c t _ | .vmul c t _ | .vfma c t _ | .vmax c t _ | .vmin c t _ | .vabs c t _
  | .vbcast c t _ | .vlane c t _ | .vmov c t _ | .vexp c t _ | .vrcp c t _ | .vrsqrt c t _ | .vcvt c t _
  | .rred c t _ | .rred2 c t _ => some (c, t)
  | .vld c t _ | .vst c t _ => some (c, t)
  | .tload c t _ _ | .tstore c t _ _ => some (c, t)
  | .awld c t _ _ | .amm c t _ _ => some (c, t)
  | .aflip c t _ => some (c, t)
  | .abrd c t _ => some (c, t)
  | .cpy c t _ | .putI c t _ | .putSI c t _ | .getI c t _ | .accI c t _ | .accSI c t _ | .tadd c t _ | .twait c t _
  | .karr c t _ | .kwait c t _ => some (c, t)
  | _ => none

/-- The strand issues its next instruction (R24, R27, R49, R84, R359): its core runs and is not frozen, the strand has
not ended and waits for nothing, and its pointer lies in the scratchpad. -/
def State.issues (s : State) (c t : Nat) : Bool := s.canIssue c t && !s.pastEnd c t

/-! ## Frames of core instructions -/

/-- A core after one instruction, its strands apart: a misfit adds 1 to its counter and to the course's (R110, R111). -/
def Core.counted (k : Core) (mis : Bool) : Core :=
  if mis then { k with run := { k.run with misfit := satAdd k.run.misfit 1, misfitCourse := satAdd k.run.misfitCourse 1 } }
  else k

/-- Every field of the state but the cores is as before. -/
def State.sameButCores (s u : State) : Prop := { u with cores := s.cores } = s

/-- Every field but the cores is as before, and the lifetime log counts one access past the scratchpad where `past`
says so (R483). -/
def State.sameButPast (s u : State) (past : Bool) : Prop := { u with cores := s.cores } = s.outOfCapIf past

/-- Of the cores only strand `t` of core `c` has changed, the core's misfit counter where `mis` says so, and what `back`
puts back. -/
def State.coresFrame (s u : State) (c t : Nat) (mis : Bool) (back : Core → Core) : Prop :=
  (∀ d, d ≠ c → u.core d = s.core d) ∧ (∀ x, x ≠ t → u.strand c x = s.strand c x) ∧
  { back (u.core c) with strands := (s.core c).strands } = (s.core c).counted mis

/-- The register file is put back. -/
def State.regsBack (s : State) (c : Nat) (k : Core) : Core := { k with regs := (s.core c).regs }
/-- The arrays are put back. -/
def State.arrBack (s : State) (c : Nat) (k : Core) : Core := { k with arr := (s.core c).arr }
/-- The engine is put back. -/
def State.engBack (s : State) (c : Nat) (k : Core) : Core := { k with eng := (s.core c).eng }

/-- The strand has moved on by `n` bytes, and nothing else of it has changed. -/
def State.movedOn (s u : State) (c t : Nat) (n : Word) : Prop :=
  u.strand c t = { s.strand c t with ip := (s.strand c t).ip + n }

/-- The strand's registers after a write of `v` to `sd`: S0 reads as zero (R67). -/
def State.wrote (s u : State) (c t : Nat) (sd : BitVec 5) (v : Word) : Prop :=
  ∀ r : BitVec 5, u.sreg c t r = if r = 0 then 0 else if r = sd then v else s.sreg c t r

/-- The strand has retired an instruction: its pointer is at `ip`, and besides it only registers have changed. -/
def State.retired (s u : State) (c t : Nat) (ip : Word) : Prop :=
  u.strand c t = { s.strand c t with ip := ip, regs := (u.strand c t).regs }

/-- The whole effect of a scalar instruction: `v` in `sd`, the pointer at `ip`, and nothing else (R67, R77, R110). -/
def State.scalarDone (s u : State) (c t : Nat) (sd : BitVec 5) (v ip : Word) (mis : Bool) : Prop :=
  s.wrote u c t sd v ∧ s.retired u c t ip ∧ s.coresFrame u c t mis id ∧ s.sameButCores u

/-- Of the vector registers only the bytes `inside` have changed; the tiles listed carry the mark of a whole tile, and
their write counts have advanced by 1 (R72, R75). -/
def RegFile.wrote (r q : RegFile) (tiles : List Nat) (inside : Nat → Nat → Prop) : Prop :=
  (∀ n b, b < 512 → ¬inside n b → q.byte n b = r.byte n b) ∧
  (∀ k, q.mark k = if k ∈ tiles then markAny else r.mark k) ∧
  (∀ k, SMap.get 0 q.wcnt k = if k ∈ tiles then SMap.get 0 r.wcnt k + 1 else SMap.get 0 r.wcnt k)

/-- The whole effect of a vector instruction besides the values written: bytes `inside` of the vector registers, with
the marks and counts of their tiles, the pointer, and nothing else. -/
def State.vectorDone (s u : State) (c t : Nat) (mis : Bool) (tiles : List Nat) (inside : Nat → Nat → Prop) : Prop :=
  (s.core c).regs.wrote (u.core c).regs tiles inside ∧ s.movedOn u c t 8 ∧
  s.coresFrame u c t mis (s.regsBack c) ∧ s.sameButCores u

/-- The bytes of the registers that a `vcvt` may change (R96, R119): all of vd for an FP32 or INT32 result, one of its
four parts for a 1-byte result, one half for BF16; for a block-scaled result the four blocks of a part, and in vb the
scale byte of each. -/
def VcvtKind.fills (k : VcvtKind) (vd vb part : Nat) (n b : Nat) : Prop :=
  match k with
  | .narrow _ => n = vd ∧ b / 128 = part
  | .toBf16 => n = vd ∧ b / 256 = part % 2
  | .toBlock f =>
    let len := if f = .e2m1 then 16 else 32
    (n = vd ∧ 128 * part ≤ b ∧ b < 128 * part + 4 * len) ∨
    (n = vb ∧ ∃ i, i < 4 ∧ b = scaleAt vd (128 * part + i * len) len)
  | _ => n = vd

/-- `vd` holds the lanes `f`, and it is all that a vector instruction has written. -/
def State.lanesDone (s u : State) (c t : Nat) (vd : Nat) (f : Nat → W32) : Prop :=
  (∀ i, i < 128 → (u.core c).regs.lane vd i = f i) ∧ s.vectorDone u c t false [vd / 8] (fun n _ => n = vd)

/-- An instruction that executes as `nop` and counts as a misfit (R110). -/
def State.misfitNop (s u : State) (c t : Nat) (n : Word) : Prop :=
  s.movedOn u c t n ∧ s.coresFrame u c t true id ∧ s.sameButCores u

/-- Nothing in the array queue goes on its own when its turn comes (R35): every entry is an `amm` or an `aflip`, whose
start is a command of its own. -/
def ArrayUnit.calm (a : ArrayUnit) : Prop := ∀ e ∈ a.queue, (∃ o, e = .amm o) ∨ (∃ n hs, e = .flip n hs)

/-- Row `i` of an `amm` has reached the bank for some halves (R33, R39): each entry of their columns holds the row's
result, or its sum with what it held, and no other entry has changed. -/
def ArrayUnit.rowDone (a b : ArrayUnit) (o : AmmOp) (f : EFmt) (hs : List Nat) (i : Nat) : Prop :=
  (∀ h ∈ hs, ∀ j, j < halfCols f →
    let v := columnResult f o.k (o.rows.getD i []) (o.scales.getD i []) (SMap.get {} a.active h) j
    let k := 256 * (o.boff + i) + bankCol f h j
    SMap.get 0 b.bank k = if o.zero then v else fadd (SMap.get 0 a.bank k) v) ∧
  (∀ k, (∀ h ∈ hs, ∀ j, j < halfCols f → k ≠ 256 * (o.boff + i) + bankCol f h j) →
    SMap.get 0 b.bank k = SMap.get 0 a.bank k)

/-- Memory changes only at the keys `inside`. -/
def State.memFrame (s u : State) (inside : Nat → Prop) : Prop := ∀ k, ¬inside k → u.mem.byte k = s.mem.byte k

/-- A packet arrives where it is acted on, in its turn: it is for this module, of this generation and kind, with no
reserved bit set (R8, R160, R171, R211). -/
def State.takes (s : State) (p : Packet) (op : BitVec 4) : Bool :=
  s.isSelf (packetModule p) && decide (p.gen = 1) && decide (p.op = op) && decide (p.op.toNat < 12) &&
  decide (p.rsv = 0) && s.inTurn p

/-- A packet's module is this one or is not absent (R230). -/
def State.routable (s : State) (p : Packet) : Bool := s.isSelf (packetModule p) || !s.absent (packetModule p)

/-- Packets as they set out. -/
def setOut (ps : List Packet) : List Flight := ps.map (fun p => { pkt := p })

/-- The state in which packets have set out. -/
def State.sent (s : State) (ps : List Packet) : State :=
  { s with net := { s.net with flight := s.net.flight ++ setOut ps } }

/-- Strand `t` of core `c` waits for `w`, one instruction further on, and nothing else of the cores has changed. -/
def State.blockedOn (s u : State) (c t : Nat) (w : Wait) (mis : Bool) : Prop :=
  u.strand c t = { s.strand c t with ip := (s.strand c t).ip + 8, wait := w } ∧ s.coresFrame u c t mis id

/-- A wait of strand `t` has returned `v` in `sd` with status `st`, `n` bytes further on: the strand is ready, the
status is in its remote status bits, and nothing else of the cores has changed (R105, R108). -/
def State.returned (s u : State) (c t : Nat) (n : Word) (sd : BitVec 5) (v : Word) (st : BitVec 3) (mis : Bool) : Prop :=
  s.wrote u c t sd v ∧
  u.strand c t = { s.strand c t with
    ip := (s.strand c t).ip + n, wait := .none, regs := (u.strand c t).regs,
    rstat := (s.strand c t).rstat ||| (if st = stAbsent then 1 else if st = stBroken then 2 else 0) } ∧
  s.coresFrame u c t mis id

/-- The K_RELEASE packets that the close of a keystone's open round sends to its participants (R225). -/
def State.releasesOf (s : State) (x : KSlot) : List Packet :=
  (setBits 576 x.parts.toNat).map (fun c =>
    { op := 10, status := stOk, dst := s.addrOf x.obj.toNat, srcModule := s.self, srcUnit := BitVec.ofNat 10 c,
      aux := x.round })

/-- The open round of slot `i` of cluster `cl`, which nothing but its participants waits for, has closed (R222, R225):
the releases have set out, the object holds the next round, and the slot is free. -/
def State.roundClosed (s u : State) (cl i : Nat) (x : KSlot) : Prop :=
  u.mem.word (x.obj.toNat + 8) = x.round + 1 ∧
  s.memFrame u (fun k => x.obj.toNat ≤ k ∧ k < x.obj.toNat + 248) ∧
  (∃ wakes, u.net.flight = s.net.flight ++ setOut (s.releasesOf x) ++ wakes) ∧
  SMap.find? (u.cluster cl).slots i = none ∧ (∀ k, k ≠ cl → u.cluster k = s.cluster k) ∧
  { u with mem := s.mem, net := s.net, clusters := s.clusters } = s

/-! ## The chain -/

/-- A frame that passed its CRC reaches a spliced port, with its own generation and type (R270). -/
def State.hears (s : State) (f : Frame) (ty : BitVec 4) : Bool :=
  !s.chain.bypass && decide (f.gen = 1) && decide (f.ty = ty)

/-- A downstream frame that is no repeat reaches a spliced port (R270). -/
def State.hearsNew (s : State) (f : Frame) (ty : BitVec 4) : Bool :=
  s.hears f ty && !s.chain.seqSeen.contains (f.ty, f.seq)

/-- The state once a downstream frame has been taken: its sequence number has been seen. -/
def State.heard (s : State) (f : Frame) : State :=
  { s with chain := { s.chain with seqSeen := ((f.ty, f.seq) :: s.chain.seqSeen).take 128 } }

/-- The state once a downstream frame has been taken and, but at the tail, repeated. -/
def State.repeated (s : State) (f : Frame) : State :=
  if s.chain.tail then s.heard f else (s.heard f).emit (.frameDn f)

/-- The module holds chain address `a`, the lifetime log records it, and no JOIN_REQ is kept for an answer (R271–R273):
the state before what the change of absence brings. -/
def State.holding (s : State) (a : Nat) : State :=
  { s with
    chain := { s.chain with
      addr := BitVec.ofNat 13 a, addrValid := true, full := false, port := 5,
      unacked := s.chain.unacked.filter (fun u => u.1.ty != 6) }
    plb := { s.plb with logAddr := some a } }

/-! ## Links -/

/-- A link without a bond has gone out of service with a state and a cause (R255, R283): nothing of it is in use. Unless
the head hears of it, which may find a module absent (R274), no other link has changed, and besides the links only what
tells of it has: the packets that it held, TOPO frames, and vector 6. -/
def State.wentOut (s u : State) (l : Nat) (state cause : BitVec 4) : Prop :=
  (u.link l).state = state ∧ (u.link l).cause = cause ∧ (u.link l).width = 0 ∧ (u.link l).rate = 0 ∧
  (u.link l).live = 0 ∧ (u.link l).locked = 0 ∧ (u.link l).bond = 0xF ∧ (u.link l).ch = {} ∧
  (s.chain.head = false ∨ (s.link l).carries = false →
    (∀ k, k ≠ l → u.link k = s.link k) ∧
    { u with lnk := s.lnk, net := s.net, chain := s.chain, out := s.out, ports := s.ports } = s)

/-- Of the links only `l` has changed; a change of its state raises vector 6 of the ports (R412), and the module may
have driven messages out. -/
def State.onlyLink (s u : State) (l : Nat) : Prop :=
  (∀ k, k ≠ l → u.link k = s.link k) ∧ { u.lnk with links := s.lnk.links } = s.lnk ∧
  { u with lnk := s.lnk, out := s.out, ports := s.ports } = s

/-! ## The work of the module -/

/-- Command `k` has started with an opcode and a sub code, and its action has not taken place (R401). -/
def State.starts (s : State) (k : Cmd) (op sub : Nat) : Prop :=
  k ∈ s.job.started ∧ k.opcode.toNat = op ∧ k.sub.toNat = sub

/-- The state in which the action of `k` takes place: the command is no longer among those that have started. -/
def State.acting (s : State) (k : Cmd) : State := { s with job := { s.job with started := s.job.started.erase k } }

/-- The face window in force, with the parity of the closed lift (R182). -/
def FastTier.placed (f : FastTier) (base0 base1 len lift : Word) : FastTier :=
  { f with
    base0 := BitVec.ofNat 37 (base0.toNat / 2048), base1 := BitVec.ofNat 37 (base1.toNat / 2048)
    len := BitVec.ofNat 37 (len.toNat / 2048), faceValid := true, parity := lift.getLsbD 0 }

/-- The 128 bytes of a target list name targets (R227, R228): its generation is 1, nothing reserved is set, and either it
holds a mask of cores with a destination in the scratchpads, or it names a module mask in this module's fast tier. -/
def State.listNames (s : State) (bs : List Byte) (cores : Bool) (dst : Word) (ids : List Nat) : Prop :=
  let word (i : Nat) : Word := BitVec.ofNat 64 (leNat (slice bs (8 * i) 8))
  word 1 = dst ∧ (∀ b ∈ slice bs 96 32, b = 0) ∧
  (if cores then
    word 0 = 0x1000000000000000 ∧ addrSpace dst = 2 ∧ word 2 = 0 ∧ ids = setBits 576 (leNat (slice bs 24 72))
  else
    word 0 = 0x1400000000000000 ∧ (∀ b ∈ slice bs 24 72, b = 0) ∧ s.isSelf (addrModule (word 2)) = true ∧
    addrSpace (word 2) = 0 ∧ (∀ i, i < 512 → ∃ x, s.place (word 2 + BitVec.ofNat 64 i) false = .mem x) ∧
    ids = setBits 4095 (leNat (s.readAt (word 2) 512)))

/-- Packets set out in rotation: the first that each branch may send, then the second of each, and so on (R213, R229). -/
def firstOf (brs : List (Word × List (List Packet))) : List Packet :=
  (List.range ((brs.map (fun b => (firstRuns b.2).length)).sum)).flatMap (fun i =>
    brs.filterMap (fun b => (firstRuns b.2)[i]?))

/-- The strands of core `c` run the context saved at `area` (R52, R170): instruction pointers, scalar and vector
registers, fill marks and the accumulator bank as they were saved, and no strand waits or has ended. -/
def State.ctxRestored (s u : State) (c area : Nat) : Prop :=
  (∀ t : StrandId, (u.strand c t).ip = s.mem.word (area + 1024 + 8 * t.val) ∧
    (u.strand c t).atEnd = false ∧ (u.strand c t).wait = .none ∧
    ∀ x : BitVec 5, x ≠ 0 → u.sreg c t x = s.mem.word (area + 256 * t.val + 8 * x.toNat)) ∧
  (∀ i, i < 131072 → SMap.get 0 (u.core c).regs.bytes i = s.mem.byte (area + 1088 + i)) ∧
  (∀ k, k < 32 → (u.core c).regs.mark k = Mark.ofCode (leNat (s.mem.read (area + 132160 + 4 * k) 4))) ∧
  (∀ i, i < 65536 → SMap.get 0 (u.core c).arr.bank i = BitVec.ofNat 32 (leNat (s.mem.read (area + 132288 + 4 * i) 4)))

/-- A suspect replay in state `h` goes on with the suspects `cs` (R377, R378). With no time left each is reported NOT_RUN.
Otherwise those whose save area lies in a broken home are reported UNRESTORABLE, and the first other one is replayed: its
strands reset, its arrays as at an edge but for the count of latch faults in the course, its context restored from its
save area, its strands released. With no suspect left the report is written and the command completes. -/
def State.replayGoesOn (h : State) (o : Host.Outcome State Fault Refusal) (r : Replay) (cs : List Nat) : Prop :=
  let lost (c : Nat) : Bool := (h.cluster (coreCluster c)).brokenClm
  let reported (l : List Suspect) : Prop := o = .next
    (((State.logOp { h with job := { h.job with replay := none } } 7).fastWrite (r.cmd.c.toNat % 2 ^ 46)
      (Replay.report { r with left := [], current := none, done := r.done ++ l })).complete r.cmd)
  (r.beganAt + r.limit ≤ h.chain.time → reported (cs.map (fun c => h.suspectAt c 0 0))) ∧
  (h.chain.time < r.beganAt + r.limit →
    ((∀ x ∈ cs, lost x = true) → reported (cs.map (fun c => h.suspectAt c 4 0))) ∧
    (∀ pre c rest, cs = pre ++ c :: rest → (∀ x ∈ pre, lost x = true) → lost c = false →
      let k := (h.core c).run
      ∃ u : State, o = .next u ∧
        u.job = { h.job with replay := some { r with
          left := rest, current := some c, done := r.done ++ pre.map (fun x => h.suspectAt x 4 0) } } ∧
        h.ctxRestored u c (saveKey c k.ctx.toNat) ∧ (∀ d, d ≠ c → u.core d = h.core d) ∧ (u.core c).regs.wcnt = [] ∧
        { (u.core c).arr with bank := (h.core c).arr.bank } = { (h.core c).arr with
          shadow := [], active := [], reuse := [], queue := [], stream := [], readout := [], retries := [] } ∧
        (k.state ≠ .parked →
          (u.core c).run = { k with state := .running, holds := true, faulted := false, start := h.coreCycle c }) ∧
        u.mem = h.mem ∧ u.msn = h.msn ∧ u.ft = h.ft ∧ u.chain = h.chain ∧ u.plb = h.plb))

/-! ## Faults and power -/

/-- The module is HELD for a cause (R359): ready is 0, and the cause is the last of those that stand. -/
def State.heldFor (s u : State) (h : Hold) : Prop :=
  u.job.st = .held ∧ u.job.holds = s.job.holds ++ [h.code] ∧ u.job.prior = s.job.st ∧ u.chain.ready = false ∧
  u.job.frozen = (s.job.frozen || h.freezes) ∧ u.job.masonStop = (s.job.masonStop || h.stopsMasons)

/-- The module has entered FAILED for a cause (R363). -/
def State.failedFor (s u : State) (cause : BitVec 4) : Prop :=
  u.job.st = .failed ∧ u.plb.failCause = cause ∧ u.plb.logFail = some (cause, s.plb.powered) ∧
  u.plb.dumpWant = s.plb.dumpWant ++ [2] ∧ u.chain.bypass = true ∧ u.chain.addrValid = false ∧
  u.job.frozen = true ∧ u.job.masonStop = true ∧ u.job.runs = [] ∧
  (∀ l, l < 12 → (u.link l).state =
    if (s.link l).state = 0 then 0 else if (s.link l).state = lkFailed then lkFailed else lkDown)

/-! ## What every step keeps -/

/-- The memory is in its canonical form, and no region bears a loss number that has not been given out. -/
def State.memOk (s : State) : Prop := s.mem.wf = true ∧ ∀ p ∈ s.mem.lost, p.2 ≤ s.losses

end Sys2Proof.Machine
end

