-- ==== Sys2Proof/Certificates/Slice0/Obligations.lean ====
section
/-! DEFINITION. The statements for the provers. -/

open Sys2Proof Sys2Proof.Machine

/-! ## Scalar and control instructions -/

/-- R81 (with R67, R77, R80, R110): `nop`, `add`, `sub`, `mul`, `div` and `divu` complete on every strand that issues,
with the result that R81 states on two's-complement values, and nothing else changes.

R81: the bitwise and shift instructions; a shift is by b[5:0], and `sra` fills with the sign.

R81: comparisons, signed minimum and maximum, and `lui`. The model's own readings and choices behind it: log entry
90. -/
def Obligations.ScalarResults : Prop :=
  (∀ (c : CoreId) (t : StrandId) (w : SWord) (s : State), s.issues c t = true →
    let a := s.sreg c t w.sa
    let b := s.operandB c t w
    let ip := (s.strand c t).ip + 8
    let mis := w.rsv != 0
    (∃ u, exec (.nop c t w) s = .next u ∧ s.scalarDone u c t 0 0 ip mis) ∧
    (∃ u, exec (.add c t w) s = .next u ∧ s.scalarDone u c t w.sd (BitVec.ofInt 64 (a.toInt + b.toInt)) ip mis) ∧
    (∃ u, exec (.sub c t w) s = .next u ∧ s.scalarDone u c t w.sd (BitVec.ofInt 64 (a.toInt - b.toInt)) ip mis) ∧
    (∃ u, exec (.mul c t w) s = .next u ∧ s.scalarDone u c t w.sd (BitVec.ofInt 64 (a.toInt * b.toInt)) ip mis) ∧
    (∃ u, exec (.div c t w) s = .next u ∧ s.scalarDone u c t w.sd
      (if b = 0 then BitVec.allOnes 64 else BitVec.ofInt 64 (a.toInt.tdiv b.toInt)) ip mis) ∧
    (∃ u, exec (.divu c t w) s = .next u ∧ s.scalarDone u c t w.sd
      (if b = 0 then BitVec.allOnes 64 else BitVec.ofNat 64 (a.toNat / b.toNat)) ip mis)) ∧
  (∀ (c : CoreId) (t : StrandId) (w : SWord) (s : State), s.issues c t = true →
    let a := s.sreg c t w.sa
    let b := s.operandB c t w
    let n := b.toNat % 64
    let ip := (s.strand c t).ip + 8
    let mis := w.rsv != 0
    (∃ u, exec (.andI c t w) s = .next u ∧ ∃ v, s.scalarDone u c t w.sd v ip mis ∧
      ∀ i, v.getLsbD i = (a.getLsbD i && b.getLsbD i)) ∧
    (∃ u, exec (.orI c t w) s = .next u ∧ ∃ v, s.scalarDone u c t w.sd v ip mis ∧
      ∀ i, v.getLsbD i = (a.getLsbD i || b.getLsbD i)) ∧
    (∃ u, exec (.xorI c t w) s = .next u ∧ ∃ v, s.scalarDone u c t w.sd v ip mis ∧
      ∀ i, v.getLsbD i = (a.getLsbD i ^^ b.getLsbD i)) ∧
    (∃ u, exec (.shl c t w) s = .next u ∧ s.scalarDone u c t w.sd (BitVec.ofNat 64 (a.toNat * 2 ^ n)) ip mis) ∧
    (∃ u, exec (.shr c t w) s = .next u ∧ s.scalarDone u c t w.sd (BitVec.ofNat 64 (a.toNat / 2 ^ n)) ip mis) ∧
    (∃ u, exec (.sra c t w) s = .next u ∧ s.scalarDone u c t w.sd (BitVec.ofInt 64 (a.toInt / 2 ^ n)) ip mis)) ∧
  (∀ (c : CoreId) (t : StrandId) (w : SWord) (s : State), s.issues c t = true →
    let a := s.sreg c t w.sa
    let b := s.operandB c t w
    let ip := (s.strand c t).ip + 8
    let mis := w.rsv != 0
    (∃ u, exec (.slt c t w) s = .next u ∧ s.scalarDone u c t w.sd (if a.toInt < b.toInt then 1 else 0) ip mis) ∧
    (∃ u, exec (.sltu c t w) s = .next u ∧ s.scalarDone u c t w.sd (if a.toNat < b.toNat then 1 else 0) ip mis) ∧
    (∃ u, exec (.minI c t w) s = .next u ∧
      s.scalarDone u c t w.sd (BitVec.ofInt 64 (min a.toInt b.toInt)) ip mis) ∧
    (∃ u, exec (.maxI c t w) s = .next u ∧
      s.scalarDone u c t w.sd (BitVec.ofInt 64 (max a.toInt b.toInt)) ip mis) ∧
    (∃ u, exec (.lui c t w) s = .next u ∧
      s.scalarDone u c t w.sd (BitVec.ofNat 64 (2 ^ 32 * w.imm.toNat + a.toNat % 2 ^ 32)) ip mis))

/-- R82: a branch goes to its own address + 8 × imm when its comparison of Sa and Sb holds, else to the next word.

R82, R83, R84, R74, R79: `jal` and `jr` write the return address and jump (bits [2:0] of a target are ignored, R77);
`srd` reads a special value, zero with a misfit where none is listed, and reading rstat clears it; `cend` ends the
strand's work; `trel` empties the tiles of its mask; a reserved opcode is a `nop` that counts as a misfit. The
model's own readings and choices behind it: log entry 90. -/
def Obligations.ControlInstructions : Prop :=
  (∀ (c : CoreId) (t : StrandId) (w : SWord) (s : State), s.issues c t = true →
    let a := s.sreg c t w.sa
    let b := s.sreg c t w.sb
    let ip := (s.strand c t).ip
    let target := align8 (BitVec.ofInt 64 (ip.toInt + 8 * w.imm.toInt))
    let mis := w.rsv != 0
    (∃ u, exec (.beq c t w) s = .next u ∧ s.scalarDone u c t 0 0 (if a = b then target else ip + 8) mis) ∧
    (∃ u, exec (.bne c t w) s = .next u ∧ s.scalarDone u c t 0 0 (if a = b then ip + 8 else target) mis) ∧
    (∃ u, exec (.blt c t w) s = .next u ∧ s.scalarDone u c t 0 0 (if a.toInt < b.toInt then target else ip + 8) mis) ∧
    (∃ u, exec (.bge c t w) s = .next u ∧ s.scalarDone u c t 0 0 (if b.toInt ≤ a.toInt then target else ip + 8) mis) ∧
    (∃ u, exec (.bltu c t w) s = .next u ∧ s.scalarDone u c t 0 0 (if a.toNat < b.toNat then target else ip + 8) mis)) ∧
  (∀ (c : CoreId) (t : StrandId) (w : SWord) (s : State), s.issues c t = true →
    let ip := (s.strand c t).ip
    let mis := w.rsv != 0
    (∃ u, exec (.jal c t w) s = .next u ∧
      s.scalarDone u c t w.sd (ip + 8) (align8 (BitVec.ofInt 64 (ip.toInt + 8 * w.imm.toInt))) mis) ∧
    (∃ u, exec (.jr c t w) s = .next u ∧
      s.scalarDone u c t w.sd (ip + 8) (align8 (BitVec.ofInt 64 ((s.sreg c t w.sa).toInt + w.imm.toInt))) mis) ∧
    (∃ u, exec (.srd c t w) s = .next u ∧
      s.wrote u c t w.sd ((s.special c t (w.imm.toNat % 256)).getD 0) ∧
      u.strand c t = { s.strand c t with
        ip := ip + 8, regs := (u.strand c t).regs,
        rstat := if w.imm.toNat % 256 = 10 then 0 else (s.strand c t).rstat } ∧
      s.coresFrame u c t (mis || decide (11 < w.imm.toNat % 256)) id ∧ s.sameButCores u) ∧
    (∃ u, exec (.cend c t w) s = .next u ∧
      u.strand c t = { s.strand c t with ip := ip + 8, atEnd := true } ∧
      s.coresFrame u c t mis id ∧ s.sameButCores u) ∧
    ((∀ n, n < 32 → w.imm.getLsbD n = true → s.tileBusy c t n = false) →
      ∃ u, exec (.trel c t w) s = .next u ∧ s.movedOn u c t 8 ∧ s.coresFrame u c t mis (s.regsBack c) ∧
        s.sameButCores u ∧
        (∀ k, (u.core c).regs.mark k = if k < 32 ∧ w.imm.getLsbD k = true then {} else (s.core c).regs.mark k) ∧
        (∀ n b, b < 512 → (u.core c).regs.byte n b =
          if n < 256 ∧ w.imm.getLsbD (n / 8) = true then 0 else (s.core c).regs.byte n b) ∧
        (∀ k, SMap.get 0 (u.core c).regs.wcnt k =
          if k < 32 ∧ w.imm.getLsbD k = true then SMap.get 0 (s.core c).regs.wcnt k + 1
          else SMap.get 0 (s.core c).regs.wcnt k)) ∧
    (∀ op rest, isReservedOp op.toNat = true →
      ∃ u, exec (.reservedOpcode c t op rest) s = .next u ∧ s.misfitNop u c t 8))

/-- R81, R483: `ld` and `st` reach the 8 bytes at a + imm with bits [2:0] ignored, in the core's own scratchpad; at 2
MiB or more a load gives zero, a store is dropped, and the access is counted. The model's own readings and choices
behind it: log entries 18, 90. -/
def Obligations.ScratchpadWords : Prop :=
  ∀ (c : CoreId) (t : StrandId) (w : SWord) (s : State), s.issues c t = true → s.storePending c t = false →
    let off := 8 * ((s.sreg c t w.sa + immWord w.imm).toNat / 8)
    let mis := w.rsv != 0
    (∃ u, exec (.ld c t w) s = .next u ∧
      s.wrote u c t w.sd (if off < 2 ^ 21 then s.mem.word (spadKey c off) else 0) ∧
      s.retired u c t ((s.strand c t).ip + 8) ∧ s.coresFrame u c t mis id ∧ s.sameButPast u (decide (2 ^ 21 ≤ off))) ∧
    (∃ u, exec (.st c t w) s = .next u ∧ s.movedOn u c t 8 ∧ s.coresFrame u c t mis id ∧
      (off < 2 ^ 21 → u.mem.word (spadKey c off) = s.sreg c t w.sb) ∧
      s.memFrame u (fun k => off < 2 ^ 21 ∧ spadKey c off ≤ k ∧ k < spadKey c off + 8) ∧
      u.net = (State.checkWaits { s with mem := u.mem }).net ∧
      { u with cores := s.cores, mem := s.mem, net := s.net } = s.outOfCapIf (decide (2 ^ 21 ≤ off)))

/-! ## Vector instructions -/

/-- R94 (with R72, R75, R93): lane-wise arithmetic of two registers in FP32 (f = 0x6) or INT32 (f = 0x8), `vabs`, and
the FP32 `vfma`.

R94, R110: a vector instruction whose f is not valid for it executes as `nop` and counts as a misfit. The model's
own readings and choices behind it: log entry 90. -/
def Obligations.VectorArithmetic : Prop :=
  (∀ (c : CoreId) (t : StrandId) (w : VWord) (s : State), s.issues c t = true →
    let r := (s.core c).regs
    let a := r.lane (vreg w.va)
    let b := r.lane (vreg w.vb)
    s.vready c t [vreg w.va, vreg w.vb, vreg w.vd] = true →
    (w.f = 6 ∨ w.f = 8 →
      (∃ u, exec (.vadd c t w) s = .next u ∧
        s.lanesDone u c t (vreg w.vd) (fun i => if w.f = 6 then fadd (a i) (b i) else a i + b i)) ∧
      (∃ u, exec (.vsub c t w) s = .next u ∧
        s.lanesDone u c t (vreg w.vd) (fun i => if w.f = 6 then fsub (a i) (b i) else a i - b i)) ∧
      (∃ u, exec (.vmul c t w) s = .next u ∧
        s.lanesDone u c t (vreg w.vd) (fun i => if w.f = 6 then fmul (a i) (b i) else a i * b i)) ∧
      (∃ u, exec (.vmax c t w) s = .next u ∧ s.lanesDone u c t (vreg w.vd) (fun i =>
        if w.f = 6 then fmax (a i) (b i) else BitVec.ofInt 32 (max (a i).toInt (b i).toInt))) ∧
      (∃ u, exec (.vmin c t w) s = .next u ∧ s.lanesDone u c t (vreg w.vd) (fun i =>
        if w.f = 6 then fmin (a i) (b i) else BitVec.ofInt 32 (min (a i).toInt (b i).toInt))) ∧
      (∃ u, exec (.vabs c t w) s = .next u ∧ s.lanesDone u c t (vreg w.vd) (fun i =>
        if w.f = 6 then fabs (a i) else BitVec.ofInt 32 |(a i).toInt|))) ∧
    (w.f = 6 → s.vready c t [vreg w.vc] = true →
      ∃ u, exec (.vfma c t w) s = .next u ∧
        s.lanesDone u c t (vreg w.vd) (fun i => ffma (a i) (b i) (r.lane (vreg w.vc) i)))) ∧
  (∀ (c : CoreId) (t : StrandId) (w : VWord) (s : State), s.issues c t = true →
    s.vready c t [vreg w.va, vreg w.vb, vreg w.vc, vreg w.vd] = true →
    (w.f ≠ 6 → w.f ≠ 8 → ∀ i, i ∈ [Instr.vadd c t w, .vsub c t w, .vmul c t w, .vmax c t w, .vmin c t w, .vabs c t w,
        .vlane c t w] →
      ∃ u, exec i s = .next u ∧ s.misfitNop u c t 8) ∧
    (w.f ≠ 6 → ∀ i, i ∈ [Instr.vfma c t w, .vexp c t w, .vrcp c t w, .vrsqrt c t w] →
      ∃ u, exec i s = .next u ∧ s.misfitNop u c t 8) ∧
    (4 < w.f.toNat → ∃ u, exec (.rred c t w) s = .next u ∧ s.misfitNop u c t 8) ∧
    (w.vd = 255 → s.regPending c t 256 = false → ∃ u, exec (.rred2 c t w) s = .next u ∧ s.misfitNop u c t 8) ∧
    (vcvtOf w = none → ∃ u, exec (.vcvt c t w) s = .next u ∧ s.misfitNop u c t 8))

/-- R94, R95, R127: `vmov`, `vbcast`, `vlane` and the functions `vexp`, `vrcp` and `vrsqrt`, whose last bits R95 leaves
open within its bound (the model's free values, log entry 5). The model's own readings and choices behind it: log
entries 5, 90. -/
def Obligations.VectorMovesAndFunctions : Prop :=
  ∀ (c : CoreId) (t : StrandId) (w : VWord) (s : State), s.issues c t = true →
    let r := (s.core c).regs
    let a := r.lane (vreg w.va)
    s.vready c t [vreg w.va, vreg w.vd] = true →
    (∃ u, exec (.vmov c t w) s = .next u ∧
      (∀ b, b < 512 → (u.core c).regs.byte (vreg w.vd) b = r.byte (vreg w.va) b) ∧
      s.vectorDone u c t false [vreg w.vd / 8] (fun n _ => n = vreg w.vd)) ∧
    (∃ u, exec (.vbcast c t w) s = .next u ∧
      s.lanesDone u c t (vreg w.vd) (fun _ => (s.sreg c t (w.vc.setWidth 5)).setWidth 32)) ∧
    (w.f = 6 ∨ w.f = 8 → ∃ u, exec (.vlane c t w) s = .next u ∧
      s.scalarDone u c t (w.vc.setWidth 5) ((a (w.ext.toNat / 2 ^ 6 % 2 ^ 7)).setWidth 64) ((s.strand c t).ip + 8)
        false) ∧
    (w.f = 6 →
      (∃ u, exec (.vexp c t w) s = .next u ∧
        s.lanesDone u c t (vreg w.vd) (fun i => fexp (Config.vexpUnits (a i)) (a i))) ∧
      (∃ u, exec (.vrcp c t w) s = .next u ∧
        s.lanesDone u c t (vreg w.vd) (fun i => frcp (Config.vrcpUnits (a i)) (a i))) ∧
      (∃ u, exec (.vrsqrt c t w) s = .next u ∧
        s.lanesDone u c t (vreg w.vd) (fun i => frsqrt (Config.vrsqrtUnits (a i)) (a i))))

/-- R96, R97, R98, R119, R139: `vcvt` writes what the conversion of its pair gives and counts it in its group; of the
registers only vd changes, and of it only the part that a 1-byte or BF16 result fills or the blocks that a
block-scaled result fills, with their scale bytes in vb; `rred` and `rred2` write only the lane ln of vd, and of vd
+ 1. The model's own readings and choices behind it: log entries 90, 117. -/
def Obligations.VectorConvertAndReduce : Prop :=
  ∀ (c : CoreId) (t : StrandId) (w : VWord) (s : State), s.issues c t = true →
    let r := (s.core c).regs
    let vd := vreg w.vd
    let ln := w.ext.toNat / 2 ^ 6 % 2 ^ 7
    let n := w.ext.toNat / 2 ^ 13 % 2 ^ 7 + 1
    let mis := decide (w.ext.toNat % 2 ^ 6 ≠ 0)
    (∀ src k, vcvtOf w = some (src, k) → s.vready c t (vcvtRegs w) = true →
      let o := vcvtEffect r k src vd (vreg w.va) (vreg w.vb) (vcvtPart w) (vcvtE w) (vcvtNfp w)
      ∃ u, exec (.vcvt c t w) s = .next u ∧ (u.core c).regs = o.1 ∧ s.movedOn u c t 8 ∧
        r.wrote (u.core c).regs (match k with
          | .toBlock _ => [vd / 8, vreg w.vb / 8]
          | _ => [vd / 8]) (k.fills vd (vreg w.vb) (vcvtPart w)) ∧
        s.coresFrame u c t (decide (w.ext.toNat % 8 ≠ 0)) (s.regsBack c) ∧
        { u with cores := s.cores } = s.noteConv (vcvtGroup w) o.2.1 o.2.2) ∧
    (∀ v, rredVal w.f.toNat n (r.lanes (vreg w.va)) (r.lanes (vreg w.vb)) = some v →
      s.vready c t [vreg w.va, vreg w.vb, vd] = true →
      ∃ u, exec (.rred c t w) s = .next u ∧ (u.core c).regs.lane vd ln = v ∧
        s.vectorDone u c t mis [vd / 8] (fun m b => m = vd ∧ b / 4 = ln)) ∧
    (vd ≠ 255 → s.vready c t [vreg w.va, vreg w.vb, vreg w.vc, vd, vd + 1] = true →
      let p := List.zipWith fmul (r.lanes (vreg w.va)) (r.lanes (vreg w.vb))
      ∃ u, exec (.rred2 c t w) s = .next u ∧
        (u.core c).regs.lane vd ln = laneTree fadd (padTerms n 0 p) ∧
        (u.core c).regs.lane (vd + 1) ln = laneTree fadd (padTerms n 0 (List.zipWith fmul p (r.lanes (vreg w.vc)))) ∧
        s.vectorDone u c t (mis || decide (w.f ≠ 0)) [vd / 8, (vd + 1) / 8]
          (fun m b => (m = vd ∨ m = vd + 1) ∧ b / 4 = ln))

/-- R99, R483: `vld` and `vst` move 512 bytes between a register and the scratchpad at a + imm with bits [5:0] ignored;
bytes at 2 MiB or more read as zero and are not written, and the access is counted. The model's own readings and
choices behind it: log entry 18. -/
def Obligations.VectorMemory : Prop :=
  ∀ (c : CoreId) (t : StrandId) (w : VMWord) (s : State), s.issues c t = true → s.storePending c t = false →
    s.vready c t [vreg w.vv] = true →
    let off := 64 * ((s.sreg c t w.sa + immWord w.imm).toNat / 64)
    let mis := w.rsv != 0
    let past := decide (2 ^ 21 < off + 512)
    (∃ u, exec (.vld c t w) s = .next u ∧
      (∀ b, b < 512 → (u.core c).regs.byte (vreg w.vv) b =
        if off + b < 2 ^ 21 then s.mem.byte (spadKey c (off + b)) else 0) ∧
      (s.core c).regs.wrote (u.core c).regs [vreg w.vv / 8] (fun n _ => n = vreg w.vv) ∧ s.movedOn u c t 8 ∧
      s.coresFrame u c t mis (s.regsBack c) ∧ s.sameButPast u past) ∧
    (∃ u, exec (.vst c t w) s = .next u ∧ s.movedOn u c t 8 ∧ s.coresFrame u c t mis id ∧
      (∀ b, b < 512 → off + b < 2 ^ 21 →
        u.mem.byte (spadKey c (off + b)) = (s.core c).regs.byte (vreg w.vv) b) ∧
      s.memFrame u (fun k => ∃ b, b < 512 ∧ off + b < 2 ^ 21 ∧ k = spadKey c (off + b)) ∧
      u.net = (State.checkWaits { s with mem := u.mem }).net ∧
      { u with cores := s.cores, mem := s.mem, net := s.net } = s.outOfCapIf past)

/-! ## Tiles and arrays -/

/-- R85, R86, R87, R72, R74: `tload` and `tstore` are handed to the tile path with the rows as they find them, and their
completions write the whole tile with its mark, and the scratchpad rows. The model's own readings and choices behind
it: log entries 17, 19. -/
def Obligations.Tiles : Prop :=
  (∀ (c : CoreId) (t : StrandId) (w : TWord) (sh : Shape) (s : State) (f : EFmt), s.issues c t = true →
    s.tileBusy c t w.tt.toNat = false → s.storePending c t = false →
    (s.strand c t).ip.toNat + 8 < 2 ^ 21 → tileFmt sh.fmt = some f →
    (∃ u, exec (.tload c t w sh) s = .next u ∧ s.movedOn u c t 16 ∧ s.sameButPast u (s.tPast c t w f sh) ∧
      s.coresFrame u c t (w.rsv != 0 || sh.rsv != 0 || capMisfit f sh) (s.engBack c) ∧
      (u.core c).eng = { (s.core c).eng with tops := (s.core c).eng.tops ++
        [.load t w.tt.toNat (loadMark sh f) (s.tloadData c t w f sh)] }) ∧
    (∃ u, exec (.tstore c t w sh) s = .next u ∧ s.movedOn u c t 16 ∧ s.sameButPast u (s.tPast c t w f sh) ∧
      s.coresFrame u c t (w.rsv != 0 || sh.rsv != 0 || capMisfit f sh ||
        (s.core c).regs.readMisfit w.tt.toNat (shBytes sh f) 0 (tRows f sh) sh.fmt) (s.engBack c) ∧
      (u.core c).eng = { (s.core c).eng with tops := (s.core c).eng.tops ++
        [.store t (s.tstoreData c t w f sh)] })) ∧
  (∀ (c : CoreId) (tile : BitVec 5) (s : State) st mark data,
    (s.core c).eng.tops.find? (isLoadOf tile.toNat) = some (.load st tile.toNat mark data) →
    (data.map Prod.fst).Nodup → (∀ p ∈ data, p.1 < 4096) →
    ∃ u, exec (.tloadComplete c tile) s = .next u ∧ s.sameButCores u ∧ (∀ d, d ≠ c.val → u.core d = s.core d) ∧
      u.core c = { s.core c with
        regs := (u.core c).regs,
        eng := { (s.core c).eng with tops := (s.core c).eng.tops.eraseP (isLoadOf tile.toNat) } } ∧
      (∀ k, (u.core c).regs.mark k = if k = tile.toNat then mark else (s.core c).regs.mark k) ∧
      (∀ k, SMap.get 0 (u.core c).regs.wcnt k =
        if k = tile.toNat then SMap.get 0 (s.core c).regs.wcnt k + 1 else SMap.get 0 (s.core c).regs.wcnt k) ∧
      (∀ p ∈ data, SMap.get 0 (u.core c).regs.bytes (4096 * tile.toNat + p.1) = p.2) ∧
      (∀ i, i < 4096 → (∀ p ∈ data, p.1 ≠ i) → SMap.get 0 (u.core c).regs.bytes (4096 * tile.toNat + i) = 0) ∧
      (∀ j, j / 4096 ≠ tile.toNat → SMap.get 0 (u.core c).regs.bytes j = SMap.get 0 (s.core c).regs.bytes j)) ∧
  (∀ (c : CoreId) (t : StrandId) (s : State) st data,
    (s.core c).eng.tops.find? (isStoreOf t) = some (.store st data) → (data.map Prod.fst).Nodup →
    ∃ u, exec (.tstoreComplete c t) s = .next u ∧ (∀ p ∈ data, u.mem.byte p.1 = p.2) ∧
      s.memFrame u (fun k => k ∈ data.map Prod.fst) ∧ u.net = (State.checkWaits { s with mem := u.mem }).net ∧
      { u with cores := s.cores, mem := s.mem, net := s.net } = s ∧ (∀ d, d ≠ c.val → u.core d = s.core d) ∧
      u.core c = { s.core c with
        eng := { (s.core c).eng with tops := (s.core c).eng.tops.eraseP (isStoreOf t) } })

/-- R27, R29, R35, R40, R88, R90: `awld`, `aflip`, `amm` and `abrd` enter the array queue, which takes its turn; a full
queue holds them. In an empty queue under no retry `awld` loads the shadow latches of the halves that its target
names at once, `abrd` goes to the readout path while that has room, and `aflip` and `amm` wait for their start. The
model's own readings and choices behind it: log entries 17, 81. -/
def Obligations.ArrayIssue : Prop :=
  ∀ (c : CoreId) (t : StrandId) (s : State), s.issues c t = true →
    let a := (s.core c).arr
    let r := (s.core c).regs
    let calm := a.queue = [] ∧ a.retries = []
    (8 ≤ a.queue.length → ∀ i, (∃ w sh, i = .awld c t w sh) ∨ (∃ w, i = .aflip c t w) ∨ (∃ w sh, i = .amm c t w sh) ∨
      (∃ w, i = .abrd c t w) → exec i s = .next s) ∧
    (∀ (w : AwldWord) (sh : Shape) f hs, a.queue.length < 8 → s.arrayReady c t w.tw.toNat w.vs.toNat sh = true →
      (s.strand c t).ip.toNat + 8 < 2 ^ 21 → arrayFmt sh.fmt = some f → targetHalves false w.target f = some hs →
      let ls := r.awldLatches f w { sh with rows := BitVec.ofNat 6 (min (shRows sh) (awldMaxN f hs) - 1) } hs
      ∃ u mis, exec (.awld c t w sh) s = .next u ∧ s.movedOn u c t 16 ∧ s.coresFrame u c t mis (s.arrBack c) ∧
        s.sameButCores u ∧ (u.core c).arr = a.enqueue (.wld a.seq ls) ∧
        (calm → (u.core c).arr = { a with seq := a.seq + 1, shadow := setLatches a.shadow ls })) ∧
    (∀ (w : AflipWord), a.queue.length < 8 →
      ∃ u, exec (.aflip c t w) s = .next u ∧ s.movedOn u c t 8 ∧ s.coresFrame u c t (w.rsv != 0) (s.arrBack c) ∧
        s.sameButCores u ∧
        (w.halves = 0 → (u.core c).arr = { a with seq := a.seq + 1 }) ∧
        (w.halves ≠ 0 → (u.core c).arr = a.enqueue (.flip a.seq (flipHalves w))) ∧
        (w.halves ≠ 0 → calm → (u.core c).arr = { a with seq := a.seq + 1, queue := [.flip a.seq (flipHalves w)] })) ∧
    (∀ (w : AmmWord) (sh : Shape) f hs, a.queue.length < 8 → s.arrayReady c t w.ta.toNat w.vs.toNat sh = true →
      (s.strand c t).ip.toNat + 8 < 2 ^ 21 → arrayFmt sh.fmt = some f → targetHalves true w.target f = some hs →
      ∃ u mis op, exec (.amm c t w sh) s = .next u ∧ s.movedOn u c t 16 ∧ s.coresFrame u c t mis (s.arrBack c) ∧
        s.sameButCores u ∧ (u.core c).arr = a.enqueue (.amm op) ∧
        (calm → (u.core c).arr = { a with seq := a.seq + 1, queue := [.amm op] }) ∧
        op.seq = a.seq ∧ op.strand = t.val ∧ op.target = w.target ∧ op.zero = w.zero ∧ op.fmt = sh.fmt ∧
        op.boff = w.boff.toNat ∧ op.k = min (kOf f sh) f.depth ∧
        op.rows = (List.range (shRows sh)).map
          (fun i => r.tileRow w.ta.toNat (shBytes sh f) f.size (w.rbase.toNat + i))) ∧
    (∀ (w : AbrdWord) f, a.queue.length < 8 → (∀ v ∈ abrdRegs w, s.regPending c t v = false) →
      abrdFmt w.ofmt = some f → ¬(w.ofmt = 6 ∧ w.vd = 255) →
      let op : RdOp := { seq := a.seq, strand := t, vd := w.vd.toNat, row := w.row.toNat, ofmt := w.ofmt, clr := w.clr,
                         nfp := w.nfp, e := w.e, group := w.group }
      ∃ u, exec (.abrd c t w) s = .next u ∧ s.movedOn u c t 8 ∧ s.coresFrame u c t (w.rsv != 0) (s.arrBack c) ∧
        s.sameButCores u ∧ (u.core c).arr = a.enqueue (.rd op) ∧
        (calm → a.readout.length < 8 → (u.core c).arr = { a with seq := a.seq + 1, readout := a.readout ++ [op] }) ∧
        (calm → 8 ≤ a.readout.length → (u.core c).arr = { a with seq := a.seq + 1, queue := [.rd op] }))

/-- R29, R33, R35, R38, R39, R43, R76, R91, R446: on a core that is not parked, the swap of the latches that a flip at
the head of the queue names, the start of an `amm` that neither an earlier entry of its arrays nor a retry keeps
back, and one row of it reaching the bank: each entry of its columns is written or added to, and no other entry
changes. A retry holds the flips and starts that it must. The model's own readings and choices behind it: log
entries 9, 17, 20, 79, 81. -/
def Obligations.ArrayStream : Prop :=
  (∀ (c : CoreId) (arr : Fin 4) (s : State) n hs q, (s.core c).arr.queue = .flip n hs :: q →
    (s.core c).run.state ≠ .parked → (s.core c).arr.calm →
    let a := (s.core c).arr
    let mine := hs.filter (fun h => h / 2 = arr.val)
    mine.Nodup → mine ≠ [] →
    (a.held mine = true → exec (.aflipTakesEffect c arr) s = .next s) ∧
    (a.halfBusy mine = false → a.held mine = false →
      ∃ u, exec (.aflipTakesEffect c arr) s = .next u ∧ s.sameButCores u ∧ (∀ d, d ≠ c.val → u.core d = s.core d) ∧
        (∀ h, h ∈ mine → SMap.get {} (u.core c).arr.active h = SMap.get {} a.shadow h ∧
          SMap.get {} (u.core c).arr.shadow h = SMap.get {} a.active h) ∧
        (∀ h, h ∉ mine → SMap.get {} (u.core c).arr.active h = SMap.get {} a.active h ∧
          SMap.get {} (u.core c).arr.shadow h = SMap.get {} a.shadow h) ∧
        (u.core c).arr.queue =
          (if mine.length = hs.length then q else .flip n (hs.filter (fun h => h / 2 ≠ arr.val)) :: q) ∧
        { u.core c with arr := { (u.core c).arr with active := a.active, shadow := a.shadow, queue := a.queue } } =
          s.core c)) ∧
  (∀ (c : CoreId) (pos : Nat) (s : State) o, (s.core c).arr.queue[pos]? = some (.amm o) →
    (s.core c).run.state ≠ .parked → (s.core c).arr.calm →
    let a := (s.core c).arr
    let j := a.judge o
    (a.canStart pos o = false → exec (.ammStart c pos) s = .next s) ∧
    (a.canStart pos o = true →
      ∃ u, exec (.ammStart c pos) s = .next u ∧ s.sameButCores u ∧ (∀ d, d ≠ c.val → u.core d = s.core d) ∧
        (u.core c).arr.queue = a.queue.eraseIdx pos ∧
        (u.core c).arr.stream = a.stream ++ [{ o with void := j.1, mis := o.mis || j.2 }] ∧
        (∀ x, SMap.find? (u.core c).arr.reuse x = if x ∈ arraysOf o.halves then none else SMap.find? a.reuse x) ∧
        (∀ x, SMap.find? (u.core c).arr.fillers x = if x ∈ arraysOf o.halves then none else SMap.find? a.fillers x) ∧
        { (u.core c).arr with queue := a.queue, stream := a.stream, reuse := a.reuse, fillers := a.fillers } = a ∧
        { u.core c with arr := a } = (s.core c).counted (j.2 && !o.mis))) ∧
  (∀ (c : CoreId) (pos : Nat) (s : State) o f, (s.core c).arr.stream[pos]? = some o → arrayFmt o.fmt = some f →
    (s.core c).run.state ≠ .parked →
    (s.core c).arr.abrdBefore o.seq (o.boff + o.next) = false → o.void = false → o.boff + o.next < 256 →
    o.halves.Nodup →
    let a := (s.core c).arr
    let hs := o.halves.filter (fun h => !(a.suppressed o).contains h)
    ∃ u, exec (.ammRowWritten c pos) s = .next u ∧ s.sameButCores u ∧ (∀ d, d ≠ c.val → u.core d = s.core d) ∧
      a.rowDone (u.core c).arr o f hs o.next ∧
      (u.core c).arr.stream = (if o.next + 1 < o.rows.length then a.stream.set pos { o with next := o.next + 1 }
        else a.stream.eraseIdx pos) ∧
      { u.core c with arr := { (u.core c).arr with
        bank := a.bank, stream := a.stream, reuse := a.reuse, fillers := a.fillers } } = s.core c)

/-- R40, R92, R446: the oldest `abrd` of a core that is not gated, once every earlier `amm` has written its row, reads
the row, converts it by its scale, and clears it where clr is 1; the conversions are counted in its group.

R42, R43, R44, R45, R46: a parity error starts a retry for every streaming `amm` that uses the latches; a retry of
one suppressed row, whose tiles are unchanged, gives each bank entry of that row what the row alone gives it, and is
counted; one whose source tile has changed is counted too, sets lost, and leaves free values in its columns and
nothing else; filler operations begin their ramp, fall by an eighth a step, and end. The model's own readings and
choices behind it: log entries 9, 75, 80, 114. -/
def Obligations.BankAndLatches : Prop :=
  (∀ (c : CoreId) (s : State) r rest f, (s.core c).arr.readout = r :: rest → (s.core c).arr.abrdReady r = true →
    abrdFmt r.ofmt = some f → s.gated c = false → (s.core c).arr.calm →
    let a := (s.core c).arr
    let vs := (List.range 256).map (fun j => (f32 (SMap.get 0 a.bank (256 * r.row + j))).scale r.e.toInt)
    let cs := vs.map (convFloat f r.nfp false false)
    ∃ u, exec (.abrdStart c) s = .next u ∧ (∀ d, d ≠ c.val → u.core d = s.core d) ∧
      (u.core c).regs = (s.core c).regs.abrdWrite f r.vd (cs.map (fun k => k.code)) ∧
      (∀ k, SMap.get 0 (u.core c).arr.bank k =
        if r.clr = true ∧ k / 256 = r.row then 0 else SMap.get 0 a.bank k) ∧
      { u.core c with regs := (s.core c).regs, arr := { (u.core c).arr with bank := a.bank } } =
        { s.core c with arr := { a with readout := rest } } ∧
      { u with cores := s.cores } =
        s.noteConv r.group (rslotOf (.flt f)) (List.zipWith (fun v k => convEvent v k.cls) vs cs)) ∧
  ((∀ (c : CoreId) (arr : Fin 4) (half : Fin 2) (s : State),
    ∃ u, exec (.latchParityError c arr half) s = .next u ∧ s.sameButCores u ∧
      (∀ d, d ≠ c.val → u.core d = s.core d) ∧
      u.core c = { s.core c with arr := { (s.core c).arr with
        retries := (s.core c).arr.retries ++ (s.core c).arr.parityRetries arr half } }) ∧
  (∀ (c : CoreId) (pos : Nat) (s : State) r f, (s.core c).arr.retries[pos]? = some r → arrayFmt r.op.fmt = some f →
    (s.core c).run.state ≠ .parked → (s.core c).arr.calm →
    let a := (s.core c).arr
    (a.retryReady r = false → exec (.latchRetryDone c pos) s = .next s) ∧
    (a.retryReady r = true → (s.core c).retrySafe r = true →
      r.op.void = false → r.halves.Nodup → r.fromRow + 1 = r.op.rows.length → r.op.boff + r.fromRow < 256 →
      ∃ u, exec (.latchRetryDone c pos) s = .next u ∧ s.sameButCores u ∧ (∀ d, d ≠ c.val → u.core d = s.core d) ∧
        a.rowDone (u.core c).arr r.op f r.halves r.fromRow ∧
        (u.core c).arr = { a with
          bank := (u.core c).arr.bank, retries := a.retries.eraseIdx pos, lfTotal := satAdd a.lfTotal 1
          lfInCourse := satAdd a.lfInCourse 1
          lfMarked := a.lfMarked || decide (s.start.img.latchThreshold ≤ (satAdd a.lfInCourse 1).toNat) } ∧
        { u.core c with arr := a } = s.core c) ∧
    (a.retryReady r = true → (s.core c).retrySafe r = false →
      ∃ u, exec (.latchRetryDone c pos) s = .next u ∧ { u with cores := s.cores, free := s.free } = s ∧
        (∀ d, d ≠ c.val → u.core d = s.core d) ∧
        (∀ k, (∀ i h j, i < r.op.rows.length → h ∈ r.halves → j < halfCols f → r.op.boff + i < 256 →
            k ≠ 256 * (r.op.boff + i) + bankCol f h j) →
          SMap.get 0 (u.core c).arr.bank k = SMap.get 0 a.bank k) ∧
        (u.core c).arr = { a with
          bank := (u.core c).arr.bank, retries := a.retries.eraseIdx pos, lfLost := true
          lfLostCount := satAdd a.lfLostCount 1, lfTotal := satAdd a.lfTotal 1, lfInCourse := satAdd a.lfInCourse 1
          lfMarked := a.lfMarked || decide (s.start.img.latchThreshold ≤ (satAdd a.lfInCourse 1).toNat) } ∧
        { u.core c with arr := a } = { s.core c with run := { (s.core c).run with faulted := true } })) ∧
  (∀ (c : CoreId) (arr : Fin 4) (s : State) f, SMap.find? (s.core c).arr.fillers arr.val = some f →
    (∃ u, exec (.fillerWindowExpiry c arr) s = .next u ∧ s.sameButCores u ∧ (∀ d, d ≠ c.val → u.core d = s.core d) ∧
      u.core c = { s.core c with arr := { (s.core c).arr with
        fillers := SMap.set (s.core c).arr.fillers arr.val { f with ramp := true } } }) ∧
    (f.ramp = true → ∃ u, exec (.fillerRampStep c arr) s = .next u ∧ s.sameButCores u ∧
      (∀ d, d ≠ c.val → u.core d = s.core d) ∧
      SMap.find? (u.core c).arr.fillers arr.val =
        (if f.density ≤ 1 then none else some { f with density := f.density - 1 }) ∧
      (∀ x, x ≠ arr.val → SMap.find? (u.core c).arr.fillers x = SMap.find? (s.core c).arr.fillers x) ∧
      { u.core c with arr := { (u.core c).arr with fillers := (s.core c).arr.fillers } } = s.core c)))

/-! ## Copies -/

/-- R188, R190, R196, R8: `cpy` reads its 64 B descriptor and takes the lowest free slot; one that moves nothing (zero
rows or columns, or a case of R196) ends at once, and its tally advances where tally_en is 1.

R148, R191, R197: a PLAIN copy of one row whose bytes all lie in memory, away from any keystone object and from one
another, has at its completion written the source bytes at the destination and freed its slot; of a source that has
been written since the copy's issue each 256 B atom arrives as it was at issue or as it is, and never mixed.

R147, R190–R195, R197: a copy of any kind whose source stands as it was at issue, and whose destination shares
nothing with it, writes exactly this: a PLAIN copy row by row, a GATHER copy the rows that its indices name, a
CONVERT copy the codes of each row at the destination and the scales of their blocks in the aux array, with the
source cleared where clr is 1, a TRANSPOSE copy the codes of each column, and a GRAIN copy 34 B for each block and
the error memory; its conversions are counted in its group where grp_en is 1. The model's own readings and choices
behind it: log entries 17, 21, 76, 115, 116. -/
def Obligations.Copies : Prop :=
  (∀ (c : CoreId) (t : StrandId) (w : MWord) (s : State) slot, s.issues c t = true → s.storePending c t = false →
    lowestFree (s.core c).eng.copies 16 = some slot →
    let d := parseDesc (s.spadRead c (s.sreg c t w.sa &&& 0xFFFFFFFFFFFFFFC0) 64)
    let mis := mUnused w { sa := true }
    d.gen = 1 → d.rsv = false →
    (d.rows ≠ 0 → d.cols ≠ 0 → s.copyOk d = true →
      ∃ u, exec (.cpy c t w) s = .next u ∧ s.movedOn u c t 8 ∧
        s.coresFrame u c t (mis || (d.kind == 3 && d.rows * d.cols % 256 != 0) || s.copyPast c d) (s.engBack c) ∧
        s.sameButCores u ∧
        (u.core c).eng = { (s.core c).eng with
          copies := SMap.set (s.core c).eng.copies slot { strand := t, desc := d, old := s.sourceNow c d } }) ∧
    (d.tallyEn = false → d.rows = 0 ∨ d.cols = 0 →
      ∃ u, exec (.cpy c t w) s = .next u ∧ s.movedOn u c t 8 ∧ s.coresFrame u c t mis id ∧ s.sameButCores u) ∧
    (d.tallyEn = false → d.rows ≠ 0 → d.cols ≠ 0 → s.copyOk d = false →
      ∃ u, exec (.cpy c t w) s = .next u ∧ s.misfitNop u c t 8) ∧
    (d.tallyEn = true → d.rows = 0 → s.isSelf (addrModule d.tally) = true → ∀ k,
      s.place (align8 d.tally) true = .mem k → s.broken k = false →
      ∃ u, exec (.cpy c t w) s = .next u ∧ u.mem.word k = s.mem.word k + 1 ∧
        s.memFrame u (fun j => k ≤ j ∧ j < k + 8))) ∧
  (∀ (c : CoreId) (slot : Fin 16) (s : State) k (src dst : Nat → Nat) (old : Nat → Byte),
    SMap.find? (s.core c).eng.copies slot.val = some k →
    let d := k.desc
    d.kind = 0 → d.rows = 1 → d.tallyEn = false → d.grpEn = false → s.copyPast c d = false →
    k.old = (s.sourceKeys c d).dedup.map (fun x => (x, old x)) →
    (∀ i, i < d.cols → s.place (d.src + BitVec.ofNat 64 i) false = .mem (src i) ∧
      s.place (d.dst + BitVec.ofNat 64 i) true = .mem (dst i) ∧ s.boundAt (dst i) = false) →
    (∀ i j, i < d.cols → j < d.cols → i ≠ j → dst i ≠ dst j) →
    (∀ i j, i < d.cols → j < d.cols → src i ≠ dst j) →
    ∃ u, exec (.copyComplete c slot) s = .next u ∧
      (∃ early : Nat → Bool, ∀ i, i < d.cols →
        u.mem.byte (dst i) = if early (src i / 256) then old (src i) else s.mem.byte (src i)) ∧
      s.memFrame u (fun j => ∃ i, i < d.cols ∧ j = dst i) ∧
      SMap.find? (u.core c).eng.copies slot.val = none ∧ (∀ e, e ≠ c.val → u.core e = s.core e) ∧
      ((∀ i, i < d.cols → old (src i) = s.mem.byte (src i)) → u.free = s.free) ∧
      { u with cores := s.cores, mem := s.mem, net := s.net, ft := s.ft, free := s.free } = s) ∧
  (∀ (c : CoreId) (slot : Fin 16) (s : State) k, SMap.find? (s.core c).eng.copies slot.val = some k →
    let d := k.desc
    d.tallyEn = false → s.copyPast c d = false → (∀ p ∈ k.old, s.mem.byte p.1 = p.2) →
    (∀ r ∈ s.copyReads c d ++ d.auxRuns, ∀ i, i < r.2 → ∃ x, s.place (r.1 + BitVec.ofNat 64 i) false = .mem x) →
    (∀ r ∈ d.dstRuns, ∀ x ∈ s.landKeys r, ∀ q ∈ s.copyReads c d ++ d.auxRuns, x ∉ s.keysOf q) →
    let moves (ws : List (Word × List Byte)) (counts : State → State) : Prop :=
      (∀ w ∈ ws, ∀ i, i < w.2.length →
        ∃ x, s.place (w.1 + BitVec.ofNat 64 i) true = .mem x ∧ s.boundAt x = false) →
      ∃ u, exec (.copyComplete c slot) s = .next u ∧
        u.mem = s.mem.writeList (ws.flatMap (fun w => s.landing w.1 w.2)) ∧
        SMap.find? (u.core c).eng.copies slot.val = none ∧ (∀ e, e ≠ c.val → u.core e = s.core e) ∧
        u.ft.range = (if d.grpEn = true then (counts s).ft.range else s.ft.range) ∧
        { u with cores := s.cores, mem := s.mem, net := s.net, ft := s.ft } = s
    let dstRow (i : Nat) : Word := d.dst + BitVec.ofNat 64 (i * d.dstPitch)
    let srcRow (i : Nat) : Word := d.src + BitVec.ofNat 64 (i * d.srcPitch)
    let coded (f : EFmt) (rows : List (List FVal)) : List (Word × List Byte) :=
      (List.range rows.length).flatMap (fun i =>
        let o := convRow d f (rows.getD i [])
        [(dstRow i, o.1), (d.aux + BitVec.ofNat 64 (i * d.scalePitchOf), o.2.1)])
    let counted (f : EFmt) (rows : List (List FVal)) (x : State) : State :=
      rows.foldl (fun y r => y.noteConv d.group (rslotOf f.dest) (convRow d f r).2.2) x
    let vals := (List.range d.rows).map (s.copyVals c d)
    (d.kind = 0 → moves ((List.range d.rows).map (fun i => (dstRow i, s.readAt (srcRow i) d.cols))) id) ∧
    (d.kind = 4 → spadPast (d.indexAt 0) (4 * d.rows) = false →
      moves ((List.range d.rows).map (fun i =>
        (dstRow i, s.readAt (srcRow (leNat (s.spadRead c (d.indexAt i) 4))) d.cols))) id) ∧
    (∀ f, tileFmt d.dstFmt = some f →
      (d.kind = 2 → d.clr = false → moves (coded f vals) (counted f vals)) ∧
      (d.kind = 2 → d.clr = true →
        moves ((List.range d.rows).map (fun i => (srcRow i, List.replicate (8 * d.cols) 0)) ++ coded f vals)
          (counted f vals)) ∧
      (d.kind = 1 →
        let columns := (List.range d.cols).map (fun j => vals.map (fun r => r.getD j (.fin false 0 0)))
        moves (coded f columns) (counted f columns))) ∧
    (d.kind = 3 →
      let blocks := s.grainBlocks c d
      moves ((List.range blocks.length).flatMap (fun b => match blocks[b]? with
          | none => []
          | some g => [(d.dst + BitVec.ofNat 64 (34 * b), grainBytes g),
              (d.aux + BitVec.ofNat 64 (1024 * b), g.err.flatMap (fun x => leBytes 4 x.toNat))]))
        (fun x => blocks.foldl (fun y g => y.noteGrain d.group g) x)))

/-! ## Remote operations -/

/-- R102–R107, R205–R208: an operation of one target takes the lowest free slot of its engine and sends its packets;
only the final run of several is held.

R227–R229: a `put`, `put.s`, `acc` or `acc.s` with mc = 1 reads its target list, takes one slot with a branch for
each target in ascending order, its destination and its signal's address substituted, and sends the branches'
packets in rotation; an empty mask takes no slot and sends nothing. `get`, `tadd` and the waits have no multicast:
with mc = 1 they are not valid. The model's own readings and choices behind it: log entries 22, 23, 103. -/
def Obligations.RemoteIssue : Prop :=
  (∀ (c : CoreId) (t : StrandId) (w : MWord) (s : State) slot, s.issues c t = true → s.storePending c t = false →
    lowestFree (s.core c).eng.remotes 32 = some slot → w.mc = false →
    let dst := s.sreg c t w.sb
    let off := s.sreg c t w.sa
    let len := s.sreg c t w.sc
    let sig := s.sreg c t w.sd
    let data := s.spadRead c off (clipLen off len)
    let hdr := s.coreHdr c slot
    let slotIs (u : State) (x : RemSlot) : Prop :=
      (u.core c).eng = { (s.core c).eng with remotes := SMap.set (s.core c).eng.remotes slot x } ∧
      s.movedOn u c t 8 ∧ ∃ mis, s.coresFrame u c t mis (s.engBack c)
    let sentAll (u : State) (ps : List Packet) : Prop := { u with cores := s.cores } = s.sent ps
    (putSpace dst = true →
      let runs := putRuns { hdr with op := 0 } dst data
      (∀ p ∈ firstRuns runs, s.routable p = true) →
      ∃ u, exec (.putI c t w) s = .next u ∧ sentAll u (firstRuns runs) ∧
        slotIs u { op := 0x61, strand := t, ct := w.ct, branches := [branchOf dst runs] }) ∧
    (putSpace dst = true → tallySpace sig = true →
      let runs := putRuns { hdr with op := 0, sig := true, aux := sig } dst data
      (∀ p ∈ firstRuns runs, s.routable p = true) →
      ∃ u, exec (.putSI c t w) s = .next u ∧ sentAll u (firstRuns runs) ∧
        slotIs u { op := 0x62, strand := t, ct := w.ct, branches := [branchOf dst runs] }) ∧
    (getSpace dst = true →
      let reqs := getReqs hdr dst off.toNat (clipLen off len)
      reqs ≠ [] → (∀ p ∈ reqs, s.routable p = true) →
      ∃ u, exec (.getI c t w) s = .next u ∧ sentAll u reqs ∧
        slotIs u { op := opGet, strand := t, ct := w.ct, ret := off.toNat, len := clipLen off len,
                   branches := [{ dst := dst, acksLeft := reqs.length }] }) ∧
    (accPair w.atype w.sfmt = true → accSpace w.atype dst = true → (w.atype = 4 → dst.toNat % 2048 = 0) →
      let n := clipLen off len / accSrcSize w.sfmt * accSrcSize w.sfmt
      let acc : Packet := { hdr with
        op := 1, atype := w.atype, sfmt := w.sfmt, e := if 3 ≤ w.atype.toNat then w.e else 0 }
      (let runs := accRuns acc dst (s.spadRead c off n)
       (∀ p ∈ firstRuns runs, s.routable p = true) →
       ∃ u, exec (.accI c t w) s = .next u ∧ sentAll u (firstRuns runs) ∧
         slotIs u { op := 0x64, strand := t, ct := w.ct, branches := [branchOf dst runs] }) ∧
      (tallySpace sig = true →
       let runs := accRuns { acc with sig := true, aux := sig } dst (s.spadRead c off n)
       (∀ p ∈ firstRuns runs, s.routable p = true) →
       ∃ u, exec (.accSI c t w) s = .next u ∧ sentAll u (firstRuns runs) ∧
         slotIs u { op := 0x65, strand := t, ct := w.ct, branches := [branchOf dst runs] })) ∧
    (tallySpace dst = true →
      let p : Packet := { hdr with op := 4, dst := dst, aux := len }
      s.routable p = true →
      ∃ u, exec (.tadd c t w) s = .next u ∧ sentAll u [p] ∧
        slotIs u { op := 0x70, strand := t, ct := w.ct, branches := [branchOf dst [[p]]] })) ∧
  (∀ (c : CoreId) (t : StrandId) (w : MWord) (s : State) slot cores dst ids, s.issues c t = true →
    s.storePending c t = false → lowestFree (s.core c).eng.remotes 32 = some slot → w.mc = true →
    s.listNames (s.spadRead c (s.sreg c t w.sb &&& 0xFFFFFFFFFFFFFFC0) 128) cores dst ids →
    let aim (a : Word) (i : Nat) : Word := if cores then withCore a i else withModule a i
    let off := s.sreg c t w.sa
    let len := s.sreg c t w.sc
    let sig := s.sreg c t w.sd
    let data := s.spadRead c off (clipLen off len)
    let n := clipLen off len / accSrcSize w.sfmt * accSrcSize w.sfmt
    let part := s.spadRead c off n
    let hdr := { s.coreHdr c slot with mcb := true }
    let acc : Packet := { hdr with op := 1, atype := w.atype, sfmt := w.sfmt, e := if 3 ≤ w.atype.toNat then w.e else 0 }
    let goes (i : Instr) (op : BitVec 8) (runs : Nat → List (List Packet)) : Prop :=
      (ids = [] → w.ct = 0 → ∃ u mis, exec i s = .next u ∧ s.movedOn u c t 8 ∧ s.coresFrame u c t mis id ∧
        { u with cores := s.cores, ft := s.ft } = s) ∧
      (ids ≠ [] → (∀ x ∈ ids, ∀ p ∈ firstRuns (runs x), s.routable p = true) →
        ∃ u mis, exec i s = .next u ∧ s.movedOn u c t 8 ∧ s.coresFrame u c t mis (s.engBack c) ∧
          { u with cores := s.cores, ft := s.ft } = s.sent (firstOf (ids.map (fun x => (aim dst x, runs x)))) ∧
          (u.core c).eng = { (s.core c).eng with
            remotes := SMap.set (s.core c).eng.remotes slot
              { op := op, strand := t, ct := w.ct, mc := true
                branches := ids.map (fun x => branchOf (aim dst x) (runs x)) } })
    (putSpace dst = true →
      goes (.putI c t w) 0x61 (fun x => putRuns { hdr with op := 0 } (aim dst x) data) ∧
      (tallySpace sig = true →
        goes (.putSI c t w) 0x62
          (fun x => putRuns { hdr with op := 0, sig := true, aux := aim sig x } (aim dst x) data))) ∧
    (accPair w.atype w.sfmt = true → accSpace w.atype dst = true → (w.atype = 4 → dst.toNat % 2048 = 0) →
      goes (.accI c t w) 0x64 (fun x => accRuns acc (aim dst x) part) ∧
      (tallySpace sig = true →
        goes (.accSI c t w) 0x65 (fun x => accRuns { acc with sig := true, aux := aim sig x } (aim dst x) part)))) ∧
  (∀ (c : CoreId) (t : StrandId) (w : MWord) (s : State), s.issues c t = true → s.storePending c t = false →
    w.mc = true →
    (∀ i, i ∈ [Instr.twait c t w, .karr c t w, .kwait c t w] → ∃ u, exec i s = .next u ∧ s.misfitNop u c t 8) ∧
    ((lowestFree (s.core c).eng.remotes 32).isSome = true → ∀ i, i ∈ [Instr.getI c t w, .tadd c t w] →
      ∃ u, exec i s = .next u ∧ s.misfitNop u c t 8))

/-- R185, R207, R212, R216: what arrives at this module. A PUT is written and its confirmation sets out; a GET_REQ is
answered with the bytes read; a TADD adds to the tally at its home and is answered.

R105, R206, R213: answers. One that is not the operation's last lowers the count of its branch; the last frees the
slot; a GET_RESP's data is written; the ACK of a copy's completion tally goes to the strand's remote status. The
model's own readings and choices behind it: log entries 15, 33, 86. -/
def Obligations.RemotePackets : Prop :=
  (∀ (p : Packet) (s : State),
    let f := s.takeFlight p
    (s.takes p 0 = true → p.payload ≠ [] → (∀ o, s.place p.dst true ≠ .ctl o) →
      ∃ u, exec (.putPacket p) s = .next u ∧ u.mem = s.mem.writeList (s.landing p.dst p.payload) ∧
        u.net.confirms = s.net.confirms ++ [{ module := p.srcModule, unit := p.srcUnit, tag := p.tag, dst := p.dst }] ∧
        u.net.landings = s.net.landings ++
          (if p.last = true then [{ agent := s.agentOf p (s.linkOf p), pkt := p }] else []) ∧
        { u with mem := s.mem, net := f.net, plb := s.plb, ft := s.ft } = f) ∧
    (s.takes p 2 = true → (∀ o, s.place p.dst false ≠ .ctl o) →
      let r : Packet := { answer p 3 stOk with
        dst := BitVec.ofNat 64 (p.srcModule.toNat * 2 ^ 52 + 2 * 2 ^ 48 + p.srcUnit.toNat * 2 ^ 21 + p.aux.toNat % 2 ^ 21),
        len := p.len, payload := s.readAt p.dst p.len.toNat }
      s.routable r = true →
      ∃ u, exec (.getReq p) s = .next u ∧
        u.net = { f.net with flight := f.net.flight ++ [{ pkt := r, source := some p.dst }] } ∧
        { u with net := f.net, plb := s.plb, ft := s.ft } = f) ∧
    (s.takes p 4 = true → ∀ k, s.place (align8 p.dst) true = .mem k → s.broken k = false →
      s.routable (ackFor p stOk) = true →
      ∃ u, exec (.taddPacket p) s = .next u ∧ u.mem.word k = s.mem.word k + p.aux ∧
        s.memFrame u (fun j => k ≤ j ∧ j < k + 8) ∧
        (∃ wakes, u.net.flight = f.net.flight ++ wakes ++ setOut [ackFor p stOk]) ∧
        { u with mem := s.mem, net := f.net, ft := s.ft } = f)) ∧
  (∀ (p : Packet) (s : State) (c : CoreId) x b, p.srcUnit.toNat = c.val → p.status = stOk →
    SMap.find? (s.core c).eng.remotes p.tag.toNat = some x → x.branches = [b] → b.held = [] →
    s.msn.xfer = {} → s.getOpen = false → x.ct = 0 → x.absent = false → p.tag.toNat < 32 →
    let f := s.takeFlight p
    let slotAfter : Option RemSlot :=
      if b.acksLeft = 1 then none else some { x with branches := [{ b with acksLeft := b.acksLeft - 1 }] }
    0 < b.acksLeft →
    (s.takes p 3 = true →
      ∃ u, exec (.getResp p) s = .next u ∧
        u.mem = s.mem.writeList (((List.range p.payload.length).zip p.payload).filterMap (fun q =>
          match s.place (p.dst + BitVec.ofNat 64 q.1) true with
          | .mem k => some (k, q.2)
          | _ => none)) ∧
        SMap.find? (u.core c).eng.remotes p.tag.toNat = slotAfter ∧
        (∀ d, d ≠ c.val → u.core d = s.core d) ∧
        { u.core c with eng := (s.core c).eng } = s.core c ∧
        { u with cores := s.cores, mem := s.mem, net := f.net, plb := s.plb } = f) ∧
    (s.takes p 5 = true →
      ∃ u, exec (.ackPacket p) s = .next u ∧ SMap.find? (u.core c).eng.remotes p.tag.toNat = slotAfter ∧
        (∀ d, d ≠ c.val → u.core d = s.core d) ∧ { u.core c with eng := (s.core c).eng } = s.core c ∧
        { u with cores := s.cores } = f)) ∧
  (∀ (p : Packet) (s : State) (c : CoreId), p.srcUnit.toNat = c.val → 32 ≤ p.tag.toNat → s.takes p 5 = true →
    let f := s.takeFlight p
    let t := p.tag.toNat % 4
    ∃ u, exec (.ackPacket p) s = .next u ∧
      u.strand c t = { s.strand c t with
        rstat := (s.strand c t).rstat ||| (if p.status = stAbsent then 1 else if p.status = stBroken then 2 else 0) } ∧
      s.coresFrame u c t false id ∧
      { u with cores := s.cores } = (if p.status = stAbsent then f.countAbsent c else f))

/-- R212, R213, R229, R245: a landing agent keeps the confirmations that it receives, and the last one that a run
without a signal needs sends its ACK; a branch of a multicast of which a packet has not left for 100 µs is counted
once. The model's own readings and choices behind it: log entry 15. -/
def Obligations.ConfirmationsAndHolds : Prop :=
  (∀ (k : Confirm) (s : State) l, s.net.landings = [l] → l.covers k = true → l.sigWait = none → l.pkt.sig = false →
    let got := s.net.got ++ [k]
    let rest := { s.net with confirms := s.net.confirms.erase k, got := got }
    ((got.filter l.covers).length < l.pkt.count.toNat →
      exec (.writeConfirm k) s = .next { s with net := rest }) ∧
    (l.pkt.count.toNat ≤ (got.filter l.covers).length → s.routable (ackFor l.pkt stOk) = true →
      exec (.writeConfirm k) s = .next { s with net := { rest with
        got := got.filter (fun x => !l.covers x), landings := [],
        flight := s.net.flight ++ setOut [ackFor l.pkt stOk] } })) ∧
  (∀ (c : CoreId) (slot : Fin 32) (i : Nat) (s : State) x b, SMap.find? (s.core c).eng.remotes slot.val = some x →
    x.branches[i]? = some b → x.mc = true → b.holdCounted = false → b.acksLeft ≠ 0 → s.branchHeld c slot b = true →
    ∃ u, exec (.mcHoldTimeout c slot i) s = .next u ∧
      SMap.find? (u.core c).eng.remotes slot.val =
        some { x with branches := x.branches.set i { b with holdCounted := true } } ∧
      (u.cluster (coreCluster c)).mcHold = satAdd (s.cluster (coreCluster c)).mcHold 1 ∧
      u.logGet 0x5248 = min (s.logGet 0x5248 + 1) (2 ^ 64 - 1) ∧
      { u with cores := s.cores, clusters := s.clusters, plb := s.plb } = s)

/-! ## Waits and keystones -/

/-- R105, R108, R109, R205, R217, R226, R231: `twait`, `kwait` and `karr`. A `twait` on a tally of the core's own
scratchpad returns at once where the tally has reached its value or is broken, else the strand waits for its engine;
any other wait, and every arrival, blocks the strand and sends its packet; a `kwait` on a round that the engine's
record shows closed returns. The model's own readings and choices behind it: log entries 104, 120. -/
def Obligations.WaitIssue : Prop :=
  ∀ (c : CoreId) (t : StrandId) (w : MWord) (s : State), s.issues c t = true → s.storePending c t = false → w.mc = false →
    let a := s.sreg c t w.sb
    let v := s.sreg c t w.sc
    let mis := mUnused w { sb := true, sc := true, sd := true }
    (tallySpace a = true →
      (∀ key, s.ownTally c a = some key →
        (s.broken key = true → ∃ u, exec (.twait c t w) s = .next u ∧ s.returned u c t 8 w.sd 1 stBroken mis ∧
          s.sameButCores u) ∧
        (s.broken key = false → v ≤ s.mem.word key → ∃ u, exec (.twait c t w) s = .next u ∧
          s.returned u c t 8 w.sd 0 stOk mis ∧ s.sameButCores u) ∧
        (s.broken key = false → s.mem.word key < v → ∃ u, exec (.twait c t w) s = .next u ∧ s.blockedOn u c t (.twait a v w.sd) mis ∧
          s.sameButCores u)) ∧
      (s.ownTally c a = none →
        let g := SMap.get 0 s.net.waitGen (4 * c.val + t.val) + 1
        let p : Packet := { s.coreHdr c (t.val + 4 * g.toNat) with op := 6, dst := a, aux := v }
        s.routable p = true → ∃ u, exec (.twait c t w) s = .next u ∧ s.blockedOn u c t (.twait a v w.sd) mis ∧
          { u with cores := s.cores } = State.sent { s with net := { s.net with
            waitGen := SMap.set s.net.waitGen (4 * c.val + t.val) g } } [p])) ∧
    (keySpace a = true →
      (let p : Packet := { s.coreHdr c t with op := 8, dst := a }
       s.routable p = true → ∃ u, exec (.karr c t w) s = .next u ∧
         s.blockedOn u c t (.karr a w.sd) (mUnused w { sb := true, sd := true }) ∧
         { u with cores := s.cores } = s.sent [p]) ∧
      (s.roundSeen c a v = true → ∃ u, exec (.kwait c t w) s = .next u ∧ s.returned u c t 8 w.sd 0 stOk mis ∧
        s.sameButCores u) ∧
      (s.roundSeen c a v = false →
        let p : Packet := { s.coreHdr c t with op := 9, dst := a, aux := v }
        s.routable p = true → ∃ u, exec (.kwait c t w) s = .next u ∧ s.blockedOn u c t (.kwait a v w.sd) mis ∧
          { u with cores := s.cores } = s.sent [p]))

/-- R108, R217, R218, R224, R225: what lets a strand go: its engine sees its tally, a WAKE, a K_RELEASE, or the reply to
its `karr`. The WAIT_REG of a FULL answer is kept, and sent again.

R217, R218, R231: a WAIT_REG is answered at once where its tally has reached the value or its home is broken,
answered FULL where the home's records are all in use, and kept otherwise. The model's own readings and choices
behind it: log entries 26, 86, 104, 120. -/
def Obligations.Waits : Prop :=
  ((∀ (c : CoreId) (t : StrandId) (s : State) a v sd key, (s.core c).run.state ≠ .parked →
    (s.strand c t).wait = .twait a v sd → s.ownTally c a = some key →
    (s.broken key = true → ∃ u, exec (.strandWake c t) s = .next u ∧ s.returned u c t 0 sd 1 stBroken false ∧
      s.sameButCores u) ∧
    (s.broken key = false → v ≤ s.mem.word key → ∃ u, exec (.strandWake c t) s = .next u ∧
      s.returned u c t 0 sd 0 stOk false ∧ s.sameButCores u) ∧
    (s.broken key = false → s.mem.word key < v → exec (.strandWake c t) s = .next s)) ∧
  (∀ (c : CoreId) (t : StrandId) (p : Packet) (s : State) a v sd, s.takes p 7 = true → p.srcUnit.toNat = c.val →
    p.tag.toNat % 4 = t.val → (s.core c).run.state ≠ .parked → (s.strand c t).wait = .twait a v sd →
    s.sameTally a p.dst = true →
    (p.tag.toNat / 4 ≠ (SMap.get 0 s.net.waitGen (4 * c.val + t.val)).toNat →
      exec (.wake p) s = .next (s.takeFlight p)) ∧
    (p.tag.toNat / 4 = (SMap.get 0 s.net.waitGen (4 * c.val + t.val)).toNat →
    (p.status ≠ stFull → ∃ u, exec (.wake p) s = .next u ∧
      s.returned u c t 0 sd (if p.status = stBroken then 1 else if p.status = stAbsent then 2 else 0) p.status false ∧
      { u with cores := s.cores } = (if p.status = stAbsent then (s.takeFlight p).countAbsent c else s.takeFlight p)) ∧
    (p.status = stFull → ∃ u, exec (.wake p) s = .next u ∧ u = { s.takeFlight p with net := { (s.takeFlight p).net with
      resend := s.net.resend ++
        [{ op := 6, dst := a, aux := v, srcModule := s.self, srcUnit := p.srcUnit, tag := p.tag }] } }))) ∧
  (∀ (pos : Nat) (s : State) p, s.net.resend[pos]? = some p → s.routable p = true →
    exec (.waitRegResend pos) s = .next { s with net := { s.net with
      resend := s.net.resend.eraseIdx pos, flight := s.net.flight ++ setOut [p] } }) ∧
  (∀ (c : CoreId) (p : Packet) (s : State), s.takes p 10 = true → p.srcUnit.toNat = c.val → p.status = stOk →
    (s.core c).run.state ≠ .parked →
    ∃ u, exec (.kRelease p) s = .next u ∧ { u with cores := s.cores } = s.takeFlight p ∧
      (∀ d, d ≠ c.val → u.core d = s.core d) ∧
      { u.core c with strands := (s.core c).strands, eng := (s.core c).eng } = s.core c ∧
      (u.core c).eng = { (s.core c).eng with krel :=
        ({ obj := p.dst, round := p.aux } :: (s.core c).eng.krel.filter (fun r => !s.sameObj r.obj p.dst)).take 16 } ∧
      (∀ (t : StrandId) a x sd, (s.strand c t).wait = .kwait a x sd → s.sameObj a p.dst = true → x ≤ p.aux →
        s.wrote u c t sd 0 ∧ u.strand c t = { s.strand c t with wait := .none, regs := (u.strand c t).regs }) ∧
      (∀ (t : Nat), (∀ a x sd, (s.strand c t).wait = .kwait a x sd → s.sameObj a p.dst = false ∨ p.aux < x) →
        u.strand c t = s.strand c t)) ∧
  (∀ (c : CoreId) (t : StrandId) (r : KReply) (s : State) a sd, r.core = c.val → r.strand = t.val → r.status = stOk →
    (s.strand c t).wait = .karr a sd →
    ((s.core c).run.state = .parked → exec (.karrReply r) s = .next s) ∧
    ((s.core c).run.state ≠ .parked →
      ∃ u, exec (.karrReply r) s = .next u ∧ s.returned u c t 0 sd r.round stOk false ∧
        { u with cores := s.cores } = { s with net := { s.net with replies := s.net.replies.erase r } }))) ∧
  (∀ (p : Packet) (s : State) key, s.takes p 6 = true → s.place (align8 p.dst) true = .mem key →
    let h := s.homeOf key
    (s.broken key = true → s.routable (answer p 7 stBroken) = true →
      exec (.waitReg p) s = .next ((s.takeFlight p).sent [answer p 7 stBroken])) ∧
    (s.broken key = false → p.aux ≤ s.mem.word key → s.routable (answer p 7 stOk) = true →
      exec (.waitReg p) s = .next ((s.takeFlight p).sent [answer p 7 stOk])) ∧
    (s.broken key = false → s.mem.word key < p.aux → s.recordsUsed h < h.records →
      ∃ u, exec (.waitReg p) s = .next u ∧
        u.net = { (s.takeFlight p).net with waits := s.net.waits ++
          [{ key := key, value := p.aux, module := p.srcModule, unit := p.srcUnit, tag := p.tag }] } ∧
        (∀ k, { u.cluster k with peak := (s.cluster k).peak } = s.cluster k) ∧
        { u with net := (s.takeFlight p).net, clusters := s.clusters } = s.takeFlight p) ∧
    (s.broken key = false → s.mem.word key < p.aux → h.records ≤ s.recordsUsed h →
      s.routable (answer p 7 stFull) = true →
      ∃ u, exec (.waitReg p) s = .next u ∧ u.net = ((s.takeFlight p).sent [answer p 7 stFull]).net ∧
        u.logGet 0x5240 = min (s.logGet 0x5240 + 1) (2 ^ 64 - 1) ∧
        (∀ k, { u.cluster k with full := (s.cluster k).full } = s.cluster k) ∧
        { u with net := (s.takeFlight p).net, clusters := s.clusters, plb := s.plb } = s.takeFlight p))

/-- R222, R224, R225, R226: arrivals and waits at a bound keystone slot, with the round's close.

R222, R227, R230: a free slot takes the oldest stalled wait and loads its object; a chain keystone's local round
closes when the chain home's K_CHAIN names it, and one with another status breaks the keystone, in the slot that
serves it or in its object, of which a chain home tells every other module of the mask once; a chain home whose own
keystone is broken, or of whose mask a module is absent, answers a K_CHAIN so. The model's own readings and choices
behind it: log entry 15. -/
def Obligations.Keystones : Prop :=
  ((∀ (p : Packet) (s : State) k i x, s.place p.dst true = .mem k → k / 2 ^ 48 = 1 ∨ k / 2 ^ 48 = 2 →
    let key := k / 256 * 256
    let cl := servingCluster key
    s.broken key = false → s.slotServing cl key = some (i, x) → x.broken = false →
    s.isSelf s.self.toNat = true →
    let f := s.takeFlight p
    (s.takes p 8 = true → s.isSelf p.srcModule.toNat = true → p.srcUnit.toNat < 576 →
      let reply : KReply := { core := p.srcUnit.toNat, strand := p.tag.toNat, round := x.round, status := stOk }
      let answered : State := { f with net := { f.net with replies := s.net.replies ++ [reply] } }
      let y := { x with cur := x.cur ||| coreBit p.srcUnit.toNat }
      (hasCore x.parts p.srcUnit.toNat = true → hasCore x.cur p.srcUnit.toNat = false →
        (y.cur &&& y.parts ≠ y.parts →
          ∃ u, exec (.kArrive p) s = .next u ∧ SMap.find? (u.cluster cl).slots i = some y ∧
            (∀ j, j ≠ i → SMap.find? (u.cluster cl).slots j = SMap.find? (s.cluster cl).slots j) ∧
            { u.cluster cl with slots := (s.cluster cl).slots } = s.cluster cl ∧
            (∀ d, d ≠ cl → u.cluster d = s.cluster d) ∧ { u with clusters := s.clusters } = answered) ∧
        (y.cur &&& y.parts = y.parts → x.parts ≠ 0 → x.scope = 0 → x.chainPending = false → x.nxt = 0 → x.held = [] →
          x.waiters = [] → ∃ u, exec (.kArrive p) s = .next u ∧ answered.roundClosed u cl i y)) ∧
      (hasCore x.parts p.srcUnit.toNat = false →
        ∃ u, exec (.kArrive p) s = .next u ∧ u = answered.violate .keystoneNonmember)) ∧
    (s.takes p 9 = true →
      (x.round ≤ p.aux → ∃ u, exec (.kWait p) s = .next u ∧
        SMap.find? (u.cluster cl).slots i = some { x with waiters := x.waiters ++ [memberOf p] } ∧
        (∀ j, j ≠ i → SMap.find? (u.cluster cl).slots j = SMap.find? (s.cluster cl).slots j) ∧
        { u.cluster cl with slots := (s.cluster cl).slots } = s.cluster cl ∧
        (∀ d, d ≠ cl → u.cluster d = s.cluster d) ∧ { u with clusters := s.clusters } = f) ∧
      (p.aux < x.round →
        let r : Packet := { answer p 10 stOk with mcb := false, dst := s.addrOf key, aux := x.round - 1 }
        x.obj.toNat = key → s.routable r = true → exec (.kWait p) s = .next (f.sent [r])))) ∧
  (∀ (cl : ClusterId) (i : Fin 16) (s : State) x, SMap.find? (s.cluster cl).slots i.val = some x →
    s.isSelf s.self.toNat = true → x.parts ≠ 0 → x.cur &&& x.parts = x.parts → x.broken = false →
    x.chainPending = false → x.scope = 0 → x.nxt = 0 → x.held = [] → x.waiters = [] →
    ∃ u, exec (.ksCascadeClose cl i) s = .next u ∧ s.roundClosed u cl i.val x)) ∧
  ((∀ (cl : ClusterId) (s : State) p rest i,
    let key := p.dst.toNat % 2 ^ 52 / 256 * 256
    (s.cluster cl).stalled = p :: rest → lowestFree (s.cluster cl).slots 16 = some i → p.op = 9 →
    s.broken key = false → s.slotServing cl key = none → s.objectFault key = none → (s.loadSlot key).broken = false →
    (s.loadSlot key).round ≤ p.aux →
    ∃ u, exec (.ksSlotBind cl) s = .next u ∧ (u.cluster cl).stalled = rest ∧
      SMap.find? (u.cluster cl).slots i = some { s.loadSlot key with waiters := [memberOf p] } ∧
      (∀ j, j ≠ i → SMap.find? (u.cluster cl).slots j = SMap.find? (s.cluster cl).slots j) ∧
      { u.cluster cl with slots := (s.cluster cl).slots, stalled := (s.cluster cl).stalled } = s.cluster cl ∧
      (∀ d, d ≠ cl.val → u.cluster d = s.cluster d) ∧ { u with clusters := s.clusters } = s) ∧
  (∀ (p : Packet) (s : State) i x,
    let key := p.dst.toNat % 2 ^ 52 / 256 * 256
    let cl := servingCluster key
    s.takes p 11 = true → s.slotServing cl key = some (i, x) →
    x.held = [] → x.waiters = [] →
    (p.status = stOk → s.isSelf s.self.toNat = true → x.chainPending = true → x.round = p.aux → x.nxt = 0 →
      (∃ home, (s.maskModules x.chainMask).head? = some home ∧ s.isSelf home = false) →
      ∃ u, exec (.kChain p) s = .next u ∧ ((s.takeFlight p).engineRead x.chainMask 512).roundClosed u cl i x) ∧
    (let f := s.takeFlight p
     let ms := s.maskModules x.chainMask
     let atHome := ms.head?.any s.isSelf
     let tell (m : Nat) : Packet := { op := 11, status := stBroken, dst := withModule (s.addrOf key) m, aux := p.aux
                                      srcModule := s.self, srcUnit := BitVec.ofNat 10 landingUnit }
     let breaks (u : State) : Prop :=
       SMap.find? (u.cluster cl).slots i = some { x with broken := true, chainPending := false } ∧
       (u.mem.word x.obj.toNat).getLsbD 57 = true ∧ u.mem.word (x.obj.toNat + 8) = x.round ∧
       s.memFrame u (fun k => x.obj.toNat ≤ k ∧ k < x.obj.toNat + 248) ∧
       (atHome = true → ∀ m ∈ ms, s.isSelf m = false → s.routable (tell m) = true →
         ({ pkt := tell m } : Flight) ∈ u.net.flight)
     (p.status ≠ stOk → x.broken = true → exec (.kChain p) s = .next f) ∧
     (p.status ≠ stOk → x.broken = false →
       ∃ u, exec (.kChain p) s = .next u ∧ breaks u ∧ { u with mem := s.mem, net := f.net, clusters := s.clusters } = f) ∧
     (p.status = stOk → atHome = true →
       x.broken = true ∨ (∃ m ∈ ms, s.isSelf m = false ∧ s.absent m = true) →
       ∃ u, exec (.kChain p) s = .next u ∧ breaks u ∧
         { u with mem := s.mem, net := f.net, clusters := s.clusters } =
           { f.engineRead x.chainMask 512 with net := f.net }))) ∧
  (∀ (p : Packet) (s : State),
    let key := p.dst.toNat % 2 ^ 52 / 256 * 256
    s.takes p 11 = true → s.slotServing (servingCluster key) key = none → p.status ≠ stOk →
    s.objectFault key = none → (s.mem.word key).extractLsb' 58 2 = 1 →
    ∃ u, exec (.kChain p) s = .next u ∧ (∀ b, b < 64 → (u.mem.word key).getLsbD b = ((s.mem.word key).getLsbD b || b == 57)) ∧
      s.memFrame u (fun k => key ≤ k ∧ k < key + 8) ∧
      { u with mem := s.mem, net := (s.takeFlight p).net } = s.takeFlight p))

/-! ## Accumulation and the fast tier -/

/-- R212, R293, R294, R295, R298: an ACC packet. In a scratchpad or a cluster memory every element is added at once and
the packet is confirmed; in the fast tier its fragments join the queues of their adders, or wait at their front
where those are full; a front without room takes none.

R131, R296, R297, R302, R310: an adder takes the fragment that came first, and with none to take it lets in one that
waits at a front, where it has room and, for a part of a split block, a join slot. Here the elements of a bushel
fragment inside a bucket of the packet's exponent: each gets its contribution, the fragment is gone, and the last
one confirms the packet. While the reduction block is being read nothing is added. The model's own readings and
choices behind it: log entries 13, 15, 18, 85, 100, 121. -/
def Obligations.MortarAdds : Prop :=
  (∀ (p : Packet) (s : State), s.takes p 1 = true → p.payload ≠ [] →
    let ssz := accSrcSize p.sfmt
    let dsz := accDstSize p.atype
    let n := p.payload.length / ssz
    let o := addrOff p.dst
    let g := s.takeFlight p
    (∀ k, p.atype.toNat < 3 → addrSpace p.dst = 1 ∨ addrSpace p.dst = 2 → s.badAt p.dst (n * dsz) true = [] →
      s.hitsBound p.dst (n * dsz) = false →
      (∀ i, i < n → s.place (p.dst + BitVec.ofNat 64 (i * dsz)) true = .mem (k + i * dsz) ∧
        s.boundAt (k + i * dsz) = false) →
      ∃ u, exec (.accPacket p) s = .next u ∧
        (∀ i, i < n → u.mem.read (k + i * dsz) dsz = leBytes dsz (accPlain p.atype
          (leNat (s.mem.read (k + i * dsz) dsz)) (srcCode p.sfmt p.payload i))) ∧
        s.memFrame u (fun j => k ≤ j ∧ j < k + n * dsz) ∧
        u.net.confirms = s.net.confirms ++ [{ module := p.srcModule, unit := p.srcUnit, tag := p.tag, dst := p.dst }] ∧
        { u with mem := s.mem, net := g.net } = g) ∧
    (addrSpace p.dst = 0 → p.atype.toNat < 5 → o < 2 ^ 46 →
      let parts := if p.atype = 4 then grainParts p o else plainParts p o
      let front := s.frontOf p (s.linkOf p)
      let placed (wait : Bool) : Mortar := { s.mortar with
        nextNum := s.mortar.nextNum + 1,
        frags := s.mortar.frags ++ parts.map (fun x =>
          { adder := s.adderOf x.1, front := front, waiting := wait, arrival := s.plc, pkt := s.mortar.nextNum,
            offset := x.1, skip := x.2.1, body := x.2.2 }),
        packs := s.mortar.packs ++ [{ num := s.mortar.nextNum, pkt := p, left := parts.length }] }
      parts ≠ [] → (∀ x ∈ parts, ∃ k, s.fastPlace x.1 = .mem k) →
      (s.frontReady p front = false → exec (.accPacket p) s = .next s) ∧
      (s.frontReady p front = true →
        ((∀ x ∈ s.mortar.frags, x.waiting = false) → (∀ a, s.adderQueue a + parts.length ≤ 2048) →
          (∀ a, (State.joinsAt { s with mortar := { s.mortar with packs := (placed false).packs } } a).length +
            parts.length ≤ 256) →
          ∃ u, exec (.accPacket p) s = .next u ∧ u.mortar = placed false ∧ u.net.confirms = s.net.confirms ∧
            { u with net := g.net, mortar := s.mortar } = g) ∧
        ((∀ x ∈ parts, 2048 ≤ s.adderQueue (s.adderOf x.1)) →
          ∃ u, exec (.accPacket p) s = .next u ∧ u.mortar = placed true ∧ u.net.confirms = s.net.confirms ∧
            { u with net := g.net, mortar := s.mortar } = g)))) ∧
  (∀ (adder : Fin 16) (s : State),
    (s.mortar.loading = true → exec (.fragmentAdd adder) s = .next s) ∧
    (∀ f, s.mortar.loading = false → s.nextFrag adder = none →
      s.mortar.frags.filter (fun g => g.waiting && decide (g.adder = adder.val)) = [f] →
      exec (.fragmentAdd adder) s = .next (if s.adderRoom f = true then { s with mortar := { s.mortar with
        frags := s.mortar.frags.erase f ++ [{ f with waiting := false, arrival := s.plc }] } } else s)) ∧
    (∀ f, s.nextFrag adder = some f → f ∈ s.mortar.frags ∧ f.adder = adder.val ∧ f.waiting = false ∧
      ∀ g, g ∈ s.mortar.frags → g.adder = adder.val → g.waiting = false → s.canAdd g = true →
        f.arrival ≤ g.arrival) ∧
    (∀ f b, s.mortar.loading = false → s.nextFrag adder = some f →
      (∀ g ∈ s.mortar.frags, g.waiting = true → g.adder ≠ adder.val) →
      let k := s.pack f.pkt
      let n := f.body.length / accSrcSize k.pkt.sfmt
      let sum (i : Nat) : Word := bushelAdd (s.mem.word (fastKey (f.offset + 8 * i)))
        (toBushel k.pkt.e (accValue k.pkt.sfmt f.body i)).1
      k.pkt.atype = 3 → b.e = k.pkt.e → b.grpEn = false →
      (∀ i, i < n → s.bucketAt (f.offset + 8 * i) = some b ∧ sum i ≠ poison) →
      ∃ u, exec (.fragmentAdd adder) s = .next u ∧ (∀ i, i < n → u.mem.word (fastKey (f.offset + 8 * i)) = sum i) ∧
        s.memFrame u (fun j => fastKey f.offset ≤ j ∧ j < fastKey f.offset + 8 * n) ∧
        u.mortar = { s.mortar with
          frags := s.mortar.frags.erase f,
          packs := if k.left ≤ 1 then s.mortar.packs.filter (fun q => q.num != f.pkt)
            else s.mortar.packs.map (fun q => if q.num = f.pkt then { q with left := q.left - 1 } else q) } ∧
        u.net.confirms = s.net.confirms ++ (if k.left ≤ 1 then
          [{ module := k.pkt.srcModule, unit := k.pkt.srcUnit, tag := k.pkt.tag, dst := k.pkt.dst }] else []) ∧
        u.ft = ((s.bulkRead f.offset (256 - f.offset % 256)).bulkWrite f.offset (256 - f.offset % 256)).ft ∧
        { u with mem := s.mem, net := s.net, mortar := s.mortar, ft := s.ft } = s))

/-- R300, R301, R302, R303: the reduction block is read. Of its entries those that are enabled are the buckets in force,
where they are aligned, in capacity and in ascending order; a disabled one is passed over. One whose base or length
does not fit is not taken: it adds 1 to bad_entries and is counted. A header of another generation puts no block in
force and is counted. The model's own readings and choices behind it: log entry 78. -/
def Obligations.ReductionBlockRead : Prop :=
  ∀ (s : State) b, s.mortar.loading = true → s.mortar.red = some b →
    let h := (s.mem.word (fastKey b.offset)).toNat
    let w (i j : Nat) : Nat := (s.mem.word (fastKey (b.offset + 256 + 32 * i + 8 * j))).toNat
    let ent (i : Nat) : Bucket := bucketOf i (w i 0) (w i 1) (w i 2)
    let n := h % 2 ^ 11
    let r := s.bulkRead b.offset 0x8100
    (h / 2 ^ 60 % 16 ≠ 1 → exec .reductionBlockLoaded s =
      .next (State.violate { r with mortar := { s.mortar with loading := false, red := none } } .generation)) ∧
    (h / 2 ^ 60 % 16 = 1 → n ≤ 1024 → h / 2 ^ 11 % 2 ^ 49 = 0 →
      (∀ j, 6 ≤ j → j < 32 → s.mem.word (fastKey (b.offset + 8 * j)) = 0) →
      let on (i : Nat) : Prop := w i 0 / 2 ^ 59 % 2 = 1
      let clean (i : Nat) : Prop := w i 0 / 2 ^ 60 % 16 = 1 ∧ w i 0 % 2 ^ 44 = 0 ∧ w i 1 / 2 ^ 46 % 2 ^ 18 = 0 ∧
        w i 2 / 2 ^ 40 % 2 ^ 24 = 0
      let fits (i : Nat) : Prop := (ent i).base % 256 = 0 ∧ (ent i).elements ≠ 0 ∧ (ent i).elements % 32 = 0 ∧
        (ent i).base + 8 * (ent i).elements ≤ s.ft.capacity
      let ordered (skip : Nat → Prop) : Prop := ∀ i j, i < j → j < n → on i → on j → ¬skip i → ¬skip j →
        (ent i).base + 8 * (ent i).elements ≤ (ent j).base
      let inForce (l : List Nat) : Mortar :=
        { s.mortar with loading := false, red := some { b with buckets := l.map ent } }
      ((∀ i, i < n → on i → clean i ∧ fits i) → ordered (fun _ => False) →
        exec .reductionBlockLoaded s = .next { r with
          mortar := inForce ((List.range n).filter (fun i => decide (w i 0 / 2 ^ 59 % 2 = 1))) }) ∧
      (∀ m, m < n → on m → clean m → ¬fits m → (∀ i, i < n → i ≠ m → on i → clean i ∧ fits i) → ordered (fun i => i = m) →
        (∀ i, i < 8 → s.place (fastAddr (b.offset + 40) + BitVec.ofNat 64 i) true = .mem (fastKey (b.offset + 40) + i)) →
        ∃ u, exec .reductionBlockLoaded s = .next u ∧
          u.mortar = inForce ((List.range n).filter (fun i => decide (w i 0 / 2 ^ 59 % 2 = 1 ∧ i ≠ m))) ∧
          u.mem.word (fastKey (b.offset + 40)) = s.mem.word (fastKey (b.offset + 40)) + 1 ∧
          s.memFrame u (fun k => fastKey (b.offset + 40) ≤ k ∧ k < fastKey (b.offset + 40) + 8) ∧
          { u with mem := s.mem, net := s.net, ft := s.ft, mortar := s.mortar } = s.violate .bucketTable))

/-- R178, R180, R355, R356: a pseudo-channel serves its oldest latency-critical request, else its oldest bulk one, and
none in a retrain or before a re-read that is due; the read buffer holds the atoms used last. The oldest bulk
request that has waited for bulk_threshold µs joins the latency-critical class. A request that waits at the ingress
enters once its queue has room. The model's own readings and choices behind it: log entries 10, 99. -/
def Obligations.PseudoChannels : Prop :=
  ∀ (p : PchId) (s : State),
    let q := s.pch p
    let i (r : PchReq) : Nat := s.ft.bufSet r.offset
    let set (r : PchReq) : List Nat := SMap.get [] s.ft.rbuf (i r)
    let atom (r : PchReq) : Nat := r.offset / 256
    let buffered (u : State) (r : PchReq) : Prop :=
      SMap.get [] u.ft.rbuf (i r) = (if atom r ∈ set r then atom r :: (set r).erase (atom r)
        else if r.write = true ∨ r.nofill = true then set r else (atom r :: set r).take 16) ∧
      (∀ j, j ≠ i r → SMap.get [] u.ft.rbuf j = SMap.get [] s.ft.rbuf j) ∧
      (∀ x, x ≠ p.val → u.pch x = s.pch x) ∧
      { u with ft := { u.ft with pchs := s.ft.pchs, rbuf := s.ft.rbuf } } = s
    (q.retraining = true ∨ q.reread = true → exec (.pchServe p) s = .next s) ∧
    (q.retraining = false → q.reread = false →
      (q.crit ≠ [] → ∃ u r, exec (.pchServe p) s = .next u ∧ r ∈ q.crit ∧ (∀ x ∈ q.crit, r.arrival ≤ x.arrival) ∧
        u.pch p = Pch.letIn { q with crit := q.crit.erase r } ∧ buffered u r) ∧
      (q.crit = [] → q.bulk ≠ [] → ∃ u r, exec (.pchServe p) s = .next u ∧ r ∈ q.bulk ∧
        (∀ x ∈ q.bulk, r.arrival ≤ x.arrival) ∧ u.pch p = Pch.letIn { q with bulk := q.bulk.erase r } ∧ buffered u r)) ∧
    (q.letIn.ingress = q.ingress ↔
      ∀ y ∈ q.ingress, if y.1 = true then 64 ≤ q.crit.length else 256 ≤ q.bulk.length) ∧
    ((∃ r ∈ q.bulk, 1800 * s.start.img.bulkThreshold ≤ 18 * s.chain.time - r.arrival) →
      ∃ u r, exec (.bulkPromote p) s = .next u ∧ r ∈ q.bulk ∧ (∀ x ∈ q.bulk, r.arrival ≤ x.arrival) ∧
        u.pch p = Pch.letIn { q with bulk := q.bulk.erase r, crit := q.crit ++ [r] } ∧
        (∀ x, x ≠ p.val → u.pch x = s.pch x) ∧ { u with ft := { u.ft with pchs := s.ft.pchs } } = s) ∧
    ((∀ r ∈ q.bulk, 18 * s.chain.time - r.arrival < 1800 * s.start.img.bulkThreshold) →
      exec (.bulkPromote p) s = .next s)

/-! ## Courses -/

/-- R44, R51, R64, R65, R66, R354: a core whose strands are all at their `cend` and whose engines have nothing left
reports done, writes its course log and its context's times; with a latch fault lost in the course it is DONE_FAULT,
which raises a fault hold.

R49, R50, R52, R170, R404: at the opening of a course a core runs the context that the run's schedule names for it:
the one that it holds, or another, read from its save area; with no context it reports IDLE, and a context that is
not loaded, or a code 0x8–0xE, is counted. The model's own readings and choices behind it: log entries 25, 43, 72,
82. -/
def Obligations.Courses : Prop :=
  (∀ (c : CoreId) (s : State), s.workDone c = true →
    let r := (s.core c).run
    let start := r.start.toNat
    let now := (s.coreCycle c).toNat
    let busy := min (now - start) (2 ^ 32 - 1)
    let n := r.ctx.toNat
    ∃ u, exec (.coreDone c) s = .next u ∧ (∀ d, d ≠ c.val → u.core d = s.core d) ∧
      { u.core c with run := r } = s.core c ∧
      (u.core c).run.head = r.head + 1 ∧
      (∃ e : CourseEntry, SMap.find? (u.core c).run.clog ((r.head.toNat + 1) % 16) = some e ∧
        e.start = r.start ∧ e.course = s.job.course.setWidth 24 ∧ e.ctx = r.ctx ∧ e.idle = false ∧
        e.overrun = decide (s.chain.te < s.chain.time) ∧ e.busy.toNat = busy) ∧
      SMap.get 0 (u.core c).run.ctxTime n = SMap.get 0 r.ctxTime n + BitVec.ofNat 64 busy ∧
      SMap.get 0 (u.core c).run.ctxCourses n = SMap.get 0 r.ctxCourses n + 1 ∧
      { (u.core c).run with
        state := r.state, head := r.head, clog := r.clog, ctxTime := r.ctxTime, ctxCourses := r.ctxCourses } = r ∧
      (r.faulted = false → (u.core c).run.state = .done ∧ s.sameButCores u) ∧
      (r.faulted = true → s.job.st = .running →
        (u.core c).run.state = .doneFault ∧ u.job.st = .held ∧ u.job.holds = s.job.holds ++ [4] ∧ u.chain.ready = false)) ∧
  (∀ (c : CoreId) (s : State) p, s.job.activeRun = some p → s.job.isOpen = true → (s.core c).run.state = .edge →
    (∀ k ∈ s.job.started, k.opcode ≠ 1) →
    let n := s.scheduled p c
    let r := (s.core c).run
    let area := saveKey c n
    let idled (v : CoreRun) : Prop :=
      v.state = .idle ∧ v.head = r.head + 1 ∧
      (∃ e : CourseEntry, SMap.find? v.clog ((r.head.toNat + 1) % 16) = some e ∧ e.idle = true ∧
        e.course = s.job.course.setWidth 24) ∧
      { v with state := r.state, head := r.head, clog := r.clog, start := r.start, misfit := r.misfit,
               misfitCourse := r.misfitCourse } = r
    let same (v : CoreRun) : Prop := v.misfit = r.misfit ∧ v.misfitCourse = r.misfitCourse
    ∃ u, exec (.strandsReleased c) s = .next u ∧ (∀ d, d ≠ c.val → u.core d = s.core d) ∧
      (n < 8 → r.loaded.getLsbD n = true →
        s.sameButCores u ∧ (u.core c).eng = (s.core c).eng ∧
        { (u.core c).arr with bank := (s.core c).arr.bank } = (s.core c).arr ∧
        (u.core c).run = { r with state := .running, ctx := BitVec.ofNat 3 n, holds := true, start := s.coreCycle c } ∧
        (r.holds = true → r.ctx.toNat = n → (u.core c).regs = (s.core c).regs ∧ (u.core c).arr = (s.core c).arr ∧
          ∀ t : StrandId, u.strand c t = { s.strand c t with atEnd := false, wait := .none }) ∧
        (r.holds = false ∨ r.ctx.toNat ≠ n → s.ctxRestored u c area ∧ (u.core c).regs.wcnt = (s.core c).regs.wcnt)) ∧
      (n = 15 → s.sameButCores u ∧ { u.core c with run := r } = s.core c ∧ idled (u.core c).run ∧
        same (u.core c).run) ∧
      (8 ≤ n → n < 15 → { u with cores := s.cores } = s.violate .reservedSet ∧ { u.core c with run := r } = s.core c ∧
        idled (u.core c).run ∧ same (u.core c).run) ∧
      (n < 8 → r.loaded.getLsbD n = false → s.sameButCores u ∧ { u.core c with run := r } = s.core c ∧
        idled (u.core c).run ∧ (u.core c).run.misfit = satAdd r.misfit 1 ∧
        (u.core c).run.misfitCourse = satAdd r.misfitCourse 1))

/-- R19, R277: a participant whose work is done and whose next course is covered drives ready from te − 2·D on, and not
before; nothing else changes.

R12, R17, R30, R50, R52, R53, R75, R111, R277, R279: the edge. A module that is SET applies it at Ts + D: its edge
count advances and the face window shows the closed lift. A participant that goes on with its run saves what its
cores hold, counts the misfits of the course that has ended, and opens the next course. The model's own readings and
choices behind it: log entries 43, 72. -/
def Obligations.Edges : Prop :=
  (∀ (s : State),
    (s.job.st = .running → s.job.isOpen = true → s.allDone = true → s.job.nextCovered = true →
      s.chain.te ≤ s.chain.time + 2 * s.chain.d.toNat →
      exec .readyUpdate s = .next { s with chain := { s.chain with ready := true } }) ∧
    (s.chain.time + 2 * s.chain.d.toNat < s.chain.te ∨ s.allDone = false ∨ s.job.nextCovered = false →
      exec .readyUpdate s = .next s)) ∧
  (∀ (s : State) t, s.edgeTime = some t →
    let flipped (u : State) : Prop :=
      u.job.lift = s.msn.lift.closed ∧
      { u.ft with pchs := s.ft.pchs } =
        (if s.ft.faceValid then { s.ft with parity := s.msn.lift.closed.getLsbD 0 } else s.ft) ∧
      u.chain.mark = none ∧ u.chain.lastEdge = t ∧ u.chain.edges = satAdd s.chain.edges 1
    (s.job.st = .running → s.chain.ready = false → exec .edgeApply s = .next s) ∧
    (s.job.st = .set → s.job.runs = [] → ∃ u, exec .edgeApply s = .next u ∧ flipped u ∧
      (∀ c, (s.core c).run.state ≠ .parked → u.core c = s.core c) ∧
      { u with cores := s.cores, ft := s.ft,
               chain := { u.chain with mark := s.chain.mark, lastEdge := s.chain.lastEdge, edges := s.chain.edges },
               job := { u.job with lift := s.job.lift, parked := s.job.parked } } = s) ∧
    (s.job.st = .running → s.chain.ready = true → ∀ p, s.job.runs = [p] → p.active = true →
      (s.job.course + 1).toNat < p.stop →
      (∀ c, c < 576 → (s.core c).run.state = .done) →
      ∃ u, exec .edgeApply s = .next u ∧ flipped u ∧ u.job.course = s.job.course + 1 ∧ u.job.isOpen = true ∧
        u.chain.te = t + p.courseLen ∧ u.chain.ready = false ∧
        (∀ c, c < 576 →
          (u.core c).run = { (s.core c).run with state := .edge, misfitCourse := 0, faulted := false } ∧
          u.logGet (0x6000 + 8 * c) =
            min (s.logGet (0x6000 + 8 * c) + (s.core c).run.misfitCourse.toNat) (2 ^ 64 - 1) ∧
          (∀ x, u.strand c x = { s.strand c x with atEnd := false }) ∧ (u.core c).eng = (s.core c).eng ∧
          (u.core c).regs = { (s.core c).regs with wcnt := [] } ∧
          (u.core c).arr = { (s.core c).arr with
            shadow := [], active := [], reuse := [], queue := [], stream := [], readout := [], retries := [],
            lfInCourse := 0 } ∧
          ((s.core c).run.holds = true → ∀ x : StrandId,
            u.mem.word (saveKey c (s.core c).run.ctx.toNat + 1024 + 8 * x.val) = (s.strand c x).ip)) ∧
        (∀ k, 2 ^ 48 ≤ k → (∀ c, c < 576 → (s.core c).run.holds = true →
            k < saveKey c (s.core c).run.ctx.toNat ∨ saveKey c (s.core c).run.ctx.toNat + saveSize ≤ k) →
          u.mem.byte k = s.mem.byte k) ∧
        { u with mem := s.mem, cores := s.cores, ft := s.ft, net := s.net, chain := s.chain, job := s.job, plb := s.plb,
                 losses := s.losses } = s))

/-! ## The chain port -/

/-- R269, R270: a frame that reaches a bypassed port is not taken; a CRC failure is dropped and counted; another
generation is dropped and counted as a violation; a frame whose number has been seen is only repeated to the next
hop; a module that is not head repeats an upstream frame.

R280, R281, R291: the delays: a pass, the sum at each module, the head's new D, and the hop delay measured. The
model's own readings and choices behind it: log entry 94. -/
def Obligations.ChainFrames : Prop :=
  (∀ (f : Frame) (s : State),
    let down : List (BitVec 4 × (Bool → Instr)) :=
      [(1, .enumFrame f), (3, .delayFrame f), (5, .compFrame f), (7, .joinGrant f), (8, .joinedFrame f),
       (10, .absentFrame f), (11, .topoFrame f), (12, .reenumFrame f), (13, .censusFrame f), (15, .chainAck f)]
    let up : List (BitVec 4 × (Bool → Instr)) :=
      [(2, .enumDone f), (4, .delayDone f), (6, .joinReq f), (9, .leaveFrame f), (14, .hereFrame f)]
    (∀ x ∈ down ++ up,
      (s.chain.bypass = true → ∀ ok, exec (x.2 ok) s = .next s) ∧
      (s.chain.bypass = false →
        exec (x.2 false) s = .next { s with chain := { s.chain with frameErr := satAdd s.chain.frameErr 1 } } ∧
        (f.gen ≠ 1 → exec (x.2 true) s = .next (s.violate .generation)))) ∧
    (∀ x ∈ down, s.hears f x.1 = true → s.chain.seqSeen.contains (f.ty, f.seq) = true →
      (s.chain.head = true → x.1 ≠ 11 → x.1 ≠ 12 → exec (x.2 true) s = .next s) ∧
      (s.chain.head = false → s.chain.tail = true → exec (x.2 true) s = .next s) ∧
      (s.chain.head = false → s.chain.tail = false → exec (x.2 true) s = .next (s.emit (.frameDn { f with
        body := if x.1 = 1 then BitVec.ofNat 32 (f.body.toNat / 2 ^ 13 * 2 ^ 13 + (f.body.toNat + 1) % 2 ^ 13)
          else if x.1 = 3 then f.body + s.chain.h else f.body })))) ∧
    (∀ x ∈ up, s.chain.head = false → s.hears f x.1 = true → exec (x.2 true) s = .next (s.emit (.frameUp f)))) ∧
  (∀ (f : Frame) (s : State),
    let h := s.heard f
    let measured (g : State) (c : W32) : State :=
      let v := (c.toNat + 1000000 + 9999) / 10000
      let m : State := { g with chain := { g.chain with maxC := c } }
      if s.chain.d.toNat < v ∨ v + 100 < s.chain.d.toNat then State.sendDown
        { m with chain := { m.chain with newD := some (s.chain.time, BitVec.ofNat 24 v) } } 5 (BitVec.ofNat 32 (v % 2 ^ 24))
      else m
    (s.chain.head = true → s.chain.bypass = false → exec .delayPassTimer s =
      .next (if s.chain.tail then measured s 0 else s.sendDown 3 0)) ∧
    (s.chain.head = false ∨ s.chain.bypass = true → exec .delayPassTimer s = .next s) ∧
    (s.hearsNew f 3 = true → s.chain.head = false →
      let c := f.body + s.chain.h
      let u : State := { h with chain := { h.chain with c := c, cMeasured := true } }
      exec (.delayFrame f true) s =
        .next (if s.chain.tail then u.sendUp 4 c else u.emit (.frameDn { f with body := c }))) ∧
    (s.hears f 4 = true → s.chain.head = true →
      exec (.delayDone f true) s = .next (measured (s.ackFrame (s.chain.granted.getLastD 0) 4) f.body)) ∧
    (s.hearsNew f 5 = true →
      let r := s.repeated f
      exec (.compFrame f true) s =
        .next { r with chain := { r.chain with newD := some (s.chain.time, f.body.setWidth 24) } }) ∧
    (∀ ps, exec (.edgeEchoMeasure ps) s = .next { s with chain := { s.chain with
      h := ps, c := if s.chain.cMeasured = true ∨ s.chain.head = true then s.chain.c else ps } }))

/-- R270, R271, R272, R273: how a module takes, keeps and drops its chain address, and how the head grants one; a
JOIN_REQ that comes again, with the nonce of one that the head has granted, is answered with the same address. The
model's own readings and choices behind it: log entry 47. -/
def Obligations.ChainAddresses : Prop :=
  ∀ (f : Frame) (s : State),
    let a := f.body.toNat % 2 ^ 13
    let nonce := f.body.toNat / 2 ^ 13
    let h := s.heard f
    let r := s.repeated f
    (s.hearsNew f 1 = true → s.chain.head = false →
      let e : State := { h with chain := { h.chain with enums := satAdd h.chain.enums 1, declared := [] } }
      (a ≤ 4094 →
        let w := ((e.holding a).afterAbsence h).announce
        exec (.enumFrame f true) s = .next (if w.chain.tail then w.sendUp 2 (BitVec.ofNat 32 (a + 1))
          else w.emit (.frameDn { f with body := f.body + 1 }))) ∧
      (4094 < a →
        let w := State.afterAbsence { e with chain := { e.chain with full := true, addrValid := false, addr := 0 } } h
        exec (.enumFrame f true) s = .next (if w.chain.tail then w.sendUp 2 4095 else w.emit (.frameDn { f with
          body := BitVec.ofNat 32 (nonce * 2 ^ 13 + (a + 1) % 2 ^ 13) })))) ∧
    (s.hears f 2 = true → s.chain.head = true →
      let g := s.ackFrame (a - 1) 2
      exec (.enumDone f true) s =
        .next (State.sendDown
          { g with chain := { g.chain with granted := List.range a, joined := [], port := 5 } } 3 0)) ∧
    (s.hearsNew f 12 = true → s.chain.head = false →
      let d : State := { r with
        job := { r.job with reenumHeard := r.job.reenum.isSome }
        chain := { r.chain with
          addr := 0, addrValid := false, full := false, declared := [], granted := [], joined := [], port := 3 } }
      let e := (List.range 12).foldl (fun s l => s.modLink l (fun k => { k with pValid := false, pAddr := 0, pLink := 0 })) d
      exec (.reenumFrame f true) s = .next (State.afterAbsence { e with lnk := { e.lnk with topo := [], routes := [] } }
        { r with job := { r.job with reenumHeard := r.job.reenum.isSome } })) ∧
    (s.hears f 12 = true → s.chain.head = true →
      exec (.reenumFrame f true) s =
        .next (((s.ackFrame noAddress 0xC).sendDown 0xC 0).dropAddresses).startEnumeration) ∧
    (s.hears f 6 = true → s.chain.head = true →
      let g := s.ackFrame a 6
      let n := BitVec.ofNat 19 nonce
      let told (k : State) (x : Nat) : State :=
        ((k.sendDown 7 (BitVec.ofNat 32 (x + nonce * 2 ^ 13))).sendDown 8 (BitVec.ofNat 32 x)).afterAbsence g
      (∀ y x, s.chain.joined.find? (fun z => z.1 = n) = some (y, x) →
        exec (.joinReq f true) s = .next (told { g with chain := { g.chain with
          granted := if x ∈ s.chain.granted then s.chain.granted else (x :: s.chain.granted).mergeSort
          joined := (n, x) :: s.chain.joined.filter (fun z => z.1 != n)
          declared := s.chain.declared.filter (fun y => y != x) } } x)) ∧
      (∀ x, s.chain.joined.find? (fun z => z.1 = n) = none →
        (s.start.img.joinLowest = false ∧ a < 4095 ∧ a ∉ s.chain.granted ∧ x = a) ∨
          ((s.start.img.joinLowest = true ∨ 4095 ≤ a ∨ a ∈ s.chain.granted) ∧ s.chain.lowestAddr = some x) →
        let k : State := { g with chain := { g.chain with
          granted := (x :: s.chain.granted).mergeSort, joined := (n, x) :: s.chain.joined
          declared := s.chain.declared.filter (fun y => y != x) } }
        exec (.joinReq f true) s = .next (told k x))) ∧
    (s.hearsNew f 7 = true →
      (s.chain.port = 4 → nonce = s.chain.nonce.toNat →
        (a ≤ 4094 → exec (.joinGrant f true) s = .next ((r.holding a).afterAbsence r).announce) ∧
        (4094 < a → exec (.joinGrant f true) s = .next { r with chain := { r.chain with full := true } })) ∧
      (s.chain.port ≠ 4 ∨ nonce ≠ s.chain.nonce.toNat → exec (.joinGrant f true) s = .next r)) ∧
    (s.hearsNew f 8 = true →
      exec (.joinedFrame f true) s = .next (State.afterAbsence
        { r with chain := { r.chain with declared := r.chain.declared.filter (fun x => x != a) } } r))

/-- R265, R268, R269, R270, R273, R274: absence, the topology, the census, acknowledgement, resending, and the late
join. The model's own readings and choices behind it: log entries 2, 47, 89, 94. -/
def Obligations.ChainAbsence : Prop :=
  ∀ (f : Frame) (s : State),
    let a := f.body.toNat % 2 ^ 13
    let r := s.repeated f
    let e := topoOf f
    let up := f.body.getLsbD 30
    let other (x : TopoEdge) : Bool := !(x.addr == e.addr && x.link == e.link)
    let ups := s.lnk.topo.filter other
    let downs := s.lnk.downs.filter other
    let noted (u : State) : State := { u with
      lnk := { u.lnk with topo := if up then ups ++ [e] else ups, downs := if up then downs else downs ++ [e] }
      chain := { u.chain with topoAt := some s.chain.time } }
    (s.hears f 9 = true → s.chain.head = true →
      let g := s.ackFrame a 9
      (a ∈ s.chain.declared → exec (.leaveFrame f true) s = .next g) ∧
      (a ∉ s.chain.declared → exec (.leaveFrame f true) s = .next ((State.sendDown
        { g with chain := { g.chain with
          declared := a :: s.chain.declared, granted := s.chain.granted.filter (fun x => x != a)
          joined := s.chain.joined.filter (fun x => x.2 != a) } } 0xA
        (BitVec.ofNat 32 a)).afterAbsence g))) ∧
    (s.hearsNew f 10 = true →
      exec (.absentFrame f true) s = .next (State.afterAbsence { r with chain := { r.chain with
        absents := satAdd s.chain.absents 1,
        declared := if a ∈ s.chain.declared then s.chain.declared else a :: s.chain.declared } } r)) ∧
    (s.hearsNew f 11 = true → s.chain.head = false → exec (.topoFrame f true) s = .next (noted r)) ∧
    (s.hears f 11 = true → s.chain.head = true →
      let n := (noted (s.ackFrame e.addr 0xB)).sendDown 0xB f.body
      (up = true → exec (.topoFrame f true) s = .next n) ∧
      (up = false → exec (.topoFrame f true) s = .next ([e.addr, e.partner].foldl (fun u x =>
        if u.lnk.allDown x && !(u.chain.addrValid && decide (u.chain.addr.toNat = x)) then u.broadcastAbsent x else u) n))) ∧
    (s.hearsNew f 13 = true →
      exec (.censusFrame f true) s =
        .next (if s.chain.addrValid then r.sendUp 0xE (s.chain.addr.setWidth 32) else r)) ∧
    (s.hears f 14 = true → s.chain.head = true →
      exec (.hereFrame f true) s = .next { s with chain := { s.chain with
        here := if a ∈ s.chain.here then s.chain.here else a :: s.chain.here } }) ∧
    (s.chain.head = true → s.chain.census = true →
      let own := if s.chain.addrValid then [s.chain.addr.toNat] else []
      let held := (s.chain.here ++ own).dedup.mergeSort
      let g := (s.chain.granted.filter (fun x => !held.contains x)).foldl State.broadcastAbsent s
      exec .censusEnd s = .next { g with chain := { g.chain with census := false, here := [], granted := held } }) ∧
    (s.hearsNew f 15 = true →
      exec (.chainAck f true) s = .next { r with chain := { r.chain with
        unacked := s.chain.unacked.filter (fun u => !(decide (u.1.ty.toNat = f.body.toNat / 2 ^ 16 % 2 ^ 4) &&
          (decide (a = 0x1FFF) || decide (a = u.1.body.toNat % 2 ^ 13) ||
            (s.chain.addrValid && decide (a = s.chain.addr.toNat))))) } }) ∧
    (∀ ty, ty ≠ 6 ∨ s.chain.port ≠ 2 →
      let due := s.chain.unacked.filter (fun x => decide (x.1.ty = ty) && decide (x.2 ≤ 16))
      let kept := s.chain.unacked.filter (fun x => decide (x.1.ty ≠ ty) || decide (x.2 ≤ 16))
      ∃ u, exec (.frameResend ty) s = .next u ∧ u.out = s.out ++ due.map (fun x => .frameUp x.1) ∧
        u.chain = { s.chain with unacked := kept.map (fun x => if x.1.ty = ty then (x.1, x.2 + 1) else x) } ∧
        { u with chain := s.chain, out := s.out } = s) ∧
    (s.chain.port = 2 →
      let nonce : BitVec 19 := (Config.freeWord s.free).setWidth 19
      exec (.frameResend 6) s = .next (State.sendUp
        { s with free := s.free + 1, chain := { s.chain with port := 4, nonce := nonce } } 6
        (BitVec.ofNat 32 ((s.plb.logAddr.getD 0x1FFF) % 2 ^ 13 + nonce.toNat * 2 ^ 13))))

/-- R269, R275, R276, R277, R278, R279, R280, R363: marks, the reference, splicing, and the lines from and to the
neighbours. The model's own readings and choices behind it: log entries 47, 89, 94. -/
def Obligations.ChainMarks : Prop :=
  ∀ (s : State),
    let d := s.chain.d.toNat
    let adopted (c : Chain) (t : Nat) (v : Chain) : Prop :=
      v.d = (match c.newD with | some (t0, x) => if t0 + 500000 ≤ t then x else c.d | none => c.d) ∧
      v.newD = (match c.newD with | some (t0, x) => if t0 + 500000 ≤ t then none else some (t0, x) | none => none) ∧
      { v with d := c.d, newD := c.newD } = c
    (s.chain.head = true → s.chain.bypass = false → s.chain.tail = true ∨ s.chain.rdyIn = true → s.ownReady = true →
      s.chain.tsPrev + 2 * d + 400 < s.chain.time → s.chain.tsPrev + 2000 ≤ s.chain.time →
      ∃ u, exec .edgeMarkSend s = .next u ∧ u.out = s.out ++ [.edgeMark] ∧
        adopted { s.chain with tsPrev := s.chain.time, mark := some s.chain.time } s.chain.time u.chain ∧
        { u with chain := s.chain, out := s.out } = s) ∧
    (s.chain.time < s.chain.tsPrev + 2000 ∨ s.chain.time ≤ s.chain.tsPrev + 2 * d + 400 ∨ s.ownReady = false →
      exec .edgeMarkSend s = .next s) ∧
    (∀ ps, s.chain.head = false →
      let t := ps / 10000
      (s.chain.bypass = true →
        exec (.edgeMarkReceive ps) s = .next { s with chain := { s.chain with tsPrev := t } }) ∧
      (s.chain.bypass = false → ∃ u, exec (.edgeMarkReceive ps) s = .next u ∧
        adopted { s.chain with tsPrev := t, mark := some ((ps - s.chain.c.toNat) / 10000) } t u.chain ∧
        u.out = s.out ++ (if s.chain.tail then [] else [.edgeMark]) ∧
        { u with chain := s.chain, out := s.out } = s)) ∧
    (s.pwr.good = true → exec .refLock s = .next { s with chain := { s.chain with
      refLocked := true, inCable := true, head := false,
      port := if s.chain.bypass = true ∧ s.job.st ≠ .failed then 1 else s.chain.port } }) ∧
    (s.chain.bypass = false → s.chain.head = false → exec .refLoss s = .next (State.sendDown { s with chain := { s.chain with
      refLocked := false, inCable := false, head := true, headChanges := satAdd s.chain.headChanges 1, census := true,
      here := [] } } 0xD 0)) ∧
    (s.chain.head = true ∨ s.chain.bypass = true ∧ (s.chain.port ≠ 1 ∨ s.start.phase.toNat < 7 ∨ s.job.st = .failed) →
      exec .refLoss s = .next { s with chain := { s.chain with refLocked := false, inCable := false } }) ∧
    (s.chain.head = false → s.chain.bypass = true → s.chain.port = 1 → 7 ≤ s.start.phase.toNat → s.job.st ≠ .failed →
      exec .refLoss s = .next (State.startEnumeration { s with chain := { s.chain with
        refLocked := false, inCable := false, head := true, headChanges := satAdd s.chain.headChanges 1, bypass := false
        tail := !s.chain.outCable, rdyIn := s.chain.rdyIn || !s.chain.outCable } })) ∧
    (s.chain.bypass = true → s.chain.port = 1 → s.chain.refLocked = true → 7 ≤ s.start.phase.toNat →
      s.job.st ≠ .failed → s.chain.tsPrev + 100 ≤ s.chain.time → s.chain.time ≤ s.chain.tsPrev + 300 →
      exec .splice s = .next { s with chain := { s.chain with
        bypass := false, splices := satAdd s.chain.splices 1, port := 2, cMeasured := false, c := s.chain.h } }) ∧
    (s.job.st = .failed → exec .splice s = .next s) ∧
    (s.chain.time < s.chain.tsPrev + 100 ∨ s.chain.tsPrev + 300 < s.chain.time → exec .splice s = .next s) ∧
    (∀ level, exec (.rdyInChange level) s = .next { s with chain := { s.chain with rdyIn := level || s.chain.tail } }) ∧
    (∀ present, exec (.chainOutPresenceChange present) s = .next { s with chain := { s.chain with
      outCable := present, tail := !present, rdyIn := !present } }) ∧
    s.rdyOut = (if s.chain.bypass = true then s.chain.rdyIn
      else (s.chain.tail || s.chain.rdyIn) && (match s.job.st with
        | .running => s.chain.ready
        | .held => false
        | _ => true))

/-! ## Evrok links -/

/-- R249–R254, R261, R287: flits. A link that carries none takes none; a segment that fails its CRC counts on its lane,
discards the flit and asks for a replay; a good one gives its ack and credits, and a nak a replay; out of sequence
it gives nothing else, and in sequence its packets or its message. The receiver sends its acks, and the sender sends
again what has no ack, but not while its link changes its width. The model's own readings and choices behind it: log
entries 24, 101. -/
def Obligations.LinkFlits : Prop :=
  ∀ (l : LinkId) (flit : List Byte) (s : State),
    let lead := s.leader l
    let k := s.link lead
    let h := flitHeader flit
    let left := match k.ch.replayBuf.findIdx? (fun t => t.seq = BitVec.ofNat 16 (h / 2 ^ 26)) with
      | some i => k.ch.replayBuf.drop (i + 1)
      | none => k.ch.replayBuf
    let acked : LinkCh := { k.ch with
      replayBuf := left
      failed := if (k.ch.replayBuf.findIdx? (fun t => t.seq = BitVec.ofNat 16 (h / 2 ^ 26))).isSome then 0 else k.ch.failed
      usedReq := k.ch.usedReq - h / 2 ^ 13 % 2 ^ 12, usedRsp := k.ch.usedRsp - h / 2 % 2 ^ 12 }
    let flitOut (m : Nat) (hd : Word) (body : List Byte) : Out :=
      .linkFlit m (((List.range 8).map (laneOf (s.link m).live)).zip (flitSegments hd body))
    let both := [Instr.dataFlit l flit, .idleFlit l flit]
    ((s.link l).carries = false → ∀ i ∈ both ++ [.linkAckTimer l, .replayTimeout l], exec i s = .next s) ∧
    ((s.link l).carries = true →
      (badSegments flit ≠ [] → ∀ i ∈ both,
        ∃ u, exec i s = .next u ∧ (u.link lead).ch = { k.ch with nakDue := true } ∧
          (∀ m, m ≠ lead → (u.link m).ch = (s.link m).ch) ∧
          (∀ m, { u.link m with laneErr := (s.link m).laneErr, ch := (s.link m).ch } = s.link m) ∧
          (∀ x, badSegments flit = [x] →
            let lane := laneOf (s.link l).live x
            let e := SMap.get {} (s.link l).laneErr lane
            SMap.get {} (u.link l).laneErr lane = { total := satAdd e.total 1, window := satAdd e.window 1 }) ∧
          { u with lnk := s.lnk, plb := s.plb } = s) ∧
      (badSegments flit = [] → h / 2 ^ 60 % 16 ≠ 1 → ∀ i ∈ both, exec i s = .next (s.violate .generation)) ∧
      (badSegments flit = [] → h / 2 ^ 60 % 16 = 1 → h / 2 ^ 25 % 2 = 0 → k.ch.ctlWait = [] → s.joinsSoon l = false →
        ∀ i ∈ both,
        ((flitKind flit ≠ 0 ∧ flitKind flit ≠ 2) ∨ flitSeq flit ≠ k.ch.rxSeq →
          ∃ u, exec i s = .next u ∧ u.link lead = { k with ch := acked } ∧ u.out = s.out ∧ s.onlyLink u lead) ∧
        (flitSeq flit = k.ch.rxSeq → k.ch.sinceAck < 31 →
          let body := (flitContent flit).drop 8
          let pre := leNat (body.take 8)
          let taken : LinkCh := { acked with rxSeq := k.ch.rxSeq + 1, sinceAck := k.ch.sinceAck + 1 }
          (flitKind flit = 2 → exec i s = .next (((s.modLink lead (fun k => { k with ch := taken })).linkMessage l
            (pre / 2 ^ 56) (BitVec.ofNat 56 pre)).joinDrained l)) ∧
          (flitKind flit = 0 → k.ch.rxBytes = [] →
            let n := pre / 2 ^ 45 % 2 ^ 9
            let p : Packet := { parseHeader ((body.drop 8).take 32) with payload := slice body 40 n }
            let stream := pre / 2 ^ 54 % 2 ^ 8
            body.length = 488 → pre / 2 ^ 63 % 2 = 1 → pre % 2 ^ 20 = 0 → 48 + n ≤ 488 →
            (∀ b ∈ body.drop (40 + n), b = 0) → s.isSelf (packetModule p) = false →
            ∃ u, exec i s = .next u ∧
              u.link lead = { k with ch := { taken with
                rxBytes := []
                streams := if p.last then SMap.erase k.ch.streams stream
                  else SMap.set k.ch.streams stream { p with payload := [] } } } ∧
              (∀ m, m ≠ lead → u.link m = s.link m) ∧
              u.net = { s.net with flight := s.net.flight ++
                [{ pkt := p, hops := pre / 2 ^ 20 % 2 ^ 6, link := some lead, credits := (40 + n + 63) / 64 }] } ∧
              { u with lnk := s.lnk, net := s.net } = s))) ∧
      (badSegments flit = [] → h / 2 ^ 60 % 16 = 1 → h / 2 ^ 25 % 2 = 1 → flitKind flit = 1 → left ≠ [] →
        k.ch.ctlWait = [] → s.joinsSoon l = false → s.bondUp lead = true → ∀ i ∈ both,
        ∃ u, exec i s = .next u ∧ (u.link lead).replays = satAdd k.replays 1 ∧ (u.link lead).ch.replayBuf = left ∧
          (u.link lead).ch.failed = acked.failed + 1 ∧ u.out.length = s.out.length + left.length ∧ s.onlyLink u lead) ∧
      (let req := min k.ch.retReq 4095
       let rsp := min k.ch.retRsp 4095
       ∃ u hd, exec (.linkAckTimer l) s = .next u ∧ u.out = s.out ++ [flitOut (s.nextMember lead) hd []] ∧
        hd.extractLsb' 60 4 = 1 ∧ hd.extractLsb' 58 2 = 1 ∧ hd.extractLsb' 26 16 = k.ch.rxSeq - 1 ∧
        hd.getLsbD 25 = k.ch.nakDue ∧ (hd.extractLsb' 13 12).toNat = req ∧ (hd.extractLsb' 1 12).toNat = rsp ∧
        u.link lead = { k with ch := { k.ch with
          nakDue := false, sinceAck := 0, retReq := k.ch.retReq - req, retRsp := k.ch.retRsp - rsp,
          turn := k.ch.turn + 1 } } ∧ s.onlyLink u lead) ∧
      (s.bondUp lead = false → exec (.replayTimeout l) s = .next s) ∧
      (k.ch.replayBuf ≠ [] → s.bondUp lead = true → ∃ (u : State) (fs : List Out),
        exec (.replayTimeout l) s = .next u ∧ u.out = s.out ++ fs ∧
        fs.length = k.ch.replayBuf.length ∧
        (∀ (i : Nat) (t : TxFlit), k.ch.replayBuf[i]? = some t → ∃ m hd, fs[i]? = some (flitOut m hd t.body) ∧
          hd.extractLsb' 42 16 = t.seq ∧ hd.extractLsb' 58 2 = t.kind) ∧
        { u.link lead with ch := k.ch } = { k with replays := satAdd k.replays 1 } ∧
        (u.link lead).ch.replayBuf = k.ch.replayBuf ∧ (u.link lead).ch.failed = k.ch.failed + 1 ∧
        (u.link lead).ch.txSeq = k.ch.txSeq ∧ (u.link lead).ch.rxSeq = k.ch.rxSeq ∧ s.onlyLink u lead))

/-- R255, R256, R283, R474, R475: how a link goes DOWN, and how it comes to train again.

R256, R257, R258, R261, R262: training. A cable without a signal leaves the link DOWN; too much loss, too few lanes
or no common generation leave it out; else it comes UP at the widest width that the lanes found allow, those
recorded as retired for this cable apart, and sends its CAP and its address. The model's own readings and choices
behind it: log entries 24, 88, 101, 109. -/
def Obligations.LinkStates : Prop :=
  (∀ (l : LinkId) (s : State),
    let k := s.link l
    (k.bond = 0xF → k.carries = true ∨ k.state = lkStandby →
      (16 ≤ k.ch.failed → ∃ u, exec (.linkDown l .replays) s = .next u ∧ s.wentOut u l lkDown 2) ∧
      (∃ u, exec (.linkDown l .lossOfLock) s = .next u ∧ s.wentOut u l lkDown 1) ∧
      (∃ u, exec (.linkDown l .cableLoss) s = .next u ∧ s.wentOut u l lkDown 8) ∧
      (∃ u, exec (.resetNotice l) s = .next u ∧ s.wentOut u l lkDown 3)) ∧
    (k.state = lkDown →
      (k.cause = 1 ∨ k.cause = 3 → s.canTrain l = true → ∃ u, exec (.linkRetrainTimer l) s = .next u ∧
        u.link l = { k with state := lkTraining, cause := 0 } ∧ s.onlyLink u l) ∧
      (s.lnk.cage.getLsbD (l.val / 2) = false → ∃ u, exec (.linkRetrainTimer l) s = .next u ∧
        u.link l = { k with state := 0, cause := 0 } ∧ s.onlyLink u l)) ∧
    (∀ cage : Fin 6, s.lnk.cage.getLsbD cage = false →
      let a := 2 * cage.val
      ∃ u, exec (.cableInsert cage) s = .next u ∧ u.lnk.cage = s.lnk.cage ||| (1#6 <<< cage.val) ∧
        (∀ m ∈ [a, a + 1], u.link m = (if State.canTrain { s with lnk := { s.lnk with cage := u.lnk.cage } } m = true ∧
            (s.link m).state ≠ lkFailed then
          { s.link m with trained := false, state := lkTraining, cause := 0 } else { s.link m with trained := false })) ∧
        (∀ m, m ≠ a → m ≠ a + 1 → u.link m = s.link m) ∧
        { u with lnk := s.lnk, out := s.out, ports := s.ports } = s) ∧
    (∀ cage : Fin 6, s.lnk.cage.getLsbD cage = true →
      let a := 2 * cage.val
      (s.link a).bond = 0xF → (s.link (a + 1)).bond = 0xF →
      s.chain.head = false ∨ ((s.link a).carries = false ∧ (s.link (a + 1)).carries = false) →
      (∃ u, exec (.cableRemove cage) s = .next u ∧ u.lnk.cage = s.lnk.cage &&& ~~~(1#6 <<< cage.val) ∧
        (∀ m ∈ [a, a + 1],
          (u.link m).state = (if (s.link m).state = 0 then 0 else lkDown) ∧
          (u.link m).cause = (if (s.link m).state = 0 then (s.link m).cause else 8) ∧ (u.link m).trained = false ∧
          (u.link m).serialTag = 0 ∧ (u.link m).cableType = 0) ∧
        (∀ m, m ≠ a → m ≠ a + 1 → u.link m = s.link m) ∧
        { u with lnk := s.lnk, net := s.net, chain := s.chain, out := s.out, ports := s.ports } = s) ∧
      (s.lnk.cut.getLsbD cage = false →
        ∃ u, exec (.cageOvercurrent cage) s = .next u ∧ u.lnk.cut = s.lnk.cut ||| (1#6 <<< cage.val) ∧
          (∀ m ∈ [a, a + 1], if (s.link m).state = 0 ∨ (s.link m).state = lkFailed then u.link m = s.link m
            else (u.link m).state = lkDown ∧ (u.link m).cause = 1) ∧
          (∀ m, m ≠ a → m ≠ a + 1 → u.link m = s.link m) ∧
          { u with lnk := s.lnk, net := s.net, chain := s.chain, out := s.out, ports := s.ports } = s))) ∧
  (∀ (l : LinkId) (r : TrainResult) (s : State),
    let k := s.link l
    s.canTrain l = true → k.state = lkTraining → k.bond = 0xF →
    let type : BitVec 4 := if r.memory = false then 4 else if r.optical then 3 else if r.active then 2 else 1
    let passive := decide (type = 1 ∨ type = 4)
    let retired := if r.memory then s.recordedLanes l r.serialTag else 0
    let full := decide (r.lanesFull ||| retired = 255) && !(passive && decide (152 < r.loss)) && s.linkBit l 1
    let good := (if full then r.lanesFull else r.lanesHalf) &&& ~~~retired
    let lossy := passive && decide (152 < r.lossHalf)
    let cap := r.partnerCap &&& ~~~0xFF
    let most := min (if k.limited then 4 else 8) (cap.extractLsb' 32 8).toNat
    (r.signal = false → ∃ u, exec (.linkTrainingDone l r) s = .next u ∧ s.wentOut u l lkDown 1 ∧
      (r.memory = true → (u.link l).cableType = type ∧ (u.link l).serialTag = r.serialTag)) ∧
    (r.signal = true →
      (lossy = true → ∃ u, exec (.linkTrainingDone l r) s = .next u ∧ s.wentOut u l lkFailed 5) ∧
      (lossy = false → widest (~~~good) most = none →
        ∃ u, exec (.linkTrainingDone l r) s = .next u ∧ s.wentOut u l lkFailed 4) ∧
      (∀ w, lossy = false → widest (~~~good) most = some w →
        (negotiate r.partnerCap = none →
          ∃ u, exec (.linkTrainingDone l r) s = .next u ∧ s.wentOut u l lkMismatch 6) ∧
        (∀ g, negotiate r.partnerCap = some g →
          ∃ u, exec (.linkTrainingDone l r) s = .next u ∧
            (u.link l).state = lkUp ∧ (u.link l).cause = 0 ∧ (u.link l).rate = (if full then 2 else 1) ∧
            (u.link l).width = BitVec.ofNat 4 w.1 ∧ (u.link l).live = w.2 ∧ (u.link l).gen = g ∧ (u.link l).bond = 0xF ∧
            (u.link l).retired = retired ∧ (u.link l).pCap = cap ∧ (u.link l).trained = true ∧
            (u.link l).cableType = type ∧ (u.link l).locked = good ∧
            (u.link l).ch.txSeq = (if s.chain.addrValid then 2 else 1) ∧ (u.link l).ch.rxSeq = 1 ∧
            (u.link l).ch.replayBuf.map (fun t => (t.seq, t.kind)) = (0, 2) :: (if s.chain.addrValid then [(1, 2)] else []) ∧
            (u.link l).ch.replayBuf.head?.map (fun t => t.body) =
              some (wordBytes (BitVec.ofNat 64 (2 ^ 56 + 0x1103070880040000 / 2 ^ 8))) ∧
            (∀ m, m ≠ l.val → u.link m = s.link m) ∧
            (∀ i, i < 8 → w.2.getLsbD i = true →
              let o := 0x4908 + 16 * (8 * l.val + i)
              let m := (Config.eyeMargin (8 * l.val + i) s.plb.powered).toNat
              u.logGet o = ((SMap.find? s.plb.log o).map (min m)).getD m) ∧
            (∀ o, (∀ i, i < 8 → w.2.getLsbD i = true → o ≠ 0x4908 + 16 * (8 * l.val + i)) →
              u.logGet o = if k.trained && (List.range 8).any (fun i => w.2.getLsbD i && o == 0x4900 + 16 * (8 * l.val + i))
              then min (s.logGet o + 1) (2 ^ 32 - 1) else s.logGet o) ∧
            { u with lnk := s.lnk, out := s.out, ports := s.ports, plb := { u.plb with log := s.plb.log } } = s))))

/-- R252, R254, R258–R263: the messages CAP, ADDRESS, RETIRE and WIDTH, the retirement of lanes, of which the partner is
told at once or, while the replay buffer is full, as soon as it has room, and a link on STANDBY that finds a place
in its partner's bond. The model's own readings and choices behind it: log entries 24, 88. -/
def Obligations.LinkMessages : Prop :=
  ∀ (l : LinkId) (arg : BitVec 56) (s : State),
    let k := s.link l
    let retiredAt (u : State) (lane : Nat) : Prop :=
      (u.link l).retired = k.retired ||| (1#8 <<< lane) ∧
      u.lnk.retiredLanes = s.lnk.retiredLanes ++ [(l.val, lane, k.serialTag.toNat)] ∧
      u.plb.retirements = s.plb.retirements ++ [(2, 8 * l.val + lane, s.minute, k.serialTag.toNat)]
    let quiet (lane : Nat) : Prop := k.carries = false ∨ s.chain.head = false ∨
      widest (k.retired ||| (1#8 <<< lane) ||| ~~~(k.locked &&& ~~~(1#8 <<< lane))) k.maxWidth ≠ none
    let told (u : State) (lane : Nat) : Prop :=
      let c := (s.link (s.leader l)).ch
      let m : Word := BitVec.ofNat 64 (3 * 2 ^ 56 + lane + 8)
      if c.ctlWait = [] ∧ s.replayRoom (s.leader l) = true then ∃ hd rest, u.out = s.out ++
        [.linkFlit l (((List.range 8).map (laneOf k.live)).zip (flitSegments hd (wordBytes m)))] ++ rest
      else ∃ rest, (u.link (s.leader l)).ch.ctlWait = c.ctlWait ++ [(l.val, m)] ++ rest
    (let w : Word := arg.setWidth 64 <<< 8
     (∀ g, negotiate w = some g → ∃ u, exec (.capMsg l arg) s = .next u ∧ u.link l = { k with pCap := w, gen := g } ∧
       s.onlyLink u l) ∧
     (negotiate w = none → k.bond = 0xF → ∃ u, exec (.capMsg l arg) s = .next u ∧ s.wentOut u l lkMismatch 6)) ∧
    (let a := arg.extractLsb' 0 13
     arg.getLsbD 17 = true →
     (s.chain.addrValid = true → a = s.chain.addr → k.bond = 0xF →
       ∃ u, exec (.addressMsg l arg) s = .next u ∧ s.wentOut u l lkFailed 7) ∧
     (s.chain.addrValid = false ∨ a ≠ s.chain.addr → ∃ u, exec (.addressMsg l arg) s = .next u ∧
       (u.link l).pAddr = a ∧ (u.link l).pLink = arg.extractLsb' 13 4 ∧ (u.link l).pValid = true ∧
       (∀ m, m ≠ l.val → (u.link m).pAddr = (s.link m).pAddr) ∧
       (k.carries = false → u.link l = { k with pAddr := a, pLink := arg.extractLsb' 13 4, pValid := true } ∧
         s.onlyLink u l))) ∧
    (let lane := arg.toNat % 8
     (k.retired.getLsbD lane = true → exec (.retireLane l arg) s = .next s) ∧
     (k.retired.getLsbD lane = false → quiet lane → ∃ u, exec (.retireLane l arg) s = .next u ∧ retiredAt u lane)) ∧
    (k.carries = true → ∃ u, exec (.widthMsg l arg) s = .next u ∧
      u.link l = { k with state := lkRetraining, width := BitVec.ofNat 4 arg.toNat, live := arg.extractLsb' 4 8 } ∧
      s.onlyLink u l) ∧
    (k.state = lkRetraining →
      let lead := s.leader l
      ∃ u, exec (.widthChangeDone l) s = .next u ∧
        { u.link l with ch := k.ch } = { k with state := lkUp, retrains := satAdd k.retrains 1 } ∧
        (u.link lead).ch.replayBuf = (s.link lead).ch.replayBuf ∧
        (∀ m, m ≠ l.val → m ≠ lead → m ≠ s.leader lead → u.link m = s.link m) ∧
        u.net = { s.net with flight := s.net.routeWait ++ s.net.flight, routeWait := [] } ∧
        { u with lnk := s.lnk, net := s.net, out := s.out, ports := s.ports } = s) ∧
    (∀ lane : Fin 8,
      let e := SMap.get {} k.laneErr lane.val
      (∃ u, exec (.laneWindowExpiry l lane) s = .next u ∧
        SMap.get {} (u.link l).laneErr lane.val = { e with window := 0 } ∧
        { u.link l with laneErr := k.laneErr } = k ∧ s.onlyLink u l) ∧
      (k.carries = true → k.retired.getLsbD lane = false →
        (s.start.img.laneErrLimit ≤ e.window.toNat → quiet lane →
          ∃ u, exec (.laneErrLimit l lane) s = .next u ∧ retiredAt u lane ∧ told u lane) ∧
        (e.window.toNat < s.start.img.laneErrLimit → exec (.laneErrLimit l lane) s = .next s) ∧
        (k.locked &&& ~~~(1#8 <<< lane.val) ≠ 0 → quiet lane →
          ∃ u, exec (.laneLockLoss l lane) s = .next u ∧ retiredAt u lane ∧ told u lane))) ∧
    (k.state = lkStandby → k.bond = 0xF →
      ((List.range 12).filter (fun m => (decide ((s.link m).bond ≠ 0xF) || (s.link m).carries && (s.link m).pValid) &&
        decide ((s.link m).pAddr = k.pAddr) && nearLength (s.link m).lengthCm.toNat k.lengthCm.toNat)).length < 4 →
      ∃ u, exec (.bondStandbyJoin l) s = .next u ∧ (u.link l).state = lkUp)

/-- R171, R230, R253, R254, R265–R268: routing. A packet for another module goes, in its turn, to its first hop with the
link's credits, where its replay buffer has room and it is not about to join a bond; with no link UP it waits; for
an absent module, or at its 32nd link, it ends; a new route table takes effect whole. The model's own readings and
choices behind it: log entries 14, 24, 86, 101. -/
def Obligations.Routing : Prop :=
  ∀ (s : State),
    (∀ pos f, s.net.flight[pos]? = some f → s.isSelf (packetModule f.pkt) = false →
      let a := packetModule f.pkt
      let rest := s.net.flight.eraseIdx pos
      let cs := s.candidates f.pkt
      let l := cs.getD (a % cs.length) 0
      let k := s.link l
      let g : Flight := { f with hops := f.hops + 1, link := none, credits := 0 }
      let w := s.linkForm l f.pkt
      let bytes := linkBytes g w.1 w.2
      let n := (bytes.length + 63) / 64
      let rsp := isResponse f.pkt.op
      let behind := s.net.routeWait.any (fun x => s.sameStream x f)
      let freed := State.freeFlight { s with net := { s.net with flight := rest } } f
      let lost := answer f.pkt 5 stAbsent
      (s.inTurn f.pkt = false → exec (.linkForward pos) s = .next s) ∧
      (s.inTurn f.pkt = true →
        (s.absent a = false → f.hops + 1 < 32 →
          (cs = [] ∨ behind = true → exec (.linkForward pos) s = .next { s with net := { s.net with
            flight := rest, routeWait := s.net.routeWait ++ [f] } }) ∧
          (cs ≠ [] → behind = false → n + (if rsp then k.ch.usedRsp else k.ch.usedReq) ≤ s.granted l rsp →
            s.replayRoom l = true → s.joinsSoon l = false → s.leader l = l →
            ∃ u m hd, exec (.linkForward pos) s = .next u ∧
              u.out = s.out ++ [.linkFlit m (((List.range 8).map (laneOf (s.link m).live)).zip (flitSegments hd bytes))] ∧
              hd.extractLsb' 42 16 = k.ch.txSeq ∧
              u.net = { s.net with flight := rest } ∧ u.mortar = (s.noteSent f.pkt).mortar ∧
              (u.link l).ch.txSeq = k.ch.txSeq + 1 ∧
              (u.link l).ch.replayBuf = k.ch.replayBuf ++ [{ seq := k.ch.txSeq, body := bytes, pkt := some g }] ∧
              (u.link l).ch.usedReq = (if rsp then k.ch.usedReq else k.ch.usedReq + n) ∧
              (u.link l).ch.usedRsp = (if rsp then k.ch.usedRsp + n else k.ch.usedRsp) ∧
              (∀ x, { u.link x with ch := (s.link x).ch } = s.link x) ∧
              (∀ x, x ≠ l → (u.link x).ch = (freed.link x).ch) ∧
              { u with net := s.net, lnk := s.lnk, mortar := s.mortar, out := s.out } = s) ∧
          (cs ≠ [] → behind = false → s.granted l rsp < n + (if rsp then k.ch.usedRsp else k.ch.usedReq) ∨
            s.replayRoom l = false ∨ s.joinsSoon l = true →
            exec (.linkForward pos) s = .next s)) ∧
        (f.pkt.op = 4 → s.isSelf f.pkt.srcModule.toNat = true →
          (s.absent a = true → exec (.linkForward pos) s = .next (freed.sent [lost])) ∧
          (s.absent a = false → 31 ≤ f.hops →
            exec (.linkForward pos) s = .next ((freed.sent [lost]).logAdd 0x40000 8 1))))) ∧
    (∀ pos f, s.net.routeWait[pos]? = some f → f.pkt.op = 4 → s.isSelf f.pkt.srcModule.toNat = true →
      exec (.routeWaitExpiry pos) s = .next (State.sent (State.freeFlight { s with net := { s.net with
        routeWait := s.net.routeWait.eraseIdx pos } } f) [answer f.pkt 5 stAbsent])) ∧
    (let u : State := { s with
      lnk := { s.lnk with routes := s.computeRoutes }
      chain := { s.chain with topoAt := none }
      net := { s.net with flight := s.net.routeWait ++ s.net.flight, routeWait := [] } }
     s.job.reenum = none → (∀ i, i < 4095 → u.absent i = s.absent i) → exec .routeInstall s = .next u)

/-! ## Host ports and commands -/

/-- R4, R8, R9, R62, R140, R142, R393, R394, R413, R417, R418, R419: a host's writes through BAR0, each field by its
rule; a write of a size that the window does not take is dropped and counted; a write that meets a core in reset
does nothing.

R389, R392, R412: what a host sets in a port's configuration space: the MSI-X enable and the mask of the function,
the power state, and the size of BAR2, which is 1 GiB to 512 GiB. The places of these fields are the PCI standard's,
which the spec takes as known. The model's own readings and choices behind it: log entries 33, 44, 45, 102, 104,
105, 110, 111. -/
def Obligations.HostWrites : Prop :=
  (∀ (p : PortId) (bytes : List Byte) (s : State), s.reaches (.bar0 p) = true →
    let w := leWord bytes
    let n := w.toNat
    let portOnly (u : State) : Prop := (∀ q, q ≠ p.val → u.port q = s.port q) ∧ { u with ports := s.ports } = s
    (bytes.length = 16 → ∀ t, lowestFree (s.port p).slots 63 = some t →
      let a := leWord (bytes.take 8)
      let pk : Packet := { op := 4, dst := a, aux := leWord (bytes.drop 8), srcModule := s.self,
                           srcUnit := BitVec.ofNat 10 (580 + p.val), tag := BitVec.ofNat 6 t }
      s.routable pk = true → ∃ u, exec (.hstTaddWrite p bytes) s = .next u ∧
        u.port p = { s.port p with
          slots := SMap.set (s.port p).slots t { op := 0x70, branches := [{ dst := a, acksLeft := 1 }] } } ∧
        (∀ q, q ≠ p.val → u.port q = s.port q) ∧ { u with ports := s.ports } = s.sent [pk]) ∧
    (bytes.length ≠ 16 → exec (.hstTaddWrite p bytes) s = .next (s.violate .undefined)) ∧
    (bytes.length = 8 →
      (∀ list : Fin 8,
        let x := SMap.get {} (s.port p).lists list.val
        let set (u : State) (y : WorkList) : Prop := portOnly u ∧
          (∀ m, SMap.get {} (u.port p).lists m = if m = list.val then y else SMap.get {} (s.port p).lists m) ∧
          { u.port p with lists := (s.port p).lists } = s.port p
        let k : BitVec 5 := w.setWidth 5
        let e := w.getLsbD 63
        (n % 2 ^ 12 = 0 → n / 2 ^ 46 = 0 → ∃ u, exec (.hstWlWrite p list 0 bytes) s = .next u ∧
          set u { x with base := BitVec.ofNat 34 (n / 2 ^ 12) }) ∧
        (n / 2 ^ 5 % 2 ^ 58 = 0 →
          (x.enable = false → e = false ∨ (4 ≤ k.toNat ∧ k.toNat ≤ 16) →
            ∃ u, exec (.hstWlWrite p list 8 bytes) s = .next u ∧
              set u { x with k := k, enable := e, consumed := if e then 0 else x.consumed }) ∧
          (x.enable = false → e = true → k.toNat < 4 ∨ 16 < k.toNat →
            exec (.hstWlWrite p list 8 bytes) s = .next (s.violate .undefined)) ∧
          (x.enable = true → ∃ u, exec (.hstWlWrite p list 8 bytes) s = .next u ∧ set u { x with enable := e })) ∧
        (n % 2 ^ 3 = 0 → n / 2 ^ 46 = 0 → ∃ u, exec (.hstWlWrite p list 16 bytes) s = .next u ∧
          set u { x with tally := BitVec.ofNat 43 (n / 2 ^ 3) }) ∧
        exec (.hstWlWrite p list 24 bytes) s = .next (s.violate .readOnly)) ∧
      (∀ v : Fin 64, 8 ≤ v.val →
        let x := SMap.get {} (s.port p).notify v.val
        let t := (s.port p).freshTag
        let set (u : State) (y : Notifier) (next : BitVec 6) : Prop :=
          (∀ m, SMap.get {} (u.port p).notify m = if m = v.val then y else SMap.get {} (s.port p).notify m) ∧
          { u.port p with notify := (s.port p).notify } = { s.port p with nextTag := next } ∧
          (∀ q, q ≠ p.val → u.port q = s.port q)
        let pk : Packet := { op := 6, dst := x.addr, aux := w, srcModule := s.self,
                             srcUnit := BitVec.ofNat 10 (580 + p.val), tag := t }
        let f := s.withdrawNotifier p v
        (∃ u, exec (.hstNotifyWrite p v 0 bytes) s = .next u ∧ set u { x with addr := w } (s.port p).nextTag ∧
          { u with ports := s.ports } = s) ∧
        (w = 0 → ∃ u, exec (.hstNotifyWrite p v 8 bytes) s = .next u ∧
          set u { x with value := 0, reg := none } (s.port p).nextTag ∧ { u with ports := s.ports } = f) ∧
        ((∃ i : BitVec 6, ∀ y ∈ (s.port p).notify, y.2.reg ≠ some i) → ∀ y ∈ (s.port p).notify, y.2.reg ≠ some t) ∧
        (w ≠ 0 → s.routable pk = true → ∃ u, exec (.hstNotifyWrite p v 8 bytes) s = .next u ∧
          set u { x with value := w, reg := some t } (t + 1) ∧ { u with ports := s.ports } = f.sent [pk])) ∧
      (n % 2 ^ 30 = 0 → n / 2 ^ 46 = 0 →
        let size := 2 ^ (s.port p).bar2Log
        (n % size = 0 → n + size ≤ 2 ^ 39 → ∃ u, exec (.hstApBaseWrite p 0 bytes) s = .next u ∧ portOnly u ∧
          u.port p = { s.port p with apBase := BitVec.ofNat 16 (n / 2 ^ 30) }) ∧
        (¬(n % size = 0 ∧ n + size ≤ 2 ^ 39) →
          exec (.hstApBaseWrite p 0 bytes) s = .next (s.violate .undefined))) ∧
      (∃ u, exec (.ftRangeClearWrite (.bar0 p) 0 bytes) s = .next u ∧
        (∀ g f, f < 9 → SMap.get {} u.ft.range (9 * g + f) =
          if w.getLsbD g = true then {} else SMap.get {} s.ft.range (9 * g + f)) ∧
        { u with ft := { u.ft with range := s.ft.range } } = s) ∧
      (exec (.registerWrite (.bar0 p) (0x1000 + 0x10000 * p.val + 8) bytes) s = exec (.hstApBaseWrite p 0 bytes) s ∧
        exec (.registerWrite (.bar0 p) 0x1010008 bytes) s = exec (.ftRangeClearWrite (.bar0 p) 0 bytes) s ∧
        exec (.registerWrite (.bar0 p) 0x1010000 bytes) s =
          .next (State.violate (if w &&& 0xFFFFFFFFFFF00000 ≠ 0 then s.violate .reservedSet else s) .readOnly) ∧
        ∀ off, off % 8 ≠ 0 → exec (.registerWrite (.bar0 p) off bytes) s = .next (s.violate .undefined))) ∧
    (∀ (c : CoreId) (v : Word), s.job.st ≠ .unset → (s.core c).run.state ≠ .reset →
      let r := if v &&& 0xFFFF00000000FFFC ≠ 0 then s.violate .reservedSet else s
      let b := if v &&& 0x0000FFFFFFFF0001 ≠ 0 then r.violate .readOnly else r
      (v.getLsbD 1 = true → ∃ u, exec (.latchFaultLostClear c v false) s = .next u ∧ b.sameButCores u ∧
        (∀ d, d ≠ c.val → u.core d = s.core d) ∧
        u.core c = { s.core c with arr := { (s.core c).arr with lfLost := false } }) ∧
      (v.getLsbD 1 = false → exec (.latchFaultLostClear c v false) s = .next b) ∧
      exec (.latchFaultLostClear c v true) s = .next b) ∧
    ∀ (c : CoreId) (v : Word) (now : Bool), (s.core c).run.state = .reset →
      exec (.latchFaultLostClear c v now) s = .next s) ∧
  (∀ (p : PortId) (b : Byte) (s : State), s.reaches (.cfg p) = true → (s.port p).pba = 0 →
    let q := s.port p
    let log := 20 + b.toNat % 64
    let sets (off : Nat) (y : Port) : Prop := ∃ u, exec (.registerWrite (.cfg p) off [b]) s = .next u ∧ u.port p = y ∧
      (∀ x, x ≠ p.val → u.port x = s.port x) ∧ { u with ports := s.ports } = s
    sets 0x53 { q with msixEn := b.getLsbD 7, maskAll := b.getLsbD 6 } ∧
    (b &&& 3 = 0 → sets 0x44 { q with d3 := false }) ∧ (b &&& 3 = 3 → sets 0x44 { q with d3 := true }) ∧
    (30 ≤ log → log ≤ 39 → q.apBase.toNat * 2 ^ 30 % 2 ^ log = 0 → q.apBase.toNat * 2 ^ 30 + 2 ^ log ≤ 2 ^ 39 →
      sets 0x209 { q with bar2Log := log }) ∧
    (log < 30 ∨ 39 < log → sets 0x209 q))

/-- R2, R4, R6, R182, R244, R388, R389, R391, R392, R393: a host's reads, which clear the read-to-clear fields that they
cover (the peak of a cluster's wait records starts again from those in use), the identity and the link state in its
configuration space, at the places of the PCI standard, and its accesses to the fast tier and the face window
through BAR2. The model's own readings and choices behind it: log entries 45, 105, 110, 125. -/
def Obligations.HostReads : Prop :=
  ∀ (p : PortId) (s : State),
    (∀ path off size, s.reaches path = false →
      exec (.readClear path off size) s = .next (s.emit (.rdata (List.replicate size 0)))) ∧
    (∀ path off size, s.reaches path = true → (∀ q, path ≠ .cfg q) →
      barSize off size = false ∨ pathMaps path off = false →
      exec (.readClear path off size) s = .next ((s.emit (.rdata (List.replicate size 0))).violate .undefined)) ∧
    (s.reaches (.cfg p) = true →
      let reads (off v : Nat) : Prop := exec (.readClear (.cfg p) off 4) s = .next (s.emit (.rdata (leBytes 4 v)))
      reads 0x00 0x27401F7C ∧ reads 0x08 0x120000B0 ∧ reads 0x2C 0x00001F7C ∧
      reads 0x70 (2 ^ 16 * (s.port p).speed.toNat + 2 ^ 20 * (s.port p).width.toNat)) ∧
    (s.reaches (.bar0 p) = true →
      (∀ cl : ClusterId, ∃ u, exec (.readClear (.bar0 p) (0x2000028 + 0x10000 * cl.val) 8) s = .next u ∧
        u.out = s.out ++ [.rdata (s.ctlBytes p (0x2000028 + 0x10000 * cl.val) 8)] ∧
        u.cluster cl = { s.cluster cl with peak := BitVec.ofNat 9 (s.cluWaits cl) } ∧
        (∀ k, k ≠ cl.val → u.cluster k = s.cluster k) ∧
        { u with clusters := s.clusters, out := s.out } = s) ∧
      (∀ c : CoreId, exec (.readClear (.bar0 p) (0x3000008 + 0x1000 * c.val) 8) s =
        .next (s.emit (.rdata (wordBytes (s.coreStatus c)))))) ∧
    (∀ off n, s.reaches (.bar0 p) = false ∨ 2 ^ (s.port p).bar2Log ≤ off →
      exec (.bar2Read p off n) s = .next (s.emit (.rdata (List.replicate n 0))) ∧
      ∀ bs, exec (.bar2Write p off bs) s = .next s) ∧
    (∀ off, s.reaches (.bar0 p) = true → off < 2 ^ (s.port p).bar2Log →
      let y := (s.port p).apBase.toNat * 2 ^ 30 + off
      let a : Word := BitVec.ofNat 64 (0xFFF * 2 ^ 52 + (if y < 384 * 2 ^ 30 then y else 2 ^ 46 + (y - 384 * 2 ^ 30)))
      (∀ n, s.badAt a n false = [] → ∃ u, exec (.bar2Read p off n) s = .next u ∧
        u.out = s.out ++ [.rdata (s.readAt a n)] ∧ { u with out := s.out, ft := s.ft } = s) ∧
      (∀ bs, s.badAt a bs.length true = [] → s.hitsBound a bs.length = false →
        ∃ u, exec (.bar2Write p off bs) s = .next u ∧ u.mem = s.mem.writeList (s.landing a bs) ∧
          { u with mem := s.mem, net := s.net, ft := s.ft } = s))

/-- R396, R397, R401, R409, R410, R411: the command engine fetches from the next list in the rotation whose doorbell is
ahead, and takes or refuses the command; a taken command's action starts when its course has come, is refused at
that point when its lift is wrong, and waits while a fault hold stands. The model's own readings and choices behind
it: log entries 39, 42, 46, 48, 69, 77, 78, 95, 96, 108. -/
def Obligations.CommandEngine : Prop :=
  (∀ (s : State), s.pwr.good = true → s.start.inReset = false → s.job.st ≠ .unset →
    (s.nextList = none → exec .commandFetch s = .next s) ∧
    (∀ i, s.nextList = some i →
      let p := i / 8
      let x := SMap.get {} (s.port p).lists (i % 8)
      let bs := s.fastBytes (4096 * x.base.toNat + 64 * (x.consumed.toNat % 2 ^ x.k.toNat)) 64
      let k := parseCmd p (i % 8) x.consumed bs
      let h := leNat (bs.take 8)
      let gen := h / 2 ^ 60 % 16
      let slot := fastAddr (4096 * x.base.toNat + 64 * (x.consumed.toNat % 2 ^ x.k.toNat))
      let f := ((s.engineRead slot 64).modList p (i % 8)
        (fun w => { w with consumed := w.consumed + 1 })).modJob (fun j => { j with rot := (i + 1) % 16 })
      let r := if h / 2 ^ 32 % 2 ^ 16 ≠ 0 ∨ cmdReserved k = true then f.violate .reservedSet else f
      let v := if (r.checkFront k gen).isNone then r.readAll (r.cmdReads k) else r
      ∃ u, exec .commandFetch s = .next u ∧ u.job.rot = (i + 1) % 16 ∧
        SMap.get {} (u.port p).lists (i % 8) = { x with consumed := x.consumed + 1 } ∧
        (∀ q, q ≠ p → { u.port q with pba := (s.port q).pba } = s.port q) ∧ u.mem = s.mem ∧ u.cores = s.cores ∧
        u.msn.units = s.msn.units ∧ { u.ft with pchs := s.ft.pchs } = s.ft ∧
        (∀ r, gen = 1 → v.check k gen = some r →
          u.job.taken = s.job.taken ∧ (u.port p).refused = satAdd (s.port p).refused 1 ∧
          (u.port p).ringHead = (s.port p).ringHead + 1 ∧
          SMap.find? (u.port p).ring ((s.port p).ringHead.toNat % 64) =
            some { gen := 1, opcode := k.opcode, sub := k.sub, reason := r.code, state := s.job.st.code,
                   list := BitVec.ofNat 3 (i % 8), tag := k.tag, index := x.consumed }) ∧
        (gen = 1 → v.check k gen = none →
          u.job.taken = s.job.taken ++ [k] ∧ (u.port p).taken = satAdd (s.port p).taken 1 ∧
          (u.port p).ring = (s.port p).ring ∧
          u.plb = (v.violateAll (List.replicate (v.blockReserved k) .reservedSet)).plb ∧
          u.msn.retBases = s.msn.retBases ++ (if k.opcode = 9 ∧ k.sub = 1 then [(k, s.tallyVal k.c)] else [])))) ∧
  (∀ (pos : Nat) (s : State) k, s.job.taken[pos]? = some k → k.opcode ≠ 1 → s.isDue k = true →
    let rest := s.job.taken.eraseIdx pos
    let kept := s.msn.lift.updCopies.filter (fun x => x.1 ≠ k)
    (s.job.holds ≠ [] → k.opcode.toNat ∈ [2, 3, 4, 5, 7, 8, 9, 14] → exec (.commandActionStart pos) s = .next s) ∧
    (s.job.holds = [] ∨ k.opcode.toNat ∈ [6, 10, 11, 12, 13] →
      let v : State := { s with job := { s.job with taken := rest } }
      (v.checkStart k = none → exec (.commandActionStart pos) s =
        .next { v with job := { v.job with started := s.job.started ++ [k] } }) ∧
      (∀ r, v.checkStart k = some r → exec (.commandActionStart pos) s =
        .next (State.refuse { v with msn := { s.msn with lift := { s.msn.lift with updCopies := kept } } } k r))))
/-! ## The actions of commands -/

/-- R404, R405, R66, R170, R182, R322, R16: `run` places the face window, with the parity of the lift of its edge, and
loads the programs of its table: the image's bytes into the scratchpad, and a fresh saved state with the start
pointers into the save area; `update` gives each Mason its descriptors in list order; `lift_close` is kept for its
lift.

R337, R355, R379, R451, R272: the other commands whose action takes place at once. A pin beyond 0xFFFF, and an
`unpin` where no pin stands, is refused with PIN. The model's own readings and choices behind it: log entries 16,
39, 43, 47, 48, 72. -/
def Obligations.CommandActions : Prop :=
  (∀ (k : Cmd) (s : State),
    let a := s.acting k
    let l := s.msn.lift
    (∀ p, k ∈ s.job.started → k.opcode = 1 → s.job.activeRun = some p → s.jobPeerLost = false →
      let f : State := { a with ft := s.ft.placed p.base0 p.base1 p.len s.job.lift }
      (p.load = false → exec (.run k) s = .next f) ∧
      (∀ e c, p.load = true → f.progEntries p = [e] → e.cores = [c] → e.ctx < 8 → c < 576 →
        let i := f.progImage e.image
        let bytes := f.readAt (e.image + 64) i.length
        let r := (s.core c).run
        let area := saveKey c e.ctx
        ∃ u, exec (.run k) s = .next u ∧ { u.ft with pchs := s.ft.pchs } = f.ft ∧ u.job = f.job ∧ u.mortar = s.mortar ∧
          (∀ d, d ≠ c → u.core d = s.core d) ∧ { u.core c with run := r } = s.core c ∧
          (u.core c).run = { r with
            holds := r.holds && decide (r.ctx.toNat ≠ e.ctx),
            loaded := r.loaded ||| (1#8 <<< e.ctx), ctxTime := SMap.set r.ctxTime e.ctx 0,
            ctxCourses := SMap.set r.ctxCourses e.ctx 0 } ∧
          (∀ j, j < i.length → i.load + j < 2 ^ 21 → u.mem.byte (spadKey c (i.load + j)) = bytes.getD j 0) ∧
          (∀ t, t < 4 → u.mem.word (area + saveIps + 8 * t) = i.ips.getD t 0) ∧
          (∀ j, j < saveSize → ¬(saveIps ≤ j ∧ j < saveIps + 32) → u.mem.byte (area + j) = 0) ∧
          s.memFrame u (fun key => (∃ j, j < i.length ∧ i.load + j < 2 ^ 21 ∧ key = spadKey c (i.load + j)) ∨
            (area ≤ key ∧ key < area + saveSize)))) ∧
    (∀ ds, k ∈ s.job.started → k.opcode = 2 → l.updCopies.find? (fun x => x.1 = k) = some (k, ds) →
      ∃ u, exec (.update k) s = .next u ∧ u.job = a.job ∧
        (∀ m, m < 4 → u.mason m = { s.mason m with
          table := ((List.range ds.length).zip ds).filter (fun p => decide (p.2.mason = m)), next := 0, wait := 0 }) ∧
        u.msn.lift = { l with updCopies := l.updCopies.erase (k, ds), updTaken := some k, updLeft := ds.length,
                              updWrote := false, skipped := false } ∧
        { u with job := s.job, msn := { u.msn with units := s.msn.units, lift := l } } = s) ∧
    (k ∈ s.job.started → k.opcode = 3 →
      exec (.liftClose k) s = .next { a with msn := { s.msn with lift := { l with closeCmd := some k } } }) ∧
    (k ∉ s.job.started → exec (.run k) s = .next s ∧ exec (.update k) s = .next s ∧ exec (.liftClose k) s = .next s)) ∧
  (∀ (k : Cmd) (s : State), k ∈ s.job.started →
    let a := s.acting k
    let l := s.msn.lift
    let n := l.pins k.lift
    let withPins (v : BitVec 16) : State := a.modLift (fun l =>
      if k.lift = l.closed then { l with pinsClosed := v } else { l with pinsPrev := v })
    (k.opcode = 4 →
      k.lift = l.closed ∨ (k.lift + 1 = l.closed ∧ k.lift.toNat < l.closed.toNat ∧ l.prevIntact = true) →
      (n ≠ 0xFFFF → exec (.pin k) s = .next ((withPins (n + 1)).complete k)) ∧
      (n = 0xFFFF → exec (.pin k) s = .next (a.refuse k .pin))) ∧
    (k.opcode = 5 → (n ≠ 0 → exec (.unpin k) s = .next ((withPins (n - 1)).complete k)) ∧
      (n = 0 → exec (.unpin k) s = .next (a.refuse k .pin))) ∧
    (k.opcode = 10 → s.job.st = .running ∨ s.job.st = .set →
      let p := k.a.toNat % 512
      p ∉ s.ft.retired → s.ft.retired.length < 7 → ∃ v, exec (.retirePch k) s = .next (v.complete k) ∧
        (∀ q, q ∈ v.ft.retired ↔ q = p ∨ q ∈ s.ft.retired) ∧ v.ft.installed = s.ft.installed ∧ a.heldFor v .pchRetired ∧
        v.mem = s.mem ∧ v.cores = s.cores ∧ v.msn = s.msn) ∧
    (k.opcode = 12 →
      (s.job.dump = none → exec (.dump k) s = .next { a with
        job := { a.job with dump := some k },
        plb := { s.plb with dumpWant := s.plb.dumpWant ++ [1],
                            dumpState := if s.plb.dumpState = 0 then 1 else s.plb.dumpState } }) ∧
      (s.job.dump ≠ none → exec (.dump k) s = .next s)) ∧
    (k.opcode = 13 →
      exec (.shedAck k) s = .next (State.complete { a with pwr := { s.pwr with deepest := s.pwr.step } } k)) ∧
    (k.opcode = 14 →
      let b : State := { a with job := { a.job with reenum := some k, reenumHeard := false } }
      (s.chain.head = false → exec (.reEnumerate k) s = .next (b.sendUp 0xC 0)) ∧
      (s.chain.head = true →
        exec (.reEnumerate k) s = .next ((b.sendDown 0xC 0).dropAddresses).startEnumeration)))

/-! ## Rewinds and replays -/

/-- R366, R367, R402: a STOP begins: every command that has been taken and has not taken effect is discarded, strands
and Masons stop, runs, mirrors and their waits end, and the module is REWINDING.

R366–R368, R310, R313, R314, R334, R336, R176, R398: the end of a STOP of lift R. The lift R is the closed one
afterwards, by a discard or a retreat, with its half of the face window, or the closed lift is lost; the ledgers are
empty with the lift closed until then as their epoch, no reduction block is in force and no half waits to be joined;
every core is clear, every broken-home mark and keystone slot is gone, retired pseudo-channels leave the interleave,
and the hold ends. The model's own readings and choices behind it: log entries 48, 64, 65, 77. -/
def Obligations.Stops : Prop :=
  (∀ (k : Cmd) (s : State), s.starts k 6 0 →
    let dropped := s.job.taken ++ s.job.started.erase k ++ s.msn.outWait
    ∃ u, exec (.rewindStop k) s = .next u ∧
      u.job = { s.job with
        st := .rewinding, taken := [], started := [], frozen := true, masonStop := true, runs := [], isOpen := false,
        replay := none, rewind := some { cmd := some k, lift := k.lift } } ∧
      u.chain = { s.chain with ready := false } ∧
      (∀ m, m < 4 → (u.mason m).runs = [] ∧ (u.mason m).wait = 0 ∧ (u.mason m).table = (s.mason m).table ∧
        (u.mason m).slots = (s.mason m).slots) ∧
      u.msn.out = none ∧ u.msn.ret = none ∧ u.msn.recv = none ∧ u.msn.outWait = [] ∧ u.msn.retBases = [] ∧
      u.msn.mirrorDone = false ∧
      u.msn.lift = { s.msn.lift with updCopies := [] } ∧
      (∀ p, (u.port p).ringHead = (s.port p).ringHead + BitVec.ofNat 64 (dropped.filter (fun x => x.port = p)).length) ∧
      ((∀ m, m < 4 → (s.mason m).runs = []) → u.mem = s.mem) ∧
      u.mortar = { s.mortar with
        joins := s.mortar.joins.filter (fun f => !s.alone f)
        frags := s.mortar.frags.filter (fun f => f.waiting || !s.isSplit f || !s.alone f) } ∧
      u.cores = s.cores ∧ u.clusters = s.clusters ∧ u.ft = s.ft ∧ u.net = s.net ∧ u.pwr = s.pwr) ∧
  (∀ (s : State) r, s.job.rewind = some r → r.resume = false →
    (s.quiesced = false → exec .stopQuiesced s = .next s) ∧
    (s.quiesced = true → s.job.st ≠ .failed →
      (∃ m, placeSpares s.start.img.spares (s.plb.replacements ++
        s.markedCores.map (fun c => { die := coreDie c, grid := coreGrid c })) = some m) →
      ∃ v, exec .stopQuiesced s = .next (match r.cmd with
          | some k => v.complete k
          | none => v) ∧
        v.job.rewind = none ∧ v.job.frozen = false ∧ v.job.masonStop = false ∧ v.job.st = s.job.st ∧
        (r.shed = false → v.job.holds = [] ∧ v.job.stopLift = some r.lift) ∧
        (∀ k, r.cmd = some k → v.job.stops = satAdd s.job.stops 1) ∧
        v.ft.broken = false ∧ v.ft.installed = s.ft.retired ∧ v.ft.retired = s.ft.retired ∧
        v.ft.parity = (if v.msn.lift.closed ≠ s.msn.lift.closed ∧ s.ft.faceValid = true then v.msn.lift.closed.getLsbD 0
          else s.ft.parity) ∧
        v.mortar.sent = [] ∧ v.mortar.recv = [] ∧ v.mortar.epoch = s.msn.lift.closed ∧ v.mortar.red = none ∧
        v.mortar.loading = false ∧
        (∀ k, (v.cluster k).slots = [] ∧ (v.cluster k).brokenClm = false ∧ (v.cluster k).brokenSpad = 0) ∧
        (∀ c, c < 576 → (v.core c).run.state = .idle ∧ (v.core c).run.holds = false ∧ (v.core c).run.loaded = 0 ∧
          (∀ t, t < 4 → v.strand c t = {}) ∧ (v.core c).arr.bank = [] ∧ (v.core c).regs.marks = []) ∧
        (let l := s.msn.lift
         let intact := l.prevIntact && decide (l.openState = 0)
         v.msn.lift.openState = 0 ∧ v.msn.lift.closeCmd = none ∧ v.msn.lift.updTaken = none ∧
         (l.closedValid = true → l.closed = r.lift → v.msn.lift.closed = r.lift ∧ v.msn.lift.closedValid = true ∧
           v.msn.lift.prevIntact = intact) ∧
         (l.closedValid = true → l.closed = r.lift + 1 → intact = true → v.msn.lift.closed = r.lift ∧
           v.msn.lift.closedValid = true ∧ v.msn.lift.prevIntact = false) ∧
         (l.closed ≠ r.lift → (l.closed = r.lift + 1 → intact = false) → v.msn.lift.closedValid = false))))

/-- R369, R370, R445: a RESUME places the face window of its restart block, clears its extents, and has every group
re-faced; it ends in SET once that is done and its arrival tally has reached its value, or in HELD at step S4 and
below. The model's own readings and choices behind it: log entries 35, 46, 64. -/
def Obligations.Resume : Prop :=
  (∀ (k : Cmd) (s : State), s.starts k 6 1 →
    let a := s.acting k
    let b := a.restartAt (addrOff k.a)
    let f : State := { a with ft := s.ft.placed b.base0 b.base1 b.len k.lift, job := { a.job with lift := k.lift } }
    let cleared (key : Nat) : Prop := ∃ e ∈ b.extents, ∃ i, i < e.2 ∧
      f.place (BitVec.ofNat 64 (0xFFF * 2 ^ 52 + e.1) + BitVec.ofNat 64 i) true = .mem key ∧ f.boundAt key = false
    ∃ u, exec (.rewindResume k) s = .next u ∧ { u.ft with pchs := s.ft.pchs } = f.ft ∧
      (∀ key, cleared key → u.mem.byte key = 0) ∧ s.memFrame u cleared ∧
      (∀ m, m < 4 → u.mason m = { s.mason m with next := 0, runs := [], wait := 0 }) ∧ u.msn.lift = s.msn.lift ∧
      u.job = { f.job with rewind := some {
        cmd := some k, resume := true, lift := k.lift, arrival := b.arrival, arrivalValue := b.value } } ∧
      u.cores = s.cores ∧ u.chain = s.chain ∧ u.ports = s.ports) ∧
  (∀ (s : State) r, s.job.rewind = some r → r.resume = true →
    (s.refaced = false ∨ s.tallyReached r.arrival r.arrivalValue = false → exec .resumeArrivalReached s = .next s) ∧
    (s.refaced = true → s.tallyReached r.arrival r.arrivalValue = true →
      ∃ u, exec .resumeArrivalReached s = .next u ∧ u.job.rewind = none ∧ u.job.stopLift = none ∧
        u.job.resumes = satAdd s.job.resumes 1 ∧ u.job.runs = s.job.runs ∧
        (s.pwr.step.toNat < 4 → u.job.st = .set ∧ u.job.holds = s.job.holds) ∧
        (4 ≤ s.pwr.step.toNat → u.job.st = .held ∧ u.job.prior = .set ∧ u.job.holds = s.job.holds ++ [7]) ∧
        u.cores = s.cores ∧ u.ft = s.ft ∧ u.msn = s.msn ∧
        (∀ k, r.cmd = some k → u.mem = (s.complete k).mem ∧ u.net = (s.complete k).net) ∧
        (r.cmd = none → u.mem = s.mem ∧ u.net = s.net)))

/-- R361, R367, R379, R449: the expiry of rw_quiesce has a STOP that has not quiesced reset the compute domain, at once
or, while a dump is captured, after it.

R376, R377, R378: a suspect replay, taken in RUNNING or in HELD, holds the module with cause REPLAY; once it has
quiesced, or rw_quiesce has expired, it takes the contexts of the cores in RUNNING as its suspects. Each runs in
turn, from its context as its save area holds it, until its course has ended or the time is up; its outcome is
recorded, the next follows, and after the last the report is written and the command completes. The model's own
readings and choices behind it: log entries 63, 64, 65, 98. -/
def Obligations.ExpiryAndReplay : Prop :=
  (∀ (s : State) r, s.job.rewind = some r → r.resume = false → s.plb.computing = none → s.quiesceReset = false →
    s.quiesced = false →
    (s.plb.dumpState = 1 → exec .rwQuiesceExpiry s = .next { s with plb := { s.plb with
      resetReq := s.plb.resetReq ++ [(1, if r.shed then 5 else 3)] } }) ∧
    (s.plb.dumpState ≠ 1 → ∃ u, exec .rwQuiesceExpiry s = .next u ∧
      u.plb.computing = some (if r.shed then 5 else 3) ∧ u.plb.resetDomain = 1 ∧
      u.plb.resetSource = (if r.shed then 5 else 3) ∧ u.plb.resetCount = satAdd s.plb.resetCount 1 ∧
      u.ft = { s.ft with selfRefresh := true } ∧
      (∀ c, c < 576 → (u.core c).eng = {} ∧ (u.core c).regs = {} ∧ (u.core c).run.state = .reset) ∧
      (s.net.flight.filter (fun f => !s.ownOp f.pkt)) <+: u.net.flight ∧
      (∀ f ∈ u.net.flight, f ∈ s.net.flight → s.ownOp f.pkt = false) ∧
      (∀ k, k < 72 → (u.cluster k).brokenClm = true ∧ (u.cluster k).slots = []) ∧
      u.msn.lift = s.msn.lift ∧ u.job = s.job ∧ u.chain = s.chain)) ∧
  (∀ (s : State), s.quiesced = true ∨ s.plb.computing ≠ none ∨ s.quiesceReset = true ∨
    (s.job.rewind = none ∧ s.job.replay = none) → exec .rwQuiesceExpiry s = .next s) ∧
  (∀ (k : Cmd) (s : State), k ∈ s.job.started → k.opcode = 11 → s.job.st = .running ∨ s.job.st = .held →
    s.job.rewind = none →
    let len := (s.job.activeRun.map (fun p => p.courseLen)).getD 0
    let r : Replay := { cmd := k, course := k.a, limit := if k.b = 0 then 4 * len else 100 * k.b.toNat }
    let holds (u : State) : Prop :=
      (s.job.st = .running → s.heldFor u .replay) ∧
      u.job = { (s.acting k).job with
        st := .held, prior := if s.job.st = .running then .running else s.job.prior, frozen := true
        masonStop := true, holds := s.job.holds ++ [6]
        replay := some r } ∧
      u.chain = { s.chain with ready := false } ∧
      u.cores = s.cores ∧ u.mem = s.mem ∧ u.msn = s.msn ∧ u.net = s.net ∧ u.ft = s.ft ∧ u.clusters = s.clusters
    (s.quiesced = false → ∃ u, exec (.suspectReplay k) s = .next u ∧ holds u) ∧
    (s.quiesced = true → ∃ h, holds h ∧ h.replayGoesOn (exec (.suspectReplay k) s)
      { r with begun := true, beganAt := s.chain.time }
      ((List.range 576).filter (fun c => (s.core c).run.state = .running)))) ∧
  (∀ (s : State) r, s.job.rewind = none → s.job.replay = some r → r.begun = false →
    let goesOn (i : Instr) : Prop := s.replayGoesOn (exec i s) { r with begun := true, beganAt := s.chain.time }
      ((List.range 576).filter (fun c => (s.core c).run.state = .running))
    (s.quiesced = true → goesOn .stopQuiesced) ∧
    (s.quiesced = false → exec .stopQuiesced s = .next s) ∧
    (s.quiesced = false → s.plb.computing = none → s.quiesceReset = false → goesOn .rwQuiesceExpiry)) ∧
  (∀ (s : State) r c, s.job.replay = some r → r.current = some c →
    let k := (s.core c).run
    let ended (o : BitVec 4) (busy : Word) : Prop := s.replayGoesOn (exec .suspectDone s)
      { r with current := none, done := r.done ++ [s.suspectAt c o busy] } r.left
    let busy : Word := (SMap.get {} k.clog k.head.toNat).busy.setWidth 64
    (k.state = .done → ended 1 busy) ∧ (k.state = .doneFault → ended 3 busy) ∧
    (k.state ≠ .done → k.state ≠ .doneFault → r.beganAt + r.limit ≤ s.chain.time →
      ended 2 (s.coreCycle c - k.start)) ∧
    (k.state ≠ .done → k.state ≠ .doneFault → s.chain.time < r.beganAt + r.limit →
      exec .suspectDone s = .next s)) ∧
  (∀ (s : State), s.job.replay = none ∨ (∃ r, s.job.replay = some r ∧ r.current = none) →
    exec .suspectDone s = .next s)

/-! ## Mirrors, drains and restores -/

/-- R338, R339, R341, R344, R485: a mirror starts with the image of its lift to send, waits for the one in progress to
the same partner, or with out_en 0 ends at once; a return starts with the slot held for the source.

R339, R340, R445, R485: a chunk goes to its buffer of the ring as one `put.s` of a Mason, while a buffer is free and
nothing pauses the traffic; a mirror that is over is recorded, the closed lift counts as mirrored with the latest
taken for it, and the next that waits starts, or with out_en 0 ends; a chunk that has come is put into the mirror
slot and its buffer given back. The model's own readings and choices behind it: log entries 22, 33, 46, 56, 57, 58,
59. -/
def Obligations.Mirrors : Prop :=
  (∀ (k : Cmd) (s : State),
    let a := s.acting k
    let b := parseMirror (a.fastBytes (addrOff k.a) 256)
    (s.starts k 9 0 →
      (s.msn.out = none → b.outEn = true → ∃ u, exec (.mirrorOut k) s = .next u ∧
        u.msn.blk = some b ∧ u.msn.out = some {
          cmd := k, lift := k.lift, image := ((s.imagePieces k.lift).map (fun p => p.2)).sum,
          doneBase := s.tallyVal k.done } ∧
        u.msn.kOut = (if s.msn.blk.any (fun x =>
          decide (x.partner = b.partner ∧ x.outRing = b.outRing ∧ x.outFree = b.outFree)) then s.msn.kOut else 0) ∧
        u.msn.mirrorDone = (s.msn.mirrorDone && decide (k.lift ≠ s.msn.lift.closed)) ∧
        u.msn.mirrorLast = (if k.lift = s.msn.lift.closed then some k else s.msn.mirrorLast) ∧
        u.msn.units = s.msn.units ∧ u.msn.lift = s.msn.lift ∧ { u with msn := s.msn, job := s.job } = s) ∧
      (s.msn.out = none → b.outEn = false → s.msn.outWait = [] → ∃ v : State,
        exec (.mirrorOut k) s = .next (v.complete k) ∧
        v.msn.blk = some b ∧ v.msn.out = none ∧ v.msn.lift = s.msn.lift ∧
        (k.lift = s.msn.lift.closed → v.msn.mirrorDone = true) ∧ { v with msn := s.msn, job := s.job } = s) ∧
      (∀ j x, s.msn.out = some j → s.msn.blk = some x → x.partner = b.partner →
        exec (.mirrorOut k) s = .next { a with msn := { s.msn with
          mirrorDone := s.msn.mirrorDone && decide (k.lift ≠ s.msn.lift.closed), outWait := s.msn.outWait ++ [k]
          mirrorLast := if k.lift = s.msn.lift.closed then some k else s.msn.mirrorLast } })) ∧
    (s.starts k 9 1 →
      (∀ base, s.msn.ret = none → s.msn.retBases.find? (fun x => x.1 = k) = some (k, base) →
        exec (.mirrorReturn k) s = .next { a with msn := { s.msn with
          retBases := s.msn.retBases.filter (fun x => x.1 ≠ k), ret := some {
            cmd := k, lift := k.lift, image := (s.msn.blk.map (fun x => x.inSlot)).getD 0, doneBase := s.tallyVal k.done,
            freeBase := base } } }) ∧
      (s.msn.ret ≠ none → exec (.mirrorReturn k) s = .next s))) ∧
  ((∀ (s : State) m t j b, s.masonsWork = true → s.paused = false → s.anyTag = some (m, t) →
    s.msn.out = some j → s.msn.blk = some b → j.allSent = false →
    (s.msn.kOut < 8 ∨ s.tallyReached b.outFree (b.outBase + BitVec.ofNat 64 (s.msn.kOut - 7)) = true) →
    (∀ p, packetModule p = addrModule (b.outRing + BitVec.ofNat 64 (s.msn.kOut % 8 * 2 ^ 20)) → s.routable p = true) →
    let part := slice (s.image j.lift) j.offset 1048512
    let dst := b.outRing + BitVec.ofNat 64 (s.msn.kOut % 8 * 2 ^ 20)
    let data := chunkHead (decide (j.image ≤ j.offset + 1048512)) part.length j.lift j.offset j.cmd.done ++ part
    let runs := putRuns { s.masonHdr (m, t) with sig := true, aux := j.cmd.b } dst data
    addrModule (dst + BitVec.ofNat 64 1048575) = addrModule dst →
    ∃ u, exec .mirrorChunkSend s = .next u ∧
      u.msn.out = some { j with offset := j.offset + min 1048512 (j.image - j.offset),
                                allSent := decide (j.image ≤ j.offset + 1048512), count := j.count + 1 } ∧
      u.msn.kOut = s.msn.kOut + 1 ∧ u.net.flight = s.net.flight ++ setOut (firstRuns runs) ∧
      SMap.find? (u.mason m).slots t = some { op := 0x62, branches := [branchOf dst runs] } ∧
      { u with msn := s.msn, net := s.net } = s.readImage j.lift j.offset 1048512) ∧
  (∀ (s : State), s.masonsWork = false ∨ s.paused = true →
    exec .mirrorChunkSend s = .next s ∧ exec .mirrorChunkTake s = .next s) ∧
  (∀ (s : State) j, s.masonsWork = true → s.msn.out = some j → j.allSent = true →
    s.tallyReached j.cmd.done (j.doneBase + 1) = true →
    let recorded (u : State) : Prop :=
      u.msn.lift = { s.msn.lift with mirroredOut := j.lift, seq := s.msn.lift.seq + 1 } ∧
      u.logGet 0x5218 = min (s.logGet 0x5218 + 1) (2 ^ 64 - 1)
    let latest := s.msn.mirrorDone || decide (j.cmd.lift = s.msn.lift.closed ∧ s.msn.mirrorLast = some j.cmd)
    (s.msn.outWait = [] → ∃ u, exec .mirrorComplete s = .next u ∧ u.msn.out = none ∧ recorded u ∧
      u.msn.mirrorDone = latest ∧
      { u with msn := s.msn, plb := s.plb, mem := s.mem } = s) ∧
    (∀ k rest, s.msn.outWait = k :: rest →
      let b := parseMirror (s.fastBytes (addrOff k.a) 256)
      (b.outEn = true → ∃ u i, exec .mirrorComplete s = .next u ∧ recorded u ∧ u.msn.mirrorDone = latest ∧
        u.msn.blk = some b ∧ u.msn.out = some i ∧ i.cmd = k ∧ i.lift = k.lift ∧ i.offset = 0 ∧ u.msn.outWait = rest) ∧
      (b.outEn = false → rest = [] → ∃ v : State, exec .mirrorComplete s = .next (v.complete k) ∧ recorded v ∧
        v.msn.blk = some b ∧ v.msn.out = none ∧ v.msn.outWait = []))) ∧
  (∀ (s : State) m t b,
    let off := addrOff b.inRing + s.msn.kIn % 8 * 2 ^ 20
    let h := parseChunk (s.fastBytes off 64)
    let p : Packet := { s.masonHdr (m, t) with op := 4, dst := b.inFree, aux := 1 }
    s.masonsWork = true → s.paused = false → s.msn.recv = none → s.anyTag = some (m, t) → s.msn.blk = some b →
    b.inEn = true → s.tallyReached b.inFull (b.inBase + BitVec.ofNat 64 (s.msn.kIn + 1)) = true → h.gen = 1 →
    h.rsv = false → h.offset + h.len ≤ b.inSlot → s.partnerRestore = false → s.msn.recvBad = false →
    s.routable p = true →
    let at_ := b.inRegion + h.lift.toNat % 2 * b.inSlot + h.offset
    s.slowBad at_ h.len = [] →
    ∃ u, exec .mirrorChunkTake s = .next u ∧ u.msn.kIn = s.msn.kIn + 1 ∧
      u.msn.recv = (if h.last then some (true, h.lift, h.done) else none) ∧
      (∀ i key, i < h.len → s.slowPlace (at_ + i) = some key →
        u.mem.byte key = (s.fastBytes (off + 64) h.len).getD i 0) ∧
      s.memFrame u (fun key => ∃ i, i < h.len ∧ s.slowPlace (at_ + i) = some key) ∧
      u.net.flight = s.net.flight ++ setOut [p] ∧ u.msn.lift = s.msn.lift ∧
      { u with msn := s.msn, net := s.net, mem := s.mem } =
        (s.engineRead (fastAddr off) 64).engineRead (fastAddr (off + 64)) h.len))

/-- R342, R343, R400, R410: a drain holds a pin on its lift until its extents are in host memory; a timeout ends it with
HOST_ERROR.

R343, R344, R334, R410: a restore from hosts writes its extents, and a committing one makes its lift the closed one;
a restore from a partner gets the face halves, but not from shedding step S2 on, and ends when its chunks and its
face planes are written. The model's own readings and choices behind it: log entries 48, 60, 61, 62. -/
def Obligations.Transfers : Prop :=
  ((∀ (k : Cmd) (s : State), k ∈ s.job.started → k.opcode = 7 →
    k.lift = s.msn.lift.closed → s.msn.lift.pinsClosed ≠ 0xFFFF →
    ∃ u, exec (.drain k) s = .next u ∧
      u.msn.lift = { s.msn.lift with
        pinsClosed := s.msn.lift.pinsClosed + 1, drainPin := some k.lift, seq := s.msn.lift.seq + 1 } ∧
      u.msn.xfer = { s.msn.xfer with kind := 1, bytes := 0, drain := some k } ∧
      { u with msn := s.msn, job := s.job, mem := s.mem } = s) ∧
  (∀ (s : State) k, s.msn.xfer.drain = some k → s.msn.lift.drainPin = some s.msn.lift.closed →
    s.msn.lift.pinsClosed ≠ 0 →
    let ended (v : State) : Prop :=
      v.msn.lift = { s.msn.lift with
        pinsClosed := s.msn.lift.pinsClosed - 1, drainPin := none, seq := s.msn.lift.seq + 1 } ∧
      v.msn.xfer.drain = none ∧ v.msn.xfer.cmd = s.msn.xfer.cmd ∧
      (s.msn.xfer.cmd = none → v.msn.xfer.kind = 0) ∧ v.msn.units = s.msn.units
    (s.paused = true ∨ s.msn.selfRefresh = true → exec .drainComplete s = .next s) ∧
    (s.paused = false → s.msn.selfRefresh = false →
      let es := s.cmdExtents k
      ∃ v : State, exec .drainComplete s = .next (v.complete k) ∧ ended v ∧
        v.out = s.out ++ es.map (fun e => .hostWrite (s.extentPort e) e.host (s.readSlow e.slow e.length)) ∧
        v.logGet 0x5210 = min (s.logGet 0x5210 + 1) (2 ^ 64 - 1) ∧
        { v with msn := s.msn, plb := s.plb, mem := s.mem, out := s.out } = s) ∧
    (∃ v : State, exec (.hostAccessTimeout true) s = .next (v.refuse k .hostError) ∧ ended v ∧
      { v with msn := s.msn, mem := s.mem } = s))) ∧
  ((∀ (k : Cmd) (s : State),
    let a := s.acting k
    let x : Xfer := { s.msn.xfer with kind := 2, bytes := 0, cmd := some k, chunksDone := false, facesDone := false,
                                      faceWork := [] }
    (s.starts k 8 0 → exec (.restoreStage k) s = .next { a with msn := { s.msn with xfer := x } }) ∧
    (s.starts k 8 1 → exec (.restoreCommit k) s = .next { a with msn := { s.msn with xfer := x } }) ∧
    (s.starts k 8 2 →
      let ds := (a.descBytes (addrOff k.a) k.b.toNat).map parseUpd
      ∃ v : State, exec (.restorePartner k) s = .next v.faceGets ∧
        (∀ m, m < 4 → v.mason m = { s.mason m with
          table := ((List.range ds.length).zip ds).filter (fun p => decide (p.2.mason = m)), next := 0, wait := 0 }) ∧
        v.msn.xfer = { x with kind := 3, faceWork := ds.flatMap (fun d => d.facePieces k.lift k.c) } ∧
        { v with msn := { v.msn with units := s.msn.units, xfer := s.msn.xfer }, job := s.job } = s ∧
        (2 ≤ s.pwr.step.toNat → v.faceGets = v))) ∧
  (∀ (s : State) k data, s.msn.xfer.cmd = some k →
    let es := s.cmdExtents k
    let n := (es.map (fun e => e.length)).sum
    let ended (v : State) : Prop :=
      v.msn.xfer.cmd = none ∧ v.msn.xfer.kind = (if s.msn.xfer.drain.isSome then 1 else 0) ∧
      v.logGet 0x5228 = min (s.logGet 0x5228 + 1) (2 ^ 64 - 1) ∧ v.cores = s.cores ∧ v.job = s.job ∧ v.ft = s.ft
    let committed (v : State) : Prop :=
      v.msn.lift.closed = k.lift ∧ v.msn.lift.closedValid = true ∧ v.msn.lift.openState = 0 ∧
      v.msn.lift.prevIntact = false ∧ v.msn.mirrorDone = false
    (s.paused = true ∨ s.msn.selfRefresh = true → exec (.restoreComplete data) s = .next s) ∧
    (s.paused = false → s.msn.selfRefresh = false →
      (k.sub ≠ 2 → data.length = n → ∃ v : State, exec (.restoreComplete data) s = .next (v.complete k) ∧ ended v ∧
        (k.sub ≠ 1 → v.msn.lift = s.msn.lift) ∧ (k.sub = 1 → committed v) ∧
        (∀ e, es = [e] → k.sub ≠ 1 →
          (∀ i key, i < e.length → s.slowPlace (e.slow + i) = some key → v.mem.byte key = data.getD i 0) ∧
          s.memFrame v (fun key => ∃ i, i < e.length ∧ s.slowPlace (e.slow + i) = some key))) ∧
      (k.sub = 2 → s.msn.xfer.chunksDone = true → s.msn.xfer.facesDone = true →
        ∃ v : State, exec (.restoreComplete data) s = .next (v.complete k) ∧ ended v ∧ committed v)) ∧
    (k.sub ≠ 2 → ∃ v : State, exec (.hostAccessTimeout false) s = .next (v.refuse k .hostError) ∧ v.msn.xfer.cmd = none ∧
      v.msn.lift = s.msn.lift ∧ { v with msn := s.msn } = s)))

/-! ## Masons and lifts -/

/-- R15, R20, R325, R334, R335, R351: the next group of a Mason's table starts once its conditions hold, and its first
write opens the lift; until then the Mason shows what it waits for; under SKIP_STEP with a dirty verdict it
completes unwritten.

R16, R20, R313, R334, R337: the close makes the open lift the closed one, with the pins of the closed lift now on
the lift before, and the ledgers start their next epoch; a discard ends the open lift unwritten. The model's own
readings and choices behind it: log entries 46, 49, 50, 51, 93. -/
def Obligations.GroupsAndLifts : Prop :=
  (∀ (m : MasonId) (s : State) i d k,
    let x := s.mason m
    let l := s.msn.lift
    let lift := l.closed + 1
    s.masonIdle m = false → x.current = none → x.table[x.next]? = some (i, d) → s.refacing = false →
    l.updTaken = some k → k.lift = lift →
    let w := s.groupWait d lift
    let slot := leNat (s.fastBytes (addrOff d.scaleSlot) 8)
    let stepped (y : Mason) : Mason := { y with next := x.next + 1, index := BitVec.ofNat 12 x.next, wait := 0 }
    let r := (s.bulkRead (addrOff d.scaleSlot) 8).readAll (s.targetReads d)
    (w ≠ 0 → ∃ u, exec (.groupStart m) s = .next u ∧
      u.mason m = { x with wait := w, state := if x.runs.any (fun g => decide (g.phase = .face)) then 4 else 1 } ∧
      (∀ n, n ≠ m.val → u.mason n = s.mason n) ∧ { u with msn := { u.msn with units := s.msn.units } } = s) ∧
    (w = 0 → ∀ c, s.closeFor lift = some c →
      (slot / 2 ^ 32 = 0 ∨ c.sub ≠ 0 → ∃ u, exec (.groupStart m) s = .next u ∧
        u.mason m = { stepped x with
          runs := x.runs ++ [{ idx := i, desc := d, phase := if d.frozen then .carry else .rule, lift := lift,
                               scale := BitVec.ofNat 32 slot, zeroBad := decide (c.sub = 1), ids := s.groupIds d }],
          state := if d.frozen then 5 else 2 } ∧
        u.msn.lift = (if l.openState = 0 then
          { l with openState := 1, prevIntact := false, seq := l.seq + 1, updWrote := true }
          else { l with updWrote := true }) ∧
        (l.openState ≠ 0 → u.mem = s.mem) ∧ { u with msn := s.msn, mem := s.mem } = r) ∧
      (slot / 2 ^ 32 ≠ 0 → c.sub = 0 →
        (1 < l.updLeft → ∃ u, exec (.groupStart m) s = .next u ∧
          u.mason m = { stepped x with done := satAdd x.done 1, state := (u.mason m).state } ∧
          u.msn.lift = { l with skipped := true, updLeft := l.updLeft - 1 } ∧ { u with msn := s.msn } = r) ∧
        (l.updLeft = 1 → ∃ u, exec (.groupStart m) s = .next u ∧
          u.msn.lift.openState = (if l.updWrote then 2 else l.openState) ∧ u.msn.lift.skipped = true)))) ∧
  (∀ (s : State) k x, s.msn.lift.closeCmd = some k → s.liftFree = true → k.lift = s.msn.lift.closed + 1 →
    s.msn.lift.updTaken = some x → x.lift = k.lift → s.msn.lift.updLeft = 0 →
    let l := s.msn.lift
    (l.openState = 2 → l.skipped = false → s.tallyReached k.a k.b = true → s.msn.mirrorDone = true →
      ∃ v : State, exec .liftCloseCommit s = .next (v.complete k) ∧
        v.msn.lift = { l with
          closed := l.closed + 1, openState := 0, prevIntact := true, pinsPrev := l.pinsClosed, pinsClosed := 0,
          seq := l.seq + 1, closeCmd := none, updTaken := none, updWrote := false, skipped := false } ∧
        v.msn.mirrorDone = false ∧ v.mortar = { s.mortar with sent := [], recv := [], epoch := l.closed + 1 } ∧
        v.logGet 0x5200 = min (s.logGet 0x5200 + 1) (2 ^ 64 - 1) ∧
        (∀ m, m < 4 → parseLift (v.mem.read (slowKey (m * 2 ^ 38)) 64) = some {
          closed := l.closed + 1, closedValid := l.closedValid, openState := 0, prevIntact := true, pinsPrev := l.pinsClosed,
          pinsClosed := 0, mirroredOut := l.mirroredOut, receivedIn := l.receivedIn, seq := l.seq + 1 }) ∧
        { v with msn := s.msn, mortar := s.mortar, plb := s.plb, mem := s.mem } = s) ∧
    (l.openState ≠ 2 ∨ l.skipped = true ∨ s.tallyReached k.a k.b = false ∨ s.msn.mirrorDone = false →
      exec .liftCloseCommit s = .next s) ∧
    (l.skipped = true → l.updWrote = false → k.sub = 0 →
      ∃ v : State, exec .liftDiscard s = .next (v.complete k) ∧
        v.msn.lift = { l with openState := 0, seq := l.seq + 1, closeCmd := none, updTaken := none, skipped := false } ∧
        v.mortar = { s.mortar with sent := [], recv := [], epoch := l.closed } ∧
        { v with msn := s.msn, mortar := s.mortar, mem := s.mem } = s) ∧
    (l.skipped = false ∨ l.updWrote = true ∨ k.sub ≠ 0 → exec .liftDiscard s = .next s))

/-- R326–R330, R369: the passes of a group: what each writes, the face halves it sends as one multicast `put.s`, and how
the group goes on. A pass that has no engine slot to send with waits for one. The model's own readings and choices
behind it: log entries 33, 53, 54, 55. -/
def Obligations.MasonPasses : Prop :=
  ∀ (m : MasonId) (s : State) g, s.masonIdle m = false → (s.mason m).current = some g →
    let d := g.desc
    let others (u : State) : Prop :=
      (∀ n, n ≠ m.val → u.mason n = s.mason n) ∧ u.msn.lift = s.msn.lift ∧ u.cores = s.cores ∧ u.job = s.job ∧
      u.ft = (s.readPass g).ft
    let inSlot (key : Nat) : Prop :=
      ∃ o, o < 24 * d.count ∧ s.slowPlace (d.recOff + 24 * d.count * (g.lift.toNat % 2) + o) = some key
    let oneF : W32 := 0x3F800000
    let decayed (w v : W32) : W32 := fsub w (fmul d.eta (fadd v (fmul d.lam w)))
    let mean (x : ElemIn) : W32 := fadd (fmul d.beta1 x.m) (fmul (fsub oneF d.beta1) x.g)
    let square (x : ElemIn) : W32 := fadd (fmul d.beta2 x.v) (fmul (fsub oneF d.beta2) (fmul x.g x.g))
    let ratio (x : ElemIn) : W32 := fdiv (fmul d.c1 (mean x)) (fadd (fsqrt (fmul d.c2 (square x))) d.eps)
    let rule (x : ElemIn) : ElemOut :=
      if d.rule = 0 then
        let v := fadd (fmul d.beta1 x.m) x.g
        { w := decayed x.w v, m := v, v := x.v }
      else if d.rule = 1 then { w := decayed x.w (ratio x), m := mean x, v := square x }
      else if d.rule = 2 then
        { w := decayed x.w (signF (mean x)), m := fadd (fmul d.beta2 x.m) (fmul (fsub oneF d.beta2) x.g), v := x.v }
      else { w := fadd (ratio x) (fmul d.lam x.w), m := mean x, v := square x }
    let l := (s.passIn g).map rule
    let bad := (l.filter (fun o => (d.rule ≠ 3 && notFinite o.w) || notFinite o.m || (d.usesV && notFinite o.v))).length
    let showed (u : State) (v : State) : Prop :=
      u.net = v.net ∧ u.mem = v.mem ∧ (u.mason m).slots = (v.mason m).slots
    (g.phase = .rule → g.reface = false → d.rule = 3 → ∃ u, exec (.rulePassEnd m) s = .next u ∧ others u ∧
      u.mem = (s.writeRule g l).mem ∧ s.memFrame u inSlot ∧ u.net = s.net ∧
      (u.mason m).runs = (s.mason m).runs.map (fun x => if x.idx = g.idx then { x with
        phase := .trustDue, sw := sumSquares ((s.passIn g).map (fun x => x.w)),
        sd := sumSquares (l.map (fun o => o.w)) } else x) ∧ (u.mason m).state = 3 ∧
      (u.mason m).nonfinite = satAdd (s.mason m).nonfinite bad) ∧
    (g.phase = .trustDue → ∃ u, exec (.trustPassStart m) s = .next u ∧ others u ∧ u.mem = s.mem ∧ u.net = s.net ∧
      (u.mason m).runs = (s.mason m).runs.map (fun x => if x.idx = g.idx then { x with phase := .trust } else x) ∧
      (u.mason m).state = 3) ∧
    (s.masonTag m = none →
      let waits : State := s.modMason m (fun x => { x with wait := 6 })
      (g.phase = .trust → exec (.trustPassEnd m) s = .next waits) ∧
      (g.phase = .carry ∨ (g.phase = .rule ∧ (g.reface = true ∨ d.rule ≠ 3)) → exec (.rulePassEnd m) s = .next waits)) ∧
    (∀ t, s.masonTag m = some t →
      (g.phase = .rule → g.reface = true → ∃ u, exec (.rulePassEnd m) s = .next u ∧ others u ∧ u.mem = s.mem ∧
        showed u (s.sendFaces m g g.lift (s.plane d g.lift 0 2)) ∧
        (u.mason m).runs = (s.mason m).runs.filter (fun x => decide (x.idx ≠ g.idx))) ∧
      (g.phase = .rule → g.reface = false → d.rule ≠ 3 → ∃ u, exec (.rulePassEnd m) s = .next u ∧ others u ∧
        s.memFrame u inSlot ∧
        showed u ((s.writeRule g l).sendFaces m g g.lift (l.flatMap (fun o => leBytes 2 (o.w.toNat / 2 ^ 16)))) ∧
        (u.mason m).nonfinite = satAdd (s.mason m).nonfinite bad) ∧
      (g.phase = .trust → ∃ u, exec (.trustPassEnd m) s = .next u ∧ others u ∧ s.memFrame u inSlot ∧
        (let f := trustFactor g.sw g.sd
         let ws := List.zipWith (fun w v => fsub w (fmul d.eta (fmul f v))) (s.weights g)
           (floats (s.plane d g.lift 12 4))
         let mv := (floats (s.plane d g.lift 4 4)).zip (floats (s.plane d g.lift 8 4))
         showed u ((s.writeBeds g ws).sendFaces m g g.lift (ws.flatMap (fun w => leBytes 2 (w.toNat / 2 ^ 16)))) ∧
         (u.mason m).nonfinite = satAdd (s.mason m).nonfinite ((ws.zip mv).filter (fun p =>
           notFinite p.1 && !notFinite p.2.1 && !notFinite p.2.2)).length)) ∧
      (g.phase = .carry → g.reface = false → (∃ ids, g.ids = some ids ∧ ids ≠ []) → s.slowBad d.recOff (48 * d.count) = [] →
        (∀ x ∈ (s.mason m).runs, x = g ∨ (x.idx ≠ g.idx ∧ x.over = false)) → g.acked = false →
        ∃ u, exec (.rulePassEnd m) s = .next u ∧ others u ∧ s.memFrame u inSlot ∧
          (∀ p ∈ [(0, 2), (2, 2), (4, 4), (8, 4)], u.plane d g.lift p.1 p.2 = s.plane d (g.lift - 1) p.1 p.2) ∧
          u.net = (s.sendFaces m g g.lift (s.plane d (g.lift - 1) 0 2)).net ∧
          (u.mason m).frozen = satAdd (s.mason m).frozen 1 ∧
          (u.mason m).runs = (s.mason m).runs.map (fun x =>
            if x.idx = g.idx then { x with phase := .sent, slot := some t, faceDone := true } else x)))

/-- R323, R326, R334: the face multicast of a group, and its face pass, which reads the new face halves back from the
module's own buffer; a group that is over is a descriptor done, and the last one makes the open lift COMPLETE. The
model's own readings and choices behind it: log entries 22, 33, 55. -/
def Obligations.FacePasses : Prop :=
  (∀ (m : MasonId) (s : State) g lift faces,
    let y (f : GroupRun → GroupRun) : List GroupRun := (s.mason m).runs.map (fun x => if x.idx = g.idx then f x else x)
    let o := s.faceOff g.desc lift
    let u := s.sendFaces m g lift faces
    (g.ids = none ∨ g.ids = some [] → (u.mason m).runs = y (fun x =>
      { x with ownLanded := true, acked := true, phase := .sent }) ∧ { u with msn := s.msn } = s) ∧
    (∀ ids t, g.ids = some ids → ids ≠ [] → s.masonTag m = some t → o + faces.length ≤ 2 ^ 46 →
      (∀ i ∈ ids, i < 4096 ∧ (s.isSelf i || !s.absent i) = true) →
      let hdr (i : Nat) : Packet :=
        { s.masonHdr (m.val, t) with sig := true, mcb := true, aux := withModule g.desc.arrival i }
      let brs : List (Word × List (List Packet)) := ids.map (fun i =>
        (withModule (s.addrOf o) i, putRuns (hdr i) (withModule (s.addrOf o) i) faces))
      u.net.flight = s.net.flight ++ setOut (firstOf brs) ∧
      SMap.find? (u.mason m).slots t = some { op := 0x62, mc := true, branches := brs.map (fun b => branchOf b.1 b.2) } ∧
      (u.mason m).runs = y (fun x => { x with phase := .sent, slot := some t }) ∧
      { u with msn := s.msn, net := s.net } = s)) ∧
  (∀ (m : MasonId) (s : State) g, s.masonIdle m = false →
    (s.mason m).runs.find? GroupRun.faceDue = some g → (s.mason m).current = none →
    ∃ u, exec (.facePassStart m) s = .next u ∧ (u.mason m).runs = (s.mason m).runs.map (fun x =>
        if x.idx = g.idx then { x with phase := .face } else x) ∧ (u.mason m).state = 4 ∧
      { u with msn := { u.msn with units := s.msn.units } } = s) ∧
  (∀ (m : MasonId) (s : State) g, s.masonIdle m = false → (s.mason m).runs = [g] → g.phase = .face →
    let d := g.desc
    let o := d.recOff + 24 * d.count * (g.lift.toNat % 2)
    let l := s.msn.lift
    s.slowBad o (2 * d.count) = [] →
    ∃ v : State, exec (.facePassEnd m) s = .next (v.showMason m) ∧
      (g.acked = false ∨ 1 < l.updLeft → v.plane d g.lift 0 2 = s.fastBytes (s.faceOff d g.lift) (2 * d.count)) ∧
      (g.acked = false → (v.mason m).runs = [{ g with phase := .ending, faceDone := true }] ∧ v.msn.lift = l ∧
        s.memFrame v (fun key => ∃ i, i < 2 * d.count ∧ s.slowPlace (o + i) = some key)) ∧
      (g.acked = true → 1 < l.updLeft → (v.mason m).runs = [] ∧ (v.mason m).done = satAdd (s.mason m).done 1 ∧
        v.msn.lift = { l with updLeft := l.updLeft - 1 }) ∧
      (g.acked = true → l.updLeft = 1 → l.updWrote = true →
        v.msn.lift = { l with updLeft := 0, openState := 2, seq := l.seq + 1 }))

/-! ## Memory faults -/

/-- R176, R180, R355–R357, R359, R363, R387: errors of a pseudo-channel in use: what each counts, and when it is
retired; a retirement holds the module, and the eighth enters FAILED. The model's own readings and choices behind
it: log entry 71. -/
def Obligations.PseudoChannelFaults : Prop :=
  ∀ (p : PchId) (s : State), s.pwr.good = true → p.val ∉ s.ft.retired →
    let q := s.pch p
    let counted (u : State) (f : Pch) (off bytes : Nat) : Prop :=
      u.pch p = f ∧ (∀ x, x ≠ p.val → u.pch x = s.pch x) ∧
      u.logGet off = min (s.logGet off + 1) (2 ^ (8 * bytes) - 1) ∧ (∀ x, x ≠ off → u.logGet x = s.logGet x) ∧
      { u with ft := { u.ft with pchs := s.ft.pchs }, plb := { u.plb with log := s.plb.log } } = s
    let changed (u : State) (f : Pch) : Prop :=
      u.pch p = f ∧ (∀ x, x ≠ p.val → u.pch x = s.pch x) ∧ { u with ft := { u.ft with pchs := s.ft.pchs } } = s
    let retires (u : State) : Prop :=
      (∀ x, x ∈ u.ft.retired ↔ x = p.val ∨ x ∈ s.ft.retired) ∧ u.ft.installed = s.ft.installed ∧
      (s.ft.retired.length < 7 → s.job.st = .running ∨ s.job.st = .set →
        s.heldFor u .pchRetired ∧ u.mem = s.mem ∧ u.cores = s.cores ∧ u.net = s.net ∧ u.msn = s.msn) ∧
      (7 ≤ s.ft.retired.length → s.failedFor u 1)
    (∃ u, exec (.pchCorrected p) s = .next u ∧
      counted u { q with corrected := satAdd q.corrected 1, window := satAdd q.window 1 } (0x2400 + 16 * p) 8) ∧
    (q.reread = false → ∃ u, exec (.pchUncorrectedRead p) s = .next u ∧
      counted u { q with uncorrected := satAdd q.uncorrected 1, reread := true } (0x2408 + 16 * p) 4) ∧
    (q.reread = true →
      (∃ u, exec (.pchRereadDone p .clean) s = .next u ∧ changed u { q with reread := false }) ∧
      (∃ u, exec (.pchRereadDone p .corrected) s = .next u ∧ counted u { q with
        reread := false, corrected := satAdd q.corrected 1, window := satAdd q.window 1 } (0x2400 + 16 * p) 8) ∧
      (∃ u, exec (.pchRereadDone p .uncorrected) s = .next u ∧ retires u ∧
        (u.pch p).uncorrected = satAdd q.uncorrected 1 ∧ (u.pch p).reread = false)) ∧
    (s.start.img.ftCeLimit ≤ q.window.toNat → ∃ u, exec (.pchCeLimit p) s = .next u ∧ retires u) ∧
    (q.window.toNat < s.start.img.ftCeLimit → exec (.pchCeLimit p) s = .next s) ∧
    (∃ u, exec (.pchWindowExpiry p) s = .next u ∧ changed u { q with window := 0 }) ∧
    (q.retraining = false → ∀ margin,
      let f := { q with retraining := true, retrains := satAdd q.retrains 1 }
      (margin < s.start.img.marginFloor →
        ∃ u, exec (.pchInterfaceCheck p margin) s = .next u ∧ counted u f (0x240C + 16 * p) 4) ∧
      (s.start.img.marginFloor ≤ margin → exec (.pchInterfaceCheck p margin) s = .next s) ∧
      (∃ u, exec (.pchCaParityError p) s = .next u ∧ counted u f (0x240C + 16 * p) 4)) ∧
    (q.retraining = true →
      (∃ u, exec (.pchRetrainDone p true) s = .next u ∧ changed u { q with retraining := false, fails := 0 }) ∧
      (q.fails < 2 → ∃ u, exec (.pchRetrainDone p false) s = .next u ∧
        changed u { q with retraining := false, fails := q.fails + 1 }) ∧
      (2 ≤ q.fails → ∃ u, exec (.pchRetrainDone p false) s = .next u ∧ retires u))

/-- R318: a granule of a Mason's region lies in one live channel of it, granule g in the live channel g mod k, at
channel granule g div k.

R334, R345, R346, R352, R359, R363: errors of a slow-tier channel in use. A retirement stops its Mason, whose group
table and region are lost, and takes the closed lift; the second on one Mason enters FAILED. The model's own
readings and choices behind it: log entry 37. -/
def Obligations.SlowChannelFaults : Prop :=
  ∀ (c : ChanId) (s : State), s.pwr.good = true → (s.chan c).live = true →
    let q := s.chan c
    let m := c.val / 4
    let l := s.msn.lift
    let counted (u : State) (f : Chan) (off bytes : Nat) : Prop :=
      u.chan c = f ∧ (∀ x, x ≠ c.val → u.chan x = s.chan x) ∧
      u.logGet off = min (s.logGet off + 1) (2 ^ (8 * bytes) - 1) ∧ (∀ x, x ≠ off → u.logGet x = s.logGet x) ∧
      { u with msn := { u.msn with chans := s.msn.chans }, plb := { u.plb with log := s.plb.log } } = s
    let changed (u : State) (f : Chan) : Prop :=
      u.chan c = f ∧ (∀ x, x ≠ c.val → u.chan x = s.chan x) ∧ { u with msn := { u.msn with chans := s.msn.chans } } = s
    let retires (u : State) : Prop :=
      (u.chan c).live = false ∧ (∀ x, x ≠ c.val → u.chan x = s.chan x) ∧
      ((s.liveChans m).length = 4 → s.job.st = .running ∨ s.job.st = .set → s.heldFor u .slowLost ∧
        u.mason m = { s.mason m with stopped := true, state := 6, table := [], runs := [], wait := 0 } ∧
        (∀ x, x ≠ m → u.mason x = s.mason x) ∧
        u.msn.lift = { l with openState := 0, prevIntact := false, closedValid := false, seq := l.seq + 1 } ∧
        u.cores = s.cores ∧ u.ft = s.ft ∧ u.net = s.net) ∧
      ((s.liveChans m).length < 4 → s.failedFor u 2)
    (∀ g, ∃ d, s.granuleAt m g = some (d, g / (s.liveChans m).length) ∧ d / 4 = m ∧ (s.chan d).live = true ∧
      (s.liveChans m).idxOf d = g % (s.liveChans m).length) ∧
    (∃ u, exec (.slowCorrected c) s = .next u ∧
      counted u { q with corrected := satAdd q.corrected 1, window := satAdd q.window 1 } (0x4400 + 16 * c) 8) ∧
    (q.retry = false → ∃ u, exec (.slowUncorrectedRead c) s = .next u ∧
      counted u { q with uncorrected := satAdd q.uncorrected 1, retry := true } (0x4408 + 16 * c) 4) ∧
    (q.retry = true →
      (∃ u, exec (.slowRetryResult c .clean) s = .next u ∧ changed u { q with retry := false }) ∧
      (∃ u, exec (.slowRetryResult c .corrected) s = .next u ∧ counted u { q with
        retry := false, corrected := satAdd q.corrected 1, window := satAdd q.window 1 } (0x4400 + 16 * c) 8) ∧
      (∃ u, exec (.slowRetryResult c .uncorrected) s = .next u ∧ retires u ∧
        (u.chan c).uncorrected = satAdd q.uncorrected 1)) ∧
    (s.start.img.slowCeLimit ≤ q.window.toNat → ∃ u, exec (.slowCeLimit c) s = .next u ∧ retires u) ∧
    (q.window.toNat < s.start.img.slowCeLimit → exec (.slowCeLimit c) s = .next s) ∧
    (∃ u, exec (.slowWindowExpiry c) s = .next u ∧ changed u { q with window := 0 }) ∧
    (q.retraining = false → ∃ u, exec (.slowRetrainStart c) s = .next u ∧
      counted u { q with retraining := true, retrains := satAdd q.retrains 1 } (0x440C + 16 * c) 4) ∧
    (q.retraining = true →
      (∃ u, exec (.slowRetrainDone c true) s = .next u ∧ changed u { q with retraining := false, fails := 0 }) ∧
      (q.fails < 2 → ∃ u, exec (.slowRetrainDone c false) s = .next u ∧
        changed u { q with retraining := false, fails := q.fails + 1 }) ∧
      (2 ≤ q.fails → ∃ u, exec (.slowRetrainDone c false) s = .next u ∧ retires u))

/-- R354, R358, R359, R386: SRAM errors. An uncorrected one holds the module, marks its unit for the reset of the next
STOP, and the word that was met reads as zero. The model's own readings and choices behind it: log entry 36. -/
def Obligations.SramFaults : Prop :=
  ∀ (s : State), s.pwr.good = true →
    (∀ x : SramUnit,
      let n := match x with
        | .core c => c.val
        | .cluster k => 576 + k.val
      ∃ u, exec (.sramCorrected x) s = .next u ∧ u.plb.sramCorr = satAdd s.plb.sramCorr 1 ∧
        u.logGet (0x8000 + 4 * n) = min (s.logGet (0x8000 + 4 * n) + 1) (2 ^ 32 - 1) ∧
        { u with plb := { u.plb with sramCorr := s.plb.sramCorr, log := s.plb.log } } = s) ∧
    (s.job.st = .running ∨ s.job.st = .set →
      (∀ (c : CoreId) place off, ∃ u, exec (.sramUncorrected (.core c) place off) s = .next u ∧
        s.heldFor u .sramUncorrected ∧ u.plb.sramUncorr = satAdd s.plb.sramUncorr 1 ∧
        u.plb.sramUnit = BitVec.ofNat 10 c ∧ (u.core c).run = { (s.core c).run with sramBad := true } ∧
        (u.core c).strands = (s.core c).strands ∧ (u.core c).eng = (s.core c).eng ∧
        (∀ d, d ≠ c.val → u.core d = s.core d) ∧ u.clusters = s.clusters ∧ u.msn = s.msn ∧ u.net = s.net ∧
        (place = .scratchpad → off < 2 ^ 21 → u.mem.word (spadKey c (off / 8 * 8)) = 0 ∧
          s.memFrame u (fun key => spadKey c (off / 8 * 8) ≤ key ∧ key < spadKey c (off / 8 * 8) + 8) ∧
          (u.core c).regs = (s.core c).regs ∧ (u.core c).arr = (s.core c).arr) ∧
        (place = .vectorRegisters → u.mem = s.mem ∧ (u.core c).arr = (s.core c).arr ∧
          ∀ n b, b < 512 → (u.core c).regs.byte n b =
            if (512 * n + b) / 8 = off / 8 then 0 else (s.core c).regs.byte n b) ∧
        (place = .bank → u.mem = s.mem ∧ (u.core c).regs = (s.core c).regs ∧
          ∀ i, SMap.get 0 (u.core c).arr.bank i = if i / 2 = off / 8 then 0 else SMap.get 0 (s.core c).arr.bank i)) ∧
      (∀ (k : ClusterId) off, ∃ u, exec (.sramUncorrected (.cluster k) .clusterMemory off) s = .next u ∧
        s.heldFor u .sramUncorrected ∧ u.plb.sramUnit = BitVec.ofNat 10 (576 + k) ∧
        u.cluster k = { s.cluster k with sramBad := true } ∧ (∀ x, x ≠ k.val → u.cluster x = s.cluster x) ∧
        (off < 2 ^ 25 → u.mem.word (clusterKey k (off / 8 * 8)) = 0 ∧
          s.memFrame u (fun key => clusterKey k (off / 8 * 8) ≤ key ∧ key < clusterKey k (off / 8 * 8) + 8)) ∧
        (2 ^ 25 ≤ off → u.mem = s.mem) ∧ u.cores = s.cores ∧ u.msn = s.msn ∧ u.net = s.net))

/-! ## Resets, ports and dumps -/

/-- R361–R364, R372, R379, R385: resets as they are requested and performed. A compute reset takes the module's work; a
package reset also takes the package but the slow tier, its headers, and the retired pseudo-channels; the Plumb's
own reset captures a dump first; a reset that comes while a dump is captured waits. Another path's request counts
and is ignored (R9). The model's own readings and choices behind it: log entries 42, 45, 98. -/
def Obligations.Resets : Prop :=
  ∀ (s : State), s.pwr.good = true → s.start.inReset = false →
    let slow (key : Nat) : Prop := slowKey 0 ≤ key ∧ key < slowKey (2 ^ 40)
    let gone (u : State) (dom src : BitVec 4) : Prop :=
      u.cores = [] ∧ u.clusters = [] ∧
      u.ft = { retired := s.ft.retired, installed := s.ft.installed, rebuilds := s.ft.rebuilds, pchs := u.ft.pchs } ∧
      (∀ x, SMap.get {} u.ft.pchs x = { corrected := (SMap.get {} s.ft.pchs x).corrected }) ∧ u.net = {} ∧
      u.mortar = { epoch := s.msn.lift.closed } ∧ u.pwr = s.pwr ∧
      u.job = { st := if s.job.st = .failed then .failed else .unset } ∧
      u.chain = { inCable := s.chain.inCable, outCable := s.chain.outCable, rdyIn := s.chain.rdyIn && s.chain.outCable } ∧
      u.msn.lift = s.msn.lift ∧ u.msn.selfRefresh = true ∧
      (∀ m, (u.mason m).table = (s.mason m).table ∧ (u.mason m).runs = [] ∧
        (u.mason m).done = if dom = 3 then 0 else (s.mason m).done) ∧
      u.msn.blk = (if dom = 3 then none else s.msn.blk) ∧ u.msn.kOut = (if dom = 3 then 0 else s.msn.kOut) ∧
      u.msn.kIn = (if dom = 3 then 0 else s.msn.kIn) ∧
      (∀ l, (u.link l).replays = 0 ∧ (u.link l).retrains = 0 ∧ (u.link l).ch = {} ∧
        (u.link l).state = if (s.link l).state = lkFailed then lkFailed else 0) ∧
      (∀ c, (u.chan c).live = (s.chan c).live) ∧
      (∀ p, u.port p = { perst := (s.port p).perst, perstDone := (s.port p).perstDone }) ∧
      u.start = { img := s.start.img, flash := s.start.flash, flashOk := s.start.flashOk, rpmc0 := s.start.rpmc0
                  rpmc1 := s.start.rpmc1, torn := s.start.torn, inReset := true, short := true
                  pairOpen := s.start.pairOpen, stay := decide (s.start.pairOpen ≠ 0) } ∧
      u.plb.resetDomain = dom ∧ u.plb.resetSource = src ∧ u.plb.resetCount = satAdd s.plb.resetCount 1 ∧
      u.plb.uptime = 0 ∧ s.memFrame u (fun key => ¬slow key)
    (∀ path, plumbPath path = true → s.reaches path = true →
      (s.plb.dumpState = 1 → ∀ dom, dom = 1 ∨ dom = 2 ∨ dom = 3 →
        (dom = 1 → exec (.resetReqCompute path) s = .next
          { s with plb := { s.plb with resetReq := s.plb.resetReq ++ [(dom, 1)] } }) ∧
        (dom = 2 → exec (.resetReqPackage path) s = .next
          { s with plb := { s.plb with resetReq := s.plb.resetReq ++ [(dom, 1)] } }) ∧
        (dom = 3 → exec (.resetReqModule path) s = .next
          { s with plb := { s.plb with resetReq := s.plb.resetReq ++ [(dom, 1)] } })) ∧
      (s.plb.dumpState ≠ 1 →
        (s.job.st = .unset ∨ s.job.st = .failed ∨ s.plb.computing.isSome = true →
          exec (.resetReqCompute path) s = .next s) ∧
        (s.job.st ≠ .unset → s.job.st ≠ .failed → s.plb.computing = none →
          ∃ u, exec (.resetReqCompute path) s = .next u ∧ u.plb.computing = some 1 ∧ u.plb.resetDomain = 1 ∧
            u.plb.resetSource = 1 ∧ u.plb.resetCount = satAdd s.plb.resetCount 1 ∧
            u.job = { s.job with
              runs := [], isOpen := false, frozen := true, masonStop := true, replay := none,
              rewind := s.job.rewind.filter (fun r => !r.resume) } ∧
            u.chain = { s.chain with ready := false } ∧ u.ft = { s.ft with selfRefresh := true } ∧
            (∀ c, c < 576 → (u.core c).strands = [] ∧ (u.core c).regs = {} ∧ (u.core c).eng = {} ∧
              (u.core c).run.state = .reset ∧ (u.core c).arr.bank = []) ∧
            (∀ k, k < 72 → (u.cluster k).brokenClm = true) ∧ u.msn.lift = s.msn.lift ∧
            s.memFrame u (fun key => 2 ^ 48 ≤ key ∧ ¬slow key)) ∧
        (∃ u, exec (.resetReqPackage path) s = .next u ∧ gone u 2 1) ∧
        (let recent := s.plb.moduleResets.filter (fun t => decide (s.plb.powered ≤ t + 180000000000))
         (recent.length < 2 → ∃ u, exec (.resetReqModule path) s = .next u ∧ gone u 3 1) ∧
         (2 ≤ recent.length → ∃ u, exec (.resetReqModule path) s = .next u ∧ u.job.st = .failed ∧
           u.plb.failCause = 4 ∧ u.start.inReset = true)))) ∧
    (∀ path, plumbPath path = false → s.reaches path = true →
      exec (.resetReqCompute path) s = .next (s.violate .undefined) ∧
      exec (.resetReqPackage path) s = .next (s.violate .undefined) ∧
      exec (.resetReqModule path) s = .next (s.violate .undefined)) ∧
    (∀ src, s.plb.computing = some src →
      (∃ u, exec .computeResetDone s = .next u ∧
        u.plb = { s.plb with
          computing := none, logSeq := s.plb.logSeq + 1, lastWrite := s.plb.powered, errFlash := s.plb.errlog,
          ring := u.plb.ring } ∧
        (∃ r, u.plb.ring.head? = some r ∧ r.log = s.plb.log ∧ r.logSeq = s.plb.logSeq + 1 ∧ r.holds = true) ∧
        u.ft = { s.ft with selfRefresh := decide (5 ≤ s.pwr.step.toNat) } ∧
        (s.job.st = .unset ∨ s.job.st = .failed → u.job = s.job) ∧
        (s.job.st ≠ .unset → s.job.st ≠ .failed →
          u.job = { s.job with st := .rewinding, runs := [], isOpen := false }) ∧
        (∀ c, c < 576 →
          u.core c = { s.core c with run := { (s.core c).run with state := .idle, clkBase := s.pwr.coreClk } }) ∧
        u.mem = s.mem ∧ u.msn = s.msn ∧ u.net = s.net) ∧
      exec .computeResetTimeout s = .next { s with plb := { s.plb with
        resetReq := s.plb.resetReq ++ [(2, 4)], dumpWant := s.plb.dumpWant ++ [4],
        dumpState := if s.plb.dumpState = 0 then 1 else s.plb.dumpState } }) ∧
    (s.plb.resetDomain = 2 → s.job.st = .unset →
      exec .packageResetNotSet s = .next { s with plb := { s.plb with
        resetReq := s.plb.resetReq ++ [(3, 4)], dumpWant := s.plb.dumpWant ++ [4],
        dumpState := if s.plb.dumpState = 0 then 1 else s.plb.dumpState } }) ∧
    (∀ p : PortId, (s.port p).perst = false →
      let other := s.port (1 - p.val)
      (s.job.st = .unset ∨ (other.up = true ∧ other.perst = false) ∨ (other.perst = true ∧ other.perstDone = true) →
        ∃ u, exec (.perstAssert p) s = .next u ∧ u.port p = { perst := true, perstDone := (s.port p).perstDone } ∧
          u.port (1 - p.val) = other ∧ { u with ports := s.ports, net := s.net } = s ∧
          u.net.flight = s.net.flight) ∧
      (s.job.st ≠ .unset → other.up = false ∨ other.perst = true → other.perst = false ∨ other.perstDone = false →
        s.plb.moduleResets = [] → ∃ u, exec (.perstAssert p) s = .next u ∧
          u.port p = { perst := true, perstDone := true } ∧
          u.start.inReset = true ∧ u.plb.resetDomain = 3 ∧ u.plb.resetSource = 2 ∧ u.cores = [] ∧
          s.memFrame u (fun key => ¬slow key)))

/-- R372, R390, R432, R457, R460, R473: the release of a reset, the host ports' links, the record and the error log that
the Plumb writes every 10 minutes of powered time, and the fail cause that 30 minutes end. The model's own readings
and choices behind it: log entry 71. -/
def Obligations.PortsAndLog : Prop :=
  ∀ (s : State),
    (s.start.inReset = true →
      exec .resetRelease s = .next { s with
        start := { s.start with inReset := false, phase := 2, began := s.plb.powered } }) ∧
    (∀ p : PortId,
      (∃ u, exec (.perstRelease p) s = .next u ∧ u.port p = { s.port p with perst := false, perstDone := false } ∧
        (∀ x, x ≠ p.val → u.port x = s.port x) ∧ { u with ports := s.ports } = s) ∧
      (∃ u, exec (.pcieLinkDown p) s = .next u ∧
        u.port p = { s.port p with up := false, width := 0, speed := 0, flit := false } ∧
        (∀ x, x ≠ p.val → u.port x = s.port x) ∧ { u with ports := s.ports } = s) ∧
      (∀ speed width flit, s.pwr.good = true → s.start.inReset = false →
        ((s.port p).perst = true → exec (.pcieLinkUp p speed width flit) s = .next s) ∧
        ((s.port p).perst = false → 1 ≤ speed.toNat → speed.toNat ≤ 6 → width.toNat ∈ [1, 2, 4, 8, 16] →
          ∃ u, exec (.pcieLinkUp p speed width flit) s = .next u ∧
            u.port p = { s.port p with up := true, width := width, speed := speed, flit := flit } ∧
            (∀ x, x ≠ p.val → u.port x = s.port x) ∧ { u with ports := s.ports } = s))) ∧
    (s.pwr.good = true → s.start.inReset = false → s.plb.lastWrite + 60000000000 ≤ s.plb.powered →
      ∃ u, exec .lifetimeLogWrite s = .next u ∧ u.plb.logSeq = s.plb.logSeq + 1 ∧ u.plb.lastWrite = s.plb.powered ∧
        u.plb.errFlash = s.plb.errlog ∧ u.plb.ring.length ≤ 32 ∧ (∃ r, u.plb.ring.head? = some r ∧ r.log = s.plb.log ∧
          r.logSeq = s.plb.logSeq + 1 ∧ r.powered = s.plb.powered ∧ r.replacements = s.plb.replacements ∧
          r.retirements = s.plb.retirements ∧ r.logFail = s.plb.logFail ∧ r.holds = true) ∧ u.plb.log = s.plb.log ∧
        { u with plb := s.plb } = s) ∧
    (s.plb.powered < s.plb.lastWrite + 60000000000 → exec .lifetimeLogWrite s = .next s) ∧
    (∀ t, (s.plb.logFail = some (4, t) → t + 180000000000 ≤ s.plb.powered →
        exec .failCauseExpiry s = .next { s with plb := { s.plb with logFail := none } }) ∧
      (s.plb.logFail = some (4, t) → s.plb.powered < t + 180000000000 → exec .failCauseExpiry s = .next s)) ∧
    (∀ c m, s.plb.logFail = some (c, m) → c ≠ 4 → exec .failCauseExpiry s = .next s)

/-- R379–R382, R386, R421: a dump is captured and written over the older of its two slots in flash, a command's dump
also to its buffer; a unit that does not answer in time is recorded with the words read before, whose number is
open; a reset that waited follows. The model's own readings and choices behind it: log entries 41, 105, 107. -/
def Obligations.Dumps : Prop :=
  ∀ (s : State),
    (s.plb.dumpState = 1 →
      (∀ ty idx, (ty, idx) ∈ dumpUnits → ∃ u n, exec (.scanReadTimeout ty idx) s = .next u ∧ n < max 1 (unitWords ty) ∧
        u.plb = { s.plb with timedOut := s.plb.timedOut ++ [(ty, idx, n)] } ∧ u.free = s.free + 1 ∧
        { u with plb := s.plb, free := s.free } = s) ∧
      (∀ t rest, s.plb.dumpWant = t :: rest → s.plb.resetReq = [] →
        ∃ u bs, exec .dumpCapture s = .next u ∧
          u.plb = { s.plb with dumpWant := rest, dumpState := 2, dumpNow := some (t, bs),
                               dumpNowUnread := u.plb.dumpNowUnread, timedOut := [] } ∧
          (s.plb.timedOut = [] → u.plb.dumpNowUnread = 0 ∧
            ((s.core 0).run.spare = none → ∀ i, i < 6 →
              leWord (slice bs (80 + 8 * i) 8) = (s.coreWord 0 (8 * i)).getD 0) ∧
            ∀ i, i < 5 → leWord (slice bs (bs.length - 2080 + 8 * i) 8) = (s.plbWord (0x80000 + 8 * i)).getD 0) ∧
          64 ≤ bs.length ∧ leNat (slice bs 0 8) / 2 ^ 56 = 16 + t.toNat ∧ leNat (slice bs 0 8) % 2 ^ 32 = 697 ∧
          leWord (slice bs 8 8) = s.plb.dumpSeq + 1 ∧ leWord (slice bs 16 8) = s.msn.lift.closed ∧
          leWord (slice bs 24 8) = s.chain.edges ∧ { u with plb := s.plb, free := s.free } = s) ∧
      (∀ t rest more, s.plb.dumpWant = t :: rest → s.plb.resetReq = (2, 1) :: more → s.start.inReset = false →
        ∃ u, exec .dumpCapture s = .next u ∧ u.start.inReset = true ∧ u.plb.resetDomain = 2 ∧ u.plb.resetReq = [])) ∧
    (∀ t bs, s.plb.dumpState = 2 → s.plb.dumpNow = some (t, bs) → s.plb.resetReq = [(2, 4)] → s.start.inReset = false →
      (t = 4 → ∃ u, exec .dumpWritten s = .next u ∧ u.start.inReset = true ∧ u.plb.resetDomain = 2 ∧
        u.plb.resetSource = 4) ∧
      (t ≠ 4 → ∃ u, exec .dumpWritten s = .next u ∧ u.start.inReset = false ∧ u.plb.resetReq = [(2, 4)])) ∧
    (∀ t bs, s.plb.dumpState = 2 → s.plb.dumpNow = some (t, bs) → bs.length ≤ 2 ^ 21 → s.plb.resetReq = [] →
      let slot := s.plb.dumpSeq.toNat % 2
      let base := 0x2520000 + slot * 2 ^ 21
      let stored (u : State) : Prop :=
        u.plb.dumpSeq = s.plb.dumpSeq + 1 ∧ u.plb.dumpTrigger = t ∧ u.plb.dumpSlot = BitVec.ofNat 8 slot ∧
        u.plb.dumpUnread = s.plb.dumpNowUnread ∧
        u.plb.dumpNow = none ∧ u.plb.dumpState = (if s.plb.dumpWant.isEmpty then 0 else 1) ∧
        (∀ i, i < 2 ^ 21 → SMap.get 0xFF u.start.flash (base + i) = bs.getD i 0xFF) ∧
        (∀ i, i < base ∨ base + 2 ^ 21 ≤ i → SMap.get 0xFF u.start.flash i = SMap.get 0xFF s.start.flash i) ∧
        u.logGet 0x5230 = min (s.logGet 0x5230 + 1) (2 ^ 64 - 1)
      (t ≠ 1 → ∃ u, exec .dumpWritten s = .next u ∧ stored u ∧ u.mem = s.mem ∧ u.job = s.job ∧ u.cores = s.cores) ∧
      (∀ k, t = 1 → s.job.dump = some k → ∃ v : State, exec .dumpWritten s = .next
          ((if k.a = 0 then v else v.fastWrite (k.a.toNat % 2 ^ 46) bs).complete k) ∧
        stored v ∧ v.mem = s.mem ∧ v.job = { s.job with dump := none } ∧ v.cores = s.cores))

/-! ## Power -/

/-- R361, R440, R450, R457, R458, R469, R472: the input. What the power-off leaves is the flash, what stands outside and
the input itself; the orderly power-off counts itself and writes the log first.

R434, R441–R443, R453, R456: the periodic readings and what they set: the input power and the limit's point, the
rails, the temperatures, and the clock, which runs at the lowest of the points. The model's own readings and choices
behind it: log entries 11, 38, 70, 71. -/
def Obligations.PowerInput : Prop :=
  (∀ (s : State) (vin : BitVec 16),
    let isOff (u : State) : Prop :=
      u.cores = [] ∧ u.clusters = [] ∧ u.ft = {} ∧ u.net = {} ∧ u.mortar = {} ∧ u.msn = {} ∧ u.job = {} ∧
      u.mem.cells = [] ∧ u.lnk = { cage := s.lnk.cage } ∧ u.pending = s.pending ∧
      u.chain = { inCable := s.chain.inCable, outCable := s.chain.outCable, rdyIn := s.chain.rdyIn && s.chain.outCable } ∧
      (∀ p, u.port p = { perst := (s.port p).perst, perstDone := (s.port p).perstDone }) ∧
      u.start = { flash := u.start.flash, flashOk := s.start.flashOk, rpmc0 := s.start.rpmc0, rpmc1 := s.start.rpmc1
                  torn := u.start.torn } ∧
      (∀ b, b ∈ u.start.torn ↔ b ∈ s.start.torn ∨ (b = s.updBase s.plb.upd.target ∧
        ((∃ t, s.plb.upd.busy = some (.begin t)) ∨ ∃ chunk n, s.plb.upd.busy = some (.write chunk n))))
    let level := 10 * s.start.img.shed.getD 0 0 + 10 * s.start.img.hysteresis
    (s.pwr.input = false → exec .inputApplied s = .next { s with pwr := { s.pwr with input := true, off := false } }) ∧
    (s.pwr.input = true → ∃ u, exec .powerLoss s = .next u ∧ isOff u ∧ u.start.flash = s.start.flash ∧
      u.plb = { ring := s.plb.ring, errFlash := s.plb.errFlash, dumpSeq := s.plb.dumpSeq } ∧
      u.pwr = { strap := s.pwr.strap, restartAt := level }) ∧
    (s.pwr.input = true → s.pwr.off = false →
      (vin.toNat < 3400 → ∃ u, exec (.undervoltageCutoff vin) s = .next u ∧ isOff u ∧ u.start.flash = s.start.flash ∧
        u.plb.ring = s.plb.ring ∧ u.pwr = { input := true, vin := vin, strap := s.pwr.strap, restartAt := level }) ∧
      (3400 ≤ vin.toNat → exec (.undervoltageCutoff vin) s = .next s)) ∧
    (s.pwr.input = true → s.pwr.off = true → s.pwr.restartAt < vin.toNat →
      exec (.powerRestart vin) s = .next { s with pwr := { s.pwr with
        vin := vin, off := false
        overRange := s.pwr.overRange && decide (6000 < vin.toNat) && decide (vin.toNat ≤ 6200) } }) ∧
    (vin.toNat ≤ s.pwr.restartAt → exec (.powerRestart vin) s = .next s) ∧
    (s.pwr.good = true →
      (6200 < vin.toNat → ∃ u, exec (.overVoltage vin) s = .next u ∧ isOff u ∧
        (∃ r, u.plb.ring.head? = some r ∧ SMap.get 0 r.log 0x2230 = min (s.logGet 0x2230 + 1) (2 ^ 64 - 1) ∧
          r.logSeq = s.plb.logSeq + 1) ∧
        (s.plb.dumpState = 0 → s.plb.dumpWant = [] → u.start.flash = s.start.flash ∧ u.plb.dumpSeq = s.plb.dumpSeq) ∧
        u.pwr = { input := s.pwr.input, vin := vin, strap := s.pwr.strap, restartAt := level }) ∧
      (vin.toNat ≤ 6200 → exec (.overVoltage vin) s = .next s) ∧
      (∃ u, exec (.overRangeEvent vin) s = .next u ∧
        (let inside := decide (6000 < vin.toNat) && decide (vin.toNat ≤ 6200)
         u.pwr = { s.pwr with vin := vin, overRange := inside } ∧
         u.logGet 0x58 = (if inside && !s.pwr.overRange then min (s.logGet 0x58 + 1) (2 ^ 64 - 1) else s.logGet 0x58)) ∧
        { u with pwr := s.pwr, plb := { u.plb with log := s.plb.log } } = s) ∧
      (∀ rail, exec (.railOutOfRegulation rail) s = .next { s with pwr := { s.pwr with pwrOk := false } }))) ∧
  (∀ (s : State), s.pwr.good = true → s.start.inReset = false →
    (∀ pin rails clu, ∃ u, exec (.powerLimitTick pin rails clu) s = .next u ∧ u.pwr.pin = pin ∧
      u.pwr.energy = s.pwr.energy + pin.setWidth 64 ∧
      (let limit := s.start.img.powerLimit
       let low := s.pwr.powPoint
       (limit < pin.toNat → u.pwr.powPoint = (if low = 3 then 3 else low + 1) ∧ u.pwr.lowFor = 0) ∧
       (100 * pin.toNat < 95 * limit → s.pwr.lowFor < 49 → u.pwr.powPoint = low ∧ u.pwr.lowFor = s.pwr.lowFor + 1) ∧
       (100 * pin.toNat < 95 * limit → 49 ≤ s.pwr.lowFor →
         u.pwr.powPoint = (if low = 0 then 0 else low - 1) ∧ u.pwr.lowFor = 0) ∧
       (95 * limit ≤ 100 * pin.toNat → pin.toNat ≤ limit → u.pwr.powPoint = low ∧ u.pwr.lowFor = 0)) ∧
      (∀ i r, i < 22 → rails[i]? = some r → SMap.get {} u.plb.rails i =
        { mv := r.1, amps := r.2,
          peak := if (SMap.get {} s.plb.rails i).peak.toNat < r.2.toNat then r.2 else (SMap.get {} s.plb.rails i).peak }) ∧
      (∀ i x, i < 72 → clu[i]? = some x → SMap.get 0 u.plb.cluCur i = x) ∧
      (∀ h, let point := SMap.get 0 s.pwr.thermPoint (b2n h)
        let cool := SMap.get 0 s.pwr.coolFor (b2n h)
        (s.classHot h = true → SMap.get 0 u.pwr.thermPoint (b2n h) = (if point = 3 then 3 else point + 1) ∧
          SMap.get 0 u.pwr.coolFor (b2n h) = 0) ∧
        (s.classHot h = false → s.classCool h = false → SMap.get 0 u.pwr.thermPoint (b2n h) = point ∧
          SMap.get 0 u.pwr.coolFor (b2n h) = 0) ∧
        (s.classHot h = false → s.classCool h = true → cool < 49 → SMap.get 0 u.pwr.thermPoint (b2n h) = point ∧
          SMap.get 0 u.pwr.coolFor (b2n h) = cool + 1) ∧
        (s.classHot h = false → s.classCool h = true → 49 ≤ cool →
          SMap.get 0 u.pwr.thermPoint (b2n h) = (if point = 0 then 0 else point - 1) ∧
          SMap.get 0 u.pwr.coolFor (b2n h) = 0)) ∧
      { u with pwr := s.pwr, plb := s.plb } = s) ∧
    (∀ temps, ∃ u, exec (.thermalTick temps) s = .next u ∧
      (∀ i v, i < 128 → temps[i]? = some v → SMap.get {} u.plb.temps i =
        { now := v, peak := if (SMap.get {} s.plb.temps i).peak.toInt < v.toInt then v
                            else (SMap.get {} s.plb.temps i).peak }) ∧
      (∀ i h, i ∈ classPoints h → SMap.get 0 u.pwr.hotFor i =
        if (if h then 1600 else 1760) ≤ (SMap.get {} u.plb.temps i).now.toInt then min 2 (SMap.get 0 s.pwr.hotFor i + 1)
        else 0) ∧
      { u.pwr with hotFor := s.pwr.hotFor } = s.pwr ∧
      { u with pwr := s.pwr, plb := s.plb } = s) ∧
    (∀ i n, List.find? (fun (x : Nat × Nat) => decide (2 ≤ x.2)) s.pwr.hotFor = some (i, n) →
      ∃ u, exec .thermalPowerOff s = .next u ∧ u.pwr.good = false ∧ u.cores = [] ∧ u.mem.cells = [] ∧
        (∃ r, u.plb.ring.head? = some r ∧ SMap.get 0 r.log 0x60 = i ∧
          SMap.get 0 r.log 0x68 = min (s.logGet 0x68 + 1) (2 ^ 64 - 1))) ∧
    (let point := max s.pwr.shedPoint.toNat (max s.pwr.powPoint.toNat
      (max (SMap.get 0 s.pwr.thermPoint 0).toNat (SMap.get 0 s.pwr.thermPoint 1).toNat))
     exec .clockPointChange s = .next { s with pwr := { s.pwr with point := BitVec.ofNat 2 point } }))

/-- R444–R449, R451: shedding. A step is entered when the input is below its threshold, one after the other, and each
has its actions; the next waits for the parking, the width changes, a STOP or the dump of the step before. A step is
left above its threshold and the hysteresis. The model's own readings and choices behind it: log entries 30, 35, 66,
67, 68, 69, 123. -/
def Obligations.Shedding : Prop :=
  ∀ (s : State) (vin : BitVec 16), s.pwr.good = true → s.start.inReset = false → s.pwr.step.toNat < 7 →
    let n := s.pwr.step.toNat + 1
    let at_ (i : Nat) : Nat := 10 * s.start.img.shed.getD (i - 1) 0
    let entered (u : State) : Prop :=
      u.pwr.step = BitVec.ofNat 3 n ∧ u.pwr.vin = vin ∧
      u.pwr.deepest = (if s.pwr.deepest.toNat < n then BitVec.ofNat 3 n else s.pwr.deepest) ∧
      SMap.get 0 u.pwr.droop n = satAdd (SMap.get 0 s.pwr.droop n) 1 ∧
      u.logGet (0x2200 + 8 * (n - 1)) = min (s.logGet (0x2200 + 8 * (n - 1)) + 1) (2 ^ 64 - 1)
    let waits : Prop :=
      (n = 4 ∧ ((∃ l, l < 12 ∧ (s.link l).state = lkRetraining) ∨
        ∃ g c, s.job.parked = some g ∧ c < 576 ∧ coreCluster c % 4 = g ∧ (s.core c).run.state = .parked ∧
          (s.core c).run.before ≠ .idle ∧ (s.core c).run.holds = true)) ∨
      (5 ≤ n ∧ ∃ r, s.job.rewind = some r ∧ r.resume = false) ∨
      (n = 7 ∧ (s.plb.dumpState ≠ 0 ∨ s.plb.dumpWant ≠ []))
    (at_ n ≤ vin.toNat ∨ waits → exec (.shedStepEnter vin) s = .next s) ∧
    (vin.toNat < at_ n → ¬waits → ∃ u, exec (.shedStepEnter vin) s = .next u ∧
      (n < 7 → entered u) ∧
      (n = 1 → u.pwr.shedPoint = 1 ∧ u.job = s.job ∧ u.mem = s.mem ∧
        ∀ c, c < 576 → u.core c = { s.core c with arr := { (s.core c).arr with fillers := [] } }) ∧
      (n = 2 → u.pwr.shedPoint = 2 ∧ u.job = s.job ∧ u.mem = s.mem ∧ u.cores = s.cores) ∧
      (n = 3 → u.job.parked = some 0 ∧ u.job.parkNext = 1 ∧ (∀ l, l < 12 → (u.link l).limited = true) ∧
        ∀ c, c < 576 → (s.core c).run.state ≠ .parked →
          (u.core c).run.state = if coreCluster c % 4 = 0 then .parked else (s.core c).run.state) ∧
      (n = 4 → (u.port 1).idle = true ∧ ((s.port 0).up = true → u.portWidth 1 = min (s.port 1).width.toNat 2) ∧
        (s.job.st = .running ∨ s.job.st = .set → s.heldFor u .shedding) ∧ u.cores = s.cores ∧ u.msn = s.msn ∧
          u.mem = s.mem) ∧
      (n = 5 → s.job.st ≠ .unset → s.job.st ≠ .failed →
        u.job.rewind = some { cmd := none, lift := s.msn.lift.closed, shed := true } ∧ u.job.st = .rewinding ∧
        u.job.frozen = true ∧ u.job.masonStop = true ∧ u.job.taken = [] ∧ u.cores = s.cores) ∧
      (n = 5 → s.job.st = .unset ∨ s.job.st = .failed → u.ft.selfRefresh = true ∧ u.job = s.job) ∧
      (n = 5 → s.plb.upd.state = updOpen ∨ s.plb.upd.state = updBusy →
        (s.slotsHeld = true → u.plb.upd.state = updBusy ∧ u.plb.upd.busy = some (.abort 2)) ∧
        (s.slotsHeld = false → u.plb.upd.state = updIdle ∧ u.plb.upd.result = 2 ∧ u.plb.upd.busy = none)) ∧
      (n = 6 → u.msn.selfRefresh = true ∧ u.plb.dumpWant = s.plb.dumpWant ++ [3] ∧
        u.plb.logSeq = s.plb.logSeq + 1 ∧ u.job = s.job ∧ u.mem = s.mem) ∧
      (n = 7 → u.pwr.good = false ∧ u.cores = [] ∧ u.mem.cells = [] ∧ u.job = {})) ∧
    (0 < s.pwr.step.toNat →
      let m := s.pwr.step.toNat
      (vin.toNat < at_ m + 10 * s.start.img.hysteresis → exec (.shedStepLeave vin) s = .next s) ∧
      (at_ m + 10 * s.start.img.hysteresis ≤ vin.toNat → ∃ u, exec (.shedStepLeave vin) s = .next u ∧
        u.pwr.step = BitVec.ofNat 3 (m - 1) ∧ u.pwr.vin = vin ∧ u.pwr.deepest = s.pwr.deepest ∧
        (m = 1 → u.pwr.shedPoint = 0) ∧ (m = 2 → u.pwr.shedPoint = 1) ∧
        (m = 3 → u.job.parked = none ∧ ∀ l, l < 12 → (u.link l).limited = false) ∧
        (m = 4 → (u.port 1).idle = false ∧ u.job.holds = s.job.holds.filter (fun h => h ≠ 7) ∧
          (s.job.st = .held → s.job.holds = [7] → u.job.st = s.job.prior)) ∧
        (m = 5 → u.ft = { s.ft with selfRefresh := false }) ∧ (m = 6 → u.msn = { s.msn with selfRefresh := false }))) ∧
    (∀ g, 3 ≤ s.pwr.step.toNat → s.job.parked = some g → s.job.parkNext < 4 → s.job.parkNext ≠ g →
      ∃ u, exec .parkRotate s = .next u ∧ u.job.parked = some s.job.parkNext ∧
        u.job.parkNext = (s.job.parkNext + 1) % 4 ∧
        (∀ c, c < 576 → coreCluster c % 4 = s.job.parkNext → (u.core c).run.state = .parked) ∧
        (∀ c, c < 576 → coreCluster c % 4 = g → (s.core c).run.state = .parked → (s.core c).run.before ≠ .parked →
          (u.core c).run.state = (s.core c).run.before))

/-! ## Start-up, updates and attestation -/

/-- R176, R332, R424, R428–R432, R439, R461: a start, step by step. The firmware is verified; the identity is unwrapped
from the PUF's pattern and an image accepted; every SRAM is zero and the spare map applied; memories are trained and
zeroed, and a cold start writes the training record, which a short start checks; links train, the chain starts, and
the last step reaches SET. Each step's check that fails keeps the module in UNSET with its reason. The model's own
readings and choices behind it: log entries 6, 11, 34, 35, 71, 74, 92, 124. -/
def Obligations.Starting : Prop :=
  (∀ (s : State) strap (pairs : BitVec 4), s.pwr.input = true → s.pwr.off = false → s.pwr.good = false →
    ∃ u, exec (.powerGood strap pairs) s = .next u ∧
      u.pwr = { s.pwr with good := true, pwrOk := true, strap := strap } ∧
      u.start = { s.start with
        phase := 2, short := false, began := u.plb.powered, pairOpen := pairs, stay := decide (pairs ≠ 0) } ∧
      u.plb.errlog.getLast? = some (u.minute, 0x34, 0) ∧ (pairs ≠ 0 → u.logGet 0x70 = pairs.toNat) ∧
      (∀ r, r ∈ s.plb.ring → r.holds = true →
        (∀ q, q ∈ s.plb.ring → q.holds = true → q ≠ r → q.logSeq < r.logSeq) →
        u.plb.logAddr = r.logAddr ∧ u.plb.retirements = r.retirements ∧
        u.plb.replacements = r.replacements ∧ u.plb.powered = r.powered ∧ u.plb.coldStarts = r.coldStarts + 1 ∧
        u.logGet 0x50D0 = min (SMap.get 0 r.log 0x50D0 + 1) (2 ^ 64 - 1)) ∧
      ((∀ q, q ∈ s.plb.ring → q.holds = false) →
        u.plb.powered = s.plb.powered ∧ u.plb.coldStarts = s.plb.coldStarts + 1 ∧ u.plb.retirements = s.plb.retirements) ∧
      { u with pwr := s.pwr, start := s.start, plb := s.plb } = s) ∧
  (∀ (s : State) r, s.pwr.good = true → s.start.inReset = false → s.start.stay = false → s.job.st = .unset →
    let now : BitVec 16 := BitVec.ofNat 16 (min ((s.plb.powered - s.start.began) / 100000) 0xFFFF)
    (s.start.phase = 2 →
      (s.start.flashOk = false → exec (.startStepDone r) s = .next
        { s with start := { s.start with reason := 1, stay := true } }) ∧
      (s.start.flashOk = true → (s.trySlots .firmware).1 = none → exec (.startStepDone r) s = .next
        { s with start := { s.start with reason := 9, stay := true } }) ∧
      (∀ slot, s.start.flashOk = true → (s.trySlots .firmware).1 = some slot →
        ∃ u, exec (.startStepDone r) s = .next u ∧ u.start.phase = 3 ∧ u.start.fwSlot = slot ∧
          u.start.fwVersion = (s.imgView .firmware slot).head.version ∧ { u with start := s.start } = s)) ∧
    (s.start.phase = 3 →
      let id := Config.identity (s.flashRead 0x1810000 65536)
      let kek := (sha512 (Config.pufCorrect r.puf id.1)).take 32
      let unwrapped (u : State) : Prop := u.start.kek = kek ∧ u.start.imageMs = now ∧
        u.start.identValid = (unwrapKey kek id.2.1).isSome ∧ u.start.devKey = (unwrapKey kek id.2.1).getD []
      ((s.trySlots .setout).1 = none → ∃ u, exec (.startStepDone r) s = .next u ∧ u.start.stay = true ∧
        u.start.phase = 3 ∧ u.start.reason = (s.trySlots .setout).2 ∧ unwrapped u ∧
        { u with start := s.start } = s) ∧
      (∀ slot, (s.trySlots .setout).1 = some slot → ∃ u, exec (.startStepDone r) s = .next u ∧ u.start.phase = 4 ∧
        u.start.slot = slot ∧ u.start.img = s.imageOf (s.imgView .setout slot) ∧ unwrapped u ∧ u.start.stay = false ∧
        { u with start := s.start, plb := { u.plb with log := s.plb.log } } = s)) ∧
    (s.start.phase = 4 → r.badCores = [] ∨ s.start.short = true →
      (∃ m, placeSpares s.start.img.spares s.plb.replacements = some m) →
      ∃ u, exec (.startStepDone r) s = .next u ∧ u.start.phase = 5 ∧ u.clusters = [] ∧
        (∀ c, c < 576 → (u.core c).run.state = .idle ∧ (u.core c).strands = [] ∧ (u.core c).regs = {} ∧
          (u.core c).eng = {} ∧ (u.core c).arr = {}) ∧
        (∀ k o, k < 72 → o < 2 ^ 25 → u.mem.byte (clusterKey k o) = 0) ∧
        (∀ c o, c < 576 → o < 2 ^ 21 → u.mem.byte (spadKey c o) = 0) ∧
        s.memFrame u (fun key => key / 2 ^ 48 ≠ 0) ∧ u.msn = s.msn ∧ u.job = s.job ∧
        (s.start.short = true → u.ft = s.ft) ∧
        (s.start.short = false → u.ft = { s.ft with
          retired := s.startRetired []
          installed := if 8 ≤ (s.startRetired []).length then s.ft.installed else s.startRetired [] })) ∧
    (s.start.phase = 5 → r.badChan = [] → r.badPch = [] → s.plb.logFail = none → s.start.short = false →
      (s.startRetired []).length < 8 → twoOnOneMason (s.startChansOut []) = false →
      ∃ u, exec (.startStepDone r) s = .next u ∧ u.start.phase = 6 ∧ u.start.memoryMs = now ∧
        u.start.fullTraining = true ∧ u.trainingHolds = true ∧ u.free = s.free + 624 ∧
        (∀ i, i < 0x1820000 ∨ 0x1920000 ≤ i → SMap.get 0xFF u.start.flash i = SMap.get 0xFF s.start.flash i) ∧
        u.ft = { s.ft with retired := s.startRetired [], installed := s.startRetired [], selfRefresh := false } ∧
        (∀ c, c < 16 → c ∈ s.startChansOut [] → (u.chan c).live = false) ∧
        (∀ o, o < 2 ^ 46 → u.mem.byte (fastKey o) = 0) ∧ (∀ o, o < 2 ^ 40 → u.mem.byte (slowKey o) = 0) ∧
        u.msn.lift = {} ∧ u.msn.selfRefresh = false ∧ u.mortar.epoch = 0 ∧ u.mortar.sent = [] ∧ u.mortar.recv = [] ∧
        (∀ l, l < 12 → u.canTrain l = true → (u.link l).state = lkTraining) ∧ u.job = s.job ∧ u.cores = s.cores) ∧
    (s.start.phase = 5 → r.badChan = [] → r.badPch = [] → s.plb.logFail = none → s.start.short = true →
      (s.startRetired []).length < 8 → twoOnOneMason (s.startChansOut []) = false →
      (∀ c, c ∈ s.startChansOut [] → (s.chan c).live = false) →
      ∃ u, exec (.startStepDone r) s = .next u ∧ u.start.phase = 6 ∧ u.start.memoryMs = now ∧
        u.start.fullTraining = !s.trainingHolds ∧ u.start.flash = s.start.flash ∧
        (∀ o, o < 2 ^ 46 → u.mem.byte (fastKey o) = 0) ∧
        (∀ o, o < 2 ^ 40 → u.mem.byte (slowKey o) = s.mem.byte (slowKey o)) ∧
        u.msn.selfRefresh = false ∧ (∀ m, (u.mason m).table = (s.mason m).table) ∧ u.job = s.job ∧ u.cores = s.cores) ∧
    (s.start.phase = 6 → s.chain.inCable = true → exec (.startStepDone r) s = .next { s with
      start := { s.start with phase := 7 }
      chain := { s.chain with tail := !s.chain.outCable, rdyIn := s.chain.rdyIn || !s.chain.outCable, head := false,
                              port := if s.chain.bypass then 1 else s.chain.port } }) ∧
    (s.start.phase = 6 → s.chain.inCable = false → ∃ u, exec (.startStepDone r) s = .next u ∧ u.start.phase = 7 ∧
      u.chain.head = true ∧ u.chain.bypass = false ∧ u.chain.tail = !s.chain.outCable) ∧
    (s.start.phase = 7 → ∃ u, exec (.startStepDone r) s = .next u ∧ u.start.phase = 8 ∧
      u.start.setMs = now ∧ u.start.raised = true ∧
      u.start.rpmc0 = (if s.start.rpmc0.toNat < s.start.fwFloor.toNat then s.start.fwFloor else s.start.rpmc0) ∧
      u.start.rpmc1 = (if s.start.rpmc1.toNat < s.start.img.floor.toNat then s.start.img.floor else s.start.rpmc1) ∧
      (s.pwr.step.toNat < 4 → u.job = { s.job with st := .set }) ∧
      (4 ≤ s.pwr.step.toNat → u.job.st = .held ∧ u.job.holds = s.job.holds ++ [7] ∧ u.job.prior = .set) ∧
      u.mem = s.mem ∧ u.cores = s.cores ∧ u.msn = s.msn ∧ u.ft = s.ft))

/-- R462, R467, R424: the update session. A request of its owner begins flash work; the result of that work opens,
fills, verifies or fails the session; an abort or a timeout erases the slot, and waits where a start reads the
slots. A request while one is in hand, or of another owner, counts. The model's own readings and choices behind it:
log entries 28, 29, 30, 31, 45, 71, 74, 106. -/
def Obligations.UpdateSession : Prop :=
  (∀ (path : RegPath) (v : Word) (s : State) o, ownerCode path = some o → s.reaches path = true →
    let x := s.plb.upd
    let now := s.plb.uptime
    let target := BitVec.ofNat 4 (v.toNat / 16 % 16)
    let chunk := v.toNat / 2 ^ 40 % 256
    let len8 := v.toNat / 2 ^ 24 % 65536
    let with_ (y : Upd) : State := { s with plb := { s.plb with upd := y } }
    let owned : Prop := x.state = updOpen ∧ x.owner = o
    let slotGone (u : State) : Prop := ∀ i, SMap.get 0xFF u.start.flash i =
      if s.updBase x.target ≤ i ∧ i < s.updBase x.target + (updKind x.target).size then 0xFF
      else SMap.get 0xFF s.start.flash i
    (x.state = updBusy → exec (.updBegin path v) s = .next (s.violate .undefined) ∧
      exec (.updWrite path v) s = .next (s.violate .undefined) ∧
      exec (.updVerify path v) s = .next (s.violate .undefined) ∧
      exec (.updAbort path v) s = .next (s.violate .undefined)) ∧
    (x.state ≠ updBusy → v.toNat < 2 ^ 48 → v.toNat / 256 % 65536 = 0 →
      (target = 1 ∨ target = 2 → ¬(x.state = updOpen ∧ x.owner ≠ o) → s.pwr.step.toNat < 4 →
        exec (.updBegin path v) s = .next (with_ { x with
          owner := o, target := target, chunks := 0, state := updBusy, result := 0, busy := some (.begin target),
          lastReq := now })) ∧
      (target = 1 ∨ target = 2 → x.state = updOpen → x.owner ≠ o →
        exec (.updBegin path v) s = .next (with_ { x with result := 1 })) ∧
      (target ≠ 1 → target ≠ 2 → exec (.updBegin path v) s = .next (s.violate .undefined)) ∧
      (owned → chunk < 128 → 0 < len8 → len8 ≤ 8192 → exec (.updWrite path v) s = .next (with_ { x with
        state := updBusy, result := 0, busy := some (.write chunk (8 * len8)), lastReq := now })) ∧
      (owned → exec (.updVerify path v) s = .next (with_ { x with
        state := updBusy, result := 0, busy := some .verify, lastReq := now })) ∧
      (owned → s.slotsHeld = true → exec (.updAbort path v) s = .next (with_ { x with
        state := updBusy, busy := some (.abort 0) })) ∧
      (owned → s.slotsHeld = false → ∃ u, exec (.updAbort path v) s = .next u ∧ slotGone u ∧
        u.plb.upd = { x with state := updIdle, result := 0, busy := none } ∧
        { u with plb := s.plb, start := s.start } = s) ∧
      (¬owned → exec (.updVerify path v) s = .next (s.violate .undefined) ∧
        exec (.updAbort path v) s = .next (s.violate .undefined))) ∧
    (owned → x.lastReq + 1000000000 ≤ now → s.slotsHeld = true → exec .updSessionTimeout s = .next (with_ { x with
      state := updBusy, busy := some (.abort 0) })) ∧
    (owned → x.lastReq + 1000000000 ≤ now → s.slotsHeld = false → ∃ u, exec .updSessionTimeout s = .next u ∧ slotGone u ∧
      u.plb.upd = { x with state := updIdle, result := 0, busy := none } ∧
      { u with plb := s.plb, start := s.start } = s) ∧
    (owned → now < x.lastReq + 1000000000 → exec .updSessionTimeout s = .next s) ∧
    (∀ off bytes, (owned ∨ (x.state = updBusy ∧ x.owner = o)) → off + bytes.length ≤ 65536 →
      ∃ u, exec (.plbUpdBufWrite path off bytes) s = .next u ∧
        (∀ i, SMap.get 0 u.plb.upd.buf i =
          if off ≤ i ∧ i < off + bytes.length then bytes.getD (i - off) 0 else SMap.get 0 x.buf i) ∧
        u = with_ { x with buf := u.plb.upd.buf }) ∧
    (∀ off bytes, x.state ≠ updBusy → ¬owned →
      exec (.plbUpdBufWrite path off bytes) s = .next (s.violate .undefined))) ∧
  (∀ (s : State) ok, s.slotsHeld = true → exec (.updRequestComplete ok) s = .next s) ∧
  (∀ (s : State) r, s.plb.upd.busy = some r → s.slotsHeld = false →
    let x := s.plb.upd
    let base := s.updBase x.target
    let flashIs (u : State) (lo n : Nat) (f : Nat → Byte) : Prop := ∀ i, SMap.get 0xFF u.start.flash i =
      if lo ≤ i ∧ i < lo + n then f (i - lo) else SMap.get 0xFF s.start.flash i
    let rest (u : State) : Prop := { u with plb := s.plb, start := s.start } = s
    (exec (.updRequestComplete false) s = .next { s with plb := { s.plb with
      upd := { x with state := updFailed, result := 6, busy := none } } }) ∧
    (∀ t, r = .begin t → ∃ u, exec (.updRequestComplete true) s = .next u ∧ flashIs u base 4096 (fun _ => 0xFF) ∧
      u.plb.upd = { x with state := updOpen, result := 0, busy := none } ∧ rest u) ∧
    (∀ chunk n, r = .write chunk n → s.plb.dumpState ≠ 2 → 65536 * chunk + n ≤ (updKind x.target).size →
      ∃ u, exec (.updRequestComplete true) s = .next u ∧
        flashIs u (base + 65536 * chunk) n (fun i => SMap.get 0 x.buf i) ∧
        u.plb.upd = { x with state := updOpen, result := 0, busy := none, chunks := satAdd x.chunks 1 } ∧ rest u) ∧
    (∀ chunk n, r = .write chunk n → s.plb.dumpState = 2 → exec (.updRequestComplete true) s = .next s) ∧
    (∀ result, r = .abort result → ∃ u, exec (.updRequestComplete true) s = .next u ∧
      flashIs u base (updKind x.target).size (fun _ => 0xFF) ∧
      u.plb.upd = { x with state := updIdle, result := result, busy := none } ∧ rest u) ∧
    (r = .verify →
      let k := updKind x.target
      let slot := s.updSlot x.target
      (s.checkSlot k slot = 0 → exec (.updRequestComplete true) s = .next { s with plb := { s.plb with
        upd := { x with
          state := updVerified, result := 0, busy := none, version := (s.imgView k slot).head.version } } }) ∧
      (s.checkSlot k slot ≠ 0 → ∃ u, exec (.updRequestComplete true) s = .next u ∧
        flashIs u base 4096 (fun _ => 0xFF) ∧ u.plb.upd.state = updFailed ∧ u.plb.upd.busy = none ∧
        u.plb.upd.result = (if s.checkSlot k slot = 4 then 3 else if s.checkSlot k slot = 5 then 4 else 5) ∧ rest u)))

/-- R463, R464, R472: attestation over DOE and MCTP: requests in their order, ERROR UnexpectedRequest out of it, the
signature of the device key over transcript, request and data, and ERROR Unspecified where no key was unwrapped;
board management over MCTP, with its sensors and terminus ID; and the SMBus alert. The bodies of the messages are
constants of Config (log entry 6). The model's own readings and choices behind it: log entries 2, 6, 32. -/
def Obligations.Attestation : Prop :=
  ∀ (path : RegPath) (req : List Byte) (s : State),
    let answered (u : State) (code : Nat) (data : List Byte) (f : Start → Start) : Prop :=
      let r := Config.dmtfResponse code data req
      u = { s with start := { f s.start with spdmTrans := (f s.start).spdmTrans ++ req ++ r },
                   out := s.out ++ [.response path r] }
    let error (code : Byte) : Host.Outcome State Fault Refusal := .next { s with out := s.out ++ [.spdmError path code] }
    let key := Config.devKey s.start.devKey
    let salt := (List.range 8).flatMap (fun i => wordBytes (Config.freeWord (s.free + i)))
    let signedWith (u : State) (code : Nat) (data : List Byte) : Prop :=
      u.free = s.free + 8 ∧ answered { u with free := s.free } code
        (data ++ rsaSign { n := key.1, e := key.2 } (s.start.spdmTrans ++ req ++ data) salt) id
    let signed := (req.getD 2 0).getLsbD 0
    let x := s.start
    (s.answers path = true →
      (∃ u, exec (.getVersion path req) s = .next u ∧ answered u 0x84 [] (fun x =>
        { x with spdmVersion := true, spdmCaps := false, spdmAlgs := false, spdmTrans := [] })) ∧
      (x.spdmVersion = false → exec (.getCapabilities path req) s = error 4) ∧
      (x.spdmVersion = true → ∃ u, exec (.getCapabilities path req) s = .next u ∧
        answered u 0xE1 [] (fun x => { x with spdmCaps := true })) ∧
      (x.spdmCaps = false → exec (.negotiateAlgorithms path req) s = error 4) ∧
      (x.spdmCaps = true → ∃ u, exec (.negotiateAlgorithms path req) s = .next u ∧
        answered u 0xE3 [] (fun x => { x with spdmAlgs := true })) ∧
      (x.spdmAlgs = false → exec (.getDigests path req) s = error 4 ∧ exec (.getCertificate path req) s = error 4 ∧
        exec (.challenge path req) s = error 4 ∧ exec (.getMeasurements path req) s = error 4) ∧
      (x.spdmAlgs = true →
        (∃ u, exec (.getDigests path req) s = .next u ∧ answered u 0x81 (sha512 s.certChain) id) ∧
        (∃ u, exec (.getCertificate path req) s = .next u ∧ answered u 0x82 s.certChain id) ∧
        (x.identValid = true → ∃ u, exec (.challenge path req) s = .next u ∧ signedWith u 0x83 (sha512 s.certChain)) ∧
        (x.identValid = false → exec (.challenge path req) s = error 5 ∧
          (signed = true → exec (.getMeasurements path req) s = error 5)) ∧
        (signed = false → ∃ u, exec (.getMeasurements path req) s = .next u ∧ answered u 0xE0 s.measurements id) ∧
        (signed = true → x.identValid = true → ∃ u, exec (.getMeasurements path req) s = .next u ∧
          signedWith u 0xE0 s.measurements))) ∧
    (s.answers path = false → exec (.getVersion path req) s = .next s ∧ exec (.challenge path req) s = .next s) ∧
    (∀ q, path ≠ .mctp → exec (.pldmRequest path q) s = .next s) ∧
    (s.answers .mctp = true →
      let reply (code : Nat) (data : List Byte) : Host.Outcome State Fault Refusal :=
        .next { s with out := s.out ++ [.response .mctp (Config.dmtfResponse code data [])] }
      (∀ i, exec (.pldmRequest .mctp (.temperature i)) s =
        reply 0x211 (leBytes 2 (SMap.get {} s.plb.temps i.val).now.toNat)) ∧
      (∀ i, exec (.pldmRequest .mctp (.rail i)) s =
        reply 0x211 (leBytes 2 (SMap.get {} s.plb.rails i.val).mv.toNat ++
          leBytes 2 (SMap.get {} s.plb.rails i.val).amps.toNat)) ∧
      (exec (.pldmRequest .mctp .input) s = reply 0x211 (leBytes 2 s.pwr.vin.toNat ++ leBytes 2 s.pwr.pin.toNat)) ∧
      (∀ command data, command ≠ 1 →
        exec (.pldmRequest .mctp (.base command data)) s = reply command.toNat (s.start.pldmTid :: data)) ∧
      (∀ tid data, exec (.pldmRequest .mctp (.base 1 (tid :: data))) s = .next { s with
        start := { s.start with pldmTid := tid }
        out := s.out ++ [.response .mctp (Config.dmtfResponse 1 (tid :: tid :: data) [])] })) ∧
    (s.pwr.good = true → s.job.st = .failed ∨ s.job.holds ≠ [] ∨ s.pwr.step ≠ 0 →
      exec .smbusAlertResponse s = .next { s with
        out := s.out ++ [.alertResponse (BitVec.ofNat 7 (0x4C + s.pwr.strap.toNat))] }) ∧
    (s.pwr.good = false ∨ (s.job.st ≠ .failed ∧ s.job.holds = [] ∧ s.pwr.step = 0) →
      exec .smbusAlertResponse s = .next s)

/-! ## Issue, steps, reset and what every command keeps -/

/-- R67: S0 reads as zero and a write to it is discarded; S1–S31 hold what was written last; registers are each strand's
own. -/
def Obligations.ScratchRegisters : Prop :=
  ∀ (s : State) (c t : Nat) (r q : BitVec 5) (v : Word),
    s.sreg c t 0 = 0 ∧ s.setSreg c t 0 v = s ∧
    (s.setSreg c t r v).sreg c t q = (if q = 0 then 0 else if q = r then v else s.sreg c t q) ∧
    (∀ d u, d ≠ c ∨ u ≠ t → (s.setSreg c t r v).sreg d u q = s.sreg d u q) ∧
    s.coresFrame (s.setSreg c t r v) c t false id ∧ s.sameButCores (s.setSreg c t r v)

/-- R24, R27, R49, R84, R359, R483: an instruction whose strand cannot issue does nothing; past the end of the
scratchpad the strand fetches a zero word, which runs as `nop` and is counted.

R77–R80, R85, R88, R93, R101: the words of an instruction decode to it, whatever its fields hold, and any two words
are those of the instruction that they decode to, so no bit of them is dropped. The model's own readings and choices
behind it: log entry 16. -/
def Obligations.CoreIssue : Prop :=
  (∀ (i : Instr) (s : State) c t, issuer i = some (c, t) →
    (s.canIssue c t = false → exec i s = .next s) ∧
    (s.canIssue c t = true → s.pastEnd c t = true →
      exec i s = .next ((s.advanceIp c t 8).violate .outOfCapacity))) ∧
  (∀ (i : Instr) (c : CoreId) (t : StrandId), issuer i = some (c.val, t.val) →
    ∃ w w2, encodeCore i = some (w, w2) ∧ decodeCore c t w w2 = i) ∧
  (∀ (c : CoreId) (t : StrandId) (w w2 : Word), ∃ x,
    encodeCore (decodeCore c t w w2) = some (w, x) ∧ (x = w2 ∨ x = 0) ∧ decodeCore c t w x = decodeCore c t w w2)

/-- A step takes the command at the front of the queue and runs it with the queue's rest; with none waiting, 10 ns pass
(the model's choice, log entry 1): chain time and the Plumb's counters advance by one period while the module has
power (R61, R291, R465). The model's own readings and choices behind it: log entry 1. -/
def Obligations.StepRunsFront : Prop :=
  (∀ (i : Instr) (s : State), step { s with pending := i :: s.pending } = exec i s) ∧
  (∀ (s : State), s.pending = [] → s.pwr.good = false → step s = .next s) ∧
  (∀ (s : State), s.pending = [] → s.pwr.good = true → step s = .next { s with
    chain := { s.chain with time := s.chain.time + 1 }
    pwr := { s.pwr with coreClk := s.pwr.coreClk + s.coreMHz / 100 }
    plb := { s.plb with uptime := s.plb.uptime + 1, powered := s.plb.powered + 1 } })

/-- What reset leaves: no input, UNSET, the chain's bypass closed; the registers read as their rules say (R64, R66,
R349–R351, R454); the memory is in its canonical form. That the scratch registers hold zero is the model's choice,
and so is zero for the module's power state before its input is applied. The model's own readings and choices behind
it: log entry 3. -/
def Obligations.ResetState : Prop :=
  State.reset.memOk ∧ State.reset.pending = [] ∧ State.reset.pwr.good = false ∧ State.reset.job.st = .unset ∧
  State.reset.chain.bypass = true ∧ State.reset.chain.addrValid = false ∧ State.reset.self = 0xFFF ∧
  (∀ c, c < 576 →
    State.reset.ctlWord 0 (0x3000028 + 0x1000 * c) = some 0xF ∧ State.reset.ctlWord 0 (0x3000010 + 0x1000 * c) = some 0 ∧
    ∀ n, n < 8 → State.reset.ctlWord 0 (0x3000200 + 0x1000 * c + 8 * n) = some 0 ∧
      State.reset.ctlWord 0 (0x3000240 + 0x1000 * c + 8 * n) = some 0) ∧
  State.reset.msn.lift.closed = 0 ∧ State.reset.msn.lift.mirroredOut = BitVec.allOnes 64 ∧
  State.reset.msn.lift.receivedIn = BitVec.allOnes 64 ∧ State.reset.pwr.energy = 0 ∧
  (∀ n, SMap.get 0 State.reset.pwr.droop n = 0) ∧ (∀ i, (SMap.get {} State.reset.plb.temps i).peak = 0x8000) ∧
  (∀ c t r, State.reset.sreg c t r = 0) ∧ (∀ c n b, (State.reset.core c).regs.byte n b = 0)

/-- Whatever a command does, it leaves the queue of waiting commands alone, takes back nothing that the module has
driven out, and gives out no free value and no loss number twice. The model's own readings and choices behind it:
log entries 2, 4, 16. -/
def Obligations.CommandsKeep : Prop :=
  ∀ (i : Instr) (s : State), ∃ u, exec i s = .next u ∧ u.pending = s.pending ∧ s.out <+: u.out ∧ s.free ≤ u.free ∧
    s.losses ≤ u.losses

/-- The invariant of the memory: every step keeps its canonical form, so equal memories are equal data, and no region
bears a loss number that has not been given out. The model's own readings and choices behind it: log entry 4. -/
def Obligations.StepKeepsMemory : Prop :=
  ∀ (s u : State), s.memOk → step s = .next u → u.memOk
end

