-- ==== Sys2Proof/Laws/Sparse.lean ====
section
/-! SUPPORT. Laws of sparse arrays: what a read finds after a write, and that every operation keeps the indexes
rising. -/

namespace Sys2Proof

variable {α : Type}

@[simp] theorem SMap.find?_nil (k : Nat) : SMap.find? ([] : SMap α) k = none := rfl

@[simp] theorem SMap.get_nil (d : α) (k : Nat) : SMap.get d [] k = d := rfl

theorem SMap.find?_set (m : SMap α) (k j : Nat) (v : α) :
    SMap.find? (SMap.set m k v) j = if j = k then some v else SMap.find? m j := by
  induction m with
  | nil => by_cases h : j = k
           · simp [SMap.set, SMap.find?, h]
           · simp [SMap.set, SMap.find?, h, Ne.symm h]
  | cons p m ih =>
    obtain ⟨i, w⟩ := p
    simp only [SMap.set]
    by_cases h1 : k < i
    · rw [if_pos h1]; by_cases h : j = k
      · subst h; simp [SMap.find?]
      · simp [SMap.find?, h, Ne.symm h]
    · rw [if_neg h1]; by_cases h2 : k = i
      · subst h2; by_cases h : j = k
        · subst h; simp [SMap.find?]
        · simp [SMap.find?, h, Ne.symm h]
      · rw [if_neg h2]; simp only [SMap.find?, ih]
        by_cases h : j = k
        · subst h; simp [Ne.symm h2]
        · simp [h]

theorem SMap.find?_erase (m : SMap α) (k j : Nat) :
    SMap.find? (SMap.erase m k) j = if j = k then none else SMap.find? m j := by
  induction m with
  | nil => simp [SMap.erase]
  | cons p m ih =>
    obtain ⟨i, w⟩ := p
    simp only [SMap.erase, List.filter_cons] at ih ⊢
    by_cases h : i = k <;> by_cases h' : i = j <;> by_cases h'' : j = k <;> simp_all [SMap.find?]

/-- A read of the index set finds the value set. -/
@[simp] theorem SMap.get_set_same (d : α) (m : SMap α) (k : Nat) (v : α) : SMap.get d (SMap.set m k v) k = v := by
  simp [SMap.get, SMap.find?_set]

/-- A read of another index is as before. -/
theorem SMap.get_set_ne (d : α) (m : SMap α) {k j : Nat} (v : α) (h : j ≠ k) :
    SMap.get d (SMap.set m k v) j = SMap.get d m j := by simp [SMap.get, SMap.find?_set, h]

theorem SMap.get_put [DecidableEq α] (d e : α) (m : SMap α) (k j : Nat) (v : α) (h : j = k → e = d) :
    SMap.get e (SMap.put d m k v) j = if j = k then v else SMap.get e m j := by
  unfold SMap.put SMap.get
  split
  · rw [SMap.find?_erase]; split <;> simp_all
  · rw [SMap.find?_set]; split <;> simp

@[simp] theorem SMap.get_put_same [DecidableEq α] (d : α) (m : SMap α) (k : Nat) (v : α) :
    SMap.get d (SMap.put d m k v) k = v := by simp [SMap.get_put]

theorem SMap.get_put_ne [DecidableEq α] (d e : α) (m : SMap α) {k j : Nat} (v : α) (h : j ≠ k) :
    SMap.get e (SMap.put d m k v) j = SMap.get e m j := by simp [SMap.get_put, h]

@[simp] theorem SMap.get_modify_same (d : α) (m : SMap α) (k : Nat) (f : α → α) :
    SMap.get d (SMap.modify d m k f) k = f (SMap.get d m k) := by simp [SMap.modify]

theorem SMap.get_modify_ne (d : α) (m : SMap α) {k j : Nat} (f : α → α) (h : j ≠ k) :
    SMap.get d (SMap.modify d m k f) j = SMap.get d m j := by simp [SMap.modify, SMap.get_set_ne, h]

/-! ## Rising indexes -/

theorem SMap.risesFrom_mono {lo hi : Nat} (m : SMap α) (h : SMap.risesFrom hi m = true) (hl : lo ≤ hi) :
    SMap.risesFrom lo m = true := by
  cases m with
  | nil => rfl
  | cons p m => simp only [SMap.risesFrom, Bool.and_eq_true, decide_eq_true_eq] at h ⊢; exact ⟨by omega, h.2⟩

theorem SMap.risesFrom_set {lo k : Nat} (m : SMap α) (v : α) (h : SMap.risesFrom lo m = true) (hk : lo ≤ k) :
    SMap.risesFrom lo (SMap.set m k v) = true := by
  induction m generalizing lo with
  | nil => simp [SMap.set, SMap.risesFrom, hk]
  | cons p m ih =>
    obtain ⟨i, w⟩ := p
    simp only [SMap.risesFrom, Bool.and_eq_true, decide_eq_true_eq] at h
    simp only [SMap.set]
    split
    · simp only [SMap.risesFrom, Bool.and_eq_true, decide_eq_true_eq]; exact ⟨hk, by omega, h.2⟩
    · split
      · subst_vars; simp only [SMap.risesFrom, Bool.and_eq_true, decide_eq_true_eq]; exact ⟨hk, h.2⟩
      · simp only [SMap.risesFrom, Bool.and_eq_true, decide_eq_true_eq]; exact ⟨h.1, ih h.2 (by omega)⟩

theorem SMap.risesFrom_filter {lo : Nat} (m : SMap α) (f : Nat × α → Bool) (h : SMap.risesFrom lo m = true) :
    SMap.risesFrom lo (m.filter f) = true := by
  induction m generalizing lo with
  | nil => rfl
  | cons p m ih =>
    simp only [SMap.risesFrom, Bool.and_eq_true, decide_eq_true_eq] at h
    rw [List.filter_cons]
    split
    · simp only [SMap.risesFrom, Bool.and_eq_true, decide_eq_true_eq]; exact ⟨h.1, ih h.2⟩
    · exact SMap.risesFrom_mono _ (ih h.2) (by omega)

theorem SMap.rises_set (m : SMap α) (k : Nat) (v : α) (h : m.rises = true) : (SMap.set m k v).rises = true :=
  SMap.risesFrom_set m v h (Nat.zero_le k)

theorem SMap.rises_filter (m : SMap α) (f : Nat × α → Bool) (h : SMap.rises m = true) :
    SMap.rises (m.filter f) = true := SMap.risesFrom_filter m f h

theorem SMap.rises_put [DecidableEq α] (d : α) (m : SMap α) (k : Nat) (v : α) (h : m.rises = true) :
    (SMap.put d m k v).rises = true := by
  unfold SMap.put; split
  · exact SMap.rises_filter m _ h
  · exact SMap.rises_set m k v h

theorem SMap.mem_set {m : SMap α} {k : Nat} {v : α} {p : Nat × α} (h : p ∈ SMap.set m k v) : p = (k, v) ∨ p ∈ m := by
  induction m with
  | nil => simpa [SMap.set] using h
  | cons q m ih =>
    obtain ⟨i, w⟩ := q
    simp only [SMap.set] at h
    split at h
    · simpa using h
    · split at h
      · simp only [List.mem_cons] at h ⊢; tauto
      · simp only [List.mem_cons] at h ⊢; rcases h with h | h
        · exact .inr (.inl h)
        · rcases ih h with h | h <;> tauto

theorem SMap.mem_put [DecidableEq α] {d : α} {m : SMap α} {k : Nat} {v : α} {p : Nat × α} (h : p ∈ SMap.put d m k v) :
    (p = (k, v) ∧ v ≠ d) ∨ p ∈ m := by
  unfold SMap.put at h
  split at h
  · exact .inr (List.mem_of_mem_filter h)
  · rcases SMap.mem_set h with h | h <;> tauto

end Sys2Proof
end

