-- ==== Sys2Proof/Laws/Mem.lean ====
section
/-! SUPPORT. Laws of the memory: what a byte reads as after a write, and that every memory operation keeps the
canonical form. -/

namespace Sys2Proof.Machine

@[simp] theorem Mem.put_lost (m : Mem) (k : Nat) (b : Byte) : (m.put k b).lost = m.lost := rfl

@[simp] theorem Mem.put_dflt (m : Mem) (k : Nat) (b : Byte) (j : Nat) : (m.put k b).dflt j = m.dflt j := rfl

/-- A byte read after one byte was written. -/
theorem Mem.byte_put (m : Mem) (k j : Nat) (b : Byte) : (m.put k b).byte j = if j = k then b else m.byte j := by
  simp only [Mem.byte, Mem.put_dflt]
  simp only [Mem.put]
  exact SMap.get_put _ _ _ _ _ _ (fun h => by rw [h])

@[simp] theorem Mem.byte_put_same (m : Mem) (k : Nat) (b : Byte) : (m.put k b).byte k = b := by simp [Mem.byte_put]

theorem Mem.byte_put_ne (m : Mem) {k j : Nat} (b : Byte) (h : j ≠ k) : (m.put k b).byte j = m.byte j := by
  simp [Mem.byte_put, h]

@[simp] theorem Mem.write_nil (m : Mem) (k : Nat) : m.write k [] = m := rfl

theorem Mem.write_cons (m : Mem) (k : Nat) (b : Byte) (bs : List Byte) :
    m.write k (b :: bs) = (m.put k b).write (k + 1) bs := rfl

/-- Bytes below the bytes written are as before. -/
theorem Mem.byte_write_lt (m : Mem) {k j : Nat} (bs : List Byte) (h : j < k) : (m.write k bs).byte j = m.byte j := by
  induction bs generalizing m k with
  | nil => rfl
  | cons b bs ih => rw [Mem.write_cons, ih _ (by omega), Mem.byte_put_ne _ _ (by omega)]

/-- A byte read after bytes were written: the byte written there, else the byte before. -/
theorem Mem.byte_write (m : Mem) (k j : Nat) (bs : List Byte) :
    (m.write k bs).byte j = if k ≤ j ∧ j < k + bs.length then bs.getD (j - k) 0 else m.byte j := by
  induction bs generalizing m k with
  | nil => simp
  | cons b bs ih =>
    rw [Mem.write_cons]
    by_cases h : j = k
    · subst h; rw [Mem.byte_write_lt _ _ (by omega)]; simp
    · rw [ih, Mem.byte_put_ne _ _ h]
      by_cases h1 : k + 1 ≤ j ∧ j < k + 1 + bs.length
      · rw [if_pos h1, if_pos (by simp; omega)]
        obtain ⟨n, hn⟩ : ∃ n, j - k = n + 1 := ⟨j - k - 1, by omega⟩
        rw [hn, List.getD_cons_succ, show j - (k + 1) = n by omega]
      · rw [if_neg h1, if_neg (by simp; omega)]

theorem Mem.byte_write_out (m : Mem) {k j : Nat} (bs : List Byte) (h : j < k ∨ k + bs.length ≤ j) :
    (m.write k bs).byte j = m.byte j := by rw [Mem.byte_write, if_neg (by omega)]

/-- A byte that no listed write names is as before. -/
theorem Mem.byte_writeList_out (m : Mem) {j : Nat} (l : List (Nat × Byte)) (h : ∀ p ∈ l, p.1 ≠ j) :
    (m.writeList l).byte j = m.byte j := by
  induction l generalizing m with
  | nil => rfl
  | cons p l ih =>
    show ((m.put p.1 p.2).writeList l).byte j = _
    rw [ih _ (fun q hq => h q (List.mem_cons_of_mem _ hq)),
      Mem.byte_put_ne _ _ (Ne.symm (h p List.mem_cons_self))]

/-! ## The canonical form -/

theorem Mem.wf_iff (m : Mem) : m.wf = true ↔ SMap.rises m.cells = true ∧ ∀ p ∈ m.cells, p.2 ≠ m.dflt p.1 := by
  simp [Mem.wf]

theorem Mem.wf_put (m : Mem) (k : Nat) (b : Byte) (h : m.wf = true) : (m.put k b).wf = true := by
  rw [Mem.wf_iff] at h ⊢
  refine ⟨SMap.rises_put _ _ _ _ h.1, fun p hp => ?_⟩
  rcases SMap.mem_put hp with ⟨rfl, hb⟩ | hp
  · exact hb
  · exact h.2 p hp

theorem Mem.wf_write (m : Mem) (k : Nat) (bs : List Byte) (h : m.wf = true) : (m.write k bs).wf = true := by
  induction bs generalizing m k with
  | nil => exact h
  | cons b bs ih => exact ih _ _ (Mem.wf_put _ _ _ h)

theorem Mem.wf_writeList (m : Mem) (l : List (Nat × Byte)) (h : m.wf = true) : (m.writeList l).wf = true := by
  induction l generalizing m with
  | nil => exact h
  | cons p l ih => exact ih _ (Mem.wf_put _ _ _ h)

theorem Mem.wf_zero (m : Mem) (k n : Nat) (h : m.wf = true) : (m.zero k n).wf = true := Mem.wf_write _ _ _ h

theorem SMap.get_congr_erase {α : Type} (d : α) (m : SMap α) {k j : Nat} (h : j ≠ k) :
    SMap.get d (SMap.erase m k) j = SMap.get d m j := by simp [SMap.get, SMap.find?_erase, h]

theorem Mem.wf_lose (m : Mem) (r n : Nat) (h : m.wf = true) : (m.lose r n).wf = true := by
  rw [Mem.wf_iff] at h ⊢
  refine ⟨SMap.rises_filter _ _ h.1, fun p hp => ?_⟩
  simp only [Mem.lose, List.mem_filter, bne_iff_ne] at hp
  have := h.2 p hp.1
  simpa only [Mem.dflt, Mem.lose, SMap.get_set_ne 0 m.lost n hp.2] using this

theorem Mem.wf_zeroRegion (m : Mem) (r : Nat) (h : m.wf = true) : (m.zeroRegion r).wf = true := by
  rw [Mem.wf_iff] at h ⊢
  refine ⟨SMap.rises_filter _ _ h.1, fun p hp => ?_⟩
  simp only [Mem.zeroRegion, List.mem_filter, bne_iff_ne] at hp
  have := h.2 p hp.1
  simpa only [Mem.dflt, Mem.zeroRegion, SMap.get_congr_erase 0 m.lost hp.2] using this

/-- Memory read as zero where nothing is lost and nothing is listed. -/
theorem Mem.byte_empty (k : Nat) : ({} : Mem).byte k = 0 := rfl

/-! ## Loss numbers -/

theorem Mem.lost_write (m : Mem) (k : Nat) (bs : List Byte) : (m.write k bs).lost = m.lost := by
  induction bs generalizing m k with
  | nil => rfl
  | cons b bs ih => exact ih _ _

theorem Mem.lost_writeList (m : Mem) (l : List (Nat × Byte)) : (m.writeList l).lost = m.lost := by
  induction l generalizing m with
  | nil => rfl
  | cons p l ih => exact ih _

end Sys2Proof.Machine
end

