-- ==== Sys2Proof/Laws/Keeps.lean ====
section
/-! SUPPORT. What no command may break, as a relation between the state before and the state after, and the lemmas that
carry it through updates, branches and folds. -/

namespace Sys2Proof.Machine

/-- What no command may break: the queue of waiting commands is not touched, a free value or loss number that was
given out is not given out again, nothing driven to the outside is taken back, and the memory stays in form. -/
structure State.Keeps (s u : State) : Prop where
  pending : u.pending = s.pending
  free : s.free ≤ u.free
  losses : s.losses ≤ u.losses
  out : s.out <+: u.out
  memOk : s.memOk → u.memOk

theorem State.Keeps.refl (s : State) : s.Keeps s := ⟨rfl, Nat.le_refl _, Nat.le_refl _, List.prefix_rfl, id⟩

theorem State.Keeps.trans {s u v : State} (h : s.Keeps u) (g : u.Keeps v) : s.Keeps v :=
  ⟨g.pending.trans h.pending, h.free.trans g.free, h.losses.trans g.losses, h.out.trans g.out, g.memOk ∘ h.memOk⟩

/-- An update of any other field keeps it. -/
theorem State.Keeps.upd {s u : State} (h : s.Keeps u) {co cl ft ne mo ln ch ms po jo pl pw st} :
    s.Keeps { pending := u.pending, mem := u.mem, cores := co, clusters := cl, ft := ft, net := ne, mortar := mo,
              lnk := ln, chain := ch, msn := ms, ports := po, job := jo, plb := pl, pwr := pw, start := st,
              free := u.free, losses := u.losses, out := u.out } :=
  h.trans ⟨rfl, Nat.le_refl _, Nat.le_refl _, List.prefix_rfl, id⟩

/-- A memory with the same loss numbers, still in form if the first one is. -/
structure Mem.Ok (m m' : Mem) : Prop where
  lost : m'.lost = m.lost
  wf : m.wf = true → m'.wf = true

theorem Mem.Ok.refl (m : Mem) : m.Ok m := ⟨rfl, id⟩

theorem Mem.Ok.put {m m' : Mem} (k : Nat) (b : Byte) (h : m.Ok m') : m.Ok (m'.put k b) :=
  ⟨h.lost, fun w => Mem.wf_put _ _ _ (h.wf w)⟩

theorem Mem.Ok.write {m m' : Mem} (k : Nat) (bs : List Byte) (h : m.Ok m') : m.Ok (m'.write k bs) :=
  ⟨(Mem.lost_write _ _ _).trans h.lost, fun w => Mem.wf_write _ _ _ (h.wf w)⟩

theorem Mem.Ok.writeList {m m' : Mem} (l : List (Nat × Byte)) (h : m.Ok m') : m.Ok (m'.writeList l) :=
  ⟨(Mem.lost_writeList _ _).trans h.lost, fun w => Mem.wf_writeList _ _ (h.wf w)⟩

theorem Mem.Ok.zero {m m' : Mem} (k n : Nat) (h : m.Ok m') : m.Ok (m'.zero k n) := h.write _ _

/-- An update of the memory by writes, and of any other field, keeps it. -/
theorem State.Keeps.updMem {s u : State} (h : s.Keeps u) {m : Mem} {co cl ft ne mo ln ch ms po jo pl pw st}
    (hm : u.mem.Ok m) :
    s.Keeps { pending := u.pending, mem := m, cores := co, clusters := cl, ft := ft, net := ne, mortar := mo,
              lnk := ln, chain := ch, msn := ms, ports := po, job := jo, plb := pl, pwr := pw, start := st,
              free := u.free, losses := u.losses, out := u.out } :=
  h.trans ⟨rfl, Nat.le_refl _, Nat.le_refl _, List.prefix_rfl,
    fun k => ⟨hm.wf k.1, by simpa only [hm.lost] using k.2⟩⟩

theorem State.Keeps.ite {s a b : State} {c : Prop} [Decidable c] (ha : c → s.Keeps a) (hb : ¬c → s.Keeps b) :
    s.Keeps (if c then a else b) := by
  split
  · exact ha ‹_›
  · exact hb ‹_›

theorem State.Keeps.foldl {α : Type} {s u : State} (f : State → α → State) (l : List α)
    (hf : ∀ v x, s.Keeps v → s.Keeps (f v x)) (h : s.Keeps u) : s.Keeps (l.foldl f u) := by
  induction l generalizing u with
  | nil => exact h
  | cons x l ih => exact ih (hf _ _ h)

theorem State.Keeps.foldl₁ {α β : Type} {s : State} {u : State × β} (f : State × β → α → State × β) (l : List α)
    (hf : ∀ v x, s.Keeps v.1 → s.Keeps (f v x).1) (h : s.Keeps u.1) : s.Keeps (l.foldl f u).1 := by
  induction l generalizing u with
  | nil => exact h
  | cons x l ih => exact ih (hf _ _ h)

/-! ## The updates that touch memory, the outside and the counters -/

theorem State.emit_keeps {s u : State} (o : Out) (h : s.Keeps u) : s.Keeps (u.emit o) :=
  h.trans ⟨rfl, Nat.le_refl _, Nat.le_refl _, List.prefix_append _ _, id⟩

theorem State.useFree_keeps {s u : State} (h : s.Keeps u) : s.Keeps u.useFree :=
  h.trans ⟨rfl, Nat.le_succ _, Nat.le_refl _, List.prefix_rfl, id⟩

theorem State.useFrees_keeps {s u : State} (n : Nat) (h : s.Keeps u) : s.Keeps (u.useFrees n) :=
  h.trans ⟨rfl, Nat.le_add_right _ _, Nat.le_refl _, List.prefix_rfl, id⟩

theorem State.checkWaits_keeps {s u : State} (h : s.Keeps u) : s.Keeps u.checkWaits := by
  unfold State.checkWaits
  dsimp only
  exact State.Keeps.ite (fun _ => h) (fun _ => h.upd)

theorem State.store_keeps {s u : State} (k : Nat) (bs : List Byte) (h : s.Keeps u) : s.Keeps (u.store k bs) :=
  State.checkWaits_keeps (h.updMem ((Mem.Ok.refl _).write k bs))

theorem State.storeList_keeps {s u : State} (l : List (Nat × Byte)) (h : s.Keeps u) : s.Keeps (u.storeList l) :=
  State.checkWaits_keeps (h.updMem ((Mem.Ok.refl _).writeList l))

theorem State.lose_keeps (s : State) (r : Nat) :
    s.Keeps { s with mem := s.mem.lose r (s.losses + 1), losses := s.losses + 1 } := by
  refine ⟨rfl, Nat.le_refl _, Nat.le_succ _, List.prefix_rfl, fun k => ⟨Mem.wf_lose _ _ _ k.1, fun p hp => ?_⟩⟩
  rcases SMap.mem_set hp with rfl | hp
  · exact Nat.le_refl _
  · exact (k.2 p hp).trans (Nat.le_succ _)

theorem State.loseRegions_keeps {s u : State} (rs : List Nat) (h : s.Keeps u) : s.Keeps (u.loseRegions rs) :=
  State.Keeps.foldl _ rs (fun v r hv => hv.trans (State.lose_keeps v r)) h

theorem State.zeroRegions_keeps {s u : State} (rs : List Nat) (h : s.Keeps u) : s.Keeps (u.zeroRegions rs) := by
  refine h.trans ⟨rfl, Nat.le_refl _, Nat.le_refl _, List.prefix_rfl, fun k => ?_⟩
  have : ∀ (m : Mem), (m.wf = true ∧ ∀ p ∈ m.lost, p.2 ≤ u.losses) →
      (rs.foldl Mem.zeroRegion m).wf = true ∧ ∀ p ∈ (rs.foldl Mem.zeroRegion m).lost, p.2 ≤ u.losses := by
    induction rs with
    | nil => exact fun _ h => h
    | cons r rs ih =>
      exact fun m hm => ih _ ⟨Mem.wf_zeroRegion m r hm.1, fun p hp => hm.2 p (List.mem_of_mem_filter hp)⟩
  exact this _ k

/-- Regions listed with one loss number. -/
theorem lostFold_le (rs : List Nat) (n : Nat) (m : SMap Nat) (hm : ∀ p ∈ m, p.2 ≤ n) :
    ∀ p ∈ rs.foldl (fun m r => SMap.set m r n) m, p.2 ≤ n := by
  induction rs generalizing m with
  | nil => exact hm
  | cons r rs ih =>
    refine ih _ fun p hp => ?_
    rcases SMap.mem_set hp with rfl | hp
    · exact Nat.le_refl _
    · exact hm p hp

end Sys2Proof.Machine
end

