-- ==== Sys2Proof/Laws/KeepsOps.lean ====
section
/-! SUPPORT. Every operation of the machine keeps what no command may break (Laws/Keeps.lean): one lemma for each
operation that answers a state. -/

set_option linter.unusedTactic false
set_option linter.unreachableTactic false

namespace Sys2Proof.Machine

theorem State.logAdd_keeps {s0 s : State} (off : Nat) (bytes : Nat) (n : Nat) 
    (hk : s0.Keeps s) : s0.Keeps (State.logAdd s off bytes n) := by
  unfold State.logAdd
  with_reducible repeat'
    first
      | assumption | apply State.Keeps.ite | apply State.Keeps.foldl | apply State.Keeps.foldl₁ | (intro _)
      | (dsimp only) | (split) | (fail_if_no_progress apply State.Keeps.upd)


theorem State.violate_keeps {s0 s : State} (v : Viol) 
    (hk : s0.Keeps s) : s0.Keeps (State.violate s v) := by
  unfold State.violate
  with_reducible repeat'
    first
      | assumption | apply State.logAdd_keeps | apply State.Keeps.ite | apply State.Keeps.foldl
      | apply State.Keeps.foldl₁ | (intro _) | (dsimp only) | (split) | (fail_if_no_progress apply State.Keeps.upd)


theorem State.modCore_keeps {s0 s : State} (c : Nat) (f : Core → Core) 
    (hk : s0.Keeps s) : s0.Keeps (State.modCore s c f) := by
  unfold State.modCore
  with_reducible repeat'
    first
      | assumption | apply State.Keeps.ite | apply State.Keeps.foldl | apply State.Keeps.foldl₁ | (intro _)
      | (dsimp only) | (split) | (fail_if_no_progress apply State.Keeps.upd)


theorem State.modStrand_keeps {s0 s : State} (c : Nat) (t : Nat) (f : Strand → Strand) 
    (hk : s0.Keeps s) : s0.Keeps (State.modStrand s c t f) := by
  unfold State.modStrand
  with_reducible repeat'
    first
      | assumption | apply State.modCore_keeps | apply State.Keeps.ite | apply State.Keeps.foldl
      | apply State.Keeps.foldl₁ | (intro _) | (dsimp only) | (split) | (fail_if_no_progress apply State.Keeps.upd)


theorem State.advanceIp_keeps {s0 s : State} (c : Nat) (t : Nat) (n : Word) 
    (hk : s0.Keeps s) : s0.Keeps (State.advanceIp s c t n) := by
  unfold State.advanceIp
  with_reducible repeat'
    first
      | assumption | apply State.modStrand_keeps | apply State.Keeps.ite | apply State.Keeps.foldl
      | apply State.Keeps.foldl₁ | (intro _) | (dsimp only) | (split) | (fail_if_no_progress apply State.Keeps.upd)


theorem State.issue_keeps {s0 s : State} (c : Nat) (t : Nat) (ready : Bool) (effect : State → State) (heffect : ∀ v, s0.Keeps v → s0.Keeps (effect v))
    (hk : s0.Keeps s) : s0.Keeps (State.issue s c t ready effect) := by
  unfold State.issue
  with_reducible repeat'
    first
      | assumption | apply heffect | apply State.violate_keeps | apply State.advanceIp_keeps | apply State.Keeps.ite
      | apply State.Keeps.foldl | apply State.Keeps.foldl₁ | (intro _) | (dsimp only) | (split)
      | (fail_if_no_progress apply State.Keeps.upd)


theorem State.outOfCapIf_keeps {s0 s : State} (b : Bool) 
    (hk : s0.Keeps s) : s0.Keeps (State.outOfCapIf s b) := by
  unfold State.outOfCapIf
  with_reducible repeat'
    first
      | assumption | apply State.violate_keeps | apply State.Keeps.ite | apply State.Keeps.foldl
      | apply State.Keeps.foldl₁ | (intro _) | (dsimp only) | (split) | (fail_if_no_progress apply State.Keeps.upd)


theorem State.countShape_keeps {s0 s : State} (c : Nat) (t : Nat) 
    (hk : s0.Keeps s) : s0.Keeps (State.countShape s c t) := by
  unfold State.countShape
  with_reducible repeat'
    first
      | assumption | apply State.outOfCapIf_keeps | apply State.Keeps.ite | apply State.Keeps.foldl
      | apply State.Keeps.foldl₁ | (intro _) | (dsimp only) | (split) | (fail_if_no_progress apply State.Keeps.upd)


theorem State.modRun_keeps {s0 s : State} (c : Nat) (f : CoreRun → CoreRun) 
    (hk : s0.Keeps s) : s0.Keeps (State.modRun s c f) := by
  unfold State.modRun
  with_reducible repeat'
    first
      | assumption | apply State.modCore_keeps | apply State.Keeps.ite | apply State.Keeps.foldl
      | apply State.Keeps.foldl₁ | (intro _) | (dsimp only) | (split) | (fail_if_no_progress apply State.Keeps.upd)


theorem State.misfit_keeps {s0 s : State} (c : Nat) 
    (hk : s0.Keeps s) : s0.Keeps (State.misfit s c) := by
  unfold State.misfit
  with_reducible repeat'
    first
      | assumption | apply State.modRun_keeps | apply State.Keeps.ite | apply State.Keeps.foldl
      | apply State.Keeps.foldl₁ | (intro _) | (dsimp only) | (split) | (fail_if_no_progress apply State.Keeps.upd)


theorem State.misfitIf_keeps {s0 s : State} (c : Nat) (b : Bool) 
    (hk : s0.Keeps s) : s0.Keeps (State.misfitIf s c b) := by
  unfold State.misfitIf
  with_reducible repeat'
    first
      | assumption | apply State.misfit_keeps | apply State.Keeps.ite | apply State.Keeps.foldl
      | apply State.Keeps.foldl₁ | (intro _) | (dsimp only) | (split) | (fail_if_no_progress apply State.Keeps.upd)


theorem State.retire_keeps {s0 s : State} (c : Nat) (t : Nat) (n : Word) (mis : Bool) 
    (hk : s0.Keeps s) : s0.Keeps (State.retire s c t n mis) := by
  unfold State.retire
  with_reducible repeat'
    first
      | assumption | apply State.misfitIf_keeps | apply State.advanceIp_keeps | apply State.Keeps.ite
      | apply State.Keeps.foldl | apply State.Keeps.foldl₁ | (intro _) | (dsimp only) | (split)
      | (fail_if_no_progress apply State.Keeps.upd)


theorem State.modArr_keeps {s0 s : State} (c : Nat) (f : ArrayUnit → ArrayUnit) 
    (hk : s0.Keeps s) : s0.Keeps (State.modArr s c f) := by
  unfold State.modArr
  with_reducible repeat'
    first
      | assumption | apply State.modCore_keeps | apply State.Keeps.ite | apply State.Keeps.foldl
      | apply State.Keeps.foldl₁ | (intro _) | (dsimp only) | (split) | (fail_if_no_progress apply State.Keeps.upd)


theorem State.writeSaved_keeps {s0 s : State} (c : Nat) (n : Nat) (img : List (Nat × Byte)) 
    (hk : s0.Keeps s) : s0.Keeps (State.writeSaved s c n img) := by
  unfold State.writeSaved
  with_reducible repeat'
    first
      | assumption | apply State.storeList_keeps | apply State.zeroRegions_keeps | apply State.zeroRegions_keeps
      | apply State.storeList_keeps | apply State.Keeps.ite | apply State.Keeps.foldl | apply State.Keeps.foldl₁
      | (intro _) | (dsimp only) | (split) | (fail_if_no_progress apply State.Keeps.upd)


theorem State.saveCtx_keeps {s0 s : State} (c : Nat) 
    (hk : s0.Keeps s) : s0.Keeps (State.saveCtx s c) := by
  unfold State.saveCtx
  with_reducible repeat'
    first
      | assumption | apply State.writeSaved_keeps | apply State.Keeps.ite | apply State.Keeps.foldl
      | apply State.Keeps.foldl₁ | (intro _) | (dsimp only) | (split) | (fail_if_no_progress apply State.Keeps.upd)


theorem State.parkSave_keeps {s0 s : State} (c : Nat) 
    (hk : s0.Keeps s) : s0.Keeps (State.parkSave s c) := by
  unfold State.parkSave
  with_reducible repeat'
    first
      | assumption | apply State.modRun_keeps | apply State.saveCtx_keeps | apply State.Keeps.ite
      | apply State.Keeps.foldl | apply State.Keeps.foldl₁ | (intro _) | (dsimp only) | (split)
      | (fail_if_no_progress apply State.Keeps.upd)


theorem State.modRange_keeps {s0 s : State} (i : Nat) (f : RangeSlot → RangeSlot) 
    (hk : s0.Keeps s) : s0.Keeps (State.modRange s i f) := by
  unfold State.modRange
  with_reducible repeat'
    first
      | assumption | apply State.Keeps.ite | apply State.Keeps.foldl | apply State.Keeps.foldl₁ | (intro _)
      | (dsimp only) | (split) | (fail_if_no_progress apply State.Keeps.upd)


theorem State.noteConv_keeps {s0 s : State} (g : BitVec 6) (f : RSlot) (evs : List CEvent) 
    (hk : s0.Keeps s) : s0.Keeps (State.noteConv s g f evs) := by
  unfold State.noteConv
  with_reducible repeat'
    first
      | assumption | apply State.modRange_keeps | apply State.Keeps.ite | apply State.Keeps.foldl
      | apply State.Keeps.foldl₁ | (intro _) | (dsimp only) | (split) | (fail_if_no_progress apply State.Keeps.upd)


theorem State.modRegs_keeps {s0 s : State} (c : Nat) (f : RegFile → RegFile) 
    (hk : s0.Keeps s) : s0.Keeps (State.modRegs s c f) := by
  unfold State.modRegs
  with_reducible repeat'
    first
      | assumption | apply State.modCore_keeps | apply State.Keeps.ite | apply State.Keeps.foldl
      | apply State.Keeps.foldl₁ | (intro _) | (dsimp only) | (split) | (fail_if_no_progress apply State.Keeps.upd)


theorem State.freeColumns_keeps {s0 s : State} (c : Nat) (r : Retry) 
    (hk : s0.Keeps s) : s0.Keeps (State.freeColumns s c r) := by
  unfold State.freeColumns
  with_reducible repeat'
    first
      | assumption | apply State.useFree_keeps | apply State.modArr_keeps | apply State.useFree_keeps
      | apply State.Keeps.ite | apply State.Keeps.foldl | apply State.Keeps.foldl₁ | (intro _) | (dsimp only)
      | (split) | (fail_if_no_progress apply State.Keeps.upd)


theorem State.modStart_keeps {s0 s : State} (f : Start → Start) 
    (hk : s0.Keeps s) : s0.Keeps (State.modStart s f) := by
  unfold State.modStart
  with_reducible repeat'
    first
      | assumption | apply State.Keeps.ite | apply State.Keeps.foldl | apply State.Keeps.foldl₁ | (intro _)
      | (dsimp only) | (split) | (fail_if_no_progress apply State.Keeps.upd)


theorem State.spdm_keeps {s0 s : State} (path : RegPath) (code : Nat) (data : List Byte) (req : List Byte) 
    (hk : s0.Keeps s) : s0.Keeps (State.spdm s path code data req) := by
  unfold State.spdm
  with_reducible repeat'
    first
      | assumption | apply State.emit_keeps | apply State.modStart_keeps | apply State.emit_keeps
      | apply State.Keeps.ite | apply State.Keeps.foldl | apply State.Keeps.foldl₁ | (intro _) | (dsimp only)
      | (split) | (fail_if_no_progress apply State.Keeps.upd)


theorem State.spdmWhen_keeps {s0 s : State} (path : RegPath) (ok : Bool) (act : State → State) (hact : ∀ v, s0.Keeps v → s0.Keeps (act v))
    (hk : s0.Keeps s) : s0.Keeps (State.spdmWhen s path ok act) := by
  unfold State.spdmWhen
  with_reducible repeat'
    first
      | assumption | apply hact | apply State.emit_keeps | apply State.emit_keeps | apply State.Keeps.ite
      | apply State.Keeps.foldl | apply State.Keeps.foldl₁ | (intro _) | (dsimp only) | (split)
      | (fail_if_no_progress apply State.Keeps.upd)


theorem State.withIdentity_keeps {s0 s : State} (path : RegPath) (act : State → State) (hact : ∀ v, s0.Keeps v → s0.Keeps (act v))
    (hk : s0.Keeps s) : s0.Keeps (State.withIdentity s path act) := by
  unfold State.withIdentity
  with_reducible repeat'
    first
      | assumption | apply hact | apply State.emit_keeps | apply State.emit_keeps | apply State.Keeps.ite
      | apply State.Keeps.foldl | apply State.Keeps.foldl₁ | (intro _) | (dsimp only) | (split)
      | (fail_if_no_progress apply State.Keeps.upd)


theorem State.spdmSigned_keeps {s0 s : State} (path : RegPath) (code : Nat) (data : List Byte) (req : List Byte) 
    (hk : s0.Keeps s) : s0.Keeps (State.spdmSigned s path code data req) := by
  unfold State.spdmSigned
  with_reducible repeat'
    first
      | assumption | apply State.spdm_keeps | apply State.useFrees_keeps | apply State.useFrees_keeps
      | apply State.Keeps.ite | apply State.Keeps.foldl | apply State.Keeps.foldl₁ | (intro _) | (dsimp only)
      | (split) | (fail_if_no_progress apply State.Keeps.upd)


theorem State.pldm_keeps {s0 s : State} (path : RegPath) (code : Nat) (data : List Byte) 
    (hk : s0.Keeps s) : s0.Keeps (State.pldm s path code data) := by
  unfold State.pldm
  with_reducible repeat'
    first
      | assumption | apply State.emit_keeps | apply State.emit_keeps | apply State.Keeps.ite | apply State.Keeps.foldl
      | apply State.Keeps.foldl₁ | (intro _) | (dsimp only) | (split) | (fail_if_no_progress apply State.Keeps.upd)


theorem State.pldmUpd_keeps {s0 s : State} (path : RegPath) (code : Nat) (act : State → State) (hact : ∀ v, s0.Keeps v → s0.Keeps (act v))
    (hk : s0.Keeps s) : s0.Keeps (State.pldmUpd s path code act) := by
  unfold State.pldmUpd
  with_reducible repeat'
    first
      | assumption | apply hact | apply State.pldm_keeps | apply State.Keeps.ite | apply State.Keeps.foldl
      | apply State.Keeps.foldl₁ | (intro _) | (dsimp only) | (split) | (fail_if_no_progress apply State.Keeps.upd)


theorem State.pldmBase_keeps {s0 s : State} (path : RegPath) (command : Byte) (data : List Byte) 
    (hk : s0.Keeps s) : s0.Keeps (State.pldmBase s path command data) := by
  unfold State.pldmBase
  with_reducible repeat'
    first
      | assumption | apply State.modStart_keeps | apply State.pldm_keeps | apply State.Keeps.ite
      | apply State.Keeps.foldl | apply State.Keeps.foldl₁ | (intro _) | (dsimp only) | (split)
      | (fail_if_no_progress apply State.Keeps.upd)


theorem State.updCtrl_keeps {s0 s : State} (path : RegPath) (v : Word) (act : BitVec 4 → State → State) (hact : ∀ w0 v, s0.Keeps v → s0.Keeps (act w0 v))
    (hk : s0.Keeps s) : s0.Keeps (State.updCtrl s path v act) := by
  unfold State.updCtrl
  with_reducible repeat'
    first
      | assumption | apply hact | apply State.violate_keeps | apply State.Keeps.ite | apply State.Keeps.foldl
      | apply State.Keeps.foldl₁ | (intro _) | (dsimp only) | (split) | (fail_if_no_progress apply State.Keeps.upd)


theorem State.modPlb_keeps {s0 s : State} (f : Plumb → Plumb) 
    (hk : s0.Keeps s) : s0.Keeps (State.modPlb s f) := by
  unfold State.modPlb
  with_reducible repeat'
    first
      | assumption | apply State.Keeps.ite | apply State.Keeps.foldl | apply State.Keeps.foldl₁ | (intro _)
      | (dsimp only) | (split) | (fail_if_no_progress apply State.Keeps.upd)


theorem State.modUpd_keeps {s0 s : State} (f : Upd → Upd) 
    (hk : s0.Keeps s) : s0.Keeps (State.modUpd s f) := by
  unfold State.modUpd
  with_reducible repeat'
    first
      | assumption | apply State.modPlb_keeps | apply State.Keeps.ite | apply State.Keeps.foldl
      | apply State.Keeps.foldl₁ | (intro _) | (dsimp only) | (split) | (fail_if_no_progress apply State.Keeps.upd)


theorem State.startReq_keeps {s0 s : State} (r : UpdReq) 
    (hk : s0.Keeps s) : s0.Keeps (State.startReq s r) := by
  unfold State.startReq
  with_reducible repeat'
    first
      | assumption | apply State.modUpd_keeps | apply State.Keeps.ite | apply State.Keeps.foldl
      | apply State.Keeps.foldl₁ | (intro _) | (dsimp only) | (split) | (fail_if_no_progress apply State.Keeps.upd)


theorem State.updBegin_keeps {s0 s : State} (target : BitVec 4) (o : BitVec 4) 
    (hk : s0.Keeps s) : s0.Keeps (State.updBegin s target o) := by
  unfold State.updBegin
  with_reducible repeat'
    first
      | assumption | apply State.violate_keeps | apply State.modUpd_keeps | apply State.startReq_keeps
      | apply State.Keeps.ite | apply State.Keeps.foldl | apply State.Keeps.foldl₁ | (intro _) | (dsimp only)
      | (split) | (fail_if_no_progress apply State.Keeps.upd)


theorem State.bufWrite_keeps {s0 s : State} (path : RegPath) (off : Nat) (bs : List Byte) 
    (hk : s0.Keeps s) : s0.Keeps (State.bufWrite s path off bs) := by
  unfold State.bufWrite
  with_reducible repeat'
    first
      | assumption | apply State.violate_keeps | apply State.modUpd_keeps | apply State.Keeps.ite
      | apply State.Keeps.foldl | apply State.Keeps.foldl₁ | (intro _) | (dsimp only) | (split)
      | (fail_if_no_progress apply State.Keeps.upd)


theorem State.ownerReq_keeps {s0 s : State} (o : BitVec 4) (act : State → State) (hact : ∀ v, s0.Keeps v → s0.Keeps (act v))
    (hk : s0.Keeps s) : s0.Keeps (State.ownerReq s o act) := by
  unfold State.ownerReq
  with_reducible repeat'
    first
      | assumption | apply hact | apply State.violate_keeps | apply State.Keeps.ite | apply State.Keeps.foldl
      | apply State.Keeps.foldl₁ | (intro _) | (dsimp only) | (split) | (fail_if_no_progress apply State.Keeps.upd)


theorem State.updWrite_keeps {s0 s : State} (chunk : Nat) (len8 : Nat) (o : BitVec 4) 
    (hk : s0.Keeps s) : s0.Keeps (State.updWrite s chunk len8 o) := by
  unfold State.updWrite
  with_reducible repeat'
    first
      | assumption | apply State.violate_keeps | apply State.ownerReq_keeps | apply State.startReq_keeps
      | apply State.Keeps.ite | apply State.Keeps.foldl | apply State.Keeps.foldl₁ | (intro _) | (dsimp only)
      | (split) | (fail_if_no_progress apply State.Keeps.upd)


theorem State.flashErase_keeps {s0 s : State} (off : Nat) (n : Nat) 
    (hk : s0.Keeps s) : s0.Keeps (State.flashErase s off n) := by
  unfold State.flashErase
  with_reducible repeat'
    first
      | assumption | apply State.modStart_keeps | apply State.Keeps.ite | apply State.Keeps.foldl
      | apply State.Keeps.foldl₁ | (intro _) | (dsimp only) | (split) | (fail_if_no_progress apply State.Keeps.upd)


theorem State.eraseSlot_keeps {s0 s : State} (n : Nat) 
    (hk : s0.Keeps s) : s0.Keeps (State.eraseSlot s n) := by
  unfold State.eraseSlot
  with_reducible repeat'
    first
      | assumption | apply State.modStart_keeps | apply State.flashErase_keeps | apply State.Keeps.ite
      | apply State.Keeps.foldl | apply State.Keeps.foldl₁ | (intro _) | (dsimp only) | (split)
      | (fail_if_no_progress apply State.Keeps.upd)


theorem State.endSession_keeps {s0 s : State} (result : BitVec 4) 
    (hk : s0.Keeps s) : s0.Keeps (State.endSession s result) := by
  unfold State.endSession
  with_reducible repeat'
    first
      | assumption | apply State.modUpd_keeps | apply State.eraseSlot_keeps | apply State.Keeps.ite
      | apply State.Keeps.foldl | apply State.Keeps.foldl₁ | (intro _) | (dsimp only) | (split)
      | (fail_if_no_progress apply State.Keeps.upd)


theorem State.abortUpd_keeps {s0 s : State} (result : BitVec 4) 
    (hk : s0.Keeps s) : s0.Keeps (State.abortUpd s result) := by
  unfold State.abortUpd
  with_reducible repeat'
    first
      | assumption | apply State.modUpd_keeps | apply State.endSession_keeps | apply State.Keeps.ite
      | apply State.Keeps.foldl | apply State.Keeps.foldl₁ | (intro _) | (dsimp only) | (split)
      | (fail_if_no_progress apply State.Keeps.upd)


theorem State.updAbort_keeps {s0 s : State} (o : BitVec 4) 
    (hk : s0.Keeps s) : s0.Keeps (State.updAbort s o) := by
  unfold State.updAbort
  with_reducible repeat'
    first
      | assumption | apply State.ownerReq_keeps | apply State.abortUpd_keeps | apply State.Keeps.ite
      | apply State.Keeps.foldl | apply State.Keeps.foldl₁ | (intro _) | (dsimp only) | (split)
      | (fail_if_no_progress apply State.Keeps.upd)


theorem State.modChain_keeps {s0 s : State} (f : Chain → Chain) 
    (hk : s0.Keeps s) : s0.Keeps (State.modChain s f) := by
  unfold State.modChain
  with_reducible repeat'
    first
      | assumption | apply State.Keeps.ite | apply State.Keeps.foldl | apply State.Keeps.foldl₁ | (intro _)
      | (dsimp only) | (split) | (fail_if_no_progress apply State.Keeps.upd)


theorem State.takeFrame_keeps {s0 s : State} (f : Frame) (crcOk : Bool) (ty : BitVec 4) (act : State → State) (hact : ∀ v, s0.Keeps v → s0.Keeps (act v))
    (hk : s0.Keeps s) : s0.Keeps (State.takeFrame s f crcOk ty act) := by
  unfold State.takeFrame
  with_reducible repeat'
    first
      | assumption | apply hact | apply State.modChain_keeps | apply State.violate_keeps | apply State.Keeps.ite
      | apply State.Keeps.foldl | apply State.Keeps.foldl₁ | (intro _) | (dsimp only) | (split)
      | (fail_if_no_progress apply State.Keeps.upd)


theorem State.passDown_keeps {s0 s : State} (f : Frame) 
    (hk : s0.Keeps s) : s0.Keeps (State.passDown s f) := by
  unfold State.passDown
  with_reducible repeat'
    first
      | assumption | apply State.emit_keeps | apply State.emit_keeps | apply State.Keeps.ite | apply State.Keeps.foldl
      | apply State.Keeps.foldl₁ | (intro _) | (dsimp only) | (split) | (fail_if_no_progress apply State.Keeps.upd)


theorem State.takeDown_keeps {s0 s : State} (f : Frame) (crcOk : Bool) (ty : BitVec 4) (act : State → State) (hact : ∀ v, s0.Keeps v → s0.Keeps (act v))
    (hk : s0.Keeps s) : s0.Keeps (State.takeDown s f crcOk ty act) := by
  unfold State.takeDown
  with_reducible repeat'
    first
      | assumption | apply hact | apply State.takeFrame_keeps | apply State.passDown_keeps
      | apply State.modChain_keeps | apply State.Keeps.ite | apply State.Keeps.foldl | apply State.Keeps.foldl₁
      | (intro _) | (dsimp only) | (split) | (fail_if_no_progress apply State.Keeps.upd)


theorem State.sendDown_keeps {s0 s : State} (ty : BitVec 4) (body : W32) 
    (hk : s0.Keeps s) : s0.Keeps (State.sendDown s ty body) := by
  unfold State.sendDown
  with_reducible repeat'
    first
      | assumption | apply State.emit_keeps | apply State.emit_keeps | apply State.Keeps.ite | apply State.Keeps.foldl
      | apply State.Keeps.foldl₁ | (intro _) | (dsimp only) | (split) | (fail_if_no_progress apply State.Keeps.upd)


theorem State.ackFrame_keeps {s0 s : State} (a : Nat) (ty : BitVec 4) 
    (hk : s0.Keeps s) : s0.Keeps (State.ackFrame s a ty) := by
  unfold State.ackFrame
  with_reducible repeat'
    first
      | assumption | apply State.sendDown_keeps | apply State.Keeps.ite | apply State.Keeps.foldl
      | apply State.Keeps.foldl₁ | (intro _) | (dsimp only) | (split) | (fail_if_no_progress apply State.Keeps.upd)


theorem State.takeUp_keeps {s0 s : State} (f : Frame) (crcOk : Bool) (ty : BitVec 4) (ackTo : Option Nat) (act : State → State) (hact : ∀ v, s0.Keeps v → s0.Keeps (act v))
    (hk : s0.Keeps s) : s0.Keeps (State.takeUp s f crcOk ty ackTo act) := by
  unfold State.takeUp
  with_reducible repeat'
    first
      | assumption | apply hact | apply State.takeFrame_keeps | apply State.emit_keeps | apply State.ackFrame_keeps
      | apply State.emit_keeps | apply State.Keeps.ite | apply State.Keeps.foldl | apply State.Keeps.foldl₁
      | (intro _) | (dsimp only) | (split) | (fail_if_no_progress apply State.Keeps.upd)


theorem State.noteTopo_keeps {s0 s : State} (e : TopoEdge) (up : Bool) 
    (hk : s0.Keeps s) : s0.Keeps (State.noteTopo s e up) := by
  unfold State.noteTopo
  with_reducible repeat'
    first
      | assumption | apply State.Keeps.ite | apply State.Keeps.foldl | apply State.Keeps.foldl₁ | (intro _)
      | (dsimp only) | (split) | (fail_if_no_progress apply State.Keeps.upd)


theorem State.modPort_keeps {s0 s : State} (p : Nat) (f : Port → Port) 
    (hk : s0.Keeps s) : s0.Keeps (State.modPort s p f) := by
  unfold State.modPort
  with_reducible repeat'
    first
      | assumption | apply State.Keeps.ite | apply State.Keeps.foldl | apply State.Keeps.foldl₁ | (intro _)
      | (dsimp only) | (split) | (fail_if_no_progress apply State.Keeps.upd)


theorem State.msix_keeps {s0 s : State} (p : Nat) (v : Nat) 
    (hk : s0.Keeps s) : s0.Keeps (State.msix s p v) := by
  unfold State.msix
  with_reducible repeat'
    first
      | assumption | apply State.modPort_keeps | apply State.emit_keeps | apply State.emit_keeps
      | apply State.Keeps.ite | apply State.Keeps.foldl | apply State.Keeps.foldl₁ | (intro _) | (dsimp only)
      | (split) | (fail_if_no_progress apply State.Keeps.upd)


theorem State.msixBoth_keeps {s0 s : State} (v : Nat) 
    (hk : s0.Keeps s) : s0.Keeps (State.msixBoth s v) := by
  unfold State.msixBoth
  with_reducible repeat'
    first
      | assumption | apply State.msix_keeps | apply State.Keeps.ite | apply State.Keeps.foldl
      | apply State.Keeps.foldl₁ | (intro _) | (dsimp only) | (split) | (fail_if_no_progress apply State.Keeps.upd)


theorem State.send_keeps {s0 s : State} (p : Packet) 
    (hk : s0.Keeps s) : s0.Keeps (State.send s p) := by
  unfold State.send
  with_reducible repeat'
    first
      | assumption | apply State.Keeps.ite | apply State.Keeps.foldl | apply State.Keeps.foldl₁ | (intro _)
      | (dsimp only) | (split) | (fail_if_no_progress apply State.Keeps.upd)


theorem State.endAbsent_keeps {s0 s : State} (p : Packet) 
    (hk : s0.Keeps s) : s0.Keeps (State.endAbsent s p) := by
  unfold State.endAbsent
  with_reducible repeat'
    first
      | assumption | apply State.send_keeps | apply State.Keeps.ite | apply State.Keeps.foldl
      | apply State.Keeps.foldl₁ | (intro _) | (dsimp only) | (split) | (fail_if_no_progress apply State.Keeps.upd)


theorem State.post_keeps {s0 s : State} (p : Packet) 
    (hk : s0.Keeps s) : s0.Keeps (State.post s p) := by
  unfold State.post
  with_reducible repeat'
    first
      | assumption | apply State.send_keeps | apply State.endAbsent_keeps | apply State.Keeps.ite
      | apply State.Keeps.foldl | apply State.Keeps.foldl₁ | (intro _) | (dsimp only) | (split)
      | (fail_if_no_progress apply State.Keeps.upd)


theorem State.replyKarr_keeps {s0 s : State} (key : Nat) (m : KMember) (round : Word) (st : BitVec 3) 
    (hk : s0.Keeps s) : s0.Keeps (State.replyKarr s key m round st) := by
  unfold State.replyKarr
  with_reducible repeat'
    first
      | assumption | apply State.post_keeps | apply State.Keeps.ite | apply State.Keeps.foldl
      | apply State.Keeps.foldl₁ | (intro _) | (dsimp only) | (split) | (fail_if_no_progress apply State.Keeps.upd)


theorem State.sendRelease_keeps {s0 s : State} (key : Nat) (m : KMember) (round : Word) (st : BitVec 3) 
    (hk : s0.Keeps s) : s0.Keeps (State.sendRelease s key m round st) := by
  unfold State.sendRelease
  with_reducible repeat'
    first
      | assumption | apply State.post_keeps | apply State.Keeps.ite | apply State.Keeps.foldl
      | apply State.Keeps.foldl₁ | (intro _) | (dsimp only) | (split) | (fail_if_no_progress apply State.Keeps.upd)


theorem State.writeBack_keeps {s0 s : State} (x : KSlot) 
    (hk : s0.Keeps s) : s0.Keeps (State.writeBack s x) := by
  unfold State.writeBack
  with_reducible repeat'
    first
      | assumption | apply State.checkWaits_keeps | apply State.checkWaits_keeps | apply State.Keeps.ite
      | apply State.Keeps.foldl | apply State.Keeps.foldl₁ | (intro _) | (dsimp only) | (split) | apply Mem.Ok.refl
      | apply Mem.Ok.write | apply Mem.Ok.writeList | apply Mem.Ok.zero | apply Mem.Ok.put | apply State.Keeps.updMem


theorem State.modCluster_keeps {s0 s : State} (k : Nat) (f : Cluster → Cluster) 
    (hk : s0.Keeps s) : s0.Keeps (State.modCluster s k f) := by
  unfold State.modCluster
  with_reducible repeat'
    first
      | assumption | apply State.Keeps.ite | apply State.Keeps.foldl | apply State.Keeps.foldl₁ | (intro _)
      | (dsimp only) | (split) | (fail_if_no_progress apply State.Keeps.upd)


theorem State.setKSlot_keeps {s0 s : State} (cl : Nat) (i : Nat) (x : KSlot) 
    (hk : s0.Keeps s) : s0.Keeps (State.setKSlot s cl i x) := by
  unfold State.setKSlot
  with_reducible repeat'
    first
      | assumption | apply State.modCluster_keeps | apply State.Keeps.ite | apply State.Keeps.foldl
      | apply State.Keeps.foldl₁ | (intro _) | (dsimp only) | (split) | (fail_if_no_progress apply State.Keeps.upd)


theorem State.kBreak_keeps {s0 s : State} (cl : Nat) (i : Nat) (x : KSlot) 
    (hk : s0.Keeps s) : s0.Keeps (State.kBreak s cl i x) := by
  unfold State.kBreak
  with_reducible repeat'
    first
      | assumption | apply State.replyKarr_keeps | apply State.sendRelease_keeps | apply State.writeBack_keeps
      | apply State.setKSlot_keeps | apply State.Keeps.ite | apply State.Keeps.foldl | apply State.Keeps.foldl₁
      | (intro _) | (dsimp only) | (split) | (fail_if_no_progress apply State.Keeps.upd)


theorem State.chainBreak_keeps {s0 s : State} (cl : Nat) (key : Nat) 
    (hk : s0.Keeps s) : s0.Keeps (State.chainBreak s cl key) := by
  unfold State.chainBreak
  with_reducible repeat'
    first
      | assumption | apply State.kBreak_keeps | apply State.store_keeps | apply State.store_keeps
      | apply State.Keeps.ite | apply State.Keeps.foldl | apply State.Keeps.foldl₁ | (intro _) | (dsimp only)
      | (split) | (fail_if_no_progress apply State.Keeps.upd)


theorem State.tellModules_keeps {s0 s : State} (key : Nat) (ms : List Nat) (round : Word) (st : BitVec 3) 
    (hk : s0.Keeps s) : s0.Keeps (State.tellModules s key ms round st) := by
  unfold State.tellModules
  with_reducible repeat'
    first
      | assumption | apply State.post_keeps | apply State.Keeps.ite | apply State.Keeps.foldl
      | apply State.Keeps.foldl₁ | (intro _) | (dsimp only) | (split) | (fail_if_no_progress apply State.Keeps.upd)


theorem State.breakChain_keeps {s0 s : State} (cl : Nat) (key : Nat) 
    (hk : s0.Keeps s) : s0.Keeps (State.breakChain s cl key) := by
  unfold State.breakChain
  with_reducible repeat'
    first
      | assumption | apply State.chainBreak_keeps | apply State.tellModules_keeps | apply State.Keeps.ite
      | apply State.Keeps.foldl | apply State.Keeps.foldl₁ | (intro _) | (dsimp only) | (split)
      | (fail_if_no_progress apply State.Keeps.upd)


theorem State.endKeystones_keeps {s0 s : State}  
    (hk : s0.Keeps s) : s0.Keeps (State.endKeystones s) := by
  unfold State.endKeystones
  with_reducible repeat'
    first
      | assumption | apply State.breakChain_keeps | apply State.Keeps.ite | apply State.Keeps.foldl
      | apply State.Keeps.foldl₁ | (intro _) | (dsimp only) | (split) | (fail_if_no_progress apply State.Keeps.upd)


theorem State.modLink_keeps {s0 s : State} (l : Nat) (f : Link → Link) 
    (hk : s0.Keeps s) : s0.Keeps (State.modLink s l f) := by
  unfold State.modLink
  with_reducible repeat'
    first
      | assumption | apply State.Keeps.ite | apply State.Keeps.foldl | apply State.Keeps.foldl₁ | (intro _)
      | (dsimp only) | (split) | (fail_if_no_progress apply State.Keeps.upd)


theorem State.freeCredits_keeps {s0 s : State} (l : Nat) (response : Bool) (n : Nat) 
    (hk : s0.Keeps s) : s0.Keeps (State.freeCredits s l response n) := by
  unfold State.freeCredits
  with_reducible repeat'
    first
      | assumption | apply State.modLink_keeps | apply State.Keeps.ite | apply State.Keeps.foldl
      | apply State.Keeps.foldl₁ | (intro _) | (dsimp only) | (split) | (fail_if_no_progress apply State.Keeps.upd)


theorem State.freeFlight_keeps {s0 s : State} (f : Flight) 
    (hk : s0.Keeps s) : s0.Keeps (State.freeFlight s f) := by
  unfold State.freeFlight
  with_reducible repeat'
    first
      | assumption | apply State.freeCredits_keeps | apply State.Keeps.ite | apply State.Keeps.foldl
      | apply State.Keeps.foldl₁ | (intro _) | (dsimp only) | (split) | (fail_if_no_progress apply State.Keeps.upd)


theorem State.dropPackets_keeps {s0 s : State} (f : Packet → Bool) 
    (hk : s0.Keeps s) : s0.Keeps (State.dropPackets s f) := by
  unfold State.dropPackets
  with_reducible repeat'
    first
      | assumption | apply State.freeFlight_keeps | apply State.Keeps.ite | apply State.Keeps.foldl
      | apply State.Keeps.foldl₁ | (intro _) | (dsimp only) | (split) | (fail_if_no_progress apply State.Keeps.upd)


theorem State.logWait_keeps {s0 s : State} (i : Nat) 
    (hk : s0.Keeps s) : s0.Keeps (State.logWait s i) := by
  unfold State.logWait
  with_reducible repeat'
    first
      | assumption | apply State.logAdd_keeps | apply State.Keeps.ite | apply State.Keeps.foldl
      | apply State.Keeps.foldl₁ | (intro _) | (dsimp only) | (split) | (fail_if_no_progress apply State.Keeps.upd)


theorem State.countAbsent_keeps {s0 s : State} (c : Nat) 
    (hk : s0.Keeps s) : s0.Keeps (State.countAbsent s c) := by
  unfold State.countAbsent
  with_reducible repeat'
    first
      | assumption | apply State.logWait_keeps | apply State.modCluster_keeps | apply State.Keeps.ite
      | apply State.Keeps.foldl | apply State.Keeps.foldl₁ | (intro _) | (dsimp only) | (split)
      | (fail_if_no_progress apply State.Keeps.upd)


theorem State.absentIf_keeps {s0 s : State} (c : Nat) (st : BitVec 3) 
    (hk : s0.Keeps s) : s0.Keeps (State.absentIf s c st) := by
  unfold State.absentIf
  with_reducible repeat'
    first
      | assumption | apply State.countAbsent_keeps | apply State.Keeps.ite | apply State.Keeps.foldl
      | apply State.Keeps.foldl₁ | (intro _) | (dsimp only) | (split) | (fail_if_no_progress apply State.Keeps.upd)


theorem State.noteStatus_keeps {s0 s : State} (c : Nat) (t : Nat) (st : BitVec 3) 
    (hk : s0.Keeps s) : s0.Keeps (State.noteStatus s c t st) := by
  unfold State.noteStatus
  with_reducible repeat'
    first
      | assumption | apply State.modStrand_keeps | apply State.Keeps.ite | apply State.Keeps.foldl
      | apply State.Keeps.foldl₁ | (intro _) | (dsimp only) | (split) | (fail_if_no_progress apply State.Keeps.upd)


theorem State.setSreg_keeps {s0 s : State} (c : Nat) (t : Nat) (r : BitVec 5) (v : Word) 
    (hk : s0.Keeps s) : s0.Keeps (State.setSreg s c t r v) := by
  unfold State.setSreg
  with_reducible repeat'
    first
      | assumption | apply State.modStrand_keeps | apply State.Keeps.ite | apply State.Keeps.foldl
      | apply State.Keeps.foldl₁ | (intro _) | (dsimp only) | (split) | (fail_if_no_progress apply State.Keeps.upd)


theorem State.block_keeps {s0 s : State} (c : Nat) (t : Nat) (w : Wait) 
    (hk : s0.Keeps s) : s0.Keeps (State.block s c t w) := by
  unfold State.block
  with_reducible repeat'
    first
      | assumption | apply State.modStrand_keeps | apply State.Keeps.ite | apply State.Keeps.foldl
      | apply State.Keeps.foldl₁ | (intro _) | (dsimp only) | (split) | (fail_if_no_progress apply State.Keeps.upd)


theorem State.unblock_keeps {s0 s : State} (c : Nat) (t : Nat) (sd : BitVec 5) (st : BitVec 3) 
    (hk : s0.Keeps s) : s0.Keeps (State.unblock s c t sd st) := by
  unfold State.unblock
  with_reducible repeat'
    first
      | assumption | apply State.absentIf_keeps | apply State.noteStatus_keeps | apply State.setSreg_keeps
      | apply State.block_keeps | apply State.Keeps.ite | apply State.Keeps.foldl | apply State.Keeps.foldl₁
      | (intro _) | (dsimp only) | (split) | (fail_if_no_progress apply State.Keeps.upd)


theorem State.karrDone_keeps {s0 s : State} (c : Nat) (t : Nat) (sd : BitVec 5) (round : Word) (st : BitVec 3) 
    (hk : s0.Keeps s) : s0.Keeps (State.karrDone s c t sd round st) := by
  unfold State.karrDone
  with_reducible repeat'
    first
      | assumption | apply State.absentIf_keeps | apply State.noteStatus_keeps | apply State.setSreg_keeps
      | apply State.block_keeps | apply State.Keeps.ite | apply State.Keeps.foldl | apply State.Keeps.foldl₁
      | (intro _) | (dsimp only) | (split) | (fail_if_no_progress apply State.Keeps.upd)


theorem State.endWait_keeps {s0 s : State} (c : Nat) (t : Nat) 
    (hk : s0.Keeps s) : s0.Keeps (State.endWait s c t) := by
  unfold State.endWait
  with_reducible repeat'
    first
      | assumption | apply State.unblock_keeps | apply State.useFree_keeps | apply State.karrDone_keeps
      | apply State.useFree_keeps | apply State.Keeps.ite | apply State.Keeps.foldl | apply State.Keeps.foldl₁
      | (intro _) | (dsimp only) | (split) | (fail_if_no_progress apply State.Keeps.upd)


theorem State.notifyFire_keeps {s0 s : State} (p : Nat) (v : Nat) 
    (hk : s0.Keeps s) : s0.Keeps (State.notifyFire s p v) := by
  unfold State.notifyFire
  with_reducible repeat'
    first
      | assumption | apply State.msix_keeps | apply State.modPort_keeps | apply State.Keeps.ite
      | apply State.Keeps.foldl | apply State.Keeps.foldl₁ | (intro _) | (dsimp only) | (split)
      | (fail_if_no_progress apply State.Keeps.upd)


theorem State.endWaits_keeps {s0 s : State}  
    (hk : s0.Keeps s) : s0.Keeps (State.endWaits s) := by
  unfold State.endWaits
  with_reducible repeat'
    first
      | assumption | apply State.dropPackets_keeps | apply State.endWait_keeps | apply State.notifyFire_keeps
      | apply State.Keeps.ite | apply State.Keeps.foldl | apply State.Keeps.foldl₁ | (intro _) | (dsimp only)
      | (split) | (fail_if_no_progress apply State.Keeps.upd)


theorem State.dropLandings_keeps {s0 s : State}  
    (hk : s0.Keeps s) : s0.Keeps (State.dropLandings s) := by
  unfold State.dropLandings
  with_reducible repeat'
    first
      | assumption | apply State.dropPackets_keeps | apply State.Keeps.ite | apply State.Keeps.foldl
      | apply State.Keeps.foldl₁ | (intro _) | (dsimp only) | (split) | (fail_if_no_progress apply State.Keeps.upd)


theorem State.modLandings_keeps {s0 s : State} (f : List Landing → List Landing) 
    (hk : s0.Keeps s) : s0.Keeps (State.modLandings s f) := by
  unfold State.modLandings
  with_reducible repeat'
    first
      | assumption | apply State.Keeps.ite | apply State.Keeps.foldl | apply State.Keeps.foldl₁ | (intro _)
      | (dsimp only) | (split) | (fail_if_no_progress apply State.Keeps.upd)


theorem State.takeGot_keeps {s0 s : State} (l : Landing) 
    (hk : s0.Keeps s) : s0.Keeps (State.takeGot s l) := by
  unfold State.takeGot
  with_reducible repeat'
    first
      | assumption | apply State.Keeps.ite | apply State.Keeps.foldl | apply State.Keeps.foldl₁ | (intro _)
      | (dsimp only) | (split) | (fail_if_no_progress apply State.Keeps.upd)


theorem State.modPch_keeps {s0 s : State} (p : Nat) (f : Pch → Pch) 
    (hk : s0.Keeps s) : s0.Keeps (State.modPch s p f) := by
  unfold State.modPch
  with_reducible repeat'
    first
      | assumption | apply State.Keeps.ite | apply State.Keeps.foldl | apply State.Keeps.foldl₁ | (intro _)
      | (dsimp only) | (split) | (fail_if_no_progress apply State.Keeps.upd)


theorem State.pchRequest_keeps {s0 s : State} (off : Nat) (crit : Bool) (write : Bool) (nofill : Bool) 
    (hk : s0.Keeps s) : s0.Keeps (State.pchRequest s off crit write nofill) := by
  unfold State.pchRequest
  with_reducible repeat'
    first
      | assumption | apply State.modPch_keeps | apply State.Keeps.ite | apply State.Keeps.foldl
      | apply State.Keeps.foldl₁ | (intro _) | (dsimp only) | (split) | (fail_if_no_progress apply State.Keeps.upd)


theorem State.request_keeps {s0 s : State} (a : Word) (n : Nat) (crit : Bool) (write : Bool) (nofill : Bool) 
    (hk : s0.Keeps s) : s0.Keeps (State.request s a n crit write nofill) := by
  unfold State.request
  with_reducible repeat'
    first
      | assumption | apply State.pchRequest_keeps | apply State.Keeps.ite | apply State.Keeps.foldl
      | apply State.Keeps.foldl₁ | (intro _) | (dsimp only) | (split) | (fail_if_no_progress apply State.Keeps.upd)


theorem State.addKey_keeps {s0 s : State} (key : Nat) (amount : Word) 
    (hk : s0.Keeps s) : s0.Keeps (State.addKey s key amount).1 := by
  unfold State.addKey
  with_reducible repeat'
    first
      | assumption | apply State.store_keeps | apply State.store_keeps | apply State.Keeps.ite
      | apply State.Keeps.foldl | apply State.Keeps.foldl₁ | (intro _) | (dsimp only) | (split)
      | (fail_if_no_progress apply State.Keeps.upd)


theorem State.addLocal_keeps {s0 s : State} (a : Word) (amount : Word) 
    (hk : s0.Keeps s) : s0.Keeps (State.addLocal s a amount).1 := by
  unfold State.addLocal
  with_reducible repeat'
    first
      | assumption | apply State.request_keeps | apply State.addKey_keeps | apply State.violate_keeps
      | apply State.Keeps.ite | apply State.Keeps.foldl | apply State.Keeps.foldl₁ | (intro _) | (dsimp only)
      | (split) | (fail_if_no_progress apply State.Keeps.upd)


theorem State.landRun_keeps {s0 s : State} (l : Landing) 
    (hk : s0.Keeps s) : s0.Keeps (State.landRun s l) := by
  unfold State.landRun
  with_reducible repeat'
    first
      | assumption | apply State.post_keeps | apply State.modLandings_keeps | apply State.takeGot_keeps
      | apply State.addLocal_keeps | apply State.Keeps.ite | apply State.Keeps.foldl | apply State.Keeps.foldl₁
      | (intro _) | (dsimp only) | (split) | (fail_if_no_progress apply State.Keeps.upd)


theorem State.landAll_keeps {s0 s : State}  
    (hk : s0.Keeps s) : s0.Keeps (State.landAll s) := by
  unfold State.landAll
  with_reducible repeat'
    first
      | assumption | apply State.landRun_keeps | apply State.Keeps.ite | apply State.Keeps.foldl
      | apply State.Keeps.foldl₁ | (intro _) | (dsimp only) | (split) | (fail_if_no_progress apply State.Keeps.upd)


theorem State.signalAcked_keeps {s0 s : State} (p : Packet) 
    (hk : s0.Keeps s) : s0.Keeps (State.signalAcked s p) := by
  unfold State.signalAcked
  with_reducible repeat'
    first
      | assumption | apply State.landAll_keeps | apply State.post_keeps | apply State.modLandings_keeps
      | apply State.Keeps.ite | apply State.Keeps.foldl | apply State.Keeps.foldl₁ | (intro _) | (dsimp only)
      | (split) | (fail_if_no_progress apply State.Keeps.upd)


theorem State.endSignals_keeps {s0 s : State}  
    (hk : s0.Keeps s) : s0.Keeps (State.endSignals s) := by
  unfold State.endSignals
  with_reducible repeat'
    first
      | assumption | apply State.signalAcked_keeps | apply State.Keeps.ite | apply State.Keeps.foldl
      | apply State.Keeps.foldl₁ | (intro _) | (dsimp only) | (split) | (fail_if_no_progress apply State.Keeps.upd)


theorem State.violateAll_keeps {s0 s : State} (vs : List Viol) 
    (hk : s0.Keeps s) : s0.Keeps (State.violateAll s vs) := by
  unfold State.violateAll
  with_reducible repeat'
    first
      | assumption | apply State.violate_keeps | apply State.Keeps.ite | apply State.Keeps.foldl
      | apply State.Keeps.foldl₁ | (intro _) | (dsimp only) | (split) | (fail_if_no_progress apply State.Keeps.upd)


theorem State.countSlow_keeps {s0 s : State} (off : Nat) (n : Nat) 
    (hk : s0.Keeps s) : s0.Keeps (State.countSlow s off n) := by
  unfold State.countSlow
  with_reducible repeat'
    first
      | assumption | apply State.violateAll_keeps | apply State.Keeps.ite | apply State.Keeps.foldl
      | apply State.Keeps.foldl₁ | (intro _) | (dsimp only) | (split) | (fail_if_no_progress apply State.Keeps.upd)


theorem State.writeSlow_keeps {s0 s : State} (off : Nat) (bs : List Byte) 
    (hk : s0.Keeps s) : s0.Keeps (State.writeSlow s off bs) := by
  unfold State.writeSlow
  with_reducible repeat'
    first
      | assumption | apply State.countSlow_keeps | apply State.Keeps.ite | apply State.Keeps.foldl
      | apply State.Keeps.foldl₁ | (intro _) | (dsimp only) | (split) | apply Mem.Ok.refl | apply Mem.Ok.write
      | apply Mem.Ok.writeList | apply Mem.Ok.zero | apply Mem.Ok.put | apply State.Keeps.updMem


theorem State.modMason_keeps {s0 s : State} (m : Nat) (f : Mason → Mason) 
    (hk : s0.Keeps s) : s0.Keeps (State.modMason s m f) := by
  unfold State.modMason
  with_reducible repeat'
    first
      | assumption | apply State.Keeps.ite | apply State.Keeps.foldl | apply State.Keeps.foldl₁ | (intro _)
      | (dsimp only) | (split) | (fail_if_no_progress apply State.Keeps.upd)


theorem State.markOwn_keeps {s0 s : State} (unit : Nat) (tag : Nat) (b : Branch) 
    (hk : s0.Keeps s) : s0.Keeps (State.markOwn s unit tag b) := by
  unfold State.markOwn
  with_reducible repeat'
    first
      | assumption | apply State.modMason_keeps | apply State.Keeps.ite | apply State.Keeps.foldl
      | apply State.Keeps.foldl₁ | (intro _) | (dsimp only) | (split) | (fail_if_no_progress apply State.Keeps.upd)


theorem State.modEng_keeps {s0 s : State} (c : Nat) (f : Engine → Engine) 
    (hk : s0.Keeps s) : s0.Keeps (State.modEng s c f) := by
  unfold State.modEng
  with_reducible repeat'
    first
      | assumption | apply State.modCore_keeps | apply State.Keeps.ite | apply State.Keeps.foldl
      | apply State.Keeps.foldl₁ | (intro _) | (dsimp only) | (split) | (fail_if_no_progress apply State.Keeps.upd)


theorem State.setSlot_keeps {s0 s : State} (unit : Nat) (tag : Nat) (v : Option RemSlot) 
    (hk : s0.Keeps s) : s0.Keeps (State.setSlot s unit tag v) := by
  unfold State.setSlot
  with_reducible repeat'
    first
      | assumption | apply State.modEng_keeps | apply State.modMason_keeps | apply State.modPort_keeps
      | apply State.Keeps.ite | apply State.Keeps.foldl | apply State.Keeps.foldl₁ | (intro _) | (dsimp only)
      | (split) | (fail_if_no_progress apply State.Keeps.upd)


theorem State.endCt_keeps {s0 s : State} (c : Nat) (t : Nat) (ct : BitVec 18) 
    (hk : s0.Keeps s) : s0.Keeps (State.endCt s c t ct) := by
  unfold State.endCt
  with_reducible repeat'
    first
      | assumption | apply State.addKey_keeps | apply State.noteStatus_keeps | apply State.Keeps.ite
      | apply State.Keeps.foldl | apply State.Keeps.foldl₁ | (intro _) | (dsimp only) | (split)
      | (fail_if_no_progress apply State.Keeps.upd)


theorem State.errLog_keeps {s0 s : State} (cause : Nat) (unit : Nat) 
    (hk : s0.Keeps s) : s0.Keeps (State.errLog s cause unit) := by
  unfold State.errLog
  with_reducible repeat'
    first
      | assumption | apply State.Keeps.ite | apply State.Keeps.foldl | apply State.Keeps.foldl₁ | (intro _)
      | (dsimp only) | (split) | (fail_if_no_progress apply State.Keeps.upd)


theorem State.setMod_keeps {s0 s : State} (st : ModState) 
    (hk : s0.Keeps s) : s0.Keeps (State.setMod s st) := by
  unfold State.setMod
  with_reducible repeat'
    first
      | assumption | apply State.msixBoth_keeps | apply State.Keeps.ite | apply State.Keeps.foldl
      | apply State.Keeps.foldl₁ | (intro _) | (dsimp only) | (split) | (fail_if_no_progress apply State.Keeps.upd)


theorem State.hold_keeps {s0 s : State} (h : Hold) (unit : Nat) 
    (hk : s0.Keeps s) : s0.Keeps (State.hold s h unit) := by
  unfold State.hold
  with_reducible repeat'
    first
      | assumption | apply State.errLog_keeps | apply State.setMod_keeps | apply State.msixBoth_keeps
      | apply State.Keeps.ite | apply State.Keeps.foldl | apply State.Keeps.foldl₁ | (intro _) | (dsimp only)
      | (split) | (fail_if_no_progress apply State.Keeps.upd)


theorem State.logOp_keeps {s0 s : State} (i : Nat) 
    (hk : s0.Keeps s) : s0.Keeps (State.logOp s i) := by
  unfold State.logOp
  with_reducible repeat'
    first
      | assumption | apply State.logAdd_keeps | apply State.Keeps.ite | apply State.Keeps.foldl
      | apply State.Keeps.foldl₁ | (intro _) | (dsimp only) | (split) | (fail_if_no_progress apply State.Keeps.upd)


theorem State.writeHeaders_keeps {s0 s : State}  
    (hk : s0.Keeps s) : s0.Keeps (State.writeHeaders s) := by
  unfold State.writeHeaders
  with_reducible repeat'
    first
      | assumption | apply State.Keeps.ite | apply State.Keeps.foldl | apply State.Keeps.foldl₁ | (intro _)
      | (dsimp only) | (split) | apply Mem.Ok.refl | apply Mem.Ok.write | apply Mem.Ok.writeList | apply Mem.Ok.zero
      | apply Mem.Ok.put | apply State.Keeps.updMem


theorem State.modLift_keeps {s0 s : State} (f : Lift → Lift) 
    (hk : s0.Keeps s) : s0.Keeps (State.modLift s f) := by
  unfold State.modLift
  with_reducible repeat'
    first
      | assumption | apply State.writeHeaders_keeps | apply State.Keeps.ite | apply State.Keeps.foldl
      | apply State.Keeps.foldl₁ | (intro _) | (dsimp only) | (split) | (fail_if_no_progress apply State.Keeps.upd)


theorem State.advance_keeps {s0 s : State} (a : Word) (unit : Nat) (tag : Nat) 
    (hk : s0.Keeps s) : s0.Keeps (State.advance s a unit tag) := by
  unfold State.advance
  with_reducible repeat'
    first
      | assumption | apply State.addLocal_keeps | apply State.send_keeps | apply State.Keeps.ite
      | apply State.Keeps.foldl | apply State.Keeps.foldl₁ | (intro _) | (dsimp only) | (split)
      | (fail_if_no_progress apply State.Keeps.upd)


theorem State.recordReceived_keeps {s0 s : State}  
    (hk : s0.Keeps s) : s0.Keeps (State.recordReceived s) := by
  unfold State.recordReceived
  with_reducible repeat'
    first
      | assumption | apply State.logOp_keeps | apply State.modLift_keeps | apply State.advance_keeps
      | apply State.Keeps.ite | apply State.Keeps.foldl | apply State.Keeps.foldl₁ | (intro _) | (dsimp only)
      | (split) | (fail_if_no_progress apply State.Keeps.upd)


theorem State.modLiftRam_keeps {s0 s : State} (f : Lift → Lift) 
    (hk : s0.Keeps s) : s0.Keeps (State.modLiftRam s f) := by
  unfold State.modLiftRam
  with_reducible repeat'
    first
      | assumption | apply State.Keeps.ite | apply State.Keeps.foldl | apply State.Keeps.foldl₁ | (intro _)
      | (dsimp only) | (split) | (fail_if_no_progress apply State.Keeps.upd)


theorem State.complete_keeps {s0 s : State} (k : Cmd) 
    (hk : s0.Keeps s) : s0.Keeps (State.complete s k) := by
  unfold State.complete
  with_reducible repeat'
    first
      | assumption | apply State.advance_keeps | apply State.Keeps.ite | apply State.Keeps.foldl
      | apply State.Keeps.foldl₁ | (intro _) | (dsimp only) | (split) | (fail_if_no_progress apply State.Keeps.upd)


theorem State.descriptorDone_keeps {s0 s : State} (m : Nat) 
    (hk : s0.Keeps s) : s0.Keeps (State.descriptorDone s m) := by
  unfold State.descriptorDone
  with_reducible repeat'
    first
      | assumption | apply State.modMason_keeps | apply State.modLiftRam_keeps | apply State.modLift_keeps
      | apply State.complete_keeps | apply State.Keeps.ite | apply State.Keeps.foldl | apply State.Keeps.foldl₁
      | (intro _) | (dsimp only) | (split) | (fail_if_no_progress apply State.Keeps.upd)


theorem State.endGroups_keeps {s0 s : State} (m : Nat) 
    (hk : s0.Keeps s) : s0.Keeps (State.endGroups s m) := by
  unfold State.endGroups
  with_reducible repeat'
    first
      | assumption | apply State.modMason_keeps | apply State.descriptorDone_keeps | apply State.Keeps.ite
      | apply State.Keeps.foldl | apply State.Keeps.foldl₁ | (intro _) | (dsimp only) | (split)
      | (fail_if_no_progress apply State.Keeps.upd)


theorem State.finishSlot_keeps {s0 s : State} (unit : Nat) (tag : Nat) (x : RemSlot) 
    (hk : s0.Keeps s) : s0.Keeps (State.finishSlot s unit tag x) := by
  unfold State.finishSlot
  with_reducible repeat'
    first
      | assumption | apply State.setSlot_keeps | apply State.endCt_keeps | apply State.countAbsent_keeps
      | apply State.logWait_keeps | apply State.modMason_keeps | apply State.hold_keeps
      | apply State.recordReceived_keeps | apply State.endGroups_keeps | apply State.Keeps.ite
      | apply State.Keeps.foldl | apply State.Keeps.foldl₁ | (intro _) | (dsimp only) | (split)
      | (fail_if_no_progress apply State.Keeps.upd)


theorem State.postAll_keeps {s0 s : State} (ps : List Packet) 
    (hk : s0.Keeps s) : s0.Keeps (State.postAll s ps) := by
  unfold State.postAll
  with_reducible repeat'
    first
      | assumption | apply State.post_keeps | apply State.Keeps.ite | apply State.Keeps.foldl
      | apply State.Keeps.foldl₁ | (intro _) | (dsimp only) | (split) | (fail_if_no_progress apply State.Keeps.upd)


theorem State.countAnswer_keeps {s0 s : State} (unit : Nat) (tag : Nat) (x : RemSlot) (i : Nat) (b : Branch) (st : BitVec 3) 
    (hk : s0.Keeps s) : s0.Keeps (State.countAnswer s unit tag x i b st) := by
  unfold State.countAnswer
  with_reducible repeat'
    first
      | assumption | apply State.markOwn_keeps | apply State.finishSlot_keeps | apply State.setSlot_keeps
      | apply State.postAll_keeps | apply State.Keeps.ite | apply State.Keeps.foldl | apply State.Keeps.foldl₁
      | (intro _) | (dsimp only) | (split) | (fail_if_no_progress apply State.Keeps.upd)


theorem State.endBranch_keeps {s0 s : State} (unit : Nat) (tag : Nat) (i : Nat) 
    (hk : s0.Keeps s) : s0.Keeps (State.endBranch s unit tag i) := by
  unfold State.endBranch
  with_reducible repeat'
    first
      | assumption | apply State.noteStatus_keeps | apply State.storeList_keeps | apply State.writeSlow_keeps
      | apply State.countAnswer_keeps | apply State.dropPackets_keeps | apply State.storeList_keeps
      | apply State.Keeps.ite | apply State.Keeps.foldl | apply State.Keeps.foldl₁ | (intro _) | (dsimp only)
      | (split) | (fail_if_no_progress apply State.Keeps.upd)


theorem State.endBranches_keeps {s0 s : State}  
    (hk : s0.Keeps s) : s0.Keeps (State.endBranches s) := by
  unfold State.endBranches
  with_reducible repeat'
    first
      | assumption | apply State.endBranch_keeps | apply State.Keeps.ite | apply State.Keeps.foldl
      | apply State.Keeps.foldl₁ | (intro _) | (dsimp only) | (split) | (fail_if_no_progress apply State.Keeps.upd)


theorem State.sweepAbsent_keeps {s0 s : State}  
    (hk : s0.Keeps s) : s0.Keeps (State.sweepAbsent s) := by
  unfold State.sweepAbsent
  with_reducible repeat'
    first
      | assumption | apply State.endKeystones_keeps | apply State.endWaits_keeps | apply State.dropLandings_keeps
      | apply State.endSignals_keeps | apply State.endBranches_keeps | apply State.Keeps.ite | apply State.Keeps.foldl
      | apply State.Keeps.foldl₁ | (intro _) | (dsimp only) | (split) | (fail_if_no_progress apply State.Keeps.upd)


theorem State.afterAbsence_keeps {s0 s : State} (old : State)
    (hk : s0.Keeps s) : s0.Keeps (State.afterAbsence s old) := by
  unfold State.afterAbsence
  with_reducible repeat'
    first
      | assumption | apply State.sweepAbsent_keeps | apply State.msixBoth_keeps | apply State.hold_keeps
      | apply State.Keeps.ite | (intro _) | (dsimp only)

theorem State.broadcastAbsent_keeps {s0 s : State} (a : Nat) 
    (hk : s0.Keeps s) : s0.Keeps (State.broadcastAbsent s a) := by
  unfold State.broadcastAbsent
  with_reducible repeat'
    first
      | assumption | apply State.afterAbsence_keeps | apply State.sendDown_keeps | apply State.Keeps.ite
      | apply State.Keeps.foldl | apply State.Keeps.foldl₁ | (intro _) | (dsimp only) | (split)
      | (fail_if_no_progress apply State.Keeps.upd)


theorem State.headTopo_keeps {s0 s : State} (e : TopoEdge) (up : Bool) (body : W32) 
    (hk : s0.Keeps s) : s0.Keeps (State.headTopo s e up body) := by
  unfold State.headTopo
  with_reducible repeat'
    first
      | assumption | apply State.sendDown_keeps | apply State.noteTopo_keeps | apply State.broadcastAbsent_keeps
      | apply State.Keeps.ite | apply State.Keeps.foldl | apply State.Keeps.foldl₁ | (intro _) | (dsimp only)
      | (split) | (fail_if_no_progress apply State.Keeps.upd)


theorem State.sendUp_keeps {s0 s : State} (ty : BitVec 4) (body : W32) 
    (hk : s0.Keeps s) : s0.Keeps (State.sendUp s ty body) := by
  unfold State.sendUp
  with_reducible repeat'
    first
      | assumption | apply State.emit_keeps | apply State.emit_keeps | apply State.Keeps.ite | apply State.Keeps.foldl
      | apply State.Keeps.foldl₁ | (intro _) | (dsimp only) | (split) | (fail_if_no_progress apply State.Keeps.upd)


theorem State.reportTopo_keeps {s0 s : State} (l : Nat) (up : Bool) 
    (hk : s0.Keeps s) : s0.Keeps (State.reportTopo s l up) := by
  unfold State.reportTopo
  with_reducible repeat'
    first
      | assumption | apply State.headTopo_keeps | apply State.sendUp_keeps | apply State.Keeps.ite
      | apply State.Keeps.foldl | apply State.Keeps.foldl₁ | (intro _) | (dsimp only) | (split)
      | (fail_if_no_progress apply State.Keeps.upd)


theorem State.modCh_keeps {s0 s : State} (l : Nat) (f : LinkCh → LinkCh) 
    (hk : s0.Keeps s) : s0.Keeps (State.modCh s l f) := by
  unfold State.modCh
  with_reducible repeat'
    first
      | assumption | apply State.modLink_keeps | apply State.Keeps.ite | apply State.Keeps.foldl
      | apply State.Keeps.foldl₁ | (intro _) | (dsimp only) | (split) | (fail_if_no_progress apply State.Keeps.upd)


theorem State.sendFlit_keeps {s0 s : State} (l : Nat) (kind : BitVec 2) (on : Option Nat) (seq : BitVec 16) (body : List Byte) 
    (hk : s0.Keeps s) : s0.Keeps (State.sendFlit s l kind on seq body) := by
  unfold State.sendFlit
  with_reducible repeat'
    first
      | assumption | apply State.modCh_keeps | apply State.emit_keeps | apply State.emit_keeps | apply State.Keeps.ite
      | apply State.Keeps.foldl | apply State.Keeps.foldl₁ | (intro _) | (dsimp only) | (split)
      | (fail_if_no_progress apply State.Keeps.upd)


theorem State.sendSeq_keeps {s0 s : State} (l : Nat) (kind : BitVec 2) (on : Option Nat) (body : List Byte) (pkt : Option Flight) 
    (hk : s0.Keeps s) : s0.Keeps (State.sendSeq s l kind on body pkt) := by
  unfold State.sendSeq
  with_reducible repeat'
    first
      | assumption | apply State.sendFlit_keeps | apply State.modCh_keeps | apply State.Keeps.ite
      | apply State.Keeps.foldl | apply State.Keeps.foldl₁ | (intro _) | (dsimp only) | (split)
      | (fail_if_no_progress apply State.Keeps.upd)


theorem State.sendCtrl_keeps {s0 s : State} (l : Nat) (code : Nat) (arg : Nat) 
    (hk : s0.Keeps s) : s0.Keeps (State.sendCtrl s l code arg) := by
  unfold State.sendCtrl
  with_reducible repeat'
    first
      | assumption | apply State.sendSeq_keeps | apply State.modCh_keeps | apply State.Keeps.ite
      | apply State.Keeps.foldl | apply State.Keeps.foldl₁ | (intro _) | (dsimp only) | (split)
      | (fail_if_no_progress apply State.Keeps.upd)


theorem State.sendAddress_keeps {s0 s : State} (l : Nat) 
    (hk : s0.Keeps s) : s0.Keeps (State.sendAddress s l) := by
  unfold State.sendAddress
  with_reducible repeat'
    first
      | assumption | apply State.sendCtrl_keeps | apply State.Keeps.ite | apply State.Keeps.foldl
      | apply State.Keeps.foldl₁ | (intro _) | (dsimp only) | (split) | (fail_if_no_progress apply State.Keeps.upd)


theorem State.announce_keeps {s0 s : State}  
    (hk : s0.Keeps s) : s0.Keeps (State.announce s) := by
  unfold State.announce
  with_reducible repeat'
    first
      | assumption | apply State.reportTopo_keeps | apply State.sendAddress_keeps | apply State.Keeps.ite
      | apply State.Keeps.foldl | apply State.Keeps.foldl₁ | (intro _) | (dsimp only) | (split)
      | (fail_if_no_progress apply State.Keeps.upd)


theorem State.takeChainAddr_keeps {s0 s : State} (old : State) (a : Nat)
    (hk : s0.Keeps s) : s0.Keeps (State.takeChainAddr s old a) := by
  unfold State.takeChainAddr
  with_reducible repeat'
    first
      | assumption | apply State.modChain_keeps | apply State.announce_keeps | apply State.afterAbsence_keeps
      | apply State.Keeps.ite | (intro _) | (dsimp only) | (fail_if_no_progress apply State.Keeps.upd)

theorem State.setDelay_keeps {s0 s : State} (maxC : W32) 
    (hk : s0.Keeps s) : s0.Keeps (State.setDelay s maxC) := by
  unfold State.setDelay
  with_reducible repeat'
    first
      | assumption | apply State.modChain_keeps | apply State.sendDown_keeps | apply State.Keeps.ite
      | apply State.Keeps.foldl | apply State.Keeps.foldl₁ | (intro _) | (dsimp only) | (split)
      | (fail_if_no_progress apply State.Keeps.upd)


theorem State.enumerated_keeps {s0 s : State} (n : Nat) 
    (hk : s0.Keeps s) : s0.Keeps (State.enumerated s n) := by
  unfold State.enumerated
  with_reducible repeat'
    first
      | assumption | apply State.modChain_keeps | apply State.Keeps.ite | apply State.Keeps.foldl
      | apply State.Keeps.foldl₁ | (intro _) | (dsimp only) | (split) | (fail_if_no_progress apply State.Keeps.upd)


theorem State.startEnumeration_keeps {s0 s : State}  
    (hk : s0.Keeps s) : s0.Keeps (State.startEnumeration s) := by
  unfold State.startEnumeration
  with_reducible repeat'
    first
      | assumption | apply State.takeChainAddr_keeps | apply State.modChain_keeps | apply State.setDelay_keeps
      | apply State.enumerated_keeps | apply State.sendDown_keeps | apply State.Keeps.ite | apply State.Keeps.foldl
      | apply State.Keeps.foldl₁ | (intro _) | (dsimp only) | (split) | (fail_if_no_progress apply State.Keeps.upd)


theorem State.dropAddresses_keeps {s0 s : State}  
    (hk : s0.Keeps s) : s0.Keeps (State.dropAddresses s) := by
  unfold State.dropAddresses
  with_reducible repeat'
    first
      | assumption | apply State.modChain_keeps | apply State.modLink_keeps | apply State.afterAbsence_keeps
      | apply State.Keeps.ite | apply State.Keeps.foldl | apply State.Keeps.foldl₁ | (intro _) | (dsimp only)
      | (split) | (fail_if_no_progress apply State.Keeps.upd)


theorem State.joinLate_keeps {s0 s : State}  
    (hk : s0.Keeps s) : s0.Keeps (State.joinLate s) := by
  unfold State.joinLate
  with_reducible repeat'
    first
      | assumption | apply State.useFree_keeps | apply State.modChain_keeps | apply State.sendUp_keeps
      | apply State.useFree_keeps | apply State.Keeps.ite | apply State.Keeps.foldl | apply State.Keeps.foldl₁
      | (intro _) | (dsimp only) | (split) | (fail_if_no_progress apply State.Keeps.upd)


theorem State.resendFrames_keeps {s0 s : State} (ty : BitVec 4) 
    (hk : s0.Keeps s) : s0.Keeps (State.resendFrames s ty) := by
  unfold State.resendFrames
  with_reducible repeat'
    first
      | assumption | apply State.modChain_keeps | apply State.emit_keeps | apply State.emit_keeps
      | apply State.Keeps.ite | apply State.Keeps.foldl | apply State.Keeps.foldl₁ | (intro _) | (dsimp only)
      | (split) | (fail_if_no_progress apply State.Keeps.upd)


theorem State.startChain_keeps {s0 s : State}  
    (hk : s0.Keeps s) : s0.Keeps (State.startChain s) := by
  unfold State.startChain
  with_reducible repeat'
    first
      | assumption | apply State.modChain_keeps | apply State.startEnumeration_keeps | apply State.Keeps.ite
      | apply State.Keeps.foldl | apply State.Keeps.foldl₁ | (intro _) | (dsimp only) | (split)
      | (fail_if_no_progress apply State.Keeps.upd)


theorem State.sendLeave_keeps {s0 s : State}  
    (hk : s0.Keeps s) : s0.Keeps (State.sendLeave s) := by
  unfold State.sendLeave
  with_reducible repeat'
    first
      | assumption | apply State.sendUp_keeps | apply State.sendCtrl_keeps | apply State.Keeps.ite
      | apply State.Keeps.foldl | apply State.Keeps.foldl₁ | (intro _) | (dsimp only) | (split)
      | (fail_if_no_progress apply State.Keeps.upd)


theorem State.closeBypass_keeps {s0 s : State}  
    (hk : s0.Keeps s) : s0.Keeps (State.closeBypass s) := by
  unfold State.closeBypass
  with_reducible repeat'
    first
      | assumption | apply State.modChain_keeps | apply State.Keeps.ite | apply State.Keeps.foldl
      | apply State.Keeps.foldl₁ | (intro _) | (dsimp only) | (split) | (fail_if_no_progress apply State.Keeps.upd)


theorem State.tick_keeps {s0 s : State}  
    (hk : s0.Keeps s) : s0.Keeps (State.tick s) := by
  unfold State.tick
  with_reducible repeat'
    first
      | assumption | apply State.Keeps.ite | apply State.Keeps.foldl | apply State.Keeps.foldl₁ | (intro _)
      | (dsimp only) | (split) | (fail_if_no_progress apply State.Keeps.upd)


theorem State.countBad_keeps {s0 s : State} (a : Word) (n : Nat) (write : Bool) 
    (hk : s0.Keeps s) : s0.Keeps (State.countBad s a n write) := by
  unfold State.countBad
  with_reducible repeat'
    first
      | assumption | apply State.violateAll_keeps | apply State.Keeps.ite | apply State.Keeps.foldl
      | apply State.Keeps.foldl₁ | (intro _) | (dsimp only) | (split) | (fail_if_no_progress apply State.Keeps.upd)


theorem State.engineRead_keeps {s0 s : State} (a : Word) (n : Nat) 
    (hk : s0.Keeps s) : s0.Keeps (State.engineRead s a n) := by
  unfold State.engineRead
  with_reducible repeat'
    first
      | assumption | apply State.request_keeps | apply State.countBad_keeps | apply State.Keeps.ite
      | apply State.Keeps.foldl | apply State.Keeps.foldl₁ | (intro _) | (dsimp only) | (split)
      | (fail_if_no_progress apply State.Keeps.upd)


theorem State.readAll_keeps {s0 s : State} (l : List (Word × Nat)) 
    (hk : s0.Keeps s) : s0.Keeps (State.readAll s l) := by
  unfold State.readAll
  with_reducible repeat'
    first
      | assumption | apply State.engineRead_keeps | apply State.Keeps.ite | apply State.Keeps.foldl
      | apply State.Keeps.foldl₁ | (intro _) | (dsimp only) | (split) | (fail_if_no_progress apply State.Keeps.upd)


theorem State.modJob_keeps {s0 s : State} (f : Job → Job) 
    (hk : s0.Keeps s) : s0.Keeps (State.modJob s f) := by
  unfold State.modJob
  with_reducible repeat'
    first
      | assumption | apply State.Keeps.ite | apply State.Keeps.foldl | apply State.Keeps.foldl₁ | (intro _)
      | (dsimp only) | (split) | (fail_if_no_progress apply State.Keeps.upd)


theorem State.modMsn_keeps {s0 s : State} (f : MasonBlk → MasonBlk) 
    (hk : s0.Keeps s) : s0.Keeps (State.modMsn s f) := by
  unfold State.modMsn
  with_reducible repeat'
    first
      | assumption | apply State.Keeps.ite | apply State.Keeps.foldl | apply State.Keeps.foldl₁ | (intro _)
      | (dsimp only) | (split) | (fail_if_no_progress apply State.Keeps.upd)


theorem State.take_keeps {s0 s : State} (k : Cmd) 
    (hk : s0.Keeps s) : s0.Keeps (State.take s k) := by
  unfold State.take
  with_reducible repeat'
    first
      | assumption | apply State.modPort_keeps | apply State.modJob_keeps | apply State.modLiftRam_keeps
      | apply State.modMsn_keeps | apply State.Keeps.ite | apply State.Keeps.foldl | apply State.Keeps.foldl₁
      | (intro _) | (dsimp only) | (split) | (fail_if_no_progress apply State.Keeps.upd)


theorem State.refuse_keeps {s0 s : State} (k : Cmd) (r : Reason) 
    (hk : s0.Keeps s) : s0.Keeps (State.refuse s k r) := by
  unfold State.refuse
  with_reducible repeat'
    first
      | assumption | apply State.modPort_keeps | apply State.msix_keeps | apply State.logAdd_keeps
      | apply State.Keeps.ite | apply State.Keeps.foldl | apply State.Keeps.foldl₁ | (intro _) | (dsimp only)
      | (split) | (fail_if_no_progress apply State.Keeps.upd)


theorem State.judge_keeps {s0 s : State} (k : Cmd) (gen : Nat) (rsv : Bool) 
    (hk : s0.Keeps s) : s0.Keeps (State.judge s k gen rsv) := by
  unfold State.judge
  with_reducible repeat'
    first
      | assumption | apply State.violate_keeps | apply State.readAll_keeps | apply State.refuse_keeps
      | apply State.take_keeps | apply State.violateAll_keeps | apply State.Keeps.ite | apply State.Keeps.foldl
      | apply State.Keeps.foldl₁ | (intro _) | (dsimp only) | (split) | (fail_if_no_progress apply State.Keeps.upd)


theorem State.modList_keeps {s0 s : State} (p : Nat) (l : Nat) (f : WorkList → WorkList) 
    (hk : s0.Keeps s) : s0.Keeps (State.modList s p l f) := by
  unfold State.modList
  with_reducible repeat'
    first
      | assumption | apply State.modPort_keeps | apply State.Keeps.ite | apply State.Keeps.foldl
      | apply State.Keeps.foldl₁ | (intro _) | (dsimp only) | (split) | (fail_if_no_progress apply State.Keeps.upd)


theorem State.setBlock_keeps {s0 s : State} (b : Option Nat) 
    (hk : s0.Keeps s) : s0.Keeps (State.setBlock s b) := by
  unfold State.setBlock
  with_reducible repeat'
    first
      | assumption | apply State.Keeps.ite | apply State.Keeps.foldl | apply State.Keeps.foldl₁ | (intro _)
      | (dsimp only) | (split) | (fail_if_no_progress apply State.Keeps.upd)


theorem State.modRuns_keeps {s0 s : State} (f : List RunPlan → List RunPlan) 
    (hk : s0.Keeps s) : s0.Keeps (State.modRuns s f) := by
  unfold State.modRuns
  with_reducible repeat'
    first
      | assumption | apply State.Keeps.ite | apply State.Keeps.foldl | apply State.Keeps.foldl₁ | (intro _)
      | (dsimp only) | (split) | (fail_if_no_progress apply State.Keeps.upd)


theorem State.startRun_keeps {s0 s : State} (p : RunPlan) 
    (hk : s0.Keeps s) : s0.Keeps (State.startRun s p) := by
  unfold State.startRun
  with_reducible repeat'
    first
      | assumption | apply State.setBlock_keeps | apply State.modRuns_keeps | apply State.refuse_keeps
      | apply State.Keeps.ite | apply State.Keeps.foldl | apply State.Keeps.foldl₁ | (intro _) | (dsimp only)
      | (split) | (fail_if_no_progress apply State.Keeps.upd)


theorem State.restoreCtx_keeps {s0 s : State} (c : Nat) (n : Nat) 
    (hk : s0.Keeps s) : s0.Keeps (State.restoreCtx s c n) := by
  unfold State.restoreCtx
  with_reducible repeat'
    first
      | assumption | apply State.modCore_keeps | apply State.Keeps.ite | apply State.Keeps.foldl
      | apply State.Keeps.foldl₁ | (intro _) | (dsimp only) | (split) | (fail_if_no_progress apply State.Keeps.upd)


theorem State.copyTally_keeps {s0 s : State} (c : Nat) (t : Nat) (d : CopyDesc) 
    (hk : s0.Keeps s) : s0.Keeps (State.copyTally s c t d) := by
  unfold State.copyTally
  with_reducible repeat'
    first
      | assumption | apply State.addLocal_keeps | apply State.noteStatus_keeps | apply State.advance_keeps
      | apply State.Keeps.ite | apply State.Keeps.foldl | apply State.Keeps.foldl₁ | (intro _) | (dsimp only)
      | (split) | (fail_if_no_progress apply State.Keeps.upd)


theorem State.freeOverlap_keeps {s0 s : State} (ovl : List Nat) 
    (hk : s0.Keeps s) : s0.Keeps (State.freeOverlap s ovl) := by
  unfold State.freeOverlap
  with_reducible repeat'
    first
      | assumption | apply State.useFree_keeps | apply State.useFree_keeps | apply State.Keeps.ite
      | apply State.Keeps.foldl | apply State.Keeps.foldl₁ | (intro _) | (dsimp only) | (split) | apply Mem.Ok.refl
      | apply Mem.Ok.write | apply Mem.Ok.writeList | apply Mem.Ok.zero | apply Mem.Ok.put | apply State.Keeps.updMem


theorem State.countReads_keeps {s0 s : State} (d : CopyDesc) (rs : List (Word × Nat)) 
    (hk : s0.Keeps s) : s0.Keeps (State.countReads s d rs) := by
  unfold State.countReads
  with_reducible repeat'
    first
      | assumption | apply State.countBad_keeps | apply State.pchRequest_keeps | apply State.Keeps.ite
      | apply State.Keeps.foldl | apply State.Keeps.foldl₁ | (intro _) | (dsimp only) | (split)
      | (fail_if_no_progress apply State.Keeps.upd)


theorem State.asRead_keeps {s0 s : State} (old : List (Nat × Byte)) 
    (hk : s0.Keeps s) : s0.Keeps (State.asRead s old) := by
  unfold State.asRead
  with_reducible repeat'
    first
      | assumption | apply State.Keeps.ite | apply State.Keeps.foldl | apply State.Keeps.foldl₁ | (intro _)
      | (dsimp only) | (split) | apply Mem.Ok.refl | apply Mem.Ok.write | apply Mem.Ok.writeList | apply Mem.Ok.zero
      | apply Mem.Ok.put | apply State.Keeps.updMem


theorem State.writeAt_keeps {s0 s : State} (a : Word) (bs : List Byte) 
    (hk : s0.Keeps s) : s0.Keeps (State.writeAt s a bs) := by
  unfold State.writeAt
  with_reducible repeat'
    first
      | assumption | apply State.countBad_keeps | apply State.violate_keeps | apply State.storeList_keeps
      | apply State.storeList_keeps | apply State.Keeps.ite | apply State.Keeps.foldl | apply State.Keeps.foldl₁
      | (intro _) | (dsimp only) | (split) | (fail_if_no_progress apply State.Keeps.upd)


theorem State.writeRuns_keeps {s0 s : State} (c : Nat) (ws : List (Word × Word × List Byte)) 
    (hk : s0.Keeps s) : s0.Keeps (State.writeRuns s c ws) := by
  unfold State.writeRuns
  with_reducible repeat'
    first
      | assumption | apply State.request_keeps | apply State.writeAt_keeps | apply State.Keeps.ite
      | apply State.Keeps.foldl | apply State.Keeps.foldl₁ | (intro _) | (dsimp only) | (split)
      | (fail_if_no_progress apply State.Keeps.upd)


theorem State.noteGrain_keeps {s0 s : State} (g : BitVec 6) (o : GrainOut) 
    (hk : s0.Keeps s) : s0.Keeps (State.noteGrain s g o) := by
  unfold State.noteGrain
  with_reducible repeat'
    first
      | assumption | apply State.modRange_keeps | apply State.Keeps.ite | apply State.Keeps.foldl
      | apply State.Keeps.foldl₁ | (intro _) | (dsimp only) | (split) | (fail_if_no_progress apply State.Keeps.upd)


theorem State.applyCopy_keeps {s0 s : State} (c : Nat) (d : CopyDesc) (old : List (Nat × Byte)) 
    (hk : s0.Keeps s) : s0.Keeps (State.applyCopy s c d old) := by
  unfold State.applyCopy
  with_reducible repeat'
    first
      | assumption | apply State.asRead_keeps | apply State.useFrees_keeps | apply State.countReads_keeps
      | apply State.outOfCapIf_keeps | apply State.writeRuns_keeps | apply State.checkWaits_keeps
      | apply State.freeOverlap_keeps | apply State.noteGrain_keeps | apply State.noteConv_keeps
      | apply State.useFrees_keeps | apply State.checkWaits_keeps | apply State.Keeps.ite | apply State.Keeps.foldl
      | apply State.Keeps.foldl₁ | (intro _) | (dsimp only) | (split) | (fail_if_no_progress apply State.Keeps.upd)


theorem State.logCourse_keeps {s0 s : State} (c : Nat) (e : CourseEntry) 
    (hk : s0.Keeps s) : s0.Keeps (State.logCourse s c e) := by
  unfold State.logCourse
  with_reducible repeat'
    first
      | assumption | apply State.modRun_keeps | apply State.Keeps.ite | apply State.Keeps.foldl
      | apply State.Keeps.foldl₁ | (intro _) | (dsimp only) | (split) | (fail_if_no_progress apply State.Keeps.upd)


theorem State.coreEdge_keeps {s0 s : State} (c : Nat) 
    (hk : s0.Keeps s) : s0.Keeps (State.coreEdge s c) := by
  unfold State.coreEdge
  with_reducible repeat'
    first
      | assumption | apply State.saveCtx_keeps | apply State.modRegs_keeps | apply State.modArr_keeps
      | apply State.modCore_keeps | apply State.logAdd_keeps | apply State.Keeps.ite | apply State.Keeps.foldl
      | apply State.Keeps.foldl₁ | (intro _) | (dsimp only) | (split) | (fail_if_no_progress apply State.Keeps.upd)


theorem State.openCourse_keeps {s0 s : State} (n : Word) (t : Nat) 
    (hk : s0.Keeps s) : s0.Keeps (State.openCourse s n t) := by
  unfold State.openCourse
  with_reducible repeat'
    first
      | assumption | apply State.modChain_keeps | apply State.modRun_keeps | apply State.Keeps.ite
      | apply State.Keeps.foldl | apply State.Keeps.foldl₁ | (intro _) | (dsimp only) | (split)
      | (fail_if_no_progress apply State.Keeps.upd)


theorem State.closeCourses_keeps {s0 s : State}  
    (hk : s0.Keeps s) : s0.Keeps (State.closeCourses s) := by
  unfold State.closeCourses
  with_reducible repeat'
    first
      | assumption | apply State.modRun_keeps | apply State.setMod_keeps | apply State.Keeps.ite
      | apply State.Keeps.foldl | apply State.Keeps.foldl₁ | (intro _) | (dsimp only) | (split)
      | (fail_if_no_progress apply State.Keeps.upd)


theorem State.endRun_keeps {s0 s : State} (n : Nat) 
    (hk : s0.Keeps s) : s0.Keeps (State.endRun s n) := by
  unfold State.endRun
  with_reducible repeat'
    first
      | assumption | apply State.complete_keeps | apply State.setBlock_keeps | apply State.modRuns_keeps
      | apply State.Keeps.ite | apply State.Keeps.foldl | apply State.Keeps.foldl₁ | (intro _) | (dsimp only)
      | (split) | (fail_if_no_progress apply State.Keeps.upd)


theorem State.startDue_keeps {s0 s : State} (n : Nat) 
    (hk : s0.Keeps s) : s0.Keeps (State.startDue s n) := by
  unfold State.startDue
  with_reducible repeat'
    first
      | assumption | apply State.startRun_keeps | apply State.Keeps.ite | apply State.Keeps.foldl
      | apply State.Keeps.foldl₁ | (intro _) | (dsimp only) | (split) | (fail_if_no_progress apply State.Keeps.upd)


theorem State.endPark_keeps {s0 s : State} (c : Nat) 
    (hk : s0.Keeps s) : s0.Keeps (State.endPark s c) := by
  unfold State.endPark
  with_reducible repeat'
    first
      | assumption | apply State.modCore_keeps | apply State.restoreCtx_keeps | apply State.modRun_keeps
      | apply State.Keeps.ite | apply State.Keeps.foldl | apply State.Keeps.foldl₁ | (intro _) | (dsimp only)
      | (split) | (fail_if_no_progress apply State.Keeps.upd)


theorem State.restoreParked_keeps {s0 s : State}  
    (hk : s0.Keeps s) : s0.Keeps (State.restoreParked s) := by
  unfold State.restoreParked
  with_reducible repeat'
    first
      | assumption | apply State.endPark_keeps | apply State.Keeps.ite | apply State.Keeps.foldl
      | apply State.Keeps.foldl₁ | (intro _) | (dsimp only) | (split) | (fail_if_no_progress apply State.Keeps.upd)


theorem State.bulkWrite_keeps {s0 s : State} (off : Nat) (n : Nat) 
    (hk : s0.Keeps s) : s0.Keeps (State.bulkWrite s off n) := by
  unfold State.bulkWrite
  with_reducible repeat'
    first
      | assumption | apply State.request_keeps | apply State.Keeps.ite | apply State.Keeps.foldl
      | apply State.Keeps.foldl₁ | (intro _) | (dsimp only) | (split) | (fail_if_no_progress apply State.Keeps.upd)


theorem State.fastWrite_keeps {s0 s : State} (off : Nat) (bs : List Byte) 
    (hk : s0.Keeps s) : s0.Keeps (State.fastWrite s off bs) := by
  unfold State.fastWrite
  with_reducible repeat'
    first
      | assumption | apply State.bulkWrite_keeps | apply State.writeAt_keeps | apply State.Keeps.ite
      | apply State.Keeps.foldl | apply State.Keeps.foldl₁ | (intro _) | (dsimp only) | (split)
      | (fail_if_no_progress apply State.Keeps.upd)


theorem State.snapshot_keeps {s0 s : State} (course : Word) 
    (hk : s0.Keeps s) : s0.Keeps (State.snapshot s course) := by
  unfold State.snapshot
  with_reducible repeat'
    first
      | assumption | apply State.fastWrite_keeps | apply State.Keeps.ite | apply State.Keeps.foldl
      | apply State.Keeps.foldl₁ | (intro _) | (dsimp only) | (split) | (fail_if_no_progress apply State.Keeps.upd)


theorem State.courseEdge_keeps {s0 s : State} (t : Nat) 
    (hk : s0.Keeps s) : s0.Keeps (State.courseEdge s t) := by
  unfold State.courseEdge
  with_reducible repeat'
    first
      | assumption | apply State.logAdd_keeps | apply State.snapshot_keeps | apply State.coreEdge_keeps
      | apply State.startDue_keeps | apply State.endRun_keeps | apply State.closeCourses_keeps
      | apply State.openCourse_keeps | apply State.Keeps.ite | apply State.Keeps.foldl | apply State.Keeps.foldl₁
      | (intro _) | (dsimp only) | (split) | (fail_if_no_progress apply State.Keeps.upd)


theorem State.firstEdge_keeps {s0 s : State} (t : Nat) 
    (hk : s0.Keeps s) : s0.Keeps (State.firstEdge s t) := by
  unfold State.firstEdge
  with_reducible repeat'
    first
      | assumption | apply State.startRun_keeps | apply State.openCourse_keeps | apply State.setMod_keeps
      | apply State.Keeps.ite | apply State.Keeps.foldl | apply State.Keeps.foldl₁ | (intro _) | (dsimp only)
      | (split) | (fail_if_no_progress apply State.Keeps.upd)


theorem State.flipFace_keeps {s0 s : State}  
    (hk : s0.Keeps s) : s0.Keeps (State.flipFace s) := by
  unfold State.flipFace
  with_reducible repeat'
    first
      | assumption | apply State.Keeps.ite | apply State.Keeps.foldl | apply State.Keeps.foldl₁ | (intro _)
      | (dsimp only) | (split) | (fail_if_no_progress apply State.Keeps.upd)


theorem State.releaseCtx_keeps {s0 s : State} (c : Nat) (n : Nat) 
    (hk : s0.Keeps s) : s0.Keeps (State.releaseCtx s c n) := by
  unfold State.releaseCtx
  with_reducible repeat'
    first
      | assumption | apply State.restoreCtx_keeps | apply State.modCore_keeps | apply State.modRun_keeps
      | apply State.Keeps.ite | apply State.Keeps.foldl | apply State.Keeps.foldl₁ | (intro _) | (dsimp only)
      | (split) | (fail_if_no_progress apply State.Keeps.upd)


theorem State.idleCourse_keeps {s0 s : State} (c : Nat) 
    (hk : s0.Keeps s) : s0.Keeps (State.idleCourse s c) := by
  unfold State.idleCourse
  with_reducible repeat'
    first
      | assumption | apply State.modRun_keeps | apply State.logCourse_keeps | apply State.Keeps.ite
      | apply State.Keeps.foldl | apply State.Keeps.foldl₁ | (intro _) | (dsimp only) | (split)
      | (fail_if_no_progress apply State.Keeps.upd)


theorem State.scalar_keeps {s0 s : State} (c : CoreId) (t : StrandId) (w : SWord) (f : Word → Word → Word) 
    (hk : s0.Keeps s) : s0.Keeps (State.scalar s c t w f) := by
  unfold State.scalar
  with_reducible repeat'
    first
      | assumption | apply State.issue_keeps | apply State.retire_keeps | apply State.setSreg_keeps
      | apply State.Keeps.ite | apply State.Keeps.foldl | apply State.Keeps.foldl₁ | (intro _) | (dsimp only)
      | (split) | (fail_if_no_progress apply State.Keeps.upd)


theorem State.jumpTo_keeps {s0 s : State} (c : Nat) (t : Nat) (a : Word) 
    (hk : s0.Keeps s) : s0.Keeps (State.jumpTo s c t a) := by
  unfold State.jumpTo
  with_reducible repeat'
    first
      | assumption | apply State.modStrand_keeps | apply State.Keeps.ite | apply State.Keeps.foldl
      | apply State.Keeps.foldl₁ | (intro _) | (dsimp only) | (split) | (fail_if_no_progress apply State.Keeps.upd)


theorem State.branch_keeps {s0 s : State} (c : CoreId) (t : StrandId) (w : SWord) (taken : Word → Word → Bool) 
    (hk : s0.Keeps s) : s0.Keeps (State.branch s c t w taken) := by
  unfold State.branch
  with_reducible repeat'
    first
      | assumption | apply State.issue_keeps | apply State.misfitIf_keeps | apply State.jumpTo_keeps
      | apply State.advanceIp_keeps | apply State.Keeps.ite | apply State.Keeps.foldl | apply State.Keeps.foldl₁
      | (intro _) | (dsimp only) | (split) | (fail_if_no_progress apply State.Keeps.upd)


theorem State.vector_keeps {s0 s : State} (c : CoreId) (t : StrandId) (regs : List Nat) (valid : Bool) (mis : Bool) (effect : State → State) (heffect : ∀ v, s0.Keeps v → s0.Keeps (effect v))
    (hk : s0.Keeps s) : s0.Keeps (State.vector s c t regs valid mis effect) := by
  unfold State.vector
  with_reducible repeat'
    first
      | assumption | apply heffect | apply State.issue_keeps | apply State.retire_keeps | apply State.Keeps.ite
      | apply State.Keeps.foldl | apply State.Keeps.foldl₁ | (intro _) | (dsimp only) | (split)
      | (fail_if_no_progress apply State.Keeps.upd)


theorem State.setLanes_keeps {s0 s : State} (c : Nat) (vd : Nat) (ls : List W32) 
    (hk : s0.Keeps s) : s0.Keeps (State.setLanes s c vd ls) := by
  unfold State.setLanes
  with_reducible repeat'
    first
      | assumption | apply State.modRegs_keeps | apply State.Keeps.ite | apply State.Keeps.foldl
      | apply State.Keeps.foldl₁ | (intro _) | (dsimp only) | (split) | (fail_if_no_progress apply State.Keeps.upd)


theorem State.lanewise2_keeps {s0 s : State} (c : CoreId) (t : StrandId) (w : VWord) (ff : W32 → W32 → W32) (fi : W32 → W32 → W32) 
    (hk : s0.Keeps s) : s0.Keeps (State.lanewise2 s c t w ff fi) := by
  unfold State.lanewise2
  with_reducible repeat'
    first
      | assumption | apply State.vector_keeps | apply State.setLanes_keeps | apply State.Keeps.ite
      | apply State.Keeps.foldl | apply State.Keeps.foldl₁ | (intro _) | (dsimp only) | (split)
      | (fail_if_no_progress apply State.Keeps.upd)


theorem State.lanewise1_keeps {s0 s : State} (c : CoreId) (t : StrandId) (w : VWord) (f : W32 → W32) 
    (hk : s0.Keeps s) : s0.Keeps (State.lanewise1 s c t w f) := by
  unfold State.lanewise1
  with_reducible repeat'
    first
      | assumption | apply State.vector_keeps | apply State.setLanes_keeps | apply State.Keeps.ite
      | apply State.Keeps.foldl | apply State.Keeps.foldl₁ | (intro _) | (dsimp only) | (split)
      | (fail_if_no_progress apply State.Keeps.upd)


theorem State.countList_keeps {s0 s : State} (t : Targets) 
    (hk : s0.Keeps s) : s0.Keeps (State.countList s t) := by
  unfold State.countList
  with_reducible repeat'
    first
      | assumption | apply State.violate_keeps | apply State.engineRead_keeps | apply State.Keeps.ite
      | apply State.Keeps.foldl | apply State.Keeps.foldl₁ | (intro _) | (dsimp only) | (split)
      | (fail_if_no_progress apply State.Keeps.upd)


theorem State.launch_keeps {s0 s : State} (unit : Nat) (tag : Nat) (x : RemSlot) (brs : List (Word × List (List Packet))) 
    (hk : s0.Keeps s) : s0.Keeps (State.launch s unit tag x brs) := by
  unfold State.launch
  with_reducible repeat'
    first
      | assumption | apply State.setSlot_keeps | apply State.postAll_keeps | apply State.Keeps.ite
      | apply State.Keeps.foldl | apply State.Keeps.foldl₁ | (intro _) | (dsimp only) | (split)
      | (fail_if_no_progress apply State.Keeps.upd)


theorem State.issueWrite_keeps {s0 s : State} (c : Nat) (t : Nat) (w : MWord) (op : BitVec 8) (hdr : Packet) (tg : Targets) (data : List Byte) 
    (hk : s0.Keeps s) : s0.Keeps (State.issueWrite s c t w op hdr tg data) := by
  unfold State.issueWrite
  with_reducible repeat'
    first
      | assumption | apply State.countList_keeps | apply State.endCt_keeps | apply State.launch_keeps
      | apply State.Keeps.ite | apply State.Keeps.foldl | apply State.Keeps.foldl₁ | (intro _) | (dsimp only)
      | (split) | (fail_if_no_progress apply State.Keeps.upd)


theorem State.putOp_keeps {s0 s : State} (c : CoreId) (t : StrandId) (w : MWord) (op : BitVec 8) (sig : Bool) 
    (hk : s0.Keeps s) : s0.Keeps (State.putOp s c t w op sig) := by
  unfold State.putOp
  with_reducible repeat'
    first
      | assumption | apply State.issue_keeps | apply State.retire_keeps | apply State.issueWrite_keeps
      | apply State.Keeps.ite | apply State.Keeps.foldl | apply State.Keeps.foldl₁ | (intro _) | (dsimp only)
      | (split) | (fail_if_no_progress apply State.Keeps.upd)


theorem State.accOp_keeps {s0 s : State} (c : CoreId) (t : StrandId) (w : MWord) (op : BitVec 8) (sig : Bool) 
    (hk : s0.Keeps s) : s0.Keeps (State.accOp s c t w op sig) := by
  unfold State.accOp
  with_reducible repeat'
    first
      | assumption | apply State.issue_keeps | apply State.retire_keeps | apply State.issueWrite_keeps
      | apply State.Keeps.ite | apply State.Keeps.foldl | apply State.Keeps.foldl₁ | (intro _) | (dsimp only)
      | (split) | (fail_if_no_progress apply State.Keeps.upd)


theorem State.register_keeps {s0 s : State} (c : Nat) (t : Nat) (a : Word) (v : Word) 
    (hk : s0.Keeps s) : s0.Keeps (State.register s c t a v) := by
  unfold State.register
  with_reducible repeat'
    first
      | assumption | apply State.post_keeps | apply State.Keeps.ite | apply State.Keeps.foldl
      | apply State.Keeps.foldl₁ | (intro _) | (dsimp only) | (split) | (fail_if_no_progress apply State.Keeps.upd)


theorem State.bulkRead_keeps {s0 s : State} (off : Nat) (n : Nat) 
    (hk : s0.Keeps s) : s0.Keeps (State.bulkRead s off n) := by
  unfold State.bulkRead
  with_reducible repeat'
    first
      | assumption | apply State.request_keeps | apply State.Keeps.ite | apply State.Keeps.foldl
      | apply State.Keeps.foldl₁ | (intro _) | (dsimp only) | (split) | (fail_if_no_progress apply State.Keeps.upd)


theorem State.fastAdd_keeps {s0 s : State} (off : Nat) (n : Nat) 
    (hk : s0.Keeps s) : s0.Keeps (State.fastAdd s off n) := by
  unfold State.fastAdd
  with_reducible repeat'
    first
      | assumption | apply State.fastWrite_keeps | apply State.bulkRead_keeps | apply State.Keeps.ite
      | apply State.Keeps.foldl | apply State.Keeps.foldl₁ | (intro _) | (dsimp only) | (split)
      | (fail_if_no_progress apply State.Keeps.upd)


theorem State.takeFlight_keeps {s0 s : State} (p : Packet) 
    (hk : s0.Keeps s) : s0.Keeps (State.takeFlight s p) := by
  unfold State.takeFlight
  with_reducible repeat'
    first
      | assumption | apply State.freeFlight_keeps | apply State.Keeps.ite | apply State.Keeps.foldl
      | apply State.Keeps.foldl₁ | (intro _) | (dsimp only) | (split) | (fail_if_no_progress apply State.Keeps.upd)


theorem State.takePacket_keeps {s0 s : State} (p : Packet) (op : BitVec 4) (act : State → State) (hact : ∀ v, s0.Keeps v → s0.Keeps (act v))
    (hk : s0.Keeps s) : s0.Keeps (State.takePacket s p op act) := by
  unfold State.takePacket
  with_reducible repeat'
    first
      | assumption | apply hact | apply State.violate_keeps | apply State.takeFlight_keeps | apply State.Keeps.ite
      | apply State.Keeps.foldl | apply State.Keeps.foldl₁ | (intro _) | (dsimp only) | (split)
      | (fail_if_no_progress apply State.Keeps.upd)


theorem State.noteLanding_keeps {s0 s : State} (p : Packet) (link : Option Nat) 
    (hk : s0.Keeps s) : s0.Keeps (State.noteLanding s p link) := by
  unfold State.noteLanding
  with_reducible repeat'
    first
      | assumption | apply State.modLandings_keeps | apply State.Keeps.ite | apply State.Keeps.foldl
      | apply State.Keeps.foldl₁ | (intro _) | (dsimp only) | (split) | (fail_if_no_progress apply State.Keeps.upd)


theorem State.roWrite_keeps {s0 s : State} (o : Nat) (mask : Word) (v : Word) 
    (hk : s0.Keeps s) : s0.Keeps (State.roWrite s o mask v) := by
  unfold State.roWrite
  with_reducible repeat'
    first
      | assumption | apply State.violate_keeps | apply State.Keeps.ite | apply State.Keeps.foldl
      | apply State.Keeps.foldl₁ | (intro _) | (dsimp only) | (split) | (fail_if_no_progress apply State.Keeps.upd)


theorem State.clearRange_keeps {s0 s : State} (mask : Word) 
    (hk : s0.Keeps s) : s0.Keeps (State.clearRange s mask) := by
  unfold State.clearRange
  with_reducible repeat'
    first
      | assumption | apply State.Keeps.ite | apply State.Keeps.foldl | apply State.Keeps.foldl₁ | (intro _)
      | (dsimp only) | (split) | (fail_if_no_progress apply State.Keeps.upd)


theorem State.strandCtlWord_keeps {s0 s : State} (a : Nat) (v : Word) 
    (hk : s0.Keeps s) : s0.Keeps (State.strandCtlWord s a v) := by
  unfold State.strandCtlWord
  with_reducible repeat'
    first
      | assumption | apply State.violate_keeps | apply State.roWrite_keeps | apply State.clearRange_keeps
      | apply State.Keeps.ite | apply State.Keeps.foldl | apply State.Keeps.foldl₁ | (intro _) | (dsimp only)
      | (split) | (fail_if_no_progress apply State.Keeps.upd)


theorem State.strandCtl_keeps {s0 s : State} (o : Nat) (bs : List Byte) 
    (hk : s0.Keeps s) : s0.Keeps (State.strandCtl s o bs) := by
  unfold State.strandCtl
  with_reducible repeat'
    first
      | assumption | apply State.strandCtlWord_keeps | apply State.violate_keeps | apply State.Keeps.ite
      | apply State.Keeps.foldl | apply State.Keeps.foldl₁ | (intro _) | (dsimp only) | (split)
      | (fail_if_no_progress apply State.Keeps.upd)


theorem State.confirm_keeps {s0 s : State} (p : Packet) 
    (hk : s0.Keeps s) : s0.Keeps (State.confirm s p) := by
  unfold State.confirm
  with_reducible repeat'
    first
      | assumption | apply State.Keeps.ite | apply State.Keeps.foldl | apply State.Keeps.foldl₁ | (intro _)
      | (dsimp only) | (split) | (fail_if_no_progress apply State.Keeps.upd)


theorem State.enterFrag_keeps {s0 s : State} (f : Frag) 
    (hk : s0.Keeps s) : s0.Keeps (State.enterFrag s f) := by
  unfold State.enterFrag
  with_reducible repeat'
    first
      | assumption | apply State.Keeps.ite | apply State.Keeps.foldl | apply State.Keeps.foldl₁ | (intro _)
      | (dsimp only) | (split) | (fail_if_no_progress apply State.Keeps.upd)


theorem State.frontTake_keeps {s0 s : State} (p : Packet) (front : Nat) 
    (hk : s0.Keeps s) : s0.Keeps (State.frontTake s p front) := by
  unfold State.frontTake
  with_reducible repeat'
    first
      | assumption | apply State.violate_keeps | apply State.confirm_keeps | apply State.enterFrag_keeps
      | apply State.Keeps.ite | apply State.Keeps.foldl | apply State.Keeps.foldl₁ | (intro _) | (dsimp only)
      | (split) | (fail_if_no_progress apply State.Keeps.upd)


theorem State.accLocal_keeps {s0 s : State} (p : Packet) 
    (hk : s0.Keeps s) : s0.Keeps (State.accLocal s p) := by
  unfold State.accLocal
  with_reducible repeat'
    first
      | assumption | apply State.countBad_keeps | apply State.violate_keeps | apply State.store_keeps
      | apply State.store_keeps | apply State.Keeps.ite | apply State.Keeps.foldl | apply State.Keeps.foldl₁
      | (intro _) | (dsimp only) | (split) | (fail_if_no_progress apply State.Keeps.upd)


theorem State.sendFrom_keeps {s0 s : State} (p : Packet) (a : Word) 
    (hk : s0.Keeps s) : s0.Keeps (State.sendFrom s p a) := by
  unfold State.sendFrom
  with_reducible repeat'
    first
      | assumption | apply State.Keeps.ite | apply State.Keeps.foldl | apply State.Keeps.foldl₁ | (intro _)
      | (dsimp only) | (split) | (fail_if_no_progress apply State.Keeps.upd)


theorem State.postFrom_keeps {s0 s : State} (p : Packet) (a : Word) 
    (hk : s0.Keeps s) : s0.Keeps (State.postFrom s p a) := by
  unfold State.postFrom
  with_reducible repeat'
    first
      | assumption | apply State.sendFrom_keeps | apply State.endAbsent_keeps | apply State.Keeps.ite
      | apply State.Keeps.foldl | apply State.Keeps.foldl₁ | (intro _) | (dsimp only) | (split)
      | (fail_if_no_progress apply State.Keeps.upd)


theorem State.clearRc_keeps {s0 s : State} (a : Nat) 
    (hk : s0.Keeps s) : s0.Keeps (State.clearRc s a) := by
  unfold State.clearRc
  with_reducible repeat'
    first
      | assumption | apply State.modCluster_keeps | apply State.Keeps.ite | apply State.Keeps.foldl
      | apply State.Keeps.foldl₁ | (intro _) | (dsimp only) | (split) | (fail_if_no_progress apply State.Keeps.upd)


theorem State.ctlRead_keeps {s0 s : State} (p : Nat) (o : Nat) (n : Nat) 
    (hk : s0.Keeps s) : s0.Keeps (State.ctlRead s p o n) := by
  unfold State.ctlRead
  with_reducible repeat'
    first
      | assumption | apply State.violate_keeps | apply State.clearRc_keeps | apply State.Keeps.ite
      | apply State.Keeps.foldl | apply State.Keeps.foldl₁ | (intro _) | (dsimp only) | (split)
      | (fail_if_no_progress apply State.Keeps.upd)


theorem State.readEffect_keeps {s0 s : State} (a : Word) (n : Nat) (crit : Bool) 
    (hk : s0.Keeps s) : s0.Keeps (State.readEffect s a n crit) := by
  unfold State.readEffect
  with_reducible repeat'
    first
      | assumption | apply State.ctlRead_keeps | apply State.request_keeps | apply State.countBad_keeps
      | apply State.Keeps.ite | apply State.Keeps.foldl | apply State.Keeps.foldl₁ | (intro _) | (dsimp only)
      | (split) | (fail_if_no_progress apply State.Keeps.upd)


theorem State.faceGet_keeps {s0 s u : State} (w : Nat × Nat × Word × Nat)
    (hk : s0.Keeps s) (hu : State.faceGet s w = some u) : s0.Keeps u := by
  unfold State.faceGet at hu
  split at hu
  · cases hu
  · injection hu with hu
    subst hu
    exact State.postAll_keeps _ (State.setSlot_keeps _ _ _ hk)

theorem State.modXfer_keeps {s0 s : State} (f : Xfer → Xfer) 
    (hk : s0.Keeps s) : s0.Keeps (State.modXfer s f) := by
  unfold State.modXfer
  with_reducible repeat'
    first
      | assumption | apply State.Keeps.ite | apply State.Keeps.foldl | apply State.Keeps.foldl₁ | (intro _)
      | (dsimp only) | (split) | (fail_if_no_progress apply State.Keeps.upd)


theorem State.facePiece_keeps {s0 s : State} (w : Nat × Nat × Word × Nat)
    (hk : s0.Keeps s) : s0.Keeps (State.facePiece s w) := by
  unfold State.facePiece
  split
  · exact State.faceGet_keeps w hk ‹_›
  · exact State.modXfer_keeps _ hk

theorem State.faceGets_keeps {s0 s : State}  
    (hk : s0.Keeps s) : s0.Keeps (State.faceGets s) := by
  unfold State.faceGets
  with_reducible repeat'
    first
      | assumption | apply State.facePiece_keeps | apply State.modXfer_keeps | apply State.Keeps.ite
      | apply State.Keeps.foldl | apply State.Keeps.foldl₁ | (intro _) | (dsimp only) | (split)
      | (fail_if_no_progress apply State.Keeps.upd)


theorem State.answered_keeps {s0 s : State} (unit : Nat) (tag : Nat) (dst : Word) (st : BitVec 3) (extra : RemSlot → Branch → State → State) (hextra : ∀ w0 w1 v, s0.Keeps v → s0.Keeps (extra w0 w1 v))
    (hk : s0.Keeps s) : s0.Keeps (State.answered s unit tag dst st extra) := by
  unfold State.answered
  with_reducible repeat'
    first
      | assumption | apply hextra | apply State.noteStatus_keeps | apply State.countAnswer_keeps
      | apply State.Keeps.ite | apply State.Keeps.foldl | apply State.Keeps.foldl₁ | (intro _) | (dsimp only)
      | (split) | (fail_if_no_progress apply State.Keeps.upd)


theorem State.writeGot_keeps {s0 s : State} (a : Word) (bs : List Byte) 
    (hk : s0.Keeps s) : s0.Keeps (State.writeGot s a bs) := by
  unfold State.writeGot
  with_reducible repeat'
    first
      | assumption | apply State.storeList_keeps | apply State.countBad_keeps | apply State.storeList_keeps
      | apply State.Keeps.ite | apply State.Keeps.foldl | apply State.Keeps.foldl₁ | (intro _) | (dsimp only)
      | (split) | (fail_if_no_progress apply State.Keeps.upd)


theorem State.zeroGet_keeps {s0 s : State} (c : Nat) (x : RemSlot) (b : Branch) (dst : Word) 
    (hk : s0.Keeps s) : s0.Keeps (State.zeroGet s c x b dst) := by
  unfold State.zeroGet
  with_reducible repeat'
    first
      | assumption | apply State.storeList_keeps | apply State.writeSlow_keeps | apply State.storeList_keeps
      | apply State.Keeps.ite | apply State.Keeps.foldl | apply State.Keeps.foldl₁ | (intro _) | (dsimp only)
      | (split) | (fail_if_no_progress apply State.Keeps.upd)


theorem State.countFull_keeps {s0 s : State} (h : Home) 
    (hk : s0.Keeps s) : s0.Keeps (State.countFull s h) := by
  unfold State.countFull
  with_reducible repeat'
    first
      | assumption | apply State.logWait_keeps | apply State.modCluster_keeps | apply State.Keeps.ite
      | apply State.Keeps.foldl | apply State.Keeps.foldl₁ | (intro _) | (dsimp only) | (split)
      | (fail_if_no_progress apply State.Keeps.upd)


theorem State.addRecord_keeps {s0 s : State} (h : Home) (r : WaitRec) 
    (hk : s0.Keeps s) : s0.Keeps (State.addRecord s h r) := by
  unfold State.addRecord
  with_reducible repeat'
    first
      | assumption | apply State.modCluster_keeps | apply State.Keeps.ite | apply State.Keeps.foldl
      | apply State.Keeps.foldl₁ | (intro _) | (dsimp only) | (split) | (fail_if_no_progress apply State.Keeps.upd)


theorem State.resendLater_keeps {s0 s : State} (unit : BitVec 10) (tag : BitVec 6) (a : Word) (v : Word) 
    (hk : s0.Keeps s) : s0.Keeps (State.resendLater s unit tag a v) := by
  unfold State.resendLater
  with_reducible repeat'
    first
      | assumption | apply State.Keeps.ite | apply State.Keeps.foldl | apply State.Keeps.foldl₁ | (intro _)
      | (dsimp only) | (split) | (fail_if_no_progress apply State.Keeps.upd)


theorem State.wakeStrand_keeps {s0 s : State} (c : Nat) (t : Nat) (p : Packet) 
    (hk : s0.Keeps s) : s0.Keeps (State.wakeStrand s c t p) := by
  unfold State.wakeStrand
  with_reducible repeat'
    first
      | assumption | apply State.resendLater_keeps | apply State.unblock_keeps | apply State.useFree_keeps
      | apply State.karrDone_keeps | apply State.useFree_keeps | apply State.Keeps.ite | apply State.Keeps.foldl
      | apply State.Keeps.foldl₁ | (intro _) | (dsimp only) | (split) | (fail_if_no_progress apply State.Keeps.upd)


theorem State.wakeNotifier_keeps {s0 s : State} (p : Nat) (k : Packet) 
    (hk : s0.Keeps s) : s0.Keeps (State.wakeNotifier s p k) := by
  unfold State.wakeNotifier
  with_reducible repeat'
    first
      | assumption | apply State.resendLater_keeps | apply State.notifyFire_keeps | apply State.Keeps.ite
      | apply State.Keeps.foldl | apply State.Keeps.foldl₁ | (intro _) | (dsimp only) | (split)
      | (fail_if_no_progress apply State.Keeps.upd)


theorem State.answerBroken_keeps {s0 s : State} (key : Nat) (p : Packet) 
    (hk : s0.Keeps s) : s0.Keeps (State.answerBroken s key p) := by
  unfold State.answerBroken
  with_reducible repeat'
    first
      | assumption | apply State.replyKarr_keeps | apply State.sendRelease_keeps | apply State.Keeps.ite
      | apply State.Keeps.foldl | apply State.Keeps.foldl₁ | (intro _) | (dsimp only) | (split)
      | (fail_if_no_progress apply State.Keeps.upd)


theorem State.letIn_keeps {s0 s : State} (x : KSlot) (m : KMember) 
    (hk : s0.Keeps s) : s0.Keeps (State.letIn s x m).1 := by
  unfold State.letIn
  with_reducible repeat'
    first
      | assumption | apply State.replyKarr_keeps | apply State.Keeps.ite | apply State.Keeps.foldl
      | apply State.Keeps.foldl₁ | (intro _) | (dsimp only) | (split) | (fail_if_no_progress apply State.Keeps.upd)


theorem State.freeKSlot_keeps {s0 s : State} (cl : Nat) (i : Nat) 
    (hk : s0.Keeps s) : s0.Keeps (State.freeKSlot s cl i) := by
  unfold State.freeKSlot
  with_reducible repeat'
    first
      | assumption | apply State.modCluster_keeps | apply State.Keeps.ite | apply State.Keeps.foldl
      | apply State.Keeps.foldl₁ | (intro _) | (dsimp only) | (split) | (fail_if_no_progress apply State.Keeps.upd)


theorem State.kClose_keeps {s0 s : State} (cl i : Nat) (x : KSlot)
    (hk : s0.Keeps s) : s0.Keeps (State.kClose s cl i x) := by
  unfold State.kClose
  with_reducible repeat'
    first
      | assumption | apply State.writeBack_keeps | apply State.setKSlot_keeps | apply State.freeKSlot_keeps
      | apply State.sendRelease_keeps | apply State.letIn_keeps | apply State.Keeps.ite | apply State.Keeps.foldl
      | apply State.Keeps.foldl₁ | (intro _) | (dsimp only)

theorem State.kCheck_keeps {s0 s : State} (cl : Nat) (i : Nat) (x : KSlot) 
    (hk : s0.Keeps s) : s0.Keeps (State.kCheck s cl i x) := by
  unfold State.kCheck
  with_reducible repeat'
    first
      | assumption | apply State.setKSlot_keeps | apply State.kClose_keeps | apply State.engineRead_keeps
      | apply State.post_keeps | apply State.Keeps.ite | apply State.Keeps.foldl | apply State.Keeps.foldl₁
      | (intro _) | (dsimp only) | (split) | (fail_if_no_progress apply State.Keeps.upd)


theorem State.kAct_keeps {s0 s : State} (cl : Nat) (i : Nat) (x : KSlot) (p : Packet) 
    (hk : s0.Keeps s) : s0.Keeps (State.kAct s cl i x p) := by
  unfold State.kAct
  with_reducible repeat'
    first
      | assumption | apply State.answerBroken_keeps | apply State.letIn_keeps | apply State.kCheck_keeps
      | apply State.replyKarr_keeps | apply State.violate_keeps | apply State.sendRelease_keeps
      | apply State.setKSlot_keeps | apply State.Keeps.ite | apply State.Keeps.foldl | apply State.Keeps.foldl₁
      | (intro _) | (dsimp only) | (split) | (fail_if_no_progress apply State.Keeps.upd)


theorem State.kServe_keeps {s0 s : State} (cl : Nat) (key : Nat) (p : Packet) (count : Bool) 
    (hk : s0.Keeps s) : s0.Keeps (State.kServe s cl key p count) := by
  unfold State.kServe
  with_reducible repeat'
    first
      | assumption | apply State.answerBroken_keeps | apply State.kAct_keeps | apply State.violate_keeps
      | apply State.setKSlot_keeps | apply State.modCluster_keeps | apply State.logWait_keeps | apply State.Keeps.ite
      | apply State.Keeps.foldl | apply State.Keeps.foldl₁ | (intro _) | (dsimp only) | (split)
      | (fail_if_no_progress apply State.Keeps.upd)


theorem State.atHome_keeps {s0 s : State} (p : Packet) 
    (hk : s0.Keeps s) : s0.Keeps (State.atHome s p) := by
  unfold State.atHome
  with_reducible repeat'
    first
      | assumption | apply State.kServe_keeps | apply State.answerBroken_keeps | apply State.violate_keeps
      | apply State.violateAll_keeps | apply State.replyKarr_keeps | apply State.sendRelease_keeps
      | apply State.Keeps.ite | apply State.Keeps.foldl | apply State.Keeps.foldl₁ | (intro _) | (dsimp only)
      | (split) | (fail_if_no_progress apply State.Keeps.upd)


theorem State.noteRelease_keeps {s0 s : State} (c : Nat) (p : Packet) 
    (hk : s0.Keeps s) : s0.Keeps (State.noteRelease s c p) := by
  unfold State.noteRelease
  with_reducible repeat'
    first
      | assumption | apply State.modEng_keeps | apply State.Keeps.ite | apply State.Keeps.foldl
      | apply State.Keeps.foldl₁ | (intro _) | (dsimp only) | (split) | (fail_if_no_progress apply State.Keeps.upd)


theorem State.releaseStrand_keeps {s0 s : State} (c : Nat) (p : Packet) (t : Nat) 
    (hk : s0.Keeps s) : s0.Keeps (State.releaseStrand s c p t) := by
  unfold State.releaseStrand
  with_reducible repeat'
    first
      | assumption | apply State.unblock_keeps | apply State.Keeps.ite | apply State.Keeps.foldl
      | apply State.Keeps.foldl₁ | (intro _) | (dsimp only) | (split) | (fail_if_no_progress apply State.Keeps.upd)


theorem State.chainEnds_keeps {s0 s : State} (cl : Nat) (key : Nat) (p : Packet) 
    (hk : s0.Keeps s) : s0.Keeps (State.chainEnds s cl key p) := by
  unfold State.chainEnds
  with_reducible repeat'
    first
      | assumption | apply State.tellModules_keeps | apply State.chainBreak_keeps | apply State.Keeps.ite
      | apply State.Keeps.foldl | apply State.Keeps.foldl₁ | (intro _) | (dsimp only) | (split)
      | (fail_if_no_progress apply State.Keeps.upd)


theorem State.chainClose_keeps {s0 s : State} (cl : Nat) (key : Nat) (round : Word) 
    (hk : s0.Keeps s) : s0.Keeps (State.chainClose s cl key round) := by
  unfold State.chainClose
  with_reducible repeat'
    first
      | assumption | apply State.kClose_keeps | apply State.Keeps.ite | apply State.Keeps.foldl
      | apply State.Keeps.foldl₁ | (intro _) | (dsimp only) | (split) | (fail_if_no_progress apply State.Keeps.upd)


theorem State.chainArrive_keeps {s0 s : State} (cl : Nat) (key : Nat) (ms : List Nat) (p : Packet) 
    (hk : s0.Keeps s) : s0.Keeps (State.chainArrive s cl key ms p) := by
  unfold State.chainArrive
  with_reducible repeat'
    first
      | assumption | apply State.chainBreak_keeps | apply State.tellModules_keeps | apply State.chainClose_keeps
      | apply State.Keeps.ite | apply State.Keeps.foldl | apply State.Keeps.foldl₁ | (intro _) | (dsimp only)
      | (split) | (fail_if_no_progress apply State.Keeps.upd)


theorem State.passFrag_keeps {s0 s : State} (f : Frag) 
    (hk : s0.Keeps s) : s0.Keeps (State.passFrag s f) := by
  unfold State.passFrag
  with_reducible repeat'
    first
      | assumption | apply State.Keeps.ite | apply State.Keeps.foldl | apply State.Keeps.foldl₁ | (intro _)
      | (dsimp only) | (split) | (fail_if_no_progress apply State.Keeps.upd)


theorem State.refill_keeps {s0 s : State} (adder : Nat) 
    (hk : s0.Keeps s) : s0.Keeps (State.refill s adder) := by
  unfold State.refill
  with_reducible repeat'
    first
      | assumption | apply State.passFrag_keeps | apply State.Keeps.ite | apply State.Keeps.foldl
      | apply State.Keeps.foldl₁ | (intro _) | (dsimp only) | (split) | (fail_if_no_progress apply State.Keeps.upd)


theorem State.adderTraffic_keeps {s0 s : State} (f : Frag) 
    (hk : s0.Keeps s) : s0.Keeps (State.adderTraffic s f) := by
  unfold State.adderTraffic
  with_reducible repeat'
    first
      | assumption | apply State.bulkWrite_keeps | apply State.bulkRead_keeps | apply State.Keeps.ite
      | apply State.Keeps.foldl | apply State.Keeps.foldl₁ | (intro _) | (dsimp only) | (split)
      | (fail_if_no_progress apply State.Keeps.upd)


theorem State.modPack_keeps {s0 s : State} (num : Nat) (f : AccPkt → AccPkt) 
    (hk : s0.Keeps s) : s0.Keeps (State.modPack s num f) := by
  unfold State.modPack
  with_reducible repeat'
    first
      | assumption | apply State.Keeps.ite | apply State.Keeps.foldl | apply State.Keeps.foldl₁ | (intro _)
      | (dsimp only) | (split) | (fail_if_no_progress apply State.Keeps.upd)


theorem State.fragDone_keeps {s0 s : State} (num : Nat) 
    (hk : s0.Keeps s) : s0.Keeps (State.fragDone s num) := by
  unfold State.fragDone
  with_reducible repeat'
    first
      | assumption | apply State.confirm_keeps | apply State.modPack_keeps | apply State.Keeps.ite
      | apply State.Keeps.foldl | apply State.Keeps.foldl₁ | (intro _) | (dsimp only) | (split)
      | (fail_if_no_progress apply State.Keeps.upd)


theorem State.countUndeclared_keeps {s0 s : State} (num : Nat) 
    (hk : s0.Keeps s) : s0.Keeps (State.countUndeclared s num) := by
  unfold State.countUndeclared
  with_reducible repeat'
    first
      | assumption | apply State.fastAdd_keeps | apply State.modPack_keeps | apply State.Keeps.ite
      | apply State.Keeps.foldl | apply State.Keeps.foldl₁ | (intro _) | (dsimp only) | (split)
      | (fail_if_no_progress apply State.Keeps.upd)


theorem State.putBushel_keeps {s0 s : State} (b : Bucket) (off : Nat) (v : Word) 
    (hk : s0.Keeps s) : s0.Keeps (State.putBushel s b off v) := by
  unfold State.putBushel
  with_reducible repeat'
    first
      | assumption | apply State.store_keeps | apply State.fastAdd_keeps | apply State.store_keeps
      | apply State.Keeps.ite | apply State.Keeps.foldl | apply State.Keeps.foldl₁ | (intro _) | (dsimp only)
      | (split) | (fail_if_no_progress apply State.Keeps.upd)


theorem State.countMismatch_keeps {s0 s : State} (num : Nat) 
    (hk : s0.Keeps s) : s0.Keeps (State.countMismatch s num) := by
  unfold State.countMismatch
  with_reducible repeat'
    first
      | assumption | apply State.violate_keeps | apply State.fastAdd_keeps | apply State.modPack_keeps
      | apply State.Keeps.ite | apply State.Keeps.foldl | apply State.Keeps.foldl₁ | (intro _) | (dsimp only)
      | (split) | (fail_if_no_progress apply State.Keeps.upd)


theorem State.addBushel_keeps {s0 s : State} (num : Nat) (e : BitVec 8) (off : Nat) (v : FVal) 
    (hk : s0.Keeps s) : s0.Keeps (State.addBushel s num e off v) := by
  unfold State.addBushel
  with_reducible repeat'
    first
      | assumption | apply State.countUndeclared_keeps | apply State.store_keeps | apply State.putBushel_keeps
      | apply State.noteConv_keeps | apply State.countMismatch_keeps | apply State.store_keeps | apply State.Keeps.ite
      | apply State.Keeps.foldl | apply State.Keeps.foldl₁ | (intro _) | (dsimp only) | (split)
      | (fail_if_no_progress apply State.Keeps.upd)


theorem State.addBlock_keeps {s0 s : State} (num : Nat) (off : Nat) (block : List Byte) 
    (hk : s0.Keeps s) : s0.Keeps (State.addBlock s num off block) := by
  unfold State.addBlock
  with_reducible repeat'
    first
      | assumption | apply State.addBushel_keeps | apply State.Keeps.ite | apply State.Keeps.foldl
      | apply State.Keeps.foldl₁ | (intro _) | (dsimp only) | (split) | (fail_if_no_progress apply State.Keeps.upd)


theorem State.addPlain_keeps {s0 s : State} (num : Nat) (atype : BitVec 4) (off : Nat) (src : Nat) 
    (hk : s0.Keeps s) : s0.Keeps (State.addPlain s num atype off src) := by
  unfold State.addPlain
  with_reducible repeat'
    first
      | assumption | apply State.store_keeps | apply State.countMismatch_keeps | apply State.putBushel_keeps
      | apply State.store_keeps | apply State.Keeps.ite | apply State.Keeps.foldl | apply State.Keeps.foldl₁
      | (intro _) | (dsimp only) | (split) | (fail_if_no_progress apply State.Keeps.upd)


theorem State.addElems_keeps {s0 s : State} (f : Frag) 
    (hk : s0.Keeps s) : s0.Keeps (State.addElems s f) := by
  unfold State.addElems
  with_reducible repeat'
    first
      | assumption | apply State.addBushel_keeps | apply State.addPlain_keeps | apply State.Keeps.ite
      | apply State.Keeps.foldl | apply State.Keeps.foldl₁ | (intro _) | (dsimp only) | (split)
      | (fail_if_no_progress apply State.Keeps.upd)


theorem State.addFrag_keeps {s0 s : State} (f : Frag) 
    (hk : s0.Keeps s) : s0.Keeps (State.addFrag s f) := by
  unfold State.addFrag
  with_reducible repeat'
    first
      | assumption | apply State.adderTraffic_keeps | apply State.fragDone_keeps | apply State.addBlock_keeps
      | apply State.addElems_keeps | apply State.Keeps.ite | apply State.Keeps.foldl | apply State.Keeps.foldl₁
      | (intro _) | (dsimp only) | (split) | (fail_if_no_progress apply State.Keeps.upd)


theorem State.endLost_keeps {s0 s : State} (p : Packet) (rest : List Packet) 
    (hk : s0.Keeps s) : s0.Keeps (State.endLost s p rest) := by
  unfold State.endLost
  with_reducible repeat'
    first
      | assumption | apply State.endAbsent_keeps | apply State.Keeps.ite | apply State.Keeps.foldl
      | apply State.Keeps.foldl₁ | (intro _) | (dsimp only) | (split) | (fail_if_no_progress apply State.Keeps.upd)


theorem State.noteSent_keeps {s0 s : State} (p : Packet) 
    (hk : s0.Keeps s) : s0.Keeps (State.noteSent s p) := by
  unfold State.noteSent
  with_reducible repeat'
    first
      | assumption | apply State.Keeps.ite | apply State.Keeps.foldl | apply State.Keeps.foldl₁ | (intro _)
      | (dsimp only) | (split) | (fail_if_no_progress apply State.Keeps.upd)


theorem State.onLink_keeps {s0 s : State} (l : Nat) (f : Flight) 
    (hk : s0.Keeps s) : s0.Keeps (State.onLink s l f) := by
  unfold State.onLink
  with_reducible repeat'
    first
      | assumption | apply State.modCh_keeps | apply State.noteSent_keeps | apply State.sendSeq_keeps
      | apply State.Keeps.ite | apply State.Keeps.foldl | apply State.Keeps.foldl₁ | (intro _) | (dsimp only)
      | (split) | (fail_if_no_progress apply State.Keeps.upd)


theorem State.flushCtrl_keeps {s0 s : State} (lead : Nat) 
    (hk : s0.Keeps s) : s0.Keeps (State.flushCtrl s lead) := by
  unfold State.flushCtrl
  with_reducible repeat'
    first
      | assumption | apply State.sendSeq_keeps | apply State.modCh_keeps | apply State.Keeps.ite
      | apply State.Keeps.foldl | apply State.Keeps.foldl₁ | (intro _) | (dsimp only) | (split)
      | (fail_if_no_progress apply State.Keeps.upd)


theorem State.resend_keeps {s0 s : State} (l : Nat) 
    (hk : s0.Keeps s) : s0.Keeps (State.resend s l) := by
  unfold State.resend
  with_reducible repeat'
    first
      | assumption | apply State.sendFlit_keeps | apply State.Keeps.ite | apply State.Keeps.foldl
      | apply State.Keeps.foldl₁ | (intro _) | (dsimp only) | (split) | (fail_if_no_progress apply State.Keeps.upd)


theorem State.replay_keeps {s0 s : State} (l : Nat) 
    (hk : s0.Keeps s) : s0.Keeps (State.replay s l) := by
  unfold State.replay
  with_reducible repeat'
    first
      | assumption | apply State.resend_keeps | apply State.modCh_keeps | apply State.modLink_keeps
      | apply State.Keeps.ite | apply State.Keeps.foldl | apply State.Keeps.foldl₁ | (intro _) | (dsimp only)
      | (split) | (fail_if_no_progress apply State.Keeps.upd)


theorem State.takeAck_keeps {s0 s : State} (l : Nat) (h : Nat) 
    (hk : s0.Keeps s) : s0.Keeps (State.takeAck s l h) := by
  unfold State.takeAck
  with_reducible repeat'
    first
      | assumption | apply State.flushCtrl_keeps | apply State.modCh_keeps | apply State.replay_keeps
      | apply State.Keeps.ite | apply State.Keeps.foldl | apply State.Keeps.foldl₁ | (intro _) | (dsimp only)
      | (split) | (fail_if_no_progress apply State.Keeps.upd)


theorem State.changeLink_keeps {s0 s : State} (l : Nat) (f : Link → Link) 
    (hk : s0.Keeps s) : s0.Keeps (State.changeLink s l f) := by
  unfold State.changeLink
  with_reducible repeat'
    first
      | assumption | apply State.modLink_keeps | apply State.msixBoth_keeps | apply State.Keeps.ite
      | apply State.Keeps.foldl | apply State.Keeps.foldl₁ | (intro _) | (dsimp only) | (split)
      | (fail_if_no_progress apply State.Keeps.upd)


theorem State.sendIdle_keeps {s0 s : State} (l : Nat) 
    (hk : s0.Keeps s) : s0.Keeps (State.sendIdle s l) := by
  unfold State.sendIdle
  with_reducible repeat'
    first
      | assumption | apply State.sendFlit_keeps | apply State.Keeps.ite | apply State.Keeps.foldl
      | apply State.Keeps.foldl₁ | (intro _) | (dsimp only) | (split) | (fail_if_no_progress apply State.Keeps.upd)


theorem State.relabel_keeps {s0 s : State} (from_ : List Nat) (l : Nat) 
    (hk : s0.Keeps s) : s0.Keeps (State.relabel s from_ l) := by
  unfold State.relabel
  with_reducible repeat'
    first
      | assumption | apply State.Keeps.ite | apply State.Keeps.foldl | apply State.Keeps.foldl₁ | (intro _)
      | (dsimp only) | (split) | (fail_if_no_progress apply State.Keeps.upd)


theorem State.giveCredits_keeps {s0 s : State} (lead : Nat) (l : Nat) 
    (hk : s0.Keeps s) : s0.Keeps (State.giveCredits s lead l) := by
  unfold State.giveCredits
  with_reducible repeat'
    first
      | assumption | apply State.relabel_keeps | apply State.modCh_keeps | apply State.Keeps.ite
      | apply State.Keeps.foldl | apply State.Keeps.foldl₁ | (intro _) | (dsimp only) | (split)
      | (fail_if_no_progress apply State.Keeps.upd)


theorem State.moveLead_keeps {s0 s : State} (old : Nat) (new : Nat) 
    (hk : s0.Keeps s) : s0.Keeps (State.moveLead s old new) := by
  unfold State.moveLead
  with_reducible repeat'
    first
      | assumption | apply State.relabel_keeps | apply State.modCh_keeps | apply State.Keeps.ite
      | apply State.Keeps.foldl | apply State.Keeps.foldl₁ | (intro _) | (dsimp only) | (split)
      | (fail_if_no_progress apply State.Keeps.upd)


theorem State.formBond_keeps {s0 s : State} (old : Nat) (mem : List Nat) 
    (hk : s0.Keeps s) : s0.Keeps (State.formBond s old mem) := by
  unfold State.formBond
  with_reducible repeat'
    first
      | assumption | apply State.sendIdle_keeps | apply State.giveCredits_keeps | apply State.moveLead_keeps
      | apply State.changeLink_keeps | apply State.Keeps.ite | apply State.Keeps.foldl | apply State.Keeps.foldl₁
      | (intro _) | (dsimp only) | (split) | (fail_if_no_progress apply State.Keeps.upd)


theorem State.rebond_keeps {s0 s : State}  
    (hk : s0.Keeps s) : s0.Keeps (State.rebond s) := by
  unfold State.rebond
  with_reducible repeat'
    first
      | assumption | apply State.changeLink_keeps | apply State.formBond_keeps | apply State.Keeps.ite
      | apply State.Keeps.foldl | apply State.Keeps.foldl₁ | (intro _) | (dsimp only) | (split)
      | (fail_if_no_progress apply State.Keeps.upd)


theorem State.joinDrained_keeps {s0 s : State} (l : Nat) 
    (hk : s0.Keeps s) : s0.Keeps (State.joinDrained s l) := by
  unfold State.joinDrained
  with_reducible repeat'
    first
      | assumption | apply State.rebond_keeps | apply State.Keeps.ite | apply State.Keeps.foldl
      | apply State.Keeps.foldl₁ | (intro _) | (dsimp only) | (split) | (fail_if_no_progress apply State.Keeps.upd)


theorem State.noteReceived_keeps {s0 s : State} (p : Packet) 
    (hk : s0.Keeps s) : s0.Keeps (State.noteReceived s p) := by
  unfold State.noteReceived
  with_reducible repeat'
    first
      | assumption | apply State.Keeps.ite | apply State.Keeps.foldl | apply State.Keeps.foldl₁ | (intro _)
      | (dsimp only) | (split) | (fail_if_no_progress apply State.Keeps.upd)


theorem State.offLink_keeps {s0 s : State} (f : Flight) 
    (hk : s0.Keeps s) : s0.Keeps (State.offLink s f) := by
  unfold State.offLink
  with_reducible repeat'
    first
      | assumption | apply State.violate_keeps | apply State.freeFlight_keeps | apply State.noteReceived_keeps
      | apply State.Keeps.ite | apply State.Keeps.foldl | apply State.Keeps.foldl₁ | (intro _) | (dsimp only)
      | (split) | (fail_if_no_progress apply State.Keeps.upd)


theorem State.linkPacket_keeps {s0 s : State} (l : Nat) (pre : Nat) (body : List Byte) (n : Nat) 
    (hk : s0.Keeps s) : s0.Keeps (State.linkPacket s l pre body n) := by
  unfold State.linkPacket
  with_reducible repeat'
    first
      | assumption | apply State.violate_keeps | apply State.freeCredits_keeps | apply State.modCh_keeps
      | apply State.offLink_keeps | apply State.Keeps.ite | apply State.Keeps.foldl | apply State.Keeps.foldl₁
      | (intro _) | (dsimp only) | (split) | (fail_if_no_progress apply State.Keeps.upd)


theorem State.linkPackets_keeps {s0 s : State} (fuel l : Nat) (bytes : List Byte)
    (hk : s0.Keeps s) : s0.Keeps (State.linkPackets fuel l bytes s) := by
  induction fuel generalizing bytes s with
  | zero => exact hk
  | succ fuel ih =>
    unfold State.linkPackets
    with_reducible repeat'
      first
        | assumption | apply State.modLink_keeps | apply State.modCh_keeps | apply ih | apply State.linkPacket_keeps
        | apply State.Keeps.ite
        | (intro _) | (dsimp only)

theorem State.endAllLost_keeps {s0 s : State} (ps : List Packet)
    (hk : s0.Keeps s) : s0.Keeps (State.endAllLost s ps) := by
  induction ps generalizing s with
  | nil => exact hk
  | cons p ps ih => exact ih (State.endLost_keeps _ _ hk)

theorem State.forgetCredits_keeps {s0 s : State} (l : Nat) 
    (hk : s0.Keeps s) : s0.Keeps (State.forgetCredits s l) := by
  unfold State.forgetCredits
  with_reducible repeat'
    first
      | assumption | apply State.Keeps.ite | apply State.Keeps.foldl | apply State.Keeps.foldl₁ | (intro _)
      | (dsimp only) | (split) | (fail_if_no_progress apply State.Keeps.upd)


theorem State.linkOut_keeps {s0 s : State} (l : Nat) (state : BitVec 4) (cause : BitVec 4) 
    (hk : s0.Keeps s) : s0.Keeps (State.linkOut s l state cause) := by
  unfold State.linkOut
  with_reducible repeat'
    first
      | assumption | apply State.reportTopo_keeps | apply State.moveLead_keeps | apply State.changeLink_keeps
      | apply State.modCh_keeps | apply State.replay_keeps | apply State.endAllLost_keeps
      | apply State.forgetCredits_keeps | apply State.Keeps.ite | apply State.Keeps.foldl | apply State.Keeps.foldl₁
      | (intro _) | (dsimp only) | (split) | (fail_if_no_progress apply State.Keeps.upd)


theorem State.takeCap_keeps {s0 s : State} (l : Nat) (arg : BitVec 56) 
    (hk : s0.Keeps s) : s0.Keeps (State.takeCap s l arg) := by
  unfold State.takeCap
  with_reducible repeat'
    first
      | assumption | apply State.modLink_keeps | apply State.linkOut_keeps | apply State.changeLink_keeps
      | apply State.Keeps.ite | apply State.Keeps.foldl | apply State.Keeps.foldl₁ | (intro _) | (dsimp only)
      | (split) | (fail_if_no_progress apply State.Keeps.upd)


theorem State.takeAddress_keeps {s0 s : State} (l : Nat) (arg : BitVec 56) 
    (hk : s0.Keeps s) : s0.Keeps (State.takeAddress s l arg) := by
  unfold State.takeAddress
  with_reducible repeat'
    first
      | assumption | apply State.reportTopo_keeps | apply State.modLink_keeps | apply State.linkOut_keeps
      | apply State.rebond_keeps | apply State.Keeps.ite | apply State.Keeps.foldl | apply State.Keeps.foldl₁
      | (intro _) | (dsimp only) | (split) | (fail_if_no_progress apply State.Keeps.upd)


theorem State.toWidth_keeps {s0 s : State} (l : Nat) (w : Nat) (lanes : BitVec 8) 
    (hk : s0.Keeps s) : s0.Keeps (State.toWidth s l w lanes) := by
  unfold State.toWidth
  with_reducible repeat'
    first
      | assumption | apply State.changeLink_keeps | apply State.Keeps.ite | apply State.Keeps.foldl
      | apply State.Keeps.foldl₁ | (intro _) | (dsimp only) | (split) | (fail_if_no_progress apply State.Keeps.upd)


theorem State.rewidth_keeps {s0 s : State} (l : Nat) 
    (hk : s0.Keeps s) : s0.Keeps (State.rewidth s l) := by
  unfold State.rewidth
  with_reducible repeat'
    first
      | assumption | apply State.linkOut_keeps | apply State.sendCtrl_keeps | apply State.toWidth_keeps
      | apply State.Keeps.ite | apply State.Keeps.foldl | apply State.Keeps.foldl₁ | (intro _) | (dsimp only)
      | (split) | (fail_if_no_progress apply State.Keeps.upd)


theorem State.logSet_keeps {s0 s : State} (off : Nat) (v : Nat) 
    (hk : s0.Keeps s) : s0.Keeps (State.logSet s off v) := by
  unfold State.logSet
  with_reducible repeat'
    first
      | assumption | apply State.Keeps.ite | apply State.Keeps.foldl | apply State.Keeps.foldl₁ | (intro _)
      | (dsimp only) | (split) | (fail_if_no_progress apply State.Keeps.upd)


theorem State.retireLink_keeps {s0 s : State} (l : Nat) (lane : Nat) 
    (hk : s0.Keeps s) : s0.Keeps (State.retireLink s l lane) := by
  unfold State.retireLink
  with_reducible repeat'
    first
      | assumption | apply State.changeLink_keeps | apply State.rewidth_keeps | apply State.errLog_keeps
      | apply State.logSet_keeps | apply State.Keeps.ite | apply State.Keeps.foldl | apply State.Keeps.foldl₁
      | (intro _) | (dsimp only) | (split) | (fail_if_no_progress apply State.Keeps.upd)


theorem State.takeWidth_keeps {s0 s : State} (l : Nat) (arg : BitVec 56) 
    (hk : s0.Keeps s) : s0.Keeps (State.takeWidth s l arg) := by
  unfold State.takeWidth
  with_reducible repeat'
    first
      | assumption | apply State.toWidth_keeps | apply State.Keeps.ite | apply State.Keeps.foldl
      | apply State.Keeps.foldl₁ | (intro _) | (dsimp only) | (split) | (fail_if_no_progress apply State.Keeps.upd)


theorem State.partnerReset_keeps {s0 s : State} (l : Nat) 
    (hk : s0.Keeps s) : s0.Keeps (State.partnerReset s l) := by
  unfold State.partnerReset
  with_reducible repeat'
    first
      | assumption | apply State.linkOut_keeps | apply State.Keeps.ite | apply State.Keeps.foldl
      | apply State.Keeps.foldl₁ | (intro _) | (dsimp only) | (split) | (fail_if_no_progress apply State.Keeps.upd)


theorem State.linkMessage_keeps {s0 s : State} (l : Nat) (code : Nat) (arg : BitVec 56) 
    (hk : s0.Keeps s) : s0.Keeps (State.linkMessage s l code arg) := by
  unfold State.linkMessage
  with_reducible repeat'
    first
      | assumption | apply State.takeCap_keeps | apply State.takeAddress_keeps | apply State.retireLink_keeps
      | apply State.takeWidth_keeps | apply State.partnerReset_keeps | apply State.violate_keeps
      | apply State.Keeps.ite | apply State.Keeps.foldl | apply State.Keeps.foldl₁ | (intro _) | (dsimp only)
      | (split) | (fail_if_no_progress apply State.Keeps.upd)


theorem State.acceptFlit_keeps {s0 s : State} (l : Nat) (lead : Nat) (flit : List Byte) 
    (hk : s0.Keeps s) : s0.Keeps (State.acceptFlit s l lead flit) := by
  unfold State.acceptFlit
  with_reducible repeat'
    first
      | assumption | apply State.modCh_keeps | apply State.sendIdle_keeps | apply State.linkPackets_keeps
      | apply State.linkMessage_keeps | apply State.Keeps.ite | apply State.Keeps.foldl | apply State.Keeps.foldl₁
      | (intro _) | (dsimp only) | (split) | (fail_if_no_progress apply State.Keeps.upd)


theorem State.goodFlit_keeps {s0 s : State} (l : Nat) (flit : List Byte) 
    (hk : s0.Keeps s) : s0.Keeps (State.goodFlit s l flit) := by
  unfold State.goodFlit
  with_reducible repeat'
    first
      | assumption | apply State.violate_keeps | apply State.takeAck_keeps | apply State.joinDrained_keeps
      | apply State.acceptFlit_keeps | apply State.Keeps.ite | apply State.Keeps.foldl | apply State.Keeps.foldl₁
      | (intro _) | (dsimp only) | (split) | (fail_if_no_progress apply State.Keeps.upd)


theorem State.countLanes_keeps {s0 s : State} (l : Nat) (bad : List Nat) 
    (hk : s0.Keeps s) : s0.Keeps (State.countLanes s l bad) := by
  unfold State.countLanes
  with_reducible repeat'
    first
      | assumption | apply State.logAdd_keeps | apply State.modLink_keeps | apply State.Keeps.ite
      | apply State.Keeps.foldl | apply State.Keeps.foldl₁ | (intro _) | (dsimp only) | (split)
      | (fail_if_no_progress apply State.Keeps.upd)


theorem State.takeFlit_keeps {s0 s : State} (l : Nat) (flit : List Byte) 
    (hk : s0.Keeps s) : s0.Keeps (State.takeFlit s l flit) := by
  unfold State.takeFlit
  with_reducible repeat'
    first
      | assumption | apply State.goodFlit_keeps | apply State.modCh_keeps | apply State.countLanes_keeps
      | apply State.Keeps.ite | apply State.Keeps.foldl | apply State.Keeps.foldl₁ | (intro _) | (dsimp only)
      | (split) | (fail_if_no_progress apply State.Keeps.upd)


theorem State.retireOwn_keeps {s0 s : State} (l : Nat) (lane : Nat) 
    (hk : s0.Keeps s) : s0.Keeps (State.retireOwn s l lane) := by
  unfold State.retireOwn
  with_reducible repeat'
    first
      | assumption | apply State.retireLink_keeps | apply State.sendCtrl_keeps | apply State.Keeps.ite
      | apply State.Keeps.foldl | apply State.Keeps.foldl₁ | (intro _) | (dsimp only) | (split)
      | (fail_if_no_progress apply State.Keeps.upd)


theorem State.startTraining_keeps {s0 s : State} (l : Nat) 
    (hk : s0.Keeps s) : s0.Keeps (State.startTraining s l) := by
  unfold State.startTraining
  with_reducible repeat'
    first
      | assumption | apply State.changeLink_keeps | apply State.Keeps.ite | apply State.Keeps.foldl
      | apply State.Keeps.foldl₁ | (intro _) | (dsimp only) | (split) | (fail_if_no_progress apply State.Keeps.upd)


theorem State.cableGone_keeps {s0 s : State} (l : Nat) 
    (hk : s0.Keeps s) : s0.Keeps (State.cableGone s l) := by
  unfold State.cableGone
  with_reducible repeat'
    first
      | assumption | apply State.linkOut_keeps | apply State.changeLink_keeps | apply State.Keeps.ite
      | apply State.Keeps.foldl | apply State.Keeps.foldl₁ | (intro _) | (dsimp only) | (split)
      | (fail_if_no_progress apply State.Keeps.upd)


theorem State.trainedDark_keeps {s0 s : State} (l : Nat) (r : TrainResult) 
    (hk : s0.Keeps s) : s0.Keeps (State.trainedDark s l r) := by
  unfold State.trainedDark
  with_reducible repeat'
    first
      | assumption | apply State.changeLink_keeps | apply State.linkOut_keeps | apply State.Keeps.ite
      | apply State.Keeps.foldl | apply State.Keeps.foldl₁ | (intro _) | (dsimp only) | (split)
      | (fail_if_no_progress apply State.Keeps.upd)


theorem State.noteMargin_keeps {s0 s : State} (l : Nat) (lane : Nat) 
    (hk : s0.Keeps s) : s0.Keeps (State.noteMargin s l lane) := by
  unfold State.noteMargin
  with_reducible repeat'
    first
      | assumption | apply State.logSet_keeps | apply State.Keeps.ite | apply State.Keeps.foldl
      | apply State.Keeps.foldl₁ | (intro _) | (dsimp only) | (split) | (fail_if_no_progress apply State.Keeps.upd)


theorem State.noteMargins_keeps {s0 s : State} (l : Nat) (lanes : BitVec 8) 
    (hk : s0.Keeps s) : s0.Keeps (State.noteMargins s l lanes) := by
  unfold State.noteMargins
  with_reducible repeat'
    first
      | assumption | apply State.noteMargin_keeps | apply State.Keeps.ite | apply State.Keeps.foldl
      | apply State.Keeps.foldl₁ | (intro _) | (dsimp only) | (split) | (fail_if_no_progress apply State.Keeps.upd)


theorem State.countRetrains_keeps {s0 s : State} (l : Nat) (lanes : BitVec 8) 
    (hk : s0.Keeps s) : s0.Keeps (State.countRetrains s l lanes) := by
  unfold State.countRetrains
  with_reducible repeat'
    first
      | assumption | apply State.logAdd_keeps | apply State.Keeps.ite | apply State.Keeps.foldl
      | apply State.Keeps.foldl₁ | (intro _) | (dsimp only) | (split) | (fail_if_no_progress apply State.Keeps.upd)


theorem State.trainedUp_keeps {s0 s : State} (l : Nat) (full : Bool) (z3 : Option (Nat × BitVec 8)) (z4 : Option (BitVec 4)) 
    (hk : s0.Keeps s) : s0.Keeps (State.trainedUp s l full z3 z4) := by
  unfold State.trainedUp
  with_reducible repeat'
    first
      | assumption | apply State.linkOut_keeps | apply State.sendCtrl_keeps | apply State.changeLink_keeps
      | apply State.noteMargins_keeps | apply State.countRetrains_keeps | apply State.sendAddress_keeps
      | apply State.Keeps.ite | apply State.Keeps.foldl | apply State.Keeps.foldl₁ | (intro _) | (dsimp only)
      | (split) | (fail_if_no_progress apply State.Keeps.upd)


theorem State.trainedLink_keeps {s0 s : State} (l : Nat) (r : TrainResult) 
    (hk : s0.Keeps s) : s0.Keeps (State.trainedLink s l r) := by
  unfold State.trainedLink
  with_reducible repeat'
    first
      | assumption | apply State.changeLink_keeps | apply State.linkOut_keeps | apply State.trainedUp_keeps
      | apply State.Keeps.ite | apply State.Keeps.foldl | apply State.Keeps.foldl₁ | (intro _) | (dsimp only)
      | (split) | (fail_if_no_progress apply State.Keeps.upd)


theorem State.darken_keeps {s0 s : State} (l : Nat) (cause : BitVec 4) 
    (hk : s0.Keeps s) : s0.Keeps (State.darken s l cause) := by
  unfold State.darken
  with_reducible repeat'
    first
      | assumption | apply State.linkOut_keeps | apply State.Keeps.ite | apply State.Keeps.foldl
      | apply State.Keeps.foldl₁ | (intro _) | (dsimp only) | (split) | (fail_if_no_progress apply State.Keeps.upd)


theorem State.endReenum_keeps {s0 s : State}  
    (hk : s0.Keeps s) : s0.Keeps (State.endReenum s) := by
  unfold State.endReenum
  with_reducible repeat'
    first
      | assumption | apply State.complete_keeps | apply State.Keeps.ite | apply State.Keeps.foldl
      | apply State.Keeps.foldl₁ | (intro _) | (dsimp only) | (split) | (fail_if_no_progress apply State.Keeps.upd)


theorem State.hostTadd_keeps {s0 s : State} (p : Nat) (bs : List Byte) 
    (hk : s0.Keeps s) : s0.Keeps (State.hostTadd s p bs) := by
  unfold State.hostTadd
  with_reducible repeat'
    first
      | assumption | apply State.post_keeps | apply State.launch_keeps | apply State.Keeps.ite
      | apply State.Keeps.foldl | apply State.Keeps.foldl₁ | (intro _) | (dsimp only) | (split)
      | (fail_if_no_progress apply State.Keeps.upd)


theorem State.clearLost_keeps {s0 s : State} (c : Nat) (v : Word) 
    (hk : s0.Keeps s) : s0.Keeps (State.clearLost s c v) := by
  unfold State.clearLost
  with_reducible repeat'
    first
      | assumption | apply State.modArr_keeps | apply State.Keeps.ite | apply State.Keeps.foldl
      | apply State.Keeps.foldl₁ | (intro _) | (dsimp only) | (split) | (fail_if_no_progress apply State.Keeps.upd)


theorem State.latchWrite_keeps {s0 s : State} (c : Nat) (mask : Word) (v : Word) 
    (hk : s0.Keeps s) : s0.Keeps (State.latchWrite s c mask v) := by
  unfold State.latchWrite
  with_reducible repeat'
    first
      | assumption | apply State.violate_keeps | apply State.clearLost_keeps | apply State.Keeps.ite
      | apply State.Keeps.foldl | apply State.Keeps.foldl₁ | (intro _) | (dsimp only) | (split)
      | (fail_if_no_progress apply State.Keeps.upd)


theorem State.reservedIf_keeps {s0 s : State} (b : Bool) 
    (hk : s0.Keeps s) : s0.Keeps (State.reservedIf s b) := by
  unfold State.reservedIf
  with_reducible repeat'
    first
      | assumption | apply State.violate_keeps | apply State.Keeps.ite | apply State.Keeps.foldl
      | apply State.Keeps.foldl₁ | (intro _) | (dsimp only) | (split) | (fail_if_no_progress apply State.Keeps.upd)


theorem State.writeApBase_keeps {s0 s : State} (p : Nat) (w : WordWrite) 
    (hk : s0.Keeps s) : s0.Keeps (State.writeApBase s p w) := by
  unfold State.writeApBase
  with_reducible repeat'
    first
      | assumption | apply State.reservedIf_keeps | apply State.modPort_keeps | apply State.violate_keeps
      | apply State.Keeps.ite | apply State.Keeps.foldl | apply State.Keeps.foldl₁ | (intro _) | (dsimp only)
      | (split) | (fail_if_no_progress apply State.Keeps.upd)


theorem State.writeListCtl_keeps {s0 s : State} (p : Nat) (l : Nat) (w : WordWrite) 
    (hk : s0.Keeps s) : s0.Keeps (State.writeListCtl s p l w) := by
  unfold State.writeListCtl
  with_reducible repeat'
    first
      | assumption | apply State.reservedIf_keeps | apply State.violate_keeps | apply State.modList_keeps
      | apply State.Keeps.ite | apply State.Keeps.foldl | apply State.Keeps.foldl₁ | (intro _) | (dsimp only)
      | (split) | (fail_if_no_progress apply State.Keeps.upd)


theorem State.writeList_keeps {s0 s : State} (p : Nat) (l : Nat) (i : Nat) (w : WordWrite) 
    (hk : s0.Keeps s) : s0.Keeps (State.writeList s p l i w) := by
  unfold State.writeList
  with_reducible repeat'
    first
      | assumption | apply State.reservedIf_keeps | apply State.modList_keeps | apply State.writeListCtl_keeps
      | apply State.violate_keeps | apply State.Keeps.ite | apply State.Keeps.foldl | apply State.Keeps.foldl₁
      | (intro _) | (dsimp only) | (split) | (fail_if_no_progress apply State.Keeps.upd)


theorem State.withdrawNotifier_keeps {s0 s : State} (p : Nat) (v : Nat) 
    (hk : s0.Keeps s) : s0.Keeps (State.withdrawNotifier s p v) := by
  unfold State.withdrawNotifier
  with_reducible repeat'
    first
      | assumption | apply State.Keeps.ite | apply State.Keeps.foldl | apply State.Keeps.foldl₁ | (intro _)
      | (dsimp only) | (split) | (fail_if_no_progress apply State.Keeps.upd)


theorem State.armNotifier_keeps {s0 s : State} (p : Nat) (v : Nat) (value : Word) 
    (hk : s0.Keeps s) : s0.Keeps (State.armNotifier s p v value) := by
  unfold State.armNotifier
  with_reducible repeat'
    first
      | assumption | apply State.modPort_keeps | apply State.withdrawNotifier_keeps | apply State.post_keeps
      | apply State.Keeps.ite | apply State.Keeps.foldl | apply State.Keeps.foldl₁ | (intro _) | (dsimp only)
      | (split) | (fail_if_no_progress apply State.Keeps.upd)


theorem State.writeNotify_keeps {s0 s : State} (p : Nat) (v : Nat) (i : Nat) (w : WordWrite) 
    (hk : s0.Keeps s) : s0.Keeps (State.writeNotify s p v i w) := by
  unfold State.writeNotify
  with_reducible repeat'
    first
      | assumption | apply State.modPort_keeps | apply State.armNotifier_keeps | apply State.Keeps.ite
      | apply State.Keeps.foldl | apply State.Keeps.foldl₁ | (intro _) | (dsimp only) | (split)
      | (fail_if_no_progress apply State.Keeps.upd)


theorem State.writePortWord_keeps {s0 s : State} (p : Nat) (r : Nat) (w : WordWrite) 
    (hk : s0.Keeps s) : s0.Keeps (State.writePortWord s p r w) := by
  unfold State.writePortWord
  with_reducible repeat'
    first
      | assumption | apply State.writeApBase_keeps | apply State.writeList_keeps | apply State.writeNotify_keeps
      | apply State.Keeps.ite | apply State.Keeps.foldl | apply State.Keeps.foldl₁ | (intro _) | (dsimp only)
      | (split) | (fail_if_no_progress apply State.Keeps.upd)


theorem State.raisePending_keeps {s0 s : State} (p : Nat) 
    (hk : s0.Keeps s) : s0.Keeps (State.raisePending s p) := by
  unfold State.raisePending
  with_reducible repeat'
    first
      | assumption | apply State.emit_keeps | apply State.modPort_keeps | apply State.emit_keeps
      | apply State.Keeps.ite | apply State.Keeps.foldl | apply State.Keeps.foldl₁ | (intro _) | (dsimp only)
      | (split) | (fail_if_no_progress apply State.Keeps.upd)


theorem State.writeMsix_keeps {s0 s : State} (p : Nat) (off : Nat) (w : WordWrite) 
    (hk : s0.Keeps s) : s0.Keeps (State.writeMsix s p off w) := by
  unfold State.writeMsix
  with_reducible repeat'
    first
      | assumption | apply State.raisePending_keeps | apply State.modPort_keeps | apply State.Keeps.ite
      | apply State.Keeps.foldl | apply State.Keeps.foldl₁ | (intro _) | (dsimp only) | (split)
      | (fail_if_no_progress apply State.Keeps.upd)


theorem State.bar0Word_keeps {s0 s : State} (p : Nat) (w : WordWrite) 
    (hk : s0.Keeps s) : s0.Keeps (State.bar0Word s p w) := by
  unfold State.bar0Word
  with_reducible repeat'
    first
      | assumption | apply State.violate_keeps | apply State.roWrite_keeps | apply State.clearRange_keeps
      | apply State.latchWrite_keeps | apply State.writePortWord_keeps | apply State.writeMsix_keeps
      | apply State.Keeps.ite | apply State.Keeps.foldl | apply State.Keeps.foldl₁ | (intro _) | (dsimp only)
      | (split) | (fail_if_no_progress apply State.Keeps.upd)


theorem State.bar0Write_keeps {s0 s : State} (p : PortId) (off : Nat) (bs : List Byte) 
    (hk : s0.Keeps s) : s0.Keeps (State.bar0Write s p off bs) := by
  unfold State.bar0Write
  with_reducible repeat'
    first
      | assumption | apply State.hostTadd_keeps | apply State.violate_keeps | apply State.bar0Word_keeps
      | apply State.Keeps.ite | apply State.Keeps.foldl | apply State.Keeps.foldl₁ | (intro _) | (dsimp only)
      | (split) | (fail_if_no_progress apply State.Keeps.upd)


theorem State.writeCfg_keeps {s0 s : State} (p : PortId) (off : Nat) (bs : List Byte) 
    (hk : s0.Keeps s) : s0.Keeps (State.writeCfg s p off bs) := by
  unfold State.writeCfg
  with_reducible repeat'
    first
      | assumption | apply State.raisePending_keeps | apply State.modPort_keeps | apply State.Keeps.ite
      | apply State.Keeps.foldl | apply State.Keeps.foldl₁ | (intro _) | (dsimp only) | (split)
      | (fail_if_no_progress apply State.Keeps.upd)


theorem State.endOwn_keeps {s0 s : State}  
    (hk : s0.Keeps s) : s0.Keeps (State.endOwn s) := by
  unfold State.endOwn
  with_reducible repeat'
    first
      | assumption | apply State.freeFlight_keeps | apply State.modMason_keeps | apply State.modPort_keeps
      | apply State.Keeps.ite | apply State.Keeps.foldl | apply State.Keeps.foldl₁ | (intro _) | (dsimp only)
      | (split) | (fail_if_no_progress apply State.Keeps.upd)


theorem State.recordReset_keeps {s0 s : State} (dom : BitVec 4) (src : BitVec 4) 
    (hk : s0.Keeps s) : s0.Keeps (State.recordReset s dom src) := by
  unfold State.recordReset
  with_reducible repeat'
    first
      | assumption | apply State.modPlb_keeps | apply State.errLog_keeps | apply State.logAdd_keeps
      | apply State.Keeps.ite | apply State.Keeps.foldl | apply State.Keeps.foldl₁ | (intro _) | (dsimp only)
      | (split) | (fail_if_no_progress apply State.Keeps.upd)


theorem State.breakWaits_keeps {s0 s : State} (hit : Nat → Bool) 
    (hk : s0.Keeps s) : s0.Keeps (State.breakWaits s hit) := by
  unfold State.breakWaits
  with_reducible repeat'
    first
      | assumption | apply State.post_keeps | apply State.unblock_keeps | apply State.answerBroken_keeps
      | apply State.modCluster_keeps | apply State.freeKSlot_keeps | apply State.kBreak_keeps | apply State.Keeps.ite
      | apply State.Keeps.foldl | apply State.Keeps.foldl₁ | (intro _) | (dsimp only) | (split)
      | (fail_if_no_progress apply State.Keeps.upd)


theorem State.withdraw_keeps {s0 s : State} (c : Nat) (t : Nat) 
    (hk : s0.Keeps s) : s0.Keeps (State.withdraw s c t) := by
  unfold State.withdraw
  with_reducible repeat'
    first
      | assumption | apply State.Keeps.ite | apply State.Keeps.foldl | apply State.Keeps.foldl₁ | (intro _)
      | (dsimp only) | (split) | (fail_if_no_progress apply State.Keeps.upd)


theorem State.resetCore_keeps {s0 s : State} (c : Nat) 
    (hk : s0.Keeps s) : s0.Keeps (State.resetCore s c) := by
  unfold State.resetCore
  with_reducible repeat'
    first
      | assumption | apply State.withdraw_keeps | apply State.breakWaits_keeps | apply State.modCluster_keeps
      | apply State.loseRegions_keeps | apply State.modCore_keeps | apply State.loseRegions_keeps
      | apply State.Keeps.ite | apply State.Keeps.foldl | apply State.Keeps.foldl₁ | (intro _) | (dsimp only)
      | (split) | (fail_if_no_progress apply State.Keeps.upd)


theorem State.resetCluster_keeps {s0 s : State} (k : Nat) 
    (hk : s0.Keeps s) : s0.Keeps (State.resetCluster s k) := by
  unfold State.resetCluster
  with_reducible repeat'
    first
      | assumption | apply State.breakWaits_keeps | apply State.modCluster_keeps | apply State.loseRegions_keeps
      | apply State.resetCore_keeps | apply State.loseRegions_keeps | apply State.Keeps.ite | apply State.Keeps.foldl
      | apply State.Keeps.foldl₁ | (intro _) | (dsimp only) | (split) | (fail_if_no_progress apply State.Keeps.upd)


theorem State.computeReset_keeps {s0 s : State} (src : BitVec 4) 
    (hk : s0.Keeps s) : s0.Keeps (State.computeReset s src) := by
  unfold State.computeReset
  with_reducible repeat'
    first
      | assumption | apply State.endOwn_keeps | apply State.recordReset_keeps | apply State.resetCluster_keeps
      | apply State.modRun_keeps | apply State.Keeps.ite | apply State.Keeps.foldl | apply State.Keeps.foldl₁
      | (intro _) | (dsimp only) | (split) | (fail_if_no_progress apply State.Keeps.upd)


theorem State.requestCompute_keeps {s0 s : State} (src : BitVec 4) 
    (hk : s0.Keeps s) : s0.Keeps (State.requestCompute s src) := by
  unfold State.requestCompute
  with_reducible repeat'
    first
      | assumption | apply State.computeReset_keeps | apply State.modJob_keeps | apply State.Keeps.ite
      | apply State.Keeps.foldl | apply State.Keeps.foldl₁ | (intro _) | (dsimp only) | (split)
      | (fail_if_no_progress apply State.Keeps.upd)


theorem State.writeLog_keeps {s0 s : State}  
    (hk : s0.Keeps s) : s0.Keeps (State.writeLog s) := by
  unfold State.writeLog
  with_reducible repeat'
    first
      | assumption | apply State.modPlb_keeps | apply State.Keeps.ite | apply State.Keeps.foldl
      | apply State.Keeps.foldl₁ | (intro _) | (dsimp only) | (split) | (fail_if_no_progress apply State.Keeps.upd)


theorem State.packageReset_keeps {s0 s : State} (dom : BitVec 4) (src : BitVec 4) 
    (hk : s0.Keeps s) : s0.Keeps (State.packageReset s dom src) := by
  unfold State.packageReset
  with_reducible repeat'
    first
      | assumption | apply State.writeLog_keeps | apply State.sendLeave_keeps | apply State.recordReset_keeps
      | apply State.loseRegions_keeps | apply State.setMod_keeps | apply State.loseRegions_keeps
      | apply State.Keeps.ite | apply State.Keeps.foldl | apply State.Keeps.foldl₁ | (intro _) | (dsimp only)
      | (split) | (fail_if_no_progress apply State.Keeps.upd)


theorem State.wantDump_keeps {s0 s : State} (trigger : BitVec 4) 
    (hk : s0.Keeps s) : s0.Keeps (State.wantDump s trigger) := by
  unfold State.wantDump
  with_reducible repeat'
    first
      | assumption | apply State.modPlb_keeps | apply State.Keeps.ite | apply State.Keeps.foldl
      | apply State.Keeps.foldl₁ | (intro _) | (dsimp only) | (split) | (fail_if_no_progress apply State.Keeps.upd)


theorem State.linksDown_keeps {s0 s : State}  
    (hk : s0.Keeps s) : s0.Keeps (State.linksDown s) := by
  unfold State.linksDown
  with_reducible repeat'
    first
      | assumption | apply State.darken_keeps | apply State.Keeps.ite | apply State.Keeps.foldl
      | apply State.Keeps.foldl₁ | (intro _) | (dsimp only) | (split) | (fail_if_no_progress apply State.Keeps.upd)


theorem State.enterFailed_keeps {s0 s : State} (cause : BitVec 4) 
    (hk : s0.Keeps s) : s0.Keeps (State.enterFailed s cause) := by
  unfold State.enterFailed
  with_reducible repeat'
    first
      | assumption | apply State.modPlb_keeps | apply State.wantDump_keeps | apply State.errLog_keeps
      | apply State.closeBypass_keeps | apply State.linksDown_keeps | apply State.sendLeave_keeps
      | apply State.modJob_keeps | apply State.msixBoth_keeps | apply State.setMod_keeps | apply State.Keeps.ite
      | apply State.Keeps.foldl | apply State.Keeps.foldl₁ | (intro _) | (dsimp only) | (split)
      | (fail_if_no_progress apply State.Keeps.upd)


theorem State.moduleReset_keeps {s0 s : State} (src : BitVec 4) 
    (hk : s0.Keeps s) : s0.Keeps (State.moduleReset s src) := by
  unfold State.moduleReset
  with_reducible repeat'
    first
      | assumption | apply State.packageReset_keeps | apply State.modPlb_keeps | apply State.enterFailed_keeps
      | apply State.Keeps.ite | apply State.Keeps.foldl | apply State.Keeps.foldl₁ | (intro _) | (dsimp only)
      | (split) | (fail_if_no_progress apply State.Keeps.upd)


theorem State.doReset_keeps {s0 s : State} (dom : BitVec 4) (src : BitVec 4) 
    (hk : s0.Keeps s) : s0.Keeps (State.doReset s dom src) := by
  unfold State.doReset
  with_reducible repeat'
    first
      | assumption | apply State.computeReset_keeps | apply State.requestCompute_keeps
      | apply State.packageReset_keeps | apply State.moduleReset_keeps | apply State.Keeps.ite
      | apply State.Keeps.foldl | apply State.Keeps.foldl₁ | (intro _) | (dsimp only) | (split)
      | (fail_if_no_progress apply State.Keeps.upd)


theorem State.requestReset_keeps {s0 s : State} (dom : BitVec 4) (src : BitVec 4) 
    (hk : s0.Keeps s) : s0.Keeps (State.requestReset s dom src) := by
  unfold State.requestReset
  with_reducible repeat'
    first
      | assumption | apply State.modPlb_keeps | apply State.doReset_keeps | apply State.Keeps.ite
      | apply State.Keeps.foldl | apply State.Keeps.foldl₁ | (intro _) | (dsimp only) | (split)
      | (fail_if_no_progress apply State.Keeps.upd)


theorem State.resetReqWrite_keeps {s0 s : State} (path : RegPath) (dom : BitVec 4) 
    (hk : s0.Keeps s) : s0.Keeps (State.resetReqWrite s path dom) := by
  unfold State.resetReqWrite
  with_reducible repeat'
    first
      | assumption | apply State.requestReset_keeps | apply State.violate_keeps | apply State.Keeps.ite
      | apply State.Keeps.foldl | apply State.Keeps.foldl₁ | (intro _) | (dsimp only) | (split)
      | (fail_if_no_progress apply State.Keeps.upd)


theorem State.writeUpdCtrl_keeps {s0 s : State} (path : RegPath) (v : Word) 
    (hk : s0.Keeps s) : s0.Keeps (State.writeUpdCtrl s path v) := by
  unfold State.writeUpdCtrl
  with_reducible repeat'
    first
      | assumption | apply State.updCtrl_keeps | apply State.updBegin_keeps | apply State.updWrite_keeps
      | apply State.ownerReq_keeps | apply State.startReq_keeps | apply State.updAbort_keeps
      | apply State.violate_keeps | apply State.Keeps.ite | apply State.Keeps.foldl | apply State.Keeps.foldl₁
      | (intro _) | (dsimp only) | (split) | (fail_if_no_progress apply State.Keeps.upd)


theorem State.plbWord_write_keeps {s0 s : State} (path : RegPath) (w : WordWrite) 
    (hk : s0.Keeps s) : s0.Keeps (State.plbWord_write s path w) := by
  unfold State.plbWord_write
  with_reducible repeat'
    first
      | assumption | apply State.reservedIf_keeps | apply State.resetReqWrite_keeps | apply State.writeUpdCtrl_keeps
      | apply State.roWrite_keeps | apply State.violate_keeps | apply State.Keeps.ite | apply State.Keeps.foldl
      | apply State.Keeps.foldl₁ | (intro _) | (dsimp only) | (split) | (fail_if_no_progress apply State.Keeps.upd)


theorem State.plbWrite_keeps {s0 s : State} (path : RegPath) (off : Nat) (bs : List Byte) 
    (hk : s0.Keeps s) : s0.Keeps (State.plbWrite s path off bs) := by
  unfold State.plbWrite
  with_reducible repeat'
    first
      | assumption | apply State.violate_keeps | apply State.bufWrite_keeps | apply State.plbWord_write_keeps
      | apply State.Keeps.ite | apply State.Keeps.foldl | apply State.Keeps.foldl₁ | (intro _) | (dsimp only)
      | (split) | (fail_if_no_progress apply State.Keeps.upd)


theorem State.writeReg_keeps {s0 s : State} (path : RegPath) (off : Nat) (bs : List Byte) 
    (hk : s0.Keeps s) : s0.Keeps (State.writeReg s path off bs) := by
  unfold State.writeReg
  with_reducible repeat'
    first
      | assumption | apply State.bar0Write_keeps | apply State.strandCtl_keeps | apply State.writeCfg_keeps
      | apply State.plbWrite_keeps | apply State.Keeps.ite | apply State.Keeps.foldl | apply State.Keeps.foldl₁
      | (intro _) | (dsimp only) | (split) | (fail_if_no_progress apply State.Keeps.upd)


theorem State.readCfg_keeps {s0 s : State} (p : PortId) (off : Nat) (size : Nat) 
    (hk : s0.Keeps s) : s0.Keeps (State.readCfg s p off size) := by
  unfold State.readCfg
  with_reducible repeat'
    first
      | assumption | apply State.emit_keeps | apply State.emit_keeps | apply State.Keeps.ite | apply State.Keeps.foldl
      | apply State.Keeps.foldl₁ | (intro _) | (dsimp only) | (split) | (fail_if_no_progress apply State.Keeps.upd)


theorem State.readWindow_keeps {s0 s : State} (path : RegPath) (off : Nat) (size : Nat) 
    (hk : s0.Keeps s) : s0.Keeps (State.readWindow s path off size) := by
  unfold State.readWindow
  with_reducible repeat'
    first
      | assumption | apply State.violate_keeps | apply State.emit_keeps | apply State.ctlRead_keeps
      | apply State.emit_keeps | apply State.Keeps.ite | apply State.Keeps.foldl | apply State.Keeps.foldl₁
      | (intro _) | (dsimp only) | (split) | (fail_if_no_progress apply State.Keeps.upd)


theorem State.effect_keeps {s0 s : State} (k : Cmd) (op : Nat) (act : State → State) (hact : ∀ v, s0.Keeps v → s0.Keeps (act v))
    (hk : s0.Keeps s) : s0.Keeps (State.effect s k op act) := by
  unfold State.effect
  with_reducible repeat'
    first
      | assumption | apply hact | apply State.modJob_keeps | apply State.Keeps.ite | apply State.Keeps.foldl
      | apply State.Keeps.foldl₁ | (intro _) | (dsimp only) | (split) | (fail_if_no_progress apply State.Keeps.upd)


theorem State.placeFace_keeps {s0 s : State} (base0 : Word) (base1 : Word) (len : Word) (lift : Word) 
    (hk : s0.Keeps s) : s0.Keeps (State.placeFace s base0 base1 len lift) := by
  unfold State.placeFace
  with_reducible repeat'
    first
      | assumption | apply State.Keeps.ite | apply State.Keeps.foldl | apply State.Keeps.foldl₁ | (intro _)
      | (dsimp only) | (split) | (fail_if_no_progress apply State.Keeps.upd)


theorem State.loadProg_keeps {s0 s : State} (e : ProgEntry) (c : Nat) 
    (hk : s0.Keeps s) : s0.Keeps (State.loadProg s e c) := by
  unfold State.loadProg
  with_reducible repeat'
    first
      | assumption | apply State.engineRead_keeps | apply State.storeList_keeps | apply State.modRun_keeps
      | apply State.writeSaved_keeps | apply State.storeList_keeps | apply State.Keeps.ite | apply State.Keeps.foldl
      | apply State.Keeps.foldl₁ | (intro _) | (dsimp only) | (split) | (fail_if_no_progress apply State.Keeps.upd)


theorem State.loadProgs_keeps {s0 s : State} (p : RunPlan) 
    (hk : s0.Keeps s) : s0.Keeps (State.loadProgs s p) := by
  unfold State.loadProgs
  with_reducible repeat'
    first
      | assumption | apply State.loadProg_keeps | apply State.Keeps.ite | apply State.Keeps.foldl
      | apply State.Keeps.foldl₁ | (intro _) | (dsimp only) | (split) | (fail_if_no_progress apply State.Keeps.upd)


theorem State.applyRun_keeps {s0 s : State} (p : RunPlan) 
    (hk : s0.Keeps s) : s0.Keeps (State.applyRun s p) := by
  unfold State.applyRun
  with_reducible repeat'
    first
      | assumption | apply State.placeFace_keeps | apply State.loadProgs_keeps | apply State.hold_keeps
      | apply State.Keeps.ite | apply State.Keeps.foldl | apply State.Keeps.foldl₁ | (intro _) | (dsimp only)
      | (split) | (fail_if_no_progress apply State.Keeps.upd)


theorem State.placeTables_keeps {s0 s : State} (ds : List Desc) 
    (hk : s0.Keeps s) : s0.Keeps (State.placeTables s ds) := by
  unfold State.placeTables
  with_reducible repeat'
    first
      | assumption | apply State.modMason_keeps | apply State.Keeps.ite | apply State.Keeps.foldl
      | apply State.Keeps.foldl₁ | (intro _) | (dsimp only) | (split) | (fail_if_no_progress apply State.Keeps.upd)


theorem State.effectChecked_keeps {s0 s : State} (k : Cmd) (op : Nat) (act : State → State) (hact : ∀ v, s0.Keeps v → s0.Keeps (act v))
    (hk : s0.Keeps s) : s0.Keeps (State.effectChecked s k op act) := by
  unfold State.effectChecked
  with_reducible repeat'
    first
      | assumption | apply hact | apply State.effect_keeps | apply State.refuse_keeps | apply State.Keeps.ite
      | apply State.Keeps.foldl | apply State.Keeps.foldl₁ | (intro _) | (dsimp only) | (split)
      | (fail_if_no_progress apply State.Keeps.upd)


theorem State.movePins_keeps {s0 s : State} (p : Word) (f : BitVec 16 → BitVec 16) 
    (hk : s0.Keeps s) : s0.Keeps (State.movePins s p f) := by
  unfold State.movePins
  with_reducible repeat'
    first
      | assumption | apply State.modLift_keeps | apply State.Keeps.ite | apply State.Keeps.foldl
      | apply State.Keeps.foldl₁ | (intro _) | (dsimp only) | (split) | (fail_if_no_progress apply State.Keeps.upd)


theorem State.effectSub_keeps {s0 s : State} (k : Cmd) (op : Nat) (sub : Nat) (act : State → State) (hact : ∀ v, s0.Keeps v → s0.Keeps (act v))
    (hk : s0.Keeps s) : s0.Keeps (State.effectSub s k op sub act) := by
  unfold State.effectSub
  with_reducible repeat'
    first
      | assumption | apply hact | apply State.effect_keeps | apply State.Keeps.ite | apply State.Keeps.foldl
      | apply State.Keeps.foldl₁ | (intro _) | (dsimp only) | (split) | (fail_if_no_progress apply State.Keeps.upd)


theorem State.dropJoins_keeps {s0 s : State}  
    (hk : s0.Keeps s) : s0.Keeps (State.dropJoins s) := by
  unfold State.dropJoins
  with_reducible repeat'
    first
      | assumption | apply State.Keeps.ite | apply State.Keeps.foldl | apply State.Keeps.foldl₁ | (intro _)
      | (dsimp only) | (split) | (fail_if_no_progress apply State.Keeps.upd)


theorem State.countNonfinite_keeps {s0 s : State} (m : Nat) (n : Nat) 
    (hk : s0.Keeps s) : s0.Keeps (State.countNonfinite s m n) := by
  unfold State.countNonfinite
  with_reducible repeat'
    first
      | assumption | apply State.modMason_keeps | apply State.Keeps.ite | apply State.Keeps.foldl
      | apply State.Keeps.foldl₁ | (intro _) | (dsimp only) | (split) | (fail_if_no_progress apply State.Keeps.upd)


theorem State.setPlane_keeps {s0 s : State} (d : Desc) (lift : Word) (off : Nat) (bs : List Byte) 
    (hk : s0.Keeps s) : s0.Keeps (State.setPlane s d lift off bs) := by
  unfold State.setPlane
  with_reducible repeat'
    first
      | assumption | apply State.writeSlow_keeps | apply State.Keeps.ite | apply State.Keeps.foldl
      | apply State.Keeps.foldl₁ | (intro _) | (dsimp only) | (split) | (fail_if_no_progress apply State.Keeps.upd)


theorem State.writeRule_keeps {s0 s : State} (g : GroupRun) (l : List ElemOut) 
    (hk : s0.Keeps s) : s0.Keeps (State.writeRule s g l) := by
  unfold State.writeRule
  with_reducible repeat'
    first
      | assumption | apply State.setPlane_keeps | apply State.Keeps.ite | apply State.Keeps.foldl
      | apply State.Keeps.foldl₁ | (intro _) | (dsimp only) | (split) | (fail_if_no_progress apply State.Keeps.upd)


theorem State.writeCarry_keeps {s0 s : State} (g : GroupRun) (k : Nat) 
    (hk : s0.Keeps s) : s0.Keeps (State.writeCarry s g k) := by
  unfold State.writeCarry
  with_reducible repeat'
    first
      | assumption | apply State.setPlane_keeps | apply State.Keeps.ite | apply State.Keeps.foldl
      | apply State.Keeps.foldl₁ | (intro _) | (dsimp only) | (split) | (fail_if_no_progress apply State.Keeps.upd)


theorem State.writeBeds_keeps {s0 s : State} (g : GroupRun) (l : List W32) 
    (hk : s0.Keeps s) : s0.Keeps (State.writeBeds s g l) := by
  unfold State.writeBeds
  with_reducible repeat'
    first
      | assumption | apply State.setPlane_keeps | apply State.Keeps.ite | apply State.Keeps.foldl
      | apply State.Keeps.foldl₁ | (intro _) | (dsimp only) | (split) | (fail_if_no_progress apply State.Keeps.upd)


theorem State.writeFace_keeps {s0 s : State} (g : GroupRun) (k : Nat) 
    (hk : s0.Keeps s) : s0.Keeps (State.writeFace s g k) := by
  unfold State.writeFace
  with_reducible repeat'
    first
      | assumption | apply State.setPlane_keeps | apply State.Keeps.ite | apply State.Keeps.foldl
      | apply State.Keeps.foldl₁ | (intro _) | (dsimp only) | (split) | (fail_if_no_progress apply State.Keeps.upd)


theorem State.stopGroup_keeps {s0 s : State} (m : Nat) (g : GroupRun) 
    (hk : s0.Keeps s) : s0.Keeps (State.stopGroup m s g) := by
  unfold State.stopGroup
  with_reducible repeat'
    first
      | assumption | apply State.useFree_keeps | apply State.countNonfinite_keeps | apply State.writeRule_keeps
      | apply State.writeCarry_keeps | apply State.writeBeds_keeps | apply State.writeFace_keeps
      | apply State.useFree_keeps | apply State.Keeps.ite | apply State.Keeps.foldl | apply State.Keeps.foldl₁
      | (intro _) | (dsimp only) | (split) | (fail_if_no_progress apply State.Keeps.upd)


theorem State.stopMasons_keeps {s0 s : State}  
    (hk : s0.Keeps s) : s0.Keeps (State.stopMasons s) := by
  unfold State.stopMasons
  with_reducible repeat'
    first
      | assumption | apply State.stopGroup_keeps | apply State.modMason_keeps | apply State.Keeps.ite
      | apply State.Keeps.foldl | apply State.Keeps.foldl₁ | (intro _) | (dsimp only) | (split)
      | (fail_if_no_progress apply State.Keeps.upd)


theorem State.rewound_keeps {s0 s : State}  
    (hk : s0.Keeps s) : s0.Keeps (State.rewound s) := by
  unfold State.rewound
  with_reducible repeat'
    first
      | assumption | apply State.modJob_keeps | apply State.modMsn_keeps | apply State.modLiftRam_keeps
      | apply State.refuse_keeps | apply State.Keeps.ite | apply State.Keeps.foldl | apply State.Keeps.foldl₁
      | (intro _) | (dsimp only) | (split) | (fail_if_no_progress apply State.Keeps.upd)


theorem State.beginStop_keeps {s0 s : State} (k : Option Cmd) (lift : Word) (shed : Bool) 
    (hk : s0.Keeps s) : s0.Keeps (State.beginStop s k lift shed) := by
  unfold State.beginStop
  with_reducible repeat'
    first
      | assumption | apply State.dropJoins_keeps | apply State.stopMasons_keeps | apply State.rewound_keeps
      | apply State.modMsn_keeps | apply State.modChain_keeps | apply State.modJob_keeps | apply State.setMod_keeps
      | apply State.Keeps.ite | apply State.Keeps.foldl | apply State.Keeps.foldl₁ | (intro _) | (dsimp only)
      | (split) | (fail_if_no_progress apply State.Keeps.upd)


theorem State.dropTops_keeps {s0 s : State} (c : Nat) (t : Nat) 
    (hk : s0.Keeps s) : s0.Keeps (State.dropTops s c t) := by
  unfold State.dropTops
  with_reducible repeat'
    first
      | assumption | apply State.modEng_keeps | apply State.modRegs_keeps | apply State.useFree_keeps
      | apply State.storeList_keeps | apply State.storeList_keeps | apply State.useFree_keeps | apply State.Keeps.ite
      | apply State.Keeps.foldl | apply State.Keeps.foldl₁ | (intro _) | (dsimp only) | (split)
      | (fail_if_no_progress apply State.Keeps.upd)


theorem State.dropReplies_keeps {s0 s : State} (c : Nat) (t : Nat) 
    (hk : s0.Keeps s) : s0.Keeps (State.dropReplies s c t) := by
  unfold State.dropReplies
  with_reducible repeat'
    first
      | assumption | apply State.Keeps.ite | apply State.Keeps.foldl | apply State.Keeps.foldl₁ | (intro _)
      | (dsimp only) | (split) | (fail_if_no_progress apply State.Keeps.upd)


theorem State.resetStrand_keeps {s0 s : State} (c : Nat) (t : Nat) 
    (hk : s0.Keeps s) : s0.Keeps (State.resetStrand s c t) := by
  unfold State.resetStrand
  with_reducible repeat'
    first
      | assumption | apply State.modStrand_keeps | apply State.dropTops_keeps | apply State.dropReplies_keeps
      | apply State.withdraw_keeps | apply State.Keeps.ite | apply State.Keeps.foldl | apply State.Keeps.foldl₁
      | (intro _) | (dsimp only) | (split) | (fail_if_no_progress apply State.Keeps.upd)


theorem State.clearCore_keeps {s0 s : State} (c : Nat) 
    (hk : s0.Keeps s) : s0.Keeps (State.clearCore s c) := by
  unfold State.clearCore
  with_reducible repeat'
    first
      | assumption | apply State.resetStrand_keeps | apply State.modRegs_keeps | apply State.modArr_keeps
      | apply State.modEng_keeps | apply State.modRun_keeps | apply State.Keeps.ite | apply State.Keeps.foldl
      | apply State.Keeps.foldl₁ | (intro _) | (dsimp only) | (split) | (fail_if_no_progress apply State.Keeps.upd)


theorem State.recordSpare_keeps {s0 s : State} (die : Nat) (grid : Nat) 
    (hk : s0.Keeps s) : s0.Keeps (State.recordSpare s die grid) := by
  unfold State.recordSpare
  with_reducible repeat'
    first
      | assumption | apply State.modPlb_keeps | apply State.Keeps.ite | apply State.Keeps.foldl
      | apply State.Keeps.foldl₁ | (intro _) | (dsimp only) | (split) | (fail_if_no_progress apply State.Keeps.upd)


theorem State.applySpares_keeps {s0 s : State}  
    (hk : s0.Keeps s) : s0.Keeps (State.applySpares s) := by
  unfold State.applySpares
  with_reducible repeat'
    first
      | assumption | apply State.enterFailed_keeps | apply State.modPlb_keeps | apply State.modRun_keeps
      | apply State.Keeps.ite | apply State.Keeps.foldl | apply State.Keeps.foldl₁ | (intro _) | (dsimp only)
      | (split) | (fail_if_no_progress apply State.Keeps.upd)


theorem State.stopCores_keeps {s0 s : State}  
    (hk : s0.Keeps s) : s0.Keeps (State.stopCores s) := by
  unfold State.stopCores
  with_reducible repeat'
    first
      | assumption | apply State.clearCore_keeps | apply State.resetCore_keeps | apply State.resetCluster_keeps
      | apply State.modArr_keeps | apply State.recordSpare_keeps | apply State.applySpares_keeps
      | apply State.Keeps.ite | apply State.Keeps.foldl | apply State.Keeps.foldl₁ | (intro _) | (dsimp only)
      | (split) | (fail_if_no_progress apply State.Keeps.upd)


theorem State.resetLedgers_keeps {s0 s : State}  
    (hk : s0.Keeps s) : s0.Keeps (State.resetLedgers s) := by
  unfold State.resetLedgers
  with_reducible repeat'
    first
      | assumption | apply State.Keeps.ite | apply State.Keeps.foldl | apply State.Keeps.foldl₁ | (intro _)
      | (dsimp only) | (split) | (fail_if_no_progress apply State.Keeps.upd)


theorem State.stopLifts_keeps {s0 s : State} (r : Word) 
    (hk : s0.Keeps s) : s0.Keeps (State.stopLifts s r) := by
  unfold State.stopLifts
  with_reducible repeat'
    first
      | assumption | apply State.setBlock_keeps | apply State.resetLedgers_keeps | apply State.snapshot_keeps
      | apply State.modLift_keeps | apply State.flipFace_keeps | apply State.modMsn_keeps | apply State.modMason_keeps
      | apply State.Keeps.ite | apply State.Keeps.foldl | apply State.Keeps.foldl₁ | (intro _) | (dsimp only)
      | (split) | (fail_if_no_progress apply State.Keeps.upd)


theorem State.endStop_keeps {s0 s : State} (r : Rewind) 
    (hk : s0.Keeps s) : s0.Keeps (State.endStop s r) := by
  unfold State.endStop
  with_reducible repeat'
    first
      | assumption | apply State.modJob_keeps | apply State.complete_keeps | apply State.logOp_keeps
      | apply State.writeHeaders_keeps | apply State.Keeps.ite | apply State.Keeps.foldl | apply State.Keeps.foldl₁
      | (intro _) | (dsimp only) | (split) | (fail_if_no_progress apply State.Keeps.upd)


theorem State.writeSlots_keeps {s0 s : State}  
    (hk : s0.Keeps s) : s0.Keeps (State.writeSlots s) := by
  unfold State.writeSlots
  with_reducible repeat'
    first
      | assumption | apply State.writeBack_keeps | apply State.Keeps.ite | apply State.Keeps.foldl
      | apply State.Keeps.foldl₁ | (intro _) | (dsimp only) | (split) | (fail_if_no_progress apply State.Keeps.upd)


theorem State.clearBroken_keeps {s0 s : State}  
    (hk : s0.Keeps s) : s0.Keeps (State.clearBroken s) := by
  unfold State.clearBroken
  with_reducible repeat'
    first
      | assumption | apply State.writeSlots_keeps | apply State.Keeps.ite | apply State.Keeps.foldl
      | apply State.Keeps.foldl₁ | (intro _) | (dsimp only) | (split) | (fail_if_no_progress apply State.Keeps.upd)


theorem State.installTable_keeps {s0 s : State}  
    (hk : s0.Keeps s) : s0.Keeps (State.installTable s) := by
  unfold State.installTable
  with_reducible repeat'
    first
      | assumption | apply State.breakWaits_keeps | apply State.loseRegions_keeps | apply State.modCluster_keeps
      | apply State.loseRegions_keeps | apply State.Keeps.ite | apply State.Keeps.foldl | apply State.Keeps.foldl₁
      | (intro _) | (dsimp only) | (split) | (fail_if_no_progress apply State.Keeps.upd)


theorem State.finishStop_keeps {s0 s : State} (r : Rewind) 
    (hk : s0.Keeps s) : s0.Keeps (State.finishStop s r) := by
  unfold State.finishStop
  with_reducible repeat'
    first
      | assumption | apply State.stopCores_keeps | apply State.stopLifts_keeps | apply State.endStop_keeps
      | apply State.clearBroken_keeps | apply State.installTable_keeps | apply State.Keeps.ite
      | apply State.Keeps.foldl | apply State.Keeps.foldl₁ | (intro _) | (dsimp only) | (split)
      | (fail_if_no_progress apply State.Keeps.upd)


theorem State.endReplay_keeps {s0 s : State} (r : Replay) 
    (hk : s0.Keeps s) : s0.Keeps (State.endReplay s r) := by
  unfold State.endReplay
  with_reducible repeat'
    first
      | assumption | apply State.logOp_keeps | apply State.modJob_keeps | apply State.complete_keeps
      | apply State.fastWrite_keeps | apply State.Keeps.ite | apply State.Keeps.foldl | apply State.Keeps.foldl₁
      | (intro _) | (dsimp only) | (split) | (fail_if_no_progress apply State.Keeps.upd)


theorem State.modReplay_keeps {s0 s : State} (f : Replay → Replay) 
    (hk : s0.Keeps s) : s0.Keeps (State.modReplay s f) := by
  unfold State.modReplay
  with_reducible repeat'
    first
      | assumption | apply State.modJob_keeps | apply State.Keeps.ite | apply State.Keeps.foldl
      | apply State.Keeps.foldl₁ | (intro _) | (dsimp only) | (split) | (fail_if_no_progress apply State.Keeps.upd)


theorem State.replayCore_keeps {s0 s : State} (c : Nat) 
    (hk : s0.Keeps s) : s0.Keeps (State.replayCore s c) := by
  unfold State.replayCore
  with_reducible repeat'
    first
      | assumption | apply State.resetStrand_keeps | apply State.modRegs_keeps | apply State.modArr_keeps
      | apply State.modReplay_keeps | apply State.releaseCtx_keeps | apply State.modRun_keeps | apply State.Keeps.ite
      | apply State.Keeps.foldl | apply State.Keeps.foldl₁ | (intro _) | (dsimp only) | (split)
      | (fail_if_no_progress apply State.Keeps.upd)


theorem State.nextSuspect_keeps {s0 s : State} (r : Replay) (cs : List Nat)
    (hk : s0.Keeps s) : s0.Keeps (State.nextSuspect s r cs) := by
  induction cs generalizing r with
  | nil => exact State.endReplay_keeps _ hk
  | cons c cs ih =>
    unfold State.nextSuspect
    with_reducible repeat'
      first
        | assumption | apply ih | apply State.replayCore_keeps | apply State.modJob_keeps | apply State.Keeps.ite
        | (intro _) | (dsimp only)

theorem State.beginSuspects_keeps {s0 s : State} (r : Replay) 
    (hk : s0.Keeps s) : s0.Keeps (State.beginSuspects s r) := by
  unfold State.beginSuspects
  with_reducible repeat'
    first
      | assumption | apply State.nextSuspect_keeps | apply State.Keeps.ite | apply State.Keeps.foldl
      | apply State.Keeps.foldl₁ | (intro _) | (dsimp only) | (split) | (fail_if_no_progress apply State.Keeps.upd)


theorem State.clearExtents_keeps {s0 s : State} (l : List (Nat × Nat)) 
    (hk : s0.Keeps s) : s0.Keeps (State.clearExtents s l) := by
  unfold State.clearExtents
  with_reducible repeat'
    first
      | assumption | apply State.fastWrite_keeps | apply State.Keeps.ite | apply State.Keeps.foldl
      | apply State.Keeps.foldl₁ | (intro _) | (dsimp only) | (split) | (fail_if_no_progress apply State.Keeps.upd)


theorem State.moved_keeps {s0 s : State} (n : Nat) 
    (hk : s0.Keeps s) : s0.Keeps (State.moved s n) := by
  unfold State.moved
  with_reducible repeat'
    first
      | assumption | apply State.modXfer_keeps | apply State.Keeps.ite | apply State.Keeps.foldl
      | apply State.Keeps.foldl₁ | (intro _) | (dsimp only) | (split) | (fail_if_no_progress apply State.Keeps.upd)


theorem State.endDrain_keeps {s0 s : State}  
    (hk : s0.Keeps s) : s0.Keeps (State.endDrain s) := by
  unfold State.endDrain
  with_reducible repeat'
    first
      | assumption | apply State.movePins_keeps | apply State.modXfer_keeps | apply State.modLiftRam_keeps
      | apply State.Keeps.ite | apply State.Keeps.foldl | apply State.Keeps.foldl₁ | (intro _) | (dsimp only)
      | (split) | (fail_if_no_progress apply State.Keeps.upd)


theorem State.startRestore_keeps {s0 s : State} (k : Cmd) 
    (hk : s0.Keeps s) : s0.Keeps (State.startRestore s k) := by
  unfold State.startRestore
  with_reducible repeat'
    first
      | assumption | apply State.modXfer_keeps | apply State.Keeps.ite | apply State.Keeps.foldl
      | apply State.Keeps.foldl₁ | (intro _) | (dsimp only) | (split) | (fail_if_no_progress apply State.Keeps.upd)


theorem State.restored_keeps {s0 s : State} (k : Cmd) 
    (hk : s0.Keeps s) : s0.Keeps (State.restored s k) := by
  unfold State.restored
  with_reducible repeat'
    first
      | assumption | apply State.modXfer_keeps | apply State.complete_keeps | apply State.logOp_keeps
      | apply State.Keeps.ite | apply State.Keeps.foldl | apply State.Keeps.foldl₁ | (intro _) | (dsimp only)
      | (split) | (fail_if_no_progress apply State.Keeps.upd)


theorem State.commitLift_keeps {s0 s : State} (lift : Word) 
    (hk : s0.Keeps s) : s0.Keeps (State.commitLift s lift) := by
  unfold State.commitLift
  with_reducible repeat'
    first
      | assumption | apply State.modMsn_keeps | apply State.modLift_keeps | apply State.Keeps.ite
      | apply State.Keeps.foldl | apply State.Keeps.foldl₁ | (intro _) | (dsimp only) | (split)
      | (fail_if_no_progress apply State.Keeps.upd)


theorem State.writeExtents_keeps {s0 s : State} (es : List Extent) (data : List Byte) 
    (hk : s0.Keeps s) : s0.Keeps (State.writeExtents s es data) := by
  unfold State.writeExtents
  with_reducible repeat'
    first
      | assumption | apply State.writeSlow_keeps | apply State.Keeps.ite | apply State.Keeps.foldl
      | apply State.Keeps.foldl₁ | (intro _) | (dsimp only) | (split) | (fail_if_no_progress apply State.Keeps.upd)


theorem State.startMirror_keeps {s0 s : State} (k : Cmd) 
    (hk : s0.Keeps s) : s0.Keeps (State.startMirror s k) := by
  unfold State.startMirror
  with_reducible repeat'
    first
      | assumption | apply State.modMsn_keeps | apply State.complete_keeps | apply State.Keeps.ite
      | apply State.Keeps.foldl | apply State.Keeps.foldl₁ | (intro _) | (dsimp only) | (split)
      | (fail_if_no_progress apply State.Keeps.upd)


theorem State.startWaiting_keeps {s0 s : State} (ks : List Cmd)
    (hk : s0.Keeps s) : s0.Keeps (State.startWaiting s ks) := by
  induction ks generalizing s with
  | nil => exact hk
  | cons k ks ih =>
    unfold State.startWaiting
    with_reducible repeat'
      first
        | assumption | apply ih | apply State.startMirror_keeps | apply State.modMsn_keeps | apply State.Keeps.ite
        | (intro _) | (dsimp only)

theorem State.nextMirror_keeps {s0 s : State}  
    (hk : s0.Keeps s) : s0.Keeps (State.nextMirror s) := by
  unfold State.nextMirror
  with_reducible repeat'
    first
      | assumption | apply State.startWaiting_keeps | apply State.Keeps.ite | apply State.Keeps.foldl
      | apply State.Keeps.foldl₁ | (intro _) | (dsimp only) | (split) | (fail_if_no_progress apply State.Keeps.upd)


theorem State.readImage_keeps {s0 s : State} (lift : Word) (off : Nat) (n : Nat) 
    (hk : s0.Keeps s) : s0.Keeps (State.readImage s lift off n) := by
  unfold State.readImage
  with_reducible repeat'
    first
      | assumption | apply State.countSlow_keeps | apply State.Keeps.ite | apply State.Keeps.foldl
      | apply State.Keeps.foldl₁ | (intro _) | (dsimp only) | (split) | (fail_if_no_progress apply State.Keeps.upd)


theorem State.sendChunk_keeps {s0 s : State} (u : Nat × Nat) (j : MirrorJob) (bytes : List Byte) (ring : Word) (full : Word) (k : Nat) 
    (hk : s0.Keeps s) : s0.Keeps (State.sendChunk s u j bytes ring full k) := by
  unfold State.sendChunk
  with_reducible repeat'
    first
      | assumption | apply State.launch_keeps | apply State.Keeps.ite | apply State.Keeps.foldl
      | apply State.Keeps.foldl₁ | (intro _) | (dsimp only) | (split) | (fail_if_no_progress apply State.Keeps.upd)


theorem State.writeImage_keeps {s0 s : State} (lift : Word) (off : Nat) (bs : List Byte) 
    (hk : s0.Keeps s) : s0.Keeps (State.writeImage s lift off bs) := by
  unfold State.writeImage
  with_reducible repeat'
    first
      | assumption | apply State.writeSlow_keeps | apply State.Keeps.ite | apply State.Keeps.foldl
      | apply State.Keeps.foldl₁ | (intro _) | (dsimp only) | (split) | (fail_if_no_progress apply State.Keeps.upd)


theorem State.placeChunk_keeps {s0 s : State} (b : MirrorBlk) (h : ChunkHead) (bs : List Byte) 
    (hk : s0.Keeps s) : s0.Keeps (State.placeChunk s b h bs) := by
  unfold State.placeChunk
  with_reducible repeat'
    first
      | assumption | apply State.moved_keeps | apply State.writeImage_keeps | apply State.writeSlow_keeps
      | apply State.Keeps.ite | apply State.Keeps.foldl | apply State.Keeps.foldl₁ | (intro _) | (dsimp only)
      | (split) | (fail_if_no_progress apply State.Keeps.upd)


theorem State.takeChunk_keeps {s0 s : State} (u : Nat × Nat) (b : MirrorBlk) 
    (hk : s0.Keeps s) : s0.Keeps (State.takeChunk s u b) := by
  unfold State.takeChunk
  with_reducible repeat'
    first
      | assumption | apply State.engineRead_keeps | apply State.violate_keeps | apply State.placeChunk_keeps
      | apply State.modMsn_keeps | apply State.launch_keeps | apply State.Keeps.ite | apply State.Keeps.foldl
      | apply State.Keeps.foldl₁ | (intro _) | (dsimp only) | (split) | (fail_if_no_progress apply State.Keeps.upd)


theorem State.recordRetired_keeps {s0 s : State} (kind : Nat) (unit : Nat) 
    (hk : s0.Keeps s) : s0.Keeps (State.recordRetired s kind unit) := by
  unfold State.recordRetired
  with_reducible repeat'
    first
      | assumption | apply State.modPlb_keeps | apply State.errLog_keeps | apply State.Keeps.ite
      | apply State.Keeps.foldl | apply State.Keeps.foldl₁ | (intro _) | (dsimp only) | (split)
      | (fail_if_no_progress apply State.Keeps.upd)


theorem State.retirePch_keeps {s0 s : State} (p : Nat) 
    (hk : s0.Keeps s) : s0.Keeps (State.retirePch s p) := by
  unfold State.retirePch
  with_reducible repeat'
    first
      | assumption | apply State.recordRetired_keeps | apply State.modPch_keeps | apply State.enterFailed_keeps
      | apply State.hold_keeps | apply State.Keeps.ite | apply State.Keeps.foldl | apply State.Keeps.foldl₁
      | (intro _) | (dsimp only) | (split) | (fail_if_no_progress apply State.Keeps.upd)


theorem State.modPwr_keeps {s0 s : State} (f : Power → Power) 
    (hk : s0.Keeps s) : s0.Keeps (State.modPwr s f) := by
  unfold State.modPwr
  with_reducible repeat'
    first
      | assumption | apply State.Keeps.ite | apply State.Keeps.foldl | apply State.Keeps.foldl₁ | (intro _)
      | (dsimp only) | (split) | (fail_if_no_progress apply State.Keeps.upd)


theorem State.showMason_keeps {s0 s : State} (m : Nat) 
    (hk : s0.Keeps s) : s0.Keeps (State.showMason s m) := by
  unfold State.showMason
  with_reducible repeat'
    first
      | assumption | apply State.modMason_keeps | apply State.Keeps.ite | apply State.Keeps.foldl
      | apply State.Keeps.foldl₁ | (intro _) | (dsimp only) | (split) | (fail_if_no_progress apply State.Keeps.upd)


theorem State.nextGroup_keeps {s0 s : State} (m : Nat) 
    (hk : s0.Keeps s) : s0.Keeps (State.nextGroup s m) := by
  unfold State.nextGroup
  with_reducible repeat'
    first
      | assumption | apply State.modMason_keeps | apply State.Keeps.ite | apply State.Keeps.foldl
      | apply State.Keeps.foldl₁ | (intro _) | (dsimp only) | (split) | (fail_if_no_progress apply State.Keeps.upd)


theorem State.startGroup_keeps {s0 s : State} (m : Nat) (i : Nat) (d : Desc) (lift : Word) 
    (hk : s0.Keeps s) : s0.Keeps (State.startGroup s m i d lift) := by
  unfold State.startGroup
  with_reducible repeat'
    first
      | assumption | apply State.nextGroup_keeps | apply State.readAll_keeps | apply State.bulkRead_keeps
      | apply State.showMason_keeps | apply State.descriptorDone_keeps | apply State.modLiftRam_keeps
      | apply State.modLift_keeps | apply State.modMason_keeps | apply State.Keeps.ite | apply State.Keeps.foldl
      | apply State.Keeps.foldl₁ | (intro _) | (dsimp only) | (split) | (fail_if_no_progress apply State.Keeps.upd)


theorem State.waitTargets_keeps {s0 s : State} (m : Nat) 
    (hk : s0.Keeps s) : s0.Keeps (State.waitTargets s m) := by
  unfold State.waitTargets
  with_reducible repeat'
    first
      | assumption | apply State.modMason_keeps | apply State.Keeps.ite | apply State.Keeps.foldl
      | apply State.Keeps.foldl₁ | (intro _) | (dsimp only) | (split) | (fail_if_no_progress apply State.Keeps.upd)


theorem State.modGroup_keeps {s0 s : State} (m : Nat) (idx : Nat) (f : GroupRun → GroupRun) 
    (hk : s0.Keeps s) : s0.Keeps (State.modGroup s m idx f) := by
  unfold State.modGroup
  with_reducible repeat'
    first
      | assumption | apply State.modMason_keeps | apply State.Keeps.ite | apply State.Keeps.foldl
      | apply State.Keeps.foldl₁ | (intro _) | (dsimp only) | (split) | (fail_if_no_progress apply State.Keeps.upd)


theorem State.sendFaces_keeps {s0 s : State} (m : Nat) (g : GroupRun) (lift : Word) (faces : List Byte) 
    (hk : s0.Keeps s) : s0.Keeps (State.sendFaces s m g lift faces) := by
  unfold State.sendFaces
  with_reducible repeat'
    first
      | assumption | apply State.modMason_keeps | apply State.modGroup_keeps | apply State.launch_keeps
      | apply State.Keeps.ite | apply State.Keeps.foldl | apply State.Keeps.foldl₁ | (intro _) | (dsimp only)
      | (split) | (fail_if_no_progress apply State.Keeps.upd)


theorem State.readPlanes_keeps {s0 s : State} (d : Desc) (lift : Word) (ps : List (Nat × Nat)) 
    (hk : s0.Keeps s) : s0.Keeps (State.readPlanes s d lift ps) := by
  unfold State.readPlanes
  with_reducible repeat'
    first
      | assumption | apply State.countSlow_keeps | apply State.Keeps.ite | apply State.Keeps.foldl
      | apply State.Keeps.foldl₁ | (intro _) | (dsimp only) | (split) | (fail_if_no_progress apply State.Keeps.upd)


theorem State.readFaces_keeps {s0 s : State} (d : Desc) (lift : Word) 
    (hk : s0.Keeps s) : s0.Keeps (State.readFaces s d lift) := by
  unfold State.readFaces
  with_reducible repeat'
    first
      | assumption | apply State.bulkRead_keeps | apply State.Keeps.ite | apply State.Keeps.foldl
      | apply State.Keeps.foldl₁ | (intro _) | (dsimp only) | (split) | (fail_if_no_progress apply State.Keeps.upd)


theorem State.readPass_keeps {s0 s : State} (g : GroupRun) 
    (hk : s0.Keeps s) : s0.Keeps (State.readPass s g) := by
  unfold State.readPass
  with_reducible repeat'
    first
      | assumption | apply State.readPlanes_keeps | apply State.readFaces_keeps | apply State.bulkRead_keeps
      | apply State.Keeps.ite | apply State.Keeps.foldl | apply State.Keeps.foldl₁ | (intro _) | (dsimp only)
      | (split) | (fail_if_no_progress apply State.Keeps.upd)


theorem State.endReface_keeps {s0 s : State} (m : Nat) (g : GroupRun) 
    (hk : s0.Keeps s) : s0.Keeps (State.endReface s m g) := by
  unfold State.endReface
  with_reducible repeat'
    first
      | assumption | apply State.sendFaces_keeps | apply State.readPass_keeps | apply State.modMason_keeps
      | apply State.Keeps.ite | apply State.Keeps.foldl | apply State.Keeps.foldl₁ | (intro _) | (dsimp only)
      | (split) | (fail_if_no_progress apply State.Keeps.upd)


theorem State.endCarry_keeps {s0 s : State} (m : Nat) (g : GroupRun) 
    (hk : s0.Keeps s) : s0.Keeps (State.endCarry s m g) := by
  unfold State.endCarry
  with_reducible repeat'
    first
      | assumption | apply State.writeCarry_keeps | apply State.readPass_keeps | apply State.modMason_keeps
      | apply State.modGroup_keeps | apply State.endGroups_keeps | apply State.sendFaces_keeps | apply State.Keeps.ite
      | apply State.Keeps.foldl | apply State.Keeps.foldl₁ | (intro _) | (dsimp only) | (split)
      | (fail_if_no_progress apply State.Keeps.upd)


theorem State.endRule_keeps {s0 s : State} (m : Nat) (g : GroupRun) 
    (hk : s0.Keeps s) : s0.Keeps (State.endRule s m g) := by
  unfold State.endRule
  with_reducible repeat'
    first
      | assumption | apply State.countNonfinite_keeps | apply State.writeRule_keeps | apply State.readPass_keeps
      | apply State.modGroup_keeps | apply State.sendFaces_keeps | apply State.Keeps.ite | apply State.Keeps.foldl
      | apply State.Keeps.foldl₁ | (intro _) | (dsimp only) | (split) | (fail_if_no_progress apply State.Keeps.upd)


theorem State.liftEnded_keeps {s0 s : State} (k : Cmd) 
    (hk : s0.Keeps s) : s0.Keeps (State.liftEnded s k) := by
  unfold State.liftEnded
  with_reducible repeat'
    first
      | assumption | apply State.complete_keeps | apply State.resetLedgers_keeps | apply State.modLiftRam_keeps
      | apply State.Keeps.ite | apply State.Keeps.foldl | apply State.Keeps.foldl₁ | (intro _) | (dsimp only)
      | (split) | (fail_if_no_progress apply State.Keeps.upd)


theorem State.onChan_keeps {s0 s : State} (c : Nat) (act : State → State) (hact : ∀ v, s0.Keeps v → s0.Keeps (act v))
    (hk : s0.Keeps s) : s0.Keeps (State.onChan s c act) := by
  unfold State.onChan
  with_reducible repeat'
    first
      | assumption | apply hact | apply State.Keeps.ite | apply State.Keeps.foldl | apply State.Keeps.foldl₁
      | (intro _) | (dsimp only) | (split) | (fail_if_no_progress apply State.Keeps.upd)


theorem State.modChan_keeps {s0 s : State} (k : Nat) (f : Chan → Chan) 
    (hk : s0.Keeps s) : s0.Keeps (State.modChan s k f) := by
  unfold State.modChan
  with_reducible repeat'
    first
      | assumption | apply State.Keeps.ite | apply State.Keeps.foldl | apply State.Keeps.foldl₁ | (intro _)
      | (dsimp only) | (split) | (fail_if_no_progress apply State.Keeps.upd)


theorem State.chanGoodRead_keeps {s0 s : State} (c : Nat) 
    (hk : s0.Keeps s) : s0.Keeps (State.chanGoodRead s c) := by
  unfold State.chanGoodRead
  with_reducible repeat'
    first
      | assumption | apply State.logAdd_keeps | apply State.modChan_keeps | apply State.Keeps.ite
      | apply State.Keeps.foldl | apply State.Keeps.foldl₁ | (intro _) | (dsimp only) | (split)
      | (fail_if_no_progress apply State.Keeps.upd)


theorem State.chanBadRead_keeps {s0 s : State} (c : Nat) (retry : Bool) 
    (hk : s0.Keeps s) : s0.Keeps (State.chanBadRead s c retry) := by
  unfold State.chanBadRead
  with_reducible repeat'
    first
      | assumption | apply State.logAdd_keeps | apply State.modChan_keeps | apply State.Keeps.ite
      | apply State.Keeps.foldl | apply State.Keeps.foldl₁ | (intro _) | (dsimp only) | (split)
      | (fail_if_no_progress apply State.Keeps.upd)


theorem State.retireChan_keeps {s0 s : State} (c : Nat) 
    (hk : s0.Keeps s) : s0.Keeps (State.retireChan s c) := by
  unfold State.retireChan
  with_reducible repeat'
    first
      | assumption | apply State.recordRetired_keeps | apply State.modChan_keeps | apply State.modMason_keeps
      | apply State.modLift_keeps | apply State.loseRegions_keeps | apply State.enterFailed_keeps
      | apply State.hold_keeps | apply State.loseRegions_keeps | apply State.Keeps.ite | apply State.Keeps.foldl
      | apply State.Keeps.foldl₁ | (intro _) | (dsimp only) | (split) | (fail_if_no_progress apply State.Keeps.upd)


theorem State.onPch_keeps {s0 s : State} (p : Nat) (act : State → State) (hact : ∀ v, s0.Keeps v → s0.Keeps (act v))
    (hk : s0.Keeps s) : s0.Keeps (State.onPch s p act) := by
  unfold State.onPch
  with_reducible repeat'
    first
      | assumption | apply hact | apply State.Keeps.ite | apply State.Keeps.foldl | apply State.Keeps.foldl₁
      | (intro _) | (dsimp only) | (split) | (fail_if_no_progress apply State.Keeps.upd)


theorem State.pchGoodRead_keeps {s0 s : State} (p : Nat) 
    (hk : s0.Keeps s) : s0.Keeps (State.pchGoodRead s p) := by
  unfold State.pchGoodRead
  with_reducible repeat'
    first
      | assumption | apply State.logAdd_keeps | apply State.modPch_keeps | apply State.Keeps.ite
      | apply State.Keeps.foldl | apply State.Keeps.foldl₁ | (intro _) | (dsimp only) | (split)
      | (fail_if_no_progress apply State.Keeps.upd)


theorem State.pchBadRead_keeps {s0 s : State} (p : Nat) (reread : Bool) 
    (hk : s0.Keeps s) : s0.Keeps (State.pchBadRead s p reread) := by
  unfold State.pchBadRead
  with_reducible repeat'
    first
      | assumption | apply State.logAdd_keeps | apply State.modPch_keeps | apply State.Keeps.ite
      | apply State.Keeps.foldl | apply State.Keeps.foldl₁ | (intro _) | (dsimp only) | (split)
      | (fail_if_no_progress apply State.Keeps.upd)


theorem State.pchRetrain_keeps {s0 s : State} (p : Nat) 
    (hk : s0.Keeps s) : s0.Keeps (State.pchRetrain s p) := by
  unfold State.pchRetrain
  with_reducible repeat'
    first
      | assumption | apply State.logAdd_keeps | apply State.modPch_keeps | apply State.Keeps.ite
      | apply State.Keeps.foldl | apply State.Keeps.foldl₁ | (intro _) | (dsimp only) | (split)
      | (fail_if_no_progress apply State.Keeps.upd)


theorem State.zeroWord_keeps {s0 s : State} (u : SramUnit) (place : SramPlace) (off : Nat) 
    (hk : s0.Keeps s) : s0.Keeps (State.zeroWord s u place off) := by
  unfold State.zeroWord
  with_reducible repeat'
    first
      | assumption | apply State.modRegs_keeps | apply State.modArr_keeps | apply State.Keeps.ite
      | apply State.Keeps.foldl | apply State.Keeps.foldl₁ | (intro _) | (dsimp only) | (split) | apply Mem.Ok.refl
      | apply Mem.Ok.write | apply Mem.Ok.writeList | apply Mem.Ok.zero | apply Mem.Ok.put | apply State.Keeps.updMem


theorem State.plumbReset_keeps {s0 s : State} (dom : BitVec 4) 
    (hk : s0.Keeps s) : s0.Keeps (State.plumbReset s dom) := by
  unfold State.plumbReset
  with_reducible repeat'
    first
      | assumption | apply State.wantDump_keeps | apply State.modPlb_keeps | apply State.Keeps.ite
      | apply State.Keeps.foldl | apply State.Keeps.foldl₁ | (intro _) | (dsimp only) | (split)
      | (fail_if_no_progress apply State.Keeps.upd)


theorem State.resetPort_keeps {s0 s : State} (p : Nat) 
    (hk : s0.Keeps s) : s0.Keeps (State.resetPort s p) := by
  unfold State.resetPort
  with_reducible repeat'
    first
      | assumption | apply State.modPort_keeps | apply State.Keeps.ite | apply State.Keeps.foldl
      | apply State.Keeps.foldl₁ | (intro _) | (dsimp only) | (split) | (fail_if_no_progress apply State.Keeps.upd)


theorem State.dueReset_keeps {s0 s : State} (f : BitVec 4 → Bool) 
    (hk : s0.Keeps s) : s0.Keeps (State.dueReset s f) := by
  unfold State.dueReset
  with_reducible repeat'
    first
      | assumption | apply State.doReset_keeps | apply State.modPlb_keeps | apply State.Keeps.ite
      | apply State.Keeps.foldl | apply State.Keeps.foldl₁ | (intro _) | (dsimp only) | (split)
      | (fail_if_no_progress apply State.Keeps.upd)


theorem State.captureDump_keeps {s0 s : State} (trigger : BitVec 4) 
    (hk : s0.Keeps s) : s0.Keeps (State.captureDump s trigger) := by
  unfold State.captureDump
  with_reducible repeat'
    first
      | assumption | apply State.useFrees_keeps | apply State.modPlb_keeps | apply State.useFrees_keeps
      | apply State.Keeps.ite | apply State.Keeps.foldl | apply State.Keeps.foldl₁ | (intro _) | (dsimp only)
      | (split) | (fail_if_no_progress apply State.Keeps.upd)


theorem State.flashWrite_keeps {s0 s : State} (off : Nat) (bs : List Byte) 
    (hk : s0.Keeps s) : s0.Keeps (State.flashWrite s off bs) := by
  unfold State.flashWrite
  with_reducible repeat'
    first
      | assumption | apply State.modStart_keeps | apply State.Keeps.ite | apply State.Keeps.foldl
      | apply State.Keeps.foldl₁ | (intro _) | (dsimp only) | (split) | (fail_if_no_progress apply State.Keeps.upd)


theorem State.commitDump_keeps {s0 s : State}  
    (hk : s0.Keeps s) : s0.Keeps (State.commitDump s) := by
  unfold State.commitDump
  with_reducible repeat'
    first
      | assumption | apply State.flashWrite_keeps | apply State.flashErase_keeps | apply State.modPlb_keeps
      | apply State.msixBoth_keeps | apply State.logOp_keeps | apply State.modJob_keeps | apply State.fastWrite_keeps
      | apply State.complete_keeps | apply State.Keeps.ite | apply State.Keeps.foldl | apply State.Keeps.foldl₁
      | (intro _) | (dsimp only) | (split) | (fail_if_no_progress apply State.Keeps.upd)


theorem State.stayUnset_keeps {s0 s : State} (reason : BitVec 4) 
    (hk : s0.Keeps s) : s0.Keeps (State.stayUnset s reason) := by
  unfold State.stayUnset
  with_reducible repeat'
    first
      | assumption | apply State.modStart_keeps | apply State.Keeps.ite | apply State.Keeps.foldl
      | apply State.Keeps.foldl₁ | (intro _) | (dsimp only) | (split) | (fail_if_no_progress apply State.Keeps.upd)


theorem State.startFirmware_keeps {s0 s : State}  
    (hk : s0.Keeps s) : s0.Keeps (State.startFirmware s) := by
  unfold State.startFirmware
  with_reducible repeat'
    first
      | assumption | apply State.stayUnset_keeps | apply State.modStart_keeps | apply State.Keeps.ite
      | apply State.Keeps.foldl | apply State.Keeps.foldl₁ | (intro _) | (dsimp only) | (split)
      | (fail_if_no_progress apply State.Keeps.upd)


theorem State.unwrapIdentity_keeps {s0 s : State} (pattern : List Byte) 
    (hk : s0.Keeps s) : s0.Keeps (State.unwrapIdentity s pattern) := by
  unfold State.unwrapIdentity
  with_reducible repeat'
    first
      | assumption | apply State.modStart_keeps | apply State.Keeps.ite | apply State.Keeps.foldl
      | apply State.Keeps.foldl₁ | (intro _) | (dsimp only) | (split) | (fail_if_no_progress apply State.Keeps.upd)


theorem State.countImage_keeps {s0 s : State} (v : ImgView) 
    (hk : s0.Keeps s) : s0.Keeps (State.countImage s v) := by
  unfold State.countImage
  with_reducible repeat'
    first
      | assumption | apply State.violateAll_keeps | apply State.Keeps.ite | apply State.Keeps.foldl
      | apply State.Keeps.foldl₁ | (intro _) | (dsimp only) | (split) | (fail_if_no_progress apply State.Keeps.upd)


theorem State.startImage_keeps {s0 s : State} (r : StepResult) 
    (hk : s0.Keeps s) : s0.Keeps (State.startImage s r) := by
  unfold State.startImage
  with_reducible repeat'
    first
      | assumption | apply State.modStart_keeps | apply State.unwrapIdentity_keeps | apply State.stayUnset_keeps
      | apply State.countImage_keeps | apply State.Keeps.ite | apply State.Keeps.foldl | apply State.Keeps.foldl₁
      | (intro _) | (dsimp only) | (split) | (fail_if_no_progress apply State.Keeps.upd)


theorem State.knownRetired_keeps {s0 s : State}  
    (hk : s0.Keeps s) : s0.Keeps (State.knownRetired s) := by
  unfold State.knownRetired
  with_reducible repeat'
    first
      | assumption | apply State.Keeps.ite | apply State.Keeps.foldl | apply State.Keeps.foldl₁ | (intro _)
      | (dsimp only) | (split) | (fail_if_no_progress apply State.Keeps.upd)


theorem State.recordBadCore_keeps {s0 s : State} (die : Nat) (grid : Nat) 
    (hk : s0.Keeps s) : s0.Keeps (State.recordBadCore s die grid) := by
  unfold State.recordBadCore
  with_reducible repeat'
    first
      | assumption | apply State.recordSpare_keeps | apply State.Keeps.ite | apply State.Keeps.foldl
      | apply State.Keeps.foldl₁ | (intro _) | (dsimp only) | (split) | (fail_if_no_progress apply State.Keeps.upd)


theorem State.testDies_keeps {s0 s : State} (bad : List (Nat × Nat)) 
    (hk : s0.Keeps s) : s0.Keeps (State.testDies s bad) := by
  unfold State.testDies
  with_reducible repeat'
    first
      | assumption | apply State.recordBadCore_keeps | apply State.Keeps.ite | apply State.Keeps.foldl
      | apply State.Keeps.foldl₁ | (intro _) | (dsimp only) | (split) | (fail_if_no_progress apply State.Keeps.upd)


theorem State.startDies_keeps {s0 s : State} (r : StepResult) 
    (hk : s0.Keeps s) : s0.Keeps (State.startDies s r) := by
  unfold State.startDies
  with_reducible repeat'
    first
      | assumption | apply State.knownRetired_keeps | apply State.testDies_keeps | apply State.zeroRegions_keeps
      | apply State.modStart_keeps | apply State.applySpares_keeps | apply State.zeroRegions_keeps
      | apply State.Keeps.ite | apply State.Keeps.foldl | apply State.Keeps.foldl₁ | (intro _) | (dsimp only)
      | (split) | (fail_if_no_progress apply State.Keeps.upd)


theorem State.writeTraining_keeps {s0 s : State}  
    (hk : s0.Keeps s) : s0.Keeps (State.writeTraining s) := by
  unfold State.writeTraining
  with_reducible repeat'
    first
      | assumption | apply State.flashWrite_keeps | apply State.flashErase_keeps | apply State.useFrees_keeps
      | apply State.useFrees_keeps | apply State.Keeps.ite | apply State.Keeps.foldl | apply State.Keeps.foldl₁
      | (intro _) | (dsimp only) | (split) | (fail_if_no_progress apply State.Keeps.upd)


theorem State.trainMemory_keeps {s0 s : State}  
    (hk : s0.Keeps s) : s0.Keeps (State.trainMemory s) := by
  unfold State.trainMemory
  with_reducible repeat'
    first
      | assumption | apply State.modStart_keeps | apply State.writeTraining_keeps | apply State.Keeps.ite
      | apply State.Keeps.foldl | apply State.Keeps.foldl₁ | (intro _) | (dsimp only) | (split)
      | (fail_if_no_progress apply State.Keeps.upd)


theorem State.startFast_keeps {s0 s : State} (r : StepResult) 
    (hk : s0.Keeps s) : s0.Keeps (State.startFast s r) := by
  unfold State.startFast
  with_reducible repeat'
    first
      | assumption | apply State.recordRetired_keeps | apply State.zeroRegions_keeps | apply State.enterFailed_keeps
      | apply State.zeroRegions_keeps | apply State.Keeps.ite | apply State.Keeps.foldl | apply State.Keeps.foldl₁
      | (intro _) | (dsimp only) | (split) | (fail_if_no_progress apply State.Keeps.upd)


theorem State.takeHeaders_keeps {s0 s : State}  
    (hk : s0.Keeps s) : s0.Keeps (State.takeHeaders s) := by
  unfold State.takeHeaders
  with_reducible repeat'
    first
      | assumption | apply State.Keeps.ite | apply State.Keeps.foldl | apply State.Keeps.foldl₁ | (intro _)
      | (dsimp only) | (split) | (fail_if_no_progress apply State.Keeps.upd)


theorem State.startSlow_keeps {s0 s : State} (r : StepResult) 
    (hk : s0.Keeps s) : s0.Keeps (State.startSlow s r) := by
  unfold State.startSlow
  with_reducible repeat'
    first
      | assumption | apply State.recordRetired_keeps | apply State.modChan_keeps | apply State.modMason_keeps
      | apply State.loseRegions_keeps | apply State.zeroRegions_keeps | apply State.takeHeaders_keeps
      | apply State.modLift_keeps | apply State.enterFailed_keeps | apply State.zeroRegions_keeps
      | apply State.loseRegions_keeps | apply State.Keeps.ite | apply State.Keeps.foldl | apply State.Keeps.foldl₁
      | (intro _) | (dsimp only) | (split) | (fail_if_no_progress apply State.Keeps.upd)


theorem State.standingFailure_keeps {s0 s : State}  
    (hk : s0.Keeps s) : s0.Keeps (State.standingFailure s) := by
  unfold State.standingFailure
  with_reducible repeat'
    first
      | assumption | apply State.modPlb_keeps | apply State.enterFailed_keeps | apply State.Keeps.ite
      | apply State.Keeps.foldl | apply State.Keeps.foldl₁ | (intro _) | (dsimp only) | (split)
      | (fail_if_no_progress apply State.Keeps.upd)


theorem State.startMemory_keeps {s0 s : State} (r : StepResult) 
    (hk : s0.Keeps s) : s0.Keeps (State.startMemory s r) := by
  unfold State.startMemory
  with_reducible repeat'
    first
      | assumption | apply State.trainMemory_keeps | apply State.resetLedgers_keeps | apply State.startFast_keeps
      | apply State.startSlow_keeps | apply State.standingFailure_keeps | apply State.modStart_keeps
      | apply State.startTraining_keeps | apply State.Keeps.ite | apply State.Keeps.foldl | apply State.Keeps.foldl₁
      | (intro _) | (dsimp only) | (split) | (fail_if_no_progress apply State.Keeps.upd)


theorem State.startSet_keeps {s0 s : State}  
    (hk : s0.Keeps s) : s0.Keeps (State.startSet s) := by
  unfold State.startSet
  with_reducible repeat'
    first
      | assumption | apply State.modStart_keeps | apply State.setMod_keeps | apply State.modPlb_keeps
      | apply State.hold_keeps | apply State.Keeps.ite | apply State.Keeps.foldl | apply State.Keeps.foldl₁
      | (intro _) | (dsimp only) | (split) | (fail_if_no_progress apply State.Keeps.upd)


theorem State.powerDown_keeps {s0 s : State} (hk : s0.Keeps s) : s0.Keeps (State.powerDown s) := by
  refine hk.trans ⟨rfl, Nat.le_refl _, Nat.le_succ _, List.prefix_rfl, fun _ => ?_⟩
  refine ⟨rfl, ?_⟩
  have := lostFold_le ((List.range 4).map slowRegion ++ packageRegions) (s.losses + 1) [] (fun p hp => absurd hp List.not_mem_nil)
  simp only [State.powerDown]
  exact this

theorem State.finishDump_keeps {s0 s : State}  
    (hk : s0.Keeps s) : s0.Keeps (State.finishDump s) := by
  unfold State.finishDump
  with_reducible repeat'
    first
      | assumption | apply State.captureDump_keeps | apply State.modPlb_keeps | apply State.commitDump_keeps
      | apply State.Keeps.ite | apply State.Keeps.foldl | apply State.Keeps.foldl₁ | (intro _) | (dsimp only)
      | (split) | (fail_if_no_progress apply State.Keeps.upd)


theorem State.orderlyOff_keeps {s0 s : State}  
    (hk : s0.Keeps s) : s0.Keeps (State.orderlyOff s) := by
  unfold State.orderlyOff
  with_reducible repeat'
    first
      | assumption | apply State.logAdd_keeps | apply State.powerDown_keeps | apply State.writeLog_keeps
      | apply State.finishDump_keeps | apply State.closeBypass_keeps | apply State.sendLeave_keeps
      | apply State.Keeps.ite | apply State.Keeps.foldl | apply State.Keeps.foldl₁ | (intro _) | (dsimp only)
      | (split) | (fail_if_no_progress apply State.Keeps.upd)


theorem State.setVin_keeps {s0 s : State} (vin : BitVec 16) 
    (hk : s0.Keeps s) : s0.Keeps (State.setVin s vin) := by
  unfold State.setVin
  with_reducible repeat'
    first
      | assumption | apply State.modPwr_keeps | apply State.Keeps.ite | apply State.Keeps.foldl
      | apply State.Keeps.foldl₁ | (intro _) | (dsimp only) | (split) | (fail_if_no_progress apply State.Keeps.upd)


theorem State.shedTo_keeps {s0 s : State} (p : BitVec 2) 
    (hk : s0.Keeps s) : s0.Keeps (State.shedTo s p) := by
  unfold State.shedTo
  with_reducible repeat'
    first
      | assumption | apply State.modPwr_keeps | apply State.Keeps.ite | apply State.Keeps.foldl
      | apply State.Keeps.foldl₁ | (intro _) | (dsimp only) | (split) | (fail_if_no_progress apply State.Keeps.upd)


theorem State.limitLinks_keeps {s0 s : State} (on : Bool) 
    (hk : s0.Keeps s) : s0.Keeps (State.limitLinks s on) := by
  unfold State.limitLinks
  with_reducible repeat'
    first
      | assumption | apply State.rewidth_keeps | apply State.modLink_keeps | apply State.Keeps.ite
      | apply State.Keeps.foldl | apply State.Keeps.foldl₁ | (intro _) | (dsimp only) | (split)
      | (fail_if_no_progress apply State.Keeps.upd)


theorem State.parkCore_keeps {s0 s : State} (c : Nat) 
    (hk : s0.Keeps s) : s0.Keeps (State.parkCore s c) := by
  unfold State.parkCore
  with_reducible repeat'
    first
      | assumption | apply State.withdraw_keeps | apply State.parkSave_keeps | apply State.modRun_keeps
      | apply State.Keeps.ite | apply State.Keeps.foldl | apply State.Keeps.foldl₁ | (intro _) | (dsimp only)
      | (split) | (fail_if_no_progress apply State.Keeps.upd)


theorem State.park_keeps {s0 s : State} (g : Nat) 
    (hk : s0.Keeps s) : s0.Keeps (State.park s g) := by
  unfold State.park
  with_reducible repeat'
    first
      | assumption | apply State.modJob_keeps | apply State.parkCore_keeps | apply State.Keeps.ite
      | apply State.Keeps.foldl | apply State.Keeps.foldl₁ | (intro _) | (dsimp only) | (split)
      | (fail_if_no_progress apply State.Keeps.upd)


theorem State.shedStop_keeps {s0 s : State}  
    (hk : s0.Keeps s) : s0.Keeps (State.shedStop s) := by
  unfold State.shedStop
  with_reducible repeat'
    first
      | assumption | apply State.abortUpd_keeps | apply State.beginStop_keeps | apply State.Keeps.ite
      | apply State.Keeps.foldl | apply State.Keeps.foldl₁ | (intro _) | (dsimp only) | (split)
      | (fail_if_no_progress apply State.Keeps.upd)


theorem State.enterStep_keeps {s0 s : State} (n : Nat) 
    (hk : s0.Keeps s) : s0.Keeps (State.enterStep s n) := by
  unfold State.enterStep
  with_reducible repeat'
    first
      | assumption | apply State.shedTo_keeps | apply State.modArr_keeps | apply State.limitLinks_keeps
      | apply State.park_keeps | apply State.hold_keeps | apply State.modPort_keeps | apply State.shedStop_keeps
      | apply State.writeLog_keeps | apply State.wantDump_keeps | apply State.modMsn_keeps | apply State.Keeps.ite
      | apply State.Keeps.foldl | apply State.Keeps.foldl₁ | (intro _) | (dsimp only) | (split)
      | (fail_if_no_progress apply State.Keeps.upd)


theorem State.noteStep_keeps {s0 s : State} (n : Nat) 
    (hk : s0.Keeps s) : s0.Keeps (State.noteStep s n) := by
  unfold State.noteStep
  with_reducible repeat'
    first
      | assumption | apply State.modPwr_keeps | apply State.msixBoth_keeps | apply State.logAdd_keeps
      | apply State.Keeps.ite | apply State.Keeps.foldl | apply State.Keeps.foldl₁ | (intro _) | (dsimp only)
      | (split) | (fail_if_no_progress apply State.Keeps.upd)


theorem State.reissue_keeps {s0 s : State} (c : Nat) (t : Nat) 
    (hk : s0.Keeps s) : s0.Keeps (State.reissue s c t) := by
  unfold State.reissue
  with_reducible repeat'
    first
      | assumption | apply State.register_keeps | apply State.unblock_keeps | apply State.post_keeps
      | apply State.Keeps.ite | apply State.Keeps.foldl | apply State.Keeps.foldl₁ | (intro _) | (dsimp only)
      | (split) | (fail_if_no_progress apply State.Keeps.upd)


theorem State.unparkCore_keeps {s0 s : State} (c : Nat) 
    (hk : s0.Keeps s) : s0.Keeps (State.unparkCore s c) := by
  unfold State.unparkCore
  with_reducible repeat'
    first
      | assumption | apply State.reissue_keeps | apply State.endPark_keeps | apply State.Keeps.ite
      | apply State.Keeps.foldl | apply State.Keeps.foldl₁ | (intro _) | (dsimp only) | (split)
      | (fail_if_no_progress apply State.Keeps.upd)


theorem State.unpark_keeps {s0 s : State}  
    (hk : s0.Keeps s) : s0.Keeps (State.unpark s) := by
  unfold State.unpark
  with_reducible repeat'
    first
      | assumption | apply State.modJob_keeps | apply State.unparkCore_keeps | apply State.Keeps.ite
      | apply State.Keeps.foldl | apply State.Keeps.foldl₁ | (intro _) | (dsimp only) | (split)
      | (fail_if_no_progress apply State.Keeps.upd)


theorem State.endShedHold_keeps {s0 s : State}  
    (hk : s0.Keeps s) : s0.Keeps (State.endShedHold s) := by
  unfold State.endShedHold
  with_reducible repeat'
    first
      | assumption | apply State.modJob_keeps | apply State.setMod_keeps | apply State.Keeps.ite
      | apply State.Keeps.foldl | apply State.Keeps.foldl₁ | (intro _) | (dsimp only) | (split)
      | (fail_if_no_progress apply State.Keeps.upd)


theorem State.leaveStep_keeps {s0 s : State} (n : Nat) 
    (hk : s0.Keeps s) : s0.Keeps (State.leaveStep s n) := by
  unfold State.leaveStep
  with_reducible repeat'
    first
      | assumption | apply State.shedTo_keeps | apply State.faceGets_keeps | apply State.limitLinks_keeps
      | apply State.unpark_keeps | apply State.endShedHold_keeps | apply State.modPort_keeps
      | apply State.modMsn_keeps | apply State.Keeps.ite | apply State.Keeps.foldl | apply State.Keeps.foldl₁
      | (intro _) | (dsimp only) | (split) | (fail_if_no_progress apply State.Keeps.upd)


theorem State.readRails_keeps {s0 s : State} (rails : List (BitVec 16 × BitVec 16)) (clu : List (BitVec 16)) 
    (hk : s0.Keeps s) : s0.Keeps (State.readRails s rails clu) := by
  unfold State.readRails
  with_reducible repeat'
    first
      | assumption | apply State.modPlb_keeps | apply State.Keeps.ite | apply State.Keeps.foldl
      | apply State.Keeps.foldl₁ | (intro _) | (dsimp only) | (split) | (fail_if_no_progress apply State.Keeps.upd)


theorem State.throttle_keeps {s0 s : State} (hbm : Bool) 
    (hk : s0.Keeps s) : s0.Keeps (State.throttle s hbm) := by
  unfold State.throttle
  with_reducible repeat'
    first
      | assumption | apply State.modPwr_keeps | apply State.Keeps.ite | apply State.Keeps.foldl
      | apply State.Keeps.foldl₁ | (intro _) | (dsimp only) | (split) | (fail_if_no_progress apply State.Keeps.upd)


theorem State.countBands_keeps {s0 s : State}  
    (hk : s0.Keeps s) : s0.Keeps (State.countBands s) := by
  unfold State.countBands
  with_reducible repeat'
    first
      | assumption | apply State.logAdd_keeps | apply State.Keeps.ite | apply State.Keeps.foldl
      | apply State.Keeps.foldl₁ | (intro _) | (dsimp only) | (split) | (fail_if_no_progress apply State.Keeps.upd)


theorem State.eraseHeader_keeps {s0 s : State}  
    (hk : s0.Keeps s) : s0.Keeps (State.eraseHeader s) := by
  unfold State.eraseHeader
  with_reducible repeat'
    first
      | assumption | apply State.eraseSlot_keeps | apply State.Keeps.ite | apply State.Keeps.foldl
      | apply State.Keeps.foldl₁ | (intro _) | (dsimp only) | (split) | (fail_if_no_progress apply State.Keeps.upd)


theorem State.finishWrite_keeps {s0 s : State} (chunk : Nat) (n : Nat) 
    (hk : s0.Keeps s) : s0.Keeps (State.finishWrite s chunk n) := by
  unfold State.finishWrite
  with_reducible repeat'
    first
      | assumption | apply State.modUpd_keeps | apply State.flashWrite_keeps | apply State.Keeps.ite
      | apply State.Keeps.foldl | apply State.Keeps.foldl₁ | (intro _) | (dsimp only) | (split)
      | (fail_if_no_progress apply State.Keeps.upd)


theorem State.finishVerify_keeps {s0 s : State}  
    (hk : s0.Keeps s) : s0.Keeps (State.finishVerify s) := by
  unfold State.finishVerify
  with_reducible repeat'
    first
      | assumption | apply State.modUpd_keeps | apply State.eraseHeader_keeps | apply State.Keeps.ite
      | apply State.Keeps.foldl | apply State.Keeps.foldl₁ | (intro _) | (dsimp only) | (split)
      | (fail_if_no_progress apply State.Keeps.upd)


theorem State.advanceCt_keeps {s0 s : State} (c : Nat) (ct : BitVec 18) 
    (hk : s0.Keeps s) : s0.Keeps (State.advanceCt s c ct) := by
  unfold State.advanceCt
  with_reducible repeat'
    first
      | assumption | apply State.addKey_keeps | apply State.Keeps.ite | apply State.Keeps.foldl
      | apply State.Keeps.foldl₁ | (intro _) | (dsimp only) | (split) | (fail_if_no_progress apply State.Keeps.upd)

end Sys2Proof.Machine
end

