-- ==== Sys2Proof/Laws/KeepsExec.lean ====
section
/-! SUPPORT. The meaning of every command keeps what no command may break (Laws/Keeps.lean): one lemma for each
meaning. -/

set_option linter.unusedTactic false
set_option linter.unreachableTactic false

namespace Sys2Proof.Machine

theorem execAwld_keeps {s0 s s1 : State} (c : CoreId) (t : StrandId) (w : AwldWord) (sh : Shape)
    (hk : s0.Keeps s) (hs : execAwld c t w sh s = .next s1) : s0.Keeps s1 := by
  unfold execAwld at hs
  injection hs with hs
  subst hs
  with_reducible repeat'
    first
      | assumption | apply State.issue_keeps | apply State.countShape_keeps | apply State.retire_keeps
      | apply State.modArr_keeps | apply State.Keeps.ite | apply State.Keeps.foldl | apply State.Keeps.foldl₁
      | (intro _) | (dsimp only) | (split) | (fail_if_no_progress apply State.Keeps.upd)


theorem execAflip_keeps {s0 s s1 : State} (c : CoreId) (t : StrandId) (w : AflipWord)
    (hk : s0.Keeps s) (hs : execAflip c t w s = .next s1) : s0.Keeps s1 := by
  unfold execAflip at hs
  injection hs with hs
  subst hs
  with_reducible repeat'
    first
      | assumption | apply State.issue_keeps | apply State.retire_keeps | apply State.modArr_keeps
      | apply State.Keeps.ite | apply State.Keeps.foldl | apply State.Keeps.foldl₁ | (intro _) | (dsimp only)
      | (split) | (fail_if_no_progress apply State.Keeps.upd)


theorem execAflipTakesEffect_keeps {s0 s s1 : State} (c : CoreId) (arr : Fin 4)
    (hk : s0.Keeps s) (hs : execAflipTakesEffect c arr s = .next s1) : s0.Keeps s1 := by
  unfold execAflipTakesEffect at hs
  injection hs with hs
  subst hs
  with_reducible repeat'
    first
      | assumption | apply State.modArr_keeps | apply State.Keeps.ite | apply State.Keeps.foldl
      | apply State.Keeps.foldl₁ | (intro _) | (dsimp only) | (split) | (fail_if_no_progress apply State.Keeps.upd)


theorem execAmm_keeps {s0 s s1 : State} (c : CoreId) (t : StrandId) (w : AmmWord) (sh : Shape)
    (hk : s0.Keeps s) (hs : execAmm c t w sh s = .next s1) : s0.Keeps s1 := by
  unfold execAmm at hs
  injection hs with hs
  subst hs
  with_reducible repeat'
    first
      | assumption | apply State.issue_keeps | apply State.countShape_keeps | apply State.retire_keeps
      | apply State.modArr_keeps | apply State.Keeps.ite | apply State.Keeps.foldl | apply State.Keeps.foldl₁
      | (intro _) | (dsimp only) | (split) | (fail_if_no_progress apply State.Keeps.upd)


theorem execAmmStart_keeps {s0 s s1 : State} (c : CoreId) (pos : Nat)
    (hk : s0.Keeps s) (hs : execAmmStart c pos s = .next s1) : s0.Keeps s1 := by
  unfold execAmmStart at hs
  injection hs with hs
  subst hs
  with_reducible repeat'
    first
      | assumption | apply State.misfitIf_keeps | apply State.modArr_keeps | apply State.Keeps.ite
      | apply State.Keeps.foldl | apply State.Keeps.foldl₁ | (intro _) | (dsimp only) | (split)
      | (fail_if_no_progress apply State.Keeps.upd)


theorem execAmmRowWritten_keeps {s0 s s1 : State} (c : CoreId) (pos : Nat)
    (hk : s0.Keeps s) (hs : execAmmRowWritten c pos s = .next s1) : s0.Keeps s1 := by
  unfold execAmmRowWritten at hs
  injection hs with hs
  subst hs
  with_reducible repeat'
    first
      | assumption | apply State.parkSave_keeps | apply State.modArr_keeps | apply State.Keeps.ite
      | apply State.Keeps.foldl | apply State.Keeps.foldl₁ | (intro _) | (dsimp only) | (split)
      | (fail_if_no_progress apply State.Keeps.upd)


theorem execAbrd_keeps {s0 s s1 : State} (c : CoreId) (t : StrandId) (w : AbrdWord)
    (hk : s0.Keeps s) (hs : execAbrd c t w s = .next s1) : s0.Keeps s1 := by
  unfold execAbrd at hs
  injection hs with hs
  subst hs
  with_reducible repeat'
    first
      | assumption | apply State.issue_keeps | apply State.retire_keeps | apply State.modArr_keeps
      | apply State.Keeps.ite | apply State.Keeps.foldl | apply State.Keeps.foldl₁ | (intro _) | (dsimp only)
      | (split) | (fail_if_no_progress apply State.Keeps.upd)


theorem execAbrdStart_keeps {s0 s s1 : State} (c : CoreId)
    (hk : s0.Keeps s) (hs : execAbrdStart c s = .next s1) : s0.Keeps s1 := by
  unfold execAbrdStart at hs
  injection hs with hs
  subst hs
  with_reducible repeat'
    first
      | assumption | apply State.modArr_keeps | apply State.noteConv_keeps | apply State.modRegs_keeps
      | apply State.Keeps.ite | apply State.Keeps.foldl | apply State.Keeps.foldl₁ | (intro _) | (dsimp only)
      | (split) | (fail_if_no_progress apply State.Keeps.upd)


theorem execLatchParityError_keeps {s0 s s1 : State} (c : CoreId) (arr : Fin 4) (half : Fin 2)
    (hk : s0.Keeps s) (hs : execLatchParityError c arr half s = .next s1) : s0.Keeps s1 := by
  unfold execLatchParityError at hs
  injection hs with hs
  subst hs
  with_reducible repeat'
    first
      | assumption | apply State.modArr_keeps | apply State.Keeps.ite | apply State.Keeps.foldl
      | apply State.Keeps.foldl₁ | (intro _) | (dsimp only) | (split) | (fail_if_no_progress apply State.Keeps.upd)


theorem execLatchRetryDone_keeps {s0 s s1 : State} (c : CoreId) (pos : Nat)
    (hk : s0.Keeps s) (hs : execLatchRetryDone c pos s = .next s1) : s0.Keeps s1 := by
  unfold execLatchRetryDone at hs
  injection hs with hs
  subst hs
  with_reducible repeat'
    first
      | assumption | apply State.parkSave_keeps | apply State.modArr_keeps | apply State.freeColumns_keeps
      | apply State.modRun_keeps | apply State.Keeps.ite | apply State.Keeps.foldl | apply State.Keeps.foldl₁
      | (intro _) | (dsimp only) | (split) | (fail_if_no_progress apply State.Keeps.upd)


theorem execFillerWindowExpiry_keeps {s0 s s1 : State} (c : CoreId) (arr : Fin 4)
    (hk : s0.Keeps s) (hs : execFillerWindowExpiry c arr s = .next s1) : s0.Keeps s1 := by
  unfold execFillerWindowExpiry at hs
  injection hs with hs
  subst hs
  with_reducible repeat'
    first
      | assumption | apply State.modArr_keeps | apply State.Keeps.ite | apply State.Keeps.foldl
      | apply State.Keeps.foldl₁ | (intro _) | (dsimp only) | (split) | (fail_if_no_progress apply State.Keeps.upd)


theorem execFillerRampStep_keeps {s0 s s1 : State} (c : CoreId) (arr : Fin 4)
    (hk : s0.Keeps s) (hs : execFillerRampStep c arr s = .next s1) : s0.Keeps s1 := by
  unfold execFillerRampStep at hs
  injection hs with hs
  subst hs
  with_reducible repeat'
    first
      | assumption | apply State.modArr_keeps | apply State.Keeps.ite | apply State.Keeps.foldl
      | apply State.Keeps.foldl₁ | (intro _) | (dsimp only) | (split) | (fail_if_no_progress apply State.Keeps.upd)


theorem execGetVersion_keeps {s0 s s1 : State} (path : RegPath) (req : List Byte)
    (hk : s0.Keeps s) (hs : execGetVersion path req s = .next s1) : s0.Keeps s1 := by
  unfold execGetVersion at hs
  injection hs with hs
  subst hs
  with_reducible repeat'
    first
      | assumption | apply State.spdmWhen_keeps | apply State.spdm_keeps | apply State.modStart_keeps
      | apply State.Keeps.ite | apply State.Keeps.foldl | apply State.Keeps.foldl₁ | (intro _) | (dsimp only)
      | (split) | (fail_if_no_progress apply State.Keeps.upd)


theorem execGetCapabilities_keeps {s0 s s1 : State} (path : RegPath) (req : List Byte)
    (hk : s0.Keeps s) (hs : execGetCapabilities path req s = .next s1) : s0.Keeps s1 := by
  unfold execGetCapabilities at hs
  injection hs with hs
  subst hs
  with_reducible repeat'
    first
      | assumption | apply State.spdmWhen_keeps | apply State.spdm_keeps | apply State.modStart_keeps
      | apply State.Keeps.ite | apply State.Keeps.foldl | apply State.Keeps.foldl₁ | (intro _) | (dsimp only)
      | (split) | (fail_if_no_progress apply State.Keeps.upd)


theorem execNegotiateAlgorithms_keeps {s0 s s1 : State} (path : RegPath) (req : List Byte)
    (hk : s0.Keeps s) (hs : execNegotiateAlgorithms path req s = .next s1) : s0.Keeps s1 := by
  unfold execNegotiateAlgorithms at hs
  injection hs with hs
  subst hs
  with_reducible repeat'
    first
      | assumption | apply State.spdmWhen_keeps | apply State.spdm_keeps | apply State.modStart_keeps
      | apply State.Keeps.ite | apply State.Keeps.foldl | apply State.Keeps.foldl₁ | (intro _) | (dsimp only)
      | (split) | (fail_if_no_progress apply State.Keeps.upd)


theorem execGetDigests_keeps {s0 s s1 : State} (path : RegPath) (req : List Byte)
    (hk : s0.Keeps s) (hs : execGetDigests path req s = .next s1) : s0.Keeps s1 := by
  unfold execGetDigests at hs
  injection hs with hs
  subst hs
  with_reducible repeat'
    first
      | assumption | apply State.spdmWhen_keeps | apply State.spdm_keeps | apply State.Keeps.ite
      | apply State.Keeps.foldl | apply State.Keeps.foldl₁ | (intro _) | (dsimp only) | (split)
      | (fail_if_no_progress apply State.Keeps.upd)


theorem execGetCertificate_keeps {s0 s s1 : State} (path : RegPath) (req : List Byte)
    (hk : s0.Keeps s) (hs : execGetCertificate path req s = .next s1) : s0.Keeps s1 := by
  unfold execGetCertificate at hs
  injection hs with hs
  subst hs
  with_reducible repeat'
    first
      | assumption | apply State.spdmWhen_keeps | apply State.spdm_keeps | apply State.Keeps.ite
      | apply State.Keeps.foldl | apply State.Keeps.foldl₁ | (intro _) | (dsimp only) | (split)
      | (fail_if_no_progress apply State.Keeps.upd)


theorem execChallenge_keeps {s0 s s1 : State} (path : RegPath) (req : List Byte)
    (hk : s0.Keeps s) (hs : execChallenge path req s = .next s1) : s0.Keeps s1 := by
  unfold execChallenge at hs
  injection hs with hs
  subst hs
  with_reducible repeat'
    first
      | assumption | apply State.spdmWhen_keeps | apply State.withIdentity_keeps | apply State.spdmSigned_keeps
      | apply State.Keeps.ite | apply State.Keeps.foldl | apply State.Keeps.foldl₁ | (intro _) | (dsimp only)
      | (split) | (fail_if_no_progress apply State.Keeps.upd)


theorem execGetMeasurements_keeps {s0 s s1 : State} (path : RegPath) (req : List Byte)
    (hk : s0.Keeps s) (hs : execGetMeasurements path req s = .next s1) : s0.Keeps s1 := by
  unfold execGetMeasurements at hs
  injection hs with hs
  subst hs
  with_reducible repeat'
    first
      | assumption | apply State.spdmWhen_keeps | apply State.withIdentity_keeps | apply State.spdmSigned_keeps
      | apply State.spdm_keeps | apply State.Keeps.ite | apply State.Keeps.foldl | apply State.Keeps.foldl₁
      | (intro _) | (dsimp only) | (split) | (fail_if_no_progress apply State.Keeps.upd)


theorem execPldmRequest_keeps {s0 s s1 : State} (path : RegPath) (req : PldmReq)
    (hk : s0.Keeps s) (hs : execPldmRequest path req s = .next s1) : s0.Keeps s1 := by
  unfold execPldmRequest at hs
  injection hs with hs
  subst hs
  with_reducible repeat'
    first
      | assumption | apply State.pldm_keeps | apply State.pldmBase_keeps | apply State.pldmUpd_keeps
      | apply State.updCtrl_keeps | apply State.updBegin_keeps | apply State.bufWrite_keeps
      | apply State.updWrite_keeps | apply State.ownerReq_keeps | apply State.startReq_keeps
      | apply State.updAbort_keeps | apply State.Keeps.ite | apply State.Keeps.foldl | apply State.Keeps.foldl₁
      | (intro _) | (dsimp only) | (split) | (fail_if_no_progress apply State.Keeps.upd)


theorem execSmbusAlertResponse_keeps {s0 s s1 : State} 
    (hk : s0.Keeps s) (hs : execSmbusAlertResponse s = .next s1) : s0.Keeps s1 := by
  unfold execSmbusAlertResponse at hs
  injection hs with hs
  subst hs
  with_reducible repeat'
    first
      | assumption | apply State.emit_keeps | apply State.emit_keeps | apply State.Keeps.ite | apply State.Keeps.foldl
      | apply State.Keeps.foldl₁ | (intro _) | (dsimp only) | (split) | (fail_if_no_progress apply State.Keeps.upd)


theorem execEnumFrame_keeps {s0 s s1 : State} (f : Frame) (crcOk : Bool)
    (hk : s0.Keeps s) (hs : execEnumFrame f crcOk s = .next s1) : s0.Keeps s1 := by
  unfold execEnumFrame at hs
  injection hs with hs
  subst hs
  with_reducible repeat'
    first
      | assumption | apply State.takeDown_keeps | apply State.modChain_keeps | apply State.afterAbsence_keeps
      | apply State.takeChainAddr_keeps | apply State.sendUp_keeps | apply State.passDown_keeps
      | apply State.Keeps.ite | apply State.Keeps.foldl | apply State.Keeps.foldl₁ | (intro _) | (dsimp only)
      | (split) | (fail_if_no_progress apply State.Keeps.upd)


theorem execEnumDone_keeps {s0 s s1 : State} (f : Frame) (crcOk : Bool)
    (hk : s0.Keeps s) (hs : execEnumDone f crcOk s = .next s1) : s0.Keeps s1 := by
  unfold execEnumDone at hs
  injection hs with hs
  subst hs
  with_reducible repeat'
    first
      | assumption | apply State.takeUp_keeps | apply State.sendDown_keeps | apply State.enumerated_keeps
      | apply State.Keeps.ite | apply State.Keeps.foldl | apply State.Keeps.foldl₁ | (intro _) | (dsimp only)
      | (split) | (fail_if_no_progress apply State.Keeps.upd)


theorem execReenumFrame_keeps {s0 s s1 : State} (f : Frame) (crcOk : Bool)
    (hk : s0.Keeps s) (hs : execReenumFrame f crcOk s = .next s1) : s0.Keeps s1 := by
  unfold execReenumFrame at hs
  injection hs with hs
  subst hs
  with_reducible repeat'
    first
      | assumption | apply State.takeFrame_keeps | apply State.startEnumeration_keeps
      | apply State.dropAddresses_keeps | apply State.sendDown_keeps | apply State.ackFrame_keeps
      | apply State.takeDown_keeps | apply State.passDown_keeps | apply State.Keeps.ite | apply State.Keeps.foldl
      | apply State.Keeps.foldl₁ | (intro _) | (dsimp only) | (split) | (fail_if_no_progress apply State.Keeps.upd)


theorem execJoinReq_keeps {s0 s s1 : State} (f : Frame) (crcOk : Bool)
    (hk : s0.Keeps s) (hs : execJoinReq f crcOk s = .next s1) : s0.Keeps s1 := by
  unfold execJoinReq at hs
  injection hs with hs
  subst hs
  with_reducible repeat'
    first
      | assumption | apply State.takeUp_keeps | apply State.sendDown_keeps | apply State.modChain_keeps
      | apply State.afterAbsence_keeps | apply State.Keeps.ite | apply State.Keeps.foldl | apply State.Keeps.foldl₁
      | (intro _) | (dsimp only) | (split) | (fail_if_no_progress apply State.Keeps.upd)


theorem execJoinGrant_keeps {s0 s s1 : State} (f : Frame) (crcOk : Bool)
    (hk : s0.Keeps s) (hs : execJoinGrant f crcOk s = .next s1) : s0.Keeps s1 := by
  unfold execJoinGrant at hs
  injection hs with hs
  subst hs
  with_reducible repeat'
    first
      | assumption | apply State.takeDown_keeps | apply State.passDown_keeps | apply State.modChain_keeps
      | apply State.takeChainAddr_keeps | apply State.Keeps.ite | apply State.Keeps.foldl | apply State.Keeps.foldl₁
      | (intro _) | (dsimp only) | (split) | (fail_if_no_progress apply State.Keeps.upd)


theorem execJoinedFrame_keeps {s0 s s1 : State} (f : Frame) (crcOk : Bool)
    (hk : s0.Keeps s) (hs : execJoinedFrame f crcOk s = .next s1) : s0.Keeps s1 := by
  unfold execJoinedFrame at hs
  injection hs with hs
  subst hs
  with_reducible repeat'
    first
      | assumption | apply State.takeDown_keeps | apply State.passDown_keeps | apply State.afterAbsence_keeps
      | apply State.modChain_keeps | apply State.Keeps.ite | apply State.Keeps.foldl | apply State.Keeps.foldl₁
      | (intro _) | (dsimp only) | (split) | (fail_if_no_progress apply State.Keeps.upd)


theorem execLeaveFrame_keeps {s0 s s1 : State} (f : Frame) (crcOk : Bool)
    (hk : s0.Keeps s) (hs : execLeaveFrame f crcOk s = .next s1) : s0.Keeps s1 := by
  unfold execLeaveFrame at hs
  injection hs with hs
  subst hs
  with_reducible repeat'
    first
      | assumption | apply State.takeUp_keeps | apply State.broadcastAbsent_keeps | apply State.Keeps.ite
      | apply State.Keeps.foldl | apply State.Keeps.foldl₁ | (intro _) | (dsimp only) | (split)
      | (fail_if_no_progress apply State.Keeps.upd)


theorem execAbsentFrame_keeps {s0 s s1 : State} (f : Frame) (crcOk : Bool)
    (hk : s0.Keeps s) (hs : execAbsentFrame f crcOk s = .next s1) : s0.Keeps s1 := by
  unfold execAbsentFrame at hs
  injection hs with hs
  subst hs
  with_reducible repeat'
    first
      | assumption | apply State.takeDown_keeps | apply State.passDown_keeps | apply State.afterAbsence_keeps
      | apply State.modChain_keeps | apply State.Keeps.ite | apply State.Keeps.foldl | apply State.Keeps.foldl₁
      | (intro _) | (dsimp only) | (split) | (fail_if_no_progress apply State.Keeps.upd)


theorem execTopoFrame_keeps {s0 s s1 : State} (f : Frame) (crcOk : Bool)
    (hk : s0.Keeps s) (hs : execTopoFrame f crcOk s = .next s1) : s0.Keeps s1 := by
  unfold execTopoFrame at hs
  injection hs with hs
  subst hs
  with_reducible repeat'
    first
      | assumption | apply State.takeUp_keeps | apply State.headTopo_keeps | apply State.takeDown_keeps
      | apply State.noteTopo_keeps | apply State.passDown_keeps | apply State.Keeps.ite | apply State.Keeps.foldl
      | apply State.Keeps.foldl₁ | (intro _) | (dsimp only) | (split) | (fail_if_no_progress apply State.Keeps.upd)


theorem execCensusFrame_keeps {s0 s s1 : State} (f : Frame) (crcOk : Bool)
    (hk : s0.Keeps s) (hs : execCensusFrame f crcOk s = .next s1) : s0.Keeps s1 := by
  unfold execCensusFrame at hs
  injection hs with hs
  subst hs
  with_reducible repeat'
    first
      | assumption | apply State.takeDown_keeps | apply State.passDown_keeps | apply State.sendUp_keeps
      | apply State.Keeps.ite | apply State.Keeps.foldl | apply State.Keeps.foldl₁ | (intro _) | (dsimp only)
      | (split) | (fail_if_no_progress apply State.Keeps.upd)


theorem execHereFrame_keeps {s0 s s1 : State} (f : Frame) (crcOk : Bool)
    (hk : s0.Keeps s) (hs : execHereFrame f crcOk s = .next s1) : s0.Keeps s1 := by
  unfold execHereFrame at hs
  injection hs with hs
  subst hs
  with_reducible repeat'
    first
      | assumption | apply State.takeUp_keeps | apply State.modChain_keeps | apply State.Keeps.ite
      | apply State.Keeps.foldl | apply State.Keeps.foldl₁ | (intro _) | (dsimp only) | (split)
      | (fail_if_no_progress apply State.Keeps.upd)


theorem execCensusEnd_keeps {s0 s s1 : State} 
    (hk : s0.Keeps s) (hs : execCensusEnd s = .next s1) : s0.Keeps s1 := by
  unfold execCensusEnd at hs
  injection hs with hs
  subst hs
  with_reducible repeat'
    first
      | assumption | apply State.broadcastAbsent_keeps | apply State.modChain_keeps | apply State.Keeps.ite
      | apply State.Keeps.foldl | apply State.Keeps.foldl₁ | (intro _) | (dsimp only) | (split)
      | (fail_if_no_progress apply State.Keeps.upd)


theorem execChainAck_keeps {s0 s s1 : State} (f : Frame) (crcOk : Bool)
    (hk : s0.Keeps s) (hs : execChainAck f crcOk s = .next s1) : s0.Keeps s1 := by
  unfold execChainAck at hs
  injection hs with hs
  subst hs
  with_reducible repeat'
    first
      | assumption | apply State.takeDown_keeps | apply State.passDown_keeps | apply State.modChain_keeps
      | apply State.Keeps.ite | apply State.Keeps.foldl | apply State.Keeps.foldl₁ | (intro _) | (dsimp only)
      | (split) | (fail_if_no_progress apply State.Keeps.upd)


theorem execFrameResend_keeps {s0 s s1 : State} (ty : BitVec 4)
    (hk : s0.Keeps s) (hs : execFrameResend ty s = .next s1) : s0.Keeps s1 := by
  unfold execFrameResend at hs
  injection hs with hs
  subst hs
  with_reducible repeat'
    first
      | assumption | apply State.joinLate_keeps | apply State.resendFrames_keeps | apply State.Keeps.ite
      | apply State.Keeps.foldl | apply State.Keeps.foldl₁ | (intro _) | (dsimp only) | (split)
      | (fail_if_no_progress apply State.Keeps.upd)


theorem execDelayPassTimer_keeps {s0 s s1 : State} 
    (hk : s0.Keeps s) (hs : execDelayPassTimer s = .next s1) : s0.Keeps s1 := by
  unfold execDelayPassTimer at hs
  injection hs with hs
  subst hs
  with_reducible repeat'
    first
      | assumption | apply State.setDelay_keeps | apply State.sendDown_keeps | apply State.Keeps.ite
      | apply State.Keeps.foldl | apply State.Keeps.foldl₁ | (intro _) | (dsimp only) | (split)
      | (fail_if_no_progress apply State.Keeps.upd)


theorem execDelayFrame_keeps {s0 s s1 : State} (f : Frame) (crcOk : Bool)
    (hk : s0.Keeps s) (hs : execDelayFrame f crcOk s = .next s1) : s0.Keeps s1 := by
  unfold execDelayFrame at hs
  injection hs with hs
  subst hs
  with_reducible repeat'
    first
      | assumption | apply State.takeDown_keeps | apply State.modChain_keeps | apply State.sendUp_keeps
      | apply State.passDown_keeps | apply State.Keeps.ite | apply State.Keeps.foldl | apply State.Keeps.foldl₁
      | (intro _) | (dsimp only) | (split) | (fail_if_no_progress apply State.Keeps.upd)


theorem execDelayDone_keeps {s0 s s1 : State} (f : Frame) (crcOk : Bool)
    (hk : s0.Keeps s) (hs : execDelayDone f crcOk s = .next s1) : s0.Keeps s1 := by
  unfold execDelayDone at hs
  injection hs with hs
  subst hs
  with_reducible repeat'
    first
      | assumption | apply State.takeUp_keeps | apply State.setDelay_keeps | apply State.Keeps.ite
      | apply State.Keeps.foldl | apply State.Keeps.foldl₁ | (intro _) | (dsimp only) | (split)
      | (fail_if_no_progress apply State.Keeps.upd)


theorem execCompFrame_keeps {s0 s s1 : State} (f : Frame) (crcOk : Bool)
    (hk : s0.Keeps s) (hs : execCompFrame f crcOk s = .next s1) : s0.Keeps s1 := by
  unfold execCompFrame at hs
  injection hs with hs
  subst hs
  with_reducible repeat'
    first
      | assumption | apply State.takeDown_keeps | apply State.modChain_keeps | apply State.passDown_keeps
      | apply State.Keeps.ite | apply State.Keeps.foldl | apply State.Keeps.foldl₁ | (intro _) | (dsimp only)
      | (split) | (fail_if_no_progress apply State.Keeps.upd)


theorem execEdgeEchoMeasure_keeps {s0 s s1 : State} (hopPs : W32)
    (hk : s0.Keeps s) (hs : execEdgeEchoMeasure hopPs s = .next s1) : s0.Keeps s1 := by
  unfold execEdgeEchoMeasure at hs
  injection hs with hs
  subst hs
  with_reducible repeat'
    first
      | assumption | apply State.modChain_keeps | apply State.Keeps.ite | apply State.Keeps.foldl
      | apply State.Keeps.foldl₁ | (intro _) | (dsimp only) | (split) | (fail_if_no_progress apply State.Keeps.upd)


theorem execEdgeMarkSend_keeps {s0 s s1 : State} 
    (hk : s0.Keeps s) (hs : execEdgeMarkSend s = .next s1) : s0.Keeps s1 := by
  unfold execEdgeMarkSend at hs
  injection hs with hs
  subst hs
  with_reducible repeat'
    first
      | assumption | apply State.emit_keeps | apply State.modChain_keeps | apply State.emit_keeps
      | apply State.Keeps.ite | apply State.Keeps.foldl | apply State.Keeps.foldl₁ | (intro _) | (dsimp only)
      | (split) | (fail_if_no_progress apply State.Keeps.upd)


theorem execEdgeMarkReceive_keeps {s0 s s1 : State} (arrivalPs : Nat)
    (hk : s0.Keeps s) (hs : execEdgeMarkReceive arrivalPs s = .next s1) : s0.Keeps s1 := by
  unfold execEdgeMarkReceive at hs
  injection hs with hs
  subst hs
  with_reducible repeat'
    first
      | assumption | apply State.modChain_keeps | apply State.emit_keeps | apply State.emit_keeps
      | apply State.Keeps.ite | apply State.Keeps.foldl | apply State.Keeps.foldl₁ | (intro _) | (dsimp only)
      | (split) | (fail_if_no_progress apply State.Keeps.upd)


theorem execRefLock_keeps {s0 s s1 : State} 
    (hk : s0.Keeps s) (hs : execRefLock s = .next s1) : s0.Keeps s1 := by
  unfold execRefLock at hs
  injection hs with hs
  subst hs
  with_reducible repeat'
    first
      | assumption | apply State.modChain_keeps | apply State.Keeps.ite | apply State.Keeps.foldl
      | apply State.Keeps.foldl₁ | (intro _) | (dsimp only) | (split) | (fail_if_no_progress apply State.Keeps.upd)


theorem execRefLoss_keeps {s0 s s1 : State} 
    (hk : s0.Keeps s) (hs : execRefLoss s = .next s1) : s0.Keeps s1 := by
  unfold execRefLoss at hs
  injection hs with hs
  subst hs
  with_reducible repeat'
    first
      | assumption | apply State.modChain_keeps | apply State.startChain_keeps | apply State.sendDown_keeps
      | apply State.Keeps.ite | apply State.Keeps.foldl | apply State.Keeps.foldl₁ | (intro _) | (dsimp only)
      | (split) | (fail_if_no_progress apply State.Keeps.upd)


theorem execSplice_keeps {s0 s s1 : State} 
    (hk : s0.Keeps s) (hs : execSplice s = .next s1) : s0.Keeps s1 := by
  unfold execSplice at hs
  injection hs with hs
  subst hs
  with_reducible repeat'
    first
      | assumption | apply State.modChain_keeps | apply State.Keeps.ite | apply State.Keeps.foldl
      | apply State.Keeps.foldl₁ | (intro _) | (dsimp only) | (split) | (fail_if_no_progress apply State.Keeps.upd)


theorem execRdyInChange_keeps {s0 s s1 : State} (level : Bool)
    (hk : s0.Keeps s) (hs : execRdyInChange level s = .next s1) : s0.Keeps s1 := by
  unfold execRdyInChange at hs
  injection hs with hs
  subst hs
  with_reducible repeat'
    first
      | assumption | apply State.modChain_keeps | apply State.Keeps.ite | apply State.Keeps.foldl
      | apply State.Keeps.foldl₁ | (intro _) | (dsimp only) | (split) | (fail_if_no_progress apply State.Keeps.upd)


theorem execChainOutPresenceChange_keeps {s0 s s1 : State} (present : Bool)
    (hk : s0.Keeps s) (hs : execChainOutPresenceChange present s = .next s1) : s0.Keeps s1 := by
  unfold execChainOutPresenceChange at hs
  injection hs with hs
  subst hs
  with_reducible repeat'
    first
      | assumption | apply State.modChain_keeps | apply State.Keeps.ite | apply State.Keeps.foldl
      | apply State.Keeps.foldl₁ | (intro _) | (dsimp only) | (split) | (fail_if_no_progress apply State.Keeps.upd)


theorem execCommandFetch_keeps {s0 s s1 : State} 
    (hk : s0.Keeps s) (hs : execCommandFetch s = .next s1) : s0.Keeps s1 := by
  unfold execCommandFetch at hs
  injection hs with hs
  subst hs
  with_reducible repeat'
    first
      | assumption | apply State.engineRead_keeps | apply State.modList_keeps | apply State.modJob_keeps
      | apply State.judge_keeps | apply State.Keeps.ite | apply State.Keeps.foldl | apply State.Keeps.foldl₁
      | (intro _) | (dsimp only) | (split) | (fail_if_no_progress apply State.Keeps.upd)


theorem execCommandActionStart_keeps {s0 s s1 : State} (pos : Nat)
    (hk : s0.Keeps s) (hs : execCommandActionStart pos s = .next s1) : s0.Keeps s1 := by
  unfold execCommandActionStart at hs
  injection hs with hs
  subst hs
  with_reducible repeat'
    first
      | assumption | apply State.startRun_keeps | apply State.modJob_keeps | apply State.refuse_keeps
      | apply State.modLiftRam_keeps | apply State.Keeps.ite | apply State.Keeps.foldl | apply State.Keeps.foldl₁
      | (intro _) | (dsimp only) | (split) | (fail_if_no_progress apply State.Keeps.upd)


theorem execCpy_keeps {s0 s s1 : State} (c : CoreId) (t : StrandId) (w : MWord)
    (hk : s0.Keeps s) (hs : execCpy c t w s = .next s1) : s0.Keeps s1 := by
  unfold execCpy at hs
  injection hs with hs
  subst hs
  with_reducible repeat'
    first
      | assumption | apply State.issue_keeps | apply State.retire_keeps | apply State.copyTally_keeps
      | apply State.violate_keeps | apply State.modEng_keeps | apply State.Keeps.ite | apply State.Keeps.foldl
      | apply State.Keeps.foldl₁ | (intro _) | (dsimp only) | (split) | (fail_if_no_progress apply State.Keeps.upd)


theorem execCopyComplete_keeps {s0 s s1 : State} (c : CoreId) (slot : Fin 16)
    (hk : s0.Keeps s) (hs : execCopyComplete c slot s = .next s1) : s0.Keeps s1 := by
  unfold execCopyComplete at hs
  injection hs with hs
  subst hs
  with_reducible repeat'
    first
      | assumption | apply State.modEng_keeps | apply State.copyTally_keeps | apply State.applyCopy_keeps
      | apply State.Keeps.ite | apply State.Keeps.foldl | apply State.Keeps.foldl₁ | (intro _) | (dsimp only)
      | (split) | (fail_if_no_progress apply State.Keeps.upd)


theorem execCoreDone_keeps {s0 s s1 : State} (c : CoreId)
    (hk : s0.Keeps s) (hs : execCoreDone c s = .next s1) : s0.Keeps s1 := by
  unfold execCoreDone at hs
  injection hs with hs
  subst hs
  with_reducible repeat'
    first
      | assumption | apply State.modRun_keeps | apply State.logCourse_keeps | apply State.hold_keeps
      | apply State.Keeps.ite | apply State.Keeps.foldl | apply State.Keeps.foldl₁ | (intro _) | (dsimp only)
      | (split) | (fail_if_no_progress apply State.Keeps.upd)


theorem execReadyUpdate_keeps {s0 s s1 : State} 
    (hk : s0.Keeps s) (hs : execReadyUpdate s = .next s1) : s0.Keeps s1 := by
  unfold execReadyUpdate at hs
  injection hs with hs
  subst hs
  with_reducible repeat'
    first
      | assumption | apply State.modChain_keeps | apply State.Keeps.ite | apply State.Keeps.foldl
      | apply State.Keeps.foldl₁ | (intro _) | (dsimp only) | (split) | (fail_if_no_progress apply State.Keeps.upd)


theorem execEdgeApply_keeps {s0 s s1 : State} 
    (hk : s0.Keeps s) (hs : execEdgeApply s = .next s1) : s0.Keeps s1 := by
  unfold execEdgeApply at hs
  injection hs with hs
  subst hs
  with_reducible repeat'
    first
      | assumption | apply State.modChain_keeps | apply State.flipFace_keeps | apply State.courseEdge_keeps
      | apply State.restoreParked_keeps | apply State.firstEdge_keeps | apply State.Keeps.ite
      | apply State.Keeps.foldl | apply State.Keeps.foldl₁ | (intro _) | (dsimp only) | (split)
      | (fail_if_no_progress apply State.Keeps.upd)


theorem execStrandsReleased_keeps {s0 s s1 : State} (c : CoreId)
    (hk : s0.Keeps s) (hs : execStrandsReleased c s = .next s1) : s0.Keeps s1 := by
  unfold execStrandsReleased at hs
  injection hs with hs
  subst hs
  with_reducible repeat'
    first
      | assumption | apply State.idleCourse_keeps | apply State.violate_keeps | apply State.releaseCtx_keeps
      | apply State.misfit_keeps | apply State.Keeps.ite | apply State.Keeps.foldl | apply State.Keeps.foldl₁
      | (intro _) | (dsimp only) | (split) | (fail_if_no_progress apply State.Keeps.upd)


theorem execNop_keeps {s0 s s1 : State} (c : CoreId) (t : StrandId) (w : SWord)
    (hk : s0.Keeps s) (hs : execNop c t w s = .next s1) : s0.Keeps s1 := by
  unfold execNop at hs
  injection hs with hs
  subst hs
  with_reducible repeat'
    first
      | assumption | apply State.issue_keeps | apply State.retire_keeps | apply State.Keeps.ite
      | apply State.Keeps.foldl | apply State.Keeps.foldl₁ | (intro _) | (dsimp only) | (split)
      | (fail_if_no_progress apply State.Keeps.upd)


theorem execAdd_keeps {s0 s s1 : State} (c : CoreId) (t : StrandId) (w : SWord)
    (hk : s0.Keeps s) (hs : execAdd c t w s = .next s1) : s0.Keeps s1 := by
  unfold execAdd at hs
  injection hs with hs
  subst hs
  with_reducible repeat'
    first
      | assumption | apply State.scalar_keeps | apply State.Keeps.ite | apply State.Keeps.foldl
      | apply State.Keeps.foldl₁ | (intro _) | (dsimp only) | (split) | (fail_if_no_progress apply State.Keeps.upd)


theorem execSub_keeps {s0 s s1 : State} (c : CoreId) (t : StrandId) (w : SWord)
    (hk : s0.Keeps s) (hs : execSub c t w s = .next s1) : s0.Keeps s1 := by
  unfold execSub at hs
  injection hs with hs
  subst hs
  with_reducible repeat'
    first
      | assumption | apply State.scalar_keeps | apply State.Keeps.ite | apply State.Keeps.foldl
      | apply State.Keeps.foldl₁ | (intro _) | (dsimp only) | (split) | (fail_if_no_progress apply State.Keeps.upd)


theorem execMul_keeps {s0 s s1 : State} (c : CoreId) (t : StrandId) (w : SWord)
    (hk : s0.Keeps s) (hs : execMul c t w s = .next s1) : s0.Keeps s1 := by
  unfold execMul at hs
  injection hs with hs
  subst hs
  with_reducible repeat'
    first
      | assumption | apply State.scalar_keeps | apply State.Keeps.ite | apply State.Keeps.foldl
      | apply State.Keeps.foldl₁ | (intro _) | (dsimp only) | (split) | (fail_if_no_progress apply State.Keeps.upd)


theorem execDiv_keeps {s0 s s1 : State} (c : CoreId) (t : StrandId) (w : SWord)
    (hk : s0.Keeps s) (hs : execDiv c t w s = .next s1) : s0.Keeps s1 := by
  unfold execDiv at hs
  injection hs with hs
  subst hs
  with_reducible repeat'
    first
      | assumption | apply State.scalar_keeps | apply State.Keeps.ite | apply State.Keeps.foldl
      | apply State.Keeps.foldl₁ | (intro _) | (dsimp only) | (split) | (fail_if_no_progress apply State.Keeps.upd)


theorem execDivu_keeps {s0 s s1 : State} (c : CoreId) (t : StrandId) (w : SWord)
    (hk : s0.Keeps s) (hs : execDivu c t w s = .next s1) : s0.Keeps s1 := by
  unfold execDivu at hs
  injection hs with hs
  subst hs
  with_reducible repeat'
    first
      | assumption | apply State.scalar_keeps | apply State.Keeps.ite | apply State.Keeps.foldl
      | apply State.Keeps.foldl₁ | (intro _) | (dsimp only) | (split) | (fail_if_no_progress apply State.Keeps.upd)


theorem execAndI_keeps {s0 s s1 : State} (c : CoreId) (t : StrandId) (w : SWord)
    (hk : s0.Keeps s) (hs : execAndI c t w s = .next s1) : s0.Keeps s1 := by
  unfold execAndI at hs
  injection hs with hs
  subst hs
  with_reducible repeat'
    first
      | assumption | apply State.scalar_keeps | apply State.Keeps.ite | apply State.Keeps.foldl
      | apply State.Keeps.foldl₁ | (intro _) | (dsimp only) | (split) | (fail_if_no_progress apply State.Keeps.upd)


theorem execOrI_keeps {s0 s s1 : State} (c : CoreId) (t : StrandId) (w : SWord)
    (hk : s0.Keeps s) (hs : execOrI c t w s = .next s1) : s0.Keeps s1 := by
  unfold execOrI at hs
  injection hs with hs
  subst hs
  with_reducible repeat'
    first
      | assumption | apply State.scalar_keeps | apply State.Keeps.ite | apply State.Keeps.foldl
      | apply State.Keeps.foldl₁ | (intro _) | (dsimp only) | (split) | (fail_if_no_progress apply State.Keeps.upd)


theorem execXorI_keeps {s0 s s1 : State} (c : CoreId) (t : StrandId) (w : SWord)
    (hk : s0.Keeps s) (hs : execXorI c t w s = .next s1) : s0.Keeps s1 := by
  unfold execXorI at hs
  injection hs with hs
  subst hs
  with_reducible repeat'
    first
      | assumption | apply State.scalar_keeps | apply State.Keeps.ite | apply State.Keeps.foldl
      | apply State.Keeps.foldl₁ | (intro _) | (dsimp only) | (split) | (fail_if_no_progress apply State.Keeps.upd)


theorem execShl_keeps {s0 s s1 : State} (c : CoreId) (t : StrandId) (w : SWord)
    (hk : s0.Keeps s) (hs : execShl c t w s = .next s1) : s0.Keeps s1 := by
  unfold execShl at hs
  injection hs with hs
  subst hs
  with_reducible repeat'
    first
      | assumption | apply State.scalar_keeps | apply State.Keeps.ite | apply State.Keeps.foldl
      | apply State.Keeps.foldl₁ | (intro _) | (dsimp only) | (split) | (fail_if_no_progress apply State.Keeps.upd)


theorem execShr_keeps {s0 s s1 : State} (c : CoreId) (t : StrandId) (w : SWord)
    (hk : s0.Keeps s) (hs : execShr c t w s = .next s1) : s0.Keeps s1 := by
  unfold execShr at hs
  injection hs with hs
  subst hs
  with_reducible repeat'
    first
      | assumption | apply State.scalar_keeps | apply State.Keeps.ite | apply State.Keeps.foldl
      | apply State.Keeps.foldl₁ | (intro _) | (dsimp only) | (split) | (fail_if_no_progress apply State.Keeps.upd)


theorem execSra_keeps {s0 s s1 : State} (c : CoreId) (t : StrandId) (w : SWord)
    (hk : s0.Keeps s) (hs : execSra c t w s = .next s1) : s0.Keeps s1 := by
  unfold execSra at hs
  injection hs with hs
  subst hs
  with_reducible repeat'
    first
      | assumption | apply State.scalar_keeps | apply State.Keeps.ite | apply State.Keeps.foldl
      | apply State.Keeps.foldl₁ | (intro _) | (dsimp only) | (split) | (fail_if_no_progress apply State.Keeps.upd)


theorem execSlt_keeps {s0 s s1 : State} (c : CoreId) (t : StrandId) (w : SWord)
    (hk : s0.Keeps s) (hs : execSlt c t w s = .next s1) : s0.Keeps s1 := by
  unfold execSlt at hs
  injection hs with hs
  subst hs
  with_reducible repeat'
    first
      | assumption | apply State.scalar_keeps | apply State.Keeps.ite | apply State.Keeps.foldl
      | apply State.Keeps.foldl₁ | (intro _) | (dsimp only) | (split) | (fail_if_no_progress apply State.Keeps.upd)


theorem execSltu_keeps {s0 s s1 : State} (c : CoreId) (t : StrandId) (w : SWord)
    (hk : s0.Keeps s) (hs : execSltu c t w s = .next s1) : s0.Keeps s1 := by
  unfold execSltu at hs
  injection hs with hs
  subst hs
  with_reducible repeat'
    first
      | assumption | apply State.scalar_keeps | apply State.Keeps.ite | apply State.Keeps.foldl
      | apply State.Keeps.foldl₁ | (intro _) | (dsimp only) | (split) | (fail_if_no_progress apply State.Keeps.upd)


theorem execMinI_keeps {s0 s s1 : State} (c : CoreId) (t : StrandId) (w : SWord)
    (hk : s0.Keeps s) (hs : execMinI c t w s = .next s1) : s0.Keeps s1 := by
  unfold execMinI at hs
  injection hs with hs
  subst hs
  with_reducible repeat'
    first
      | assumption | apply State.scalar_keeps | apply State.Keeps.ite | apply State.Keeps.foldl
      | apply State.Keeps.foldl₁ | (intro _) | (dsimp only) | (split) | (fail_if_no_progress apply State.Keeps.upd)


theorem execMaxI_keeps {s0 s s1 : State} (c : CoreId) (t : StrandId) (w : SWord)
    (hk : s0.Keeps s) (hs : execMaxI c t w s = .next s1) : s0.Keeps s1 := by
  unfold execMaxI at hs
  injection hs with hs
  subst hs
  with_reducible repeat'
    first
      | assumption | apply State.scalar_keeps | apply State.Keeps.ite | apply State.Keeps.foldl
      | apply State.Keeps.foldl₁ | (intro _) | (dsimp only) | (split) | (fail_if_no_progress apply State.Keeps.upd)


theorem execLui_keeps {s0 s s1 : State} (c : CoreId) (t : StrandId) (w : SWord)
    (hk : s0.Keeps s) (hs : execLui c t w s = .next s1) : s0.Keeps s1 := by
  unfold execLui at hs
  injection hs with hs
  subst hs
  with_reducible repeat'
    first
      | assumption | apply State.scalar_keeps | apply State.Keeps.ite | apply State.Keeps.foldl
      | apply State.Keeps.foldl₁ | (intro _) | (dsimp only) | (split) | (fail_if_no_progress apply State.Keeps.upd)


theorem execLd_keeps {s0 s s1 : State} (c : CoreId) (t : StrandId) (w : SWord)
    (hk : s0.Keeps s) (hs : execLd c t w s = .next s1) : s0.Keeps s1 := by
  unfold execLd at hs
  injection hs with hs
  subst hs
  with_reducible repeat'
    first
      | assumption | apply State.issue_keeps | apply State.retire_keeps | apply State.outOfCapIf_keeps
      | apply State.setSreg_keeps | apply State.Keeps.ite | apply State.Keeps.foldl | apply State.Keeps.foldl₁
      | (intro _) | (dsimp only) | (split) | (fail_if_no_progress apply State.Keeps.upd)


theorem execSt_keeps {s0 s s1 : State} (c : CoreId) (t : StrandId) (w : SWord)
    (hk : s0.Keeps s) (hs : execSt c t w s = .next s1) : s0.Keeps s1 := by
  unfold execSt at hs
  injection hs with hs
  subst hs
  with_reducible repeat'
    first
      | assumption | apply State.issue_keeps | apply State.retire_keeps | apply State.outOfCapIf_keeps
      | apply State.storeList_keeps | apply State.storeList_keeps | apply State.Keeps.ite | apply State.Keeps.foldl
      | apply State.Keeps.foldl₁ | (intro _) | (dsimp only) | (split) | (fail_if_no_progress apply State.Keeps.upd)


theorem execBeq_keeps {s0 s s1 : State} (c : CoreId) (t : StrandId) (w : SWord)
    (hk : s0.Keeps s) (hs : execBeq c t w s = .next s1) : s0.Keeps s1 := by
  unfold execBeq at hs
  injection hs with hs
  subst hs
  with_reducible repeat'
    first
      | assumption | apply State.branch_keeps | apply State.Keeps.ite | apply State.Keeps.foldl
      | apply State.Keeps.foldl₁ | (intro _) | (dsimp only) | (split) | (fail_if_no_progress apply State.Keeps.upd)


theorem execBne_keeps {s0 s s1 : State} (c : CoreId) (t : StrandId) (w : SWord)
    (hk : s0.Keeps s) (hs : execBne c t w s = .next s1) : s0.Keeps s1 := by
  unfold execBne at hs
  injection hs with hs
  subst hs
  with_reducible repeat'
    first
      | assumption | apply State.branch_keeps | apply State.Keeps.ite | apply State.Keeps.foldl
      | apply State.Keeps.foldl₁ | (intro _) | (dsimp only) | (split) | (fail_if_no_progress apply State.Keeps.upd)


theorem execBlt_keeps {s0 s s1 : State} (c : CoreId) (t : StrandId) (w : SWord)
    (hk : s0.Keeps s) (hs : execBlt c t w s = .next s1) : s0.Keeps s1 := by
  unfold execBlt at hs
  injection hs with hs
  subst hs
  with_reducible repeat'
    first
      | assumption | apply State.branch_keeps | apply State.Keeps.ite | apply State.Keeps.foldl
      | apply State.Keeps.foldl₁ | (intro _) | (dsimp only) | (split) | (fail_if_no_progress apply State.Keeps.upd)


theorem execBge_keeps {s0 s s1 : State} (c : CoreId) (t : StrandId) (w : SWord)
    (hk : s0.Keeps s) (hs : execBge c t w s = .next s1) : s0.Keeps s1 := by
  unfold execBge at hs
  injection hs with hs
  subst hs
  with_reducible repeat'
    first
      | assumption | apply State.branch_keeps | apply State.Keeps.ite | apply State.Keeps.foldl
      | apply State.Keeps.foldl₁ | (intro _) | (dsimp only) | (split) | (fail_if_no_progress apply State.Keeps.upd)


theorem execBltu_keeps {s0 s s1 : State} (c : CoreId) (t : StrandId) (w : SWord)
    (hk : s0.Keeps s) (hs : execBltu c t w s = .next s1) : s0.Keeps s1 := by
  unfold execBltu at hs
  injection hs with hs
  subst hs
  with_reducible repeat'
    first
      | assumption | apply State.branch_keeps | apply State.Keeps.ite | apply State.Keeps.foldl
      | apply State.Keeps.foldl₁ | (intro _) | (dsimp only) | (split) | (fail_if_no_progress apply State.Keeps.upd)


theorem execJal_keeps {s0 s s1 : State} (c : CoreId) (t : StrandId) (w : SWord)
    (hk : s0.Keeps s) (hs : execJal c t w s = .next s1) : s0.Keeps s1 := by
  unfold execJal at hs
  injection hs with hs
  subst hs
  with_reducible repeat'
    first
      | assumption | apply State.issue_keeps | apply State.misfitIf_keeps | apply State.jumpTo_keeps
      | apply State.setSreg_keeps | apply State.Keeps.ite | apply State.Keeps.foldl | apply State.Keeps.foldl₁
      | (intro _) | (dsimp only) | (split) | (fail_if_no_progress apply State.Keeps.upd)


theorem execJr_keeps {s0 s s1 : State} (c : CoreId) (t : StrandId) (w : SWord)
    (hk : s0.Keeps s) (hs : execJr c t w s = .next s1) : s0.Keeps s1 := by
  unfold execJr at hs
  injection hs with hs
  subst hs
  with_reducible repeat'
    first
      | assumption | apply State.issue_keeps | apply State.misfitIf_keeps | apply State.jumpTo_keeps
      | apply State.setSreg_keeps | apply State.Keeps.ite | apply State.Keeps.foldl | apply State.Keeps.foldl₁
      | (intro _) | (dsimp only) | (split) | (fail_if_no_progress apply State.Keeps.upd)


theorem execSrd_keeps {s0 s s1 : State} (c : CoreId) (t : StrandId) (w : SWord)
    (hk : s0.Keeps s) (hs : execSrd c t w s = .next s1) : s0.Keeps s1 := by
  unfold execSrd at hs
  injection hs with hs
  subst hs
  with_reducible repeat'
    first
      | assumption | apply State.issue_keeps | apply State.modStrand_keeps | apply State.retire_keeps
      | apply State.setSreg_keeps | apply State.Keeps.ite | apply State.Keeps.foldl | apply State.Keeps.foldl₁
      | (intro _) | (dsimp only) | (split) | (fail_if_no_progress apply State.Keeps.upd)


theorem execCend_keeps {s0 s s1 : State} (c : CoreId) (t : StrandId) (w : SWord)
    (hk : s0.Keeps s) (hs : execCend c t w s = .next s1) : s0.Keeps s1 := by
  unfold execCend at hs
  injection hs with hs
  subst hs
  with_reducible repeat'
    first
      | assumption | apply State.issue_keeps | apply State.retire_keeps | apply State.modStrand_keeps
      | apply State.Keeps.ite | apply State.Keeps.foldl | apply State.Keeps.foldl₁ | (intro _) | (dsimp only)
      | (split) | (fail_if_no_progress apply State.Keeps.upd)


theorem execVadd_keeps {s0 s s1 : State} (c : CoreId) (t : StrandId) (w : VWord)
    (hk : s0.Keeps s) (hs : execVadd c t w s = .next s1) : s0.Keeps s1 := by
  unfold execVadd at hs
  injection hs with hs
  subst hs
  with_reducible repeat'
    first
      | assumption | apply State.lanewise2_keeps | apply State.Keeps.ite | apply State.Keeps.foldl
      | apply State.Keeps.foldl₁ | (intro _) | (dsimp only) | (split) | (fail_if_no_progress apply State.Keeps.upd)


theorem execVsub_keeps {s0 s s1 : State} (c : CoreId) (t : StrandId) (w : VWord)
    (hk : s0.Keeps s) (hs : execVsub c t w s = .next s1) : s0.Keeps s1 := by
  unfold execVsub at hs
  injection hs with hs
  subst hs
  with_reducible repeat'
    first
      | assumption | apply State.lanewise2_keeps | apply State.Keeps.ite | apply State.Keeps.foldl
      | apply State.Keeps.foldl₁ | (intro _) | (dsimp only) | (split) | (fail_if_no_progress apply State.Keeps.upd)


theorem execVmul_keeps {s0 s s1 : State} (c : CoreId) (t : StrandId) (w : VWord)
    (hk : s0.Keeps s) (hs : execVmul c t w s = .next s1) : s0.Keeps s1 := by
  unfold execVmul at hs
  injection hs with hs
  subst hs
  with_reducible repeat'
    first
      | assumption | apply State.lanewise2_keeps | apply State.Keeps.ite | apply State.Keeps.foldl
      | apply State.Keeps.foldl₁ | (intro _) | (dsimp only) | (split) | (fail_if_no_progress apply State.Keeps.upd)


theorem execVfma_keeps {s0 s s1 : State} (c : CoreId) (t : StrandId) (w : VWord)
    (hk : s0.Keeps s) (hs : execVfma c t w s = .next s1) : s0.Keeps s1 := by
  unfold execVfma at hs
  injection hs with hs
  subst hs
  with_reducible repeat'
    first
      | assumption | apply State.vector_keeps | apply State.setLanes_keeps | apply State.Keeps.ite
      | apply State.Keeps.foldl | apply State.Keeps.foldl₁ | (intro _) | (dsimp only) | (split)
      | (fail_if_no_progress apply State.Keeps.upd)


theorem execVmax_keeps {s0 s s1 : State} (c : CoreId) (t : StrandId) (w : VWord)
    (hk : s0.Keeps s) (hs : execVmax c t w s = .next s1) : s0.Keeps s1 := by
  unfold execVmax at hs
  injection hs with hs
  subst hs
  with_reducible repeat'
    first
      | assumption | apply State.lanewise2_keeps | apply State.Keeps.ite | apply State.Keeps.foldl
      | apply State.Keeps.foldl₁ | (intro _) | (dsimp only) | (split) | (fail_if_no_progress apply State.Keeps.upd)


theorem execVmin_keeps {s0 s s1 : State} (c : CoreId) (t : StrandId) (w : VWord)
    (hk : s0.Keeps s) (hs : execVmin c t w s = .next s1) : s0.Keeps s1 := by
  unfold execVmin at hs
  injection hs with hs
  subst hs
  with_reducible repeat'
    first
      | assumption | apply State.lanewise2_keeps | apply State.Keeps.ite | apply State.Keeps.foldl
      | apply State.Keeps.foldl₁ | (intro _) | (dsimp only) | (split) | (fail_if_no_progress apply State.Keeps.upd)


theorem execVabs_keeps {s0 s s1 : State} (c : CoreId) (t : StrandId) (w : VWord)
    (hk : s0.Keeps s) (hs : execVabs c t w s = .next s1) : s0.Keeps s1 := by
  unfold execVabs at hs
  injection hs with hs
  subst hs
  with_reducible repeat'
    first
      | assumption | apply State.vector_keeps | apply State.setLanes_keeps | apply State.Keeps.ite
      | apply State.Keeps.foldl | apply State.Keeps.foldl₁ | (intro _) | (dsimp only) | (split)
      | (fail_if_no_progress apply State.Keeps.upd)


theorem execVbcast_keeps {s0 s s1 : State} (c : CoreId) (t : StrandId) (w : VWord)
    (hk : s0.Keeps s) (hs : execVbcast c t w s = .next s1) : s0.Keeps s1 := by
  unfold execVbcast at hs
  injection hs with hs
  subst hs
  with_reducible repeat'
    first
      | assumption | apply State.vector_keeps | apply State.setLanes_keeps | apply State.Keeps.ite
      | apply State.Keeps.foldl | apply State.Keeps.foldl₁ | (intro _) | (dsimp only) | (split)
      | (fail_if_no_progress apply State.Keeps.upd)


theorem execVlane_keeps {s0 s s1 : State} (c : CoreId) (t : StrandId) (w : VWord)
    (hk : s0.Keeps s) (hs : execVlane c t w s = .next s1) : s0.Keeps s1 := by
  unfold execVlane at hs
  injection hs with hs
  subst hs
  with_reducible repeat'
    first
      | assumption | apply State.vector_keeps | apply State.setSreg_keeps | apply State.Keeps.ite
      | apply State.Keeps.foldl | apply State.Keeps.foldl₁ | (intro _) | (dsimp only) | (split)
      | (fail_if_no_progress apply State.Keeps.upd)


theorem execVmov_keeps {s0 s s1 : State} (c : CoreId) (t : StrandId) (w : VWord)
    (hk : s0.Keeps s) (hs : execVmov c t w s = .next s1) : s0.Keeps s1 := by
  unfold execVmov at hs
  injection hs with hs
  subst hs
  with_reducible repeat'
    first
      | assumption | apply State.vector_keeps | apply State.modRegs_keeps | apply State.Keeps.ite
      | apply State.Keeps.foldl | apply State.Keeps.foldl₁ | (intro _) | (dsimp only) | (split)
      | (fail_if_no_progress apply State.Keeps.upd)


theorem execVexp_keeps {s0 s s1 : State} (c : CoreId) (t : StrandId) (w : VWord)
    (hk : s0.Keeps s) (hs : execVexp c t w s = .next s1) : s0.Keeps s1 := by
  unfold execVexp at hs
  injection hs with hs
  subst hs
  with_reducible repeat'
    first
      | assumption | apply State.lanewise1_keeps | apply State.Keeps.ite | apply State.Keeps.foldl
      | apply State.Keeps.foldl₁ | (intro _) | (dsimp only) | (split) | (fail_if_no_progress apply State.Keeps.upd)


theorem execVrcp_keeps {s0 s s1 : State} (c : CoreId) (t : StrandId) (w : VWord)
    (hk : s0.Keeps s) (hs : execVrcp c t w s = .next s1) : s0.Keeps s1 := by
  unfold execVrcp at hs
  injection hs with hs
  subst hs
  with_reducible repeat'
    first
      | assumption | apply State.lanewise1_keeps | apply State.Keeps.ite | apply State.Keeps.foldl
      | apply State.Keeps.foldl₁ | (intro _) | (dsimp only) | (split) | (fail_if_no_progress apply State.Keeps.upd)


theorem execVrsqrt_keeps {s0 s s1 : State} (c : CoreId) (t : StrandId) (w : VWord)
    (hk : s0.Keeps s) (hs : execVrsqrt c t w s = .next s1) : s0.Keeps s1 := by
  unfold execVrsqrt at hs
  injection hs with hs
  subst hs
  with_reducible repeat'
    first
      | assumption | apply State.lanewise1_keeps | apply State.Keeps.ite | apply State.Keeps.foldl
      | apply State.Keeps.foldl₁ | (intro _) | (dsimp only) | (split) | (fail_if_no_progress apply State.Keeps.upd)


theorem execVcvt_keeps {s0 s s1 : State} (c : CoreId) (t : StrandId) (w : VWord)
    (hk : s0.Keeps s) (hs : execVcvt c t w s = .next s1) : s0.Keeps s1 := by
  unfold execVcvt at hs
  injection hs with hs
  subst hs
  with_reducible repeat'
    first
      | assumption | apply State.vector_keeps | apply State.noteConv_keeps | apply State.modRegs_keeps
      | apply State.Keeps.ite | apply State.Keeps.foldl | apply State.Keeps.foldl₁ | (intro _) | (dsimp only)
      | (split) | (fail_if_no_progress apply State.Keeps.upd)


theorem execRred_keeps {s0 s s1 : State} (c : CoreId) (t : StrandId) (w : VWord)
    (hk : s0.Keeps s) (hs : execRred c t w s = .next s1) : s0.Keeps s1 := by
  unfold execRred at hs
  injection hs with hs
  subst hs
  with_reducible repeat'
    first
      | assumption | apply State.vector_keeps | apply State.modRegs_keeps | apply State.Keeps.ite
      | apply State.Keeps.foldl | apply State.Keeps.foldl₁ | (intro _) | (dsimp only) | (split)
      | (fail_if_no_progress apply State.Keeps.upd)


theorem execRred2_keeps {s0 s s1 : State} (c : CoreId) (t : StrandId) (w : VWord)
    (hk : s0.Keeps s) (hs : execRred2 c t w s = .next s1) : s0.Keeps s1 := by
  unfold execRred2 at hs
  injection hs with hs
  subst hs
  with_reducible repeat'
    first
      | assumption | apply State.vector_keeps | apply State.modRegs_keeps | apply State.Keeps.ite
      | apply State.Keeps.foldl | apply State.Keeps.foldl₁ | (intro _) | (dsimp only) | (split)
      | (fail_if_no_progress apply State.Keeps.upd)


theorem execVld_keeps {s0 s s1 : State} (c : CoreId) (t : StrandId) (w : VMWord)
    (hk : s0.Keeps s) (hs : execVld c t w s = .next s1) : s0.Keeps s1 := by
  unfold execVld at hs
  injection hs with hs
  subst hs
  with_reducible repeat'
    first
      | assumption | apply State.issue_keeps | apply State.retire_keeps | apply State.outOfCapIf_keeps
      | apply State.modRegs_keeps | apply State.Keeps.ite | apply State.Keeps.foldl | apply State.Keeps.foldl₁
      | (intro _) | (dsimp only) | (split) | (fail_if_no_progress apply State.Keeps.upd)


theorem execVst_keeps {s0 s s1 : State} (c : CoreId) (t : StrandId) (w : VMWord)
    (hk : s0.Keeps s) (hs : execVst c t w s = .next s1) : s0.Keeps s1 := by
  unfold execVst at hs
  injection hs with hs
  subst hs
  with_reducible repeat'
    first
      | assumption | apply State.issue_keeps | apply State.retire_keeps | apply State.outOfCapIf_keeps
      | apply State.storeList_keeps | apply State.storeList_keeps | apply State.Keeps.ite | apply State.Keeps.foldl
      | apply State.Keeps.foldl₁ | (intro _) | (dsimp only) | (split) | (fail_if_no_progress apply State.Keeps.upd)


theorem execTload_keeps {s0 s s1 : State} (c : CoreId) (t : StrandId) (w : TWord) (sh : Shape)
    (hk : s0.Keeps s) (hs : execTload c t w sh s = .next s1) : s0.Keeps s1 := by
  unfold execTload at hs
  injection hs with hs
  subst hs
  with_reducible repeat'
    first
      | assumption | apply State.issue_keeps | apply State.countShape_keeps | apply State.retire_keeps
      | apply State.outOfCapIf_keeps | apply State.modEng_keeps | apply State.Keeps.ite | apply State.Keeps.foldl
      | apply State.Keeps.foldl₁ | (intro _) | (dsimp only) | (split) | (fail_if_no_progress apply State.Keeps.upd)


theorem execTloadComplete_keeps {s0 s s1 : State} (c : CoreId) (tile : BitVec 5)
    (hk : s0.Keeps s) (hs : execTloadComplete c tile s = .next s1) : s0.Keeps s1 := by
  unfold execTloadComplete at hs
  injection hs with hs
  subst hs
  with_reducible repeat'
    first
      | assumption | apply State.modRegs_keeps | apply State.modEng_keeps | apply State.Keeps.ite
      | apply State.Keeps.foldl | apply State.Keeps.foldl₁ | (intro _) | (dsimp only) | (split)
      | (fail_if_no_progress apply State.Keeps.upd)


theorem execTstore_keeps {s0 s s1 : State} (c : CoreId) (t : StrandId) (w : TWord) (sh : Shape)
    (hk : s0.Keeps s) (hs : execTstore c t w sh s = .next s1) : s0.Keeps s1 := by
  unfold execTstore at hs
  injection hs with hs
  subst hs
  with_reducible repeat'
    first
      | assumption | apply State.issue_keeps | apply State.countShape_keeps | apply State.retire_keeps
      | apply State.outOfCapIf_keeps | apply State.modEng_keeps | apply State.Keeps.ite | apply State.Keeps.foldl
      | apply State.Keeps.foldl₁ | (intro _) | (dsimp only) | (split) | (fail_if_no_progress apply State.Keeps.upd)


theorem execTstoreComplete_keeps {s0 s s1 : State} (c : CoreId) (t : StrandId)
    (hk : s0.Keeps s) (hs : execTstoreComplete c t s = .next s1) : s0.Keeps s1 := by
  unfold execTstoreComplete at hs
  injection hs with hs
  subst hs
  with_reducible repeat'
    first
      | assumption | apply State.storeList_keeps | apply State.modEng_keeps | apply State.storeList_keeps
      | apply State.Keeps.ite | apply State.Keeps.foldl | apply State.Keeps.foldl₁ | (intro _) | (dsimp only)
      | (split) | (fail_if_no_progress apply State.Keeps.upd)


theorem execTrel_keeps {s0 s s1 : State} (c : CoreId) (t : StrandId) (w : SWord)
    (hk : s0.Keeps s) (hs : execTrel c t w s = .next s1) : s0.Keeps s1 := by
  unfold execTrel at hs
  injection hs with hs
  subst hs
  with_reducible repeat'
    first
      | assumption | apply State.issue_keeps | apply State.retire_keeps | apply State.modRegs_keeps
      | apply State.Keeps.ite | apply State.Keeps.foldl | apply State.Keeps.foldl₁ | (intro _) | (dsimp only)
      | (split) | (fail_if_no_progress apply State.Keeps.upd)


theorem execPutI_keeps {s0 s s1 : State} (c : CoreId) (t : StrandId) (w : MWord)
    (hk : s0.Keeps s) (hs : execPutI c t w s = .next s1) : s0.Keeps s1 := by
  unfold execPutI at hs
  injection hs with hs
  subst hs
  with_reducible repeat'
    first
      | assumption | apply State.putOp_keeps | apply State.Keeps.ite | apply State.Keeps.foldl
      | apply State.Keeps.foldl₁ | (intro _) | (dsimp only) | (split) | (fail_if_no_progress apply State.Keeps.upd)


theorem execPutSI_keeps {s0 s s1 : State} (c : CoreId) (t : StrandId) (w : MWord)
    (hk : s0.Keeps s) (hs : execPutSI c t w s = .next s1) : s0.Keeps s1 := by
  unfold execPutSI at hs
  injection hs with hs
  subst hs
  with_reducible repeat'
    first
      | assumption | apply State.putOp_keeps | apply State.Keeps.ite | apply State.Keeps.foldl
      | apply State.Keeps.foldl₁ | (intro _) | (dsimp only) | (split) | (fail_if_no_progress apply State.Keeps.upd)


theorem execGetI_keeps {s0 s s1 : State} (c : CoreId) (t : StrandId) (w : MWord)
    (hk : s0.Keeps s) (hs : execGetI c t w s = .next s1) : s0.Keeps s1 := by
  unfold execGetI at hs
  injection hs with hs
  subst hs
  with_reducible repeat'
    first
      | assumption | apply State.issue_keeps | apply State.retire_keeps | apply State.endCt_keeps
      | apply State.postAll_keeps | apply State.setSlot_keeps | apply State.Keeps.ite | apply State.Keeps.foldl
      | apply State.Keeps.foldl₁ | (intro _) | (dsimp only) | (split) | (fail_if_no_progress apply State.Keeps.upd)


theorem execAccI_keeps {s0 s s1 : State} (c : CoreId) (t : StrandId) (w : MWord)
    (hk : s0.Keeps s) (hs : execAccI c t w s = .next s1) : s0.Keeps s1 := by
  unfold execAccI at hs
  injection hs with hs
  subst hs
  with_reducible repeat'
    first
      | assumption | apply State.accOp_keeps | apply State.Keeps.ite | apply State.Keeps.foldl
      | apply State.Keeps.foldl₁ | (intro _) | (dsimp only) | (split) | (fail_if_no_progress apply State.Keeps.upd)


theorem execAccSI_keeps {s0 s s1 : State} (c : CoreId) (t : StrandId) (w : MWord)
    (hk : s0.Keeps s) (hs : execAccSI c t w s = .next s1) : s0.Keeps s1 := by
  unfold execAccSI at hs
  injection hs with hs
  subst hs
  with_reducible repeat'
    first
      | assumption | apply State.accOp_keeps | apply State.Keeps.ite | apply State.Keeps.foldl
      | apply State.Keeps.foldl₁ | (intro _) | (dsimp only) | (split) | (fail_if_no_progress apply State.Keeps.upd)


theorem execTadd_keeps {s0 s s1 : State} (c : CoreId) (t : StrandId) (w : MWord)
    (hk : s0.Keeps s) (hs : execTadd c t w s = .next s1) : s0.Keeps s1 := by
  unfold execTadd at hs
  injection hs with hs
  subst hs
  with_reducible repeat'
    first
      | assumption | apply State.issue_keeps | apply State.retire_keeps | apply State.launch_keeps
      | apply State.Keeps.ite | apply State.Keeps.foldl | apply State.Keeps.foldl₁ | (intro _) | (dsimp only)
      | (split) | (fail_if_no_progress apply State.Keeps.upd)


theorem execTwait_keeps {s0 s s1 : State} (c : CoreId) (t : StrandId) (w : MWord)
    (hk : s0.Keeps s) (hs : execTwait c t w s = .next s1) : s0.Keeps s1 := by
  unfold execTwait at hs
  injection hs with hs
  subst hs
  with_reducible repeat'
    first
      | assumption | apply State.issue_keeps | apply State.retire_keeps | apply State.unblock_keeps
      | apply State.block_keeps | apply State.register_keeps | apply State.Keeps.ite | apply State.Keeps.foldl
      | apply State.Keeps.foldl₁ | (intro _) | (dsimp only) | (split) | (fail_if_no_progress apply State.Keeps.upd)


theorem execKarr_keeps {s0 s s1 : State} (c : CoreId) (t : StrandId) (w : MWord)
    (hk : s0.Keeps s) (hs : execKarr c t w s = .next s1) : s0.Keeps s1 := by
  unfold execKarr at hs
  injection hs with hs
  subst hs
  with_reducible repeat'
    first
      | assumption | apply State.issue_keeps | apply State.retire_keeps | apply State.post_keeps
      | apply State.block_keeps | apply State.Keeps.ite | apply State.Keeps.foldl | apply State.Keeps.foldl₁
      | (intro _) | (dsimp only) | (split) | (fail_if_no_progress apply State.Keeps.upd)


theorem execKwait_keeps {s0 s s1 : State} (c : CoreId) (t : StrandId) (w : MWord)
    (hk : s0.Keeps s) (hs : execKwait c t w s = .next s1) : s0.Keeps s1 := by
  unfold execKwait at hs
  injection hs with hs
  subst hs
  with_reducible repeat'
    first
      | assumption | apply State.issue_keeps | apply State.retire_keeps | apply State.unblock_keeps
      | apply State.post_keeps | apply State.block_keeps | apply State.Keeps.ite | apply State.Keeps.foldl
      | apply State.Keeps.foldl₁ | (intro _) | (dsimp only) | (split) | (fail_if_no_progress apply State.Keeps.upd)


theorem execReservedOpcode_keeps {s0 s s1 : State} (c : CoreId) (t : StrandId) (op : BitVec 8) (z3 : BitVec 56)
    (hk : s0.Keeps s) (hs : execReservedOpcode c t op z3 s = .next s1) : s0.Keeps s1 := by
  unfold execReservedOpcode at hs
  injection hs with hs
  subst hs
  with_reducible repeat'
    first
      | assumption | apply State.issue_keeps | apply State.retire_keeps | apply State.Keeps.ite
      | apply State.Keeps.foldl | apply State.Keeps.foldl₁ | (intro _) | (dsimp only) | (split)
      | (fail_if_no_progress apply State.Keeps.upd)


theorem execStrandWake_keeps {s0 s s1 : State} (c : CoreId) (t : StrandId)
    (hk : s0.Keeps s) (hs : execStrandWake c t s = .next s1) : s0.Keeps s1 := by
  unfold execStrandWake at hs
  injection hs with hs
  subst hs
  with_reducible repeat'
    first
      | assumption | apply State.unblock_keeps | apply State.Keeps.ite | apply State.Keeps.foldl
      | apply State.Keeps.foldl₁ | (intro _) | (dsimp only) | (split) | (fail_if_no_progress apply State.Keeps.upd)


theorem execReductionBlockLoaded_keeps {s0 s s1 : State} 
    (hk : s0.Keeps s) (hs : execReductionBlockLoaded s = .next s1) : s0.Keeps s1 := by
  unfold execReductionBlockLoaded at hs
  injection hs with hs
  subst hs
  with_reducible repeat'
    first
      | assumption | apply State.bulkRead_keeps | apply State.violate_keeps | apply State.violateAll_keeps
      | apply State.fastAdd_keeps | apply State.Keeps.ite | apply State.Keeps.foldl | apply State.Keeps.foldl₁
      | (intro _) | (dsimp only) | (split) | (fail_if_no_progress apply State.Keeps.upd)


theorem execPutPacket_keeps {s0 s s1 : State} (p : Packet)
    (hk : s0.Keeps s) (hs : execPutPacket p s = .next s1) : s0.Keeps s1 := by
  unfold execPutPacket at hs
  injection hs with hs
  subst hs
  with_reducible repeat'
    first
      | assumption | apply State.takePacket_keeps | apply State.noteLanding_keeps | apply State.strandCtl_keeps
      | apply State.request_keeps | apply State.writeAt_keeps | apply State.confirm_keeps | apply State.Keeps.ite
      | apply State.Keeps.foldl | apply State.Keeps.foldl₁ | (intro _) | (dsimp only) | (split)
      | (fail_if_no_progress apply State.Keeps.upd)


theorem execAccPacket_keeps {s0 s s1 : State} (p : Packet)
    (hk : s0.Keeps s) (hs : execAccPacket p s = .next s1) : s0.Keeps s1 := by
  unfold execAccPacket at hs
  injection hs with hs
  subst hs
  with_reducible repeat'
    first
      | assumption | apply State.takePacket_keeps | apply State.noteLanding_keeps | apply State.confirm_keeps
      | apply State.violate_keeps | apply State.frontTake_keeps | apply State.accLocal_keeps | apply State.Keeps.ite
      | apply State.Keeps.foldl | apply State.Keeps.foldl₁ | (intro _) | (dsimp only) | (split)
      | (fail_if_no_progress apply State.Keeps.upd)


theorem execGetReq_keeps {s0 s s1 : State} (p : Packet)
    (hk : s0.Keeps s) (hs : execGetReq p s = .next s1) : s0.Keeps s1 := by
  unfold execGetReq at hs
  injection hs with hs
  subst hs
  with_reducible repeat'
    first
      | assumption | apply State.takePacket_keeps | apply State.postFrom_keeps | apply State.readEffect_keeps
      | apply State.Keeps.ite | apply State.Keeps.foldl | apply State.Keeps.foldl₁ | (intro _) | (dsimp only)
      | (split) | (fail_if_no_progress apply State.Keeps.upd)


theorem execGetResp_keeps {s0 s s1 : State} (p : Packet)
    (hk : s0.Keeps s) (hs : execGetResp p s = .next s1) : s0.Keeps s1 := by
  unfold execGetResp at hs
  injection hs with hs
  subst hs
  with_reducible repeat'
    first
      | assumption | apply State.takePacket_keeps | apply State.faceGets_keeps | apply State.answered_keeps
      | apply State.writeSlow_keeps | apply State.writeGot_keeps | apply State.Keeps.ite | apply State.Keeps.foldl
      | apply State.Keeps.foldl₁ | (intro _) | (dsimp only) | (split) | (fail_if_no_progress apply State.Keeps.upd)


theorem execTaddPacket_keeps {s0 s s1 : State} (p : Packet)
    (hk : s0.Keeps s) (hs : execTaddPacket p s = .next s1) : s0.Keeps s1 := by
  unfold execTaddPacket at hs
  injection hs with hs
  subst hs
  with_reducible repeat'
    first
      | assumption | apply State.takePacket_keeps | apply State.addLocal_keeps | apply State.post_keeps
      | apply State.Keeps.ite | apply State.Keeps.foldl | apply State.Keeps.foldl₁ | (intro _) | (dsimp only)
      | (split) | (fail_if_no_progress apply State.Keeps.upd)


theorem execAckPacket_keeps {s0 s s1 : State} (p : Packet)
    (hk : s0.Keeps s) (hs : execAckPacket p s = .next s1) : s0.Keeps s1 := by
  unfold execAckPacket at hs
  injection hs with hs
  subst hs
  with_reducible repeat'
    first
      | assumption | apply State.takePacket_keeps | apply State.signalAcked_keeps | apply State.noteStatus_keeps
      | apply State.countAbsent_keeps | apply State.faceGets_keeps | apply State.answered_keeps
      | apply State.zeroGet_keeps | apply State.Keeps.ite | apply State.Keeps.foldl | apply State.Keeps.foldl₁
      | (intro _) | (dsimp only) | (split) | (fail_if_no_progress apply State.Keeps.upd)


theorem execWaitReg_keeps {s0 s s1 : State} (p : Packet)
    (hk : s0.Keeps s) (hs : execWaitReg p s = .next s1) : s0.Keeps s1 := by
  unfold execWaitReg at hs
  injection hs with hs
  subst hs
  with_reducible repeat'
    first
      | assumption | apply State.takePacket_keeps | apply State.post_keeps | apply State.countFull_keeps
      | apply State.addRecord_keeps | apply State.violate_keeps | apply State.Keeps.ite | apply State.Keeps.foldl
      | apply State.Keeps.foldl₁ | (intro _) | (dsimp only) | (split) | (fail_if_no_progress apply State.Keeps.upd)


theorem execWake_keeps {s0 s s1 : State} (p : Packet)
    (hk : s0.Keeps s) (hs : execWake p s = .next s1) : s0.Keeps s1 := by
  unfold execWake at hs
  injection hs with hs
  subst hs
  with_reducible repeat'
    first
      | assumption | apply State.takePacket_keeps | apply State.wakeStrand_keeps | apply State.wakeNotifier_keeps
      | apply State.Keeps.ite | apply State.Keeps.foldl | apply State.Keeps.foldl₁ | (intro _) | (dsimp only)
      | (split) | (fail_if_no_progress apply State.Keeps.upd)


theorem execWaitRegResend_keeps {s0 s s1 : State} (pos : Nat)
    (hk : s0.Keeps s) (hs : execWaitRegResend pos s = .next s1) : s0.Keeps s1 := by
  unfold execWaitRegResend at hs
  injection hs with hs
  subst hs
  with_reducible repeat'
    first
      | assumption | apply State.post_keeps | apply State.Keeps.ite | apply State.Keeps.foldl
      | apply State.Keeps.foldl₁ | (intro _) | (dsimp only) | (split) | (fail_if_no_progress apply State.Keeps.upd)


theorem execWriteConfirm_keeps {s0 s s1 : State} (k : Confirm)
    (hk : s0.Keeps s) (hs : execWriteConfirm k s = .next s1) : s0.Keeps s1 := by
  unfold execWriteConfirm at hs
  injection hs with hs
  subst hs
  with_reducible repeat'
    first
      | assumption | apply State.landAll_keeps | apply State.Keeps.ite | apply State.Keeps.foldl
      | apply State.Keeps.foldl₁ | (intro _) | (dsimp only) | (split) | (fail_if_no_progress apply State.Keeps.upd)


theorem execKArrive_keeps {s0 s s1 : State} (p : Packet)
    (hk : s0.Keeps s) (hs : execKArrive p s = .next s1) : s0.Keeps s1 := by
  unfold execKArrive at hs
  injection hs with hs
  subst hs
  with_reducible repeat'
    first
      | assumption | apply State.takePacket_keeps | apply State.atHome_keeps | apply State.Keeps.ite
      | apply State.Keeps.foldl | apply State.Keeps.foldl₁ | (intro _) | (dsimp only) | (split)
      | (fail_if_no_progress apply State.Keeps.upd)


theorem execKWait_keeps {s0 s s1 : State} (p : Packet)
    (hk : s0.Keeps s) (hs : execKWait p s = .next s1) : s0.Keeps s1 := by
  unfold execKWait at hs
  injection hs with hs
  subst hs
  with_reducible repeat'
    first
      | assumption | apply State.takePacket_keeps | apply State.atHome_keeps | apply State.Keeps.ite
      | apply State.Keeps.foldl | apply State.Keeps.foldl₁ | (intro _) | (dsimp only) | (split)
      | (fail_if_no_progress apply State.Keeps.upd)


theorem execKRelease_keeps {s0 s s1 : State} (p : Packet)
    (hk : s0.Keeps s) (hs : execKRelease p s = .next s1) : s0.Keeps s1 := by
  unfold execKRelease at hs
  injection hs with hs
  subst hs
  with_reducible repeat'
    first
      | assumption | apply State.takePacket_keeps | apply State.noteRelease_keeps | apply State.releaseStrand_keeps
      | apply State.Keeps.ite | apply State.Keeps.foldl | apply State.Keeps.foldl₁ | (intro _) | (dsimp only)
      | (split) | (fail_if_no_progress apply State.Keeps.upd)


theorem execKChain_keeps {s0 s s1 : State} (p : Packet)
    (hk : s0.Keeps s) (hs : execKChain p s = .next s1) : s0.Keeps s1 := by
  unfold execKChain at hs
  injection hs with hs
  subst hs
  with_reducible repeat'
    first
      | assumption | apply State.takePacket_keeps | apply State.chainEnds_keeps | apply State.engineRead_keeps
      | apply State.chainArrive_keeps | apply State.chainClose_keeps | apply State.Keeps.ite | apply State.Keeps.foldl
      | apply State.Keeps.foldl₁ | (intro _) | (dsimp only) | (split) | (fail_if_no_progress apply State.Keeps.upd)


theorem execKsCascadeClose_keeps {s0 s s1 : State} (cl : ClusterId) (slot : Fin 16)
    (hk : s0.Keeps s) (hs : execKsCascadeClose cl slot s = .next s1) : s0.Keeps s1 := by
  unfold execKsCascadeClose at hs
  injection hs with hs
  subst hs
  with_reducible repeat'
    first
      | assumption | apply State.kCheck_keeps | apply State.Keeps.ite | apply State.Keeps.foldl
      | apply State.Keeps.foldl₁ | (intro _) | (dsimp only) | (split) | (fail_if_no_progress apply State.Keeps.upd)


theorem execKsSlotBind_keeps {s0 s s1 : State} (cl : ClusterId)
    (hk : s0.Keeps s) (hs : execKsSlotBind cl s = .next s1) : s0.Keeps s1 := by
  unfold execKsSlotBind at hs
  injection hs with hs
  subst hs
  with_reducible repeat'
    first
      | assumption | apply State.kServe_keeps | apply State.modCluster_keeps | apply State.Keeps.ite
      | apply State.Keeps.foldl | apply State.Keeps.foldl₁ | (intro _) | (dsimp only) | (split)
      | (fail_if_no_progress apply State.Keeps.upd)


theorem execMcHoldTimeout_keeps {s0 s s1 : State} (c : CoreId) (slot : Fin 32) (branch : Nat)
    (hk : s0.Keeps s) (hs : execMcHoldTimeout c slot branch s = .next s1) : s0.Keeps s1 := by
  unfold execMcHoldTimeout at hs
  injection hs with hs
  subst hs
  with_reducible repeat'
    first
      | assumption | apply State.setSlot_keeps | apply State.logWait_keeps | apply State.modCluster_keeps
      | apply State.Keeps.ite | apply State.Keeps.foldl | apply State.Keeps.foldl₁ | (intro _) | (dsimp only)
      | (split) | (fail_if_no_progress apply State.Keeps.upd)


theorem execPchServe_keeps {s0 s s1 : State} (p : PchId)
    (hk : s0.Keeps s) (hs : execPchServe p s = .next s1) : s0.Keeps s1 := by
  unfold execPchServe at hs
  injection hs with hs
  subst hs
  with_reducible repeat'
    first
      | assumption | apply State.modPch_keeps | apply State.Keeps.ite | apply State.Keeps.foldl
      | apply State.Keeps.foldl₁ | (intro _) | (dsimp only) | (split) | (fail_if_no_progress apply State.Keeps.upd)


theorem execBulkPromote_keeps {s0 s s1 : State} (p : PchId)
    (hk : s0.Keeps s) (hs : execBulkPromote p s = .next s1) : s0.Keeps s1 := by
  unfold execBulkPromote at hs
  injection hs with hs
  subst hs
  with_reducible repeat'
    first
      | assumption | apply State.modPch_keeps | apply State.Keeps.ite | apply State.Keeps.foldl
      | apply State.Keeps.foldl₁ | (intro _) | (dsimp only) | (split) | (fail_if_no_progress apply State.Keeps.upd)


theorem execFragmentAdd_keeps {s0 s s1 : State} (adder : Fin 16)
    (hk : s0.Keeps s) (hs : execFragmentAdd adder s = .next s1) : s0.Keeps s1 := by
  unfold execFragmentAdd at hs
  injection hs with hs
  subst hs
  with_reducible repeat'
    first
      | assumption | apply State.refill_keeps | apply State.addFrag_keeps | apply State.Keeps.ite
      | apply State.Keeps.foldl | apply State.Keeps.foldl₁ | (intro _) | (dsimp only) | (split)
      | (fail_if_no_progress apply State.Keeps.upd)


theorem execLinkForward_keeps {s0 s s1 : State} (pos : Nat)
    (hk : s0.Keeps s) (hs : execLinkForward pos s = .next s1) : s0.Keeps s1 := by
  unfold execLinkForward at hs
  injection hs with hs
  subst hs
  with_reducible repeat'
    first
      | assumption | apply State.endLost_keeps | apply State.freeFlight_keeps | apply State.logAdd_keeps
      | apply State.onLink_keeps | apply State.Keeps.ite | apply State.Keeps.foldl | apply State.Keeps.foldl₁
      | (intro _) | (dsimp only) | (split) | (fail_if_no_progress apply State.Keeps.upd)


theorem execRouteWaitExpiry_keeps {s0 s s1 : State} (pos : Nat)
    (hk : s0.Keeps s) (hs : execRouteWaitExpiry pos s = .next s1) : s0.Keeps s1 := by
  unfold execRouteWaitExpiry at hs
  injection hs with hs
  subst hs
  with_reducible repeat'
    first
      | assumption | apply State.endLost_keeps | apply State.freeFlight_keeps | apply State.Keeps.ite
      | apply State.Keeps.foldl | apply State.Keeps.foldl₁ | (intro _) | (dsimp only) | (split)
      | (fail_if_no_progress apply State.Keeps.upd)


theorem execDataFlit_keeps {s0 s s1 : State} (l : LinkId) (flit : List Byte)
    (hk : s0.Keeps s) (hs : execDataFlit l flit s = .next s1) : s0.Keeps s1 := by
  unfold execDataFlit at hs
  injection hs with hs
  subst hs
  with_reducible repeat'
    first
      | assumption | apply State.takeFlit_keeps | apply State.Keeps.ite | apply State.Keeps.foldl
      | apply State.Keeps.foldl₁ | (intro _) | (dsimp only) | (split) | (fail_if_no_progress apply State.Keeps.upd)


theorem execLinkAckTimer_keeps {s0 s s1 : State} (l : LinkId)
    (hk : s0.Keeps s) (hs : execLinkAckTimer l s = .next s1) : s0.Keeps s1 := by
  unfold execLinkAckTimer at hs
  injection hs with hs
  subst hs
  with_reducible repeat'
    first
      | assumption | apply State.sendIdle_keeps | apply State.Keeps.ite | apply State.Keeps.foldl
      | apply State.Keeps.foldl₁ | (intro _) | (dsimp only) | (split) | (fail_if_no_progress apply State.Keeps.upd)


theorem execReplayTimeout_keeps {s0 s s1 : State} (l : LinkId)
    (hk : s0.Keeps s) (hs : execReplayTimeout l s = .next s1) : s0.Keeps s1 := by
  unfold execReplayTimeout at hs
  injection hs with hs
  subst hs
  with_reducible repeat'
    first
      | assumption | apply State.replay_keeps | apply State.Keeps.ite | apply State.Keeps.foldl
      | apply State.Keeps.foldl₁ | (intro _) | (dsimp only) | (split) | (fail_if_no_progress apply State.Keeps.upd)


theorem execLinkDown_keeps {s0 s s1 : State} (l : LinkId) (why : DownCause)
    (hk : s0.Keeps s) (hs : execLinkDown l why s = .next s1) : s0.Keeps s1 := by
  unfold execLinkDown at hs
  injection hs with hs
  subst hs
  with_reducible repeat'
    first
      | assumption | apply State.linkOut_keeps | apply State.Keeps.ite | apply State.Keeps.foldl
      | apply State.Keeps.foldl₁ | (intro _) | (dsimp only) | (split) | (fail_if_no_progress apply State.Keeps.upd)


theorem execCapMsg_keeps {s0 s s1 : State} (l : LinkId) (arg : BitVec 56)
    (hk : s0.Keeps s) (hs : execCapMsg l arg s = .next s1) : s0.Keeps s1 := by
  unfold execCapMsg at hs
  injection hs with hs
  subst hs
  with_reducible repeat'
    first
      | assumption | apply State.takeCap_keeps | apply State.Keeps.ite | apply State.Keeps.foldl
      | apply State.Keeps.foldl₁ | (intro _) | (dsimp only) | (split) | (fail_if_no_progress apply State.Keeps.upd)


theorem execAddressMsg_keeps {s0 s s1 : State} (l : LinkId) (arg : BitVec 56)
    (hk : s0.Keeps s) (hs : execAddressMsg l arg s = .next s1) : s0.Keeps s1 := by
  unfold execAddressMsg at hs
  injection hs with hs
  subst hs
  with_reducible repeat'
    first
      | assumption | apply State.takeAddress_keeps | apply State.Keeps.ite | apply State.Keeps.foldl
      | apply State.Keeps.foldl₁ | (intro _) | (dsimp only) | (split) | (fail_if_no_progress apply State.Keeps.upd)


theorem execRetireLane_keeps {s0 s s1 : State} (l : LinkId) (arg : BitVec 56)
    (hk : s0.Keeps s) (hs : execRetireLane l arg s = .next s1) : s0.Keeps s1 := by
  unfold execRetireLane at hs
  injection hs with hs
  subst hs
  with_reducible repeat'
    first
      | assumption | apply State.retireLink_keeps | apply State.Keeps.ite | apply State.Keeps.foldl
      | apply State.Keeps.foldl₁ | (intro _) | (dsimp only) | (split) | (fail_if_no_progress apply State.Keeps.upd)


theorem execWidthMsg_keeps {s0 s s1 : State} (l : LinkId) (arg : BitVec 56)
    (hk : s0.Keeps s) (hs : execWidthMsg l arg s = .next s1) : s0.Keeps s1 := by
  unfold execWidthMsg at hs
  injection hs with hs
  subst hs
  with_reducible repeat'
    first
      | assumption | apply State.takeWidth_keeps | apply State.Keeps.ite | apply State.Keeps.foldl
      | apply State.Keeps.foldl₁ | (intro _) | (dsimp only) | (split) | (fail_if_no_progress apply State.Keeps.upd)


theorem execResetNotice_keeps {s0 s s1 : State} (l : LinkId)
    (hk : s0.Keeps s) (hs : execResetNotice l s = .next s1) : s0.Keeps s1 := by
  unfold execResetNotice at hs
  injection hs with hs
  subst hs
  with_reducible repeat'
    first
      | assumption | apply State.partnerReset_keeps | apply State.Keeps.ite | apply State.Keeps.foldl
      | apply State.Keeps.foldl₁ | (intro _) | (dsimp only) | (split) | (fail_if_no_progress apply State.Keeps.upd)


theorem execWidthChangeDone_keeps {s0 s s1 : State} (l : LinkId)
    (hk : s0.Keeps s) (hs : execWidthChangeDone l s = .next s1) : s0.Keeps s1 := by
  unfold execWidthChangeDone at hs
  injection hs with hs
  subst hs
  with_reducible repeat'
    first
      | assumption | apply State.changeLink_keeps | apply State.resend_keeps | apply State.Keeps.ite
      | apply State.Keeps.foldl | apply State.Keeps.foldl₁ | (intro _) | (dsimp only) | (split)
      | (fail_if_no_progress apply State.Keeps.upd)


theorem execLaneWindowExpiry_keeps {s0 s s1 : State} (l : LinkId) (lane : Fin 8)
    (hk : s0.Keeps s) (hs : execLaneWindowExpiry l lane s = .next s1) : s0.Keeps s1 := by
  unfold execLaneWindowExpiry at hs
  injection hs with hs
  subst hs
  with_reducible repeat'
    first
      | assumption | apply State.modLink_keeps | apply State.Keeps.ite | apply State.Keeps.foldl
      | apply State.Keeps.foldl₁ | (intro _) | (dsimp only) | (split) | (fail_if_no_progress apply State.Keeps.upd)


theorem execLaneErrLimit_keeps {s0 s s1 : State} (l : LinkId) (lane : Fin 8)
    (hk : s0.Keeps s) (hs : execLaneErrLimit l lane s = .next s1) : s0.Keeps s1 := by
  unfold execLaneErrLimit at hs
  injection hs with hs
  subst hs
  with_reducible repeat'
    first
      | assumption | apply State.retireOwn_keeps | apply State.Keeps.ite | apply State.Keeps.foldl
      | apply State.Keeps.foldl₁ | (intro _) | (dsimp only) | (split) | (fail_if_no_progress apply State.Keeps.upd)


theorem execLaneLockLoss_keeps {s0 s s1 : State} (l : LinkId) (lane : Fin 8)
    (hk : s0.Keeps s) (hs : execLaneLockLoss l lane s = .next s1) : s0.Keeps s1 := by
  unfold execLaneLockLoss at hs
  injection hs with hs
  subst hs
  with_reducible repeat'
    first
      | assumption | apply State.retireOwn_keeps | apply State.Keeps.ite | apply State.Keeps.foldl
      | apply State.Keeps.foldl₁ | (intro _) | (dsimp only) | (split) | (fail_if_no_progress apply State.Keeps.upd)


theorem execCableInsert_keeps {s0 s s1 : State} (cage : Fin 6)
    (hk : s0.Keeps s) (hs : execCableInsert cage s = .next s1) : s0.Keeps s1 := by
  unfold execCableInsert at hs
  injection hs with hs
  subst hs
  with_reducible repeat'
    first
      | assumption | apply State.modLink_keeps | apply State.startTraining_keeps | apply State.Keeps.ite
      | apply State.Keeps.foldl | apply State.Keeps.foldl₁ | (intro _) | (dsimp only) | (split)
      | (fail_if_no_progress apply State.Keeps.upd)


theorem execCableRemove_keeps {s0 s s1 : State} (cage : Fin 6)
    (hk : s0.Keeps s) (hs : execCableRemove cage s = .next s1) : s0.Keeps s1 := by
  unfold execCableRemove at hs
  injection hs with hs
  subst hs
  with_reducible repeat'
    first
      | assumption | apply State.cableGone_keeps | apply State.Keeps.ite | apply State.Keeps.foldl
      | apply State.Keeps.foldl₁ | (intro _) | (dsimp only) | (split) | (fail_if_no_progress apply State.Keeps.upd)


theorem execLinkTrainingDone_keeps {s0 s s1 : State} (l : LinkId) (r : TrainResult)
    (hk : s0.Keeps s) (hs : execLinkTrainingDone l r s = .next s1) : s0.Keeps s1 := by
  unfold execLinkTrainingDone at hs
  injection hs with hs
  subst hs
  with_reducible repeat'
    first
      | assumption | apply State.trainedDark_keeps | apply State.trainedLink_keeps | apply State.Keeps.ite
      | apply State.Keeps.foldl | apply State.Keeps.foldl₁ | (intro _) | (dsimp only) | (split)
      | (fail_if_no_progress apply State.Keeps.upd)


theorem execLinkRetrainTimer_keeps {s0 s s1 : State} (l : LinkId)
    (hk : s0.Keeps s) (hs : execLinkRetrainTimer l s = .next s1) : s0.Keeps s1 := by
  unfold execLinkRetrainTimer at hs
  injection hs with hs
  subst hs
  with_reducible repeat'
    first
      | assumption | apply State.changeLink_keeps | apply State.startTraining_keeps | apply State.Keeps.ite
      | apply State.Keeps.foldl | apply State.Keeps.foldl₁ | (intro _) | (dsimp only) | (split)
      | (fail_if_no_progress apply State.Keeps.upd)


theorem execBondStandbyJoin_keeps {s0 s s1 : State} (l : LinkId)
    (hk : s0.Keeps s) (hs : execBondStandbyJoin l s = .next s1) : s0.Keeps s1 := by
  unfold execBondStandbyJoin at hs
  injection hs with hs
  subst hs
  with_reducible repeat'
    first
      | assumption | apply State.rebond_keeps | apply State.changeLink_keeps | apply State.Keeps.ite
      | apply State.Keeps.foldl | apply State.Keeps.foldl₁ | (intro _) | (dsimp only) | (split)
      | (fail_if_no_progress apply State.Keeps.upd)


theorem execCageOvercurrent_keeps {s0 s s1 : State} (cage : Fin 6)
    (hk : s0.Keeps s) (hs : execCageOvercurrent cage s = .next s1) : s0.Keeps s1 := by
  unfold execCageOvercurrent at hs
  injection hs with hs
  subst hs
  with_reducible repeat'
    first
      | assumption | apply State.darken_keeps | apply State.Keeps.ite | apply State.Keeps.foldl
      | apply State.Keeps.foldl₁ | (intro _) | (dsimp only) | (split) | (fail_if_no_progress apply State.Keeps.upd)


theorem execRouteInstall_keeps {s0 s s1 : State} 
    (hk : s0.Keeps s) (hs : execRouteInstall s = .next s1) : s0.Keeps s1 := by
  unfold execRouteInstall at hs
  injection hs with hs
  subst hs
  with_reducible repeat'
    first
      | assumption | apply State.endReenum_keeps | apply State.afterAbsence_keeps | apply State.Keeps.ite
      | apply State.Keeps.foldl | apply State.Keeps.foldl₁ | (intro _) | (dsimp only) | (split)
      | (fail_if_no_progress apply State.Keeps.upd)


theorem execHstTaddWrite_keeps {s0 s s1 : State} (p : PortId) (bytes : List Byte)
    (hk : s0.Keeps s) (hs : execHstTaddWrite p bytes s = .next s1) : s0.Keeps s1 := by
  unfold execHstTaddWrite at hs
  injection hs with hs
  subst hs
  with_reducible repeat'
    first
      | assumption | apply State.hostTadd_keeps | apply State.violate_keeps | apply State.Keeps.ite
      | apply State.Keeps.foldl | apply State.Keeps.foldl₁ | (intro _) | (dsimp only) | (split)
      | (fail_if_no_progress apply State.Keeps.upd)


theorem execHstWlWrite_keeps {s0 s s1 : State} (p : PortId) (list : Fin 8) (off : Nat) (bytes : List Byte)
    (hk : s0.Keeps s) (hs : execHstWlWrite p list off bytes s = .next s1) : s0.Keeps s1 := by
  unfold execHstWlWrite at hs
  injection hs with hs
  subst hs
  with_reducible repeat'
    first
      | assumption | apply State.bar0Write_keeps | apply State.Keeps.ite | apply State.Keeps.foldl
      | apply State.Keeps.foldl₁ | (intro _) | (dsimp only) | (split) | (fail_if_no_progress apply State.Keeps.upd)


theorem execHstNotifyWrite_keeps {s0 s s1 : State} (p : PortId) (v : Fin 64) (off : Nat) (bytes : List Byte)
    (hk : s0.Keeps s) (hs : execHstNotifyWrite p v off bytes s = .next s1) : s0.Keeps s1 := by
  unfold execHstNotifyWrite at hs
  injection hs with hs
  subst hs
  with_reducible repeat'
    first
      | assumption | apply State.bar0Write_keeps | apply State.Keeps.ite | apply State.Keeps.foldl
      | apply State.Keeps.foldl₁ | (intro _) | (dsimp only) | (split) | (fail_if_no_progress apply State.Keeps.upd)


theorem execHstApBaseWrite_keeps {s0 s s1 : State} (p : PortId) (off : Nat) (bytes : List Byte)
    (hk : s0.Keeps s) (hs : execHstApBaseWrite p off bytes s = .next s1) : s0.Keeps s1 := by
  unfold execHstApBaseWrite at hs
  injection hs with hs
  subst hs
  with_reducible repeat'
    first
      | assumption | apply State.bar0Write_keeps | apply State.Keeps.ite | apply State.Keeps.foldl
      | apply State.Keeps.foldl₁ | (intro _) | (dsimp only) | (split) | (fail_if_no_progress apply State.Keeps.upd)


theorem execFtRangeClearWrite_keeps {s0 s s1 : State} (path : RegPath) (off : Nat) (bytes : List Byte)
    (hk : s0.Keeps s) (hs : execFtRangeClearWrite path off bytes s = .next s1) : s0.Keeps s1 := by
  unfold execFtRangeClearWrite at hs
  injection hs with hs
  subst hs
  with_reducible repeat'
    first
      | assumption | apply State.writeReg_keeps | apply State.Keeps.ite | apply State.Keeps.foldl
      | apply State.Keeps.foldl₁ | (intro _) | (dsimp only) | (split) | (fail_if_no_progress apply State.Keeps.upd)


theorem execLatchFaultLostClear_keeps {s0 s s1 : State} (c : CoreId) (value : Word) (setNow : Bool)
    (hk : s0.Keeps s) (hs : execLatchFaultLostClear c value setNow s = .next s1) : s0.Keeps s1 := by
  unfold execLatchFaultLostClear at hs
  injection hs with hs
  subst hs
  with_reducible repeat'
    first
      | assumption | apply State.latchWrite_keeps | apply State.Keeps.ite | apply State.Keeps.foldl
      | apply State.Keeps.foldl₁ | (intro _) | (dsimp only) | (split) | (fail_if_no_progress apply State.Keeps.upd)


theorem execReadClear_keeps {s0 s s1 : State} (path : RegPath) (off : Nat) (size : Nat)
    (hk : s0.Keeps s) (hs : execReadClear path off size s = .next s1) : s0.Keeps s1 := by
  unfold execReadClear at hs
  injection hs with hs
  subst hs
  with_reducible repeat'
    first
      | assumption | apply State.emit_keeps | apply State.readCfg_keeps | apply State.readWindow_keeps
      | apply State.emit_keeps | apply State.Keeps.ite | apply State.Keeps.foldl | apply State.Keeps.foldl₁
      | (intro _) | (dsimp only) | (split) | (fail_if_no_progress apply State.Keeps.upd)


theorem execRegisterWrite_keeps {s0 s s1 : State} (path : RegPath) (off : Nat) (bytes : List Byte)
    (hk : s0.Keeps s) (hs : execRegisterWrite path off bytes s = .next s1) : s0.Keeps s1 := by
  unfold execRegisterWrite at hs
  injection hs with hs
  subst hs
  with_reducible repeat'
    first
      | assumption | apply State.writeReg_keeps | apply State.Keeps.ite | apply State.Keeps.foldl
      | apply State.Keeps.foldl₁ | (intro _) | (dsimp only) | (split) | (fail_if_no_progress apply State.Keeps.upd)


theorem execBar2Read_keeps {s0 s s1 : State} (p : PortId) (off : Nat) (size : Nat)
    (hk : s0.Keeps s) (hs : execBar2Read p off size s = .next s1) : s0.Keeps s1 := by
  unfold execBar2Read at hs
  injection hs with hs
  subst hs
  with_reducible repeat'
    first
      | assumption | apply State.request_keeps | apply State.countBad_keeps | apply State.emit_keeps
      | apply State.emit_keeps | apply State.Keeps.ite | apply State.Keeps.foldl | apply State.Keeps.foldl₁
      | (intro _) | (dsimp only) | (split) | (fail_if_no_progress apply State.Keeps.upd)


theorem execBar2Write_keeps {s0 s s1 : State} (p : PortId) (off : Nat) (bytes : List Byte)
    (hk : s0.Keeps s) (hs : execBar2Write p off bytes s = .next s1) : s0.Keeps s1 := by
  unfold execBar2Write at hs
  injection hs with hs
  subst hs
  with_reducible repeat'
    first
      | assumption | apply State.request_keeps | apply State.writeAt_keeps | apply State.Keeps.ite
      | apply State.Keeps.foldl | apply State.Keeps.foldl₁ | (intro _) | (dsimp only) | (split)
      | (fail_if_no_progress apply State.Keeps.upd)


theorem execRun_keeps {s0 s s1 : State} (k : Cmd)
    (hk : s0.Keeps s) (hs : execRun k s = .next s1) : s0.Keeps s1 := by
  unfold execRun at hs
  injection hs with hs
  subst hs
  with_reducible repeat'
    first
      | assumption | apply State.effect_keeps | apply State.applyRun_keeps | apply State.Keeps.ite
      | apply State.Keeps.foldl | apply State.Keeps.foldl₁ | (intro _) | (dsimp only) | (split)
      | (fail_if_no_progress apply State.Keeps.upd)


theorem execUpdate_keeps {s0 s s1 : State} (k : Cmd)
    (hk : s0.Keeps s) (hs : execUpdate k s = .next s1) : s0.Keeps s1 := by
  unfold execUpdate at hs
  injection hs with hs
  subst hs
  with_reducible repeat'
    first
      | assumption | apply State.effect_keeps | apply State.modLiftRam_keeps | apply State.placeTables_keeps
      | apply State.Keeps.ite | apply State.Keeps.foldl | apply State.Keeps.foldl₁ | (intro _) | (dsimp only)
      | (split) | (fail_if_no_progress apply State.Keeps.upd)


theorem execLiftClose_keeps {s0 s s1 : State} (k : Cmd)
    (hk : s0.Keeps s) (hs : execLiftClose k s = .next s1) : s0.Keeps s1 := by
  unfold execLiftClose at hs
  injection hs with hs
  subst hs
  with_reducible repeat'
    first
      | assumption | apply State.effect_keeps | apply State.modLiftRam_keeps | apply State.Keeps.ite
      | apply State.Keeps.foldl | apply State.Keeps.foldl₁ | (intro _) | (dsimp only) | (split)
      | (fail_if_no_progress apply State.Keeps.upd)


theorem execPin_keeps {s0 s s1 : State} (k : Cmd)
    (hk : s0.Keeps s) (hs : execPin k s = .next s1) : s0.Keeps s1 := by
  unfold execPin at hs
  injection hs with hs
  subst hs
  with_reducible repeat'
    first
      | assumption | apply State.effectChecked_keeps | apply State.complete_keeps | apply State.movePins_keeps
      | apply State.Keeps.ite | apply State.Keeps.foldl | apply State.Keeps.foldl₁ | (intro _) | (dsimp only)
      | (split) | (fail_if_no_progress apply State.Keeps.upd)


theorem execUnpin_keeps {s0 s s1 : State} (k : Cmd)
    (hk : s0.Keeps s) (hs : execUnpin k s = .next s1) : s0.Keeps s1 := by
  unfold execUnpin at hs
  injection hs with hs
  subst hs
  with_reducible repeat'
    first
      | assumption | apply State.effectChecked_keeps | apply State.complete_keeps | apply State.movePins_keeps
      | apply State.Keeps.ite | apply State.Keeps.foldl | apply State.Keeps.foldl₁ | (intro _) | (dsimp only)
      | (split) | (fail_if_no_progress apply State.Keeps.upd)


theorem execRewindStop_keeps {s0 s s1 : State} (k : Cmd)
    (hk : s0.Keeps s) (hs : execRewindStop k s = .next s1) : s0.Keeps s1 := by
  unfold execRewindStop at hs
  injection hs with hs
  subst hs
  with_reducible repeat'
    first
      | assumption | apply State.effectSub_keeps | apply State.beginStop_keeps | apply State.Keeps.ite
      | apply State.Keeps.foldl | apply State.Keeps.foldl₁ | (intro _) | (dsimp only) | (split)
      | (fail_if_no_progress apply State.Keeps.upd)


theorem execStopQuiesced_keeps {s0 s s1 : State} 
    (hk : s0.Keeps s) (hs : execStopQuiesced s = .next s1) : s0.Keeps s1 := by
  unfold execStopQuiesced at hs
  injection hs with hs
  subst hs
  with_reducible repeat'
    first
      | assumption | apply State.finishStop_keeps | apply State.beginSuspects_keeps | apply State.Keeps.ite
      | apply State.Keeps.foldl | apply State.Keeps.foldl₁ | (intro _) | (dsimp only) | (split)
      | (fail_if_no_progress apply State.Keeps.upd)


theorem execRwQuiesceExpiry_keeps {s0 s s1 : State} 
    (hk : s0.Keeps s) (hs : execRwQuiesceExpiry s = .next s1) : s0.Keeps s1 := by
  unfold execRwQuiesceExpiry at hs
  injection hs with hs
  subst hs
  with_reducible repeat'
    first
      | assumption | apply State.modPlb_keeps | apply State.computeReset_keeps | apply State.beginSuspects_keeps
      | apply State.Keeps.ite | apply State.Keeps.foldl | apply State.Keeps.foldl₁ | (intro _) | (dsimp only)
      | (split) | (fail_if_no_progress apply State.Keeps.upd)


theorem execRewindResume_keeps {s0 s s1 : State} (k : Cmd)
    (hk : s0.Keeps s) (hs : execRewindResume k s = .next s1) : s0.Keeps s1 := by
  unfold execRewindResume at hs
  injection hs with hs
  subst hs
  with_reducible repeat'
    first
      | assumption | apply State.effectSub_keeps | apply State.clearExtents_keeps | apply State.placeFace_keeps
      | apply State.modMason_keeps | apply State.modJob_keeps | apply State.Keeps.ite | apply State.Keeps.foldl
      | apply State.Keeps.foldl₁ | (intro _) | (dsimp only) | (split) | (fail_if_no_progress apply State.Keeps.upd)


theorem execResumeArrivalReached_keeps {s0 s s1 : State} 
    (hk : s0.Keeps s) (hs : execResumeArrivalReached s = .next s1) : s0.Keeps s1 := by
  unfold execResumeArrivalReached at hs
  injection hs with hs
  subst hs
  with_reducible repeat'
    first
      | assumption | apply State.modJob_keeps | apply State.setMod_keeps | apply State.complete_keeps
      | apply State.hold_keeps | apply State.Keeps.ite | apply State.Keeps.foldl | apply State.Keeps.foldl₁
      | (intro _) | (dsimp only) | (split) | (fail_if_no_progress apply State.Keeps.upd)


theorem execDrain_keeps {s0 s s1 : State} (k : Cmd)
    (hk : s0.Keeps s) (hs : execDrain k s = .next s1) : s0.Keeps s1 := by
  unfold execDrain at hs
  injection hs with hs
  subst hs
  with_reducible repeat'
    first
      | assumption | apply State.effectChecked_keeps | apply State.modLiftRam_keeps | apply State.movePins_keeps
      | apply State.modXfer_keeps | apply State.Keeps.ite | apply State.Keeps.foldl | apply State.Keeps.foldl₁
      | (intro _) | (dsimp only) | (split) | (fail_if_no_progress apply State.Keeps.upd)


theorem execDrainComplete_keeps {s0 s s1 : State} 
    (hk : s0.Keeps s) (hs : execDrainComplete s = .next s1) : s0.Keeps s1 := by
  unfold execDrainComplete at hs
  injection hs with hs
  subst hs
  with_reducible repeat'
    first
      | assumption | apply State.emit_keeps | apply State.countSlow_keeps | apply State.moved_keeps
      | apply State.complete_keeps | apply State.logOp_keeps | apply State.endDrain_keeps | apply State.emit_keeps
      | apply State.Keeps.ite | apply State.Keeps.foldl | apply State.Keeps.foldl₁ | (intro _) | (dsimp only)
      | (split) | (fail_if_no_progress apply State.Keeps.upd)


theorem execRestoreStage_keeps {s0 s s1 : State} (k : Cmd)
    (hk : s0.Keeps s) (hs : execRestoreStage k s = .next s1) : s0.Keeps s1 := by
  unfold execRestoreStage at hs
  injection hs with hs
  subst hs
  with_reducible repeat'
    first
      | assumption | apply State.effectSub_keeps | apply State.startRestore_keeps | apply State.Keeps.ite
      | apply State.Keeps.foldl | apply State.Keeps.foldl₁ | (intro _) | (dsimp only) | (split)
      | (fail_if_no_progress apply State.Keeps.upd)


theorem execRestoreCommit_keeps {s0 s s1 : State} (k : Cmd)
    (hk : s0.Keeps s) (hs : execRestoreCommit k s = .next s1) : s0.Keeps s1 := by
  unfold execRestoreCommit at hs
  injection hs with hs
  subst hs
  with_reducible repeat'
    first
      | assumption | apply State.effectSub_keeps | apply State.startRestore_keeps | apply State.Keeps.ite
      | apply State.Keeps.foldl | apply State.Keeps.foldl₁ | (intro _) | (dsimp only) | (split)
      | (fail_if_no_progress apply State.Keeps.upd)


theorem execRestorePartner_keeps {s0 s s1 : State} (k : Cmd)
    (hk : s0.Keeps s) (hs : execRestorePartner k s = .next s1) : s0.Keeps s1 := by
  unfold execRestorePartner at hs
  injection hs with hs
  subst hs
  with_reducible repeat'
    first
      | assumption | apply State.effectSub_keeps | apply State.placeTables_keeps | apply State.faceGets_keeps
      | apply State.modXfer_keeps | apply State.Keeps.ite | apply State.Keeps.foldl | apply State.Keeps.foldl₁
      | (intro _) | (dsimp only) | (split) | (fail_if_no_progress apply State.Keeps.upd)


theorem execRestoreComplete_keeps {s0 s s1 : State} (data : List Byte)
    (hk : s0.Keeps s) (hs : execRestoreComplete data s = .next s1) : s0.Keeps s1 := by
  unfold execRestoreComplete at hs
  injection hs with hs
  subst hs
  with_reducible repeat'
    first
      | assumption | apply State.restored_keeps | apply State.commitLift_keeps | apply State.moved_keeps
      | apply State.writeExtents_keeps | apply State.Keeps.ite | apply State.Keeps.foldl | apply State.Keeps.foldl₁
      | (intro _) | (dsimp only) | (split) | (fail_if_no_progress apply State.Keeps.upd)


theorem execHostAccessTimeout_keeps {s0 s s1 : State} (isDrain : Bool)
    (hk : s0.Keeps s) (hs : execHostAccessTimeout isDrain s = .next s1) : s0.Keeps s1 := by
  unfold execHostAccessTimeout at hs
  injection hs with hs
  subst hs
  with_reducible repeat'
    first
      | assumption | apply State.refuse_keeps | apply State.endDrain_keeps | apply State.modXfer_keeps
      | apply State.Keeps.ite | apply State.Keeps.foldl | apply State.Keeps.foldl₁ | (intro _) | (dsimp only)
      | (split) | (fail_if_no_progress apply State.Keeps.upd)


theorem execMirrorOut_keeps {s0 s s1 : State} (k : Cmd)
    (hk : s0.Keeps s) (hs : execMirrorOut k s = .next s1) : s0.Keeps s1 := by
  unfold execMirrorOut at hs
  injection hs with hs
  subst hs
  with_reducible repeat'
    first
      | assumption | apply State.effectSub_keeps | apply State.modMsn_keeps | apply State.nextMirror_keeps
      | apply State.startMirror_keeps | apply State.Keeps.ite | apply State.Keeps.foldl | apply State.Keeps.foldl₁
      | (intro _) | (dsimp only) | (split) | (fail_if_no_progress apply State.Keeps.upd)


theorem execMirrorReturn_keeps {s0 s s1 : State} (k : Cmd)
    (hk : s0.Keeps s) (hs : execMirrorReturn k s = .next s1) : s0.Keeps s1 := by
  unfold execMirrorReturn at hs
  injection hs with hs
  subst hs
  with_reducible repeat'
    first
      | assumption | apply State.effectSub_keeps | apply State.modMsn_keeps | apply State.Keeps.ite
      | apply State.Keeps.foldl | apply State.Keeps.foldl₁ | (intro _) | (dsimp only) | (split)
      | (fail_if_no_progress apply State.Keeps.upd)


theorem execMirrorChunkSend_keeps {s0 s s1 : State} 
    (hk : s0.Keeps s) (hs : execMirrorChunkSend s = .next s1) : s0.Keeps s1 := by
  unfold execMirrorChunkSend at hs
  injection hs with hs
  subst hs
  with_reducible repeat'
    first
      | assumption | apply State.readImage_keeps | apply State.modMsn_keeps | apply State.sendChunk_keeps
      | apply State.countSlow_keeps | apply State.Keeps.ite | apply State.Keeps.foldl | apply State.Keeps.foldl₁
      | (intro _) | (dsimp only) | (split) | (fail_if_no_progress apply State.Keeps.upd)


theorem execMirrorChunkTake_keeps {s0 s s1 : State} 
    (hk : s0.Keeps s) (hs : execMirrorChunkTake s = .next s1) : s0.Keeps s1 := by
  unfold execMirrorChunkTake at hs
  injection hs with hs
  subst hs
  with_reducible repeat'
    first
      | assumption | apply State.takeChunk_keeps | apply State.Keeps.ite | apply State.Keeps.foldl
      | apply State.Keeps.foldl₁ | (intro _) | (dsimp only) | (split) | (fail_if_no_progress apply State.Keeps.upd)


theorem execRetirePch_keeps {s0 s s1 : State} (k : Cmd)
    (hk : s0.Keeps s) (hs : execRetirePch k s = .next s1) : s0.Keeps s1 := by
  unfold execRetirePch at hs
  injection hs with hs
  subst hs
  with_reducible repeat'
    first
      | assumption | apply State.effect_keeps | apply State.complete_keeps | apply State.retirePch_keeps
      | apply State.Keeps.ite | apply State.Keeps.foldl | apply State.Keeps.foldl₁ | (intro _) | (dsimp only)
      | (split) | (fail_if_no_progress apply State.Keeps.upd)


theorem execSuspectReplay_keeps {s0 s s1 : State} (k : Cmd)
    (hk : s0.Keeps s) (hs : execSuspectReplay k s = .next s1) : s0.Keeps s1 := by
  unfold execSuspectReplay at hs
  injection hs with hs
  subst hs
  with_reducible repeat'
    first
      | assumption | apply State.effect_keeps | apply State.modJob_keeps | apply State.hold_keeps
      | apply State.beginSuspects_keeps | apply State.Keeps.ite | apply State.Keeps.foldl | apply State.Keeps.foldl₁
      | (intro _) | (dsimp only) | (split) | (fail_if_no_progress apply State.Keeps.upd)


theorem execSuspectDone_keeps {s0 s s1 : State} 
    (hk : s0.Keeps s) (hs : execSuspectDone s = .next s1) : s0.Keeps s1 := by
  unfold execSuspectDone at hs
  injection hs with hs
  subst hs
  with_reducible repeat'
    first
      | assumption | apply State.nextSuspect_keeps | apply State.Keeps.ite | apply State.Keeps.foldl
      | apply State.Keeps.foldl₁ | (intro _) | (dsimp only) | (split) | (fail_if_no_progress apply State.Keeps.upd)


theorem execDump_keeps {s0 s s1 : State} (k : Cmd)
    (hk : s0.Keeps s) (hs : execDump k s = .next s1) : s0.Keeps s1 := by
  unfold execDump at hs
  injection hs with hs
  subst hs
  with_reducible repeat'
    first
      | assumption | apply State.effect_keeps | apply State.wantDump_keeps | apply State.modJob_keeps
      | apply State.Keeps.ite | apply State.Keeps.foldl | apply State.Keeps.foldl₁ | (intro _) | (dsimp only)
      | (split) | (fail_if_no_progress apply State.Keeps.upd)


theorem execShedAck_keeps {s0 s s1 : State} (k : Cmd)
    (hk : s0.Keeps s) (hs : execShedAck k s = .next s1) : s0.Keeps s1 := by
  unfold execShedAck at hs
  injection hs with hs
  subst hs
  with_reducible repeat'
    first
      | assumption | apply State.effect_keeps | apply State.complete_keeps | apply State.modPwr_keeps
      | apply State.Keeps.ite | apply State.Keeps.foldl | apply State.Keeps.foldl₁ | (intro _) | (dsimp only)
      | (split) | (fail_if_no_progress apply State.Keeps.upd)


theorem execReEnumerate_keeps {s0 s s1 : State} (k : Cmd)
    (hk : s0.Keeps s) (hs : execReEnumerate k s = .next s1) : s0.Keeps s1 := by
  unfold execReEnumerate at hs
  injection hs with hs
  subst hs
  with_reducible repeat'
    first
      | assumption | apply State.effect_keeps | apply State.modJob_keeps | apply State.startEnumeration_keeps
      | apply State.dropAddresses_keeps | apply State.sendDown_keeps | apply State.sendUp_keeps
      | apply State.Keeps.ite | apply State.Keeps.foldl | apply State.Keeps.foldl₁ | (intro _) | (dsimp only)
      | (split) | (fail_if_no_progress apply State.Keeps.upd)


theorem execGroupStart_keeps {s0 s s1 : State} (m : MasonId)
    (hk : s0.Keeps s) (hs : execGroupStart m s = .next s1) : s0.Keeps s1 := by
  unfold execGroupStart at hs
  injection hs with hs
  subst hs
  with_reducible repeat'
    first
      | assumption | apply State.showMason_keeps | apply State.modMason_keeps | apply State.nextGroup_keeps
      | apply State.startGroup_keeps | apply State.Keeps.ite | apply State.Keeps.foldl | apply State.Keeps.foldl₁
      | (intro _) | (dsimp only) | (split) | (fail_if_no_progress apply State.Keeps.upd)


theorem execRulePassEnd_keeps {s0 s s1 : State} (m : MasonId)
    (hk : s0.Keeps s) (hs : execRulePassEnd m s = .next s1) : s0.Keeps s1 := by
  unfold execRulePassEnd at hs
  injection hs with hs
  subst hs
  with_reducible repeat'
    first
      | assumption | apply State.waitTargets_keeps | apply State.showMason_keeps | apply State.endReface_keeps
      | apply State.endCarry_keeps | apply State.endRule_keeps | apply State.Keeps.ite | apply State.Keeps.foldl
      | apply State.Keeps.foldl₁ | (intro _) | (dsimp only) | (split) | (fail_if_no_progress apply State.Keeps.upd)


theorem execTrustPassStart_keeps {s0 s s1 : State} (m : MasonId)
    (hk : s0.Keeps s) (hs : execTrustPassStart m s = .next s1) : s0.Keeps s1 := by
  unfold execTrustPassStart at hs
  injection hs with hs
  subst hs
  with_reducible repeat'
    first
      | assumption | apply State.showMason_keeps | apply State.modGroup_keeps | apply State.Keeps.ite
      | apply State.Keeps.foldl | apply State.Keeps.foldl₁ | (intro _) | (dsimp only) | (split)
      | (fail_if_no_progress apply State.Keeps.upd)


theorem execFacePassStart_keeps {s0 s s1 : State} (m : MasonId)
    (hk : s0.Keeps s) (hs : execFacePassStart m s = .next s1) : s0.Keeps s1 := by
  unfold execFacePassStart at hs
  injection hs with hs
  subst hs
  with_reducible repeat'
    first
      | assumption | apply State.showMason_keeps | apply State.modGroup_keeps | apply State.Keeps.ite
      | apply State.Keeps.foldl | apply State.Keeps.foldl₁ | (intro _) | (dsimp only) | (split)
      | (fail_if_no_progress apply State.Keeps.upd)


theorem execLiftCloseCommit_keeps {s0 s s1 : State} 
    (hk : s0.Keeps s) (hs : execLiftCloseCommit s = .next s1) : s0.Keeps s1 := by
  unfold execLiftCloseCommit at hs
  injection hs with hs
  subst hs
  with_reducible repeat'
    first
      | assumption | apply State.modLift_keeps | apply State.modMsn_keeps | apply State.liftEnded_keeps
      | apply State.logOp_keeps | apply State.Keeps.ite | apply State.Keeps.foldl | apply State.Keeps.foldl₁
      | (intro _) | (dsimp only) | (split) | (fail_if_no_progress apply State.Keeps.upd)


theorem execLiftDiscard_keeps {s0 s s1 : State} 
    (hk : s0.Keeps s) (hs : execLiftDiscard s = .next s1) : s0.Keeps s1 := by
  unfold execLiftDiscard at hs
  injection hs with hs
  subst hs
  with_reducible repeat'
    first
      | assumption | apply State.liftEnded_keeps | apply State.modLift_keeps | apply State.Keeps.ite
      | apply State.Keeps.foldl | apply State.Keeps.foldl₁ | (intro _) | (dsimp only) | (split)
      | (fail_if_no_progress apply State.Keeps.upd)


theorem execSlowCorrected_keeps {s0 s s1 : State} (ch : ChanId)
    (hk : s0.Keeps s) (hs : execSlowCorrected ch s = .next s1) : s0.Keeps s1 := by
  unfold execSlowCorrected at hs
  injection hs with hs
  subst hs
  with_reducible repeat'
    first
      | assumption | apply State.onChan_keeps | apply State.chanGoodRead_keeps | apply State.Keeps.ite
      | apply State.Keeps.foldl | apply State.Keeps.foldl₁ | (intro _) | (dsimp only) | (split)
      | (fail_if_no_progress apply State.Keeps.upd)


theorem execSlowUncorrectedRead_keeps {s0 s s1 : State} (ch : ChanId)
    (hk : s0.Keeps s) (hs : execSlowUncorrectedRead ch s = .next s1) : s0.Keeps s1 := by
  unfold execSlowUncorrectedRead at hs
  injection hs with hs
  subst hs
  with_reducible repeat'
    first
      | assumption | apply State.onChan_keeps | apply State.chanBadRead_keeps | apply State.Keeps.ite
      | apply State.Keeps.foldl | apply State.Keeps.foldl₁ | (intro _) | (dsimp only) | (split)
      | (fail_if_no_progress apply State.Keeps.upd)


theorem execSlowRetryResult_keeps {s0 s s1 : State} (ch : ChanId) (r : Reread)
    (hk : s0.Keeps s) (hs : execSlowRetryResult ch r s = .next s1) : s0.Keeps s1 := by
  unfold execSlowRetryResult at hs
  injection hs with hs
  subst hs
  with_reducible repeat'
    first
      | assumption | apply State.onChan_keeps | apply State.modChan_keeps | apply State.chanGoodRead_keeps
      | apply State.retireChan_keeps | apply State.chanBadRead_keeps | apply State.Keeps.ite | apply State.Keeps.foldl
      | apply State.Keeps.foldl₁ | (intro _) | (dsimp only) | (split) | (fail_if_no_progress apply State.Keeps.upd)


theorem execSlowCeLimit_keeps {s0 s s1 : State} (ch : ChanId)
    (hk : s0.Keeps s) (hs : execSlowCeLimit ch s = .next s1) : s0.Keeps s1 := by
  unfold execSlowCeLimit at hs
  injection hs with hs
  subst hs
  with_reducible repeat'
    first
      | assumption | apply State.onChan_keeps | apply State.retireChan_keeps | apply State.Keeps.ite
      | apply State.Keeps.foldl | apply State.Keeps.foldl₁ | (intro _) | (dsimp only) | (split)
      | (fail_if_no_progress apply State.Keeps.upd)


theorem execSlowWindowExpiry_keeps {s0 s s1 : State} (ch : ChanId)
    (hk : s0.Keeps s) (hs : execSlowWindowExpiry ch s = .next s1) : s0.Keeps s1 := by
  unfold execSlowWindowExpiry at hs
  injection hs with hs
  subst hs
  with_reducible repeat'
    first
      | assumption | apply State.onChan_keeps | apply State.modChan_keeps | apply State.Keeps.ite
      | apply State.Keeps.foldl | apply State.Keeps.foldl₁ | (intro _) | (dsimp only) | (split)
      | (fail_if_no_progress apply State.Keeps.upd)


theorem execSlowRetrainDone_keeps {s0 s s1 : State} (ch : ChanId) (ok : Bool)
    (hk : s0.Keeps s) (hs : execSlowRetrainDone ch ok s = .next s1) : s0.Keeps s1 := by
  unfold execSlowRetrainDone at hs
  injection hs with hs
  subst hs
  with_reducible repeat'
    first
      | assumption | apply State.onChan_keeps | apply State.modChan_keeps | apply State.retireChan_keeps
      | apply State.Keeps.ite | apply State.Keeps.foldl | apply State.Keeps.foldl₁ | (intro _) | (dsimp only)
      | (split) | (fail_if_no_progress apply State.Keeps.upd)


theorem execPchCorrected_keeps {s0 s s1 : State} (p : PchId)
    (hk : s0.Keeps s) (hs : execPchCorrected p s = .next s1) : s0.Keeps s1 := by
  unfold execPchCorrected at hs
  injection hs with hs
  subst hs
  with_reducible repeat'
    first
      | assumption | apply State.onPch_keeps | apply State.pchGoodRead_keeps | apply State.Keeps.ite
      | apply State.Keeps.foldl | apply State.Keeps.foldl₁ | (intro _) | (dsimp only) | (split)
      | (fail_if_no_progress apply State.Keeps.upd)


theorem execPchUncorrectedRead_keeps {s0 s s1 : State} (p : PchId)
    (hk : s0.Keeps s) (hs : execPchUncorrectedRead p s = .next s1) : s0.Keeps s1 := by
  unfold execPchUncorrectedRead at hs
  injection hs with hs
  subst hs
  with_reducible repeat'
    first
      | assumption | apply State.onPch_keeps | apply State.pchBadRead_keeps | apply State.Keeps.ite
      | apply State.Keeps.foldl | apply State.Keeps.foldl₁ | (intro _) | (dsimp only) | (split)
      | (fail_if_no_progress apply State.Keeps.upd)


theorem execPchRereadDone_keeps {s0 s s1 : State} (p : PchId) (r : Reread)
    (hk : s0.Keeps s) (hs : execPchRereadDone p r s = .next s1) : s0.Keeps s1 := by
  unfold execPchRereadDone at hs
  injection hs with hs
  subst hs
  with_reducible repeat'
    first
      | assumption | apply State.onPch_keeps | apply State.modPch_keeps | apply State.pchGoodRead_keeps
      | apply State.retirePch_keeps | apply State.pchBadRead_keeps | apply State.Keeps.ite | apply State.Keeps.foldl
      | apply State.Keeps.foldl₁ | (intro _) | (dsimp only) | (split) | (fail_if_no_progress apply State.Keeps.upd)


theorem execPchCeLimit_keeps {s0 s s1 : State} (p : PchId)
    (hk : s0.Keeps s) (hs : execPchCeLimit p s = .next s1) : s0.Keeps s1 := by
  unfold execPchCeLimit at hs
  injection hs with hs
  subst hs
  with_reducible repeat'
    first
      | assumption | apply State.onPch_keeps | apply State.retirePch_keeps | apply State.Keeps.ite
      | apply State.Keeps.foldl | apply State.Keeps.foldl₁ | (intro _) | (dsimp only) | (split)
      | (fail_if_no_progress apply State.Keeps.upd)


theorem execPchWindowExpiry_keeps {s0 s s1 : State} (p : PchId)
    (hk : s0.Keeps s) (hs : execPchWindowExpiry p s = .next s1) : s0.Keeps s1 := by
  unfold execPchWindowExpiry at hs
  injection hs with hs
  subst hs
  with_reducible repeat'
    first
      | assumption | apply State.onPch_keeps | apply State.modPch_keeps | apply State.Keeps.ite
      | apply State.Keeps.foldl | apply State.Keeps.foldl₁ | (intro _) | (dsimp only) | (split)
      | (fail_if_no_progress apply State.Keeps.upd)


theorem execPchInterfaceCheck_keeps {s0 s s1 : State} (p : PchId) (margin : Nat)
    (hk : s0.Keeps s) (hs : execPchInterfaceCheck p margin s = .next s1) : s0.Keeps s1 := by
  unfold execPchInterfaceCheck at hs
  injection hs with hs
  subst hs
  with_reducible repeat'
    first
      | assumption | apply State.onPch_keeps | apply State.pchRetrain_keeps | apply State.Keeps.ite
      | apply State.Keeps.foldl | apply State.Keeps.foldl₁ | (intro _) | (dsimp only) | (split)
      | (fail_if_no_progress apply State.Keeps.upd)


theorem execPchCaParityError_keeps {s0 s s1 : State} (p : PchId)
    (hk : s0.Keeps s) (hs : execPchCaParityError p s = .next s1) : s0.Keeps s1 := by
  unfold execPchCaParityError at hs
  injection hs with hs
  subst hs
  with_reducible repeat'
    first
      | assumption | apply State.onPch_keeps | apply State.pchRetrain_keeps | apply State.Keeps.ite
      | apply State.Keeps.foldl | apply State.Keeps.foldl₁ | (intro _) | (dsimp only) | (split)
      | (fail_if_no_progress apply State.Keeps.upd)


theorem execPchRetrainDone_keeps {s0 s s1 : State} (p : PchId) (ok : Bool)
    (hk : s0.Keeps s) (hs : execPchRetrainDone p ok s = .next s1) : s0.Keeps s1 := by
  unfold execPchRetrainDone at hs
  injection hs with hs
  subst hs
  with_reducible repeat'
    first
      | assumption | apply State.onPch_keeps | apply State.modPch_keeps | apply State.retirePch_keeps
      | apply State.Keeps.ite | apply State.Keeps.foldl | apply State.Keeps.foldl₁ | (intro _) | (dsimp only)
      | (split) | (fail_if_no_progress apply State.Keeps.upd)


theorem execSramCorrected_keeps {s0 s s1 : State} (u : SramUnit)
    (hk : s0.Keeps s) (hs : execSramCorrected u s = .next s1) : s0.Keeps s1 := by
  unfold execSramCorrected at hs
  injection hs with hs
  subst hs
  with_reducible repeat'
    first
      | assumption | apply State.logAdd_keeps | apply State.modPlb_keeps | apply State.Keeps.ite
      | apply State.Keeps.foldl | apply State.Keeps.foldl₁ | (intro _) | (dsimp only) | (split)
      | (fail_if_no_progress apply State.Keeps.upd)


theorem execSramUncorrected_keeps {s0 s s1 : State} (u : SramUnit) (place : SramPlace) (off : Nat)
    (hk : s0.Keeps s) (hs : execSramUncorrected u place off s = .next s1) : s0.Keeps s1 := by
  unfold execSramUncorrected at hs
  injection hs with hs
  subst hs
  with_reducible repeat'
    first
      | assumption | apply State.zeroWord_keeps | apply State.modPlb_keeps | apply State.modRun_keeps
      | apply State.modCluster_keeps | apply State.hold_keeps | apply State.Keeps.ite | apply State.Keeps.foldl
      | apply State.Keeps.foldl₁ | (intro _) | (dsimp only) | (split) | (fail_if_no_progress apply State.Keeps.upd)


theorem execResetReqCompute_keeps {s0 s s1 : State} (path : RegPath)
    (hk : s0.Keeps s) (hs : execResetReqCompute path s = .next s1) : s0.Keeps s1 := by
  unfold execResetReqCompute at hs
  injection hs with hs
  subst hs
  with_reducible repeat'
    first
      | assumption | apply State.resetReqWrite_keeps | apply State.Keeps.ite | apply State.Keeps.foldl
      | apply State.Keeps.foldl₁ | (intro _) | (dsimp only) | (split) | (fail_if_no_progress apply State.Keeps.upd)


theorem execResetReqPackage_keeps {s0 s s1 : State} (path : RegPath)
    (hk : s0.Keeps s) (hs : execResetReqPackage path s = .next s1) : s0.Keeps s1 := by
  unfold execResetReqPackage at hs
  injection hs with hs
  subst hs
  with_reducible repeat'
    first
      | assumption | apply State.resetReqWrite_keeps | apply State.Keeps.ite | apply State.Keeps.foldl
      | apply State.Keeps.foldl₁ | (intro _) | (dsimp only) | (split) | (fail_if_no_progress apply State.Keeps.upd)


theorem execResetReqModule_keeps {s0 s s1 : State} (path : RegPath)
    (hk : s0.Keeps s) (hs : execResetReqModule path s = .next s1) : s0.Keeps s1 := by
  unfold execResetReqModule at hs
  injection hs with hs
  subst hs
  with_reducible repeat'
    first
      | assumption | apply State.resetReqWrite_keeps | apply State.Keeps.ite | apply State.Keeps.foldl
      | apply State.Keeps.foldl₁ | (intro _) | (dsimp only) | (split) | (fail_if_no_progress apply State.Keeps.upd)


theorem execComputeResetDone_keeps {s0 s s1 : State} 
    (hk : s0.Keeps s) (hs : execComputeResetDone s = .next s1) : s0.Keeps s1 := by
  unfold execComputeResetDone at hs
  injection hs with hs
  subst hs
  with_reducible repeat'
    first
      | assumption | apply State.writeLog_keeps | apply State.modPlb_keeps | apply State.modRun_keeps
      | apply State.setMod_keeps | apply State.modJob_keeps | apply State.Keeps.ite | apply State.Keeps.foldl
      | apply State.Keeps.foldl₁ | (intro _) | (dsimp only) | (split) | (fail_if_no_progress apply State.Keeps.upd)


theorem execComputeResetTimeout_keeps {s0 s s1 : State} 
    (hk : s0.Keeps s) (hs : execComputeResetTimeout s = .next s1) : s0.Keeps s1 := by
  unfold execComputeResetTimeout at hs
  injection hs with hs
  subst hs
  with_reducible repeat'
    first
      | assumption | apply State.plumbReset_keeps | apply State.Keeps.ite | apply State.Keeps.foldl
      | apply State.Keeps.foldl₁ | (intro _) | (dsimp only) | (split) | (fail_if_no_progress apply State.Keeps.upd)


theorem execPackageResetNotSet_keeps {s0 s s1 : State} 
    (hk : s0.Keeps s) (hs : execPackageResetNotSet s = .next s1) : s0.Keeps s1 := by
  unfold execPackageResetNotSet at hs
  injection hs with hs
  subst hs
  with_reducible repeat'
    first
      | assumption | apply State.plumbReset_keeps | apply State.Keeps.ite | apply State.Keeps.foldl
      | apply State.Keeps.foldl₁ | (intro _) | (dsimp only) | (split) | (fail_if_no_progress apply State.Keeps.upd)


theorem execResetRelease_keeps {s0 s s1 : State} 
    (hk : s0.Keeps s) (hs : execResetRelease s = .next s1) : s0.Keeps s1 := by
  unfold execResetRelease at hs
  injection hs with hs
  subst hs
  with_reducible repeat'
    first
      | assumption | apply State.modStart_keeps | apply State.Keeps.ite | apply State.Keeps.foldl
      | apply State.Keeps.foldl₁ | (intro _) | (dsimp only) | (split) | (fail_if_no_progress apply State.Keeps.upd)


theorem execPerstAssert_keeps {s0 s s1 : State} (p : PortId)
    (hk : s0.Keeps s) (hs : execPerstAssert p s = .next s1) : s0.Keeps s1 := by
  unfold execPerstAssert at hs
  injection hs with hs
  subst hs
  with_reducible repeat'
    first
      | assumption | apply State.modPort_keeps | apply State.resetPort_keeps | apply State.moduleReset_keeps
      | apply State.Keeps.ite | apply State.Keeps.foldl | apply State.Keeps.foldl₁ | (intro _) | (dsimp only)
      | (split) | (fail_if_no_progress apply State.Keeps.upd)


theorem execPerstRelease_keeps {s0 s s1 : State} (p : PortId)
    (hk : s0.Keeps s) (hs : execPerstRelease p s = .next s1) : s0.Keeps s1 := by
  unfold execPerstRelease at hs
  injection hs with hs
  subst hs
  with_reducible repeat'
    first
      | assumption | apply State.modPort_keeps | apply State.Keeps.ite | apply State.Keeps.foldl
      | apply State.Keeps.foldl₁ | (intro _) | (dsimp only) | (split) | (fail_if_no_progress apply State.Keeps.upd)


theorem execPcieLinkDown_keeps {s0 s s1 : State} (p : PortId)
    (hk : s0.Keeps s) (hs : execPcieLinkDown p s = .next s1) : s0.Keeps s1 := by
  unfold execPcieLinkDown at hs
  injection hs with hs
  subst hs
  with_reducible repeat'
    first
      | assumption | apply State.modPort_keeps | apply State.Keeps.ite | apply State.Keeps.foldl
      | apply State.Keeps.foldl₁ | (intro _) | (dsimp only) | (split) | (fail_if_no_progress apply State.Keeps.upd)


theorem execDumpCapture_keeps {s0 s s1 : State} 
    (hk : s0.Keeps s) (hs : execDumpCapture s = .next s1) : s0.Keeps s1 := by
  unfold execDumpCapture at hs
  injection hs with hs
  subst hs
  with_reducible repeat'
    first
      | assumption | apply State.dueReset_keeps | apply State.captureDump_keeps | apply State.modPlb_keeps
      | apply State.Keeps.ite | apply State.Keeps.foldl | apply State.Keeps.foldl₁ | (intro _) | (dsimp only)
      | (split) | (fail_if_no_progress apply State.Keeps.upd)


theorem execScanReadTimeout_keeps {s0 s s1 : State} (ty : Nat) (idx : Nat)
    (hk : s0.Keeps s) (hs : execScanReadTimeout ty idx s = .next s1) : s0.Keeps s1 := by
  unfold execScanReadTimeout at hs
  injection hs with hs
  subst hs
  with_reducible repeat'
    first
      | assumption | apply State.useFree_keeps | apply State.modPlb_keeps | apply State.useFree_keeps
      | apply State.Keeps.ite | apply State.Keeps.foldl | apply State.Keeps.foldl₁ | (intro _) | (dsimp only)
      | (split) | (fail_if_no_progress apply State.Keeps.upd)


theorem execDumpWritten_keeps {s0 s s1 : State} 
    (hk : s0.Keeps s) (hs : execDumpWritten s = .next s1) : s0.Keeps s1 := by
  unfold execDumpWritten at hs
  injection hs with hs
  subst hs
  with_reducible repeat'
    first
      | assumption | apply State.dueReset_keeps | apply State.commitDump_keeps | apply State.Keeps.ite
      | apply State.Keeps.foldl | apply State.Keeps.foldl₁ | (intro _) | (dsimp only) | (split)
      | (fail_if_no_progress apply State.Keeps.upd)


theorem execInputApplied_keeps {s0 s s1 : State} 
    (hk : s0.Keeps s) (hs : execInputApplied s = .next s1) : s0.Keeps s1 := by
  unfold execInputApplied at hs
  injection hs with hs
  subst hs
  with_reducible repeat'
    first
      | assumption | apply State.modPwr_keeps | apply State.Keeps.ite | apply State.Keeps.foldl
      | apply State.Keeps.foldl₁ | (intro _) | (dsimp only) | (split) | (fail_if_no_progress apply State.Keeps.upd)


theorem execPowerGood_keeps {s0 s s1 : State} (strap : BitVec 2) (openPairs : BitVec 4)
    (hk : s0.Keeps s) (hs : execPowerGood strap openPairs s = .next s1) : s0.Keeps s1 := by
  unfold execPowerGood at hs
  injection hs with hs
  subst hs
  with_reducible repeat'
    first
      | assumption | apply State.modPwr_keeps | apply State.modPlb_keeps | apply State.errLog_keeps
      | apply State.logAdd_keeps | apply State.modStart_keeps | apply State.logSet_keeps | apply State.Keeps.ite
      | apply State.Keeps.foldl | apply State.Keeps.foldl₁ | (intro _) | (dsimp only) | (split)
      | (fail_if_no_progress apply State.Keeps.upd)


theorem execStartStepDone_keeps {s0 s s1 : State} (r : StepResult)
    (hk : s0.Keeps s) (hs : execStartStepDone r s = .next s1) : s0.Keeps s1 := by
  unfold execStartStepDone at hs
  injection hs with hs
  subst hs
  with_reducible repeat'
    first
      | assumption | apply State.startFirmware_keeps | apply State.startImage_keeps | apply State.startDies_keeps
      | apply State.startMemory_keeps | apply State.startChain_keeps | apply State.modStart_keeps
      | apply State.startSet_keeps | apply State.Keeps.ite | apply State.Keeps.foldl | apply State.Keeps.foldl₁
      | (intro _) | (dsimp only) | (split) | (fail_if_no_progress apply State.Keeps.upd)


theorem execPowerLoss_keeps {s0 s s1 : State} 
    (hk : s0.Keeps s) (hs : execPowerLoss s = .next s1) : s0.Keeps s1 := by
  unfold execPowerLoss at hs
  injection hs with hs
  subst hs
  with_reducible repeat'
    first
      | assumption | apply State.modPwr_keeps | apply State.powerDown_keeps | apply State.Keeps.ite
      | apply State.Keeps.foldl | apply State.Keeps.foldl₁ | (intro _) | (dsimp only) | (split)
      | (fail_if_no_progress apply State.Keeps.upd)


theorem execRailOutOfRegulation_keeps {s0 s s1 : State} (z0 : Fin 22)
    (hk : s0.Keeps s) (hs : execRailOutOfRegulation z0 s = .next s1) : s0.Keeps s1 := by
  unfold execRailOutOfRegulation at hs
  injection hs with hs
  subst hs
  with_reducible repeat'
    first
      | assumption | apply State.modPwr_keeps | apply State.Keeps.ite | apply State.Keeps.foldl
      | apply State.Keeps.foldl₁ | (intro _) | (dsimp only) | (split) | (fail_if_no_progress apply State.Keeps.upd)


theorem execShedStepEnter_keeps {s0 s s1 : State} (vin : BitVec 16)
    (hk : s0.Keeps s) (hs : execShedStepEnter vin s = .next s1) : s0.Keeps s1 := by
  unfold execShedStepEnter at hs
  injection hs with hs
  subst hs
  with_reducible repeat'
    first
      | assumption | apply State.orderlyOff_keeps | apply State.setVin_keeps | apply State.enterStep_keeps
      | apply State.noteStep_keeps | apply State.Keeps.ite | apply State.Keeps.foldl | apply State.Keeps.foldl₁
      | (intro _) | (dsimp only) | (split) | (fail_if_no_progress apply State.Keeps.upd)


theorem execShedStepLeave_keeps {s0 s s1 : State} (vin : BitVec 16)
    (hk : s0.Keeps s) (hs : execShedStepLeave vin s = .next s1) : s0.Keeps s1 := by
  unfold execShedStepLeave at hs
  injection hs with hs
  subst hs
  with_reducible repeat'
    first
      | assumption | apply State.leaveStep_keeps | apply State.modPwr_keeps | apply State.setVin_keeps
      | apply State.msixBoth_keeps | apply State.Keeps.ite | apply State.Keeps.foldl | apply State.Keeps.foldl₁
      | (intro _) | (dsimp only) | (split) | (fail_if_no_progress apply State.Keeps.upd)


theorem execParkRotate_keeps {s0 s s1 : State} 
    (hk : s0.Keeps s) (hs : execParkRotate s = .next s1) : s0.Keeps s1 := by
  unfold execParkRotate at hs
  injection hs with hs
  subst hs
  with_reducible repeat'
    first
      | assumption | apply State.park_keeps | apply State.unpark_keeps | apply State.Keeps.ite
      | apply State.Keeps.foldl | apply State.Keeps.foldl₁ | (intro _) | (dsimp only) | (split)
      | (fail_if_no_progress apply State.Keeps.upd)


theorem execOverVoltage_keeps {s0 s s1 : State} (vin : BitVec 16)
    (hk : s0.Keeps s) (hs : execOverVoltage vin s = .next s1) : s0.Keeps s1 := by
  unfold execOverVoltage at hs
  injection hs with hs
  subst hs
  with_reducible repeat'
    first
      | assumption | apply State.orderlyOff_keeps | apply State.setVin_keeps | apply State.Keeps.ite
      | apply State.Keeps.foldl | apply State.Keeps.foldl₁ | (intro _) | (dsimp only) | (split)
      | (fail_if_no_progress apply State.Keeps.upd)


theorem execUndervoltageCutoff_keeps {s0 s s1 : State} (vin : BitVec 16)
    (hk : s0.Keeps s) (hs : execUndervoltageCutoff vin s = .next s1) : s0.Keeps s1 := by
  unfold execUndervoltageCutoff at hs
  injection hs with hs
  subst hs
  with_reducible repeat'
    first
      | assumption | apply State.powerDown_keeps | apply State.setVin_keeps | apply State.Keeps.ite
      | apply State.Keeps.foldl | apply State.Keeps.foldl₁ | (intro _) | (dsimp only) | (split)
      | (fail_if_no_progress apply State.Keeps.upd)


theorem execPowerRestart_keeps {s0 s s1 : State} (vin : BitVec 16)
    (hk : s0.Keeps s) (hs : execPowerRestart vin s = .next s1) : s0.Keeps s1 := by
  unfold execPowerRestart at hs
  injection hs with hs
  subst hs
  with_reducible repeat'
    first
      | assumption | apply State.modPwr_keeps | apply State.setVin_keeps | apply State.Keeps.ite
      | apply State.Keeps.foldl | apply State.Keeps.foldl₁ | (intro _) | (dsimp only) | (split)
      | (fail_if_no_progress apply State.Keeps.upd)


theorem execPowerLimitTick_keeps {s0 s s1 : State} (pin : BitVec 16) (rails : List (BitVec 16 × BitVec 16)) (clu : List (BitVec 16))
    (hk : s0.Keeps s) (hs : execPowerLimitTick pin rails clu s = .next s1) : s0.Keeps s1 := by
  unfold execPowerLimitTick at hs
  injection hs with hs
  subst hs
  with_reducible repeat'
    first
      | assumption | apply State.readRails_keeps | apply State.modPwr_keeps | apply State.throttle_keeps
      | apply State.logAdd_keeps | apply State.Keeps.ite | apply State.Keeps.foldl | apply State.Keeps.foldl₁
      | (intro _) | (dsimp only) | (split) | (fail_if_no_progress apply State.Keeps.upd)


theorem execThermalTick_keeps {s0 s s1 : State} (temps : List (BitVec 16))
    (hk : s0.Keeps s) (hs : execThermalTick temps s = .next s1) : s0.Keeps s1 := by
  unfold execThermalTick at hs
  injection hs with hs
  subst hs
  with_reducible repeat'
    first
      | assumption | apply State.modPlb_keeps | apply State.modPwr_keeps | apply State.countBands_keeps
      | apply State.Keeps.ite | apply State.Keeps.foldl | apply State.Keeps.foldl₁ | (intro _) | (dsimp only)
      | (split) | (fail_if_no_progress apply State.Keeps.upd)


theorem execThermalPowerOff_keeps {s0 s s1 : State} 
    (hk : s0.Keeps s) (hs : execThermalPowerOff s = .next s1) : s0.Keeps s1 := by
  unfold execThermalPowerOff at hs
  injection hs with hs
  subst hs
  with_reducible repeat'
    first
      | assumption | apply State.logSet_keeps | apply State.orderlyOff_keeps | apply State.commitDump_keeps
      | apply State.captureDump_keeps | apply State.finishDump_keeps | apply State.logAdd_keeps
      | apply State.Keeps.ite | apply State.Keeps.foldl | apply State.Keeps.foldl₁ | (intro _) | (dsimp only)
      | (split) | (fail_if_no_progress apply State.Keeps.upd)


theorem execClockPointChange_keeps {s0 s s1 : State} 
    (hk : s0.Keeps s) (hs : execClockPointChange s = .next s1) : s0.Keeps s1 := by
  unfold execClockPointChange at hs
  injection hs with hs
  subst hs
  with_reducible repeat'
    first
      | assumption | apply State.modPwr_keeps | apply State.Keeps.ite | apply State.Keeps.foldl
      | apply State.Keeps.foldl₁ | (intro _) | (dsimp only) | (split) | (fail_if_no_progress apply State.Keeps.upd)


theorem execLifetimeLogWrite_keeps {s0 s s1 : State} 
    (hk : s0.Keeps s) (hs : execLifetimeLogWrite s = .next s1) : s0.Keeps s1 := by
  unfold execLifetimeLogWrite at hs
  injection hs with hs
  subst hs
  with_reducible repeat'
    first
      | assumption | apply State.writeLog_keeps | apply State.Keeps.ite | apply State.Keeps.foldl
      | apply State.Keeps.foldl₁ | (intro _) | (dsimp only) | (split) | (fail_if_no_progress apply State.Keeps.upd)


theorem execFailCauseExpiry_keeps {s0 s s1 : State} 
    (hk : s0.Keeps s) (hs : execFailCauseExpiry s = .next s1) : s0.Keeps s1 := by
  unfold execFailCauseExpiry at hs
  injection hs with hs
  subst hs
  with_reducible repeat'
    first
      | assumption | apply State.modPlb_keeps | apply State.Keeps.ite | apply State.Keeps.foldl
      | apply State.Keeps.foldl₁ | (intro _) | (dsimp only) | (split) | (fail_if_no_progress apply State.Keeps.upd)


theorem execUpdBegin_keeps {s0 s s1 : State} (path : RegPath) (v : Word)
    (hk : s0.Keeps s) (hs : execUpdBegin path v s = .next s1) : s0.Keeps s1 := by
  unfold execUpdBegin at hs
  injection hs with hs
  subst hs
  with_reducible repeat'
    first
      | assumption | apply State.updCtrl_keeps | apply State.updBegin_keeps | apply State.Keeps.ite
      | apply State.Keeps.foldl | apply State.Keeps.foldl₁ | (intro _) | (dsimp only) | (split)
      | (fail_if_no_progress apply State.Keeps.upd)


theorem execUpdWrite_keeps {s0 s s1 : State} (path : RegPath) (v : Word)
    (hk : s0.Keeps s) (hs : execUpdWrite path v s = .next s1) : s0.Keeps s1 := by
  unfold execUpdWrite at hs
  injection hs with hs
  subst hs
  with_reducible repeat'
    first
      | assumption | apply State.updCtrl_keeps | apply State.updWrite_keeps | apply State.Keeps.ite
      | apply State.Keeps.foldl | apply State.Keeps.foldl₁ | (intro _) | (dsimp only) | (split)
      | (fail_if_no_progress apply State.Keeps.upd)


theorem execUpdVerify_keeps {s0 s s1 : State} (path : RegPath) (v : Word)
    (hk : s0.Keeps s) (hs : execUpdVerify path v s = .next s1) : s0.Keeps s1 := by
  unfold execUpdVerify at hs
  injection hs with hs
  subst hs
  with_reducible repeat'
    first
      | assumption | apply State.updCtrl_keeps | apply State.ownerReq_keeps | apply State.startReq_keeps
      | apply State.Keeps.ite | apply State.Keeps.foldl | apply State.Keeps.foldl₁ | (intro _) | (dsimp only)
      | (split) | (fail_if_no_progress apply State.Keeps.upd)


theorem execUpdAbort_keeps {s0 s s1 : State} (path : RegPath) (v : Word)
    (hk : s0.Keeps s) (hs : execUpdAbort path v s = .next s1) : s0.Keeps s1 := by
  unfold execUpdAbort at hs
  injection hs with hs
  subst hs
  with_reducible repeat'
    first
      | assumption | apply State.updCtrl_keeps | apply State.updAbort_keeps | apply State.Keeps.ite
      | apply State.Keeps.foldl | apply State.Keeps.foldl₁ | (intro _) | (dsimp only) | (split)
      | (fail_if_no_progress apply State.Keeps.upd)


theorem execUpdSessionTimeout_keeps {s0 s s1 : State} 
    (hk : s0.Keeps s) (hs : execUpdSessionTimeout s = .next s1) : s0.Keeps s1 := by
  unfold execUpdSessionTimeout at hs
  injection hs with hs
  subst hs
  with_reducible repeat'
    first
      | assumption | apply State.abortUpd_keeps | apply State.Keeps.ite | apply State.Keeps.foldl
      | apply State.Keeps.foldl₁ | (intro _) | (dsimp only) | (split) | (fail_if_no_progress apply State.Keeps.upd)


theorem execPlbUpdBufWrite_keeps {s0 s s1 : State} (path : RegPath) (off : Nat) (bytes : List Byte)
    (hk : s0.Keeps s) (hs : execPlbUpdBufWrite path off bytes s = .next s1) : s0.Keeps s1 := by
  unfold execPlbUpdBufWrite at hs
  injection hs with hs
  subst hs
  with_reducible repeat'
    first
      | assumption | apply State.bufWrite_keeps | apply State.Keeps.ite | apply State.Keeps.foldl
      | apply State.Keeps.foldl₁ | (intro _) | (dsimp only) | (split) | (fail_if_no_progress apply State.Keeps.upd)


theorem execIdleFlit_keeps {s0 s s1 : State} (l : LinkId) (flit : List Byte)
    (hk : s0.Keeps s) (hs : execIdleFlit l flit s = .next s1) : s0.Keeps s1 := by
  unfold execIdleFlit at hs
  injection hs with hs
  subst hs
  with_reducible repeat'
    first
      | assumption | apply State.takeFlit_keeps | apply State.Keeps.ite | apply State.Keeps.foldl
      | apply State.Keeps.foldl₁ | (intro _) | (dsimp only) | (split) | (fail_if_no_progress apply State.Keeps.upd)


theorem execKarrReply_keeps {s0 s s1 : State} (r : KReply)
    (hk : s0.Keeps s) (hs : execKarrReply r s = .next s1) : s0.Keeps s1 := by
  unfold execKarrReply at hs
  injection hs with hs
  subst hs
  with_reducible repeat'
    first
      | assumption | apply State.karrDone_keeps | apply State.Keeps.ite | apply State.Keeps.foldl
      | apply State.Keeps.foldl₁ | (intro _) | (dsimp only) | (split) | (fail_if_no_progress apply State.Keeps.upd)


theorem execTrustPassEnd_keeps {s0 s s1 : State} (m : MasonId)
    (hk : s0.Keeps s) (hs : execTrustPassEnd m s = .next s1) : s0.Keeps s1 := by
  unfold execTrustPassEnd at hs
  injection hs with hs
  subst hs
  with_reducible repeat'
    first
      | assumption | apply State.waitTargets_keeps | apply State.showMason_keeps | apply State.sendFaces_keeps
      | apply State.writeBeds_keeps | apply State.countNonfinite_keeps | apply State.readPass_keeps
      | apply State.Keeps.ite | apply State.Keeps.foldl | apply State.Keeps.foldl₁ | (intro _) | (dsimp only)
      | (split) | (fail_if_no_progress apply State.Keeps.upd)


theorem execFacePassEnd_keeps {s0 s s1 : State} (m : MasonId)
    (hk : s0.Keeps s) (hs : execFacePassEnd m s = .next s1) : s0.Keeps s1 := by
  unfold execFacePassEnd at hs
  injection hs with hs
  subst hs
  with_reducible repeat'
    first
      | assumption | apply State.writeFace_keeps | apply State.readPass_keeps | apply State.modGroup_keeps
      | apply State.showMason_keeps | apply State.endGroups_keeps | apply State.Keeps.ite | apply State.Keeps.foldl
      | apply State.Keeps.foldl₁ | (intro _) | (dsimp only) | (split) | (fail_if_no_progress apply State.Keeps.upd)


theorem execMirrorComplete_keeps {s0 s s1 : State} 
    (hk : s0.Keeps s) (hs : execMirrorComplete s = .next s1) : s0.Keeps s1 := by
  unfold execMirrorComplete at hs
  injection hs with hs
  subst hs
  with_reducible repeat'
    first
      | assumption | apply State.modLift_keeps | apply State.nextMirror_keeps | apply State.logOp_keeps
      | apply State.modMsn_keeps | apply State.Keeps.ite | apply State.Keeps.foldl | apply State.Keeps.foldl₁
      | (intro _) | (dsimp only) | (split) | (fail_if_no_progress apply State.Keeps.upd)


theorem execSlowRetrainStart_keeps {s0 s s1 : State} (ch : ChanId)
    (hk : s0.Keeps s) (hs : execSlowRetrainStart ch s = .next s1) : s0.Keeps s1 := by
  unfold execSlowRetrainStart at hs
  injection hs with hs
  subst hs
  with_reducible repeat'
    first
      | assumption | apply State.onChan_keeps | apply State.logAdd_keeps | apply State.modChan_keeps
      | apply State.Keeps.ite | apply State.Keeps.foldl | apply State.Keeps.foldl₁ | (intro _) | (dsimp only)
      | (split) | (fail_if_no_progress apply State.Keeps.upd)


theorem execPcieLinkUp_keeps {s0 s s1 : State} (p : PortId) (speed : BitVec 3) (width : BitVec 5) (flit : Bool)
    (hk : s0.Keeps s) (hs : execPcieLinkUp p speed width flit s = .next s1) : s0.Keeps s1 := by
  unfold execPcieLinkUp at hs
  injection hs with hs
  subst hs
  with_reducible repeat'
    first
      | assumption | apply State.modPort_keeps | apply State.Keeps.ite | apply State.Keeps.foldl
      | apply State.Keeps.foldl₁ | (intro _) | (dsimp only) | (split) | (fail_if_no_progress apply State.Keeps.upd)


theorem execOverRangeEvent_keeps {s0 s s1 : State} (vin : BitVec 16)
    (hk : s0.Keeps s) (hs : execOverRangeEvent vin s = .next s1) : s0.Keeps s1 := by
  unfold execOverRangeEvent at hs
  injection hs with hs
  subst hs
  with_reducible repeat'
    first
      | assumption | apply State.logAdd_keeps | apply State.modPwr_keeps | apply State.setVin_keeps
      | apply State.Keeps.ite | apply State.Keeps.foldl | apply State.Keeps.foldl₁ | (intro _) | (dsimp only)
      | (split) | (fail_if_no_progress apply State.Keeps.upd)


theorem execUpdRequestComplete_keeps {s0 s s1 : State} (flashOk : Bool)
    (hk : s0.Keeps s) (hs : execUpdRequestComplete flashOk s = .next s1) : s0.Keeps s1 := by
  unfold execUpdRequestComplete at hs
  injection hs with hs
  subst hs
  with_reducible repeat'
    first
      | assumption | apply State.modUpd_keeps | apply State.eraseHeader_keeps | apply State.finishWrite_keeps
      | apply State.finishVerify_keeps | apply State.endSession_keeps | apply State.Keeps.ite
      | apply State.Keeps.foldl | apply State.Keeps.foldl₁ | (intro _) | (dsimp only) | (split)
      | (fail_if_no_progress apply State.Keeps.upd)

end Sys2Proof.Machine
end

