-- ==== Sys2Proof/Laws/State.lean ====
section
/-! SUPPORT. Laws of the state: each update leaves every other field as it was, and the accessors of what an update
writes. -/

namespace Sys2Proof.Machine

/-! ## Fields that an update does not touch -/

@[simp] theorem State.modCore_pending (s : State) (c : Nat) (f : Core → Core) :
    (s.modCore c f).pending = s.pending := rfl
@[simp] theorem State.modCore_mem (s : State) (c : Nat) (f : Core → Core) : (s.modCore c f).mem = s.mem := rfl
@[simp] theorem State.modCore_clusters (s : State) (c : Nat) (f : Core → Core) :
    (s.modCore c f).clusters = s.clusters := rfl
@[simp] theorem State.modCore_ft (s : State) (c : Nat) (f : Core → Core) : (s.modCore c f).ft = s.ft := rfl
@[simp] theorem State.modCore_net (s : State) (c : Nat) (f : Core → Core) : (s.modCore c f).net = s.net := rfl
@[simp] theorem State.modCore_mortar (s : State) (c : Nat) (f : Core → Core) :
    (s.modCore c f).mortar = s.mortar := rfl
@[simp] theorem State.modCore_lnk (s : State) (c : Nat) (f : Core → Core) : (s.modCore c f).lnk = s.lnk := rfl
@[simp] theorem State.modCore_chain (s : State) (c : Nat) (f : Core → Core) : (s.modCore c f).chain = s.chain := rfl
@[simp] theorem State.modCore_msn (s : State) (c : Nat) (f : Core → Core) : (s.modCore c f).msn = s.msn := rfl
@[simp] theorem State.modCore_ports (s : State) (c : Nat) (f : Core → Core) : (s.modCore c f).ports = s.ports := rfl
@[simp] theorem State.modCore_job (s : State) (c : Nat) (f : Core → Core) : (s.modCore c f).job = s.job := rfl
@[simp] theorem State.modCore_plb (s : State) (c : Nat) (f : Core → Core) : (s.modCore c f).plb = s.plb := rfl
@[simp] theorem State.modCore_pwr (s : State) (c : Nat) (f : Core → Core) : (s.modCore c f).pwr = s.pwr := rfl
@[simp] theorem State.modCore_start (s : State) (c : Nat) (f : Core → Core) : (s.modCore c f).start = s.start := rfl
@[simp] theorem State.modCore_free (s : State) (c : Nat) (f : Core → Core) : (s.modCore c f).free = s.free := rfl
@[simp] theorem State.modCore_losses (s : State) (c : Nat) (f : Core → Core) :
    (s.modCore c f).losses = s.losses := rfl
@[simp] theorem State.modCore_out (s : State) (c : Nat) (f : Core → Core) : (s.modCore c f).out = s.out := rfl
@[simp] theorem State.modStrand_pending (s : State) (c t : Nat) (f : Strand → Strand) :
    (s.modStrand c t f).pending = s.pending := rfl
@[simp] theorem State.modStrand_mem (s : State) (c t : Nat) (f : Strand → Strand) :
    (s.modStrand c t f).mem = s.mem := rfl
@[simp] theorem State.modStrand_clusters (s : State) (c t : Nat) (f : Strand → Strand) :
    (s.modStrand c t f).clusters = s.clusters := rfl
@[simp] theorem State.modStrand_ft (s : State) (c t : Nat) (f : Strand → Strand) :
    (s.modStrand c t f).ft = s.ft := rfl
@[simp] theorem State.modStrand_net (s : State) (c t : Nat) (f : Strand → Strand) :
    (s.modStrand c t f).net = s.net := rfl
@[simp] theorem State.modStrand_mortar (s : State) (c t : Nat) (f : Strand → Strand) :
    (s.modStrand c t f).mortar = s.mortar := rfl
@[simp] theorem State.modStrand_lnk (s : State) (c t : Nat) (f : Strand → Strand) :
    (s.modStrand c t f).lnk = s.lnk := rfl
@[simp] theorem State.modStrand_chain (s : State) (c t : Nat) (f : Strand → Strand) :
    (s.modStrand c t f).chain = s.chain := rfl
@[simp] theorem State.modStrand_msn (s : State) (c t : Nat) (f : Strand → Strand) :
    (s.modStrand c t f).msn = s.msn := rfl
@[simp] theorem State.modStrand_ports (s : State) (c t : Nat) (f : Strand → Strand) :
    (s.modStrand c t f).ports = s.ports := rfl
@[simp] theorem State.modStrand_job (s : State) (c t : Nat) (f : Strand → Strand) :
    (s.modStrand c t f).job = s.job := rfl
@[simp] theorem State.modStrand_plb (s : State) (c t : Nat) (f : Strand → Strand) :
    (s.modStrand c t f).plb = s.plb := rfl
@[simp] theorem State.modStrand_pwr (s : State) (c t : Nat) (f : Strand → Strand) :
    (s.modStrand c t f).pwr = s.pwr := rfl
@[simp] theorem State.modStrand_start (s : State) (c t : Nat) (f : Strand → Strand) :
    (s.modStrand c t f).start = s.start := rfl
@[simp] theorem State.modStrand_free (s : State) (c t : Nat) (f : Strand → Strand) :
    (s.modStrand c t f).free = s.free := rfl
@[simp] theorem State.modStrand_losses (s : State) (c t : Nat) (f : Strand → Strand) :
    (s.modStrand c t f).losses = s.losses := rfl
@[simp] theorem State.modStrand_out (s : State) (c t : Nat) (f : Strand → Strand) :
    (s.modStrand c t f).out = s.out := rfl
@[simp] theorem State.modRegs_pending (s : State) (c : Nat) (f : RegFile → RegFile) :
    (s.modRegs c f).pending = s.pending := rfl
@[simp] theorem State.modRegs_mem (s : State) (c : Nat) (f : RegFile → RegFile) : (s.modRegs c f).mem = s.mem := rfl
@[simp] theorem State.modRegs_clusters (s : State) (c : Nat) (f : RegFile → RegFile) :
    (s.modRegs c f).clusters = s.clusters := rfl
@[simp] theorem State.modRegs_ft (s : State) (c : Nat) (f : RegFile → RegFile) : (s.modRegs c f).ft = s.ft := rfl
@[simp] theorem State.modRegs_net (s : State) (c : Nat) (f : RegFile → RegFile) : (s.modRegs c f).net = s.net := rfl
@[simp] theorem State.modRegs_mortar (s : State) (c : Nat) (f : RegFile → RegFile) :
    (s.modRegs c f).mortar = s.mortar := rfl
@[simp] theorem State.modRegs_lnk (s : State) (c : Nat) (f : RegFile → RegFile) : (s.modRegs c f).lnk = s.lnk := rfl
@[simp] theorem State.modRegs_chain (s : State) (c : Nat) (f : RegFile → RegFile) :
    (s.modRegs c f).chain = s.chain := rfl
@[simp] theorem State.modRegs_msn (s : State) (c : Nat) (f : RegFile → RegFile) : (s.modRegs c f).msn = s.msn := rfl
@[simp] theorem State.modRegs_ports (s : State) (c : Nat) (f : RegFile → RegFile) :
    (s.modRegs c f).ports = s.ports := rfl
@[simp] theorem State.modRegs_job (s : State) (c : Nat) (f : RegFile → RegFile) : (s.modRegs c f).job = s.job := rfl
@[simp] theorem State.modRegs_plb (s : State) (c : Nat) (f : RegFile → RegFile) : (s.modRegs c f).plb = s.plb := rfl
@[simp] theorem State.modRegs_pwr (s : State) (c : Nat) (f : RegFile → RegFile) : (s.modRegs c f).pwr = s.pwr := rfl
@[simp] theorem State.modRegs_start (s : State) (c : Nat) (f : RegFile → RegFile) :
    (s.modRegs c f).start = s.start := rfl
@[simp] theorem State.modRegs_free (s : State) (c : Nat) (f : RegFile → RegFile) :
    (s.modRegs c f).free = s.free := rfl
@[simp] theorem State.modRegs_losses (s : State) (c : Nat) (f : RegFile → RegFile) :
    (s.modRegs c f).losses = s.losses := rfl
@[simp] theorem State.modRegs_out (s : State) (c : Nat) (f : RegFile → RegFile) : (s.modRegs c f).out = s.out := rfl
@[simp] theorem State.modArr_pending (s : State) (c : Nat) (f : ArrayUnit → ArrayUnit) :
    (s.modArr c f).pending = s.pending := rfl
@[simp] theorem State.modArr_mem (s : State) (c : Nat) (f : ArrayUnit → ArrayUnit) : (s.modArr c f).mem = s.mem := rfl
@[simp] theorem State.modArr_clusters (s : State) (c : Nat) (f : ArrayUnit → ArrayUnit) :
    (s.modArr c f).clusters = s.clusters := rfl
@[simp] theorem State.modArr_ft (s : State) (c : Nat) (f : ArrayUnit → ArrayUnit) : (s.modArr c f).ft = s.ft := rfl
@[simp] theorem State.modArr_net (s : State) (c : Nat) (f : ArrayUnit → ArrayUnit) : (s.modArr c f).net = s.net := rfl
@[simp] theorem State.modArr_mortar (s : State) (c : Nat) (f : ArrayUnit → ArrayUnit) :
    (s.modArr c f).mortar = s.mortar := rfl
@[simp] theorem State.modArr_lnk (s : State) (c : Nat) (f : ArrayUnit → ArrayUnit) : (s.modArr c f).lnk = s.lnk := rfl
@[simp] theorem State.modArr_chain (s : State) (c : Nat) (f : ArrayUnit → ArrayUnit) :
    (s.modArr c f).chain = s.chain := rfl
@[simp] theorem State.modArr_msn (s : State) (c : Nat) (f : ArrayUnit → ArrayUnit) : (s.modArr c f).msn = s.msn := rfl
@[simp] theorem State.modArr_ports (s : State) (c : Nat) (f : ArrayUnit → ArrayUnit) :
    (s.modArr c f).ports = s.ports := rfl
@[simp] theorem State.modArr_job (s : State) (c : Nat) (f : ArrayUnit → ArrayUnit) : (s.modArr c f).job = s.job := rfl
@[simp] theorem State.modArr_plb (s : State) (c : Nat) (f : ArrayUnit → ArrayUnit) : (s.modArr c f).plb = s.plb := rfl
@[simp] theorem State.modArr_pwr (s : State) (c : Nat) (f : ArrayUnit → ArrayUnit) : (s.modArr c f).pwr = s.pwr := rfl
@[simp] theorem State.modArr_start (s : State) (c : Nat) (f : ArrayUnit → ArrayUnit) :
    (s.modArr c f).start = s.start := rfl
@[simp] theorem State.modArr_free (s : State) (c : Nat) (f : ArrayUnit → ArrayUnit) :
    (s.modArr c f).free = s.free := rfl
@[simp] theorem State.modArr_losses (s : State) (c : Nat) (f : ArrayUnit → ArrayUnit) :
    (s.modArr c f).losses = s.losses := rfl
@[simp] theorem State.modArr_out (s : State) (c : Nat) (f : ArrayUnit → ArrayUnit) : (s.modArr c f).out = s.out := rfl
@[simp] theorem State.modEng_pending (s : State) (c : Nat) (f : Engine → Engine) :
    (s.modEng c f).pending = s.pending := rfl
@[simp] theorem State.modEng_mem (s : State) (c : Nat) (f : Engine → Engine) : (s.modEng c f).mem = s.mem := rfl
@[simp] theorem State.modEng_clusters (s : State) (c : Nat) (f : Engine → Engine) :
    (s.modEng c f).clusters = s.clusters := rfl
@[simp] theorem State.modEng_ft (s : State) (c : Nat) (f : Engine → Engine) : (s.modEng c f).ft = s.ft := rfl
@[simp] theorem State.modEng_net (s : State) (c : Nat) (f : Engine → Engine) : (s.modEng c f).net = s.net := rfl
@[simp] theorem State.modEng_mortar (s : State) (c : Nat) (f : Engine → Engine) :
    (s.modEng c f).mortar = s.mortar := rfl
@[simp] theorem State.modEng_lnk (s : State) (c : Nat) (f : Engine → Engine) : (s.modEng c f).lnk = s.lnk := rfl
@[simp] theorem State.modEng_chain (s : State) (c : Nat) (f : Engine → Engine) : (s.modEng c f).chain = s.chain := rfl
@[simp] theorem State.modEng_msn (s : State) (c : Nat) (f : Engine → Engine) : (s.modEng c f).msn = s.msn := rfl
@[simp] theorem State.modEng_ports (s : State) (c : Nat) (f : Engine → Engine) : (s.modEng c f).ports = s.ports := rfl
@[simp] theorem State.modEng_job (s : State) (c : Nat) (f : Engine → Engine) : (s.modEng c f).job = s.job := rfl
@[simp] theorem State.modEng_plb (s : State) (c : Nat) (f : Engine → Engine) : (s.modEng c f).plb = s.plb := rfl
@[simp] theorem State.modEng_pwr (s : State) (c : Nat) (f : Engine → Engine) : (s.modEng c f).pwr = s.pwr := rfl
@[simp] theorem State.modEng_start (s : State) (c : Nat) (f : Engine → Engine) : (s.modEng c f).start = s.start := rfl
@[simp] theorem State.modEng_free (s : State) (c : Nat) (f : Engine → Engine) : (s.modEng c f).free = s.free := rfl
@[simp] theorem State.modEng_losses (s : State) (c : Nat) (f : Engine → Engine) :
    (s.modEng c f).losses = s.losses := rfl
@[simp] theorem State.modEng_out (s : State) (c : Nat) (f : Engine → Engine) : (s.modEng c f).out = s.out := rfl
@[simp] theorem State.modRun_pending (s : State) (c : Nat) (f : CoreRun → CoreRun) :
    (s.modRun c f).pending = s.pending := rfl
@[simp] theorem State.modRun_mem (s : State) (c : Nat) (f : CoreRun → CoreRun) : (s.modRun c f).mem = s.mem := rfl
@[simp] theorem State.modRun_clusters (s : State) (c : Nat) (f : CoreRun → CoreRun) :
    (s.modRun c f).clusters = s.clusters := rfl
@[simp] theorem State.modRun_ft (s : State) (c : Nat) (f : CoreRun → CoreRun) : (s.modRun c f).ft = s.ft := rfl
@[simp] theorem State.modRun_net (s : State) (c : Nat) (f : CoreRun → CoreRun) : (s.modRun c f).net = s.net := rfl
@[simp] theorem State.modRun_mortar (s : State) (c : Nat) (f : CoreRun → CoreRun) :
    (s.modRun c f).mortar = s.mortar := rfl
@[simp] theorem State.modRun_lnk (s : State) (c : Nat) (f : CoreRun → CoreRun) : (s.modRun c f).lnk = s.lnk := rfl
@[simp] theorem State.modRun_chain (s : State) (c : Nat) (f : CoreRun → CoreRun) :
    (s.modRun c f).chain = s.chain := rfl
@[simp] theorem State.modRun_msn (s : State) (c : Nat) (f : CoreRun → CoreRun) : (s.modRun c f).msn = s.msn := rfl
@[simp] theorem State.modRun_ports (s : State) (c : Nat) (f : CoreRun → CoreRun) :
    (s.modRun c f).ports = s.ports := rfl
@[simp] theorem State.modRun_job (s : State) (c : Nat) (f : CoreRun → CoreRun) : (s.modRun c f).job = s.job := rfl
@[simp] theorem State.modRun_plb (s : State) (c : Nat) (f : CoreRun → CoreRun) : (s.modRun c f).plb = s.plb := rfl
@[simp] theorem State.modRun_pwr (s : State) (c : Nat) (f : CoreRun → CoreRun) : (s.modRun c f).pwr = s.pwr := rfl
@[simp] theorem State.modRun_start (s : State) (c : Nat) (f : CoreRun → CoreRun) :
    (s.modRun c f).start = s.start := rfl
@[simp] theorem State.modRun_free (s : State) (c : Nat) (f : CoreRun → CoreRun) : (s.modRun c f).free = s.free := rfl
@[simp] theorem State.modRun_losses (s : State) (c : Nat) (f : CoreRun → CoreRun) :
    (s.modRun c f).losses = s.losses := rfl
@[simp] theorem State.modRun_out (s : State) (c : Nat) (f : CoreRun → CoreRun) : (s.modRun c f).out = s.out := rfl
@[simp] theorem State.misfit_pending (s : State) (c : Nat) : (s.misfit c).pending = s.pending := rfl
@[simp] theorem State.misfit_mem (s : State) (c : Nat) : (s.misfit c).mem = s.mem := rfl
@[simp] theorem State.misfit_clusters (s : State) (c : Nat) : (s.misfit c).clusters = s.clusters := rfl
@[simp] theorem State.misfit_ft (s : State) (c : Nat) : (s.misfit c).ft = s.ft := rfl
@[simp] theorem State.misfit_net (s : State) (c : Nat) : (s.misfit c).net = s.net := rfl
@[simp] theorem State.misfit_mortar (s : State) (c : Nat) : (s.misfit c).mortar = s.mortar := rfl
@[simp] theorem State.misfit_lnk (s : State) (c : Nat) : (s.misfit c).lnk = s.lnk := rfl
@[simp] theorem State.misfit_chain (s : State) (c : Nat) : (s.misfit c).chain = s.chain := rfl
@[simp] theorem State.misfit_msn (s : State) (c : Nat) : (s.misfit c).msn = s.msn := rfl
@[simp] theorem State.misfit_ports (s : State) (c : Nat) : (s.misfit c).ports = s.ports := rfl
@[simp] theorem State.misfit_job (s : State) (c : Nat) : (s.misfit c).job = s.job := rfl
@[simp] theorem State.misfit_plb (s : State) (c : Nat) : (s.misfit c).plb = s.plb := rfl
@[simp] theorem State.misfit_pwr (s : State) (c : Nat) : (s.misfit c).pwr = s.pwr := rfl
@[simp] theorem State.misfit_start (s : State) (c : Nat) : (s.misfit c).start = s.start := rfl
@[simp] theorem State.misfit_free (s : State) (c : Nat) : (s.misfit c).free = s.free := rfl
@[simp] theorem State.misfit_losses (s : State) (c : Nat) : (s.misfit c).losses = s.losses := rfl
@[simp] theorem State.misfit_out (s : State) (c : Nat) : (s.misfit c).out = s.out := rfl
@[simp] theorem State.advanceIp_pending (s : State) (c t : Nat) (n : Word) :
    (s.advanceIp c t n).pending = s.pending := rfl
@[simp] theorem State.advanceIp_mem (s : State) (c t : Nat) (n : Word) : (s.advanceIp c t n).mem = s.mem := rfl
@[simp] theorem State.advanceIp_clusters (s : State) (c t : Nat) (n : Word) :
    (s.advanceIp c t n).clusters = s.clusters := rfl
@[simp] theorem State.advanceIp_ft (s : State) (c t : Nat) (n : Word) : (s.advanceIp c t n).ft = s.ft := rfl
@[simp] theorem State.advanceIp_net (s : State) (c t : Nat) (n : Word) : (s.advanceIp c t n).net = s.net := rfl
@[simp] theorem State.advanceIp_mortar (s : State) (c t : Nat) (n : Word) :
    (s.advanceIp c t n).mortar = s.mortar := rfl
@[simp] theorem State.advanceIp_lnk (s : State) (c t : Nat) (n : Word) : (s.advanceIp c t n).lnk = s.lnk := rfl
@[simp] theorem State.advanceIp_chain (s : State) (c t : Nat) (n : Word) : (s.advanceIp c t n).chain = s.chain := rfl
@[simp] theorem State.advanceIp_msn (s : State) (c t : Nat) (n : Word) : (s.advanceIp c t n).msn = s.msn := rfl
@[simp] theorem State.advanceIp_ports (s : State) (c t : Nat) (n : Word) : (s.advanceIp c t n).ports = s.ports := rfl
@[simp] theorem State.advanceIp_job (s : State) (c t : Nat) (n : Word) : (s.advanceIp c t n).job = s.job := rfl
@[simp] theorem State.advanceIp_plb (s : State) (c t : Nat) (n : Word) : (s.advanceIp c t n).plb = s.plb := rfl
@[simp] theorem State.advanceIp_pwr (s : State) (c t : Nat) (n : Word) : (s.advanceIp c t n).pwr = s.pwr := rfl
@[simp] theorem State.advanceIp_start (s : State) (c t : Nat) (n : Word) : (s.advanceIp c t n).start = s.start := rfl
@[simp] theorem State.advanceIp_free (s : State) (c t : Nat) (n : Word) : (s.advanceIp c t n).free = s.free := rfl
@[simp] theorem State.advanceIp_losses (s : State) (c t : Nat) (n : Word) :
    (s.advanceIp c t n).losses = s.losses := rfl
@[simp] theorem State.advanceIp_out (s : State) (c t : Nat) (n : Word) : (s.advanceIp c t n).out = s.out := rfl
@[simp] theorem State.jumpTo_pending (s : State) (c t : Nat) (a : Word) : (s.jumpTo c t a).pending = s.pending := rfl
@[simp] theorem State.jumpTo_mem (s : State) (c t : Nat) (a : Word) : (s.jumpTo c t a).mem = s.mem := rfl
@[simp] theorem State.jumpTo_clusters (s : State) (c t : Nat) (a : Word) :
    (s.jumpTo c t a).clusters = s.clusters := rfl
@[simp] theorem State.jumpTo_ft (s : State) (c t : Nat) (a : Word) : (s.jumpTo c t a).ft = s.ft := rfl
@[simp] theorem State.jumpTo_net (s : State) (c t : Nat) (a : Word) : (s.jumpTo c t a).net = s.net := rfl
@[simp] theorem State.jumpTo_mortar (s : State) (c t : Nat) (a : Word) : (s.jumpTo c t a).mortar = s.mortar := rfl
@[simp] theorem State.jumpTo_lnk (s : State) (c t : Nat) (a : Word) : (s.jumpTo c t a).lnk = s.lnk := rfl
@[simp] theorem State.jumpTo_chain (s : State) (c t : Nat) (a : Word) : (s.jumpTo c t a).chain = s.chain := rfl
@[simp] theorem State.jumpTo_msn (s : State) (c t : Nat) (a : Word) : (s.jumpTo c t a).msn = s.msn := rfl
@[simp] theorem State.jumpTo_ports (s : State) (c t : Nat) (a : Word) : (s.jumpTo c t a).ports = s.ports := rfl
@[simp] theorem State.jumpTo_job (s : State) (c t : Nat) (a : Word) : (s.jumpTo c t a).job = s.job := rfl
@[simp] theorem State.jumpTo_plb (s : State) (c t : Nat) (a : Word) : (s.jumpTo c t a).plb = s.plb := rfl
@[simp] theorem State.jumpTo_pwr (s : State) (c t : Nat) (a : Word) : (s.jumpTo c t a).pwr = s.pwr := rfl
@[simp] theorem State.jumpTo_start (s : State) (c t : Nat) (a : Word) : (s.jumpTo c t a).start = s.start := rfl
@[simp] theorem State.jumpTo_free (s : State) (c t : Nat) (a : Word) : (s.jumpTo c t a).free = s.free := rfl
@[simp] theorem State.jumpTo_losses (s : State) (c t : Nat) (a : Word) : (s.jumpTo c t a).losses = s.losses := rfl
@[simp] theorem State.jumpTo_out (s : State) (c t : Nat) (a : Word) : (s.jumpTo c t a).out = s.out := rfl
@[simp] theorem State.modCluster_pending (s : State) (k : Nat) (f : Cluster → Cluster) :
    (s.modCluster k f).pending = s.pending := rfl
@[simp] theorem State.modCluster_mem (s : State) (k : Nat) (f : Cluster → Cluster) :
    (s.modCluster k f).mem = s.mem := rfl
@[simp] theorem State.modCluster_cores (s : State) (k : Nat) (f : Cluster → Cluster) :
    (s.modCluster k f).cores = s.cores := rfl
@[simp] theorem State.modCluster_ft (s : State) (k : Nat) (f : Cluster → Cluster) :
    (s.modCluster k f).ft = s.ft := rfl
@[simp] theorem State.modCluster_net (s : State) (k : Nat) (f : Cluster → Cluster) :
    (s.modCluster k f).net = s.net := rfl
@[simp] theorem State.modCluster_mortar (s : State) (k : Nat) (f : Cluster → Cluster) :
    (s.modCluster k f).mortar = s.mortar := rfl
@[simp] theorem State.modCluster_lnk (s : State) (k : Nat) (f : Cluster → Cluster) :
    (s.modCluster k f).lnk = s.lnk := rfl
@[simp] theorem State.modCluster_chain (s : State) (k : Nat) (f : Cluster → Cluster) :
    (s.modCluster k f).chain = s.chain := rfl
@[simp] theorem State.modCluster_msn (s : State) (k : Nat) (f : Cluster → Cluster) :
    (s.modCluster k f).msn = s.msn := rfl
@[simp] theorem State.modCluster_ports (s : State) (k : Nat) (f : Cluster → Cluster) :
    (s.modCluster k f).ports = s.ports := rfl
@[simp] theorem State.modCluster_job (s : State) (k : Nat) (f : Cluster → Cluster) :
    (s.modCluster k f).job = s.job := rfl
@[simp] theorem State.modCluster_plb (s : State) (k : Nat) (f : Cluster → Cluster) :
    (s.modCluster k f).plb = s.plb := rfl
@[simp] theorem State.modCluster_pwr (s : State) (k : Nat) (f : Cluster → Cluster) :
    (s.modCluster k f).pwr = s.pwr := rfl
@[simp] theorem State.modCluster_start (s : State) (k : Nat) (f : Cluster → Cluster) :
    (s.modCluster k f).start = s.start := rfl
@[simp] theorem State.modCluster_free (s : State) (k : Nat) (f : Cluster → Cluster) :
    (s.modCluster k f).free = s.free := rfl
@[simp] theorem State.modCluster_losses (s : State) (k : Nat) (f : Cluster → Cluster) :
    (s.modCluster k f).losses = s.losses := rfl
@[simp] theorem State.modCluster_out (s : State) (k : Nat) (f : Cluster → Cluster) :
    (s.modCluster k f).out = s.out := rfl
@[simp] theorem State.modPch_pending (s : State) (p : Nat) (f : Pch → Pch) : (s.modPch p f).pending = s.pending := rfl
@[simp] theorem State.modPch_mem (s : State) (p : Nat) (f : Pch → Pch) : (s.modPch p f).mem = s.mem := rfl
@[simp] theorem State.modPch_cores (s : State) (p : Nat) (f : Pch → Pch) : (s.modPch p f).cores = s.cores := rfl
@[simp] theorem State.modPch_clusters (s : State) (p : Nat) (f : Pch → Pch) :
    (s.modPch p f).clusters = s.clusters := rfl
@[simp] theorem State.modPch_net (s : State) (p : Nat) (f : Pch → Pch) : (s.modPch p f).net = s.net := rfl
@[simp] theorem State.modPch_mortar (s : State) (p : Nat) (f : Pch → Pch) : (s.modPch p f).mortar = s.mortar := rfl
@[simp] theorem State.modPch_lnk (s : State) (p : Nat) (f : Pch → Pch) : (s.modPch p f).lnk = s.lnk := rfl
@[simp] theorem State.modPch_chain (s : State) (p : Nat) (f : Pch → Pch) : (s.modPch p f).chain = s.chain := rfl
@[simp] theorem State.modPch_msn (s : State) (p : Nat) (f : Pch → Pch) : (s.modPch p f).msn = s.msn := rfl
@[simp] theorem State.modPch_ports (s : State) (p : Nat) (f : Pch → Pch) : (s.modPch p f).ports = s.ports := rfl
@[simp] theorem State.modPch_job (s : State) (p : Nat) (f : Pch → Pch) : (s.modPch p f).job = s.job := rfl
@[simp] theorem State.modPch_plb (s : State) (p : Nat) (f : Pch → Pch) : (s.modPch p f).plb = s.plb := rfl
@[simp] theorem State.modPch_pwr (s : State) (p : Nat) (f : Pch → Pch) : (s.modPch p f).pwr = s.pwr := rfl
@[simp] theorem State.modPch_start (s : State) (p : Nat) (f : Pch → Pch) : (s.modPch p f).start = s.start := rfl
@[simp] theorem State.modPch_free (s : State) (p : Nat) (f : Pch → Pch) : (s.modPch p f).free = s.free := rfl
@[simp] theorem State.modPch_losses (s : State) (p : Nat) (f : Pch → Pch) : (s.modPch p f).losses = s.losses := rfl
@[simp] theorem State.modPch_out (s : State) (p : Nat) (f : Pch → Pch) : (s.modPch p f).out = s.out := rfl
@[simp] theorem State.modRange_pending (s : State) (i : Nat) (f : RangeSlot → RangeSlot) :
    (s.modRange i f).pending = s.pending := rfl
@[simp] theorem State.modRange_mem (s : State) (i : Nat) (f : RangeSlot → RangeSlot) :
    (s.modRange i f).mem = s.mem := rfl
@[simp] theorem State.modRange_cores (s : State) (i : Nat) (f : RangeSlot → RangeSlot) :
    (s.modRange i f).cores = s.cores := rfl
@[simp] theorem State.modRange_clusters (s : State) (i : Nat) (f : RangeSlot → RangeSlot) :
    (s.modRange i f).clusters = s.clusters := rfl
@[simp] theorem State.modRange_net (s : State) (i : Nat) (f : RangeSlot → RangeSlot) :
    (s.modRange i f).net = s.net := rfl
@[simp] theorem State.modRange_mortar (s : State) (i : Nat) (f : RangeSlot → RangeSlot) :
    (s.modRange i f).mortar = s.mortar := rfl
@[simp] theorem State.modRange_lnk (s : State) (i : Nat) (f : RangeSlot → RangeSlot) :
    (s.modRange i f).lnk = s.lnk := rfl
@[simp] theorem State.modRange_chain (s : State) (i : Nat) (f : RangeSlot → RangeSlot) :
    (s.modRange i f).chain = s.chain := rfl
@[simp] theorem State.modRange_msn (s : State) (i : Nat) (f : RangeSlot → RangeSlot) :
    (s.modRange i f).msn = s.msn := rfl
@[simp] theorem State.modRange_ports (s : State) (i : Nat) (f : RangeSlot → RangeSlot) :
    (s.modRange i f).ports = s.ports := rfl
@[simp] theorem State.modRange_job (s : State) (i : Nat) (f : RangeSlot → RangeSlot) :
    (s.modRange i f).job = s.job := rfl
@[simp] theorem State.modRange_plb (s : State) (i : Nat) (f : RangeSlot → RangeSlot) :
    (s.modRange i f).plb = s.plb := rfl
@[simp] theorem State.modRange_pwr (s : State) (i : Nat) (f : RangeSlot → RangeSlot) :
    (s.modRange i f).pwr = s.pwr := rfl
@[simp] theorem State.modRange_start (s : State) (i : Nat) (f : RangeSlot → RangeSlot) :
    (s.modRange i f).start = s.start := rfl
@[simp] theorem State.modRange_free (s : State) (i : Nat) (f : RangeSlot → RangeSlot) :
    (s.modRange i f).free = s.free := rfl
@[simp] theorem State.modRange_losses (s : State) (i : Nat) (f : RangeSlot → RangeSlot) :
    (s.modRange i f).losses = s.losses := rfl
@[simp] theorem State.modRange_out (s : State) (i : Nat) (f : RangeSlot → RangeSlot) :
    (s.modRange i f).out = s.out := rfl
@[simp] theorem State.modLink_pending (s : State) (l : Nat) (f : Link → Link) :
    (s.modLink l f).pending = s.pending := rfl
@[simp] theorem State.modLink_mem (s : State) (l : Nat) (f : Link → Link) : (s.modLink l f).mem = s.mem := rfl
@[simp] theorem State.modLink_cores (s : State) (l : Nat) (f : Link → Link) : (s.modLink l f).cores = s.cores := rfl
@[simp] theorem State.modLink_clusters (s : State) (l : Nat) (f : Link → Link) :
    (s.modLink l f).clusters = s.clusters := rfl
@[simp] theorem State.modLink_ft (s : State) (l : Nat) (f : Link → Link) : (s.modLink l f).ft = s.ft := rfl
@[simp] theorem State.modLink_net (s : State) (l : Nat) (f : Link → Link) : (s.modLink l f).net = s.net := rfl
@[simp] theorem State.modLink_mortar (s : State) (l : Nat) (f : Link → Link) :
    (s.modLink l f).mortar = s.mortar := rfl
@[simp] theorem State.modLink_chain (s : State) (l : Nat) (f : Link → Link) : (s.modLink l f).chain = s.chain := rfl
@[simp] theorem State.modLink_msn (s : State) (l : Nat) (f : Link → Link) : (s.modLink l f).msn = s.msn := rfl
@[simp] theorem State.modLink_ports (s : State) (l : Nat) (f : Link → Link) : (s.modLink l f).ports = s.ports := rfl
@[simp] theorem State.modLink_job (s : State) (l : Nat) (f : Link → Link) : (s.modLink l f).job = s.job := rfl
@[simp] theorem State.modLink_plb (s : State) (l : Nat) (f : Link → Link) : (s.modLink l f).plb = s.plb := rfl
@[simp] theorem State.modLink_pwr (s : State) (l : Nat) (f : Link → Link) : (s.modLink l f).pwr = s.pwr := rfl
@[simp] theorem State.modLink_start (s : State) (l : Nat) (f : Link → Link) : (s.modLink l f).start = s.start := rfl
@[simp] theorem State.modLink_free (s : State) (l : Nat) (f : Link → Link) : (s.modLink l f).free = s.free := rfl
@[simp] theorem State.modLink_losses (s : State) (l : Nat) (f : Link → Link) :
    (s.modLink l f).losses = s.losses := rfl
@[simp] theorem State.modLink_out (s : State) (l : Nat) (f : Link → Link) : (s.modLink l f).out = s.out := rfl
@[simp] theorem State.modMason_pending (s : State) (m : Nat) (f : Mason → Mason) :
    (s.modMason m f).pending = s.pending := rfl
@[simp] theorem State.modMason_mem (s : State) (m : Nat) (f : Mason → Mason) : (s.modMason m f).mem = s.mem := rfl
@[simp] theorem State.modMason_cores (s : State) (m : Nat) (f : Mason → Mason) :
    (s.modMason m f).cores = s.cores := rfl
@[simp] theorem State.modMason_clusters (s : State) (m : Nat) (f : Mason → Mason) :
    (s.modMason m f).clusters = s.clusters := rfl
@[simp] theorem State.modMason_ft (s : State) (m : Nat) (f : Mason → Mason) : (s.modMason m f).ft = s.ft := rfl
@[simp] theorem State.modMason_net (s : State) (m : Nat) (f : Mason → Mason) : (s.modMason m f).net = s.net := rfl
@[simp] theorem State.modMason_mortar (s : State) (m : Nat) (f : Mason → Mason) :
    (s.modMason m f).mortar = s.mortar := rfl
@[simp] theorem State.modMason_lnk (s : State) (m : Nat) (f : Mason → Mason) : (s.modMason m f).lnk = s.lnk := rfl
@[simp] theorem State.modMason_chain (s : State) (m : Nat) (f : Mason → Mason) :
    (s.modMason m f).chain = s.chain := rfl
@[simp] theorem State.modMason_ports (s : State) (m : Nat) (f : Mason → Mason) :
    (s.modMason m f).ports = s.ports := rfl
@[simp] theorem State.modMason_job (s : State) (m : Nat) (f : Mason → Mason) : (s.modMason m f).job = s.job := rfl
@[simp] theorem State.modMason_plb (s : State) (m : Nat) (f : Mason → Mason) : (s.modMason m f).plb = s.plb := rfl
@[simp] theorem State.modMason_pwr (s : State) (m : Nat) (f : Mason → Mason) : (s.modMason m f).pwr = s.pwr := rfl
@[simp] theorem State.modMason_start (s : State) (m : Nat) (f : Mason → Mason) :
    (s.modMason m f).start = s.start := rfl
@[simp] theorem State.modMason_free (s : State) (m : Nat) (f : Mason → Mason) : (s.modMason m f).free = s.free := rfl
@[simp] theorem State.modMason_losses (s : State) (m : Nat) (f : Mason → Mason) :
    (s.modMason m f).losses = s.losses := rfl
@[simp] theorem State.modMason_out (s : State) (m : Nat) (f : Mason → Mason) : (s.modMason m f).out = s.out := rfl
@[simp] theorem State.modChan_pending (s : State) (k : Nat) (f : Chan → Chan) :
    (s.modChan k f).pending = s.pending := rfl
@[simp] theorem State.modChan_mem (s : State) (k : Nat) (f : Chan → Chan) : (s.modChan k f).mem = s.mem := rfl
@[simp] theorem State.modChan_cores (s : State) (k : Nat) (f : Chan → Chan) : (s.modChan k f).cores = s.cores := rfl
@[simp] theorem State.modChan_clusters (s : State) (k : Nat) (f : Chan → Chan) :
    (s.modChan k f).clusters = s.clusters := rfl
@[simp] theorem State.modChan_ft (s : State) (k : Nat) (f : Chan → Chan) : (s.modChan k f).ft = s.ft := rfl
@[simp] theorem State.modChan_net (s : State) (k : Nat) (f : Chan → Chan) : (s.modChan k f).net = s.net := rfl
@[simp] theorem State.modChan_mortar (s : State) (k : Nat) (f : Chan → Chan) :
    (s.modChan k f).mortar = s.mortar := rfl
@[simp] theorem State.modChan_lnk (s : State) (k : Nat) (f : Chan → Chan) : (s.modChan k f).lnk = s.lnk := rfl
@[simp] theorem State.modChan_chain (s : State) (k : Nat) (f : Chan → Chan) : (s.modChan k f).chain = s.chain := rfl
@[simp] theorem State.modChan_ports (s : State) (k : Nat) (f : Chan → Chan) : (s.modChan k f).ports = s.ports := rfl
@[simp] theorem State.modChan_job (s : State) (k : Nat) (f : Chan → Chan) : (s.modChan k f).job = s.job := rfl
@[simp] theorem State.modChan_plb (s : State) (k : Nat) (f : Chan → Chan) : (s.modChan k f).plb = s.plb := rfl
@[simp] theorem State.modChan_pwr (s : State) (k : Nat) (f : Chan → Chan) : (s.modChan k f).pwr = s.pwr := rfl
@[simp] theorem State.modChan_start (s : State) (k : Nat) (f : Chan → Chan) : (s.modChan k f).start = s.start := rfl
@[simp] theorem State.modChan_free (s : State) (k : Nat) (f : Chan → Chan) : (s.modChan k f).free = s.free := rfl
@[simp] theorem State.modChan_losses (s : State) (k : Nat) (f : Chan → Chan) :
    (s.modChan k f).losses = s.losses := rfl
@[simp] theorem State.modChan_out (s : State) (k : Nat) (f : Chan → Chan) : (s.modChan k f).out = s.out := rfl
@[simp] theorem State.modMsn_pending (s : State) (f : MasonBlk → MasonBlk) : (s.modMsn f).pending = s.pending := rfl
@[simp] theorem State.modMsn_mem (s : State) (f : MasonBlk → MasonBlk) : (s.modMsn f).mem = s.mem := rfl
@[simp] theorem State.modMsn_cores (s : State) (f : MasonBlk → MasonBlk) : (s.modMsn f).cores = s.cores := rfl
@[simp] theorem State.modMsn_clusters (s : State) (f : MasonBlk → MasonBlk) :
    (s.modMsn f).clusters = s.clusters := rfl
@[simp] theorem State.modMsn_ft (s : State) (f : MasonBlk → MasonBlk) : (s.modMsn f).ft = s.ft := rfl
@[simp] theorem State.modMsn_net (s : State) (f : MasonBlk → MasonBlk) : (s.modMsn f).net = s.net := rfl
@[simp] theorem State.modMsn_mortar (s : State) (f : MasonBlk → MasonBlk) : (s.modMsn f).mortar = s.mortar := rfl
@[simp] theorem State.modMsn_lnk (s : State) (f : MasonBlk → MasonBlk) : (s.modMsn f).lnk = s.lnk := rfl
@[simp] theorem State.modMsn_chain (s : State) (f : MasonBlk → MasonBlk) : (s.modMsn f).chain = s.chain := rfl
@[simp] theorem State.modMsn_ports (s : State) (f : MasonBlk → MasonBlk) : (s.modMsn f).ports = s.ports := rfl
@[simp] theorem State.modMsn_job (s : State) (f : MasonBlk → MasonBlk) : (s.modMsn f).job = s.job := rfl
@[simp] theorem State.modMsn_plb (s : State) (f : MasonBlk → MasonBlk) : (s.modMsn f).plb = s.plb := rfl
@[simp] theorem State.modMsn_pwr (s : State) (f : MasonBlk → MasonBlk) : (s.modMsn f).pwr = s.pwr := rfl
@[simp] theorem State.modMsn_start (s : State) (f : MasonBlk → MasonBlk) : (s.modMsn f).start = s.start := rfl
@[simp] theorem State.modMsn_free (s : State) (f : MasonBlk → MasonBlk) : (s.modMsn f).free = s.free := rfl
@[simp] theorem State.modMsn_losses (s : State) (f : MasonBlk → MasonBlk) : (s.modMsn f).losses = s.losses := rfl
@[simp] theorem State.modMsn_out (s : State) (f : MasonBlk → MasonBlk) : (s.modMsn f).out = s.out := rfl
@[simp] theorem State.modPort_pending (s : State) (p : Nat) (f : Port → Port) :
    (s.modPort p f).pending = s.pending := rfl
@[simp] theorem State.modPort_mem (s : State) (p : Nat) (f : Port → Port) : (s.modPort p f).mem = s.mem := rfl
@[simp] theorem State.modPort_cores (s : State) (p : Nat) (f : Port → Port) : (s.modPort p f).cores = s.cores := rfl
@[simp] theorem State.modPort_clusters (s : State) (p : Nat) (f : Port → Port) :
    (s.modPort p f).clusters = s.clusters := rfl
@[simp] theorem State.modPort_ft (s : State) (p : Nat) (f : Port → Port) : (s.modPort p f).ft = s.ft := rfl
@[simp] theorem State.modPort_net (s : State) (p : Nat) (f : Port → Port) : (s.modPort p f).net = s.net := rfl
@[simp] theorem State.modPort_mortar (s : State) (p : Nat) (f : Port → Port) :
    (s.modPort p f).mortar = s.mortar := rfl
@[simp] theorem State.modPort_lnk (s : State) (p : Nat) (f : Port → Port) : (s.modPort p f).lnk = s.lnk := rfl
@[simp] theorem State.modPort_chain (s : State) (p : Nat) (f : Port → Port) : (s.modPort p f).chain = s.chain := rfl
@[simp] theorem State.modPort_msn (s : State) (p : Nat) (f : Port → Port) : (s.modPort p f).msn = s.msn := rfl
@[simp] theorem State.modPort_job (s : State) (p : Nat) (f : Port → Port) : (s.modPort p f).job = s.job := rfl
@[simp] theorem State.modPort_plb (s : State) (p : Nat) (f : Port → Port) : (s.modPort p f).plb = s.plb := rfl
@[simp] theorem State.modPort_pwr (s : State) (p : Nat) (f : Port → Port) : (s.modPort p f).pwr = s.pwr := rfl
@[simp] theorem State.modPort_start (s : State) (p : Nat) (f : Port → Port) : (s.modPort p f).start = s.start := rfl
@[simp] theorem State.modPort_free (s : State) (p : Nat) (f : Port → Port) : (s.modPort p f).free = s.free := rfl
@[simp] theorem State.modPort_losses (s : State) (p : Nat) (f : Port → Port) :
    (s.modPort p f).losses = s.losses := rfl
@[simp] theorem State.modPort_out (s : State) (p : Nat) (f : Port → Port) : (s.modPort p f).out = s.out := rfl
@[simp] theorem State.modJob_pending (s : State) (f : Job → Job) : (s.modJob f).pending = s.pending := rfl
@[simp] theorem State.modJob_mem (s : State) (f : Job → Job) : (s.modJob f).mem = s.mem := rfl
@[simp] theorem State.modJob_cores (s : State) (f : Job → Job) : (s.modJob f).cores = s.cores := rfl
@[simp] theorem State.modJob_clusters (s : State) (f : Job → Job) : (s.modJob f).clusters = s.clusters := rfl
@[simp] theorem State.modJob_ft (s : State) (f : Job → Job) : (s.modJob f).ft = s.ft := rfl
@[simp] theorem State.modJob_net (s : State) (f : Job → Job) : (s.modJob f).net = s.net := rfl
@[simp] theorem State.modJob_mortar (s : State) (f : Job → Job) : (s.modJob f).mortar = s.mortar := rfl
@[simp] theorem State.modJob_lnk (s : State) (f : Job → Job) : (s.modJob f).lnk = s.lnk := rfl
@[simp] theorem State.modJob_chain (s : State) (f : Job → Job) : (s.modJob f).chain = s.chain := rfl
@[simp] theorem State.modJob_msn (s : State) (f : Job → Job) : (s.modJob f).msn = s.msn := rfl
@[simp] theorem State.modJob_ports (s : State) (f : Job → Job) : (s.modJob f).ports = s.ports := rfl
@[simp] theorem State.modJob_plb (s : State) (f : Job → Job) : (s.modJob f).plb = s.plb := rfl
@[simp] theorem State.modJob_pwr (s : State) (f : Job → Job) : (s.modJob f).pwr = s.pwr := rfl
@[simp] theorem State.modJob_start (s : State) (f : Job → Job) : (s.modJob f).start = s.start := rfl
@[simp] theorem State.modJob_free (s : State) (f : Job → Job) : (s.modJob f).free = s.free := rfl
@[simp] theorem State.modJob_losses (s : State) (f : Job → Job) : (s.modJob f).losses = s.losses := rfl
@[simp] theorem State.modJob_out (s : State) (f : Job → Job) : (s.modJob f).out = s.out := rfl
@[simp] theorem State.modPlb_pending (s : State) (f : Plumb → Plumb) : (s.modPlb f).pending = s.pending := rfl
@[simp] theorem State.modPlb_mem (s : State) (f : Plumb → Plumb) : (s.modPlb f).mem = s.mem := rfl
@[simp] theorem State.modPlb_cores (s : State) (f : Plumb → Plumb) : (s.modPlb f).cores = s.cores := rfl
@[simp] theorem State.modPlb_clusters (s : State) (f : Plumb → Plumb) : (s.modPlb f).clusters = s.clusters := rfl
@[simp] theorem State.modPlb_ft (s : State) (f : Plumb → Plumb) : (s.modPlb f).ft = s.ft := rfl
@[simp] theorem State.modPlb_net (s : State) (f : Plumb → Plumb) : (s.modPlb f).net = s.net := rfl
@[simp] theorem State.modPlb_mortar (s : State) (f : Plumb → Plumb) : (s.modPlb f).mortar = s.mortar := rfl
@[simp] theorem State.modPlb_lnk (s : State) (f : Plumb → Plumb) : (s.modPlb f).lnk = s.lnk := rfl
@[simp] theorem State.modPlb_chain (s : State) (f : Plumb → Plumb) : (s.modPlb f).chain = s.chain := rfl
@[simp] theorem State.modPlb_msn (s : State) (f : Plumb → Plumb) : (s.modPlb f).msn = s.msn := rfl
@[simp] theorem State.modPlb_ports (s : State) (f : Plumb → Plumb) : (s.modPlb f).ports = s.ports := rfl
@[simp] theorem State.modPlb_job (s : State) (f : Plumb → Plumb) : (s.modPlb f).job = s.job := rfl
@[simp] theorem State.modPlb_pwr (s : State) (f : Plumb → Plumb) : (s.modPlb f).pwr = s.pwr := rfl
@[simp] theorem State.modPlb_start (s : State) (f : Plumb → Plumb) : (s.modPlb f).start = s.start := rfl
@[simp] theorem State.modPlb_free (s : State) (f : Plumb → Plumb) : (s.modPlb f).free = s.free := rfl
@[simp] theorem State.modPlb_losses (s : State) (f : Plumb → Plumb) : (s.modPlb f).losses = s.losses := rfl
@[simp] theorem State.modPlb_out (s : State) (f : Plumb → Plumb) : (s.modPlb f).out = s.out := rfl
@[simp] theorem State.modPwr_pending (s : State) (f : Power → Power) : (s.modPwr f).pending = s.pending := rfl
@[simp] theorem State.modPwr_mem (s : State) (f : Power → Power) : (s.modPwr f).mem = s.mem := rfl
@[simp] theorem State.modPwr_cores (s : State) (f : Power → Power) : (s.modPwr f).cores = s.cores := rfl
@[simp] theorem State.modPwr_clusters (s : State) (f : Power → Power) : (s.modPwr f).clusters = s.clusters := rfl
@[simp] theorem State.modPwr_ft (s : State) (f : Power → Power) : (s.modPwr f).ft = s.ft := rfl
@[simp] theorem State.modPwr_net (s : State) (f : Power → Power) : (s.modPwr f).net = s.net := rfl
@[simp] theorem State.modPwr_mortar (s : State) (f : Power → Power) : (s.modPwr f).mortar = s.mortar := rfl
@[simp] theorem State.modPwr_lnk (s : State) (f : Power → Power) : (s.modPwr f).lnk = s.lnk := rfl
@[simp] theorem State.modPwr_chain (s : State) (f : Power → Power) : (s.modPwr f).chain = s.chain := rfl
@[simp] theorem State.modPwr_msn (s : State) (f : Power → Power) : (s.modPwr f).msn = s.msn := rfl
@[simp] theorem State.modPwr_ports (s : State) (f : Power → Power) : (s.modPwr f).ports = s.ports := rfl
@[simp] theorem State.modPwr_job (s : State) (f : Power → Power) : (s.modPwr f).job = s.job := rfl
@[simp] theorem State.modPwr_plb (s : State) (f : Power → Power) : (s.modPwr f).plb = s.plb := rfl
@[simp] theorem State.modPwr_start (s : State) (f : Power → Power) : (s.modPwr f).start = s.start := rfl
@[simp] theorem State.modPwr_free (s : State) (f : Power → Power) : (s.modPwr f).free = s.free := rfl
@[simp] theorem State.modPwr_losses (s : State) (f : Power → Power) : (s.modPwr f).losses = s.losses := rfl
@[simp] theorem State.modPwr_out (s : State) (f : Power → Power) : (s.modPwr f).out = s.out := rfl
@[simp] theorem State.modStart_pending (s : State) (f : Start → Start) : (s.modStart f).pending = s.pending := rfl
@[simp] theorem State.modStart_mem (s : State) (f : Start → Start) : (s.modStart f).mem = s.mem := rfl
@[simp] theorem State.modStart_cores (s : State) (f : Start → Start) : (s.modStart f).cores = s.cores := rfl
@[simp] theorem State.modStart_clusters (s : State) (f : Start → Start) : (s.modStart f).clusters = s.clusters := rfl
@[simp] theorem State.modStart_ft (s : State) (f : Start → Start) : (s.modStart f).ft = s.ft := rfl
@[simp] theorem State.modStart_net (s : State) (f : Start → Start) : (s.modStart f).net = s.net := rfl
@[simp] theorem State.modStart_mortar (s : State) (f : Start → Start) : (s.modStart f).mortar = s.mortar := rfl
@[simp] theorem State.modStart_lnk (s : State) (f : Start → Start) : (s.modStart f).lnk = s.lnk := rfl
@[simp] theorem State.modStart_chain (s : State) (f : Start → Start) : (s.modStart f).chain = s.chain := rfl
@[simp] theorem State.modStart_msn (s : State) (f : Start → Start) : (s.modStart f).msn = s.msn := rfl
@[simp] theorem State.modStart_ports (s : State) (f : Start → Start) : (s.modStart f).ports = s.ports := rfl
@[simp] theorem State.modStart_job (s : State) (f : Start → Start) : (s.modStart f).job = s.job := rfl
@[simp] theorem State.modStart_plb (s : State) (f : Start → Start) : (s.modStart f).plb = s.plb := rfl
@[simp] theorem State.modStart_pwr (s : State) (f : Start → Start) : (s.modStart f).pwr = s.pwr := rfl
@[simp] theorem State.modStart_free (s : State) (f : Start → Start) : (s.modStart f).free = s.free := rfl
@[simp] theorem State.modStart_losses (s : State) (f : Start → Start) : (s.modStart f).losses = s.losses := rfl
@[simp] theorem State.modStart_out (s : State) (f : Start → Start) : (s.modStart f).out = s.out := rfl
@[simp] theorem State.modChain_pending (s : State) (f : Chain → Chain) : (s.modChain f).pending = s.pending := rfl
@[simp] theorem State.modChain_mem (s : State) (f : Chain → Chain) : (s.modChain f).mem = s.mem := rfl
@[simp] theorem State.modChain_cores (s : State) (f : Chain → Chain) : (s.modChain f).cores = s.cores := rfl
@[simp] theorem State.modChain_clusters (s : State) (f : Chain → Chain) : (s.modChain f).clusters = s.clusters := rfl
@[simp] theorem State.modChain_ft (s : State) (f : Chain → Chain) : (s.modChain f).ft = s.ft := rfl
@[simp] theorem State.modChain_net (s : State) (f : Chain → Chain) : (s.modChain f).net = s.net := rfl
@[simp] theorem State.modChain_mortar (s : State) (f : Chain → Chain) : (s.modChain f).mortar = s.mortar := rfl
@[simp] theorem State.modChain_lnk (s : State) (f : Chain → Chain) : (s.modChain f).lnk = s.lnk := rfl
@[simp] theorem State.modChain_msn (s : State) (f : Chain → Chain) : (s.modChain f).msn = s.msn := rfl
@[simp] theorem State.modChain_ports (s : State) (f : Chain → Chain) : (s.modChain f).ports = s.ports := rfl
@[simp] theorem State.modChain_job (s : State) (f : Chain → Chain) : (s.modChain f).job = s.job := rfl
@[simp] theorem State.modChain_plb (s : State) (f : Chain → Chain) : (s.modChain f).plb = s.plb := rfl
@[simp] theorem State.modChain_pwr (s : State) (f : Chain → Chain) : (s.modChain f).pwr = s.pwr := rfl
@[simp] theorem State.modChain_start (s : State) (f : Chain → Chain) : (s.modChain f).start = s.start := rfl
@[simp] theorem State.modChain_free (s : State) (f : Chain → Chain) : (s.modChain f).free = s.free := rfl
@[simp] theorem State.modChain_losses (s : State) (f : Chain → Chain) : (s.modChain f).losses = s.losses := rfl
@[simp] theorem State.modChain_out (s : State) (f : Chain → Chain) : (s.modChain f).out = s.out := rfl
@[simp] theorem State.emit_pending (s : State) (o : Out) : (s.emit o).pending = s.pending := rfl
@[simp] theorem State.emit_mem (s : State) (o : Out) : (s.emit o).mem = s.mem := rfl
@[simp] theorem State.emit_cores (s : State) (o : Out) : (s.emit o).cores = s.cores := rfl
@[simp] theorem State.emit_clusters (s : State) (o : Out) : (s.emit o).clusters = s.clusters := rfl
@[simp] theorem State.emit_ft (s : State) (o : Out) : (s.emit o).ft = s.ft := rfl
@[simp] theorem State.emit_net (s : State) (o : Out) : (s.emit o).net = s.net := rfl
@[simp] theorem State.emit_mortar (s : State) (o : Out) : (s.emit o).mortar = s.mortar := rfl
@[simp] theorem State.emit_lnk (s : State) (o : Out) : (s.emit o).lnk = s.lnk := rfl
@[simp] theorem State.emit_chain (s : State) (o : Out) : (s.emit o).chain = s.chain := rfl
@[simp] theorem State.emit_msn (s : State) (o : Out) : (s.emit o).msn = s.msn := rfl
@[simp] theorem State.emit_ports (s : State) (o : Out) : (s.emit o).ports = s.ports := rfl
@[simp] theorem State.emit_job (s : State) (o : Out) : (s.emit o).job = s.job := rfl
@[simp] theorem State.emit_plb (s : State) (o : Out) : (s.emit o).plb = s.plb := rfl
@[simp] theorem State.emit_pwr (s : State) (o : Out) : (s.emit o).pwr = s.pwr := rfl
@[simp] theorem State.emit_start (s : State) (o : Out) : (s.emit o).start = s.start := rfl
@[simp] theorem State.emit_free (s : State) (o : Out) : (s.emit o).free = s.free := rfl
@[simp] theorem State.emit_losses (s : State) (o : Out) : (s.emit o).losses = s.losses := rfl
@[simp] theorem State.send_pending (s : State) (p : Packet) : (s.send p).pending = s.pending := rfl
@[simp] theorem State.send_mem (s : State) (p : Packet) : (s.send p).mem = s.mem := rfl
@[simp] theorem State.send_cores (s : State) (p : Packet) : (s.send p).cores = s.cores := rfl
@[simp] theorem State.send_clusters (s : State) (p : Packet) : (s.send p).clusters = s.clusters := rfl
@[simp] theorem State.send_ft (s : State) (p : Packet) : (s.send p).ft = s.ft := rfl
@[simp] theorem State.send_mortar (s : State) (p : Packet) : (s.send p).mortar = s.mortar := rfl
@[simp] theorem State.send_lnk (s : State) (p : Packet) : (s.send p).lnk = s.lnk := rfl
@[simp] theorem State.send_chain (s : State) (p : Packet) : (s.send p).chain = s.chain := rfl
@[simp] theorem State.send_msn (s : State) (p : Packet) : (s.send p).msn = s.msn := rfl
@[simp] theorem State.send_ports (s : State) (p : Packet) : (s.send p).ports = s.ports := rfl
@[simp] theorem State.send_job (s : State) (p : Packet) : (s.send p).job = s.job := rfl
@[simp] theorem State.send_plb (s : State) (p : Packet) : (s.send p).plb = s.plb := rfl
@[simp] theorem State.send_pwr (s : State) (p : Packet) : (s.send p).pwr = s.pwr := rfl
@[simp] theorem State.send_start (s : State) (p : Packet) : (s.send p).start = s.start := rfl
@[simp] theorem State.send_free (s : State) (p : Packet) : (s.send p).free = s.free := rfl
@[simp] theorem State.send_losses (s : State) (p : Packet) : (s.send p).losses = s.losses := rfl
@[simp] theorem State.send_out (s : State) (p : Packet) : (s.send p).out = s.out := rfl
@[simp] theorem State.useFree_pending (s : State) : (s.useFree).pending = s.pending := rfl
@[simp] theorem State.useFree_mem (s : State) : (s.useFree).mem = s.mem := rfl
@[simp] theorem State.useFree_cores (s : State) : (s.useFree).cores = s.cores := rfl
@[simp] theorem State.useFree_clusters (s : State) : (s.useFree).clusters = s.clusters := rfl
@[simp] theorem State.useFree_ft (s : State) : (s.useFree).ft = s.ft := rfl
@[simp] theorem State.useFree_net (s : State) : (s.useFree).net = s.net := rfl
@[simp] theorem State.useFree_mortar (s : State) : (s.useFree).mortar = s.mortar := rfl
@[simp] theorem State.useFree_lnk (s : State) : (s.useFree).lnk = s.lnk := rfl
@[simp] theorem State.useFree_chain (s : State) : (s.useFree).chain = s.chain := rfl
@[simp] theorem State.useFree_msn (s : State) : (s.useFree).msn = s.msn := rfl
@[simp] theorem State.useFree_ports (s : State) : (s.useFree).ports = s.ports := rfl
@[simp] theorem State.useFree_job (s : State) : (s.useFree).job = s.job := rfl
@[simp] theorem State.useFree_plb (s : State) : (s.useFree).plb = s.plb := rfl
@[simp] theorem State.useFree_pwr (s : State) : (s.useFree).pwr = s.pwr := rfl
@[simp] theorem State.useFree_start (s : State) : (s.useFree).start = s.start := rfl
@[simp] theorem State.useFree_losses (s : State) : (s.useFree).losses = s.losses := rfl
@[simp] theorem State.useFree_out (s : State) : (s.useFree).out = s.out := rfl
@[simp] theorem State.logAdd_pending (s : State) (off bytes n : Nat) :
    (s.logAdd off bytes n).pending = s.pending := rfl
@[simp] theorem State.logAdd_mem (s : State) (off bytes n : Nat) : (s.logAdd off bytes n).mem = s.mem := rfl
@[simp] theorem State.logAdd_cores (s : State) (off bytes n : Nat) : (s.logAdd off bytes n).cores = s.cores := rfl
@[simp] theorem State.logAdd_clusters (s : State) (off bytes n : Nat) :
    (s.logAdd off bytes n).clusters = s.clusters := rfl
@[simp] theorem State.logAdd_ft (s : State) (off bytes n : Nat) : (s.logAdd off bytes n).ft = s.ft := rfl
@[simp] theorem State.logAdd_net (s : State) (off bytes n : Nat) : (s.logAdd off bytes n).net = s.net := rfl
@[simp] theorem State.logAdd_mortar (s : State) (off bytes n : Nat) : (s.logAdd off bytes n).mortar = s.mortar := rfl
@[simp] theorem State.logAdd_lnk (s : State) (off bytes n : Nat) : (s.logAdd off bytes n).lnk = s.lnk := rfl
@[simp] theorem State.logAdd_chain (s : State) (off bytes n : Nat) : (s.logAdd off bytes n).chain = s.chain := rfl
@[simp] theorem State.logAdd_msn (s : State) (off bytes n : Nat) : (s.logAdd off bytes n).msn = s.msn := rfl
@[simp] theorem State.logAdd_ports (s : State) (off bytes n : Nat) : (s.logAdd off bytes n).ports = s.ports := rfl
@[simp] theorem State.logAdd_job (s : State) (off bytes n : Nat) : (s.logAdd off bytes n).job = s.job := rfl
@[simp] theorem State.logAdd_pwr (s : State) (off bytes n : Nat) : (s.logAdd off bytes n).pwr = s.pwr := rfl
@[simp] theorem State.logAdd_start (s : State) (off bytes n : Nat) : (s.logAdd off bytes n).start = s.start := rfl
@[simp] theorem State.logAdd_free (s : State) (off bytes n : Nat) : (s.logAdd off bytes n).free = s.free := rfl
@[simp] theorem State.logAdd_losses (s : State) (off bytes n : Nat) : (s.logAdd off bytes n).losses = s.losses := rfl
@[simp] theorem State.logAdd_out (s : State) (off bytes n : Nat) : (s.logAdd off bytes n).out = s.out := rfl
@[simp] theorem State.violate_pending (s : State) (v : Viol) : (s.violate v).pending = s.pending := rfl
@[simp] theorem State.violate_mem (s : State) (v : Viol) : (s.violate v).mem = s.mem := rfl
@[simp] theorem State.violate_cores (s : State) (v : Viol) : (s.violate v).cores = s.cores := rfl
@[simp] theorem State.violate_clusters (s : State) (v : Viol) : (s.violate v).clusters = s.clusters := rfl
@[simp] theorem State.violate_ft (s : State) (v : Viol) : (s.violate v).ft = s.ft := rfl
@[simp] theorem State.violate_net (s : State) (v : Viol) : (s.violate v).net = s.net := rfl
@[simp] theorem State.violate_mortar (s : State) (v : Viol) : (s.violate v).mortar = s.mortar := rfl
@[simp] theorem State.violate_lnk (s : State) (v : Viol) : (s.violate v).lnk = s.lnk := rfl
@[simp] theorem State.violate_chain (s : State) (v : Viol) : (s.violate v).chain = s.chain := rfl
@[simp] theorem State.violate_msn (s : State) (v : Viol) : (s.violate v).msn = s.msn := rfl
@[simp] theorem State.violate_ports (s : State) (v : Viol) : (s.violate v).ports = s.ports := rfl
@[simp] theorem State.violate_job (s : State) (v : Viol) : (s.violate v).job = s.job := rfl
@[simp] theorem State.violate_pwr (s : State) (v : Viol) : (s.violate v).pwr = s.pwr := rfl
@[simp] theorem State.violate_start (s : State) (v : Viol) : (s.violate v).start = s.start := rfl
@[simp] theorem State.violate_free (s : State) (v : Viol) : (s.violate v).free = s.free := rfl
@[simp] theorem State.violate_losses (s : State) (v : Viol) : (s.violate v).losses = s.losses := rfl
@[simp] theorem State.violate_out (s : State) (v : Viol) : (s.violate v).out = s.out := rfl
@[simp] theorem State.logWait_pending (s : State) (i : Nat) : (s.logWait i).pending = s.pending := rfl
@[simp] theorem State.logWait_mem (s : State) (i : Nat) : (s.logWait i).mem = s.mem := rfl
@[simp] theorem State.logWait_cores (s : State) (i : Nat) : (s.logWait i).cores = s.cores := rfl
@[simp] theorem State.logWait_clusters (s : State) (i : Nat) : (s.logWait i).clusters = s.clusters := rfl
@[simp] theorem State.logWait_ft (s : State) (i : Nat) : (s.logWait i).ft = s.ft := rfl
@[simp] theorem State.logWait_net (s : State) (i : Nat) : (s.logWait i).net = s.net := rfl
@[simp] theorem State.logWait_mortar (s : State) (i : Nat) : (s.logWait i).mortar = s.mortar := rfl
@[simp] theorem State.logWait_lnk (s : State) (i : Nat) : (s.logWait i).lnk = s.lnk := rfl
@[simp] theorem State.logWait_chain (s : State) (i : Nat) : (s.logWait i).chain = s.chain := rfl
@[simp] theorem State.logWait_msn (s : State) (i : Nat) : (s.logWait i).msn = s.msn := rfl
@[simp] theorem State.logWait_ports (s : State) (i : Nat) : (s.logWait i).ports = s.ports := rfl
@[simp] theorem State.logWait_job (s : State) (i : Nat) : (s.logWait i).job = s.job := rfl
@[simp] theorem State.logWait_pwr (s : State) (i : Nat) : (s.logWait i).pwr = s.pwr := rfl
@[simp] theorem State.logWait_start (s : State) (i : Nat) : (s.logWait i).start = s.start := rfl
@[simp] theorem State.logWait_free (s : State) (i : Nat) : (s.logWait i).free = s.free := rfl
@[simp] theorem State.logWait_losses (s : State) (i : Nat) : (s.logWait i).losses = s.losses := rfl
@[simp] theorem State.logWait_out (s : State) (i : Nat) : (s.logWait i).out = s.out := rfl
@[simp] theorem State.logOp_pending (s : State) (i : Nat) : (s.logOp i).pending = s.pending := rfl
@[simp] theorem State.logOp_mem (s : State) (i : Nat) : (s.logOp i).mem = s.mem := rfl
@[simp] theorem State.logOp_cores (s : State) (i : Nat) : (s.logOp i).cores = s.cores := rfl
@[simp] theorem State.logOp_clusters (s : State) (i : Nat) : (s.logOp i).clusters = s.clusters := rfl
@[simp] theorem State.logOp_ft (s : State) (i : Nat) : (s.logOp i).ft = s.ft := rfl
@[simp] theorem State.logOp_net (s : State) (i : Nat) : (s.logOp i).net = s.net := rfl
@[simp] theorem State.logOp_mortar (s : State) (i : Nat) : (s.logOp i).mortar = s.mortar := rfl
@[simp] theorem State.logOp_lnk (s : State) (i : Nat) : (s.logOp i).lnk = s.lnk := rfl
@[simp] theorem State.logOp_chain (s : State) (i : Nat) : (s.logOp i).chain = s.chain := rfl
@[simp] theorem State.logOp_msn (s : State) (i : Nat) : (s.logOp i).msn = s.msn := rfl
@[simp] theorem State.logOp_ports (s : State) (i : Nat) : (s.logOp i).ports = s.ports := rfl
@[simp] theorem State.logOp_job (s : State) (i : Nat) : (s.logOp i).job = s.job := rfl
@[simp] theorem State.logOp_pwr (s : State) (i : Nat) : (s.logOp i).pwr = s.pwr := rfl
@[simp] theorem State.logOp_start (s : State) (i : Nat) : (s.logOp i).start = s.start := rfl
@[simp] theorem State.logOp_free (s : State) (i : Nat) : (s.logOp i).free = s.free := rfl
@[simp] theorem State.logOp_losses (s : State) (i : Nat) : (s.logOp i).losses = s.losses := rfl
@[simp] theorem State.logOp_out (s : State) (i : Nat) : (s.logOp i).out = s.out := rfl
@[simp] theorem State.errLog_pending (s : State) (cause unit : Nat) : (s.errLog cause unit).pending = s.pending := rfl
@[simp] theorem State.errLog_mem (s : State) (cause unit : Nat) : (s.errLog cause unit).mem = s.mem := rfl
@[simp] theorem State.errLog_cores (s : State) (cause unit : Nat) : (s.errLog cause unit).cores = s.cores := rfl
@[simp] theorem State.errLog_clusters (s : State) (cause unit : Nat) :
    (s.errLog cause unit).clusters = s.clusters := rfl
@[simp] theorem State.errLog_ft (s : State) (cause unit : Nat) : (s.errLog cause unit).ft = s.ft := rfl
@[simp] theorem State.errLog_net (s : State) (cause unit : Nat) : (s.errLog cause unit).net = s.net := rfl
@[simp] theorem State.errLog_mortar (s : State) (cause unit : Nat) : (s.errLog cause unit).mortar = s.mortar := rfl
@[simp] theorem State.errLog_lnk (s : State) (cause unit : Nat) : (s.errLog cause unit).lnk = s.lnk := rfl
@[simp] theorem State.errLog_chain (s : State) (cause unit : Nat) : (s.errLog cause unit).chain = s.chain := rfl
@[simp] theorem State.errLog_msn (s : State) (cause unit : Nat) : (s.errLog cause unit).msn = s.msn := rfl
@[simp] theorem State.errLog_ports (s : State) (cause unit : Nat) : (s.errLog cause unit).ports = s.ports := rfl
@[simp] theorem State.errLog_job (s : State) (cause unit : Nat) : (s.errLog cause unit).job = s.job := rfl
@[simp] theorem State.errLog_pwr (s : State) (cause unit : Nat) : (s.errLog cause unit).pwr = s.pwr := rfl
@[simp] theorem State.errLog_start (s : State) (cause unit : Nat) : (s.errLog cause unit).start = s.start := rfl
@[simp] theorem State.errLog_free (s : State) (cause unit : Nat) : (s.errLog cause unit).free = s.free := rfl
@[simp] theorem State.errLog_losses (s : State) (cause unit : Nat) : (s.errLog cause unit).losses = s.losses := rfl
@[simp] theorem State.errLog_out (s : State) (cause unit : Nat) : (s.errLog cause unit).out = s.out := rfl

/-! ## Parts by number -/

@[simp] theorem State.core_modCore_same (s : State) (c : Nat) (f : Core → Core) :
    (s.modCore c f).core c = f (s.core c) := SMap.get_modify_same _ _ _ _

theorem State.core_modCore_ne (s : State) {c j : Nat} (f : Core → Core) (h : j ≠ c) :
    (s.modCore c f).core j = s.core j := SMap.get_modify_ne _ _ _ h

@[simp] theorem State.cluster_modCluster_same (s : State) (k : Nat) (f : Cluster → Cluster) :
    (s.modCluster k f).cluster k = f (s.cluster k) := SMap.get_modify_same _ _ _ _

theorem State.cluster_modCluster_ne (s : State) {k j : Nat} (f : Cluster → Cluster) (h : j ≠ k) :
    (s.modCluster k f).cluster j = s.cluster j := SMap.get_modify_ne _ _ _ h

@[simp] theorem State.pch_modPch_same (s : State) (p : Nat) (f : Pch → Pch) :
    (s.modPch p f).pch p = f (s.pch p) := SMap.get_modify_same _ _ _ _

theorem State.pch_modPch_ne (s : State) {p j : Nat} (f : Pch → Pch) (h : j ≠ p) :
    (s.modPch p f).pch j = s.pch j := SMap.get_modify_ne _ _ _ h

@[simp] theorem State.link_modLink_same (s : State) (l : Nat) (f : Link → Link) :
    (s.modLink l f).link l = f (s.link l) := SMap.get_modify_same _ _ _ _

theorem State.link_modLink_ne (s : State) {l j : Nat} (f : Link → Link) (h : j ≠ l) :
    (s.modLink l f).link j = s.link j := SMap.get_modify_ne _ _ _ h

@[simp] theorem State.mason_modMason_same (s : State) (m : Nat) (f : Mason → Mason) :
    (s.modMason m f).mason m = f (s.mason m) := SMap.get_modify_same _ _ _ _

theorem State.mason_modMason_ne (s : State) {m j : Nat} (f : Mason → Mason) (h : j ≠ m) :
    (s.modMason m f).mason j = s.mason j := SMap.get_modify_ne _ _ _ h

@[simp] theorem State.chan_modChan_same (s : State) (k : Nat) (f : Chan → Chan) :
    (s.modChan k f).chan k = f (s.chan k) := SMap.get_modify_same _ _ _ _

theorem State.chan_modChan_ne (s : State) {k j : Nat} (f : Chan → Chan) (h : j ≠ k) :
    (s.modChan k f).chan j = s.chan j := SMap.get_modify_ne _ _ _ h

@[simp] theorem State.port_modPort_same (s : State) (p : Nat) (f : Port → Port) :
    (s.modPort p f).port p = f (s.port p) := SMap.get_modify_same _ _ _ _

theorem State.port_modPort_ne (s : State) {p j : Nat} (f : Port → Port) (h : j ≠ p) :
    (s.modPort p f).port j = s.port j := SMap.get_modify_ne _ _ _ h

@[simp] theorem State.rangeSlot_modRange_same (s : State) (i : Nat) (f : RangeSlot → RangeSlot) :
    (s.modRange i f).rangeSlot i = f (s.rangeSlot i) := SMap.get_modify_same _ _ _ _

theorem State.rangeSlot_modRange_ne (s : State) {i j : Nat} (f : RangeSlot → RangeSlot) (h : j ≠ i) :
    (s.modRange i f).rangeSlot j = s.rangeSlot j := SMap.get_modify_ne _ _ _ h

theorem State.core_congr {s u : State} (h : u.cores = s.cores) (j : Nat) : u.core j = s.core j := by
  simp only [State.core, h]

theorem State.cluster_congr {s u : State} (h : u.clusters = s.clusters) (j : Nat) : u.cluster j = s.cluster j := by
  simp only [State.cluster, h]

theorem State.pch_congr {s u : State} (h : u.ft.pchs = s.ft.pchs) (j : Nat) : u.pch j = s.pch j := by
  simp only [State.pch, h]

theorem State.link_congr {s u : State} (h : u.lnk.links = s.lnk.links) (j : Nat) : u.link j = s.link j := by
  simp only [State.link, h]

theorem State.mason_congr {s u : State} (h : u.msn.units = s.msn.units) (j : Nat) : u.mason j = s.mason j := by
  simp only [State.mason, h]

theorem State.chan_congr {s u : State} (h : u.msn.chans = s.msn.chans) (j : Nat) : u.chan j = s.chan j := by
  simp only [State.chan, h]

theorem State.port_congr {s u : State} (h : u.ports = s.ports) (j : Nat) : u.port j = s.port j := by
  simp only [State.port, h]

theorem State.rangeSlot_congr {s u : State} (h : u.ft.range = s.ft.range)
    (j : Nat) : u.rangeSlot j = s.rangeSlot j := by
  simp only [State.rangeSlot, h]

/-! ## Packets in flight -/

/-- A packet that leaves flight touches only the network and the link whose credits it frees. -/
theorem State.takeFlight_eq (s : State) (p : Packet) :
    ∃ n l, s.takeFlight p = { s with net := n, lnk := l } := by
  unfold State.takeFlight
  split
  · exact ⟨s.net, s.lnk, rfl⟩
  · unfold State.freeFlight
    split
    · exact ⟨_, s.lnk, rfl⟩
    · exact ⟨_, _, rfl⟩

@[simp] theorem State.takeFlight_pending (s : State) (p : Packet) : (s.takeFlight p).pending = s.pending := by
  obtain ⟨_, _, h⟩ := s.takeFlight_eq p
  rw [h]

@[simp] theorem State.takeFlight_mem (s : State) (p : Packet) : (s.takeFlight p).mem = s.mem := by
  obtain ⟨_, _, h⟩ := s.takeFlight_eq p
  rw [h]

@[simp] theorem State.takeFlight_cores (s : State) (p : Packet) : (s.takeFlight p).cores = s.cores := by
  obtain ⟨_, _, h⟩ := s.takeFlight_eq p
  rw [h]

@[simp] theorem State.takeFlight_clusters (s : State) (p : Packet) : (s.takeFlight p).clusters = s.clusters := by
  obtain ⟨_, _, h⟩ := s.takeFlight_eq p
  rw [h]

@[simp] theorem State.takeFlight_ft (s : State) (p : Packet) : (s.takeFlight p).ft = s.ft := by
  obtain ⟨_, _, h⟩ := s.takeFlight_eq p
  rw [h]

@[simp] theorem State.takeFlight_mortar (s : State) (p : Packet) : (s.takeFlight p).mortar = s.mortar := by
  obtain ⟨_, _, h⟩ := s.takeFlight_eq p
  rw [h]

@[simp] theorem State.takeFlight_chain (s : State) (p : Packet) : (s.takeFlight p).chain = s.chain := by
  obtain ⟨_, _, h⟩ := s.takeFlight_eq p
  rw [h]

@[simp] theorem State.takeFlight_msn (s : State) (p : Packet) : (s.takeFlight p).msn = s.msn := by
  obtain ⟨_, _, h⟩ := s.takeFlight_eq p
  rw [h]

@[simp] theorem State.takeFlight_ports (s : State) (p : Packet) : (s.takeFlight p).ports = s.ports := by
  obtain ⟨_, _, h⟩ := s.takeFlight_eq p
  rw [h]

@[simp] theorem State.takeFlight_job (s : State) (p : Packet) : (s.takeFlight p).job = s.job := by
  obtain ⟨_, _, h⟩ := s.takeFlight_eq p
  rw [h]

@[simp] theorem State.takeFlight_plb (s : State) (p : Packet) : (s.takeFlight p).plb = s.plb := by
  obtain ⟨_, _, h⟩ := s.takeFlight_eq p
  rw [h]

@[simp] theorem State.takeFlight_pwr (s : State) (p : Packet) : (s.takeFlight p).pwr = s.pwr := by
  obtain ⟨_, _, h⟩ := s.takeFlight_eq p
  rw [h]

@[simp] theorem State.takeFlight_start (s : State) (p : Packet) : (s.takeFlight p).start = s.start := by
  obtain ⟨_, _, h⟩ := s.takeFlight_eq p
  rw [h]

@[simp] theorem State.takeFlight_free (s : State) (p : Packet) : (s.takeFlight p).free = s.free := by
  obtain ⟨_, _, h⟩ := s.takeFlight_eq p
  rw [h]

@[simp] theorem State.takeFlight_losses (s : State) (p : Packet) : (s.takeFlight p).losses = s.losses := by
  obtain ⟨_, _, h⟩ := s.takeFlight_eq p
  rw [h]

@[simp] theorem State.takeFlight_out (s : State) (p : Packet) : (s.takeFlight p).out = s.out := by
  obtain ⟨_, _, h⟩ := s.takeFlight_eq p
  rw [h]

/-! ## A core and its strands -/

theorem State.core_modStrand_same (s : State) (c t : Nat) (f : Strand → Strand) :
    (s.modStrand c t f).core c = { s.core c with strands := SMap.modify {} (s.core c).strands t f } :=
  State.core_modCore_same s c _

theorem State.core_modStrand_ne (s : State) {c d : Nat} (t : Nat) (f : Strand → Strand) (h : d ≠ c) :
    (s.modStrand c t f).core d = s.core d := State.core_modCore_ne s _ h

@[simp] theorem State.strand_modStrand_same (s : State) (c t : Nat) (f : Strand → Strand) :
    (s.modStrand c t f).strand c t = f (s.strand c t) := by
  simp only [State.strand, State.core_modStrand_same, SMap.get_modify_same]

theorem State.strand_modStrand_ne (s : State) (c : Nat) {t x : Nat} (f : Strand → Strand) (h : x ≠ t) :
    (s.modStrand c t f).strand c x = s.strand c x := by
  simp only [State.strand, State.core_modStrand_same, SMap.get_modify_ne _ _ _ h]

theorem State.strand_modStrand_core_ne (s : State) {c d : Nat} (t x : Nat) (f : Strand → Strand) (h : d ≠ c) :
    (s.modStrand c t f).strand d x = s.strand d x := by
  simp only [State.strand, State.core_modStrand_ne s t f h]

@[simp] theorem State.strand_modRun (s : State) (c d x : Nat) (f : CoreRun → CoreRun) :
    (s.modRun c f).strand d x = s.strand d x := by
  unfold State.modRun State.strand
  by_cases h : d = c
  · subst h; rw [State.core_modCore_same]
  · rw [State.core_modCore_ne s _ h]

@[simp] theorem State.strand_modRegs (s : State) (c d x : Nat) (f : RegFile → RegFile) :
    (s.modRegs c f).strand d x = s.strand d x := by
  unfold State.modRegs State.strand
  by_cases h : d = c
  · subst h; rw [State.core_modCore_same]
  · rw [State.core_modCore_ne s _ h]

@[simp] theorem State.strand_modArr (s : State) (c d x : Nat) (f : ArrayUnit → ArrayUnit) :
    (s.modArr c f).strand d x = s.strand d x := by
  unfold State.modArr State.strand
  by_cases h : d = c
  · subst h; rw [State.core_modCore_same]
  · rw [State.core_modCore_ne s _ h]

@[simp] theorem State.strand_modEng (s : State) (c d x : Nat) (f : Engine → Engine) :
    (s.modEng c f).strand d x = s.strand d x := by
  unfold State.modEng State.strand
  by_cases h : d = c
  · subst h; rw [State.core_modCore_same]
  · rw [State.core_modCore_ne s _ h]

@[simp] theorem State.core_modRun_same (s : State) (c : Nat) (f : CoreRun → CoreRun) :
    (s.modRun c f).core c = { s.core c with run := f (s.core c).run } := State.core_modCore_same s c _
theorem State.core_modRun_ne (s : State) {c d : Nat} (f : CoreRun → CoreRun) (h : d ≠ c) :
    (s.modRun c f).core d = s.core d := State.core_modCore_ne s _ h
@[simp] theorem State.core_modRegs_same (s : State) (c : Nat) (f : RegFile → RegFile) :
    (s.modRegs c f).core c = { s.core c with regs := f (s.core c).regs } := State.core_modCore_same s c _
theorem State.core_modRegs_ne (s : State) {c d : Nat} (f : RegFile → RegFile) (h : d ≠ c) :
    (s.modRegs c f).core d = s.core d := State.core_modCore_ne s _ h
@[simp] theorem State.core_modArr_same (s : State) (c : Nat) (f : ArrayUnit → ArrayUnit) :
    (s.modArr c f).core c = { s.core c with arr := f (s.core c).arr } := State.core_modCore_same s c _
theorem State.core_modArr_ne (s : State) {c d : Nat} (f : ArrayUnit → ArrayUnit) (h : d ≠ c) :
    (s.modArr c f).core d = s.core d := State.core_modCore_ne s _ h
@[simp] theorem State.core_modEng_same (s : State) (c : Nat) (f : Engine → Engine) :
    (s.modEng c f).core c = { s.core c with eng := f (s.core c).eng } := State.core_modCore_same s c _
theorem State.core_modEng_ne (s : State) {c d : Nat} (f : Engine → Engine) (h : d ≠ c) :
    (s.modEng c f).core d = s.core d := State.core_modCore_ne s _ h

theorem State.strand_congr {s u : State} (h : u.cores = s.cores) (c t : Nat) : u.strand c t = s.strand c t := by
  simp only [State.strand, State.core, h]

/-! ## Scalar registers (R67) -/

@[simp] theorem State.sreg_zero (s : State) (c t : Nat) : s.sreg c t 0 = 0 := rfl

theorem State.sreg_strand {s u : State} {c t : Nat} (h : (u.strand c t).regs = (s.strand c t).regs) (r : BitVec 5) :
    u.sreg c t r = s.sreg c t r := by simp only [State.sreg, h]

/-- A register read after a register was written: S0 reads as zero. -/
theorem State.sreg_setSreg (s : State) (c t : Nat) (d r : BitVec 5) (v : Word) :
    (s.setSreg c t d v).sreg c t r = if r = 0 then 0 else if r = d then v else s.sreg c t r := by
  unfold State.setSreg State.sreg
  by_cases hr : r = 0
  · rw [if_pos hr, if_pos hr]
  · rw [if_neg hr, if_neg hr]
    by_cases hd : d = 0
    · rw [if_pos hd, if_neg (fun e => hr (e.trans hd)), if_neg hr]
    · rw [if_neg hd, State.strand_modStrand_same]
      by_cases h : r = d
      · rw [if_pos h, h, SMap.get_put_same]
      · rw [if_neg h, SMap.get_put_ne _ _ _ _ (fun e => h (BitVec.eq_of_toNat_eq e)), if_neg hr]

/-- A write of a scalar register changes only the registers of its strand. -/
theorem State.strand_setSreg (s : State) (c t : Nat) (d : BitVec 5) (v : Word) :
    (s.setSreg c t d v).strand c t = { s.strand c t with regs := ((s.setSreg c t d v).strand c t).regs } := by
  unfold State.setSreg
  split <;> simp

theorem State.setSreg_eq_modStrand (s : State) (c t : Nat) (d : BitVec 5) (v : Word) :
    s.setSreg c t d v = s ∨ ∃ f : SMap Word → SMap Word, s.setSreg c t d v = s.modStrand c t
    (fun x => { x with regs := f x.regs }) := by
  unfold State.setSreg
  split
  · exact .inl rfl
  · exact .inr ⟨fun r => SMap.put 0 r d.toNat v, rfl⟩

/-! ## Issue -/

/-- An instruction that issues takes its effect. -/
theorem State.issue_eq (s : State) {c t : Nat} {ready : Bool} (effect : State → State) (h : s.canIssue c t = true)
    (hp : s.pastEnd c t = false) (hr : ready = true) : s.issue c t ready effect = effect s := by
  simp [State.issue, h, hp, hr]

/-- A strand that cannot issue does nothing. -/
theorem State.issue_idle (s : State) {c t : Nat} (ready : Bool) (effect : State → State)
    (h : s.canIssue c t = false) :
    s.issue c t ready effect = s := by
  simp [State.issue, h]

end Sys2Proof.Machine
end

