-- ==== Sys2Proof/Laws/Ops.lean ====
section
/-! SUPPORT. What the shared operations of core instructions do, said once in the terms of Safety.lean. -/

namespace Sys2Proof.Machine

theorem State.issues_iff (s : State) (c t : Nat) :
    s.issues c t = true ↔ s.canIssue c t = true ∧ s.pastEnd c t = false := by
  simp [State.issues]

/-- An instruction of a strand that issues takes its effect. -/
theorem State.issue_of_issues {s : State} {c t : Nat} {ready : Bool} (effect : State → State)
    (h : s.issues c t = true) (hr : ready = true) : s.issue c t ready effect = effect s := by
  rw [State.issues_iff] at h
  exact State.issue_eq s effect h.1 h.2 hr

@[simp] theorem Core.counted_false (k : Core) : k.counted false = k := rfl

@[simp] theorem Core.counted_strands (k : Core) (mis : Bool) : (k.counted mis).strands = k.strands := by
  unfold Core.counted; split <;> rfl

theorem State.coresFrame.refl (s : State) (c t : Nat) : s.coresFrame s c t false id :=
  ⟨fun _ _ => rfl, fun _ _ => rfl, rfl⟩

/-- Frames of one strand compose. -/
theorem State.coresFrame.trans {s u v : State} {c t : Nat} {mis : Bool} (h : s.coresFrame u c t false id)
    (g : u.coresFrame v c t mis id) : s.coresFrame v c t mis id := by
  refine ⟨fun d hd => (g.1 d hd).trans (h.1 d hd), fun x hx => (g.2.1 x hx).trans (h.2.1 x hx), ?_⟩
  have h3 := h.2.2
  have g3 := g.2.2
  rw [Core.counted_false] at h3
  rw [← h3]
  generalize u.core c = k at *
  generalize v.core c = m at *
  cases m
  cases k
  cases mis <;> simp_all [Core.counted]

theorem State.coresFrame_modStrand (s : State) (c t : Nat) (f : Strand → Strand) :
    s.coresFrame (s.modStrand c t f) c t false id :=
  ⟨fun _ hd => State.core_modStrand_ne s t f hd, fun _ hx => State.strand_modStrand_ne s c f hx,
    by rw [State.core_modStrand_same]; rfl⟩

theorem State.misfitIf_true (s : State) (c : Nat) :
    s.misfitIf c true =
      s.modRun c (fun r => { r with misfit := satAdd r.misfit 1, misfitCourse := satAdd r.misfitCourse 1 }) := rfl

@[simp] theorem State.misfitIf_false (s : State) (c : Nat) : s.misfitIf c false = s := rfl

theorem State.coresFrame_misfitIf (s : State) (c t : Nat) (mis : Bool) : s.coresFrame (s.misfitIf c mis) c t mis id := by
  cases mis
  · exact State.coresFrame.refl s c t
  · rw [State.misfitIf_true]
    exact ⟨fun d hd => State.core_modRun_ne s _ hd, fun x _ => State.strand_modRun s c c x _,
      by rw [State.core_modRun_same]; rfl⟩

theorem State.coresFrame_setSreg (s : State) (c t : Nat) (d : BitVec 5) (v : Word) :
    s.coresFrame (s.setSreg c t d v) c t false id := by
  unfold State.setSreg
  split
  · exact State.coresFrame.refl s c t
  · exact State.coresFrame_modStrand s c t _

/-- Cores that are equal give the frame. -/
theorem State.coresFrame_of_cores {s u : State} (c t : Nat) (h : u.cores = s.cores) : s.coresFrame u c t false id :=
  ⟨fun d _ => State.core_congr h d, fun x _ => State.strand_congr h c x, by rw [State.core_congr h]; rfl⟩

theorem State.coresFrame.congr {s u v : State} {c t : Nat} {mis : Bool} (g : s.coresFrame u c t mis id)
    (h : v.cores = u.cores) : s.coresFrame v c t mis id := by
  unfold State.coresFrame State.strand State.core at *
  rw [h]; exact g

theorem State.sameButCores.refl (s : State) : s.sameButCores s := rfl

theorem State.sameButCores.trans {s u v : State} (h : s.sameButCores u) (g : u.sameButCores v) : s.sameButCores v := by
  unfold State.sameButCores at *
  rw [← h, ← g]

theorem State.sameButCores_modCore (s : State) (c : Nat) (f : Core → Core) : s.sameButCores (s.modCore c f) := rfl
theorem State.sameButCores_modStrand (s : State) (c t : Nat) (f : Strand → Strand) :
    s.sameButCores (s.modStrand c t f) := rfl

theorem State.sameButCores_setSreg (s : State) (c t : Nat) (d : BitVec 5) (v : Word) :
    s.sameButCores (s.setSreg c t d v) := by
  unfold State.setSreg
  split <;> rfl

theorem State.sameButCores_misfitIf (s : State) (c : Nat) (b : Bool) : s.sameButCores (s.misfitIf c b) := by
  cases b <;> rfl

@[simp] theorem State.strand_misfitIf (s : State) (c d x : Nat) (b : Bool) :
    (s.misfitIf c b).strand d x = s.strand d x := by
  cases b
  · rfl
  · rw [State.misfitIf_true, State.strand_modRun]

theorem State.retire_eq (s : State) (c t : Nat) (n : Word) (mis : Bool) :
    s.retire c t n mis = (s.modStrand c t (fun x => { x with ip := x.ip + n })).misfitIf c mis := rfl

/-- Retiring an instruction moves the pointer and counts a misfit, and nothing else. -/
theorem State.retire_done (s : State) (c t : Nat) (n : Word) (mis : Bool) :
    (s.retire c t n mis).strand c t = { s.strand c t with ip := (s.strand c t).ip + n } ∧
    s.coresFrame (s.retire c t n mis) c t mis id ∧ s.sameButCores (s.retire c t n mis) := by
  rw [State.retire_eq]
  exact ⟨by simp, (State.coresFrame_modStrand s c t _).trans (State.coresFrame_misfitIf _ c t mis),
    (State.sameButCores_modStrand s c t _).trans (State.sameButCores_misfitIf _ c mis)⟩

/-- A frame of one strand stays one when the instruction retires, where `back` leaves strands and run state alone. -/
theorem State.coresFrame.retire {s u : State} {c t : Nat} {back : Core → Core} (h : s.coresFrame u c t false back)
    (hb : ∀ k x r, back { k with strands := x, run := r } = { back k with strands := x, run := r }) (n : Word)
    (mis : Bool) : s.coresFrame (u.retire c t n mis) c t mis back := by
  obtain ⟨-, g⟩ := State.retire_done u c t n mis
  have g := g.1
  refine ⟨fun d hd => (g.1 d hd).trans (h.1 d hd), fun x hx => (g.2.1 x hx).trans (h.2.1 x hx), ?_⟩
  have h3 := h.2.2
  have g3 := g.2.2
  simp only [Core.counted_false, id_eq] at h3 g3
  generalize (u.retire c t n mis).core c = m at *
  have e : m = { u.core c with strands := m.strands, run := ((u.core c).counted mis).run } := by
    have := congrArg (fun k : Core => { k with strands := m.strands }) g3
    cases m
    cases mis <;> simpa [Core.counted] using this
  have r : ((u.core c).counted mis).run = ((s.core c).counted mis).run := by
    have h4 := hb (u.core c) (u.core c).strands (u.core c).run
    have h5 : (back (u.core c)).run = (u.core c).run := by rw [h4]
    have h6 : (u.core c).run = (s.core c).run := by rw [← h5, ← h3]
    cases mis <;> simp [Core.counted, h6]
  rw [e, hb, r]
  have h7 := congrArg (fun k : Core => { k with run := ((s.core c).counted mis).run }) h3
  generalize s.core c = k at *
  cases k
  cases mis <;> simpa [Core.counted] using h7

/-- A write of a register and a move of the pointer: the whole effect of a scalar instruction. -/
theorem State.scalarDone_of (s : State) (c t : Nat) (sd : BitVec 5) (v : Word) (g : Word → Word) (mis : Bool) :
    s.scalarDone (((s.setSreg c t sd v).modStrand c t (fun x => { x with ip := g x.ip })).misfitIf c mis) c t sd v
      (g (s.strand c t).ip) mis := by
  refine ⟨fun r => ?_, ?_, ?_, ?_⟩
  · rw [← State.sreg_setSreg]
    exact State.sreg_strand (by simp) r
  · unfold State.retired
    rw [State.strand_misfitIf, State.strand_modStrand_same, State.strand_setSreg]
  · exact ((State.coresFrame_setSreg s c t sd v).trans (State.coresFrame_modStrand _ c t _)).trans
      (State.coresFrame_misfitIf _ c t mis)
  · exact ((State.sameButCores_setSreg s c t sd v).trans (State.sameButCores_modStrand _ c t _)).trans
      (State.sameButCores_misfitIf _ c mis)

/-- A scalar instruction that issues (R81). -/
theorem State.scalar_done {s : State} {c : CoreId} {t : StrandId} (w : SWord) (f : Word → Word → Word)
    (h : s.issues c t = true) :
    s.scalarDone (s.scalar c t w f) c t w.sd (f (s.sreg c t w.sa) (s.operandB c t w)) ((s.strand c t).ip + 8)
      (w.rsv != 0) := by
  unfold State.scalar
  rw [State.issue_of_issues _ h rfl]
  exact State.scalarDone_of s c t w.sd _ (· + 8) _

end Sys2Proof.Machine
end

