-- ==== Sys2Proof/Laws/Regs.lean ====
section
/-! SUPPORT. Laws of the vector register file: what a register, a lane and a mark read as after a write, and the effect of
vector instructions in the terms of Safety.lean. -/

namespace Sys2Proof.Machine

/-- A byte of storage after bytes were put at listed places that do not repeat. -/
theorem get_foldl_put (d : Byte) (l : List (Nat × Byte)) (m : SMap Byte) (base j : Nat) (hl : (l.map Prod.fst).Nodup) :
    SMap.get d (l.foldl (fun m p => SMap.put d m (base + p.1) p.2) m) j =
      (if base ≤ j then ((l.find? (fun p => p.1 = j - base)).map Prod.snd).getD (SMap.get d m j) else SMap.get d m j) := by
  induction l generalizing m with
  | nil => simp
  | cons p l ih =>
    rw [List.map_cons, List.nodup_cons] at hl
    rw [List.foldl_cons, ih _ hl.2, List.find?_cons]
    by_cases hb : base ≤ j
    · rw [if_pos hb, if_pos hb]
      by_cases hp : p.1 = j - base
      · have hn : l.find? (fun q => q.1 = j - base) = none := by
          rw [List.find?_eq_none]
          intro q hq hj
          exact hl.1 (List.mem_map.2 ⟨q, hq, by rw [hp]; simpa using hj⟩)
        rw [hn, show base + p.1 = j by omega]
        simp [hp]
      · rw [SMap.get_put_ne _ _ _ _ (by omega)]
        simp [hp]
    · rw [if_neg hb, if_neg hb, SMap.get_put_ne _ _ _ _ (by omega)]

theorem find_zip_range (bs : List Byte) (i : Nat) :
    (((List.range bs.length).zip bs).find? (fun p => p.1 = i)).map Prod.snd = bs[i]? := by
  have key : ∀ (bs : List Byte) (k : Nat), (((List.range' k bs.length).zip bs).find? (fun p => p.1 = k + i)).map
      Prod.snd = bs[i]? := by
    induction i with
    | zero =>
      intro bs k
      cases bs with
      | nil => rfl
      | cons b bs => simp [List.range'_succ]
    | succ i ih =>
      intro bs k
      cases bs with
      | nil => rfl
      | cons b bs =>
        have := ih bs (k + 1)
        simp only [List.length_cons, List.range'_succ, List.zip_cons_cons, List.find?_cons]
        rw [show decide (k = k + (i + 1)) = false by simp]
        simpa [Nat.add_assoc, Nat.add_comm 1 i] using this
  have := key bs 0
  simpa [List.range_eq_range'] using this

/-- A byte of storage after consecutive bytes were stored. -/
theorem RegFile.get_storeBytes (r : RegFile) (base : Nat) (bs : List Byte) (j : Nat) :
    SMap.get 0 (r.storeBytes base bs).bytes j =
      if base ≤ j ∧ j < base + bs.length then bs.getD (j - base) 0 else SMap.get 0 r.bytes j := by
  unfold RegFile.storeBytes
  rw [get_foldl_put 0 _ _ _ _ (by
    rw [List.map_fst_zip (by simp)]; exact List.nodup_range), find_zip_range]
  by_cases hb : base ≤ j
  · rw [if_pos hb]
    by_cases hj : j < base + bs.length
    · rw [if_pos ⟨hb, hj⟩, List.getElem?_eq_getElem (by omega), List.getD_eq_getElem _ _ (by omega)]
      rfl
    · rw [if_neg (by omega), List.getElem?_eq_none (by omega)]
      rfl
  · rw [if_neg hb, if_neg (by omega)]

@[simp] theorem RegFile.storeBytes_marks (r : RegFile) (base : Nat) (bs : List Byte) :
    (r.storeBytes base bs).marks = r.marks := rfl
@[simp] theorem RegFile.storeBytes_wcnt (r : RegFile) (base : Nat) (bs : List Byte) :
    (r.storeBytes base bs).wcnt = r.wcnt := rfl
@[simp] theorem RegFile.touch_bytes (r : RegFile) (m : Mark) (k : Nat) : (r.touch m k).bytes = r.bytes := rfl

@[simp] theorem RegFile.openTile_marks (r : RegFile) (k : Nat) : (r.openTile k).marks = r.marks := by
  unfold RegFile.openTile; split <;> rfl
@[simp] theorem RegFile.openTile_wcnt (r : RegFile) (k : Nat) : (r.openTile k).wcnt = r.wcnt := by
  unfold RegFile.openTile; split <;> rfl

/-- The mark of a tile after a tile was touched. -/
theorem RegFile.mark_touch (r : RegFile) (m : Mark) (t k : Nat) :
    (r.touch m t).mark k = if k = t then m else r.mark k := by
  unfold RegFile.mark RegFile.touch
  by_cases h : k = t
  · subst h; simp
  · rw [if_neg h]; exact SMap.get_put_ne _ _ _ _ h

/-- The write count of a tile after a tile was touched. -/
theorem RegFile.wcnt_touch (r : RegFile) (m : Mark) (t k : Nat) :
    SMap.get 0 (r.touch m t).wcnt k = if k = t then SMap.get 0 r.wcnt k + 1 else SMap.get 0 r.wcnt k := by
  unfold RegFile.touch
  by_cases h : k = t
  · subst h; rw [if_pos rfl]; exact SMap.get_put_same _ _ _ _
  · rw [if_neg h]; exact SMap.get_put_ne _ _ _ _ h

theorem SMap.get_clear {α : Type} (d : α) (m : SMap α) (lo hi j : Nat) :
    SMap.get d (SMap.clear m lo hi) j = if lo ≤ j ∧ j < hi then d else SMap.get d m j := by
  unfold SMap.clear SMap.get
  induction m with
  | nil => simp
  | cons p m ih =>
    obtain ⟨i, v⟩ := p
    rw [List.filter_cons]
    by_cases h : (decide (i < lo) || decide (hi ≤ i)) = true
    · rw [if_pos h]
      simp only [SMap.find?]
      by_cases hi' : i = j
      · subst hi'
        simp only [Bool.or_eq_true, decide_eq_true_eq] at h
        rw [if_pos rfl, if_neg (by omega), if_pos rfl]
      · rw [if_neg hi', if_neg hi', ih]
    · rw [if_neg h, ih]
      simp only [SMap.find?]
      by_cases hi' : i = j
      · subst hi'
        simp only [Bool.or_eq_true, decide_eq_true_eq] at h
        rw [if_pos (by omega), if_pos (by omega)]
      · rw [if_neg hi']

/-- A byte of a register is the storage's, where its tile is not empty. -/
theorem RegFile.byte_eq (r : RegFile) (n b : Nat) :
    r.byte n b = if (r.mark (n / 8)).rows = 0 then 0 else SMap.get 0 r.bytes (512 * n + b) := rfl

/-- An opened tile's storage holds what its registers read as. -/
theorem RegFile.get_openTile (r : RegFile) (t n b : Nat) (hb : b < 512) :
    SMap.get 0 (r.openTile t).bytes (512 * n + b) =
      if n / 8 = t then r.byte n b else SMap.get 0 r.bytes (512 * n + b) := by
  unfold RegFile.openTile
  rw [RegFile.byte_eq]
  by_cases h : n / 8 = t
  · subst h
    rw [if_pos rfl]
    unfold RegFile.mark
    split
    · rw [SMap.get_clear, if_pos (by omega)]
    · rfl
  · rw [if_neg h]
    split
    · rw [SMap.get_clear, if_neg (by omega)]
    · rfl

/-- A byte of any register after bytes of one register were written. -/
theorem RegFile.byte_vecWrite (r : RegFile) {n lo : Nat} {bs : List Byte} (hlo : lo + bs.length ≤ 512) (m b : Nat)
    (hb : b < 512) : (r.vecWrite n lo bs).byte m b =
      if m = n ∧ lo ≤ b ∧ b < lo + bs.length then bs.getD (b - lo) 0 else r.byte m b := by
  unfold RegFile.vecWrite
  rw [RegFile.byte_eq, RegFile.mark_touch, RegFile.touch_bytes, RegFile.get_storeBytes, RegFile.get_openTile _ _ _ _ hb]
  by_cases hm : m / 8 = n / 8
  · rw [if_pos hm, if_neg (by decide), if_pos hm]
    by_cases h : m = n ∧ lo ≤ b ∧ b < lo + bs.length
    · rw [if_pos h, if_pos (by omega)]
      congr 1; omega
    · rw [if_neg h, if_neg (by omega)]
  · have hn : m ≠ n := fun e => hm (by rw [e])
    rw [if_neg hm, if_neg hm, if_neg (c := 512 * n + lo ≤ _ ∧ _) (by omega), if_neg (c := m = n ∧ _) (by simp [hn])]
    rw [RegFile.mark, RegFile.storeBytes_marks, RegFile.openTile_marks]
    rfl

/-- The frame of a write of one register. -/
theorem RegFile.wrote_vecWrite (r : RegFile) {n lo : Nat} {bs : List Byte} (hlo : lo + bs.length ≤ 512)
    {inside : Nat → Nat → Prop} (hi : ∀ b, lo ≤ b → b < lo + bs.length → inside n b) :
    r.wrote (r.vecWrite n lo bs) [n / 8] inside := by
  refine ⟨fun m b hb h => ?_, fun k => ?_, fun k => ?_⟩
  · rw [RegFile.byte_vecWrite r hlo m b hb, if_neg]
    rintro ⟨rfl, h1, h2⟩
    exact h (hi b h1 h2)
  · rw [RegFile.vecWrite, RegFile.mark_touch]; simp [RegFile.mark]
  · rw [RegFile.vecWrite, RegFile.wcnt_touch]; simp

/-- A vector instruction that writes the register file and retires: the frame of the rest. -/
theorem State.vectorDone_of {s : State} {c t : Nat} (f : RegFile → RegFile) (mis : Bool) {tiles : List Nat}
    {inside : Nat → Nat → Prop} (h : (s.core c).regs.wrote (f (s.core c).regs) tiles inside) :
    s.vectorDone ((s.modRegs c f).retire c t 8 mis) c t mis tiles inside := by
  have h0 : s.coresFrame (s.modRegs c f) c t false (s.regsBack c) :=
    ⟨fun d hd => State.core_modRegs_ne s f hd, fun x _ => State.strand_modRegs s c c x f, by
      rw [State.core_modRegs_same]; rfl⟩
  obtain ⟨h1, h2, h3⟩ := State.retire_done (s.modRegs c f) c t 8 mis
  refine ⟨?_, ?_, h0.retire (fun _ _ _ => rfl) 8 mis, ?_⟩
  · have : (((s.modRegs c f).retire c t 8 mis).core c).regs = f (s.core c).regs := by
      have h4 := congrArg Core.regs h2.2.2
      simp only [id_eq] at h4
      rw [h4]
      cases mis <;> simp [Core.counted]
    rw [this]; exact h
  · unfold State.movedOn
    rw [h1, State.strand_modRegs]
  · exact (State.sameButCores_modCore s c _).trans h3

/-- The register file after such an instruction. -/
theorem State.regs_retire (s : State) (c t : Nat) (f : RegFile → RegFile) (n : Word) (mis : Bool) :
    (((s.modRegs c f).retire c t n mis).core c).regs = f (s.core c).regs := by
  have h4 := congrArg Core.regs (State.retire_done (s.modRegs c f) c t n mis).2.1.2.2
  simp only [id_eq] at h4
  rw [h4]
  cases mis <;> simp [Core.counted]

/-! ## Lanes -/

theorem leNat_leBytes (n k : Nat) : leNat (leBytes n k) = k % 2 ^ (8 * n) := by
  induction n generalizing k with
  | zero => simp [leBytes, leNat, Nat.mod_one]
  | succ n ih =>
    have h : leBytes (n + 1) k = BitVec.ofNat 8 k :: leBytes n (k / 256) := by
      simp [leBytes]
    rw [h]
    have e : leNat (BitVec.ofNat 8 k :: leBytes n (k / 256)) = k % 256 + 256 * leNat (leBytes n (k / 256)) := by
      simp [leNat]
    rw [e, ih, show 2 ^ (8 * (n + 1)) = 256 * 2 ^ (8 * n) by ring, Nat.mod_mul]

theorem length_leBytes (n k : Nat) : (leBytes n k).length = n := by
  induction n generalizing k with
  | zero => rfl
  | succ n ih => simp [leBytes, ih]

theorem length_laneBytes (ls : List W32) : (laneBytes ls).length = 4 * ls.length := by
  induction ls with
  | nil => rfl
  | cons x ls ih =>
    rw [show laneBytes (x :: ls) = leBytes 4 x.toNat ++ laneBytes ls from rfl, List.length_append, length_leBytes, ih,
      List.length_cons]
    omega

/-- Byte `j` of lane `i` in the bytes of lanes. -/
theorem getD_laneBytes (ls : List W32) (i j : Nat) (hj : j < 4) (hi : i < ls.length) :
    (laneBytes ls).getD (4 * i + j) 0 = (leBytes 4 (ls.getD i 0).toNat).getD j 0 := by
  induction ls generalizing i with
  | nil => simp at hi
  | cons x ls ih =>
    rw [show laneBytes (x :: ls) = leBytes 4 x.toNat ++ laneBytes ls from rfl]
    cases i with
    | zero => rw [List.getD_append _ _ _ _ (by rw [length_leBytes]; omega)]; simp
    | succ i =>
      rw [List.getD_append_right _ _ _ _ (by rw [length_leBytes]; omega), length_leBytes,
        show 4 * (i + 1) + j - 4 = 4 * i + j by omega, ih i (by simpa using hi)]
      simp

theorem map_getD_range (l : List Byte) (n : Nat) (h : l.length = n) : (List.range n).map (fun j => l.getD j 0) = l := by
  subst h
  apply List.ext_getElem
  · simp
  · intro i h1 h2
    simp [List.getElem?_eq_getElem h2]

/-- The lanes of a register that was written whole. -/
theorem RegFile.lane_vecWrite (r : RegFile) (n : Nat) (ls : List W32) (hl : ls.length = 128) (i : Nat) (hi : i < 128) :
    (r.vecWrite n 0 (laneBytes ls)).lane n i = ls.getD i 0 := by
  unfold RegFile.lane
  have h : (List.range 4).map (fun j => (r.vecWrite n 0 (laneBytes ls)).byte n (4 * i + j)) =
      leBytes 4 (ls.getD i 0).toNat := by
    rw [← map_getD_range (leBytes 4 (ls.getD i 0).toNat) 4 (length_leBytes _ _)]
    apply List.map_congr_left
    intro j hj
    rw [List.mem_range] at hj
    rw [RegFile.byte_vecWrite r (by rw [length_laneBytes, hl]) n (4 * i + j) (by omega),
      if_pos ⟨rfl, Nat.zero_le _, by rw [length_laneBytes, hl]; omega⟩, Nat.sub_zero,
      getD_laneBytes ls i j hj (by omega)]
  rw [h, leNat_leBytes]
  generalize ls.getD i 0 = x
  apply BitVec.eq_of_toNat_eq
  simpa using x.isLt

/-- A vector instruction that writes every lane of a register and retires. -/
theorem State.lanesDone_of {s : State} {c t vd : Nat} {ls : List W32} {f : Nat → W32} (hl : ls.length = 128)
    (hf : ∀ i, i < 128 → ls.getD i 0 = f i) : s.lanesDone ((s.setLanes c vd ls).retire c t 8 false) c t vd f := by
  refine ⟨fun i hi => ?_, ?_⟩
  · unfold State.setLanes
    rw [State.regs_retire, RegFile.lane_vecWrite _ _ _ hl i hi, hf i hi]
  · exact State.vectorDone_of _ false (RegFile.wrote_vecWrite _ (by rw [length_laneBytes, hl])
      (fun _ _ _ => rfl))

/-- A vector instruction that issues with every register written and a valid format. -/
theorem State.vector_of_issues {s : State} {c : CoreId} {t : StrandId} {regs : List Nat} {mis : Bool}
    (effect : State → State) (h : s.issues c t = true) (hr : s.vready c t regs = true) :
    s.vector c t regs true mis effect = (effect s).retire c t 8 mis := by
  unfold State.vector
  rw [State.issue_of_issues _ h hr]
  rfl

end Sys2Proof.Machine
end

