-- ==== Sys2Proof/WellFormed.lean ====
section
/-! DEFINITION. Well-formed commands: the relations between the fields of a command that its type does not say. The
environment that sends commands keeps them; a command's meaning does not lean on them. -/

namespace Sys2Proof

/-- A packet's payload is as long as its header says, at most 256 bytes, and only kinds that carry data have one (R207,
R209, R210). -/
def Packet.wf (p : Packet) : Bool :=
  decide (p.len.toNat ≤ 256) &&
  (if p.op = 0 ∨ p.op = 1 ∨ p.op = 3 then decide (p.payload.length = p.len.toNat) else p.payload.isEmpty)

/-- A command comes from one of the eight work lists of one of the two ports (R396). -/
def Cmd.wf (k : Cmd) : Bool := decide (k.port < 2) && decide (k.list < 8)

/-- A reply goes to a strand of a core (R224). -/
def KReply.wf (r : KReply) : Bool := decide (r.core < 576) && decide (r.strand < 4)

/-- The parts that a start-up step found bad are parts of the module (R430). -/
def StepResult.wf (r : StepResult) : Bool :=
  r.badCores.all (fun p => decide (p.1 < 8) && decide (p.2 < 72)) && r.badPch.all (fun p => decide (p < 512)) &&
  r.badChan.all (fun c => decide (c < 16))

/-- An opcode that the table of R79 reserves. -/
def reservedOp (op : Nat) : Bool :=
  let lies (lo n : Nat) : Bool := decide (lo ≤ op) && decide (op < lo + n)
  lies 0x1C 4 || lies 0x27 1 || lies 0x2B 5 || lies 0x38 8 || lies 0x43 13 || lies 0x54 12 || lies 0x66 10 ||
  lies 0x74 0x8C

/-- A unit of a crash dump: a type with an index among those of the type (R382). -/
def dumpUnit (ty idx : Nat) : Bool :=
  match ty with
  | 1 => decide (idx < 608) | 2 => decide (idx < 72) | 3 => decide (idx < 8) | 4 => decide (idx < 2)
  | 5 => decide (idx < 2) | 6 => decide (idx < 4) | 7 => decide (idx < 1)
  | _ => false

/-- A command is well formed. -/
def Instr.wf : Instr → Bool
  | .reservedOpcode _ _ op _ => reservedOp op.toNat
  | .putPacket p | .accPacket p | .getReq p | .getResp p | .taddPacket p | .ackPacket p | .waitReg p | .wake p
  | .kArrive p | .kWait p | .kRelease p | .kChain p => p.wf
  | .run k | .update k | .liftClose k | .pin k | .unpin k | .rewindStop k | .rewindResume k
  | .drain k | .restoreStage k | .restoreCommit k | .restorePartner k | .mirrorOut k | .mirrorReturn k
  | .retirePch k | .suspectReplay k | .dump k | .shedAck k | .reEnumerate k => k.wf
  | .mcHoldTimeout _ _ branch => decide (branch < 4096)
  | .dataFlit _ flit | .idleFlit _ flit => decide (flit.length = 512)
  | .hstTaddWrite _ bytes | .hstWlWrite _ _ _ bytes | .hstNotifyWrite _ _ _ bytes | .hstApBaseWrite _ _ bytes
  | .ftRangeClearWrite _ _ bytes | .registerWrite _ _ bytes | .bar2Write _ _ bytes | .plbUpdBufWrite _ _ bytes =>
    decide (bytes ≠ [])
  | .readClear _ _ size | .bar2Read _ _ size => decide (0 < size)
  | .scanReadTimeout ty idx => dumpUnit ty idx
  | .startStepDone r | .karrReply r => r.wf
  | .pcieLinkUp _ speed width _ =>
    decide (1 ≤ speed.toNat ∧ speed.toNat ≤ 6) && [1, 2, 4, 8, 16].contains width.toNat
  | .powerLimitTick _ rails clu => decide (rails.length = 22) && decide (clu.length = 72)
  | .thermalTick temps => decide (temps.length = 128)
  | .nop _ _ _ | .add _ _ _ | .sub _ _ _ | .mul _ _ _ | .div _ _ _ | .divu _ _ _ | .andI _ _ _ | .orI _ _ _
  | .xorI _ _ _ | .shl _ _ _ | .shr _ _ _ | .sra _ _ _ | .slt _ _ _ | .sltu _ _ _ | .minI _ _ _ | .maxI _ _ _
  | .lui _ _ _ | .ld _ _ _ | .st _ _ _ | .beq _ _ _ | .bne _ _ _ | .blt _ _ _ | .bge _ _ _ | .bltu _ _ _
  | .jal _ _ _ | .jr _ _ _ | .srd _ _ _ | .cend _ _ _ | .vadd _ _ _ | .vsub _ _ _ | .vmul _ _ _ | .vfma _ _ _
  | .vmax _ _ _ | .vmin _ _ _ | .vabs _ _ _ | .vbcast _ _ _ | .vlane _ _ _ | .vmov _ _ _ | .vexp _ _ _
  | .vrcp _ _ _ | .vrsqrt _ _ _ | .vcvt _ _ _ | .rred _ _ _ | .rred2 _ _ _ | .vld _ _ _ | .vst _ _ _
  | .tload _ _ _ _ | .tloadComplete _ _ | .tstore _ _ _ _ | .tstoreComplete _ _ | .trel _ _ _ | .awld _ _ _ _
  | .aflip _ _ _ | .aflipTakesEffect _ _ | .amm _ _ _ _ | .ammStart _ _ | .ammRowWritten _ _ | .abrd _ _ _
  | .abrdStart _ | .cpy _ _ _ | .copyComplete _ _ | .putI _ _ _ | .putSI _ _ _ | .getI _ _ _ | .accI _ _ _
  | .accSI _ _ _ | .tadd _ _ _ | .twait _ _ _ | .karr _ _ _ | .kwait _ _ _ | .strandWake _ _
  | .latchParityError _ _ _ | .latchRetryDone _ _ | .fillerWindowExpiry _ _ | .fillerRampStep _ _ | .coreDone _
  | .strandsReleased _ | .readyUpdate | .edgeMarkSend | .edgeMarkReceive _ | .edgeApply | .edgeEchoMeasure _
  | .reductionBlockLoaded | .writeConfirm _ | .waitRegResend _ | .ksCascadeClose _ _ | .ksSlotBind _ | .pchServe _
  | .bulkPromote _ | .fragmentAdd _ | .linkForward _ | .routeWaitExpiry _ | .linkAckTimer _ | .replayTimeout _
  | .linkDown _ _ | .capMsg _ _ | .addressMsg _ _ | .retireLane _ _ | .widthMsg _ _ | .resetNotice _
  | .widthChangeDone _ | .laneWindowExpiry _ _ | .laneErrLimit _ _ | .laneLockLoss _ _ | .cableInsert _
  | .cableRemove _ | .linkTrainingDone _ _ | .linkRetrainTimer _ | .bondStandbyJoin _ | .cageOvercurrent _
  | .routeInstall | .enumFrame _ _ | .enumDone _ _ | .delayFrame _ _ | .delayDone _ _ | .delayPassTimer
  | .compFrame _ _ | .joinReq _ _ | .joinGrant _ _ | .joinedFrame _ _ | .leaveFrame _ _ | .absentFrame _ _
  | .topoFrame _ _ | .reenumFrame _ _ | .censusFrame _ _ | .hereFrame _ _ | .chainAck _ _ | .frameResend _
  | .refLock | .refLoss | .splice | .latchFaultLostClear _ _ _ | .commandFetch | .commandActionStart _
  | .stopQuiesced | .rwQuiesceExpiry | .resumeArrivalReached | .drainComplete | .restoreComplete _
  | .hostAccessTimeout _ | .mirrorChunkSend | .mirrorChunkTake | .suspectDone | .groupStart _ | .rulePassEnd _
  | .trustPassStart _ | .facePassStart _ | .liftCloseCommit | .liftDiscard | .slowCorrected _
  | .slowUncorrectedRead _ | .slowRetryResult _ _ | .slowCeLimit _ | .slowWindowExpiry _ | .slowRetrainDone _ _
  | .pchCorrected _ | .pchUncorrectedRead _ | .pchRereadDone _ _ | .pchCeLimit _ | .pchWindowExpiry _
  | .pchInterfaceCheck _ _ | .pchCaParityError _ | .pchRetrainDone _ _ | .sramCorrected _
  | .sramUncorrected _ _ _ | .resetReqCompute _ | .resetReqPackage _ | .resetReqModule _ | .computeResetDone
  | .computeResetTimeout | .packageResetNotSet | .resetRelease | .perstAssert _ | .perstRelease _
  | .pcieLinkDown _ | .dumpCapture | .dumpWritten | .inputApplied | .powerGood _ _ | .powerLoss
  | .railOutOfRegulation _ | .shedStepEnter _ | .shedStepLeave _ | .parkRotate | .overVoltage _
  | .undervoltageCutoff _ | .powerRestart _ | .thermalPowerOff | .clockPointChange | .lifetimeLogWrite
  | .failCauseExpiry | .updBegin _ _ | .updWrite _ _ | .updVerify _ _ | .updAbort _ _ | .updSessionTimeout
  | .getVersion _ _ | .getCapabilities _ _ | .negotiateAlgorithms _ _ | .getDigests _ _ | .getCertificate _ _
  | .challenge _ _ | .getMeasurements _ _ | .pldmRequest _ _ | .smbusAlertResponse | .rdyInChange _
  | .chainOutPresenceChange _ | .censusEnd | .trustPassEnd _ | .facePassEnd _ | .mirrorComplete
  | .slowRetrainStart _ | .overRangeEvent _ | .updRequestComplete _ => true

end Sys2Proof
end

