-- ==== Sys2Proof/Tests/Slice0.lean ====
section
/-! SUPPORT. Tests: ill-formed commands, single steps on small states, and for each statement with hypotheses states that
meet them. -/

namespace Sys2Proof.Tests
open Sys2Proof Sys2Proof.Machine
set_option Elab.async false

/-! ## Helpers -/

/-- A module with power, RUNNING with a course open, whose core 0 runs. -/
def up : State := {
  pwr := { input := true, good := true, off := false }
  job := { st := .running, isOpen := true }
  start := { phase := 8 }
  chain := { bypass := false }
  cores := [(0, { run := { state := .running } })] }

/-- The state after a command. -/
def after (i : Instr) (s : State) : State :=
  match exec i s with
  | .next u => u
  | _ => s

/-- Core 0 with scalar registers of strand 0. -/
def withRegs (s : State) (regs : SMap Word) : State :=
  s.modStrand 0 0 (fun x => { x with regs := regs })

/-! ## Ill-formed commands -/

theorem test_wf_reserved_opcode :
    (Instr.reservedOpcode 0 0 0x01 0).wf = false ∧ (Instr.reservedOpcode 0 0 0x1C 0).wf = true := by decide
theorem test_wf_packet_length :
    (Instr.putPacket { len := 2, payload := [1] }).wf = false ∧ (Instr.ackPacket { op := 5, payload := [1] }).wf = false ∧
    (Instr.putPacket { len := 1, payload := [1] }).wf = true := by decide
theorem test_wf_command_port : (Instr.pin { port := 2 }).wf = false ∧ (Instr.pin { list := 8 }).wf = false := by decide
theorem test_wf_branch : (Instr.mcHoldTimeout 0 0 4096).wf = false := by decide
theorem test_wf_flit : (Instr.dataFlit 0 [0]).wf = false := by decide
theorem test_wf_bytes : (Instr.bar2Write 0 0 []).wf = false := by decide
theorem test_wf_size : (Instr.bar2Read 0 0 0).wf = false := by decide
theorem test_wf_dump_unit : (Instr.scanReadTimeout 2 72).wf = false ∧ (Instr.scanReadTimeout 8 0).wf = false := by decide
theorem test_wf_start_step : (Instr.startStepDone { badPch := [512] }).wf = false := by decide
theorem test_wf_karr_reply : (Instr.karrReply { core := 576 }).wf = false := by decide
theorem test_wf_pcie : (Instr.pcieLinkUp 0 7 16 true).wf = false ∧ (Instr.pcieLinkUp 0 5 3 true).wf = false := by decide
theorem test_wf_rails : (Instr.powerLimitTick 0 [] []).wf = false := by decide
theorem test_wf_temps : (Instr.thermalTick []).wf = false := by decide

/-! ## Scalar and control instructions -/

theorem witness_ScalarResults : up.issues 0 0 = true := by decide
/-- Hand calculation from R81: 2^64 − 1 plus 1 is 0, and −8 shifted right by 1 with the sign is −4. -/
theorem test_add_wraps :
    (after (.add 0 0 { sd := 3, sa := 1, sb := 2 }) (withRegs up [(1, 0xFFFFFFFFFFFFFFFF), (2, 1)])).sreg 0 0 3 = 0 := by
  decide
theorem test_sra_fills_with_sign :
    (after (.sra 0 0 { sd := 1, sa := 1, i := true, imm := 65 }) (withRegs up [(1, 0xFFFFFFFFFFFFFFF8)])).sreg 0 0 1 =
      0xFFFFFFFFFFFFFFFC := by decide
/-- R81: a division by zero gives all ones. -/
theorem test_div_by_zero :
    (after (.div 0 0 { sd := 1, sa := 2 }) (withRegs up [(2, 5)])).sreg 0 0 1 = 0xFFFFFFFFFFFFFFFF := by decide
theorem test_divu_unsigned :
    (after (.divu 0 0 { sd := 1, sa := 2, sb := 3 }) (withRegs up [(2, 0xFFFFFFFFFFFFFFFE), (3, 2)])).sreg 0 0 1 =
      0x7FFFFFFFFFFFFFFF := by decide
theorem test_slt_signed :
    (after (.slt 0 0 { sd := 1, sa := 2, sb := 3 }) (withRegs up [(2, 0xFFFFFFFFFFFFFFFF), (3, 1)])).sreg 0 0 1 = 1 ∧
    (after (.sltu 0 0 { sd := 1, sa := 2, sb := 3 }) (withRegs up [(2, 0xFFFFFFFFFFFFFFFF), (3, 1)])).sreg 0 0 1 = 0 := by
  decide
/-- R67: a write to S0 is discarded; R110: a reserved bit counts a misfit. -/
theorem test_write_to_s0 :
    (after (.add 0 0 { sd := 0, i := true, imm := 7, rsv := 1 }) up).sreg 0 0 0 = 0 ∧
    ((after (.add 0 0 { sd := 0, i := true, imm := 7, rsv := 1 }) up).core 0).run.misfit = 1 := by decide

theorem witness_ControlInstructions :
    up.issues 0 0 = true ∧ (∀ n, n < 32 → (1 : BitVec 32).getLsbD n = true → up.tilePending 0 0 n = false) ∧
    isReservedOp (0xFF : BitVec 8).toNat = true := by decide
/-- R82: the target of a branch is its own address + 8 × imm, which may lie before it. -/
theorem test_branch_backward :
    ((after (.beq 0 0 { imm := 0xFFFFFFFF }) (up.modStrand 0 0 (fun x => { x with ip := 16 }))).strand 0 0).ip = 8 ∧
    ((after (.bne 0 0 { imm := 4 }) (up.modStrand 0 0 (fun x => { x with ip := 16 }))).strand 0 0).ip = 24 := by decide
/-- R82, R77: `jr` links, adds imm, and bits [2:0] of the target are ignored. -/
theorem test_jr_links :
    ((after (.jr 0 0 { sd := 2, sa := 1, imm := 9 }) (withRegs up [(1, 64)])).strand 0 0).ip = 72 ∧
    (after (.jr 0 0 { sd := 2, sa := 1, imm := 9 }) (withRegs up [(1, 64)])).sreg 0 0 2 = 8 := by decide
theorem test_cend : ((after (.cend 0 0 {}) up).strand 0 0).atEnd = true := by decide
/-- R83: special value 10 is rstat, and reading it clears it. -/
theorem test_srd_rstat :
    (after (.srd 0 0 { sd := 1, imm := 10 }) (up.modStrand 0 0 (fun x => { x with rstat := 3 }))).sreg 0 0 1 = 3 ∧
    ((after (.srd 0 0 { sd := 1, imm := 10 }) (up.modStrand 0 0 (fun x => { x with rstat := 3 }))).strand 0 0).rstat = 0 := by
  decide

theorem witness_ScratchpadWords : up.issues 0 0 = true ∧ up.storePending 0 0 = false := by decide
theorem witness_ScratchpadWords_past_the_end :
    let s := withRegs up [(1, 0x200000)]
    s.issues 0 0 = true ∧ s.storePending 0 0 = false ∧ 2 ^ 21 ≤ 8 * ((s.sreg 0 0 1 + immWord 0).toNat / 8) ∧
    8 * ((s.sreg 0 0 1 + immWord 0xFFFFFFFF).toNat / 8) < 2 ^ 21 := by decide
/-- R81, R6: a word stored is the word loaded, bits [2:0] of the offset ignored; its bytes are little-endian. -/
theorem test_st_ld :
    let s := after (.st 0 0 { sa := 1, sb := 2, imm := 5 }) (withRegs up [(1, 16), (2, 0x0102030405060708)])
    s.mem.byte (spadKey 0 16) = 8 ∧ (after (.ld 0 0 { sd := 3, sa := 1 }) s).sreg 0 0 3 = 0x0102030405060708 := by decide
theorem test_ld_past_the_end :
    (after (.ld 0 0 { sd := 3, sa := 1 }) (withRegs up [(1, 0x200000), (3, 9)])).sreg 0 0 3 = 0 := by decide

/-! ## Vector instructions -/

theorem witness_VectorArithmetic :
    up.issues 0 0 = true ∧ up.vready 0 0 [vreg 1, vreg 2, vreg 3] = true ∧ up.vready 0 0 [vreg 0] = true ∧
    up.vready 0 0 [vreg 1, vreg 2, vreg 3, vreg 255] = true ∧ up.regPending 0 0 256 = false ∧
    vcvtOf { f := 9, ext := 0 } = none := by decide
theorem witness_VectorMovesAndFunctions :
    up.issues 0 0 = true ∧ up.vready 0 0 [vreg 1, vreg 255] = true := by decide
theorem witness_VectorConvertAndReduce :
    up.issues 0 0 = true ∧ (∃ src k, vcvtOf { f := 6, ext := 0 } = some (src, k)) ∧
    up.vready 0 0 (vcvtRegs { f := 6, ext := 0 }) = true := by
  refine ⟨by decide, ?_, by decide⟩
  exact ⟨_, _, rfl⟩
theorem witness_VectorConvertAndReduce_reductions :
    up.vready 0 0 [vreg 1, vreg 2, vreg 3] = true ∧ up.vready 0 0 [vreg 1, vreg 2, vreg 3, vreg 254, vreg 254 + 1] = true ∧
    vreg 254 ≠ 255 ∧ rredVal 4 1 [1] [] = some 1 := by decide
theorem witness_VectorMemory :
    let s := withRegs up [(1, 0x1FFFFF)]
    s.issues 0 0 = true ∧ s.storePending 0 0 = false ∧ s.vready 0 0 [vreg 255] = true ∧
    2 ^ 21 < 64 * ((s.sreg 0 0 1 + immWord 0).toNat / 64) + 512 := by decide
/-- By hand in FP32 (R126): 1.0 + 2.0 = 3.0, and 3.0 × −2.0 = −6.0. -/
theorem test_fadd : fadd 0x3F800000 0x40000000 = 0x40400000 := by decide
theorem test_fmul : fmul 0x40400000 0xC0000000 = 0xC0C00000 := by decide
/-- R94: `vadd` moves on by one word and leaves scalar registers alone. -/
theorem test_vadd_moves_on : ((after (.vadd 0 0 { vd := 2, va := 0, vb := 1, f := 6 }) up).strand 0 0).ip = 8 := by decide


/-! ## Tiles, arrays and copies -/

/-- Core 0 with arrays. -/
def withArr (a : ArrayUnit) : State := up.modArr 0 (fun _ => a)

/-- Core 0 with an engine. -/
def withEng (e : Engine) : State := up.modCore 0 (fun k => { k with eng := e })

theorem witness_Tiles :
    up.issues 0 0 = true ∧ up.tileBusy 0 0 31 = false ∧ up.storePending 0 0 = false ∧
    (up.strand 0 0).ip.toNat + 8 < 2 ^ 21 ∧ tileFmt 8 = some .int32 := by decide
theorem witness_Tiles_completions :
    let l := withEng { tops := [.load 0 31 {} [(0, 1), (4095, 2)]] }
    let w := withEng { tops := [.store 2 [(spadKey 0 0, 1)]] }
    (l.core 0).eng.tops.find? (isLoadOf 31) = some (.load 0 31 {} [(0, 1), (4095, 2)]) ∧
    (List.map Prod.fst [(0, (1 : Byte)), (4095, 2)]).Nodup ∧
    (w.core 0).eng.tops.find? (isStoreOf 2) = some (.store 2 [(spadKey 0 0, 1)]) := by decide
/-- R74: a `tload` that completes makes every other byte of its tile zero, and its mark is set. -/
theorem test_tload_completes :
    let l := withEng { tops := [.load 0 31 { fmt := 7, rows := 1, width := 1 } [(0, 9)]] }
    ((after (.tloadComplete 0 31) l).core 0).regs.byte 248 0 = 9 ∧
    (((after (.tloadComplete 0 31) l).core 0).regs.mark 31).fmt = 7 := by decide
/-- R87: a `tstore` that completes writes its rows into the scratchpad. -/
theorem test_tstore_completes :
    (after (.tstoreComplete 0 2) (withEng { tops := [.store 2 [(spadKey 0 5, 1)]] })).mem.byte (spadKey 0 5) = 1 := by decide

/-- A queue of eight entries. -/
def fullQueue : State := withArr { queue := List.replicate 8 (.flip 0 [0]) }
theorem witness_ArrayIssue :
    up.issues 0 0 = true ∧ (up.core 0).arr.queue = [] ∧ (up.core 0).arr.retries = [] ∧ (up.core 0).arr.readout.length < 8 ∧
    up.arrayReady 0 0 31 255 { fmt := 0 } = true ∧ arrayFmt 0 = some .e4m3 ∧ targetHalves false 15 .e4m3 = some [7] ∧
    targetHalves true 4 .e4m3 = some [0, 1, 2, 3, 4, 5, 6, 7] ∧ ({ halves := 0 } : AflipWord).halves = 0 ∧
    ({ halves := 0x81 } : AflipWord).halves ≠ 0 ∧ (∀ v ∈ abrdRegs { ofmt := 6, vd := 254 }, up.regPending 0 0 v = false) ∧
    abrdFmt 6 = some .fp32 ∧ fullQueue.issues 0 0 = true ∧ 8 ≤ (fullQueue.core 0).arr.queue.length ∧
    8 ≤ ((withArr { readout := List.replicate 8 {} }).core 0).arr.readout.length := by decide
/-- R35, R40: a full array queue holds an `abrd`, though the readout path has room. -/
theorem test_full_queue_holds : after (.abrd 0 0 {}) fullQueue = fullQueue := by decide +kernel

/-- A row of two FP8 ones, to be multiplied by two latched FP8 ones. -/
def oneRow : AmmOp := { target := 8, zero := true, fmt := 0, k := 2, boff := 255, rows := [[0x38, 0x38]] }
/-- Latches of one column that hold two FP8 ones. -/
def oneLatch : Latch := { fmt := some 0, kw := 2, w := [(0, 0x38), (1, 0x38)] }

/-- Queues in which every entry waits for a command of its own. -/
theorem calm_flip (n : Nat) (hs : List Nat) : ({ queue := [.flip n hs] } : ArrayUnit).calm := by
  intro e h; exact .inr ⟨n, hs, by simpa using h⟩
theorem calm_amm (o : AmmOp) : ({ queue := [.amm o] } : ArrayUnit).calm := by
  intro e h; exact .inl ⟨o, by simpa using h⟩
theorem calm_empty (r : List RdOp) (x : List Retry) : ({ readout := r, retries := x } : ArrayUnit).calm := by
  intro e h; cases h
theorem witness_ArrayStream :
    let f := withArr { queue := [.flip 3 [0, 7]] }
    let q := withArr { queue := [.amm oneRow] }
    let w := withArr { stream := [oneRow], active := [(0, oneLatch)] }
    (f.core 0).arr.queue = .flip 3 [0, 7] :: [] ∧ (f.core 0).arr.halfBusy [7] = false ∧ (f.core 0).arr.held [7] = false ∧
    (f.core 0).run.state ≠ .parked ∧ (q.core 0).run.state ≠ .parked ∧ (w.core 0).run.state ≠ .parked ∧
    (q.core 0).arr.queue[0]? = some (.amm oneRow) ∧ (q.core 0).arr.canStart 0 oneRow = true ∧
    (w.core 0).arr.stream[0]? = some oneRow ∧ arrayFmt oneRow.fmt = some .e4m3 ∧
    (w.core 0).arr.abrdBefore oneRow.seq (oneRow.boff + oneRow.next) = false ∧ oneRow.void = false ∧
    oneRow.boff + oneRow.next < 256 ∧ oneRow.halves.Nodup := by decide
theorem witness_ArrayStream_calm :
    ((withArr { queue := [.flip 3 [0, 7]] }).core 0).arr.calm ∧ ((withArr { queue := [.amm oneRow] }).core 0).arr.calm :=
  ⟨calm_flip _ _, calm_amm _⟩
theorem witness_ArrayStream_held :
    let x : Retry := { op := { oneRow with target := 0 }, halves := [0] }
    let f := withArr { queue := [.flip 3 [0, 7]], retries := [x] }
    let q := withArr { queue := [.amm oneRow], retries := [x] }
    [0, 7].filter (fun h => h / 2 = (3 : Fin 4).val) = [7] ∧ [7].Nodup ∧ (f.core 0).arr.held [7] = true ∧
    (q.core 0).arr.canStart 0 oneRow = false := by decide
/-- R43: while an array or a quad retries, no flip takes effect; a split retry holds its own half only. -/
theorem test_retry_holds_flip :
    let f (t : BitVec 4) : State := withArr { queue := [.flip 3 [7]], retries := [{ op := { oneRow with target := t }, halves := [0] }] }
    after (.aflipTakesEffect 0 3) (f 0) = f 0 ∧ ((after (.aflipTakesEffect 0 3) (f 8)).core 0).arr.queue = [] := by
  decide +kernel
/-- R32: two products of 1.0 sum to 2.0 in column 0 of the row, and the other columns are 0. -/
theorem test_column_result :
    columnResult .e4m3 2 [0x38, 0x38] [] oneLatch 0 = 0x40000000 ∧ columnResult .e4m3 2 [0x38, 0x38] [] oneLatch 1 = 0 := by
  decide
/-- R29: a flip of one array swaps its halves and leaves the rest of the entry. -/
theorem test_flip :
    let u := after (.aflipTakesEffect 0 0) (withArr { queue := [.flip 3 [0, 7]], shadow := [(0, oneLatch)] })
    SMap.get {} (u.core 0).arr.active 0 = oneLatch ∧ (u.core 0).arr.queue = [.flip 3 [7]] := by decide

/-- A read of bank row 1 into V2. -/
def rowRead : RdOp := { vd := 2, row := 1, ofmt := 6, clr := true }
theorem witness_BankAndLatches :
    let x : Retry := { op := oneRow, halves := [0] }
    let r := withArr { readout := [rowRead] }
    let p := withArr { retries := [x] }
    let f := withArr { fillers := [(3, { density := 8, ramp := true })] }
    (r.core 0).arr.readout = rowRead :: [] ∧ (r.core 0).arr.abrdReady rowRead = true ∧ abrdFmt rowRead.ofmt = some .fp32 ∧
    r.gated 0 = false ∧ (p.core 0).arr.retries[0]? = some x ∧ arrayFmt x.op.fmt = some .e4m3 ∧
    (p.core 0).run.state ≠ .parked ∧ (p.core 0).arr.retryReady x = true ∧ (p.core 0).retrySafe x = true ∧
    x.op.void = false ∧ x.halves.Nodup ∧ x.fromRow + 1 = x.op.rows.length ∧ x.op.boff + x.fromRow < 256 ∧
    SMap.find? (f.core 0).arr.fillers 3 = some { density := 8, ramp := true } := by decide
theorem witness_BankAndLatches_calm :
    ((withArr { readout := [rowRead] }).core 0).arr.calm ∧
    ((withArr { retries := [{ op := oneRow, halves := [0] }] }).core 0).arr.calm :=
  ⟨calm_empty _ _, calm_empty _ _⟩
theorem witness_BankAndLatches_lost :
    let x : Retry := { op := oneRow, halves := [0] }
    let w := withArr { stream := [oneRow], retries := [x] }
    let l := withArr { retries := [x], active := [(0, { oneLatch with count := 1 })] }
    (w.core 0).arr.retryReady x = false ∧ (l.core 0).arr.retryReady x = true ∧ (l.core 0).retrySafe x = false := by decide
/-- R44, R62: a retry whose tile has changed is lost, and its error counts. -/
theorem test_retry_lost :
    let x : Retry := { op := oneRow, halves := [0] }
    let u := after (.latchRetryDone 0 0) (withArr { retries := [x], active := [(0, { oneLatch with count := 1 })] })
    (u.core 0).arr.lfLost = true ∧ (u.core 0).arr.lfLostCount = 1 ∧ (u.core 0).arr.lfTotal = 1 ∧
    (u.core 0).run.faulted = true := by decide +kernel
theorem test_filler_ramps_down :
    SMap.find? ((after (.fillerRampStep 0 3) (withArr { fillers := [(3, { density := 8, ramp := true })] })).core 0).arr.fillers
      3 = some { density := 7, ramp := true } := by decide
/-- R42: a parity error starts a retry of the streaming `amm` that uses the half, from its next row. -/
theorem test_parity_error :
    ((after (.latchParityError 0 0 0) (withArr { stream := [oneRow] })).core 0).arr.retries =
      [{ op := oneRow, halves := [0], fromRow := 0 }] := by decide

/-- A descriptor of one row of two bytes, fast tier to fast tier, as its first word and its other words. -/
def plainCopy : CopyDesc := { gen := 1, src := 0xFFF0000000000100, dst := 0xFFF0000000000200, rows := 1, cols := 2 }
theorem witness_Copies_completion :
    let s := withEng { copies := [(15, { desc := plainCopy })] }
    SMap.find? (s.core 0).eng.copies 15 = some { desc := plainCopy } ∧ plainCopy.kind = 0 ∧ plainCopy.rows = 1 ∧
    plainCopy.tallyEn = false ∧ plainCopy.grpEn = false ∧
    (∀ i, i < 2 → s.place (plainCopy.src + BitVec.ofNat 64 i) false = .mem (0x100 + i) ∧
      s.place (plainCopy.dst + BitVec.ofNat 64 i) true = .mem (0x200 + i) ∧ s.boundAt (0x200 + i) = false) ∧
    (∀ i, i < 2 → ∀ j, j < 2 → i ≠ j → 0x200 + i ≠ 0x200 + j) ∧ (∀ i, i < 2 → ∀ j, j < 2 → 0x100 + i ≠ 0x200 + j) := by
  decide
/-- An address lies in memory. -/
def inMem : Place → Bool
  | .mem _ => true
  | _ => false
theorem mem_of_inMem {p : Place} (h : inMem p = true) : ∃ x, p = .mem x := by
  cases p with
  | mem k => exact ⟨k, rfl⟩
  | _ => cases h
/-- Core 0 with a copy of a kind, from the scratchpad to the fast tier and its aux array there. -/
def copying (d : CopyDesc) : State := withEng { copies := [(15, { desc := d })] }
/-- Copies of kinds 1 (TRANSPOSE), 2 (CONVERT, with and without clr), 3 (GRAIN) and 4 (GATHER), of two rows. -/
def copyKinds : List CopyDesc :=
  let d : CopyDesc := { gen := 1, src := 0xFFF2000000000100, dst := 0xFFF0000000001000, aux := 0xFFF0000000004000
                        rows := 2, cols := 2, srcPitch := 0x40, dstPitch := 0x40, srcFmt := 0, dstFmt := 0 }
  [{ d with kind := 0 }, { d with kind := 1 }, { d with kind := 2 }, { d with kind := 2, bushel := true, clr := true },
   { d with kind := 4, aux := 0xFFF2000000000300 }]
theorem witness_Copies_kinds :
    ∀ d ∈ copyKinds, SMap.find? ((copying d).core 0).eng.copies 15 = some { desc := d } ∧ d.tallyEn = false ∧
      (copying d).copyPast 0 d = false ∧
      (∀ r ∈ (copying d).copyReads 0 d ++ d.auxRuns, ∀ i, i < r.2 →
        inMem ((copying d).place (r.1 + BitVec.ofNat 64 i) false) = true) ∧
      (∀ r ∈ d.dstRuns, ∀ x ∈ (copying d).landKeys r, ∀ q ∈ (copying d).copyReads 0 d ++ d.auxRuns,
        x ∉ (copying d).keysOf q) ∧
      spadPast (d.indexAt 0) (4 * d.rows) = false ∧ tileFmt d.dstFmt = some .e4m3 := by
  decide +kernel
theorem witness_Copies_grain :
    let d : CopyDesc := { gen := 1, kind := 3, src := 0xFFF2000000000100, dst := 0xFFF0000000001000
                          aux := 0xFFF0000000004000, rows := 1, cols := 256, srcFmt := 0 }
    SMap.find? ((copying d).core 0).eng.copies 15 = some { desc := d } ∧ d.tallyEn = false ∧ (copying d).copyPast 0 d = false ∧
    (∀ r ∈ (copying d).copyReads 0 d ++ d.auxRuns, ∀ i, i < r.2 →
      inMem ((copying d).place (r.1 + BitVec.ofNat 64 i) false) = true) ∧
    (∀ r ∈ d.dstRuns, ∀ x ∈ (copying d).landKeys r, ∀ q ∈ (copying d).copyReads 0 d ++ d.auxRuns,
      x ∉ (copying d).keysOf q) := by
  decide +kernel
theorem witness_Copies_mixed :
    let s := copying plainCopy
    let old : Nat → Byte := fun x => BitVec.ofNat 8 x
    s.copyPast 0 plainCopy = false ∧
    ({ desc := plainCopy, old := [(0x100, 0x00), (0x101, 0x01)] } : CopySlot).old =
      (s.sourceKeys 0 plainCopy).dedup.map (fun x => (x, old x)) := by decide +kernel
/-- R148: where a source byte has been written since the issue, a free value says which of its atoms were read early. -/
theorem test_copy_of_a_written_source :
    (after (.copyComplete 0 15) { withEng { copies := [(15, { desc := plainCopy, old := [(0x100, 7), (0x101, 7)] })] } with
      mem := up.mem.writeList [(0x100, 9), (0x101, 9)] }).free = 1 := by decide +kernel
/-- Core 0's scratchpad with a copy descriptor at 0 (R189, R190): PLAIN, generation 1, fast tier to fast tier at 0x200,
and its tally at 0x800. -/
def copyAt (rows cols : Byte) (tallyEn : Bool) (dstPitch : Byte) : State :=
  { up with mem := up.mem.writeList ([(2, if tallyEn then 8 else 0), (7, 0x10), (14, 0xF0), (15, 0xFF), (17, 2), (22, 0xF0),
      (23, 0xFF), (24, dstPitch), (32, cols), (36, rows), (41, 8), (46, 0xF0), (47, 0xFF)].map
        (fun p => (spadKey 0 p.1, p.2))) }
/-- The descriptor that `cpy` reads. -/
def readDesc (s : State) : CopyDesc := parseDesc (s.spadRead 0 0 64)
theorem witness_Copies :
    (copyAt 1 2 true 2).issues 0 0 = true ∧ (copyAt 1 2 true 2).storePending 0 0 = false ∧
    lowestFree ((copyAt 1 2 true 2).core 0).eng.copies 16 = some 0 := by decide
theorem witness_Copies_descriptor :
    let d := readDesc (copyAt 1 2 true 2)
    d.gen = 1 ∧ d.rsv = false ∧ d.rows ≠ 0 ∧ d.cols ≠ 0 ∧ (copyAt 1 2 true 2).copyOk d = true ∧ d.tallyEn = true := by decide
theorem witness_Copies_without_rows :
    let d := readDesc (copyAt 0 2 true 2)
    let s := copyAt 0 2 true 2
    d.tallyEn = true ∧ d.rows = 0 ∧ s.isSelf (addrModule d.tally) = true ∧ s.place (align8 d.tally) true = .mem 0x800 ∧
    s.broken 0x800 = false ∧ (readDesc (copyAt 0 2 false 2)).tallyEn = false := by decide
theorem witness_Copies_misfit :
    let d := readDesc (copyAt 1 2 false 1)
    d.gen = 1 ∧ d.rsv = false ∧ d.rows ≠ 0 ∧ d.cols ≠ 0 ∧ d.tallyEn = false ∧ (copyAt 1 2 false 1).copyOk d = false := by
  decide
/-- R190, R196: a copy of no rows ends at once and advances its tally. -/
theorem test_copy_of_no_rows : (after (.cpy 0 0 {}) (copyAt 0 2 true 2)).mem.word 0x800 = 1 := by decide

/-! ## Remote operations -/

/-- Registers of a remote operation: 2 bytes from scratchpad offset 0 to fast-tier offset 0x100, tally at 0x800. -/
def rem : State := withRegs up [(1, 0), (2, 0xFFF0000000000100), (3, 2), (4, 0xFFF0000000000800)]
/-- The word that names those registers. -/
def remWord : MWord := { sa := 1, sb := 2, sc := 3, sd := 4 }
theorem witness_RemoteIssue :
    rem.issues 0 0 = true ∧ rem.storePending 0 0 = false ∧ lowestFree (rem.core 0).eng.remotes 32 = some 0 ∧
    remWord.mc = false ∧ putSpace (rem.sreg 0 0 2) = true ∧ getSpace (rem.sreg 0 0 2) = true ∧
    tallySpace (rem.sreg 0 0 4) = true ∧ accPair 3 5 = true ∧ accSpace 3 (rem.sreg 0 0 2) = true := by decide
theorem witness_RemoteIssue_packets :
    let hdr := rem.coreHdr 0 0
    let data := rem.spadRead 0 0 (clipLen 0 2)
    (∀ p ∈ firstRuns (putRuns { hdr with sig := true, aux := 0 } 0xFFF0000000000100 data), rem.routable p = true) ∧
    getReqs hdr 0xFFF0000000000100 0 2 ≠ [] ∧ (∀ p ∈ getReqs hdr 0xFFF0000000000100 0 2, rem.routable p = true) ∧
    (∀ p ∈ firstRuns (accRuns { hdr with op := 1, atype := 3, sfmt := 5 } 0xFFF0000000000100 data), rem.routable p = true) ∧
    rem.routable { hdr with op := 4, dst := 0xFFF0000000000100, aux := 2 } = true := by decide
/-- Core 0 with a target list at 0x40 of its scratchpad: a mask of cores with a destination in the scratchpads, or a module
mask at 0x1000 of the fast tier that names modules 0 and 5. -/
def withList (cores : Bool) : State :=
  let s := withRegs up [(1, 0), (2, 0x40), (3, 2), (4, 0xFFF2000000000800)]
  let cells : List (Nat × Byte) :=
    if cores then [(spadKey 0 0x47, 0x10), (spadKey 0 0x49, 1), (spadKey 0 0x4E, 0xF2), (spadKey 0 0x4F, 0xFF), (spadKey 0 0x58, 3)]
    else [(0x1000, 0x21), (spadKey 0 0x47, 0x14), (spadKey 0 0x49, 1), (spadKey 0 0x4E, 0xF0), (spadKey 0 0x4F, 0xFF),
         (spadKey 0 0x51, 0x10), (spadKey 0 0x56, 0xF0), (spadKey 0 0x57, 0xFF)]
  { s with mem := up.mem.writeList cells }
theorem witness_RemoteIssue_multicast :
    let w : MWord := { sa := 1, sb := 2, sc := 3, sd := 4, mc := true }
    ∀ cores : Bool, (withList cores).issues 0 0 = true ∧ (withList cores).storePending 0 0 = false ∧
      lowestFree ((withList cores).core 0).eng.remotes 32 = some 0 ∧ w.mc = true ∧
      ((withList cores).sreg 0 0 w.sb &&& 0xFFFFFFFFFFFFFFC0) = 0x40 ∧ tallySpace ((withList cores).sreg 0 0 w.sd) = true := by
  decide +kernel
theorem witness_RemoteIssue_cores :
    (withList true).listNames ((withList true).spadRead 0 0x40 128) true 0xFFF2000000000100 [0, 1] ∧
    putSpace 0xFFF2000000000100 = true ∧ accPair 0 6 = true ∧ accSpace 0 0xFFF2000000000100 = true ∧
    (∀ x ∈ [0, 1], ∀ p ∈ firstRuns (putRuns { (withList true).coreHdr 0 0 with mcb := true, op := 0 }
      (withCore 0xFFF2000000000100 x) ((withList true).spadRead 0 0 2)), (withList true).routable p = true) := by
  refine ⟨⟨by decide +kernel, by decide +kernel, ?_⟩, by decide +kernel⟩
  simp only [if_true]
  decide +kernel
theorem witness_RemoteIssue_no_cores :
    let s := (withList true).store (spadKey 0 0x58) [0]
    s.listNames (s.spadRead 0 0x40 128) true 0xFFF2000000000100 [] := by
  refine ⟨by decide +kernel, by decide +kernel, ?_⟩
  simp only [if_true]
  decide +kernel
theorem witness_RemoteIssue_modules :
    (withList false).listNames ((withList false).spadRead 0 0x40 128) false 0xFFF0000000000100 [0, 5] := by
  have h : ∀ i, i < 512 → inMem ((withList false).place (0xFFF0000000001000 + BitVec.ofNat 64 i) false) = true := by
    decide +kernel
  have e : BitVec.ofNat 64 (leNat (slice ((withList false).spadRead 0 0x40 128) 16 8)) = 0xFFF0000000001000 := by decide +kernel
  refine ⟨by decide +kernel, by decide +kernel, ?_⟩
  simp only [Bool.false_eq_true, if_false]
  refine ⟨by decide +kernel, by decide +kernel, by decide +kernel, by decide +kernel, ?_, by decide +kernel⟩
  intro i hi
  have := mem_of_inMem (h i hi)
  rwa [← e] at this
/-- R229: two cores named in a mask get one packet each, and one slot waits for both. -/
theorem test_multicast_put :
    let u := after (.putI 0 0 { sa := 1, sb := 2, sc := 3, mc := true }) (withList true)
    u.net.flight.map (fun f => f.pkt.dst) = [0xFFF2000000000100, 0xFFF2000000200100] ∧
    ((SMap.find? (u.core 0).eng.remotes 0).map (fun r => r.branches.length)) = some 2 := by decide +kernel
/-- R206–R208: a `put` of two bytes is one packet with its data, and takes slot 0. -/
theorem test_put_sends :
    let u := after (.putI 0 0 remWord) rem
    u.net.flight.map (fun f => f.pkt.payload) = [[0, 0]] ∧ ((u.core 0).eng.remotes.map Prod.fst) = [0] := by decide

/-- A PUT of one byte for this module. -/
def putP : Packet := { op := 0, dst := 0xFFF0000000000100, len := 1, payload := [7], srcModule := 0xFFF, count := 1, last := true }
theorem witness_RemotePackets :
    up.takes putP 0 = true ∧ putP.payload ≠ [] ∧ up.place putP.dst true = .mem 0x100 ∧
    up.takes { putP with op := 2, payload := [] } 2 = true ∧ up.takes { putP with op := 4, payload := [] } 4 = true ∧
    up.place putP.dst false = .mem 0x100 ∧ up.routable { answer { putP with op := 2 } 3 stOk with dst := up.addrOf (spadKey 0 0) } = true ∧
    up.place (align8 putP.dst) true = .mem 0x100 ∧ up.broken 0x100 = false ∧ up.routable (ackFor putP stOk) = true := by
  decide
theorem witness_RemotePackets_answers :
    let s := withEng { remotes := [(0, { branches := [{ acksLeft := 2 }] })] }
    let a : Packet := { op := 5, srcModule := 0xFFF }
    a.status = stOk ∧ SMap.find? (s.core 0).eng.remotes 0 = some { branches := [{ acksLeft := 2 }] } ∧ s.msn.xfer = {} ∧
    s.getOpen = false ∧ s.takes a 5 = true ∧ s.takes { a with op := 3 } 3 = true ∧ a.tag.toNat < 32 ∧
    ({ branches := [{ acksLeft := 2 }] } : RemSlot).ct = 0 ∧ ({ branches := [{ acksLeft := 2 }] } : RemSlot).absent = false ∧
    s.takes { a with tag := 33, status := stBroken } 5 = true := by decide
/-- R105, R196: the ACK of a copy's completion tally that broke sets the strand's remote status. -/
theorem test_copy_tally_broken :
    ((after (.ackPacket { op := 5, srcModule := 0xFFF, tag := 33, status := stBroken }) up).strand 0 1).rstat = 2 := by decide
/-- R212, R216: a TADD adds at its home and is answered with an ACK. -/
theorem test_tadd :
    let u := after (.taddPacket { putP with op := 4, payload := [], aux := 5 }) up
    u.mem.word 0x100 = 5 ∧ u.net.flight.map (fun f => f.pkt.op) = [5] := by decide
/-- R213: the last ACK of the last branch frees the slot. -/
theorem test_ack_frees_slot :
    ((after (.ackPacket { op := 5, srcModule := 0xFFF }) (withEng { remotes := [(0, { branches := [{ acksLeft := 1 }] })] })).core
      0).eng.remotes = [] := by decide

theorem witness_ConfirmationsAndHolds :
    let n : Packet := { op := 0, last := true, count := 2, srcModule := 0xFFF, dst := 0xFFF0000000000200 }
    let l : Landing := { agent := 577, pkt := n }
    let k : Confirm := { module := 0xFFF, dst := 0xFFF0000000000200 }
    let s (g : List Confirm) : State := { up with net := { landings := [l], confirms := [k], got := g } }
    (s []).net.landings = [l] ∧ l.covers k = true ∧ l.sigWait = none ∧ l.pkt.sig = false ∧
    (((s []).net.got ++ [k]).filter l.covers).length < l.pkt.count.toNat ∧
    l.pkt.count.toNat ≤ (((s [k]).net.got ++ [k]).filter l.covers).length ∧
    (s []).routable (ackFor n stOk) = true := by decide
theorem witness_ConfirmationsAndHolds_branch :
    let b : Branch := { dst := 0xFFF0000000000100, acksLeft := 1 }
    let x : RemSlot := { mc := true, branches := [b] }
    let s : State := { withEng { remotes := [(31, x)] } with
      net := { flight := [{ pkt := { op := 0, srcModule := 0xFFF, tag := 31, dst := 0xFFF0000000000100 } }] } }
    SMap.find? (s.core 0).eng.remotes 31 = some x ∧ x.branches[0]? = some b ∧ x.mc = true ∧ b.holdCounted = false ∧
    b.acksLeft ≠ 0 ∧ s.branchHeld 0 31 b = true := by decide
/-- R229, R245: a held branch is counted, once. -/
theorem test_hold_counted_once :
    let b : Branch := { dst := 0xFFF0000000000100, acksLeft := 1 }
    let s : State := { withEng { remotes := [(31, { mc := true, branches := [b] })] } with
      net := { flight := [{ pkt := { op := 0, srcModule := 0xFFF, tag := 31, dst := 0xFFF0000000000100 } }] } }
    let u := after (.mcHoldTimeout 0 31 0) s
    (u.cluster 0).mcHold = 1 ∧ after (.mcHoldTimeout 0 31 0) u = u := by decide +kernel

/-! ## Waits and keystones -/

/-- Registers of a wait: a tally of core 0's own scratchpad at 0x40, and the value 0. -/
def waiting : State := withRegs up [(2, 0xFFF2000000000040), (3, 0), (5, 1), (6, 0xFFF0000000000800), (7, 0xFFF1000000000100)]
theorem witness_WaitIssue :
    waiting.issues 0 0 = true ∧ waiting.storePending 0 0 = false ∧ tallySpace (waiting.sreg 0 0 2) = true ∧
    waiting.ownTally 0 (waiting.sreg 0 0 2) = some (spadKey 0 0x40) ∧ waiting.broken (spadKey 0 0x40) = false ∧
    waiting.sreg 0 0 3 ≤ waiting.mem.word (spadKey 0 0x40) ∧ waiting.mem.word (spadKey 0 0x40) < waiting.sreg 0 0 5 ∧
    ({ sb := 2, sc := 3 } : MWord).mc = false ∧
    ({ waiting with clusters := [(0, { brokenSpad := 1 })] } : State).broken (spadKey 0 0x40) = true := by decide
theorem witness_WaitIssue_elsewhere :
    tallySpace (waiting.sreg 0 0 6) = true ∧ waiting.ownTally 0 (waiting.sreg 0 0 6) = none ∧
    waiting.routable { waiting.coreHdr 0 0 with op := 6, dst := 0xFFF0000000000800 } = true ∧
    keySpace (waiting.sreg 0 0 7) = true ∧ waiting.roundSeen 0 (waiting.sreg 0 0 7) 0 = false ∧
    (withEng { krel := [{ obj := 0xFFF1000000000100, round := 3 }] }).roundSeen 0 0xFFF1000000000100 3 = true := by decide
/-- R108: a `twait` whose tally has not reached its value blocks its strand, one instruction further on. -/
theorem test_twait_blocks :
    let u := after (.twait 0 0 { sb := 2, sc := 5 }) waiting
    u.canIssue 0 0 = false ∧ (u.strand 0 0).ip = 8 := by decide

/-- Core 0 with strand 0 waiting. -/
def blocked (w : Wait) : State := up.modStrand 0 0 (fun x => { x with wait := w })
theorem witness_Waits :
    let s := blocked (.twait 0xFFF2000000000040 0 5)
    (s.core 0).run.state ≠ .parked ∧ s.ownTally 0 0xFFF2000000000040 = some (spadKey 0 0x40) ∧
    s.broken (spadKey 0 0x40) = false ∧ (0 : Word) ≤ s.mem.word (spadKey 0 0x40) ∧
    s.mem.word (spadKey 0 0x40) < 1 := by decide
theorem witness_Waits_wake :
    let s := blocked (.twait 0xFFF0000000000800 1 5)
    let p : Packet := { op := 7, srcModule := 0xFFF, dst := 0xFFF0000000000800 }
    s.takes p 7 = true ∧ p.srcUnit.toNat = 0 ∧ p.tag.toNat % 4 = 0 ∧ s.sameTally 0xFFF0000000000800 p.dst = true ∧
    (s.core 0).run.state ≠ .parked ∧ p.tag.toNat / 4 = (SMap.get 0 s.net.waitGen 0).toNat ∧
    ({ p with tag := 4 } : Packet).tag.toNat / 4 ≠ (SMap.get 0 s.net.waitGen 0).toNat ∧
    p.status ≠ stFull ∧ ({ p with status := stFull } : Packet).status = stFull ∧
    s.takes { p with op := 10 } 10 = true ∧ s.routable { p with op := 6 } = true := by decide
theorem witness_Waits_release :
    let s := blocked (.kwait 0xFFF1000000000100 3 5)
    let a := blocked (.karr 0xFFF1000000000100 5)
    (s.strand 0 0).wait = .kwait 0xFFF1000000000100 3 5 ∧ s.sameObj 0xFFF1000000000100 0xFFF1000000000100 = true ∧
    (a.strand 0 0).wait = .karr 0xFFF1000000000100 5 ∧ (a.core 0).run.state ≠ .parked ∧
    ((a.modRun 0 (fun r => { r with state := .parked })).core 0).run.state = .parked := by decide
theorem witness_Waits_home :
    let p : Packet := { op := 6, srcModule := 0xFFF, dst := 0xFFF0000000000800, aux := 1 }
    let full : State := { up with clusters := [(3, { brokenClm := true })] }
    let c : Packet := { p with dst := 0xFFF1000006000000 }
    up.takes p 6 = true ∧ up.place (align8 p.dst) true = .mem 0x800 ∧ up.broken 0x800 = false ∧
    up.mem.word 0x800 < p.aux ∧ ({ p with aux := 0 } : Packet).aux ≤ up.mem.word 0x800 ∧
    up.recordsUsed (up.homeOf 0x800) < (up.homeOf 0x800).records ∧ up.routable (answer p 7 stOk) = true ∧
    full.takes c 6 = true ∧ full.place (align8 c.dst) true = .mem (clusterKey 3 0) ∧ full.broken (clusterKey 3 0) = true := by
  decide
/-- R234: the WAKE of an earlier registration ends no wait. -/
theorem test_stale_wake :
    (after (.wake { op := 7, srcModule := 0xFFF, dst := 0xFFF0000000000800, tag := 4 })
      (blocked (.twait 0xFFF0000000000800 1 5))).canIssue 0 0 = false := by decide
/-- R218: the strand's wait returns its status in rstat and its value in sd. -/
theorem test_wake_peer_absent :
    let u := after (.wake { op := 7, srcModule := 0xFFF, dst := 0xFFF0000000000800, status := stAbsent })
      (blocked (.twait 0xFFF0000000000800 1 5))
    u.sreg 0 0 5 = 2 ∧ (u.strand 0 0).rstat = 1 ∧ u.canIssue 0 0 = true := by decide


theorem witness_Waits_full :
    let p : Packet := { op := 6, srcModule := 0xFFF, dst := 0xFFF2000000000800, aux := 1 }
    let s : State := { up with net := { waits := List.replicate 64 { key := spadKey 0 0x40 } } }
    s.takes p 6 = true ∧ s.place (align8 p.dst) true = .mem (spadKey 0 0x800) ∧ s.mem.word (spadKey 0 0x800) < p.aux ∧
    (s.homeOf (spadKey 0 0x800)).records ≤ s.recordsUsed (s.homeOf (spadKey 0 0x800)) := by decide

/-- A slot of cluster 3 that serves its keystone object at offset 0x100, with cores 5 and 6 as participants. -/
def slot2 : KSlot := { obj := BitVec.ofNat 64 (clusterKey 3 0x100), parts := coreBit 5 ||| coreBit 6, round := 4 }
/-- A module with that slot bound. -/
def keyed (x : KSlot) : State := { up with clusters := [(3, { slots := [(15, x)] })] }
/-- An arrival of core 5 at it. -/
def arrival : Packet := { op := 8, srcModule := 0xFFF, srcUnit := 5, dst := 0xFFF1000006000100 }
theorem witness_Keystones :
    let s := keyed slot2
    s.place arrival.dst true = .mem (clusterKey 3 0x100) ∧ clusterKey 3 0x100 / 2 ^ 48 = 1 ∧
    s.broken (clusterKey 3 0x100) = false ∧
    s.slotServing (servingCluster (clusterKey 3 0x100)) (clusterKey 3 0x100) = some (15, slot2) ∧ slot2.broken = false ∧
    s.isSelf s.self.toNat = true ∧ s.takes arrival 8 = true ∧ s.isSelf arrival.srcModule.toNat = true ∧
    arrival.srcUnit.toNat < 576 := by decide +kernel
theorem witness_Keystones_arrivals :
    hasCore slot2.parts 5 = true ∧ hasCore slot2.cur 5 = false ∧
    (slot2.cur ||| coreBit 5) &&& slot2.parts ≠ slot2.parts ∧
    (coreBit 6 ||| coreBit 5) &&& slot2.parts = slot2.parts ∧ slot2.parts ≠ 0 ∧ hasCore slot2.parts 7 = false ∧
    slot2.scope = 0 ∧ slot2.chainPending = false ∧ slot2.nxt = 0 ∧ slot2.held = [] ∧ slot2.waiters = [] := by decide +kernel
theorem witness_Keystones_waits :
    let s := keyed slot2
    let p : Packet := { arrival with op := 9, aux := 4 }
    s.takes p 9 = true ∧ slot2.round ≤ p.aux ∧ ({ p with aux := 3 } : Packet).aux < slot2.round ∧
    slot2.obj.toNat = clusterKey 3 0x100 ∧ s.routable { answer p 10 stOk with mcb := false, dst := s.addrOf 0 } = true := by
  decide +kernel
theorem witness_Keystones_cascade :
    let x := { slot2 with cur := slot2.parts }
    SMap.find? ((keyed x).cluster 3).slots 15 = some x ∧ (keyed x).isSelf (keyed x).self.toNat = true ∧ x.parts ≠ 0 ∧
    x.cur &&& x.parts = x.parts ∧ x.chainPending = false ∧ x.scope = 0 ∧ x.nxt = 0 ∧
    x.broken = false ∧ x.held = [] ∧ x.waiters = [] := by decide +kernel
theorem witness_Keystones_bind :
    let p : Packet := { arrival with op := 9, aux := 4 }
    let s : State := { up with
      clusters := [(3, { stalled := [p] })]
      mem := up.mem.writeList [(clusterKey 3 0x107, 0x10)] }
    let key := p.dst.toNat % 2 ^ 52 / 256 * 256
    (s.cluster 3).stalled = p :: [] ∧ lowestFree (s.cluster 3).slots 16 = some 0 ∧ s.broken key = false ∧
    s.slotServing 3 key = none ∧ s.objectFault key = none ∧ (s.loadSlot key).broken = false ∧
    (s.loadSlot key).round ≤ p.aux ∧ p.op = 9 := by decide +kernel
theorem witness_Keystones_unbound :
    let p : Packet := { op := 11, srcModule := 1, dst := 0xFFF1000006000100, status := stBroken }
    let s : State := { up with mem := up.mem.writeList [(clusterKey 3 0x107, 0x14), (clusterKey 3 0x116, 0xF0), (clusterKey 3 0x117, 0xFF)] }
    s.takes p 11 = true ∧ p.status ≠ stOk ∧ s.slotServing (servingCluster (clusterKey 3 0x100)) (clusterKey 3 0x100) = none ∧
    s.objectFault (clusterKey 3 0x100) = none ∧ (s.mem.word (clusterKey 3 0x100)).extractLsb' 58 2 = 1 := by decide +kernel
/-- R230: a K_CHAIN with a status breaks a chain keystone that no slot serves, in its object. -/
theorem test_unbound_chain_break :
    ((after (.kChain { op := 11, srcModule := 1, dst := 0xFFF1000006000100, status := stBroken })
      { up with mem := up.mem.writeList [(clusterKey 3 0x107, 0x14), (clusterKey 3 0x116, 0xF0), (clusterKey 3 0x117, 0xFF)] }).mem.word (clusterKey 3 0x100)).getLsbD 57 = true := by
  decide +kernel
theorem witness_Keystones_chain :
    let x : KSlot := { slot2 with scope := 1, chainPending := true, chainMask := 0xFFF0000000000000 }
    let s : State := { keyed x with mem := up.mem.writeList [(0, 2)] }
    let p : Packet := { op := 11, srcModule := 1, dst := 0xFFF1000006000100, aux := 4 }
    s.takes p 11 = true ∧ s.slotServing 3 (clusterKey 3 0x100) = some (15, x) ∧ x.held = [] ∧ x.waiters = [] ∧
    p.status = stOk ∧ x.round = p.aux ∧ x.nxt = 0 ∧ s.isSelf 1 = false ∧ ({ p with status := stBroken } : Packet).status ≠ stOk ∧
    (s.maskModules x.chainMask).head? = some 1 := by decide +kernel
theorem witness_Keystones_breaks :
    let p : Packet := { op := 11, srcModule := 5, dst := 0xFFF1000006000100, aux := 4 }
    let s : State := { keyed { slot2 with scope := 1, chainMask := 0xFFF0000000000000 } with
      mem := up.mem.writeList [(0, 1)], chain := { addr := 0, addrValid := true, bypass := false } }
    let t : State := { s with mem := up.mem.writeList [(0, 0x21)] }
    s.takes p 11 = true ∧ s.slotServing 3 (clusterKey 3 0x100) = some (15, { slot2 with scope := 1, chainMask := 0xFFF0000000000000 }) ∧
    (s.maskModules 0xFFF0000000000000).head?.any s.isSelf = true ∧
    (t.maskModules 0xFFF0000000000000) = [0, 5] ∧ t.isSelf 5 = false ∧ t.absent 5 = true := by decide +kernel
/-- R230: a chain home of whose mask a module is absent breaks its keystone as a K_CHAIN comes. -/
theorem test_chain_home_breaks :
    let s : State := { keyed { slot2 with scope := 1, chainMask := 0xFFF0000000000000 } with
      mem := up.mem.writeList [(0, 0x21)], chain := { addr := 0, addrValid := true, bypass := false } }
    let u := after (.kChain { op := 11, srcModule := 5, dst := 0xFFF1000006000100, aux := 4 }) s
    (SMap.find? (u.cluster 3).slots 15).any (fun x => x.broken) = true := by decide +kernel
/-- R224: an arrival of a core that is no participant is counted, and is no entry. -/
theorem test_nonmember_arrival :
    (after (.kArrive { arrival with srcUnit := 7 }) (keyed slot2)).clusters = (keyed slot2).clusters := by decide +kernel

/-! ## Accumulation and the fast tier -/

/-- An ACC packet of one FP32 value, 1.0. -/
def accP : Packet :=
  { op := 1, atype := 0, sfmt := 6, dst := 0xFFF1000006000100, len := 4, payload := [0, 0, 0x80, 0x3F], srcModule := 0xFFF }
theorem witness_MortarAdds :
    up.takes accP 1 = true ∧ accP.payload ≠ [] ∧ accP.atype.toNat < 3 ∧ addrSpace accP.dst = 1 ∧
    up.badAt accP.dst 4 true = [] ∧ up.hitsBound accP.dst 4 = false ∧
    up.place accP.dst true = .mem (clusterKey 3 0x100) ∧ up.boundAt (clusterKey 3 0x100) = false := by decide
theorem witness_MortarAdds_fast_tier :
    let p : Packet := { accP with atype := 3, dst := 0xFFF0000000001000 }
    up.takes p 1 = true ∧ addrSpace p.dst = 0 ∧ p.atype.toNat < 5 ∧ addrOff p.dst < 2 ^ 46 ∧
    plainParts p (addrOff p.dst) ≠ [] ∧
    (plainParts p (addrOff p.dst)).all (fun x => decide (up.fastPlace x.1 = .mem (fastKey x.1))) = true ∧
    up.frontReady p (up.frontOf p (up.linkOf p)) = true := by decide
theorem witness_MortarAdds_room : (∀ x ∈ up.mortar.frags, x.waiting = false) ∧ ∀ a, up.adderQueue a + 1 ≤ 2048 :=
  ⟨by decide, fun _ => (by decide : 0 + 1 ≤ 2048)⟩
/-- Fragments without number. -/
def frags (n : Nat) (f : Frag) : State := { up with mortar := { frags := List.replicate n f } }
theorem queue_of (n : Nat) (f : Frag) (h : f.waiting = false) : (frags n f).adderQueue f.adder = n := by
  simp [State.adderQueue, frags, h]
theorem front_of (n : Nat) (f : Frag) (h : f.waiting = true) : (frags n f).frontQueue f.front f.adder = n := by
  simp [State.frontQueue, frags, h]
theorem witness_MortarAdds_full :
    let p : Packet := { accP with atype := 3, dst := 0xFFF0000000001000 }
    (∀ x ∈ plainParts p (addrOff p.dst), 2048 ≤ (frags 2048 { adder := up.adderOf 0x1000 }).adderQueue (up.adderOf x.1)) ∧
    256 ≤ (frags 256 { adder := up.adderOf 0x1000, waiting := true }).frontQueue 0 (up.adderOf 0x1000) ∧
    up.frontOf p (up.linkOf p) = 0 := by
  refine ⟨fun x h => ?_, (front_of _ _ rfl).ge, by decide⟩
  have : x.1 = 0x1000 := by
    have e : plainParts { accP with atype := 3, dst := 0xFFF0000000001000 } 0x1000 = [(0x1000, 0, [0, 0, 0x80, 0x3F])] := by decide
    have h : x ∈ plainParts { accP with atype := 3, dst := 0xFFF0000000001000 } 0x1000 := h
    rw [e] at h
    rw [List.mem_singleton.mp h]
  rw [this]
  exact (queue_of 2048 { adder := up.adderOf 0x1000 } rfl).ge

/-- A bucket of exponent 0 at 0x1000, and a fragment of one value for it. -/
def bucket0 : Bucket := { base := 0x1000, elements := 32 }
/-- A module with that fragment at adder 15. -/
def adding : State := { up with mortar := {
  red := some { offset := 0, buckets := [bucket0] }
  frags := [{ adder := 15, pkt := 0, offset := 0x1000, body := [0, 0, 0x80, 0x3F] }]
  packs := [{ num := 0, pkt := { accP with atype := 3 }, left := 1 }] } }
theorem witness_MortarAdds_adder :
    adding.nextFrag 15 = some { adder := 15, pkt := 0, offset := 0x1000, body := [0, 0, 0x80, 0x3F] } ∧
    adding.mortar.loading = false ∧ (∀ g ∈ adding.mortar.frags, g.waiting = true → g.adder ≠ 15) ∧
    (adding.pack 0).pkt.atype = 3 ∧ bucket0.e = (adding.pack 0).pkt.e ∧ bucket0.grpEn = false ∧
    adding.bucketAt 0x1000 = some bucket0 ∧
    bushelAdd (adding.mem.word (fastKey 0x1000)) (toBushel 0 (accValue 6 [0, 0, 0x80, 0x3F] 0)).1 ≠ poison := by decide
theorem witness_MortarAdds_refill :
    let f : Frag := { adder := 15, waiting := true }
    let s (n : Nat) : State := { up with mortar := { frags := [f], joins := List.replicate n {} } }
    (s 0).mortar.loading = false ∧ (s 0).nextFrag 15 = none ∧
    (s 0).mortar.frags.filter (fun g => g.waiting && decide (g.adder = 15)) = [f] ∧ (s 0).adderRoom f = true := by decide
theorem witness_MortarAdds_joins : ∀ a, (up.joinsAt a).length + 1 ≤ 256 := fun _ => (by decide : 0 + 1 ≤ 256)
/-- R298: an adder with nothing to take lets in the fragment that waits at a front. -/
theorem test_refill :
    ((after (.fragmentAdd 15) { up with mortar := { frags := [{ adder := 15, waiting := true }] } }).mortar.frags.map
      (fun f => f.waiting)) = [false] := by decide +kernel
/-- R295: 1.0 added to a zeroed FP32 word is 1.0. -/
theorem test_acc_plain : (after (.accPacket accP) up).mem.word (clusterKey 3 0x100) = 0x3F800000 := by decide
/-- R296: of two fragments of one time the one of the lower issuing unit is taken first. -/
theorem test_adder_tie :
    let s : State := { up with mortar := {
      frags := [{ adder := 15, pkt := 0 }, { adder := 15, pkt := 1 }]
      packs := [{ num := 0, pkt := { accP with srcUnit := 9 } }, { num := 1, pkt := { accP with srcUnit := 7 } }] } }
    (s.nextFrag 15).map (fun f => f.pkt) = some 1 := by decide
/-- R302: while the block is being read nothing is added. -/
theorem test_adder_waits :
    let s : State := { adding with mortar := { adding.mortar with loading := true } }
    after (.fragmentAdd 15) s = s := by decide

/-- A reduction block of one bucket entry at 0x2000, of generation `g`. -/
def redAt (g : Byte) : State := { up with
  mortar := { loading := true, red := some { offset := 0x2000 } }
  mem := up.mem.writeList [(0x2000, 1), (0x2007, g), (0x2107, 0x18), (0x2109, 0x10), (0x2110, 32)] }
theorem witness_ReductionBlockRead :
    let h := ((redAt 0x10).mem.word (fastKey 0x2000)).toNat
    let w (j : Nat) : Nat := ((redAt 0x10).mem.word (fastKey (0x2000 + 256 + 8 * j))).toNat
    let b := bucketOf 0 (w 0) (w 1) (w 2)
    h / 2 ^ 60 % 16 = 1 ∧ h % 2 ^ 11 = 1 ∧ h / 2 ^ 11 % 2 ^ 49 = 0 ∧
    (w 0 / 2 ^ 59 % 2 = 1 ∧ w 0 / 2 ^ 60 % 16 = 1 ∧ w 0 % 2 ^ 44 = 0 ∧ w 1 / 2 ^ 46 % 2 ^ 18 = 0 ∧
      w 2 / 2 ^ 40 % 2 ^ 24 = 0 ∧ b.base % 256 = 0 ∧ b.elements ≠ 0 ∧ b.elements % 32 = 0 ∧
      b.base + 8 * b.elements ≤ (redAt 0x10).ft.capacity) ∧
    ((redAt 0x20).mem.word (fastKey 0x2000)).toNat / 2 ^ 60 % 16 ≠ 1 := by decide
/-- A reduction block of two entries: the first as given by its last byte, enabled or not, and its base; the second fits. -/
def redTwo (first base : Byte) : State := { redAt 0x10 with
  mem := (redAt 0x10).mem.writeList [(0x2000, 2), (0x2107, first), (0x2100, base), (0x2127, 0x18), (0x2129, 0x20), (0x2130, 32)] }
theorem witness_ReductionBlockRead_skips :
    let s := redTwo 0x10 0
    let w (i j : Nat) : Nat := (s.mem.word (fastKey (0x2000 + 256 + 32 * i + 8 * j))).toNat
    let e := bucketOf 1 (w 1 0) (w 1 1) (w 1 2)
    (s.mem.word (fastKey 0x2000)).toNat % 2 ^ 11 = 2 ∧ w 0 0 / 2 ^ 59 % 2 = 0 ∧ w 1 0 / 2 ^ 59 % 2 = 1 ∧
    w 1 0 / 2 ^ 60 % 16 = 1 ∧ w 1 0 % 2 ^ 44 = 0 ∧ w 1 1 / 2 ^ 46 % 2 ^ 18 = 0 ∧ w 1 2 / 2 ^ 40 % 2 ^ 24 = 0 ∧
    e.base % 256 = 0 ∧ e.elements ≠ 0 ∧ e.elements % 32 = 0 ∧ e.base + 8 * e.elements ≤ s.ft.capacity ∧
    (∀ j, j < 32 → 6 ≤ j → s.mem.word (fastKey (0x2000 + 8 * j)) = 0) := by decide +kernel
/-- R302: a disabled entry is passed over; one whose length is 0 is invalid and adds 1 to bad_entries. -/
theorem test_reduction_entries :
    (((after .reductionBlockLoaded (redTwo 0x10 0)).mortar.red.map (fun b => b.buckets.map (fun x => x.idx))) = some [1]) ∧
    (let s := (redTwo 0x18 0).store 0x2110 [0]
     let u := after .reductionBlockLoaded s
     (u.mortar.red.map (fun b => b.buckets.map (fun x => x.idx))) = some [1] ∧
     u.mem.word 0x2028 = s.mem.word 0x2028 + 1) := by decide +kernel
theorem witness_ReductionBlockRead_invalid :
    let s := (redTwo 0x18 0).store 0x2110 [0]
    let w (j : Nat) : Nat := (s.mem.word (fastKey (0x2000 + 256 + 8 * j))).toNat
    let e := bucketOf 0 (w 0) (w 1) (w 2)
    w 0 / 2 ^ 59 % 2 = 1 ∧ w 0 / 2 ^ 60 % 16 = 1 ∧ w 0 % 2 ^ 44 = 0 ∧ w 1 / 2 ^ 46 % 2 ^ 18 = 0 ∧ w 2 / 2 ^ 40 % 2 ^ 24 = 0 ∧
    e.elements = 0 ∧
    (∀ i, i < 8 → s.place (fastAddr (0x2000 + 40) + BitVec.ofNat 64 i) true = .mem (fastKey (0x2000 + 40) + i)) := by
  decide +kernel
theorem witness_PseudoChannels :
    let s : State := { up with ft := { pchs := [(511, { crit := [{ offset := 256 }] })] } }
    let b : State := { up with ft := { pchs := [(511, { bulk := [{ offset := 256 }] })] }, chain := { time := 400 } }
    (s.pch 511).retraining = false ∧ (s.pch 511).ingress = [] ∧ (s.pch 511).crit ≠ [] ∧ (b.pch 511).crit = [] ∧
    (b.pch 511).bulk ≠ [] ∧ (∃ r ∈ (b.pch 511).bulk, 1800 * b.start.img.bulkThreshold ≤ 18 * b.chain.time - r.arrival) ∧
    (∀ r ∈ (b.pch 511).bulk, 18 * 399 - r.arrival < 1800 * b.start.img.bulkThreshold) ∧ (s.pch 511).reread = false ∧
    (b.pch 511).retraining = false ∧ (b.pch 511).reread = false ∧
    ({ s with ft := { pchs := [(0, { retraining := true })] } } : State).pch 0 = { retraining := true } ∧
    ({ s with ft := { pchs := [(0, { reread := true })] } } : State).pch 0 = { reread := true } := by decide
/-- R355: a re-read that is due goes ahead of every queued request. -/
theorem test_reread_first :
    let s : State := { up with ft := { pchs := [(511, { crit := [{ offset := 256 }], reread := true })] } }
    after (.pchServe 511) s = s := by decide +kernel

/-! ## Courses and edges -/

theorem witness_Courses :
    let s := up.modStrand 0 0 (fun x => { x with atEnd := true })
    let s := ((s.modStrand 0 1 (fun x => { x with atEnd := true })).modStrand 0 2 (fun x => { x with atEnd := true })).modStrand
      0 3 (fun x => { x with atEnd := true })
    s.workDone 0 = true ∧ s.job.st = .running ∧
    (s.core 0).run.faulted = false ∧
    ((s.modRun 0 (fun r => { r with faulted := true })).core 0).run.faulted = true ∧
    (s.modRun 0 (fun r => { r with faulted := true })).workDone 0 = true := by decide
/-- A module at an edge, whose run's schedule byte for cores 0 and 1 is `b`. -/
def opening (b : Byte) : State := { up with
  job := { st := .running, isOpen := true, runs := [{ active := true, courses := 2, period := 1, schedule := 0x3000 }] }
  cores := [(0, { run := { state := .edge, loaded := 1 } })]
  mem := up.mem.writeList [(0x3000, b)] }
theorem witness_Courses_opening :
    (opening 0).job.activeRun.isSome = true ∧ ((opening 0).core 0).run.state = .edge ∧ (opening 0).job.isOpen = true ∧
    (opening 0).job.started = [] ∧ ((opening 0).core 0).run.holds = false ∧
    (({ opening 0 with cores := [(0, { run := { state := .edge, loaded := 1, holds := true } })] } : State).core 0).run.holds = true ∧
    (∀ p, (opening 0).job.activeRun = some p → (opening 0).scheduled p 0 = 0) ∧
    ((opening 0).core 0).run.loaded.getLsbD 0 = true ∧ ((opening 1).core 0).run.loaded.getLsbD 1 = false ∧
    (∀ p, (opening 0xFF).job.activeRun = some p → (opening 0xFF).scheduled p 0 = 15) ∧
    (∀ p, (opening 8).job.activeRun = some p → (opening 8).scheduled p 0 = 8) ∧
    (∀ p, (opening 0xFE).job.activeRun = some p → (opening 0xFE).scheduled p 0 = 14) := by
  refine ⟨by decide, by decide, by decide, by decide, by decide, by decide, ?_, by decide, by decide, ?_, ?_, ?_⟩ <;>
    (intro p h; cases h; decide)
/-- R50: a context that the core does not hold is read from its save area. -/
theorem test_release_reads_save_area :
    let saved := (opening 0).mem.writeList [(saveKey 0 0 + 1024, 0x40), (saveKey 0 0 + 8, 7), (saveKey 0 0 + 1088, 9)]
    let s : State := { opening 0 with mem := saved }
    let u := after (.strandsReleased 0) s
    (u.strand 0 0).ip = 0x40 ∧ u.sreg 0 0 1 = 7 ∧ SMap.get 0 (u.core 0).regs.bytes 0 = 9 := by decide +kernel
/-- R52: strands released run their context; R404: with 0xF the core reports IDLE. -/
theorem test_release :
    ((after (.strandsReleased 0) (opening 0)).core 0).run.state = .running ∧
    ((after (.strandsReleased 0) (opening 0xFF)).core 0).run.state = .idle := by decide

theorem witness_Edges :
    let s : State := { up with job := { st := .set }, chain := { mark := some 100, d := 5, time := 105 } }
    s.edgeTime.isSome = true ∧ s.job.runs = [] ∧ s.chain.time + 2 * s.chain.d.toNat ≥ s.chain.te := by decide
theorem witness_Edges_ready :
    let s : State := { opening 0 with cores := [], chain := { te := 10, d := 5 } }
    s.job.st = .running ∧ s.job.isOpen = true ∧ s.job.nextCovered = true ∧ s.chain.te ≤ s.chain.time + 2 * s.chain.d.toNat ∧
    ({ s with chain := { te := 11, d := 5 } } : State).chain.time + 2 * 5 < 11 := by decide


/-- A module at the edge that closes a course, every core done. -/
def closing : State := { up with
  job := { st := .running, isOpen := true, course := 6, runs := [{ active := true, courses := 8, period := 1, courseLen := 2000 }] }
  cores := (List.range 576).map (fun c => (c, { run := { state := .done } }))
  chain := { ready := true, mark := some 100, d := 5, time := 105, bypass := false } }
/-- A sparse array that holds one value at each index of a list. -/
theorem find_const {α : Type} (v : α) (c : Nat) :
    ∀ l : List Nat, c ∈ l → SMap.find? (l.map (fun i => (i, v))) c = some v := by
  intro l
  induction l with
  | nil => simp
  | cons a l ih =>
    intro h
    by_cases e : a = c
    · simp [SMap.find?, e]
    · have h' : c ∈ l := by
        rcases List.mem_cons.mp h with h | h
        · exact absurd h.symm e
        · exact h
      simp [SMap.find?, e, ih h']
theorem closing_core (c : Nat) (h : c < 576) : closing.core c = { run := { state := .done } } := by
  have := find_const (v := ({ run := { state := .done } } : Core)) c (List.range 576) (List.mem_range.mpr h)
  simp only [State.core, SMap.get, closing]
  rw [this]; rfl
theorem closing_edge : closing.edgeTime = some 105 := rfl
theorem witness_Edges_next_course :
    closing.edgeTime = some 105 ∧ closing.chain.ready = true ∧ (closing.job.course + 1).toNat < 8 ∧ closing.allDone = true ∧
    (∀ c, c < 576 → (closing.core c).run.state = .done) := by
  refine ⟨closing_edge, rfl, by decide, ?_, fun c h => by rw [closing_core c h]⟩
  rw [State.allDone, List.all_eq_true]
  intro c h
  rw [closing_core c (List.mem_range.mp h)]
  rfl
theorem restoreParked_of (s : State) (h : ∀ c, (s.core c).run.state ≠ .parked) :
    s.restoreParked = { s with job := { s.job with parked := none } } := by
  have e : (List.range 576).foldl State.endPark s = s := List.foldl_fixed' (fun c => by simp [State.endPark, h c]) _
  simp [State.restoreParked, e]
theorem edge_of_set (s : State) (t : Nat) (ht : s.edgeTime = some t) (hs : s.job.st = .set)
    (hc : ∀ c, (s.core c).run.state ≠ .parked) : after .edgeApply s = (State.firstEdge { s with
      chain := { s.chain with mark := none, lastEdge := t, edges := satAdd s.chain.edges 1 }
      job := { s.job with parked := none } } t).flipFace := by
  have e := restoreParked_of (s.modChain (fun c => { c with mark := none, lastEdge := t, edges := satAdd c.edges 1 })) hc
  simp only [after, exec, execEdgeApply, ht, hs]
  simp only [State.modChain] at e ⊢
  simp [hs, e]
/-- R30: a module that is SET applies the edge and flips the face window to the closed lift. -/
theorem test_edge_in_set :
    let s : State := { up with
      cores := [], job := { st := .set }, chain := { mark := some 100, d := 5, time := 105 }
      ft := { faceValid := true }, msn := { lift := { closed := 3 } } }
    (after .edgeApply s).job.lift = 3 ∧ (after .edgeApply s).ft.parity = true ∧ (after .edgeApply s).chain.edges = 1 := by
  intro s
  rw [edge_of_set s 105 rfl rfl (fun _ h => by cases h)]
  decide

/-! ## The chain port -/

/-- A module on a chain, with address 2, not the head. -/
def chained : State := { up with chain := { bypass := false, addr := 2, addrValid := true, time := 1000000 } }
/-- The head of a chain, with address 0. -/
def chainHead : State := { up with chain := { bypass := false, addrValid := true, head := true, granted := [0, 2] } }

theorem witness_ChainFrames :
    chained.hears { ty := 1 } 1 = true ∧ chained.hearsNew { ty := 3 } 3 = true ∧ chained.chain.head = false ∧
    chained.chain.bypass = false ∧ State.reset.chain.bypass = true ∧ ({ gen := 2 } : Frame).gen ≠ 1 ∧
    ({ chained with chain := { chained.chain with seqSeen := [(1, 9)] } } : State).chain.seqSeen.contains (1, 9) = true ∧
    chainHead.hears { ty := 4 } 4 = true ∧ chainHead.chain.head = true ∧ chainHead.chain.tail = false := by decide
theorem witness_ChainFrames_delays :
    let v (ps : Nat) : Nat := (ps + 1000000 + 9999) / 10000
    v 5000000 ≤ 600 ∧ 600 ≤ v 5000000 + 100 ∧ 599 < v 5000000 ∧ v 5000000 + 100 < 701 := by decide
/-- R280: a DELAY frame is passed on with the module's hop delay added. -/
theorem test_delay_frame :
    let s : State := { chained with chain := { chained.chain with h := 7 } }
    (after (.delayFrame { ty := 3, body := 35 } true) s).out = [.frameDn { ty := 3, body := 42 }] := by decide
/-- R270: a frame that fails its CRC is dropped and counted. -/
theorem test_frame_crc : (after (.enumFrame { ty := 1 } false) chained).chain.frameErr = 1 := by decide

theorem witness_ChainAddresses :
    chained.hearsNew { ty := 1, body := 4094 } 1 = true ∧ (4094 : W32).toNat % 2 ^ 13 ≤ 4094 ∧
    4094 < (4095 : W32).toNat % 2 ^ 13 ∧ chainHead.hears { ty := 2, body := 3 } 2 = true ∧
    chained.hearsNew { ty := 12 } 12 = true ∧ chainHead.hears { ty := 12 } 12 = true ∧ chainHead.hears { ty := 6 } 6 = true ∧
    chained.hearsNew { ty := 7 } 7 = true ∧ chained.hearsNew { ty := 8 } 8 = true := by decide
theorem witness_ChainAddresses_grants :
    chainHead.start.img.joinLowest = false ∧ 4094 ∉ chainHead.chain.granted ∧ chainHead.chain.lowestAddr = some 1 ∧
    2 ∈ chainHead.chain.granted ∧
    ({ chained with chain := { chained.chain with port := 4, nonce := 9 } } : State).chain.port = 4 := by decide
theorem witness_ChainAddresses_repeat :
    let s : State := { chainHead with chain := { chainHead.chain with joined := [(9, 4)] } }
    s.hears { ty := 6 } 6 = true ∧ s.chain.joined.find? (fun z => z.1 = (9 : BitVec 19)) = some (9, 4) ∧
    s.chain.joined.find? (fun z => z.1 = (8 : BitVec 19)) = none := by decide
/-- R271: ENUM gives the address it carries. -/
theorem test_enum : (after (.enumFrame { ty := 1, body := 7 } true) chained).chain.addr = 7 := by decide +kernel

theorem witness_ChainAbsence :
    chainHead.hears { ty := 9, body := 2 } 9 = true ∧ 2 ∉ chainHead.chain.declared ∧
    ({ chainHead with chain := { chainHead.chain with declared := [2] } } : State).chain.declared.contains 2 = true ∧
    chained.hearsNew { ty := 10 } 10 = true ∧ chained.hearsNew { ty := 11 } 11 = true ∧
    chainHead.hears { ty := 11, body := 0x40000000 } 11 = true ∧ (0x40000000 : W32).getLsbD 30 = true ∧
    chained.hearsNew { ty := 13 } 13 = true ∧ chainHead.hears { ty := 14 } 14 = true ∧ chained.hearsNew { ty := 15 } 15 = true := by
  decide
theorem witness_ChainAbsence_resend :
    let s : State := { chained with chain := { chained.chain with unacked := [({ ty := 6 }, 16), ({ ty := 9 }, 17)] } }
    s.chain.unacked.find? (fun x => x.1.ty = 6) = some ({ ty := 6 }, 16) ∧
    s.chain.unacked.find? (fun x => x.1.ty = 9) = some ({ ty := 9 }, 17) ∧
    ({ chainHead with chain := { chainHead.chain with census := true } } : State).chain.census = true := by decide
theorem witness_ChainMarks :
    let s : State := { up with job := { st := .set }, chain := { bypass := false, head := true, tail := true, time := 2000, d := 5 } }
    s.chain.tail = true ∧ s.ownReady = true ∧ s.chain.tsPrev + 2 * s.chain.d.toNat + 400 < s.chain.time ∧
    s.chain.tsPrev + 2000 ≤ s.chain.time ∧ chained.chain.head = false ∧ chained.chain.bypass = false ∧
    State.reset.chain.head = false ∧ up.pwr.good = true := by decide
theorem witness_ChainMarks_splice :
    let s (t : Nat) : State := { up with chain := { port := 1, refLocked := true, time := t } }
    (s 100).chain.bypass = true ∧ 7 ≤ (s 100).start.phase.toNat ∧ (s 100).chain.tsPrev + 100 ≤ (s 100).chain.time ∧
    (s 300).chain.time ≤ (s 300).chain.tsPrev + 300 ∧ (s 99).chain.time < (s 99).chain.tsPrev + 100 ∧
    (s 301).chain.tsPrev + 300 < (s 301).chain.time := by decide
theorem witness_ChainMarks_refLoss :
    let s : State := { up with chain := { port := 1 } }
    s.chain.head = false ∧ s.chain.bypass = true ∧ s.chain.port = 1 ∧ 7 ≤ s.start.phase.toNat ∧ s.job.st ≠ .failed ∧
    ({ s with start := { phase := 6 } } : State).start.phase.toNat < 7 := by decide
/-- R269, R272: a port that listens at chain enumeration and loses REF enumerates as head. -/
theorem test_refLoss_listening :
    let u := after .refLoss { up with chain := { port := 1 } }
    u.chain.head = true ∧ u.chain.bypass = false ∧ u.chain.port ≠ 1 := by decide +kernel
theorem test_rdy_of_the_tail :
    (after (.rdyInChange false) { up with chain := { tail := true } }).chain.rdyIn = true := by decide

/-! ## Evrok links -/

/-- A flit of content bytes, each segment with its CRC (R249). -/
def sealed (content : List Byte) : List Byte :=
  (List.range 8).flatMap (fun i =>
    let seg := slice content (62 * i) 62
    seg ++ leBytes 2 (crc16 seg).toNat)
/-- A content of 496 bytes with single bytes set. -/
def contentOf (bs : List (Nat × Byte)) : List Byte := (List.range 496).map (fun i => SMap.get 0 bs i)
/-- A DATA flit with sequence number 0 that carries a packet for module 5. -/
def dataFlit5 : List Byte := sealed (contentOf [(7, 0x10), (15, 0x80), (30, 0x50)])
/-- Link 3 UP, with credits from its partner; `ch` is what it keeps to send and receive. -/
def linkedWith (ch : LinkCh) : State :=
  { chained with lnk := { links := [(3, { state := 2, live := 0xFF, pCap := 0x1103070880040000, ch := ch })] } }
def linked : State := linkedWith {}
/-- A CTRL flit with sequence number 0 that carries RETIRE of lane 7, and an IDLE flit with a nak of number 0. -/
def ctrlFlit : List Byte := sealed (contentOf [(7, 0x18), (8, 0x0F), (15, 3)])
def nakFlit : List Byte := sealed (contentOf [(3, 2), (7, 0x14)])

theorem witness_LinkFlits :
    (linked.link 3).carries = true ∧ (linked.link 4).carries = false ∧ badSegments dataFlit5 = [] ∧
    flitHeader dataFlit5 / 2 ^ 60 % 16 = 1 ∧ flitHeader dataFlit5 / 2 ^ 25 % 2 = 0 ∧
    flitSeq dataFlit5 = (linked.link (linked.leader 3)).ch.rxSeq ∧ flitKind dataFlit5 = 0 ∧
    (linked.link (linked.leader 3)).ch.sinceAck < 31 ∧ (linked.link (linked.leader 3)).ch.rxBytes = [] ∧
    badSegments ((1 : Byte) :: dataFlit5.drop 1) = [0] := by decide +kernel
theorem witness_LinkFlits_ctrl :
    badSegments ctrlFlit = [] ∧ flitHeader ctrlFlit / 2 ^ 60 % 16 = 1 ∧ flitHeader ctrlFlit / 2 ^ 25 % 2 = 0 ∧
    flitKind ctrlFlit = 2 ∧ flitSeq ctrlFlit = (linked.link (linked.leader 3)).ch.rxSeq := by decide +kernel
theorem witness_LinkFlits_nak :
    let s := linkedWith { replayBuf := [{ seq := 5 }] }
    badSegments nakFlit = [] ∧ flitHeader nakFlit / 2 ^ 60 % 16 = 1 ∧ flitHeader nakFlit / 2 ^ 25 % 2 = 1 ∧
    flitKind nakFlit = 1 ∧ flitSeq nakFlit = (s.link 3).ch.rxSeq ∧
    (s.link 3).ch.replayBuf.findIdx? (fun t => t.seq = BitVec.ofNat 16 (flitHeader nakFlit / 2 ^ 26)) = none ∧
    (s.link 3).ch.replayBuf ≠ [] := by decide +kernel
/-- R252: the CTRL flit retires lane 7. -/
theorem test_ctrl_flit : ((after (.dataFlit 3 ctrlFlit) linked).link 3).retired = 0x80 := by decide +kernel
/-- R254: a nak sends again what has no ack, counted once. -/
theorem test_nak :
    let u := after (.idleFlit 3 nakFlit) (linkedWith { replayBuf := [{ seq := 5 }] })
    u.out.length = 1 ∧ (u.link 3).replays = 1 := by decide +kernel
theorem content_of_dataFlit5 : flitContent dataFlit5 = contentOf [(7, 0x10), (15, 0x80), (30, 0x50)] := by decide +kernel
theorem witness_LinkFlits_packet :
    let body := (flitContent dataFlit5).drop 8
    body.length = 488 ∧ leNat (body.take 8) = 2 ^ 63 ∧ 2 ^ 63 % 2 ^ 20 = 0 ∧ 48 + 2 ^ 63 / 2 ^ 45 % 2 ^ 9 ≤ 488 ∧
    (∀ b ∈ body.drop 40, b = 0) ∧ linked.isSelf (packetModule (parseHeader ((body.drop 8).take 32))) = false := by
  rw [content_of_dataFlit5]; decide +kernel
theorem witness_LinkFlits_out_of_sequence :
    let s := linkedWith { rxSeq := 1, replayBuf := [{}] }
    flitSeq dataFlit5 ≠ (s.link (s.leader 3)).ch.rxSeq ∧ (s.link (s.leader 3)).ch.replayBuf ≠ [] := by decide +kernel
theorem witness_LinkFlits_bonds :
    let s (st : BitVec 4) : State := { linked with lnk := { linked.lnk with links := [(3, { state := st, live := 1, ch := { replayBuf := [{}] } })] } }
    (linked.link 3).ch.ctlWait = [] ∧ linked.joinsSoon 3 = false ∧ (s 2).bondUp 3 = true ∧ (s 3).bondUp 3 = false ∧
    (s 2).joinsSoon 3 = false ∧ ((s 2).link 3).ch.replayBuf ≠ [] := by decide +kernel
/-- R261: a link that changes its width sends nothing again meanwhile. -/
theorem test_no_replay_in_retraining :
    let s : State := { linked with lnk := { linked.lnk with links := [(3, { state := 3, live := 1, ch := { replayBuf := [{}] } })] } }
    after (.replayTimeout 3) s = s := by decide +kernel
/-- R249: the check word of 123456789 with polynomial 0x1021 from 0xFFFF. -/
theorem test_crc16 : crc16 [0x31, 0x32, 0x33, 0x34, 0x35, 0x36, 0x37, 0x38, 0x39] = 0x29B1 := by decide +kernel
/-- R251, R254: a flit in sequence gives its packet to the module's routing. -/
theorem test_data_flit :
    (after (.dataFlit 3 dataFlit5) linked).net.flight.map (fun f => packetModule f.pkt) = [5] := by decide +kernel

/-- Cage 1 holds a cable; link 2 trains. -/
def training : State := { chained with lnk := { cage := 2, links := [(2, { state := 1 }), (3, { state := 2 })] } }
theorem witness_LinkStates :
    (training.link 3).bond = 0xF ∧ (training.link 3).carries = true ∧
    16 ≤ (({ training with lnk := { links := [(3, { state := 2, ch := { failed := 16 } })] } } : State).link 3).ch.failed ∧
    training.lnk.cage.getLsbD 2 = false ∧ training.lnk.cage.getLsbD 1 = true ∧ training.chain.head = false ∧
    (training.link 2).bond = 0xF := by decide
theorem witness_LinkStates_retrain :
    let s : State := { training with lnk := { cage := 2, links := [(2, { state := 4, cause := 1 })] } }
    (s.link 2).state = lkDown ∧ (s.link 2).cause = 1 ∧ s.canTrain 2 = true ∧ s.lnk.cage.getLsbD 0 = false ∧
    s.lnk.cage.getLsbD 1 = true ∧ (s.link 2).bond = 0xF ∧ (s.link 3).bond = 0xF ∧ s.lnk.cut.getLsbD 1 = false ∧
    (({ s with lnk := { links := [(2, { state := 4, cause := 8 })] } } : State).link 2).state = lkDown := by decide
theorem witness_LinkStates_stays :
    let s : State := { training with lnk := { cage := 2, links := [(2, { state := 5, cause := 4 }), (3, { state := 2 })] } }
    (s.link 2).state = lkFailed ∧ (s.link 3).state ≠ 0 ∧ (s.link 3).state ≠ lkFailed ∧ s.lnk.cut.getLsbD 1 = false := by decide
/-- R283, R475: a FAILED link stays FAILED when its cage loses its supply. -/
theorem test_overcurrent_leaves_failed :
    let s : State := { training with lnk := { cage := 2, links := [(2, { state := 5, cause := 4 })] } }
    ((after (.cageOvercurrent 1) s).link 2).state = 5 ∧ ((after (.cageOvercurrent 1) s).link 3).state = 0 := by decide +kernel
/-- R283: a link whose cable is out is EMPTY again in the end. -/
theorem test_empty_again :
    ((after (.linkRetrainTimer 2) { training with lnk := { links := [(2, { state := 4, cause := 8 })] } }).link 2).state = 0 := by
  decide
theorem witness_LinkStates_training :
    training.canTrain 2 = true ∧ (training.link 2).state = lkTraining ∧ (training.link 2).bond = 0xF ∧
    (∃ g, negotiate ({} : TrainResult).partnerCap = some g) ∧ negotiate 0 = none ∧
    widest (~~~({} : TrainResult).lanesFull) (min 8 ((({} : TrainResult).partnerCap &&& ~~~0xFF).extractLsb' 32 8).toNat) =
      some (8, 255) ∧ widest (~~~({ lanesFull := 0, lanesHalf := 1 } : TrainResult).lanesHalf) 7 = none ∧
    ({ signal := false } : TrainResult).signal = false ∧ (153 : Nat) > 152 := by
  refine ⟨by decide, by decide, by decide, ⟨1, by decide⟩, by decide, by decide, by decide, by decide, by decide⟩
/-- R256: all lanes at 212.5 Gb/s come UP at width 8; R257: too much loss leaves the link FAILED with cause 5. -/
theorem test_training_done :
    ((after (.linkTrainingDone 2 {}) training).link 2).state = lkUp ∧
    ((after (.linkTrainingDone 2 {}) training).link 2).width = 8 ∧
    ((after (.linkTrainingDone 2 { lossHalf := 153 }) training).link 2).cause = 5 := by decide +kernel

theorem witness_LinkMessages :
    (∃ g, negotiate (0x1103070880040000 : Word) = some g) ∧ negotiate ((0 : BitVec 56).setWidth 64 <<< 8) = none ∧
    (linked.link 3).bond = 0xF ∧ linked.chain.addrValid = true ∧ (2 : BitVec 13) = linked.chain.addr ∧
    (0x20002 : BitVec 56).getLsbD 17 = true ∧ (0x20002 : BitVec 56).extractLsb' 0 13 = 2 ∧
    (linked.link 3).retired.getLsbD 7 = false ∧ (linked.link 4).carries = false ∧ linked.chain.head = false := by
  refine ⟨⟨1, by decide⟩, by decide, by decide, by decide, by decide, by decide, by decide, by decide, by decide, by decide⟩
theorem witness_LinkMessages_lanes :
    let s (e : BitVec 16) : State := { linked with lnk := { links :=
      [(3, { state := 2, live := 0xFF, locked := 0xFF, retired := 1, laneErr := [(7, { window := e })] }), (5, { state := 3 }),
        (6, { state := 7 })] } }
    ((s 64).link 3).retired.getLsbD 0 = true ∧ ((s 64).link 3).carries = true ∧ ((s 64).link 5).state = lkRetraining ∧
    (s 64).start.img.laneErrLimit ≤ (SMap.get {} ((s 64).link 3).laneErr 7).window.toNat ∧
    (SMap.get {} ((s 63).link 3).laneErr 7).window.toNat < (s 63).start.img.laneErrLimit ∧
    ((s 64).link 3).locked &&& ~~~(1#8 <<< 7) ≠ 0 ∧ ((s 64).link 6).state = lkStandby ∧ (s 64).chain.head = false ∧
    ((s 64).link 3).retired.getLsbD 7 = false ∧ ((List.range 12).filter (fun m => ((s 64).link m).carries &&
      ((s 64).link m).pValid && decide (((s 64).link m).pAddr = ((s 64).link 6).pAddr) &&
      nearLength ((s 64).link m).lengthCm.toNat ((s 64).link 6).lengthCm.toNat)).length < 4 := by decide
theorem witness_LinkMessages_standby :
    let s : State := { linked with lnk := { linked.lnk with links := [(6, { state := 7 })] } }
    (s.link 6).state = lkStandby ∧ (s.link 6).bond = 0xF ∧
    ((List.range 12).filter (fun m => (decide ((s.link m).bond ≠ 0xF) || (s.link m).carries && (s.link m).pValid) &&
      decide ((s.link m).pAddr = (s.link 6).pAddr) &&
      nearLength (s.link m).lengthCm.toNat (s.link 6).lengthCm.toNat)).length < 4 := by decide
theorem witness_LinkMessages_waits :
    (linked.link (linked.leader 3)).ch.ctlWait = [] ∧ linked.replayRoom (linked.leader 3) = true ∧
    (linkedWith { ctlWait := [(3, 5)] }).link 3 = { linked.link 3 with ch := { ctlWait := [(3, 5)] } } := by decide +kernel
/-- A TADD for module 5 in flight, with a route over link 3. -/
def routed : State := { linked with
  lnk := { linked.lnk with routes := [(5, { hops := 1, links := 8 })] }
  net := { flight := [{ pkt := { op := 4, dst := 0x0050000000000000, srcModule := 2 }, hops := 30 }] } }
theorem witness_Routing :
    let p : Packet := { op := 4, dst := 0x0050000000000000, srcModule := 2 }
    routed.net.flight[0]? = some { pkt := p, hops := 30 } ∧ packetModule p = 5 ∧
    routed.isSelf 5 = false ∧ routed.inTurn p = true ∧ routed.absent 5 = false ∧ routed.candidates p = [3] ∧
    routed.net.routeWait.any (fun x => routed.sameStream x { pkt := p, hops := 30 }) = false ∧ routed.linkForm 3 p = (0, true) ∧
    ((linkBytes { pkt := p, hops := 31 } 0 true).length + 63) / 64 + (routed.link 3).ch.usedReq ≤ routed.granted 3 false ∧
    routed.replayRoom 3 = true ∧ routed.leader 3 = 3 ∧ routed.isSelf 2 = true ∧
    ({ routed with lnk := { links := [] } } : State).absent 5 = true := by decide +kernel
theorem witness_Routing_waits :
    let p : Packet := { op := 4, dst := 0x0050000000000000, srcModule := 2 }
    let s : State := { routed with lnk := { routed.lnk with links := [] } }
    let n : State := { routed with lnk := { routed.lnk with links := [(3, { state := 2 })] } }
    let t : State := { routed with net := { flight := [{ pkt := { p with aux := 1 } }, { pkt := p }] } }
    s.absent 5 = false ∧ s.candidates p = [] ∧ n.candidates p = [3] ∧ n.granted 3 false = 0 ∧
    ({ s with net := { routeWait := s.net.flight } } : State).net.routeWait.any (fun x => s.sameStream x { pkt := p, hops := 30 }) = true ∧
    t.inTurn p = false := by decide +kernel
theorem witness_Routing_joins :
    routed.joinsSoon 3 = false ∧
    ({ routed with lnk := { routed.lnk with links := [(3, { state := 2, ch := { replayBuf := List.replicate 1024 {} } })] } } :
      State).replayRoom 3 = false := by decide +kernel
/-- R171: a packet is not sent before one that set out earlier on its way. -/
theorem test_in_turn :
    let s : State := { routed with net := { flight := [{ pkt := { op := 4, dst := 0x0050000000000000, srcModule := 2, aux := 1 } },
      { pkt := { op := 4, dst := 0x0050000000000000, srcModule := 2 } }] } }
    after (.linkForward 1) s = s ∧ (after (.linkForward 0) s).out.length = 1 := by decide +kernel
theorem witness_Routing_install :
    let s : State := chained
    s.job.reenum = none ∧ s.computeRoutes = s.lnk.routes := by decide +kernel
/-- R266, R267: a packet at its 32nd link is discarded, and its issuer gets PEER_ABSENT. -/
theorem test_hop_limit :
    let s : State := { routed with net := { flight := routed.net.flight.map (fun f => { f with hops := 31 }) } }
    (after (.linkForward 0) s).net.flight.map (fun f => (f.pkt.op, f.pkt.status)) = [(5, stAbsent)] := by decide +kernel


/-! ## Host ports and commands -/

/-- Both host ports up. -/
def hosted : State := { up with ports := [(0, { up := true }), (1, { up := true })] }

theorem witness_HostWrites :
    let pk : Packet := { op := 4, dst := 0xFFF0000000000800, aux := 1, srcModule := 0xFFF, srcUnit := 581 }
    hosted.reaches (.bar0 1) = true ∧ lowestFree (hosted.port 1).slots 63 = some 0 ∧ hosted.routable pk = true ∧
    (List.replicate 16 (0 : Byte)).length = 16 ∧ (List.replicate 8 (0 : Byte)).length ≠ 16 := by decide
theorem witness_HostWrites_lists :
    let x := SMap.get {} (hosted.port 1).lists 7
    let s : State := { hosted with ports := [(1, { up := true, lists := [(7, { enable := true })] })] }
    x.enable = false ∧ (4 ≤ (4 : BitVec 5).toNat ∧ (16 : BitVec 5).toNat ≤ 16) ∧ (3 : BitVec 5).toNat < 4 ∧
    16 < (17 : BitVec 5).toNat ∧ (SMap.get {} (s.port 1).lists 7).enable = true ∧
    (2 ^ 46 - 2 ^ 12) % 2 ^ 12 = 0 ∧ (2 ^ 46 - 2 ^ 12) / 2 ^ 46 = 0 := by decide
theorem witness_HostWrites_aperture :
    let size := 2 ^ (hosted.port 1).bar2Log
    (0 : Nat) % size = 0 ∧ 0 + size ≤ 2 ^ 39 ∧ ¬(2 ^ 30 % size = 0 ∧ 2 ^ 30 + size ≤ 2 ^ 39) ∧ hosted.job.st ≠ .unset ∧
    (2 : Word).getLsbD 1 = true ∧ (1 : Word).getLsbD 1 = false ∧ (hosted.core 0).run.state ≠ .reset := by decide
theorem witness_HostWrites_inReset :
    let s : State := { hosted with cores := [] }
    s.reaches (.bar0 1) = true ∧ (s.core 0).run.state = .reset := by decide
theorem witness_HostWrites_notifiers :
    let s : State := { hosted with ports := [(1, { up := true, notify := [(9, { reg := some 0 }), (10, { reg := some 2 })] })] }
    (∃ i : BitVec 6, ∀ y ∈ (s.port 1).notify, y.2.reg ≠ some i) ∧ (s.port 1).freshTag = 1 ∧
    ({ op := 6, dst := 0x800, aux := 7, srcModule := s.self, srcUnit := 581, tag := 1 } : Packet).aux ≠ 0 := by
  refine ⟨⟨1, by decide +kernel⟩, by decide +kernel, by decide⟩
theorem witness_HostWrites_configuration :
    let b (n : Nat) : Nat := 20 + (BitVec.ofNat 8 n).toNat % 64
    hosted.reaches (.cfg 1) = true ∧ (hosted.port 1).pba = 0 ∧ ((0x44 : Byte) &&& 3 = 0) ∧ ((3 : Byte) &&& 3 = 3) ∧
    30 ≤ b 10 ∧ b 19 ≤ 39 ∧ (hosted.port 1).apBase.toNat * 2 ^ 30 % 2 ^ 39 = 0 ∧
    (hosted.port 1).apBase.toNat * 2 ^ 30 + 2 ^ 39 ≤ 2 ^ 39 ∧ b 9 < 30 ∧ 39 < b 20 := by decide
/-- R412: MSI-X is enabled and the function masked by the message control of the configuration space. -/
theorem test_msix_enable :
    let q := (after (.registerWrite (.cfg 1) 0x53 [0xC0]) hosted).port 1
    q.msixEn = true ∧ q.maskAll = true ∧ ((after (.registerWrite (.cfg 1) 0x209 [10]) hosted).port 1).bar2Log = 30 := by
  decide +kernel
/-- R438: a core in reset reads CORE_CYCLE as its reset value, and a write to its read-only word counts nothing. -/
theorem test_core_in_reset :
    let s : State := { hosted with cores := [], pwr := { hosted.pwr with coreClk := 5 } }
    s.ctlWord 0 0x3000010 = some 0 ∧
    (after (.registerWrite (.bar0 0) 0x3000010 [1, 0, 0, 0, 0, 0, 0, 0]) s).plb.log = s.plb.log := by decide +kernel
/-- R419: a base write stores the page number of the list. -/
theorem test_work_list_base :
    (SMap.get {} ((after (.hstWlWrite 1 7 0 [0, 0x20, 0, 0, 0, 0, 0, 0]) hosted).port 1).lists 7).base = 2 := by decide
/-- R142: bit 63 clears group 63 and no other. -/
theorem test_range_clear :
    let s : State := { hosted with ft := { range := [(0, { converted := 5 }), (567, { converted := 6 })] } }
    let u := after (.ftRangeClearWrite (.bar0 0) 0 [0, 0, 0, 0, 0, 0, 0, 0x80]) s
    (SMap.get {} u.ft.range 0).converted = 5 ∧ (SMap.get {} u.ft.range 567).converted = 0 := by decide

theorem witness_HostReads :
    hosted.reaches (.bar0 1) = true ∧ up.reaches (.bar0 1) = false ∧ barSize 0x18 3 = false ∧
    pathMaps (.bar4 1) 0xFFFF8 = false ∧ 0 < 2 ^ (hosted.port 1).bar2Log ∧
    hosted.badAt 0xFFF0000000000000 8 false = [] ∧ hosted.badAt 0xFFF0000000000000 8 true = [] ∧
    hosted.hitsBound 0xFFF0000000000000 8 = false := by decide
theorem witness_HostReads_configuration : ∀ q, RegPath.bar0 1 ≠ .cfg q := fun _ h => nomatch h
/-- R388: a configuration read gives the vendor and the device. -/
theorem test_identity_read : (after (.readClear (.cfg 0) 0 4) hosted).out = [.rdata [0x7C, 0x1F, 0x40, 0x27]] := by decide +kernel
/-- R391: what a host writes through BAR2 is what it reads. -/
theorem test_bar2 :
    (after (.bar2Read 0 0x100 2) (after (.bar2Write 0 0x100 [1, 2]) hosted)).out = [.rdata [1, 2]] := by decide
/-- R4: reading CLU_WAIT_USE clears its peak. -/
theorem test_read_clears :
    let s : State := { hosted with clusters := [(71, { peak := 9 })] }
    ((after (.readClear (.bar0 0) (0x2000028 + 0x10000 * 71) 8) s).cluster 71).peak = 0 := by decide

/-- A module whose list 3 of port 1 holds one command at 0x5000, rung by its tally at 0x800. -/
def listed (bytes : List (Nat × Byte)) : State := { hosted with
  ports := [(1, { up := true, lists := [(3, { enable := true, k := 4, base := 5, tally := 0x100 })] })]
  mem := up.mem.writeList ((0x800, 1) :: bytes.map (fun p => (0x5000 + p.1, p.2))) }
/-- A `dump` command (opcode 12, R400) of generation 1, and one of an opcode that the table does not have. -/
def dumpCmd : State := listed [(6, 0xC0), (7, 0x10)]
def badCmd : State := listed [(6, 0xF0), (7, 0x10)]
theorem witness_CommandEngine :
    dumpCmd.pwr.good = true ∧ dumpCmd.start.inReset = false ∧ dumpCmd.job.st ≠ .unset ∧ dumpCmd.nextList = some 11 ∧
    hosted.nextList = none ∧
    (let bs := dumpCmd.fastBytes 0x5000 64
     let k := parseCmd 1 3 0 bs
     leNat (bs.take 8) / 2 ^ 60 % 16 = 1 ∧ k.opcode = 12 ∧ dumpCmd.check k 1 = none) ∧
    (let k := parseCmd 1 3 0 (badCmd.fastBytes 0x5000 64)
     badCmd.check k 1 = some .opcode) := by decide +kernel
theorem witness_CommandEngine_start :
    let p : Cmd := { opcode := 4, course := courseNow }
    let s : State := { up with job := { st := .running, isOpen := true, taken := [p] }, msn := { lift := { closedValid := true } } }
    let h : State := { s with job := { s.job with holds := [7] } }
    s.job.taken[0]? = some p ∧ p.opcode ≠ 1 ∧ s.isDue p = true ∧ h.job.holds ≠ [] ∧
    p.opcode.toNat ∈ [2, 3, 4, 5, 7, 8, 9, 14] ∧ s.job.holds = [] ∧
    ({ s with job := { s.job with taken := [] } } : State).checkStart p = none ∧
    ({ s with job := { s.job with taken := [] } } : State).checkStart { p with lift := 5 } = some .lift := by decide
/-- R397: the engine takes the command and counts it. -/
theorem test_fetch :
    let u := after .commandFetch dumpCmd
    u.job.taken.map (fun k => k.opcode) = [12] ∧ (u.port 1).taken = 1 := by decide +kernel
/-- R411: an opcode that the table does not have is refused. -/
theorem test_refuse :
    let u := after .commandFetch badCmd
    u.job.taken = [] ∧ (u.port 1).refused = 1 := by decide +kernel

/-- A module in which command `k` has started. -/
def started (k : Cmd) : State := { up with job := { st := .running, isOpen := true, started := [k] } }
theorem witness_CommandActions :
    let k : Cmd := { opcode := 1 }
    let s : State := { started k with job := { (started k).job with runs := [{ cmd := k, active := true }] } }
    let l : State := { started k with
      job := { (started k).job with runs := [{ cmd := k, active := true, load := true, programs := 0x6000, progCount := 1 }] }
      mem := up.mem.writeList [(0x6007, 0x10)] }
    k ∈ s.job.started ∧ s.job.activeRun = some { cmd := k, active := true } ∧ s.jobPeerLost = false ∧
    l.job.activeRun.isSome = true ∧
    (∀ p, l.job.activeRun = some p → p.load = true ∧ ∃ e, l.progEntries p = [e] ∧ e.cores = [0] ∧ e.ctx < 8) := by
  refine ⟨by decide, by decide, by decide +kernel, by decide, fun p h => ?_⟩
  have e : p = { cmd := { opcode := 1 }, active := true, load := true, programs := 0x6000, progCount := 1 } :=
    Option.some.inj (h.symm.trans rfl)
  subst e
  refine ⟨rfl, _, rfl, ?_, ?_⟩ <;> decide +kernel
/-- R405, R170: the start pointer of a program goes to its save area. -/
theorem test_run_loads_ip :
    let k : Cmd := { opcode := 1 }
    let l : State := { started k with
      job := { (started k).job with runs := [{ cmd := k, active := true, load := true, programs := 0x6000, progCount := 1 }] }
      mem := up.mem.writeList [(0x6001, 0x70), (0x6006, 0xF0), (0x6007, 0xFF), (0x7007, 0x10), (0x7010, 0x48)] }
    (after (.run k) l).mem.word (saveKey 0 0 + saveIps) = 0x48 ∧ ((after (.run k) l).core 0).run.loaded = 1 := by decide +kernel
theorem witness_CommandActions_update :
    let k : Cmd := { opcode := 2 }
    let s : State := { started k with msn := { lift := { updCopies := [(k, [{}])] } } }
    k ∈ s.job.started ∧ s.msn.lift.updCopies.find? (fun x => x.1 = k) = some (k, [{}]) ∧
    ({ opcode := 3 } : Cmd) ∈ (started { opcode := 3 }).job.started ∧ ({ opcode := 1 } : Cmd) ∉ (started k).job.started := by
  decide
theorem witness_CommandActions_pins :
    let s (n : BitVec 16) : State := { started { opcode := 4, lift := 5 } with
      msn := { lift := { closed := 5, closedValid := true, prevIntact := true, pinsClosed := n } } }
    ({ opcode := 4, lift := 5 } : Cmd) ∈ (s 0).job.started ∧ (s 0).msn.lift.pins 5 ≠ 0xFFFF ∧
    (s 0xFFFF).msn.lift.pins 5 = 0xFFFF ∧ (s 0).msn.lift.pins 5 = 0 ∧ (s 1).msn.lift.pins 5 ≠ 0 ∧
    ((4 : Word) + 1 = (s 0).msn.lift.closed ∧ (4 : Word).toNat < (s 0).msn.lift.closed.toNat) := by decide
theorem witness_CommandActions_others :
    (511 : Word).toNat % 512 ∉ up.ft.retired ∧ up.ft.retired.length < 7 ∧ up.job.dump = none ∧
    ({ up with job := { dump := some {} } } : State).job.dump ≠ none := by decide
/-- R337: a pin on the closed lift raises its count. -/
theorem test_pin :
    (after (.pin { opcode := 4, lift := 5 }) { started { opcode := 4, lift := 5 } with
      msn := { lift := { closed := 5, closedValid := true } } }).msn.lift.pinsClosed = 1 := by decide +kernel
/-- R451: `shed_ack` brings the deepest step back to the present one. -/
theorem test_shed_ack :
    let k : Cmd := { opcode := 13, a := 4 }
    (after (.shedAck k) { started k with pwr := { up.pwr with step := 1, deepest := 4 } }).pwr.deepest = 1 := by decide +kernel

/-! ## Rewinds and replays -/

/-- A STOP that has begun, of lift 5, in a module that has nothing in flight. -/
def stopping (r : Rewind) (l : Lift) : State := { up with
  job := { st := .rewinding, rewind := some r, frozen := true, masonStop := true }
  msn := { lift := l } }
theorem witness_Stops :
    let k : Cmd := { opcode := 6, lift := 5 }
    k ∈ (started k).job.started ∧ k.opcode.toNat = 6 ∧ k.sub.toNat = 0 := by decide
theorem witness_Stops_end :
    let s := stopping { lift := 5 } { closed := 5, closedValid := true }
    let busy : State := { s with cores := [(0, { eng := { copies := [(0, {})] } })] }
    s.job.rewind = some { lift := 5 } ∧ s.quiesced = true ∧ busy.quiesced = false ∧ s.job.st ≠ .failed ∧
    (placeSpares s.start.img.spares (s.plb.replacements ++ s.markedCores.map
      (fun c => { die := coreDie c, grid := coreGrid c }))).isSome = true := by decide +kernel
theorem witness_Stops_lifts :
    let a := (stopping { lift := 5 } { closed := 5, closedValid := true, prevIntact := true }).msn.lift
    let b := (stopping { lift := 5 } { closed := 6, closedValid := true, prevIntact := true }).msn.lift
    let c := (stopping { lift := 5 } { closed := 6, closedValid := true }).msn.lift
    a.closed = 5 ∧ (b.closed = 5 + 1 ∧ (b.prevIntact && decide (b.openState = 0)) = true) ∧
    (c.closed ≠ 5 ∧ (c.prevIntact && decide (c.openState = 0)) = false) := by decide
/-- R367, R402: a STOP discards what has been taken and freezes strands and Masons. -/
theorem test_stop_begins :
    let k : Cmd := { opcode := 6, lift := 5 }
    let s : State := { started k with job := { (started k).job with taken := [{ opcode := 3 }] } }
    let u := after (.rewindStop k) s
    u.job.taken = [] ∧ u.job.st = .rewinding ∧ u.job.frozen = true := by decide +kernel

theorem witness_Resume :
    let k : Cmd := { opcode := 6, sub := 1, lift := 5 }
    k ∈ (started k).job.started ∧ k.opcode.toNat = 6 ∧ k.sub.toNat = 1 := by decide
theorem witness_Resume_end :
    let r : Rewind := { resume := true, arrival := 0xFFF0000000000800, arrivalValue := 1 }
    let s (v : Byte) (n : BitVec 3) : State := { stopping r { closedValid := true } with
      mem := up.mem.writeList [(0x800, v)], pwr := { up.pwr with step := n } }
    (s 1 0).job.rewind = some r ∧ (s 1 0).refaced = true ∧ (s 1 0).tallyReached r.arrival r.arrivalValue = true ∧
    (s 0 0).tallyReached r.arrival r.arrivalValue = false ∧ (s 1 3).pwr.step.toNat < 4 ∧ 4 ≤ (s 1 4).pwr.step.toNat := by
  decide +kernel

theorem witness_ExpiryAndReplay :
    let s := stopping { lift := 5 } {}
    let busy : State := { s with cores := [(0, { eng := { copies := [(0, {})] } })] }
    s.job.rewind = some { lift := 5 } ∧ s.plb.computing = none ∧ s.quiesced = true ∧ busy.quiesced = false := by
  decide +kernel
theorem witness_ExpiryAndReplay_waiting :
    let s := stopping { lift := 5 } {}
    let busy : State := { s with cores := [(0, { eng := { copies := [(0, {})] } })] }
    busy.quiesced = false ∧ busy.quiesceReset = false ∧ busy.plb.dumpState ≠ 1 ∧
    ({ busy with plb := { dumpState := 1 } } : State).plb.dumpState = 1 ∧
    ({ busy with plb := { resetReq := [(1, 3)] } } : State).quiesceReset = true ∧ up.job.rewind = none ∧ up.job.replay = none := by
  decide +kernel
theorem witness_ExpiryAndReplay_replay :
    let k : Cmd := { opcode := 11 }
    let s : State := { started k with
      job := { (started k).job with runs := [{ active := true, courseLen := 2000 }] }
      cores := [(0, { eng := { copies := [(0, {})] } })] }
    k ∈ s.job.started ∧ s.job.st = .running ∧ s.job.activeRun = some { active := true, courseLen := 2000 } ∧
    s.job.rewind = none ∧ s.quiesced = false := by decide +kernel
theorem witness_ExpiryAndReplay_held :
    let k : Cmd := { opcode := 11, b := 1 }
    let s : State := { up with job := { st := .held, holds := [1], started := [k] } }
    let t : State := { s with cores := [(0, { eng := { copies := [(0, {})] } })] }
    k ∈ s.job.started ∧ k.opcode = 11 ∧ s.job.st = .held ∧ s.job.rewind = none ∧ s.quiesced = true ∧ t.quiesced = false := by
  decide +kernel
/-- A replay that is yet to begin, of a module that has quiesced or not. -/
def replaying (busy : Bool) : State := { up with
  job := { st := .held, frozen := true, masonStop := true, holds := [6], replay := some { cmd := { opcode := 11 }, limit := 100 } }
  cores := [(7, { run := { state := .running }, eng := { copies := if busy then [(0, {})] else [] } })] }
theorem witness_ExpiryAndReplay_begins :
    (replaying true).job.rewind = none ∧
    (replaying true).job.replay = some { cmd := { opcode := 11 }, limit := 100 } ∧ (replaying false).quiesced = true ∧
    (replaying true).quiesced = false ∧ (replaying true).plb.computing = none ∧ (replaying true).quiesceReset = false ∧
    ((List.range 576).filter (fun c => ((replaying true).core c).run.state = .running)) = [7] := by decide +kernel
theorem witness_ExpiryAndReplay_suspects :
    let s := replaying false
    let b : State := { s with clusters := [(coreCluster 7, { brokenClm := true })] }
    (0 : Nat) + 100 ≤ ({ s with chain := { time := 100 } } : State).chain.time ∧ s.chain.time < 0 + 100 ∧
    (s.cluster (coreCluster 7)).brokenClm = false ∧ (b.cluster (coreCluster 7)).brokenClm = true ∧
    (s.core 7).run.state ≠ .parked ∧ [7] = ([] : List Nat) ++ 7 :: [] := by decide +kernel
/-- R377, R378: with rw_quiesce expired the first suspect runs, and with no time left it is reported. -/
theorem test_replay_goes_on :
    ((after .rwQuiesceExpiry (replaying true)).job.replay.map (fun r => (r.current, r.left))) = some (some 7, []) ∧
    (let r : Replay := { cmd := { opcode := 11 }, left := [9], current := some 7, limit := 100 }
     let s : State := { replaying false with job := { (replaying false).job with replay := some r }, chain := { time := 100 } }
     (after .suspectDone s).job.replay = none) := by decide +kernel
theorem witness_ExpiryAndReplay_suspect :
    let r : Replay := { current := some 7, limit := 100, beganAt := 50 }
    let s (t : Nat) (c : CoreState) : State := { up with
      job := { st := .held, replay := some r }, chain := { time := t }, cores := [(7, { run := { state := c } })] }
    (s 0 .done).job.replay = some r ∧ r.left = [] ∧ ((s 0 .done).core 7).run.state = .done ∧
    ((s 0 .doneFault).core 7).run.state = .doneFault ∧ r.beganAt + r.limit ≤ (s 150 .running).chain.time ∧
    (s 149 .running).chain.time < r.beganAt + r.limit := by decide
theorem witness_ExpiryAndReplay_none :
    up.job.replay = none ∧ (replaying false).job.replay = some { cmd := { opcode := 11 }, limit := 100 } ∧
    ({ cmd := { opcode := 11 }, limit := 100 } : Replay).current = none := by decide

/-! ## Mirrors, drains and restores -/

/-- A module in which a mirror of lift 5 to partner 9 is in progress. -/
def mirroring (j : MirrorJob) (b : MirrorBlk) : State := { up with
  msn := { lift := { closed := 5, closedValid := true }, out := some j, blk := some b } }
theorem witness_Mirrors :
    let k : Cmd := { opcode := 9, lift := 5, a := 0x1000 }
    let s (b : Byte) : State := { started k with mem := up.mem.writeList [(0x1007, b)] }
    k ∈ (s 0x18).job.started ∧ k.opcode.toNat = 9 ∧ k.sub.toNat = 0 ∧ (s 0x18).msn.out = none ∧
    (parseMirror (((s 0x18).acting k).fastBytes (addrOff k.a) 256)).outEn = true ∧
    (parseMirror (((s 0x10).acting k).fastBytes (addrOff k.a) 256)).outEn = false := by decide +kernel
theorem witness_Mirrors_waiting :
    let k : Cmd := { opcode := 9, lift := 5, a := 0x1000 }
    let s : State := { started k with msn := { out := some {}, blk := some {} } }
    s.msn.out = some {} ∧ s.msn.blk = some {} ∧
    (parseMirror ((s.acting k).fastBytes (addrOff k.a) 256)).partner = 0 := by decide +kernel
theorem witness_Mirrors_return :
    let k : Cmd := { opcode := 9, sub := 1 }
    k ∈ (started k).job.started ∧ k.opcode.toNat = 9 ∧ k.sub.toNat = 1 ∧ (started k).msn.ret = none ∧
    ({ started k with msn := { retBases := [(k, 7)] } } : State).msn.retBases.find? (fun x => x.1 = k) = some (k, 7) ∧
    ({ started k with msn := { ret := some {} } } : State).msn.ret ≠ none := by decide
theorem witness_Mirrors_send :
    let j : MirrorJob := { lift := 5 }
    let b : MirrorBlk := { outEn := true, outRing := 0xFFF0000000100000 }
    let s := mirroring j b
    s.masonsWork = true ∧ s.paused = false ∧ s.anyTag = some (0, 0) ∧ j.allSent = false ∧ s.msn.kOut < 8 ∧
    (∀ p, packetModule p = addrModule (b.outRing + BitVec.ofNat 64 (s.msn.kOut % 8 * 2 ^ 20)) → s.routable p = true) ∧
    addrModule (b.outRing + BitVec.ofNat 64 (s.msn.kOut % 8 * 2 ^ 20) + BitVec.ofNat 64 1048575) =
      addrModule (b.outRing + BitVec.ofNat 64 (s.msn.kOut % 8 * 2 ^ 20)) := by
  refine ⟨by decide, by decide, by decide, rfl, by decide, ?_, by decide⟩
  intro p h
  have e : packetModule p = 0xFFF := h.trans (by decide)
  simp [State.routable, State.isSelf, e]
theorem witness_Mirrors_complete :
    let j : MirrorJob := { lift := 5, allSent := true, cmd := { done := 0xFFF0000000000800 } }
    let s : State := { mirroring j {} with mem := up.mem.writeList [(0x800, 1)] }
    s.masonsWork = true ∧ s.msn.out = some j ∧ j.allSent = true ∧ s.tallyReached j.cmd.done (j.doneBase + 1) = true ∧
    s.msn.outWait = [] ∧ ({ s with job := { s.job with masonStop := true } } : State).masonsWork = false ∧
    ({ s with pwr := { s.pwr with step := 2 } } : State).paused = true := by decide +kernel
theorem witness_Mirrors_next :
    let k : Cmd := { opcode := 9, lift := 5, a := 0x1000 }
    let j : MirrorJob := { lift := 5, allSent := true, cmd := { done := 0xFFF0000000000800 } }
    let s (b : Byte) : State := { mirroring j {} with
      mem := up.mem.writeList [(0x800, 1), (0x1007, b)], msn := { (mirroring j {}).msn with outWait := [k] } }
    (s 0x18).msn.outWait = k :: [] ∧ (s 0x18).tallyReached j.cmd.done (j.doneBase + 1) = true ∧
    (parseMirror ((s 0x18).fastBytes (addrOff k.a) 256)).outEn = true ∧
    (parseMirror ((s 0x10).fastBytes (addrOff k.a) 256)).outEn = false := by decide +kernel
/-- R341: a waiting mirror with out_en 0 ends, and does not keep the one behind it. -/
theorem test_waiting_mirrors :
    let k (a : Word) : Cmd := { opcode := 9, lift := 5, a := a }
    let j : MirrorJob := { lift := 5, allSent := true, cmd := { done := 0xFFF0000000000800 } }
    let s : State := { mirroring j {} with
      mem := up.mem.writeList [(0x800, 1), (0x1007, 0x10), (0x2007, 0x18)]
      msn := { (mirroring j {}).msn with outWait := [k 0x1000, k 0x2000] } }
    ((after .mirrorComplete s).msn.out.map (fun x => x.cmd.a)) = some 0x2000 := by decide +kernel
theorem witness_Mirrors_take :
    let b : MirrorBlk := { inEn := true, inRing := 0xFFF0000000100000, inFull := 0xFFF0000000000800, inFree := 0xFFF0000000000900 }
    let s : State := { mirroring {} b with mem := up.mem.writeList [(0x800, 1), (0x100007, 0x10)] }
    let h := parseChunk (s.fastBytes (addrOff b.inRing + s.msn.kIn % 8 * 2 ^ 20) 64)
    s.masonsWork = true ∧ s.paused = false ∧ s.msn.recv = none ∧ s.anyTag = some (0, 0) ∧
    s.tallyReached b.inFull (b.inBase + BitVec.ofNat 64 (s.msn.kIn + 1)) = true ∧ h.gen = 1 ∧ h.rsv = false ∧
    h.offset + h.len ≤ b.inSlot ∧ s.partnerRestore = false ∧ s.msn.recvBad = false ∧
    s.routable { s.masonHdr (0, 0) with op := 4, dst := b.inFree, aux := 1 } = true ∧
    s.slowBad (b.inRegion + h.lift.toNat % 2 * b.inSlot + h.offset) h.len = [] := by decide +kernel

theorem witness_Transfers :
    let k : Cmd := { opcode := 7, lift := 5 }
    let s : State := { started k with msn := { lift := { closed := 5 } } }
    k ∈ s.job.started ∧ k.opcode = 7 ∧ k.lift = s.msn.lift.closed ∧ s.msn.lift.pinsClosed ≠ 0xFFFF := by decide
/-- A module that drains its lift 5, or restores by command `k`. -/
def draining (k : Cmd) : State := { up with
  msn := { lift := { closed := 5, drainPin := some 5, pinsClosed := 1 }, xfer := { kind := 1, drain := some k } } }
def restoring (k : Cmd) : State := { up with msn := { xfer := { kind := 2, cmd := some k, chunksDone := true, facesDone := true } } }
theorem witness_Transfers_drain :
    let k : Cmd := { opcode := 7, lift := 5, b := 1 }
    let s := draining k
    s.msn.xfer.drain = some k ∧ s.msn.lift.drainPin = some s.msn.lift.closed ∧ s.msn.lift.pinsClosed ≠ 0 ∧
    s.paused = false ∧ s.msn.selfRefresh = false ∧ s.msn.xfer.cmd = none ∧
    ({ s with pwr := { s.pwr with step := 2 } } : State).paused = true := by decide
theorem witness_Transfers_restore :
    (∀ n : BitVec 4, n ∈ [0, 1, 2] → let k : Cmd := { opcode := 8, sub := n }
      k ∈ (started k).job.started ∧ k.opcode.toNat = 8 ∧ k.sub.toNat = n.toNat) ∧
    (let k : Cmd := { opcode := 8, a := 0x1000, b := 1 }
     let s : State := { restoring k with mem := up.mem.writeList [(0x1008, 8)] }
     s.msn.xfer.cmd = some k ∧ s.paused = false ∧ s.msn.selfRefresh = false ∧ k.sub ≠ 2 ∧ k.sub ≠ 1 ∧
     ∃ e, s.cmdExtents k = [e] ∧ (List.replicate 8 (1 : Byte)).length = ((s.cmdExtents k).map (fun e => e.length)).sum) ∧
    (let s := restoring { opcode := 8, sub := 2 }
     s.msn.xfer.chunksDone = true ∧ s.msn.xfer.facesDone = true) := by
  refine ⟨by decide, ⟨by decide, by decide, by decide, by decide, by decide, ⟨_, rfl, by decide +kernel⟩⟩, by decide⟩
/-- R343: the end of a drain gives its pin back. -/
theorem test_drain_complete :
    (after .drainComplete (draining { opcode := 7, lift := 5 })).msn.lift.pinsClosed = 0 := by decide +kernel
/-- R343: a committing restore makes its lift the closed one. -/
theorem test_restore_commit :
    (after (.restoreComplete []) (restoring { opcode := 8, sub := 1, lift := 9 })).msn.lift.closed = 9 := by decide +kernel

/-! ## Masons and lifts -/

/-- A Mason 1 with one descriptor for the lift after 5, whose update and close are in hand. -/
def grouped (d : Desc) (l : Lift) (sub : BitVec 4) : State := { up with
  job := { st := .running, isOpen := true, taken := [{ opcode := 3, sub := sub, lift := 6 }] }
  msn := { lift := { l with closed := 5, closedValid := true, updTaken := some { opcode := 2, lift := 6 } },
           mirrorDone := true, units := [(1, { table := [(3, d)] })] } }
/-- Tallies of fast-tier offset 0x800 from the value 0 on, and the scale slot at 0x900. -/
def desc1 : Desc :=
  { mason := 1, bktTally := 0xFFF0000000000800, scaleTally := 0xFFF0000000000800, scaleSlot := 0xFFF0000000000900 }
theorem witness_GroupsAndLifts :
    let s (v : Word) : State := grouped { desc1 with bktValue := v } { updLeft := 2 } 0
    let x := (s 0).mason 1
    (s 0).masonIdle 1 = false ∧ x.current = none ∧ x.table[x.next]? = some (3, desc1) ∧ (s 0).refacing = false ∧
    (s 0).msn.lift.updTaken = some { opcode := 2, lift := 6 } ∧ (s 0).groupWait desc1 6 = 0 ∧
    (s 1).groupWait { desc1 with bktValue := 1 } 6 = 2 ∧
    (s 0).closeFor 6 = some { opcode := 3, lift := 6 } ∧
    leNat ((s 0).fastBytes (addrOff desc1.scaleSlot) 8) / 2 ^ 32 = 0 ∧ 1 < (s 0).msn.lift.updLeft := by decide +kernel
theorem witness_GroupsAndLifts_skip :
    let s : State := { grouped desc1 { updLeft := 2 } 0 with mem := up.mem.writeList [(0x904, 1)] }
    leNat (s.fastBytes (addrOff desc1.scaleSlot) 8) / 2 ^ 32 ≠ 0 ∧ s.groupWait desc1 6 = 0 ∧ 1 < s.msn.lift.updLeft ∧
    ({ s with msn := { s.msn with lift := { s.msn.lift with updLeft := 1 } } } : State).msn.lift.updLeft = 1 ∧
    s.closeFor 6 = some { opcode := 3, lift := 6 } := by decide +kernel
/-- A module whose open lift may close. -/
def closable (l : Lift) : State := { up with
  msn := { lift := { l with closed := 5, closedValid := true, updTaken := some { opcode := 2, lift := 6 },
                            closeCmd := some { opcode := 3, lift := 6, a := 0xFFF0000000000800 } }
           mirrorDone := true } }
theorem witness_GroupsAndLifts_close :
    let s := closable { openState := 2 }
    let k : Cmd := { opcode := 3, lift := 6, a := 0xFFF0000000000800 }
    s.msn.lift.closeCmd = some k ∧ s.liftFree = true ∧ k.lift = s.msn.lift.closed + 1 ∧
    s.msn.lift.updTaken = some { opcode := 2, lift := 6 } ∧ s.msn.lift.updLeft = 0 ∧
    s.msn.lift.openState = 2 ∧ s.tallyReached k.a k.b = true ∧ s.msn.mirrorDone = true ∧ s.msn.lift.skipped = false ∧
    (closable { skipped := true }).msn.lift.skipped = true ∧ (closable { skipped := true }).msn.lift.updWrote = false ∧
    k.sub = 0 ∧ (closable { skipped := true }).msn.lift.openState ≠ 2 := by decide +kernel
/-- R325: the group starts in its rule pass. -/
theorem test_group_start :
    let u := after (.groupStart 1) (grouped desc1 { updLeft := 2 } 0)
    (u.mason 1).state = 2 ∧ u.msn.lift.openState = 1 ∧ (u.mason 0).runs = [] := by decide +kernel
/-- R16, R337: the close makes lift 6 the closed one; the pins move to the lift before. -/
theorem test_close :
    let u := after .liftCloseCommit (closable { openState := 2, pinsClosed := 3 })
    u.msn.lift.closed = 6 ∧ u.msn.lift.pinsPrev = 3 ∧ u.msn.lift.pinsClosed = 0 := by decide +kernel

/-- Mason 1 in a pass of one group. -/
def passing (g : GroupRun) (slots : SMap RemSlot) : State := { up with
  msn := { lift := { closed := 5, openState := 1, updLeft := 1, updWrote := true }, units := [(1, { runs := [g], slots := slots })] } }
/-- The engine slots of a Mason, all taken. -/
def allSlots : SMap RemSlot := (List.range 63).map (fun i => (i, {}))
theorem witness_MasonPasses :
    let g (p : GroupPhase) : GroupRun := { idx := 3, phase := p, lift := 6, ids := some [0xFFF] }
    let s (p : GroupPhase) : State := passing (g p) []
    (s .rule).masonIdle 1 = false ∧ ((s .rule).mason 1).current = some (g .rule) ∧
    ((s .trustDue).mason 1).current = some (g .trustDue) ∧ ((s .trust).mason 1).current = some (g .trust) ∧
    ((s .carry).mason 1).current = some (g .carry) ∧ (s .carry).masonTag 1 = some 0 ∧
    (g .rule).reface = false ∧ (g .carry).reface = false ∧ (g .rule).desc.rule ≠ 3 ∧ (g .carry).ids = some [0xFFF] ∧ [0xFFF] ≠ ([] : List Nat) ∧
    (s .carry).slowBad (g .carry).desc.recOff (48 * (g .carry).desc.count) = [] ∧
    (∀ x ∈ ((s .carry).mason 1).runs, x = g .carry ∨ (x.idx ≠ (g .carry).idx ∧ x.over = false)) ∧
    (g .carry).acked = false := by decide +kernel
theorem witness_MasonPasses_others :
    let r : GroupRun := { phase := .rule, reface := true, lift := 5 }
    let t : GroupRun := { phase := .rule, desc := { rule := 3 }, lift := 6 }
    ((passing r []).mason 1).current = some r ∧ ((passing t []).mason 1).current = some t ∧ t.desc.rule = 3 ∧
    (passing r allSlots).masonTag 1 = none := by decide +kernel
theorem witness_FacePasses :
    let g : GroupRun := { idx := 3, phase := .sent, ownLanded := true, lift := 6, ids := some [0xFFF] }
    let s := passing g []
    s.masonIdle 1 = false ∧ (s.mason 1).runs.find? GroupRun.faceDue = some g ∧ (s.mason 1).current = none ∧
    g.ids = some [0xFFF] ∧ [0xFFF] ≠ ([] : List Nat) ∧ s.masonTag 1 = some 0 ∧ s.faceOff g.desc 6 + ([] : List Byte).length ≤ 2 ^ 46 ∧
    (∀ i ∈ [0xFFF], i < 4096 ∧ (s.isSelf i || !s.absent i) = true) := by decide +kernel
theorem witness_FacePasses_end :
    let g (a : Bool) : GroupRun := { idx := 3, phase := .face, acked := a, lift := 6 }
    let s (a : Bool) (l : Nat) : State := { passing (g a) [] with
      msn := { (passing (g a) []).msn with lift := { updLeft := l, updWrote := true } } }
    (s false 1).masonIdle 1 = false ∧ ((s false 1).mason 1).runs = [g false] ∧ (g false).phase = .face ∧
    (s false 1).slowBad 0 0 = [] ∧ (g true).acked = true ∧ 1 < (s true 2).msn.lift.updLeft ∧
    (s true 1).msn.lift.updLeft = 1 ∧ (s true 1).msn.lift.updWrote = true ∧ (s true 1).msn.lift.skipped = false := by
  decide +kernel
/-- R334: the last descriptor done makes the open lift COMPLETE. -/
theorem test_lift_complete :
    (after (.facePassEnd 1) (passing { phase := .face, acked := true, lift := 6 } [])).msn.lift.openState = 2 := by
  decide +kernel
/-- R328, by hand: the sign of −2.0 is −1.0, and of −0 it is 0. -/
theorem test_sign : signF 0xC0000000 = 0xBF800000 ∧ signF 0x80000000 = 0 := by decide +kernel

/-! ## Memory faults -/

/-- A module with one pseudo-channel or one slow-tier channel in a state. -/
def withPch (q : Pch) : State := { up with ft := { pchs := [(511, q)] } }
def withChan (q : Chan) : State := { up with msn := { chans := [(15, q)] } }
theorem witness_PseudoChannelFaults :
    let s (q : Pch) : State := withPch q
    (s {}).pwr.good = true ∧ 511 ∉ (s {}).ft.retired ∧ ((s {}).pch 511).reread = false ∧
    ((s { reread := true }).pch 511).reread = true ∧ (s {}).start.img.ftCeLimit ≤ ((s { window := 1024 }).pch 511).window.toNat ∧
    ((s { window := 1023 }).pch 511).window.toNat < (s {}).start.img.ftCeLimit ∧ ((s {}).pch 511).retraining = false ∧
    11 < (s {}).start.img.marginFloor ∧ (s {}).start.img.marginFloor ≤ 12 ∧
    ((s { retraining := true, fails := 1 }).pch 511).fails < 2 ∧ 2 ≤ ((s { retraining := true, fails := 2 }).pch 511).fails ∧
    (s {}).ft.retired.length < 7 ∧ (s {}).job.st = .running := by decide +kernel
theorem witness_PseudoChannelFaults_failed :
    let s : State := { up with ft := { retired := [0, 1, 2, 3, 4, 5, 6] } }
    511 ∉ s.ft.retired ∧ 7 ≤ s.ft.retired.length := by decide
theorem witness_SlowChannelFaults :
    let s (q : Chan) : State := withChan q
    (s {}).pwr.good = true ∧ ((s {}).chan 15).live = true ∧ ((s {}).chan 15).retry = false ∧
    ((s { retry := true }).chan 15).retry = true ∧ (s {}).start.img.slowCeLimit ≤ ((s { window := 4096 }).chan 15).window.toNat ∧
    ((s { window := 4095 }).chan 15).window.toNat < (s {}).start.img.slowCeLimit ∧ ((s {}).chan 15).retraining = false ∧
    ((s { retraining := true, fails := 1 }).chan 15).fails < 2 ∧ 2 ≤ ((s { retraining := true, fails := 2 }).chan 15).fails ∧
    ((s {}).liveChans 3).length = 4 ∧ (s {}).job.st = .running ∧
    (({ up with msn := { chans := [(14, { live := false })] } } : State).liveChans 3).length < 4 := by decide +kernel
theorem witness_SramFaults : up.pwr.good = true ∧ up.job.st = .running := by decide
/-- R363: a re-read that fails retires the pseudo-channel and holds the module. -/
theorem test_retire :
    let u := after (.pchRereadDone 511 .uncorrected) (withPch { reread := true })
    u.ft.retired = [511] ∧ u.job.st = .held := by decide +kernel
/-- R346: the second channel of a Mason enters FAILED. -/
theorem test_second_channel :
    (after (.slowRetryResult 15 .uncorrected) { up with
      msn := { chans := [(14, { live := false }), (15, { retry := true })] } }).job.st = .failed := by decide +kernel
/-- R354: the word that was met reads as zero. -/
theorem test_sram :
    let s : State := { up with mem := up.mem.writeList [(spadKey 0 8, 7), (spadKey 0 16, 9)] }
    let u := after (.sramUncorrected (.core 0) .scratchpad 12) s
    u.mem.byte (spadKey 0 8) = 0 ∧ u.mem.byte (spadKey 0 16) = 9 := by decide +kernel

/-! ## Resets, ports and dumps -/

theorem witness_Resets :
    hosted.pwr.good = true ∧ hosted.start.inReset = false ∧ plumbPath (.bar4 1) = true ∧ hosted.reaches (.bar4 1) = true ∧
    hosted.plb.dumpState ≠ 1 ∧ hosted.job.st ≠ .unset ∧ hosted.job.st ≠ .failed ∧ hosted.plb.computing = none ∧
    (hosted.plb.moduleResets.filter (fun t => decide (hosted.plb.powered ≤ t + 180000000000))).length < 2 ∧
    plumbPath (.bar0 1) = false ∧ hosted.reaches (.bar0 1) = true := by decide
theorem witness_Resets_others :
    let s (p : Plumb) : State := { hosted with plb := p }
    (s { dumpState := 1 }).plb.dumpState = 1 ∧ (s { dumpState := 1 }).reaches (.bar4 0) = true ∧
    2 ≤ ((s { moduleResets := [5, 9] }).plb.moduleResets.filter
      (fun t => decide ((s { moduleResets := [5, 9] }).plb.powered ≤ t + 180000000000))).length ∧
    (s { computing := some 1 }).plb.computing = some 1 ∧
    ({ s { resetDomain := 2 } with job := {} } : State).job.st = .unset := by decide
theorem witness_Resets_perst :
    (hosted.port 0).perst = false ∧ (hosted.port (1 - 0)).up = true ∧ (hosted.port (1 - 0)).perst = false ∧
    up.job.st ≠ .unset ∧ (up.port (1 - 0)).up = false ∧ up.plb.moduleResets = [] := by decide
theorem witness_Resets_overlap :
    let s (d : Bool) : State := { up with job := { st := .failed }, ports := [(0, { perst := true, perstDone := d })] }
    ((s true).port 1).perst = false ∧ (s true).job.st ≠ .unset ∧ ((s true).port (1 - 1)).perst = true ∧
    ((s true).port (1 - 1)).perstDone = true ∧ ((s false).port (1 - 1)).perstDone = false ∧ (s false).plb.moduleResets = [] := by
  decide
/-- R473: two assertions that overlap make one module reset. -/
theorem test_perst_overlap :
    let s : State := { up with job := { st := .failed }, ports := [(0, { perst := true, perstDone := true })] }
    (after (.perstAssert 1) s).plb.resetCount = 0 ∧ (after (.perstAssert 0) { s with ports := [] }).plb.resetCount = 1 := by
  decide +kernel
theorem witness_PortsAndLog :
    let r : State := { up with start := { inReset := true } }
    let c (m t : Nat) : State := { up with plb := { logFail := some (4, m), powered := t * 6000000000 } }
    r.start.inReset = true ∧ up.pwr.good = true ∧ up.start.inReset = false ∧ (up.port 1).perst = false ∧
    (({ up with ports := [(1, { perst := true })] } : State).port 1).perst = true ∧
    1 ≤ (6 : BitVec 3).toNat ∧ (6 : BitVec 3).toNat ≤ 6 ∧ (16 : BitVec 5).toNat ∈ [1, 2, 4, 8, 16] ∧
    (c 10 40).plb.logFail = some (4, 10) ∧ 10 + 30 ≤ (c 10 40).minute ∧ (c 10 39).minute < 10 + 30 ∧
    ({ up with plb := { logFail := some (2, 0) } } : State).plb.logFail = some (2, 0) := by decide
/-- A module that captures a dump, and one that writes it. -/
def capturing (r : List (BitVec 4 × BitVec 4)) : State := { up with plb := { dumpState := 1, dumpWant := [3], resetReq := r } }
def dumpReady (t : BitVec 4) (bs : List Byte) : State := { up with
  job := { st := .running, dump := some { opcode := 12, a := 0x4000, b := 0x200000 } }
  plb := { dumpState := 2, dumpNow := some (t, bs) } }
theorem witness_Dumps :
    (capturing []).plb.dumpState = 1 ∧ (2, 71) ∈ dumpUnits ∧ (capturing []).plb.dumpWant = 3 :: [] ∧
    (capturing []).plb.resetReq = [] ∧ (capturing [(2, 1)]).plb.resetReq = [(2, 1)] := by decide +kernel
theorem witness_Dumps_written :
    (dumpReady 3 [1]).plb.dumpState = 2 ∧ (dumpReady 3 [1]).plb.dumpNow = some (3, [1]) ∧ [(1 : Byte)].length ≤ 2 ^ 21 ∧
    (dumpReady 3 [1]).plb.resetReq = [] := by decide
theorem witness_Dumps_resets :
    let s (t : BitVec 4) : State := { dumpReady t [1] with plb := { (dumpReady t [1]).plb with resetReq := [(2, 4)] } }
    (s 4).plb.dumpState = 2 ∧ (s 4).plb.dumpNow = some (4, [1]) ∧ (s 4).plb.resetReq = [(2, 4)] ∧ (s 4).start.inReset = false ∧
    (s 3).plb.dumpNow = some (3, [1]) ∧ (capturing [(2, 1), (1, 1)]).plb.resetReq = (2, 1) :: [(1, 1)] ∧
    (capturing []).plb.timedOut = [] ∧ ((capturing []).core 0).run.spare = none := by decide
/-- R379: the Plumb's own reset waits for its RESET dump, not for another. -/
theorem test_own_reset :
    let s (t : BitVec 4) : State := { dumpReady t [1] with plb := { (dumpReady t [1]).plb with resetReq := [(2, 4)] } }
    (after .dumpWritten (s 4)).start.inReset = true ∧ (after .dumpWritten (s 3)).start.inReset = false := by decide +kernel
/-- R372: a release begins the short start. -/
theorem test_reset_release : (after .resetRelease { up with start := { inReset := true } }).start.phase = 2 := by decide
/-- R361, R385: a package reset is recorded with its domain and its source, and takes what the cores hold. -/
theorem test_package_reset :
    let u := after (.resetReqPackage (.bar4 0)) hosted
    u.plb.resetDomain = 2 ∧ u.plb.resetSource = 1 ∧ u.cores = [] ∧ u.start.inReset = true := by decide +kernel

/-! ## Power -/

theorem witness_PowerInput :
    let off : State := { pwr := { input := true } }
    State.reset.pwr.input = false ∧ up.pwr.input = true ∧ up.pwr.off = false ∧ (3399 : BitVec 16).toNat < 3400 ∧
    3400 ≤ (3400 : BitVec 16).toNat ∧ off.pwr.input = true ∧ off.pwr.off = true ∧ up.pwr.good = true ∧
    6200 < (6201 : BitVec 16).toNat ∧ (6200 : BitVec 16).toNat ≤ 6200 ∧ up.plb.dumpState = 0 ∧ up.plb.dumpWant = [] := by
  decide
theorem witness_PowerInput_restart :
    let off : State := { pwr := { input := true } }
    off.pwr.restartAt < (5101 : BitVec 16).toNat ∧ (5100 : BitVec 16).toNat ≤ off.pwr.restartAt := by decide
/-- R424: the slot whose write a loss of input cuts off is marked. -/
theorem test_torn_slot :
    let s : State := { up with plb := { upd := { state := updBusy, target := 2, busy := some (.begin 2) } } }
    (after .powerLoss s).start.torn = [0x1410000] := by decide +kernel
theorem witness_PowerInput_ticks :
    let limit := up.start.img.powerLimit
    let s : State := { up with pwr := { up.pwr with lowFor := 49 } }
    up.start.inReset = false ∧ limit < (6001 : BitVec 16).toNat ∧ 100 * (5699 : BitVec 16).toNat < 95 * limit ∧
    up.pwr.lowFor < 49 ∧ 49 ≤ s.pwr.lowFor ∧ 95 * limit ≤ 100 * (5700 : BitVec 16).toNat ∧ (6000 : BitVec 16).toNat ≤ limit ∧
    0 ∈ classPoints false ∧
    List.find? (fun (x : Nat × Nat) => decide (2 ≤ x.2))
      ({ up with pwr := { up.pwr with hotFor := [(4, 1), (7, 2)] } } : State).pwr.hotFor = some (7, 2) := by decide +kernel
theorem witness_PowerInput_throttle :
    let s (t : BitVec 16) (n : Nat) : State := { up with plb := { temps := [(0, { now := t })] }, pwr := { up.pwr with coolFor := [(0, n)] } }
    (s 1600 0).classHot false = true ∧ (s 1599 0).classHot false = false ∧ (s 1599 0).classCool false = false ∧
    (s 1520 0).classCool false = true ∧ SMap.get 0 (s 1520 49).pwr.coolFor 0 = 49 ∧
    SMap.get 0 (s 1520 48).pwr.coolFor 0 < 49 := by decide +kernel
theorem witness_Shedding :
    let s (n : BitVec 3) : State := { up with pwr := { up.pwr with step := n } }
    up.pwr.good = true ∧ up.start.inReset = false ∧ (s 6).pwr.step.toNat < 7 ∧
    (4999 : BitVec 16).toNat < 10 * up.start.img.shed.getD 0 0 ∧ 10 * up.start.img.shed.getD 0 0 ≤ (5000 : BitVec 16).toNat ∧
    (3799 : BitVec 16).toNat < 10 * up.start.img.shed.getD 6 0 ∧ up.job.rewind = none ∧
    ({ up with job := { up.job with rewind := some {} } } : State).job.rewind.any (fun r => !r.resume) = true ∧
    ({ up with job := { up.job with rewind := some { resume := true } } } : State).job.rewind.any (fun r => !r.resume) = false ∧
    (5099 : BitVec 16).toNat < 10 * up.start.img.shed.getD 0 0 + 10 * up.start.img.hysteresis ∧
    10 * up.start.img.shed.getD 0 0 + 10 * up.start.img.hysteresis ≤ (5100 : BitVec 16).toNat ∧ 0 < (s 1).pwr.step.toNat := by
  decide
theorem witness_Shedding_others :
    let s : State := { up with pwr := { up.pwr with step := 3 }, job := { up.job with parked := some 0, parkNext := 1 } }
    let h : State := { up with pwr := { up.pwr with step := 4 }, job := { up.job with st := .held, holds := [7] } }
    3 ≤ s.pwr.step.toNat ∧ s.job.parked = some 0 ∧ s.job.parkNext < 4 ∧ s.job.parkNext ≠ 0 ∧
    h.job.st = .held ∧ h.job.holds = [7] := by decide
theorem witness_Shedding_waits :
    let s (n : BitVec 3) (st : BitVec 4) (c : CoreState) : State := { up with
      pwr := { up.pwr with step := n }, job := { up.job with parked := some 0 }, lnk := { links := [(3, { state := st })] }
      cores := [(0, { run := { state := c, before := .running, holds := true } })] }
    (s 3 3 .running).pwr.step.toNat + 1 = 4 ∧ ((s 3 3 .running).link 3).state = lkRetraining ∧ coreCluster 0 % 4 = 0 ∧
    ((s 3 2 .parked).core 0).run.state = .parked ∧ ((s 3 2 .parked).core 0).run.before ≠ .idle ∧
    ((s 3 2 .parked).core 0).run.holds = true ∧ (s 3 2 .running).stepReady 4 = true ∧ (s 6 2 .running).stepReady 7 = true := by
  decide +kernel
theorem witness_Shedding_sessions :
    let s (p : BitVec 4) : State := { up with
      pwr := { up.pwr with step := 4 }, start := { phase := p }, plb := { upd := { state := updOpen } } }
    (s 2).plb.upd.state = updOpen ∧ (s 2).slotsHeld = true ∧ (s 8).slotsHeld = false := by decide
/-- R444: S4 waits while a link of S3 changes its width. -/
theorem test_step_waits :
    let s : State := { up with pwr := { up.pwr with step := 3 }, lnk := { links := [(3, { state := 3 })] } }
    (after (.shedStepEnter 4300) s).pwr.step = 3 ∧
    (after (.shedStepEnter 4300) { s with lnk := {} }).pwr.step = 4 := by decide +kernel
/-- R444: below 50.0 V the first step is entered, and counted. -/
theorem test_shed :
    let u := after (.shedStepEnter 4999) up
    u.pwr.step = 1 ∧ SMap.get 0 u.pwr.droop 1 = 1 ∧ u.pwr.shedPoint = 1 := by decide +kernel
/-- R408, R449: a RESUME in progress gives way to the shed STOP. -/
theorem test_shed_stop_over_resume :
    let s : State := { up with pwr := { up.pwr with step := 4 }, job := { up.job with rewind := some { resume := true } } }
    let r := (after (.shedStepEnter 4199) s).job.rewind
    r.map (fun x => (x.resume, x.shed)) = some (false, true) := by decide +kernel
/-- R454: the energy meter adds a power reading. -/
theorem test_energy : (after (.powerLimitTick 500 [] []) up).pwr.energy = 500 := by decide +kernel

/-! ## Start-up, updates and attestation -/

/-- A module at a start-up step. -/
def starting (n : BitVec 4) : State := { pwr := { input := true, off := false, good := true }, start := { phase := n } }
theorem witness_Starting :
    let s : State := { pwr := { input := true, off := false }, plb := { ring := [{ coldStarts := 3 }] } }
    s.pwr.input = true ∧ s.pwr.off = false ∧ s.pwr.good = false ∧ s.plb.ring = { coldStarts := 3 } :: [] ∧
    (starting 2).pwr.good = true ∧ (starting 2).start.inReset = false ∧ (starting 2).start.stay = false ∧
    (starting 2).job.st = .unset ∧ (starting 2).start.phase = 2 ∧ (starting 2).start.flashOk = true ∧
    ({ starting 2 with start := { phase := 2, flashOk := false } } : State).start.flashOk = false := by decide
/-- A record whose CRC is that of its content. -/
def stamped (r : LogRec) : LogRec := { r with crc := r.sum }
theorem sum_crc (r : LogRec) (c : Word) : ({ r with crc := c } : LogRec).sum = r.sum := by
  have h (o : Nat) : ({ r with crc := c } : LogRec).word o = r.word o := rfl
  simp only [LogRec.sum, LogRec.zeroed, h]
theorem stamped_holds (r : LogRec) : (stamped r).holds = true := by
  simp only [LogRec.holds, stamped, sum_crc, decide_true]
theorem witness_Starting_log :
    let r := stamped { coldStarts := 3, logSeq := 9 }
    r ∈ [r] ∧ r.holds = true ∧ (∀ q, q ∈ [r] → q.holds = true → q ≠ r → q.logSeq < r.logSeq) ∧
    (∀ q : LogRec, q ∈ [] → q.holds = false) ∧ (5 : BitVec 4) ≠ 0 := by
  refine ⟨List.mem_singleton_self _, stamped_holds _, fun q h _ n => absurd (List.mem_singleton.mp h) n, ?_, by decide⟩
  intro q h
  cases h
theorem witness_Starting_no_image :
    ((starting 2).trySlots .firmware).1 = none ∧ ((starting 3).trySlots .setout).1 = none := by decide +kernel
theorem witness_Starting_later :
    (∃ m, placeSpares (starting 4).start.img.spares (starting 4).plb.replacements = some m) ∧
    (starting 5).plb.logFail = none ∧ (starting 5).start.short = false ∧ ((starting 5).startRetired []).length < 8 ∧
    twoOnOneMason ((starting 5).startChansOut []) = false ∧ (starting 6).chain.inCable = false ∧
    ({ starting 6 with chain := { inCable := true } } : State).chain.inCable = true ∧
    (starting 7).pwr.step.toNat < 4 ∧ 4 ≤ (4 : BitVec 3).toNat := by
  refine ⟨⟨_, rfl⟩, ?_⟩
  decide +kernel
theorem witness_Starting_short :
    let s : State := { starting 5 with start := { phase := 5, short := true } }
    s.start.short = true ∧ s.plb.logFail = none ∧ (s.startRetired []).length < 8 ∧ twoOnOneMason (s.startChansOut []) = false ∧
    (∀ c ∈ s.startChansOut [], (s.chan c).live = false) := by decide +kernel
/-- R470: an open blade pair keeps the module in UNSET, and the log shows which. -/
theorem test_open_pair :
    let u := after (.powerGood 0 5) { pwr := { input := true, off := false } }
    u.start.stay = true ∧ u.start.pairOpen = 5 ∧ u.logGet 0x70 = 5 := by decide +kernel
/-- R430: the last step reaches SET. -/
theorem test_set : (after (.startStepDone {}) (starting 7)).job.st = .set := by decide +kernel
/-- R439: no image in either slot keeps the module UNSET, with a reason. -/
theorem test_no_image :
    let u := after (.startStepDone {}) (starting 2)
    u.start.stay = true ∧ u.start.reason = 9 ∧ u.start.phase = 2 := by decide +kernel

/-- A module with a session of port 1. -/
def session (u : Upd) : State := { hosted with plb := { upd := { u with owner := 1, target := 1 } } }
theorem witness_UpdateSession :
    ownerCode (.bar4 1) = some 1 ∧ (session {}).reaches (.bar4 1) = true ∧
    (session { state := updBusy }).plb.upd.state = updBusy ∧ (session {}).plb.upd.state ≠ updBusy ∧
    (0x10 : Word).toNat < 2 ^ 48 ∧ (0x10 : Word).toNat / 256 % 65536 = 0 ∧ BitVec.ofNat 4 ((0x20 : Word).toNat / 16 % 16) = 2 ∧
    (session {}).pwr.step.toNat < 4 ∧ (session { state := updOpen }).plb.upd.state = updOpen ∧
    (session { state := updOpen }).plb.upd.owner = 1 ∧ ownerCode .mctp = some 2 ∧
    (0x7F0001000000 : Word).toNat / 2 ^ 40 % 256 < 128 ∧ 0 < (0x7F0001000000 : Word).toNat / 2 ^ 24 % 65536 ∧
    (0x7F2000000000 : Word).toNat / 2 ^ 24 % 65536 = 8192 := by decide
theorem witness_UpdateSession_held :
    let s : State := { session { state := updOpen } with start := { phase := 2 } }
    s.slotsHeld = true ∧ (session { state := updOpen }).slotsHeld = false ∧
    (session { state := updBusy, busy := some (.abort 2) }).plb.upd.busy = some (.abort 2) := by decide
/-- R424: an abort waits while no slot takes a write. -/
theorem test_abort_waits :
    let s : State := { session { state := updOpen } with start := { phase := 2 } }
    (after (.updAbort (.bar4 1) 0) s).plb.upd.busy = some (.abort 0) := by decide +kernel
theorem witness_UpdateSession_timeout :
    let s (t : Nat) : State := { session { state := updOpen } with
      plb := { (session { state := updOpen }).plb with uptime := t } }
    (s 1000000000).plb.upd.lastReq + 1000000000 ≤ (s 1000000000).plb.uptime ∧
    (s 999999999).plb.uptime < (s 999999999).plb.upd.lastReq + 1000000000 := by decide
theorem witness_UpdateSession_result :
    let s (r : UpdReq) : State := session { state := updBusy, busy := some r }
    (s .verify).plb.upd.busy = some .verify ∧ (s .verify).slotsHeld = false ∧
    (s (.write 127 8)).plb.dumpState ≠ 2 ∧ 65536 * 7 + 8 ≤ (updKind 1).size ∧
    (s .verify).checkSlot (updKind 1) ((s .verify).updSlot 1) ≠ 0 := by decide +kernel
/-- R467: BEGIN by the owner of no session begins its flash work. -/
theorem test_begin :
    let u := after (.updBegin (.bar4 1) 0x10) hosted
    u.plb.upd.state = updBusy ∧ u.plb.upd.owner = 1 ∧ u.plb.upd.busy = some (.begin 1) := by decide +kernel

theorem witness_Attestation :
    let s (x : Start) : State := { hosted with start := x }
    (s { phase := 3 }).answers .mctp = true ∧ (s { phase := 2 }).answers .mctp = false ∧
    (s { phase := 8 }).start.spdmVersion = false ∧ (s { phase := 8, spdmVersion := true }).start.spdmVersion = true ∧
    (s { phase := 8, spdmCaps := true }).start.spdmCaps = true ∧
    (s { phase := 8, spdmAlgs := true, identValid := true }).start.spdmAlgs = true ∧
    ([0x11, 0xE0, 1] : List Byte).getD 2 0 = 1 ∧ RegPath.bar4 1 ≠ .mctp := by decide
theorem witness_Attestation_signed :
    let s : State := { hosted with start := { phase := 8, spdmAlgs := true, identValid := false } }
    s.answers .mctp = true ∧ s.start.spdmAlgs = true ∧ s.start.identValid = false ∧
    (([0x11, 0xE0, 1] : List Byte).getD 2 0).getLsbD 0 = true ∧ (([0x11, 0xE0, 0] : List Byte).getD 2 0).getLsbD 0 = false ∧
    (2 : Byte) ≠ 1 := by decide
theorem witness_Attestation_alert :
    let s (j : Job) : State := { up with job := j }
    (s { st := .failed }).job.st = .failed ∧ (s { st := .failed }).pwr.good = true ∧ (s {}).job.holds = [] ∧
    (s {}).job.st ≠ .failed ∧ (s {}).pwr.step = 0 := by decide
/-- R463: what comes before GET_VERSION is answered with an error. -/
theorem test_spdm_order : (after (.getCapabilities .mctp []) up).out = [.spdmError .mctp 4] := by decide
/-- R472: the module answers the alert with its own address. -/
theorem test_alert :
    (after .smbusAlertResponse { up with job := { st := .failed }, pwr := { up.pwr with strap := 3 } }).out =
      [.alertResponse 0x4F] := by decide +kernel

/-! ## Words of instructions, each written out from its layout -/

/-- R80: op 0x01, sd 3 in [55:51], sa 1 in [50:46], sb 2 in [45:41]. -/
theorem test_decode_scalar : decodeCore 0 0 0x0118440000000000 0 = .add 0 0 { sd := 3, sa := 1, sb := 2 } := by decide
/-- R93: op 0x20, vd 2, va 3, vb 4, f 6; op 0x36, vv 0x10, sa 3 in [47:43], offset 0x40. -/
theorem test_decode_vector :
    decodeCore 0 0 0x2002030400600000 0 = .vadd 0 0 { vd := 2, va := 3, vb := 4, f := 6 } ∧
    decodeCore 0 0 0x3610180000000040 0 = .vld 0 0 { vv := 0x10, sa := 3, imm := 0x40 } := by decide
/-- R85, R78: op 0x40, tt 1, sa 2, offset 8; INT8 (7), four columns, three rows. -/
theorem test_decode_tile :
    decodeCore 0 0 0x4008800000000008 0x70302 = .tload 0 0 { tt := 1, sa := 2, imm := 8 } { fmt := 7, cols := 3, rows := 2 } := by
  decide
/-- R88: op 0x52, ta 1, target 8, zero, boff 5; op 0x53, vd 2, row 1, ofmt 6, clr. -/
theorem test_decode_array :
    decodeCore 0 0 0x520C400140000000 0 = .amm 0 0 { ta := 1, target := 8, zero := true, boff := 5 } {} ∧
    decodeCore 0 0 0x5302016800000000 0 = .abrd 0 0 { vd := 2, row := 1, ofmt := 6, clr := true } := by decide
/-- R101: op 0x61, sa 1, sb 2, sc 3, completion tally 7. -/
theorem test_decode_remote :
    decodeCore 0 0 0x6108860000000007 0 = .putI 0 0 { sa := 1, sb := 2, sc := 3, ct := 7 } := by decide
/-- R79: 0x1C is reserved, and so is everything from 0x80 on. -/
theorem test_decode_reserved :
    decodeCore 0 0 0x1C00000000000001 0 = .reservedOpcode 0 0 0x1C 1 ∧
    decodeCore 0 0 0x8000000000000000 0 = .reservedOpcode 0 0 0x80 0 := by decide

/-! ## Issue, steps and the invariant -/

theorem witness_ScratchRegisters : (1 : Nat) ≠ 0 ∨ (0 : Nat) ≠ 0 := by decide
theorem witness_CoreIssue_words : issuer (.nop (3 : CoreId) (2 : StrandId) {}) = some ((3 : CoreId).val, (2 : StrandId).val) := by
  decide
theorem witness_CoreIssue :
    issuer (.nop 0 0 {}) = some (0, 0) ∧ up.canIssue 0 0 = true ∧ State.reset.canIssue 0 0 = false ∧
    (up.modStrand 0 0 (fun x => { x with ip := 0x200000 })).pastEnd 0 0 = true ∧
    (up.modStrand 0 0 (fun x => { x with ip := 0x1FFFF8 })).pastEnd 0 0 = false := by decide
theorem witness_StepRunsFront :
    up.pending = [] ∧ up.pwr.good = true ∧ State.reset.pending = [] ∧ State.reset.pwr.good = false := by decide
/-- The command in front runs, and the queue keeps the rest. -/
theorem test_step_takes_the_front :
    (match step { up with pending := [.nop 0 0 {}, .inputApplied] } with
     | .next u => decide (u.pending = [.inputApplied] ∧ (u.strand 0 0).ip = 8)
     | _ => false) = true := by decide +kernel
theorem witness_StepKeepsMemory : State.reset.memOk ∧ up.memOk := by
  constructor <;> (unfold State.memOk; decide)
/-- The table gives its rows no bits, so no word spells a command. -/
theorem test_no_word : decodeTableWord 64 0 = none ∧ up.withFetchWord 64 0 = up := by decide

/-! ## Standards that the spec names -/

/-- FIPS 180-4: the digest of "abc" begins DDAF35A1 93617ABA. -/
theorem test_sha512_abc : (sha512 [0x61, 0x62, 0x63]).take 8 = [0xDD, 0xAF, 0x35, 0xA1, 0x93, 0x61, 0x7A, 0xBA] := by
  decide +kernel

/-- FIPS 197, appendix C.3: AES-256 with the key 00 01 … 1F. -/
theorem test_aes256_fips197 :
    aesDecrypt ((List.range 32).map (BitVec.ofNat 8)) [0x8E, 0xA2, 0xB7, 0xCA, 0x51, 0x67, 0x45, 0xBF, 0xEA, 0xFC, 0x49,
      0x90, 0x4B, 0x49, 0x60, 0x89] = (List.range 16).map (fun i => BitVec.ofNat 8 (17 * i)) := by
  decide +kernel

end Sys2Proof.Tests
end

section
/-! SUPPORT. What a host's access through BAR0 comes down to: the word that a write of eight bytes reaches, the registers
of a port by their offset, and the state of a port that answers. -/

namespace Sys2Proof.Machine

/-! ## Bytes and word writes (R393) -/

/-- A slice within a list has no filling. -/
theorem slice_eq_take_drop {bs : List Byte} {lo n : Nat} (h : lo + n ≤ bs.length) :
    slice bs lo n = (bs.drop lo).take n := by
  have hl : ((bs.drop lo).take n).length = n := by simp; omega
  simp only [slice, hl, Nat.sub_self, List.replicate_zero, List.append_nil]

/-- A write of a whole register word. -/
def wholeWord (off : Nat) (v : Word) : WordWrite := { at_ := off, mask := BitVec.allOnes 64, value := v }

@[simp] theorem wholeWord_at (off : Nat) (v : Word) : (wholeWord off v).at_ = off := rfl
@[simp] theorem wholeWord_value (off : Nat) (v : Word) : (wholeWord off v).value = v := rfl
@[simp] theorem wholeWord_mask (off : Nat) (v : Word) : (wholeWord off v).mask = BitVec.allOnes 64 := rfl
theorem wholeWord_get (off : Nat) (v : Word) (lo n : Nat) : (wholeWord off v).get lo n = v.toNat / 2 ^ lo % 2 ^ n := rfl

/-- A whole word covers each of its fields. -/
theorem wholeWord_has (off : Nat) (v : Word) {lo n : Nat} (h : lo + n ≤ 64) : (wholeWord off v).has lo n = true := by
  refine decide_eq_true (Nat.eq_of_testBit_eq fun i => ?_)
  rw [wholeWord_mask, BitVec.toNat_allOnes, bitsOf, Nat.testBit_mod_two_pow, Nat.testBit_div_two_pow,
    Nat.testBit_two_pow_sub_one, Nat.testBit_two_pow_sub_one]
  by_cases hi : i < n
  · simp [hi, show i + lo < 64 by omega]
  · simp [hi]

/-- Eight bytes at an offset are one whole word. -/
theorem wordWrites_eight (off : Nat) {bs : List Byte} (h : bs.length = 8) :
    wordWrites off bs = [wholeWord off (leWord bs)] := by
  have hs : slice bs (8 * 0) 8 = bs := by
    rw [slice_eq_take_drop (by omega), Nat.mul_zero, List.drop_zero, List.take_of_length_le (by omega)]
  have hr : List.range (bs.length / 8) = [0] := by rw [h]; rfl
  rw [wordWrites, if_neg (by omega), hr, List.map_singleton, hs]
  rfl

/-- BAR0 takes eight aligned bytes. -/
theorem barSize_eight {off : Nat} (h : off % 8 = 0) : barSize off 8 = true := by
  have : off % 64 + 8 ≤ 64 := by omega
  simp [barSize, h, this]

/-! ## A port that answers (R390, R391) -/

/-- The module has power and the port is out of reset where BAR0 answers. -/
theorem State.reaches_bar0 {s : State} {p : PortId} (h : s.reaches (.bar0 p) = true) :
    s.pwr.good = true ∧ (s.port p).perst = false := by
  simp only [State.reaches, State.portAnswers, Bool.and_eq_true, Bool.not_eq_true'] at h
  obtain ⟨⟨hg, -⟩, ⟨⟨-, hp⟩, -⟩, -⟩ := h
  exact ⟨hg, hp⟩

/-- A host's write of eight aligned bytes is one word write. -/
theorem State.bar0Write_eight {s : State} {p : PortId} {off : Nat} {bs : List Byte} (h : s.reaches (.bar0 p) = true)
    (ho : off % 8 = 0) (hn : bs.length = 8) :
    s.bar0Write p off bs = s.bar0Word p (wholeWord off (leWord bs)) := by
  rw [State.bar0Write, h, hn, barSize_eight ho, wordWrites_eight off hn]
  simp

/-- A write that BAR0 answers and whose size it does not take is counted and dropped. -/
theorem State.bar0Write_misaligned {s : State} {p : PortId} {off : Nat} {bs : List Byte}
    (h : s.reaches (.bar0 p) = true) (ho : off % 8 ≠ 0) (hn : bs.length = 8) :
    s.bar0Write p off bs = s.violate .undefined := by
  simp [State.bar0Write, h, hn, barSize, ho]

/-! ## A port's registers by offset (R414) -/

theorem portBase_mod_eight (p : PortId) : portBase p % 8 = 0 := by unfold portBase; omega

theorem within_iff {k a n : Nat} : within k a n = true ↔ a ≤ k ∧ k < a + n := by
  rw [within, Bool.and_eq_true, decide_eq_true_eq, decide_eq_true_eq]

theorem within_eq_false_iff {k a n : Nat} : within k a n = false ↔ k < a ∨ a + n ≤ k := by
  rw [← Bool.not_eq_true, within_iff]; omega

/-- There are two host ports (R388). -/
theorem PortId.eq_zero_or_one (p : PortId) : p = 0 ∨ p = 1 :=
  match p with
  | 0 => .inl rfl
  | 1 => .inr rfl

/-- An offset lies in the block of port `q` when it is one of port `q`'s. -/
theorem within_portBase (q p : PortId) {r : Nat} (hr : r < 0x10000) :
    within (portBase p + r) (portBase q) 0x10000 = decide (p = q) := by
  rw [Bool.eq_iff_iff, decide_eq_true_eq, within_iff, Fin.ext_iff, portBase, portBase]
  omega

theorem within_port_zero (p : PortId) {r : Nat} (hr : r < 0x10000) :
    within (portBase p + r) 0x1000 0x10000 = decide (p = 0) := within_portBase 0 p hr

theorem within_port_one (p : PortId) {r : Nat} (hr : r < 0x10000) :
    within (portBase p + r) 0x11000 0x10000 = decide (p = 1) := within_portBase 1 p hr

/-- An offset of a port's block lies in no region above it. -/
theorem within_above_port (p : PortId) {r a : Nat} (n : Nat) (hr : r < 0x10000) (ha : 0x21000 ≤ a) :
    within (portBase p + r) a n = false := by
  rw [within_eq_false_iff, portBase]
  omega

/-- The control space has each port's registers from its base on. -/
theorem State.ctlWord_port (s : State) (q : Nat) (p : PortId) {r : Nat} (hr : r < 0x10000) :
    s.ctlWord q (portBase p + r) = s.portWord p r := by
  have hw : s.ctlWord q (portBase p + r) = s.hstWord q (portBase p + r) := if_pos (by unfold portBase; omega)
  have hb : 0x1000 ≤ portBase p := Nat.le_add_right _ _
  rw [hw, State.hstWord, if_neg (by omega), if_neg (by omega), if_neg (by omega), within_port_zero p hr,
    within_port_one p hr]
  rcases PortId.eq_zero_or_one p with rfl | rfl
  all_goals simp [portBase]

/-- A word of a port is in reset with its port. -/
theorem State.wordInReset_port (s : State) (p : PortId) {r : Nat} (hr : r < 0x10000) :
    s.wordInReset (portBase p + r) = (s.port p).perst := by
  rw [State.wordInReset, within_port_zero p hr, within_port_one p hr,
    within_above_port p _ hr (by decide), within_above_port p _ hr (by decide)]
  rcases PortId.eq_zero_or_one p with rfl | rfl
  all_goals simp

/-- A word of a port that is out of reset is written by its host where a host may, and is read-only elsewhere. -/
theorem State.wkind_port {s : State} {p : PortId} {r : Nat} (hr : r < 0x10000) (hp : (s.port p).perst = false)
    (hl : (s.portLive p r).isSome = true) :
    s.wkind (portBase p + r) = if portWritable r then .host else .ro := by
  have hw : s.portWord p r = s.portLive p r := by simp [State.portWord, hp]
  have hb : 0x1000 ≤ portBase p := Nat.le_add_right _ _
  have ht : portBase p ≤ 0x11000 := by unfold portBase; omega
  have hn : (s.ctlWord 0 (portBase p + r)).isNone = false := by rw [s.ctlWord_port 0 p hr, hw]; simpa using hl
  have hs : ¬(portBase p + r = 0x180008 ∨ portBase p + r = 0x120000 ∨
      within (portBase p + r) 0x130000 0x10000 = true) := by
    rw [within_above_port p _ hr (by decide), or_iff_left Bool.false_ne_true]; omega
  rw [State.wkind, if_neg hs, hn, s.wordInReset_port p hr, hp, within_port_zero p hr,
    within_port_one p hr, within_above_port p _ hr (by decide), within_above_port p _ hr (by decide)]
  rw [if_neg (by decide), if_neg (by decide), if_neg (by omega), if_neg (by simp), if_neg (by omega)]
  rcases PortId.eq_zero_or_one p with rfl | rfl
  all_goals simp [portBase]

/-- The registers that a host may write: the base of BAR2, three words of each work list, and the notifiers. -/
theorem portWritable_iff {r : Nat} : portWritable r = true ↔
    r = 8 ∨ (0x100 ≤ r ∧ r < 0x200 ∧ r % 0x20 < 0x18) ∨ (0x480 ≤ r ∧ r < 0x800) := by
  rw [portWritable, Bool.or_eq_true, Bool.or_eq_true, Bool.and_eq_true, within_iff, within_iff, beq_iff_eq,
    decide_eq_true_eq]
  omega

/-- The registers of a port that a host may write are defined. -/
theorem State.portLive_of_writable (s : State) (p : Nat) {r : Nat} (h : portWritable r = true) :
    (s.portLive p r).isSome = true := by
  have hd : r = 8 ∨ within r 0x100 0x100 = true ∨ within r 0x480 0x380 = true := by
    rw [portWritable_iff] at h; rw [within_iff, within_iff]; omega
  unfold State.portLive
  rcases hd with h | h | h
  all_goals simp only [h]; split_ifs <;> rfl

/-- A host's write of eight bytes to a register of its port that it may write. -/
theorem State.bar0Write_port {s : State} {p : PortId} {r : Nat} {bs : List Byte} (h : s.reaches (.bar0 p) = true)
    (hn : bs.length = 8) (h8 : r % 8 = 0) (hw : portWritable r = true) :
    s.bar0Write p (portBase p + r) bs = s.writePortWord p r (wholeWord (portBase p + r) (leWord bs)) := by
  have hr : r < 0x800 := by rw [portWritable_iff] at hw; omega
  have hb : 0x1000 ≤ portBase p := Nat.le_add_right _ _
  have hm := portBase_mod_eight p
  rw [s.bar0Write_eight h (by omega) hn, State.bar0Word, wholeWord_at,
    State.wkind_port (by omega) (State.reaches_bar0 h).2 (s.portLive_of_writable p hw), hw]
  simp only [if_true]
  rw [if_neg (by omega)]
  rcases PortId.eq_zero_or_one p with rfl | rfl
  · rw [if_pos (by simp only [portBase]; omega)]; simp [portBase]
  · rw [if_neg (by simp [portBase]), if_pos (by simp only [portBase]; omega)]; simp [portBase]

/-- A read-only word of a work list has no reserved field (R418). -/
theorem reservedMask_port_list (p : PortId) {r : Nat} (h : 0x100 ≤ r) (hr : r < 0x200) :
    reservedMask (portBase p + r) = 0 := by
  have hr' : r < 0x10000 := by omega
  have hb : 0x1000 ≤ portBase p := Nat.le_add_right _ _
  have hz : portRsv r = [] := by
    rw [portRsv, if_neg (by omega), if_neg (by rw [Bool.and_eq_true, within_iff]; omega)]
  have hf : reservedFields (portBase p + r) = [] := by
    rw [reservedFields, if_pos (by unfold portBase; omega), hstRsv, if_neg (by omega), if_neg (by omega),
      within_port_zero p hr', within_port_one p hr']
    rcases PortId.eq_zero_or_one p with rfl | rfl
    all_goals simp [portBase, hz]
  rw [reservedMask, hf]; rfl

end Sys2Proof.Machine
end

section
/-! SUPPORT. What a host's writes through BAR0 and to the configuration space change, and the obligation on them (O32). -/

namespace Sys2Proof.Machine

/-! ## What a write to one port leaves as it was -/

/-- Of the state only port `p` has changed. -/
def State.portOnly (s u : State) (p : Nat) : Prop :=
  (∀ q, q ≠ p → u.port q = s.port q) ∧ { u with ports := s.ports } = s

theorem State.portOnly_modPort (s : State) (p : Nat) (f : Port → Port) : s.portOnly (s.modPort p f) p :=
  ⟨fun _ hq => State.port_modPort_ne s f hq, rfl⟩

theorem SMap.get_modify {α : Type} (d : α) (m : SMap α) (k j : Nat) (f : α → α) :
    SMap.get d (SMap.modify d m k f) j = if j = k then f (SMap.get d m k) else SMap.get d m j := by
  split
  · subst_vars; exact SMap.get_modify_same d m _ f
  · exact SMap.get_modify_ne d m f ‹_›

/-- Of port `p` only work list `l` has changed, which is now `y`. -/
def State.setsList (s u : State) (p l : Nat) (y : WorkList) : Prop :=
  s.portOnly u p ∧
  (∀ m, SMap.get {} (u.port p).lists m = if m = l then y else SMap.get {} (s.port p).lists m) ∧
  { u.port p with lists := (s.port p).lists } = s.port p

theorem State.setsList_modList (s : State) (p l : Nat) (f : WorkList → WorkList) :
    s.setsList (s.modList p l f) p l (f (SMap.get {} (s.port p).lists l)) := by
  refine ⟨s.portOnly_modPort p _, fun m => ?_, ?_⟩
  · rw [State.modList, State.port_modPort_same, SMap.get_modify]
  · rw [State.modList, State.port_modPort_same]

/-- Of port `p` only notifier `v`, which is now `y`, and the tag that the next search begins with have changed. -/
def State.setsNotifier (s u : State) (p v : Nat) (y : Notifier) (next : BitVec 6) : Prop :=
  (∀ m, SMap.get {} (u.port p).notify m = if m = v then y else SMap.get {} (s.port p).notify m) ∧
  { u.port p with notify := (s.port p).notify } = { s.port p with nextTag := next } ∧
  (∀ q, q ≠ p → u.port q = s.port q)

theorem State.setsNotifier_of_port {s u : State} {p v : Nat} {f : Notifier → Notifier} {next : BitVec 6}
    (h : u.port p = { s.port p with nextTag := next, notify := SMap.modify {} (s.port p).notify v f })
    (ho : ∀ q, q ≠ p → u.port q = s.port q) : s.setsNotifier u p v (f (SMap.get {} (s.port p).notify v)) next := by
  refine ⟨fun m => ?_, ?_, ho⟩
  · rw [h, SMap.get_modify]
  · rw [h]

/-- A reserved field without a bit set counts nothing. -/
theorem State.reservedIf_of_not (s : State) {P : Prop} [Decidable P] (h : ¬P) : s.reservedIf (decide P) = s := by
  rw [decide_eq_false h]; rfl

/-! ## Packets that set out at once (R206, R229, R230) -/

/-- A packet for a module that is not absent sets out. -/
theorem State.post_of_routable {s : State} {p : Packet} (h : s.routable p = true) : s.post p = s.sent [p] :=
  if_pos h

@[simp] theorem State.port_sent (s : State) (ps : List Packet) (q : Nat) : (s.sent ps).port q = s.port q := rfl

/-- An operation of one packet takes its slot, and the packet sets out. -/
theorem State.launch_single (s : State) (unit tag : Nat) (x : RemSlot) (a : Word) (pk : Packet) :
    s.launch unit tag x [(a, [[pk]])] =
      (s.setSlot unit tag (some { x with branches := [{ dst := a, acksLeft := 1 }] })).post pk := rfl

/-- A slot of a host port's engine. -/
theorem State.setSlot_port (s : State) (p : PortId) (tag : Nat) (x : RemSlot) :
    s.setSlot (580 + p.val) tag (some x) = s.modPort p (fun q => { q with slots := SMap.set q.slots tag x }) := by
  rw [State.setSlot, if_neg (by omega), if_neg (by omega), if_pos (by omega), Nat.add_sub_cancel_left]

/-! ## HST_TADD (R394) -/

/-- The addition that a host's 16 bytes ask for, under a tag. -/
def State.taddPacket (s : State) (p : PortId) (bs : List Byte) (t : Nat) : Packet :=
  { op := 4, dst := leWord (bs.take 8), aux := leWord (bs.drop 8), srcModule := s.self,
    srcUnit := BitVec.ofNat 10 (580 + p.val), tag := BitVec.ofNat 6 t }

/-- The operation of an addition, as the port's engine tracks it. -/
def taddSlot (a : Word) : RemSlot := { op := 0x70, branches := [{ dst := a, acksLeft := 1 }] }

/-- With a tag free, a host's addition takes its slot and sets out. -/
theorem State.hostTadd_tracked {s : State} {p : PortId} {bs : List Byte} {t : Nat} (hn : bs.length = 16)
    (ht : lowestFree (s.port p).slots 63 = some t) (hr : s.routable (s.taddPacket p bs t) = true) :
    s.hostTadd p bs = (s.modPort p (fun q => { q with
      slots := SMap.set q.slots t (taddSlot (leWord (bs.take 8))) })).sent [s.taddPacket p bs t] := by
  have h0 : slice bs 0 8 = bs.take 8 := slice_eq_take_drop (by omega)
  have h8 : slice bs 8 8 = bs.drop 8 := by
    rw [slice_eq_take_drop (by omega), List.take_of_length_le (by simp; omega)]
  rw [State.hostTadd, ht, h0, h8]
  dsimp only
  rw [State.launch_single, State.setSlot_port]
  exact State.post_of_routable hr

theorem exec_hstTaddWrite_tracked {s : State} {p : PortId} {bs : List Byte} {t : Nat}
    (h : s.reaches (.bar0 p) = true) (hn : bs.length = 16) (ht : lowestFree (s.port p).slots 63 = some t)
    (hr : s.routable (s.taddPacket p bs t) = true) :
    ∃ u, exec (.hstTaddWrite p bs) s = .next u ∧
      u.port p = { s.port p with slots := SMap.set (s.port p).slots t (taddSlot (leWord (bs.take 8))) } ∧
      (∀ q, q ≠ p.val → u.port q = s.port q) ∧ { u with ports := s.ports } = s.sent [s.taddPacket p bs t] := by
  have he : exec (.hstTaddWrite p bs) s = .next (s.hostTadd p bs) := by
    show execHstTaddWrite p bs s = _
    simp [execHstTaddWrite, h, hn]
  rw [he, State.hostTadd_tracked hn ht hr]
  exact ⟨_, rfl, by rw [State.port_sent, State.port_modPort_same],
    fun q hq => by rw [State.port_sent, State.port_modPort_ne s _ hq], rfl⟩

/-- An addition of another size is counted and dropped (R393). -/
theorem exec_hstTaddWrite_size {s : State} {p : PortId} {bs : List Byte} (h : s.reaches (.bar0 p) = true)
    (hn : bs.length ≠ 16) : exec (.hstTaddWrite p bs) s = .next (s.violate .undefined) := by
  show execHstTaddWrite p bs s = _
  simp [execHstTaddWrite, h, hn]

/-! ## Work lists (R418) -/

/-- A host's eight bytes for word `i` of a work list. -/
theorem exec_hstWlWrite {s : State} {p : PortId} {bs : List Byte} (h : s.reaches (.bar0 p) = true)
    (hn : bs.length = 8) (l : Fin 8) {i : Nat} (hi : i < 3) :
    exec (.hstWlWrite p l (8 * i) bs) s =
      .next (s.writeList p l i (wholeWord (portBase p + (0x100 + 0x20 * l.val + 8 * i)) (leWord bs))) := by
  have hr : portBase p + 0x100 + 0x20 * l.val + 8 * i % 0x20 = portBase p + (0x100 + 0x20 * l.val + 8 * i) := by omega
  have hw : portWritable (0x100 + 0x20 * l.val + 8 * i) = true := by
    rw [portWritable_iff]; omega
  refine congrArg Host.Outcome.next ?_
  rw [hr, State.bar0Write_port h hn (by omega) hw, State.writePortWord, if_neg (by omega), if_pos (by omega),
    show (0x100 + 0x20 * l.val + 8 * i - 0x100) / 0x20 = l.val by omega,
    show (0x100 + 0x20 * l.val + 8 * i - 0x100) % 0x20 / 8 = i by omega]

/-- The count of commands fetched is the module's own. -/
theorem exec_hstWlWrite_consumed {s : State} {p : PortId} {bs : List Byte} (h : s.reaches (.bar0 p) = true)
    (hn : bs.length = 8) (l : Fin 8) : exec (.hstWlWrite p l 24 bs) s = .next (s.violate .readOnly) := by
  have hr : portBase p + 0x100 + 0x20 * l.val + 24 % 0x20 = portBase p + (0x118 + 0x20 * l.val) := by omega
  have hw : portWritable (0x118 + 0x20 * l.val) = false := by
    rw [← Bool.not_eq_true, portWritable_iff]; omega
  have hl : (s.portLive p (0x118 + 0x20 * l.val)).isSome = true := by
    rw [State.portLive, if_neg (by omega), if_neg (by omega), if_neg (by omega), if_neg (by omega),
      if_pos (by rw [within_iff]; omega)]
    rfl
  have hm := portBase_mod_eight p
  refine congrArg Host.Outcome.next ?_
  rw [hr, s.bar0Write_eight h (by omega) hn, State.bar0Word, wholeWord_at,
    State.wkind_port (by omega) (State.reaches_bar0 h).2 hl, hw]
  simp [State.roWrite, reservedMask_port_list p (r := 0x118 + 0x20 * l.val) (by omega) (by omega)]

theorem State.writeList_base (s : State) (p l o : Nat) {w : Word} (hlo : w.toNat % 2 ^ 12 = 0)
    (hhi : w.toNat / 2 ^ 46 = 0) :
    s.writeList p l 0 (wholeWord o w) =
      s.modList p l (fun x => { x with base := BitVec.ofNat 34 (w.toNat / 2 ^ 12) }) := by
  have hr : ¬((wholeWord o w).get 46 18 ≠ 0 ∨ (wholeWord o w).get 0 12 ≠ 0) := by
    rw [wholeWord_get, wholeWord_get]; omega
  have hb : (wholeWord o w).get 12 34 = w.toNat / 2 ^ 12 := by rw [wholeWord_get]; omega
  rw [State.writeList, State.reservedIf_of_not s hr, wholeWord_has o w (by decide), hb]
  rfl

theorem State.writeList_tally (s : State) (p l o : Nat) {w : Word} (hlo : w.toNat % 2 ^ 3 = 0)
    (hhi : w.toNat / 2 ^ 46 = 0) :
    s.writeList p l 2 (wholeWord o w) =
      s.modList p l (fun x => { x with tally := BitVec.ofNat 43 (w.toNat / 2 ^ 3) }) := by
  have hr : ¬((wholeWord o w).get 46 18 ≠ 0 ∨ (wholeWord o w).get 0 3 ≠ 0) := by
    rw [wholeWord_get, wholeWord_get]; omega
  have hb : (wholeWord o w).get 3 43 = w.toNat / 2 ^ 3 := by rw [wholeWord_get]; omega
  rw [State.writeList, State.reservedIf_of_not s hr, wholeWord_has o w (by decide), hb]
  rfl

/-- What a write of a work list's size and enable comes to, with nothing reserved set (R418). -/
theorem State.writeList_ctl (s : State) (p l o : Nat) {w : Word} (hr : w.toNat / 2 ^ 5 % 2 ^ 58 = 0) {k : BitVec 5}
    (hk : (if (SMap.get {} (s.port p).lists l).enable then (SMap.get {} (s.port p).lists l).k else w.setWidth 5) = k) :
    s.writeList p l 1 (wholeWord o w) =
      if w.getLsbD 63 && !(SMap.get {} (s.port p).lists l).enable && (decide (k.toNat < 4) || decide (16 < k.toNat))
      then s.violate .undefined
      else s.modList p l (fun x => { x with
        k := k, enable := w.getLsbD 63, consumed := if w.getLsbD 63 && !x.enable then 0 else x.consumed }) := by
  have h5 : BitVec.ofNat 5 ((wholeWord o w).get 0 5) = w.setWidth 5 := by
    apply BitVec.eq_of_toNat_eq
    simp [wholeWord_get]
  have h63 : decide ((wholeWord o w).get 63 1 = 1) = w.getLsbD 63 := by
    exact Nat.testBit_eq_decide_div_mod_eq.symm
  have hm : (if (wholeWord o w).has 0 5 && !(SMap.get {} (s.port p).lists l).enable then
      BitVec.ofNat 5 ((wholeWord o w).get 0 5) else (SMap.get {} (s.port p).lists l).k) = k := by
    rw [wholeWord_has o w (by decide), h5, ← hk]
    cases (SMap.get {} (s.port p).lists l).enable <;> rfl
  rw [State.writeList, State.writeListCtl]
  simp only [hm, h63, wholeWord_has o w (show 63 + 1 ≤ 64 by decide), if_true,
    State.reservedIf_of_not s (show ¬(wholeWord o w).get 5 58 ≠ 0 from not_not.2 hr)]

theorem exec_hstWlWrite_base {s : State} {p : PortId} {bs : List Byte} (h : s.reaches (.bar0 p) = true)
    (hn : bs.length = 8) (l : Fin 8) (hlo : (leWord bs).toNat % 2 ^ 12 = 0) (hhi : (leWord bs).toNat / 2 ^ 46 = 0) :
    ∃ u, exec (.hstWlWrite p l 0 bs) s = .next u ∧ s.setsList u p l
      { SMap.get {} (s.port p).lists l with base := BitVec.ofNat 34 ((leWord bs).toNat / 2 ^ 12) } := by
  refine ⟨_, exec_hstWlWrite h hn l (i := 0) (by decide), ?_⟩
  rw [State.writeList_base s p l _ hlo hhi]
  exact State.setsList_modList s p l _

theorem exec_hstWlWrite_tally {s : State} {p : PortId} {bs : List Byte} (h : s.reaches (.bar0 p) = true)
    (hn : bs.length = 8) (l : Fin 8) (hlo : (leWord bs).toNat % 2 ^ 3 = 0) (hhi : (leWord bs).toNat / 2 ^ 46 = 0) :
    ∃ u, exec (.hstWlWrite p l 16 bs) s = .next u ∧ s.setsList u p l
      { SMap.get {} (s.port p).lists l with tally := BitVec.ofNat 43 ((leWord bs).toNat / 2 ^ 3) } := by
  refine ⟨_, exec_hstWlWrite h hn l (i := 2) (by decide), ?_⟩
  rw [State.writeList_tally s p l _ hlo hhi]
  exact State.setsList_modList s p l _

/-- A work list that is disabled takes its size, and its enable with a size of 4 to 16. -/
theorem exec_hstWlWrite_disabled {s : State} {p : PortId} {bs : List Byte} (h : s.reaches (.bar0 p) = true)
    (hn : bs.length = 8) (l : Fin 8) (hr : (leWord bs).toNat / 2 ^ 5 % 2 ^ 58 = 0)
    (hx : (SMap.get {} (s.port p).lists l).enable = false)
    (hk : (leWord bs).getLsbD 63 = false ∨
      (4 ≤ ((leWord bs).setWidth 5 : BitVec 5).toNat ∧ ((leWord bs).setWidth 5 : BitVec 5).toNat ≤ 16)) :
    ∃ u, exec (.hstWlWrite p l 8 bs) s = .next u ∧ s.setsList u p l
      { SMap.get {} (s.port p).lists l with
        k := (leWord bs).setWidth 5, enable := (leWord bs).getLsbD 63,
        consumed := if (leWord bs).getLsbD 63 then 0 else (SMap.get {} (s.port p).lists l).consumed } := by
  refine ⟨_, exec_hstWlWrite h hn l (i := 1) (by decide), ?_⟩
  rw [State.writeList_ctl s p l _ hr (k := (leWord bs).setWidth 5) (by rw [hx]; rfl), if_neg]
  · have hs := State.setsList_modList s p l (fun x => { x with
      k := (leWord bs).setWidth 5, enable := (leWord bs).getLsbD 63,
      consumed := if (leWord bs).getLsbD 63 && !x.enable then 0 else x.consumed })
    simpa only [hx, Bool.not_false, Bool.and_true] using hs
  · rcases hk with hk | ⟨hk4, hk16⟩
    · simp only [hk, Bool.false_and, Bool.false_eq_true, not_false_iff]
    · simp only [decide_eq_false (Nat.not_lt.2 hk4), decide_eq_false (Nat.not_lt.2 hk16), Bool.or_false, Bool.and_false,
        Bool.false_eq_true, not_false_iff]

/-- A work list is not enabled with a size out of range. -/
theorem exec_hstWlWrite_refused {s : State} {p : PortId} {bs : List Byte} (h : s.reaches (.bar0 p) = true)
    (hn : bs.length = 8) (l : Fin 8) (hr : (leWord bs).toNat / 2 ^ 5 % 2 ^ 58 = 0)
    (hx : (SMap.get {} (s.port p).lists l).enable = false) (he : (leWord bs).getLsbD 63 = true)
    (hk : ((leWord bs).setWidth 5 : BitVec 5).toNat < 4 ∨ 16 < ((leWord bs).setWidth 5 : BitVec 5).toNat) :
    exec (.hstWlWrite p l 8 bs) s = .next (s.violate .undefined) := by
  rw [exec_hstWlWrite h hn l (i := 1) (by decide),
    State.writeList_ctl s p l _ hr (k := (leWord bs).setWidth 5) (by rw [hx]; rfl), if_pos]
  simpa only [he, hx, Bool.not_false, Bool.and_true, Bool.true_and, Bool.or_eq_true, decide_eq_true_eq] using hk

/-- A work list that is enabled takes its enable alone. -/
theorem exec_hstWlWrite_enabled {s : State} {p : PortId} {bs : List Byte} (h : s.reaches (.bar0 p) = true)
    (hn : bs.length = 8) (l : Fin 8) (hr : (leWord bs).toNat / 2 ^ 5 % 2 ^ 58 = 0)
    (hx : (SMap.get {} (s.port p).lists l).enable = true) :
    ∃ u, exec (.hstWlWrite p l 8 bs) s = .next u ∧ s.setsList u p l
      { SMap.get {} (s.port p).lists l with enable := (leWord bs).getLsbD 63 } := by
  refine ⟨_, exec_hstWlWrite h hn l (i := 1) (by decide), ?_⟩
  rw [State.writeList_ctl s p l _ hr (k := (SMap.get {} (s.port p).lists l).k) (by rw [hx, if_pos rfl]),
    if_neg (by simp only [hx, Bool.not_true, Bool.and_false, Bool.false_and, Bool.false_eq_true, not_false_iff])]
  have hs := State.setsList_modList s p l (fun x => { x with
    k := (SMap.get {} (s.port p).lists l).k, enable := (leWord bs).getLsbD 63,
    consumed := if (leWord bs).getLsbD 63 && !x.enable then 0 else x.consumed })
  simpa only [hx, Bool.not_true, Bool.and_false, Bool.false_eq_true, if_false] using hs

/-! ## Notifiers (R413, R419) -/

/-- A host's eight bytes for word `i` of a notifier. -/
theorem exec_hstNotifyWrite {s : State} {p : PortId} {bs : List Byte} (h : s.reaches (.bar0 p) = true)
    (hn : bs.length = 8) {v : Fin 64} (hv : 8 ≤ v.val) {i : Nat} (hi : i < 2) :
    exec (.hstNotifyWrite p v (8 * i) bs) s = .next
      (if i = 0 then s.modPort p (fun q => { q with
          notify := SMap.modify {} q.notify v (fun n => { n with addr := leWord bs }) })
        else s.armNotifier p v (leWord bs)) := by
  have hr : portBase p + 0x400 + 0x10 * v.val + 8 * i % 0x10 = portBase p + (0x400 + 0x10 * v.val + 8 * i) := by omega
  have hw : portWritable (0x400 + 0x10 * v.val + 8 * i) = true := by
    rw [portWritable_iff]; omega
  refine congrArg Host.Outcome.next ?_
  rw [hr, State.bar0Write_port h hn (by omega) hw, State.writePortWord, if_neg (by omega), if_neg (by omega),
    show (0x400 + 0x10 * v.val + 8 * i - 0x400) / 0x10 = v.val by omega,
    show (0x400 + 0x10 * v.val + 8 * i) % 0x10 / 8 = i by omega, State.writeNotify, wholeWord_has _ _ (by decide)]
  rfl

theorem exec_hstNotifyWrite_addr {s : State} {p : PortId} {bs : List Byte} (h : s.reaches (.bar0 p) = true)
    (hn : bs.length = 8) {v : Fin 64} (hv : 8 ≤ v.val) :
    ∃ u, exec (.hstNotifyWrite p v 0 bs) s = .next u ∧
      s.setsNotifier u p v { SMap.get {} (s.port p).notify v with addr := leWord bs } (s.port p).nextTag ∧
      { u with ports := s.ports } = s :=
  ⟨_, exec_hstNotifyWrite h hn hv (i := 0) (by decide),
    State.setsNotifier_of_port (f := fun n => { n with addr := leWord bs }) (State.port_modPort_same s p _)
      (fun _ hq => State.port_modPort_ne s _ hq), rfl⟩

/-- Taking back a registration leaves the ports as they were. -/
@[simp] theorem State.port_withdrawNotifier (s : State) (p v q : Nat) : (s.withdrawNotifier p v).port q = s.port q := rfl

/-- A notifier that is armed with 0 is disarmed. -/
theorem State.armNotifier_zero (s : State) (p v : Nat) :
    s.armNotifier p v 0 = (s.withdrawNotifier p v).modPort p (fun q => { q with
      notify := SMap.modify {} q.notify v (fun n => { n with value := 0, reg := none }) }) := rfl

theorem exec_hstNotifyWrite_disarm {s : State} {p : PortId} {bs : List Byte} (h : s.reaches (.bar0 p) = true)
    (hn : bs.length = 8) {v : Fin 64} (hv : 8 ≤ v.val) (hw : leWord bs = 0) :
    ∃ u, exec (.hstNotifyWrite p v 8 bs) s = .next u ∧
      s.setsNotifier u p v { SMap.get {} (s.port p).notify v with value := 0, reg := none } (s.port p).nextTag ∧
      { u with ports := s.ports } = s.withdrawNotifier p v := by
  refine ⟨_, exec_hstNotifyWrite h hn hv (i := 1) (by decide), ?_⟩
  rw [if_neg (by decide), hw, State.armNotifier_zero]
  exact ⟨State.setsNotifier_of_port (f := fun n => { n with value := 0, reg := none })
    (State.port_modPort_same _ p _) (fun q hq => State.port_modPort_ne _ _ hq), rfl⟩

/-- A tag that no registration has is found where there is one (R413). -/
theorem Port.freshTag_fresh {q : Port} (h : ∃ i : BitVec 6, ∀ y ∈ q.notify, y.2.reg ≠ some i) :
    ∀ y ∈ q.notify, y.2.reg ≠ some q.freshTag := by
  obtain ⟨i, hi⟩ := h
  rw [Port.freshTag]
  cases hf : List.find? (fun t => !q.notify.any (fun n => decide (n.2.reg = some t)))
      ((List.range 64).map (fun i => q.nextTag + BitVec.ofNat 6 i)) with
  | some t => simpa using List.find?_some hf
  | none =>
    have hmem : i ∈ (List.range 64).map (fun i => q.nextTag + BitVec.ofNat 6 i) :=
      List.mem_map.2 ⟨(i - q.nextTag).toNat, List.mem_range.2 (i - q.nextTag).isLt, by
        rw [BitVec.ofNat_toNat, BitVec.setWidth_eq, add_sub_cancel]⟩
    have hno := List.find?_eq_none.1 hf i hmem
    simp only [Bool.not_eq_true', Bool.not_eq_false, List.any_eq_true, decide_eq_true_eq] at hno
    obtain ⟨y, hy, hyi⟩ := hno
    exact absurd hyi (hi y hy)

/-- The registration of a notifier that is armed with a value (R413). -/
def State.waitRegPacket (s : State) (p : PortId) (v : Nat) (value : Word) : Packet :=
  { op := 6, dst := (SMap.get {} (s.port p).notify v).addr, aux := value, srcModule := s.self,
    srcUnit := BitVec.ofNat 10 (580 + p.val), tag := (s.port p).freshTag }

/-- A notifier that is armed with a value registers under a fresh tag. -/
theorem State.armNotifier_of_ne_zero {s : State} {p : PortId} {v : Nat} {value : Word} (hw : value ≠ 0)
    (hr : s.routable (s.waitRegPacket p v value) = true) :
    s.armNotifier p v value = ((s.withdrawNotifier p v).modPort p (fun q => { q with
      nextTag := (s.port p).freshTag + 1
      notify := SMap.modify {} q.notify v (fun n => { n with
        value := value, reg := some (s.port p).freshTag }) })).sent [s.waitRegPacket p v value] := by
  rw [State.armNotifier]
  simp only [hw, if_false, State.port_modPort_same, SMap.get_modify_same]
  exact State.post_of_routable hr

theorem exec_hstNotifyWrite_register {s : State} {p : PortId} {bs : List Byte} (h : s.reaches (.bar0 p) = true)
    (hn : bs.length = 8) {v : Fin 64} (hv : 8 ≤ v.val) (hw : leWord bs ≠ 0)
    (hr : s.routable (s.waitRegPacket p v (leWord bs)) = true) :
    ∃ u, exec (.hstNotifyWrite p v 8 bs) s = .next u ∧
      s.setsNotifier u p v { SMap.get {} (s.port p).notify v with value := leWord bs, reg := some (s.port p).freshTag }
        ((s.port p).freshTag + 1) ∧
      { u with ports := s.ports } = (s.withdrawNotifier p v).sent [s.waitRegPacket p v (leWord bs)] := by
  refine ⟨_, exec_hstNotifyWrite h hn hv (i := 1) (by decide), ?_⟩
  rw [if_neg (by decide), State.armNotifier_of_ne_zero hw hr]
  exact ⟨State.setsNotifier_of_port (f := fun n => { n with value := leWord bs, reg := some (s.port p).freshTag })
    (by rw [State.port_sent, State.port_modPort_same]; rfl)
    (fun q hq => by rw [State.port_sent, State.port_modPort_ne _ _ hq]; rfl), rfl⟩

/-! ## The base of BAR2 (R392, R417) -/

/-- A host's base for BAR2, with nothing reserved set: a multiple of the BAR's size that keeps it in the aperture is
taken, any other is counted. -/
theorem exec_hstApBaseWrite {s : State} {p : PortId} {bs : List Byte} (h : s.reaches (.bar0 p) = true)
    (hn : bs.length = 8) (hlo : (leWord bs).toNat % 2 ^ 30 = 0) (hhi : (leWord bs).toNat / 2 ^ 46 = 0) :
    exec (.hstApBaseWrite p 0 bs) s = .next
      (if (leWord bs).toNat % 2 ^ (s.port p).bar2Log = 0 ∧ (leWord bs).toNat + 2 ^ (s.port p).bar2Log ≤ 2 ^ 39 then
        s.modPort p (fun q => { q with apBase := BitVec.ofNat 16 ((leWord bs).toNat / 2 ^ 30) })
      else s.violate .undefined) := by
  have hw : s.bar0Write p (portBase p + 8 + 0 % 8) bs = s.writeApBase p (wholeWord (portBase p + 8) (leWord bs)) := by
    rw [Nat.zero_mod, Nat.add_zero, State.bar0Write_port h hn (by decide) (by decide), State.writePortWord, if_pos rfl]
  have hr : ¬((wholeWord (portBase p + 8) (leWord bs)).get 46 18 ≠ 0 ∨
      (wholeWord (portBase p + 8) (leWord bs)).get 0 30 ≠ 0) := by
    rw [wholeWord_get, wholeWord_get]; omega
  have hv : (wholeWord (portBase p + 8) (leWord bs)).get 30 16 = (leWord bs).toNat / 2 ^ 30 := by
    rw [wholeWord_get]; omega
  have hb : (leWord bs).toNat / 2 ^ 30 * 2 ^ 30 = (leWord bs).toNat := Nat.div_mul_cancel (Nat.dvd_of_mod_eq_zero hlo)
  refine congrArg Host.Outcome.next (hw.trans ?_)
  rw [State.writeApBase, State.reservedIf_of_not s hr, wholeWord_has _ _ (by decide), hv]
  simp only [Bool.not_true, Bool.false_eq_true, if_false, hb]

/-- The register is the same word by its own offset. -/
theorem exec_registerWrite_apBase (s : State) (p : PortId) (bs : List Byte) :
    exec (.registerWrite (.bar0 p) (0x1000 + 0x10000 * p.val + 8) bs) s = exec (.hstApBaseWrite p 0 bs) s := by
  refine congrArg Host.Outcome.next (?_ : s.bar0Write p _ bs = s.bar0Write p (portBase p + 8 + 0 % 8) bs)
  rw [Nat.zero_mod, Nat.add_zero, portBase]

/-! ## FT_RANGE_CLEAR and the words beside it (R140, R142) -/

/-- The word for clearing range counters, which reads as zero, is a host's to write. -/
theorem State.wkind_rangeClear (s : State) : s.wkind 0x1010008 = .rangeClear := rfl

/-- The number of the range counters is read-only. -/
theorem State.wkind_rangeInfo (s : State) : s.wkind 0x1010000 = .ro := rfl

/-- A read of an array after the entries at some indexes were dropped. -/
theorem SMap.get_filter {α : Type} (d : α) (m : SMap α) (keep : Nat → Bool) (k : Nat) :
    SMap.get d (m.filter (fun x => keep x.1)) k = if keep k then SMap.get d m k else d := by
  have hf : SMap.find? (m.filter (fun x => keep x.1)) k = if keep k then SMap.find? m k else none := by
    induction m with
    | nil => simp
    | cons x m ih =>
      obtain ⟨i, v⟩ := x
      by_cases hi : i = k
      · subst hi
        by_cases hk : keep i = true
        · simp [SMap.find?, hk]
        · simpa [List.filter_cons, SMap.find?, hk] using ih
      · by_cases hk : keep i = true
        · simpa [List.filter_cons, SMap.find?, hi, hk] using ih
        · simpa [List.filter_cons, SMap.find?, hi, hk] using ih
  rw [SMap.get, hf, SMap.get]
  split <;> rfl

theorem exec_ftRangeClearWrite {s : State} {p : PortId} {bs : List Byte} (h : s.reaches (.bar0 p) = true)
    (hn : bs.length = 8) : exec (.ftRangeClearWrite (.bar0 p) 0 bs) s = .next (s.clearRange (leWord bs)) := by
  have hw : s.bar0Write p 0x1010008 bs = s.bar0Word p (wholeWord 0x1010008 (leWord bs)) :=
    State.bar0Write_eight h (by decide) hn
  refine congrArg Host.Outcome.next (hw.trans ?_)
  rw [State.bar0Word, wholeWord_at, State.wkind_rangeClear, wholeWord_has _ _ (by decide)]
  rfl

/-- A group's range counters after groups were cleared. -/
theorem State.range_clearRange (s : State) (mask : Word) (g : Nat) {f : Nat} (hf : f < 9) :
    SMap.get {} (s.clearRange mask).ft.range (9 * g + f) =
      if mask.getLsbD g = true then {} else SMap.get {} s.ft.range (9 * g + f) := by
  have hg : (9 * g + f) / 9 = g := by omega
  have := SMap.get_filter {} s.ft.range (fun i => !mask.getLsbD (i / 9)) (9 * g + f)
  rw [hg] at this
  rw [State.clearRange, this]
  cases mask.getLsbD g <;> rfl

/-- A host's write of the number of the range counters changes nothing and is counted (R8, R9). -/
theorem exec_registerWrite_rangeInfo {s : State} {p : PortId} {bs : List Byte} (h : s.reaches (.bar0 p) = true)
    (hn : bs.length = 8) :
    exec (.registerWrite (.bar0 p) 0x1010000 bs) s = .next (State.violate
      (if leWord bs &&& 0xFFFFFFFFFFF00000 ≠ 0 then s.violate .reservedSet else s) .readOnly) := by
  have hm : reservedMask 0x1010000 = 0xFFFFFFFFFFF00000 := by decide
  have hw : s.bar0Write p 0x1010000 bs = s.bar0Word p (wholeWord 0x1010000 (leWord bs)) :=
    State.bar0Write_eight h (by decide) hn
  refine congrArg Host.Outcome.next (hw.trans ?_)
  rw [State.bar0Word, wholeWord_at, State.wkind_rangeInfo, wholeWord_mask, wholeWord_value]
  dsimp only
  rw [State.roWrite, hm, BitVec.and_allOnes]
  rfl

theorem exec_registerWrite_misaligned {s : State} {p : PortId} {off : Nat} {bs : List Byte}
    (h : s.reaches (.bar0 p) = true) (ho : off % 8 ≠ 0) (hn : bs.length = 8) :
    exec (.registerWrite (.bar0 p) off bs) s = .next (s.violate .undefined) :=
  congrArg Host.Outcome.next (State.bar0Write_misaligned h ho hn)

/-! ## CORE_LATCH_FAULT (R62) -/

/-- The state once a host's write of CORE_LATCH_FAULT has been counted (R8, R9). -/
def State.latchCounted (s : State) (v : Word) : State :=
  let r := if v &&& 0xFFFF00000000FFFC ≠ 0 then s.violate .reservedSet else s
  if v &&& 0x0000FFFFFFFF0001 ≠ 0 then r.violate .readOnly else r

/-- A whole write of CORE_LATCH_FAULT is counted by its reserved and its read-only bits, and clears `lost` by bit 1. -/
theorem State.latchWrite_whole (s : State) (c : Nat) (v : Word) :
    s.latchWrite c (BitVec.allOnes 64) v = (s.latchCounted v).clearLost c v := by
  have hm : reservedMask 0x3000018 = 0xFFFF00000000FFFC := by decide
  have h2 : (v &&& latchRo ≠ 0 ∨ BitVec.allOnes 64 &&& 2 = 0) ↔ v &&& 0x0000FFFFFFFF0001 ≠ 0 :=
    or_iff_left (by decide)
  rw [State.latchWrite, hm, BitVec.and_allOnes]
  simp only [h2]
  rfl

theorem State.latchCounted_clearBit (s : State) (v : Word) : s.latchCounted (v &&& ~~~2) = s.latchCounted v := by
  rw [State.latchCounted, State.latchCounted, BitVec.and_assoc, BitVec.and_assoc]
  rfl

/-- Where the module is up and the core is out of reset, a host's write reaches the register. -/
theorem exec_latchFaultLostClear {s : State} {c : CoreId} (v : Word) (now : Bool) (hg : s.pwr.good = true)
    (hu : s.job.st ≠ .unset) (hc : (s.core c).run.state ≠ .reset) :
    exec (.latchFaultLostClear c v now) s =
      .next (s.latchWrite c (BitVec.allOnes 64) (if now then v &&& ~~~2 else v)) := by
  show execLatchFaultLostClear c v now s = _
  simp [execLatchFaultLostClear, State.coreInReset, hg, hu, hc]

theorem exec_latchFaultLostClear_clears {s : State} {c : CoreId} {v : Word} (hg : s.pwr.good = true)
    (hu : s.job.st ≠ .unset) (hc : (s.core c).run.state ≠ .reset) (hv : v.getLsbD 1 = true) :
    ∃ u, exec (.latchFaultLostClear c v false) s = .next u ∧ (s.latchCounted v).sameButCores u ∧
      (∀ d, d ≠ c.val → u.core d = s.core d) ∧
      u.core c = { s.core c with arr := { (s.core c).arr with lfLost := false } } := by
  have hk : (s.latchCounted v).cores = s.cores := by
    rw [State.latchCounted]; split_ifs <;> rfl
  refine ⟨_, exec_latchFaultLostClear v false hg hu hc, ?_⟩
  rw [if_neg (by decide), State.latchWrite_whole, State.clearLost, if_pos hv]
  refine ⟨rfl, fun d hd => ?_, ?_⟩
  · rw [State.core_modArr_ne _ _ hd, State.core_congr hk]
  · rw [State.core_modArr_same, State.core_congr hk]

theorem exec_latchFaultLostClear_without {s : State} {c : CoreId} {v : Word} (hg : s.pwr.good = true)
    (hu : s.job.st ≠ .unset) (hc : (s.core c).run.state ≠ .reset) (hv : v.getLsbD 1 = false) :
    exec (.latchFaultLostClear c v false) s = .next (s.latchCounted v) := by
  rw [exec_latchFaultLostClear v false hg hu hc, if_neg (by decide), State.latchWrite_whole, State.clearLost,
    if_neg (by simp only [hv, Bool.false_eq_true, not_false_iff])]

/-- An event of the same cycle that sets `lost` wins over its clearing. -/
theorem exec_latchFaultLostClear_setNow {s : State} {c : CoreId} (v : Word) (hg : s.pwr.good = true)
    (hu : s.job.st ≠ .unset) (hc : (s.core c).run.state ≠ .reset) :
    exec (.latchFaultLostClear c v true) s = .next (s.latchCounted v) := by
  have hb : (v &&& ~~~2).getLsbD 1 = false := by simp
  rw [exec_latchFaultLostClear v true hg hu hc, if_pos rfl, State.latchWrite_whole, State.clearLost,
    if_neg (by simp only [hb, Bool.false_eq_true, not_false_iff]), State.latchCounted_clearBit]

/-- A write that meets a core in reset does nothing (R438). -/
theorem exec_latchFaultLostClear_inReset {s : State} {c : CoreId} (v : Word) (now : Bool)
    (hc : (s.core c).run.state = .reset) : exec (.latchFaultLostClear c v now) s = .next s := by
  show execLatchFaultLostClear c v now s = _
  simp [execLatchFaultLostClear, State.coreInReset, hc]

/-! ## The configuration space (R389, R412) -/

/-- Bits [1:0] of the power control say D0 or D3hot. -/
theorem Port.cfgWrite_power (q : Port) (b : Byte) : q.cfgWrite 0x44 b =
    if b &&& 3 = 0 then { q with d3 := false } else if b &&& 3 = 3 then { q with d3 := true } else q := rfl

/-- The message control has the MSI-X enable and the function mask. -/
theorem Port.cfgWrite_msix (q : Port) (b : Byte) :
    q.cfgWrite 0x53 b = { q with msixEn := b.getLsbD 7, maskAll := b.getLsbD 6 } := rfl

/-- The Resizable BAR control has the size of BAR2. -/
theorem Port.cfgWrite_bar2 (q : Port) (b : Byte) : q.cfgWrite 0x209 b = q.setBar2 (20 + b.toNat % 64) := by
  rw [Port.cfgWrite, if_neg (by decide), if_neg (by decide), if_pos rfl]

theorem Port.cfgWrite_pba (q : Port) (o : Nat) (b : Byte) : (q.cfgWrite o b).pba = q.pba := by
  rw [Port.cfgWrite, Port.setBar2]
  split_ifs <;> rfl

/-- With no vector pending none is raised. -/
theorem State.raisePending_of_pba {s : State} {p : Nat} (h : (s.port p).pba = 0) : s.raisePending p = s :=
  List.foldl_fixed' (fun v => by simp [h]) _

/-- A host's byte in its port's configuration space, with no vector pending. -/
theorem exec_registerWrite_cfg {s : State} {p : PortId} {off : Nat} (b : Byte) (h : s.reaches (.cfg p) = true)
    (ho : off < 4096) (hp : (s.port p).pba = 0) :
    ∃ u, exec (.registerWrite (.cfg p) off [b]) s = .next u ∧ u.port p = (s.port p).cfgWrite off b ∧
      (∀ x, x ≠ p.val → u.port x = s.port x) ∧ { u with ports := s.ports } = s := by
  have hs : cfgSize off [b].length = true := by
    simp [cfgSize, Nat.mod_one, show off + 1 ≤ 4096 by omega]
  have hw : s.writeCfg p off [b] = (s.modPort p (fun q => q.cfgWrite off b)).raisePending p := by
    rw [State.writeCfg, h, hs]; rfl
  refine ⟨s.modPort p (fun q => q.cfgWrite off b), congrArg Host.Outcome.next (hw.trans ?_),
    State.port_modPort_same s p _, State.portOnly_modPort s p _⟩
  exact State.raisePending_of_pba (by rw [State.port_modPort_same, Port.cfgWrite_pba, hp])

/-- A size of BAR2 that the standing base admits is taken (R389, R392). -/
theorem Port.setBar2_of_admitted {q : Port} {log : Nat} (hlo : 30 ≤ log) (hhi : log ≤ 39)
    (hm : q.apBase.toNat * 2 ^ 30 % 2 ^ log = 0) (ha : q.apBase.toNat * 2 ^ 30 + 2 ^ log ≤ 2 ^ 39) :
    q.setBar2 log = { q with bar2Log := log } := by
  rw [Port.setBar2, if_neg (by omega), if_pos ⟨hm, ha⟩]

/-! ## The obligation -/

/-- Settles O32: each write is one word write of its register, which changes the field as the register's rule says. -/
theorem hostWrites : Obligations.HostWrites := by
  unfold Obligations.HostWrites
  refine ⟨fun p bs s h => ?_, fun p b s h hp => ?_⟩
  · intro w n portOnly
    obtain ⟨hg, -⟩ := State.reaches_bar0 h
    refine ⟨fun hn t ht hr => exec_hstTaddWrite_tracked h hn ht hr, exec_hstTaddWrite_size h,
      fun hn => ⟨fun l => ?lists, fun v hv => ?notifiers, fun hlo hhi => ?aperture, ?rangeClear, ?words⟩,
      fun c v hu hc => ⟨exec_latchFaultLostClear_clears hg hu hc, exec_latchFaultLostClear_without hg hu hc,
        exec_latchFaultLostClear_setNow v hg hu hc⟩, fun c v now => exec_latchFaultLostClear_inReset v now⟩
    case lists =>
      exact ⟨exec_hstWlWrite_base h hn l,
        fun hr => ⟨exec_hstWlWrite_disabled h hn l hr, exec_hstWlWrite_refused h hn l hr,
          exec_hstWlWrite_enabled h hn l hr⟩,
        exec_hstWlWrite_tally h hn l, exec_hstWlWrite_consumed h hn l⟩
    case notifiers =>
      exact ⟨exec_hstNotifyWrite_addr h hn hv, exec_hstNotifyWrite_disarm h hn hv, Port.freshTag_fresh,
        exec_hstNotifyWrite_register h hn hv⟩
    case aperture =>
      refine ⟨fun hm ha => ⟨_, exec_hstApBaseWrite h hn hlo hhi, ?_⟩, fun hno => ?_⟩
      · rw [if_pos ⟨hm, ha⟩]
        exact ⟨State.portOnly_modPort s p _, State.port_modPort_same s p _⟩
      · rw [exec_hstApBaseWrite h hn hlo hhi, if_neg hno]
    case rangeClear =>
      exact ⟨_, exec_ftRangeClearWrite h hn, fun g f => State.range_clearRange s w g, rfl⟩
    case words =>
      exact ⟨exec_registerWrite_apBase s p bs, rfl, exec_registerWrite_rangeInfo h hn,
        fun off ho => exec_registerWrite_misaligned h ho hn⟩
  · intro q log sets
    have cfg {off : Nat} {y : Port} (ho : off < 4096) (hy : q.cfgWrite off b = y) : sets off y :=
      hy ▸ exec_registerWrite_cfg b h ho hp
    refine ⟨cfg (by decide) (q.cfgWrite_msix b), fun h0 => cfg (by decide) ?_, fun h3 => cfg (by decide) ?_,
      fun hlo hhi hm ha => cfg (by decide) ?_, fun ho => cfg (by decide) ?_⟩
    · rw [Port.cfgWrite_power, if_pos h0]
    · rw [Port.cfgWrite_power, if_neg (by rw [h3]; decide), if_pos h3]
    · rw [Port.cfgWrite_bar2, Port.setBar2_of_admitted hlo hhi hm ha]
    · rw [Port.cfgWrite_bar2, Port.setBar2, if_pos ho]

end Sys2Proof.Machine
end

section
/-! SUPPORT. What a host's reads give and clear, its accesses through BAR2, and the obligation on them (O33). -/

namespace Sys2Proof.Machine

/-! ## Reads that no register answers (R9, R391, R393) -/

/-- What does not answer reads as zero. -/
theorem exec_readClear_unreached {s : State} {path : RegPath} (off size : Nat) (h : s.reaches path = false) :
    exec (.readClear path off size) s = .next (s.emit (.rdata (List.replicate size 0))) := by
  show execReadClear path off size s = _
  simp [execReadClear, h]

/-- A read by a path that answers, the configuration space apart. -/
theorem exec_readClear_window {s : State} {path : RegPath} (off size : Nat) (h : s.reaches path = true)
    (hp : ∀ q, path ≠ .cfg q) : exec (.readClear path off size) s = .next (s.readWindow path off size) := by
  show execReadClear path off size s = _
  cases path with
  | cfg q => exact absurd rfl (hp q)
  | _ => simp [execReadClear, h]

/-- A read of a size that the window does not take, or of what it does not map, gives zero and is counted. -/
theorem State.readWindow_undefined {s : State} {path : RegPath} {off size : Nat}
    (h : barSize off size = false ∨ pathMaps path off = false) :
    s.readWindow path off size = (s.emit (.rdata (List.replicate size 0))).violate .undefined :=
  if_pos (by rcases h with h | h <;> simp [h])

/-! ## The configuration space (R388, R389) -/

/-- A read of a double word of a port's configuration space. -/
theorem exec_readClear_cfg {s : State} {p : PortId} {off : Nat} (h : s.reaches (.cfg p) = true) (ho : off % 4 = 0)
    (hl : off < 4096) : exec (.readClear (.cfg p) off 4) s =
      .next (s.emit (.rdata (leBytes 4 ((s.port p).cfgDword (pciIdentity p) off)))) := by
  have hs : cfgSize off 4 = true := by simp [cfgSize, ho, show off + 4 ≤ 4096 by omega]
  have hb : s.cfgBytes p off 4 = leBytes 4 ((s.port p).cfgDword (pciIdentity p) off) := by
    rw [State.cfgBytes, ho, Nat.div_mul_cancel (Nat.dvd_of_mod_eq_zero ho)]
    rfl
  have he : exec (.readClear (.cfg p) off 4) s = .next (s.readCfg p off 4) := by
    show execReadClear (.cfg p) off 4 s = _
    simp [execReadClear, h]
  rw [he, State.readCfg, hs, hb]
  rfl

/-! ## Reads of one word (R6) -/

/-- An aligned read of eight bytes covers one word. -/
theorem wordsOf_eight {o : Nat} (h : o % 8 = 0) : wordsOf o 8 = [o] := by
  have hn : (o + 8 - 1) / 8 - o / 8 + 1 = 1 := by omega
  rw [wordsOf, if_neg (by decide), hn, List.range_one, List.map_singleton, show 8 * (o / 8 + 0) = o by omega]

theorem State.ctlBytes_eight (s : State) (p : Nat) {o : Nat} (h : o % 8 = 0) :
    s.ctlBytes p o 8 = wordBytes ((s.ctlWord p o).getD 0) := by
  rw [State.ctlBytes, wordsOf_eight h, h, List.flatMap_singleton]
  rfl

/-- A read of a defined word clears the fields of it that a read clears. -/
theorem State.ctlRead_eight {s : State} {p o : Nat} (h : o % 8 = 0) (hd : (s.ctlWord p o).isSome = true) :
    s.ctlRead p o 8 = s.clearRc o := by
  have hn : (s.ctlWord p o).isNone = false := by simpa using hd
  have hc : coversRc o 8 o = true := by simp [coversRc]
  rw [State.ctlRead, wordsOf_eight h, List.foldl_cons, List.foldl_nil, hn, hc]
  rfl

/-- A host's read of one defined word gives it, and clears what a read clears. -/
theorem exec_readClear_word {s : State} {p : PortId} {o : Nat} (hr : s.reaches (.bar0 p) = true) (h : o % 8 = 0)
    (hd : ∀ u : State, (u.ctlWord p o).isSome = true) :
    exec (.readClear (.bar0 p) o 8) s = .next ((s.emit (.rdata (s.ctlBytes p o 8))).clearRc o) := by
  rw [exec_readClear_window o 8 hr (fun _ => nofun), State.readWindow, barSize_eight h]
  exact congrArg Host.Outcome.next (State.ctlRead_eight h (hd _))

/-- The control space has each cluster's block. -/
theorem State.ctlWord_cluster (s : State) (q : Nat) (k : ClusterId) {r : Nat} (hr : r < 0x10000) :
    s.ctlWord q (0x2000000 + 0x10000 * k.val + r) = s.cluWord k r := by
  rw [State.ctlWord, if_neg (by omega), if_neg (by omega), if_neg (by omega), if_neg (by omega), if_neg (by omega),
    if_neg (by omega), if_neg (by rw [within_iff]; omega), if_pos (by rw [within_iff]; omega),
    show (0x2000000 + 0x10000 * k.val + r - 0x2000000) / 0x10000 = k.val by omega,
    show (0x2000000 + 0x10000 * k.val + r - 0x2000000) % 0x10000 = r by omega]

/-- The control space has each core's block. -/
theorem State.ctlWord_core (s : State) (q : Nat) (c : CoreId) {r : Nat} (hr : r < 0x1000) :
    s.ctlWord q (0x3000000 + 0x1000 * c.val + r) = s.coreWord c r := by
  rw [State.ctlWord, if_neg (by omega), if_neg (by omega), if_neg (by omega), if_neg (by omega), if_neg (by omega),
    if_neg (by omega), if_neg (by rw [within_iff]; omega), if_neg (by rw [within_iff]; omega),
    if_pos (by rw [within_iff]; omega),
    show (0x3000000 + 0x1000 * c.val + r - 0x3000000) / 0x1000 = c.val by omega,
    show (0x3000000 + 0x1000 * c.val + r - 0x3000000) % 0x1000 = r by omega]

/-- CLU_WAIT_USE of a cluster is defined, in reset too. -/
theorem State.ctlWord_cluWaitUse (s : State) (q : Nat) (k : ClusterId) :
    (s.ctlWord q (0x2000028 + 0x10000 * k.val)).isSome = true := by
  have ho : 0x2000028 + 0x10000 * k.val = 0x2000000 + 0x10000 * k.val + 0x28 := by omega
  rw [ho, s.ctlWord_cluster q k (by decide), State.cluWord]
  split <;> rfl

/-- A read of CLU_WAIT_USE starts the peak again from the records in use (R244). -/
theorem State.clearRc_cluWaitUse (s : State) (k : ClusterId) :
    s.clearRc (0x2000028 + 0x10000 * k.val) =
      s.modCluster k (fun x => { x with peak := BitVec.ofNat 9 (s.cluWaits k) }) := by
  have hk : (0x2000028 + 0x10000 * k.val - 0x2000000) / 0x10000 = k.val := by omega
  have hm : ((0x2000028 + 0x10000 * k.val) % 0x10000 == 0x28) = true := by rw [beq_iff_eq]; omega
  rw [State.clearRc, if_neg (by rw [within_iff]; omega), if_neg (by rw [within_iff]; omega),
    if_pos (by rw [Bool.and_eq_true, within_iff]; exact ⟨by omega, hm⟩), hk]

/-- CORE_STATUS shows a core in reset too (R60, R438). -/
theorem State.ctlWord_coreStatus (s : State) (q : Nat) (c : CoreId) :
    s.ctlWord q (0x3000008 + 0x1000 * c.val) = some (s.coreStatus c) := by
  have ho : 0x3000008 + 0x1000 * c.val = 0x3000000 + 0x1000 * c.val + 8 := by omega
  rw [ho, s.ctlWord_core q c (by decide)]
  unfold State.coreWord
  split <;> rfl

/-- No field of a core's block is cleared by a read. -/
theorem State.clearRc_core (s : State) {o : Nat} (ho : 0x3000000 ≤ o) : s.clearRc o = s := by
  have hw : within o 0x2000000 0x480000 = false := within_eq_false_iff.2 (.inr (by omega))
  rw [State.clearRc, if_neg (by rw [within_iff]; omega), if_neg (by rw [within_iff]; omega), hw]
  rfl

theorem exec_readClear_cluWaitUse {s : State} {p : PortId} (h : s.reaches (.bar0 p) = true) (k : ClusterId) :
    ∃ u, exec (.readClear (.bar0 p) (0x2000028 + 0x10000 * k.val) 8) s = .next u ∧
      u.out = s.out ++ [.rdata (s.ctlBytes p (0x2000028 + 0x10000 * k.val) 8)] ∧
      u.cluster k = { s.cluster k with peak := BitVec.ofNat 9 (s.cluWaits k) } ∧
      (∀ j, j ≠ k.val → u.cluster j = s.cluster j) ∧ { u with clusters := s.clusters, out := s.out } = s := by
  refine ⟨_, exec_readClear_word h (by omega) (fun u => u.ctlWord_cluWaitUse p k), ?_⟩
  rw [State.clearRc_cluWaitUse]
  exact ⟨rfl, State.cluster_modCluster_same _ k _, fun j hj => State.cluster_modCluster_ne _ _ hj, rfl⟩

theorem exec_readClear_coreStatus {s : State} {p : PortId} (h : s.reaches (.bar0 p) = true) (c : CoreId) :
    exec (.readClear (.bar0 p) (0x3000008 + 0x1000 * c.val) 8) s =
      .next (s.emit (.rdata (wordBytes (s.coreStatus c)))) := by
  rw [exec_readClear_word h (by omega) (fun u => by rw [u.ctlWord_coreStatus p c]; rfl), State.clearRc_core _ (by omega),
    s.ctlBytes_eight p (by omega), s.ctlWord_coreStatus p c]
  rfl

/-! ## BAR2 (R391, R392) -/

theorem State.bar2Addr_past {s : State} {p off : Nat} (h : 2 ^ (s.port p).bar2Log ≤ off) : s.bar2Addr p off = none :=
  if_pos h

/-- Past the BAR, or where the port does not answer, a read gives zero. -/
theorem exec_bar2Read_outside {s : State} {p : PortId} {off : Nat} (n : Nat)
    (h : s.reaches (.bar0 p) = false ∨ 2 ^ (s.port p).bar2Log ≤ off) :
    exec (.bar2Read p off n) s = .next (s.emit (.rdata (List.replicate n 0))) := by
  show execBar2Read p off n s = _
  rcases h with h | h
  · simp [execBar2Read, h]
  · simp [execBar2Read, State.bar2Addr_past h]

/-- Past the BAR, or where the port does not answer, a write does nothing. -/
theorem exec_bar2Write_outside {s : State} {p : PortId} {off : Nat} (bs : List Byte)
    (h : s.reaches (.bar0 p) = false ∨ 2 ^ (s.port p).bar2Log ≤ off) :
    exec (.bar2Write p off bs) s = .next s := by
  show execBar2Write p off bs s = _
  rcases h with h | h
  · simp [execBar2Write, h]
  · simp [execBar2Write, State.bar2Addr_past h]

/-- The global address that an offset within BAR2 reaches: the fast tier, and from 384 GiB on the face window. -/
def State.apertureAddr (s : State) (p off : Nat) : Word :=
  let y := (s.port p).apBase.toNat * 2 ^ 30 + off
  BitVec.ofNat 64 (0xFFF * 2 ^ 52 + (if y < 384 * 2 ^ 30 then y else 2 ^ 46 + (y - 384 * 2 ^ 30)))

theorem State.bar2Addr_within {s : State} {p off : Nat} (h : off < 2 ^ (s.port p).bar2Log) :
    s.bar2Addr p off = some (s.apertureAddr p off) := if_neg (Nat.not_le.2 h)

theorem exec_bar2Read_within {s : State} {p : PortId} {off : Nat} (n : Nat) (h : s.reaches (.bar0 p) = true)
    (ho : off < 2 ^ (s.port p).bar2Log) : exec (.bar2Read p off n) s = .next (((s.emit (.rdata
      (s.readAt (s.apertureAddr p off) n))).countBad (s.apertureAddr p off) n false).request
        (s.apertureAddr p off) n false false true) := by
  show execBar2Read p off n s = _
  simp only [execBar2Read, h, State.bar2Addr_within ho]

theorem exec_bar2Write_within {s : State} {p : PortId} {off : Nat} (bs : List Byte) (h : s.reaches (.bar0 p) = true)
    (ho : off < 2 ^ (s.port p).bar2Log) : exec (.bar2Write p off bs) s = .next
      ((s.writeAt (s.apertureAddr p off) bs).request (s.apertureAddr p off) bs.length false true false) := by
  show execBar2Write p off bs s = _
  simp only [execBar2Write, h, State.bar2Addr_within ho]

/-- A fold of updates that change only the fast tier's queues changes only the fast tier. -/
theorem State.foldl_sameButFt {α : Type} (f : State → α → State) (hf : ∀ s x, { f s x with ft := s.ft } = s)
    (l : List α) (s : State) : { l.foldl f s with ft := s.ft } = s := by
  induction l generalizing s with
  | nil => rfl
  | cons x l ih =>
    have hx := hf s x
    have hl := congrArg (fun u : State => { u with ft := s.ft }) (ih (f s x))
    exact hl.trans hx

/-- Requests of the fast tier change only its queues. -/
theorem State.request_sameButFt (s : State) (a : Word) (n : Nat) (crit write nofill : Bool) :
    { s.request a n crit write nofill with ft := s.ft } = s := by
  refine State.foldl_sameButFt _ (fun s i => ?_) _ s
  split <;> rfl

/-- Where an access falls is a matter of the fast tier's table and its face window alone. -/
theorem State.place_congr {s u : State} (h : u.ft = s.ft) (a : Word) (write : Bool) :
    u.place a write = s.place a write := by
  simp only [State.place, State.fastPlace, h]

theorem State.badAt_congr {s u : State} (h : u.ft = s.ft) (a : Word) (n : Nat) (write : Bool) :
    u.badAt a n write = s.badAt a n write := by
  simp only [State.badAt, State.place_congr h]

/-- An access that falls under no class of R162 counts nothing. -/
theorem State.countBad_of_nil {s : State} {a : Word} {n : Nat} {write : Bool} (h : s.badAt a n write = []) :
    s.countBad a n write = s := by
  rw [State.countBad, h]; rfl

/-- Answering waits changes only the packets and the wait records. -/
theorem State.checkWaits_sameButNet (s : State) : { s.checkWaits with net := s.net } = s := by
  unfold State.checkWaits
  dsimp only
  split <;> rfl

/-- A write that R162 and R223 let pass stores its bytes where they land. -/
theorem State.writeAt_of_allowed {s : State} {a : Word} {bs : List Byte} (hb : s.badAt a bs.length true = [])
    (hh : s.hitsBound a bs.length = false) : s.writeAt a bs = s.storeList (s.landing a bs) := by
  rw [State.writeAt, State.countBad_of_nil hb, hh]; rfl

theorem exec_bar2Read_allowed {s : State} {p : PortId} {off n : Nat} (h : s.reaches (.bar0 p) = true)
    (ho : off < 2 ^ (s.port p).bar2Log) (hb : s.badAt (s.apertureAddr p off) n false = []) :
    ∃ u, exec (.bar2Read p off n) s = .next u ∧ u.out = s.out ++ [.rdata (s.readAt (s.apertureAddr p off) n)] ∧
      { u with out := s.out, ft := s.ft } = s := by
  refine ⟨_, exec_bar2Read_within n h ho, ?_⟩
  rw [State.countBad_of_nil ((State.badAt_congr (State.emit_ft s _) _ n false).trans hb)]
  have hq := State.request_sameButFt (s.emit (.rdata (s.readAt (s.apertureAddr p off) n))) (s.apertureAddr p off) n
    false false true
  exact ⟨congrArg State.out hq, congrArg (fun u : State => { u with out := s.out }) hq⟩

theorem exec_bar2Write_allowed {s : State} {p : PortId} {off : Nat} {bs : List Byte} (h : s.reaches (.bar0 p) = true)
    (ho : off < 2 ^ (s.port p).bar2Log) (hb : s.badAt (s.apertureAddr p off) bs.length true = [])
    (hh : s.hitsBound (s.apertureAddr p off) bs.length = false) :
    ∃ u, exec (.bar2Write p off bs) s = .next u ∧ u.mem = s.mem.writeList (s.landing (s.apertureAddr p off) bs) ∧
      { u with mem := s.mem, net := s.net, ft := s.ft } = s := by
  refine ⟨_, exec_bar2Write_within bs h ho, ?_⟩
  rw [State.writeAt_of_allowed hb hh]
  have hw := State.checkWaits_sameButNet { s with mem := s.mem.writeList (s.landing (s.apertureAddr p off) bs) }
  have hq := State.request_sameButFt (s.storeList (s.landing (s.apertureAddr p off) bs)) (s.apertureAddr p off)
    bs.length false true false
  exact ⟨(congrArg State.mem hq).trans (congrArg State.mem hw),
    (congrArg (fun u : State => { u with mem := s.mem, net := s.net, ft := s.ft }) hq).trans
      (congrArg (fun u : State => { u with mem := s.mem, net := s.net, ft := s.ft }) hw)⟩

/-! ## The obligation -/

/-- Settles O33: each read gives the word at its offset and clears what R4 says, and BAR2 reads and writes the bytes that
its address reaches. -/
theorem hostReads : Obligations.HostReads := by
  unfold Obligations.HostReads
  refine fun p s => ⟨fun path off size => exec_readClear_unreached off size,
    fun path off size h hp hb => ?refused, fun h => ?identity,
    fun h => ⟨exec_readClear_cluWaitUse h, exec_readClear_coreStatus h⟩,
    fun off n h => ⟨exec_bar2Read_outside n h, fun bs => exec_bar2Write_outside bs h⟩,
    fun off h ho => ⟨fun n => exec_bar2Read_allowed h ho, fun bs => exec_bar2Write_allowed h ho⟩⟩
  case refused => rw [exec_readClear_window off size h hp, State.readWindow_undefined hb]
  case identity =>
    have reads {off v : Nat} (ho : off % 4 = 0) (hl : off < 4096)
        (hv : (s.port p).cfgDword (pciIdentity p) off = v) :
        exec (.readClear (.cfg p) off 4) s = .next (s.emit (.rdata (leBytes 4 v))) := by
      rw [exec_readClear_cfg h ho hl, hv]
    exact ⟨reads (by decide) (by decide) (by simp [Port.cfgDword, pciIdentity]),
      reads (by decide) (by decide) (by simp [Port.cfgDword, pciIdentity]),
      reads (by decide) (by decide) (by simp [Port.cfgDword, pciIdentity]),
      reads (by decide) (by decide) (by rw [Port.cfgDword])⟩

end Sys2Proof.Machine
end

section
/-! SUPPORT. The lift header in the slow tier (R332): the copies that a change of the lift state writes, and what a
reader takes from one of them. -/

namespace Sys2Proof.Machine

/-! ## Words in bytes -/

@[simp] theorem length_wordBytes (w : Word) : (wordBytes w).length = 8 := length_leBytes 8 _

@[simp] theorem leNat_wordBytes (w : Word) : leNat (wordBytes w) = w.toNat := by
  rw [wordBytes, leNat_leBytes]
  exact Nat.mod_eq_of_lt w.isLt

/-- Word `i` of a list of words in bytes. -/
theorem slice_flatMap_wordBytes {ws : List Word} {i : Nat} (h : i < ws.length) :
    slice (ws.flatMap wordBytes) (8 * i) 8 = wordBytes ws[i] := by
  induction ws generalizing i with
  | nil => exact absurd h (Nat.not_lt_zero i)
  | cons w ws ih =>
    cases i with
    | zero => simp [slice]
    | succ i =>
      have hd : ((w :: ws).flatMap wordBytes).drop (8 * (i + 1)) = (ws.flatMap wordBytes).drop (8 * i) := by
        rw [List.flatMap_cons, show 8 * (i + 1) = 8 + 8 * i by omega, ← List.drop_drop,
          List.drop_left' (length_wordBytes w)]
      have hs := ih (i := i) (by simpa using h)
      rw [slice, hd]
      exact hs

/-! ## The header's fields (R332) -/

/-- The seven words of a header that its CRC covers. -/
def headerWords (l : Lift) : List Word :=
  [fields [(60, 1), (58, l.openState.toNat), (57, b2n l.prevIntact), (56, b2n l.closedValid)], l.closed,
    fields [(48, l.pinsClosed.toNat), (32, l.pinsPrev.toNat)], l.mirroredOut, l.receivedIn, l.seq, 0]

/-- The CRC of a header. -/
def headerCrc (l : Lift) : Word := crc64 ((headerWords l).flatMap wordBytes)

theorem headerOf_eq (l : Lift) : headerOf l = (headerWords l ++ [headerCrc l]).flatMap wordBytes := by
  simp [headerOf, headerCrc, headerWords]

@[simp] theorem length_headerOf (l : Lift) : (headerOf l).length = 64 := by
  simp [headerOf]

/-- The header's fields of a lift state; what the lift controller holds outside the header is as after reset. -/
def Lift.headed (l : Lift) : Lift :=
  { closed := l.closed, closedValid := l.closedValid, openState := l.openState, prevIntact := l.prevIntact,
    pinsPrev := l.pinsPrev, pinsClosed := l.pinsClosed, mirroredOut := l.mirroredOut, receivedIn := l.receivedIn,
    seq := l.seq }

theorem b2n_le_one (b : Bool) : b2n b ≤ 1 := by cases b <;> decide

theorem toNat_fields_two (i a j b : Nat) : (fields [(i, a), (j, b)]).toNat = (a * 2 ^ i + b * 2 ^ j) % 2 ^ 64 := by
  simp [fields]

theorem toNat_fields_four (i a j b k c n d : Nat) : (fields [(i, a), (j, b), (k, c), (n, d)]).toNat =
    (a * 2 ^ i + b * 2 ^ j + c * 2 ^ k + d * 2 ^ n) % 2 ^ 64 := by
  simp [fields]

theorem bitOf_eq_of_b2n {v i : Nat} {b : Bool} (h : v / 2 ^ i % 2 = b2n b) : bitOf v i = b := by
  rw [bitOf, h]; cases b <;> rfl

/-- The first word of a header holds the generation, the open state and the two flags. -/
theorem toNat_headerState (l : Lift) :
    (fields [(60, 1), (58, l.openState.toNat), (57, b2n l.prevIntact), (56, b2n l.closedValid)]).toNat =
      2 ^ 60 + l.openState.toNat * 2 ^ 58 + b2n l.prevIntact * 2 ^ 57 + b2n l.closedValid * 2 ^ 56 := by
  have ho := l.openState.isLt
  have hp := b2n_le_one l.prevIntact
  have hv := b2n_le_one l.closedValid
  rw [toNat_fields_four]
  omega

/-- The third word of a header holds the pins of the two lifts. -/
theorem toNat_headerPins (l : Lift) :
    (fields [(48, l.pinsClosed.toNat), (32, l.pinsPrev.toNat)]).toNat =
      l.pinsClosed.toNat * 2 ^ 48 + l.pinsPrev.toNat * 2 ^ 32 := by
  have hc := l.pinsClosed.isLt
  have hp := l.pinsPrev.isLt
  rw [toNat_fields_two]
  omega

/-- Word `i` of a header. -/
theorem leNat_slice_headerOf (l : Lift) {i : Nat} (h : i < 8) :
    leNat (slice (headerOf l) (8 * i) 8) = ((headerWords l ++ [headerCrc l])[i]'(by simpa [headerWords] using h)).toNat := by
  rw [headerOf_eq, slice_flatMap_wordBytes, leNat_wordBytes]

/-- A header read back gives the fields that it was written with. -/
theorem parseLift_headerOf (l : Lift) : parseLift (headerOf l) = some l.headed := by
  have word {i : Nat} (h : i < 8) := leNat_slice_headerOf l h
  have hb : slice (headerOf l) 0 56 = (headerWords l).flatMap wordBytes := by
    rw [headerOf_eq, slice_eq_take_drop (by simp [headerWords]), List.flatMap_append, List.drop_zero]
    exact List.take_left' (by simp [headerWords])
  have h0 := (word (i := 0) (by decide)).trans (toNat_headerState l)
  have h2 := (word (i := 2) (by decide)).trans (toNat_headerPins l)
  have h7 : leNat (slice (headerOf l) (8 * 7) 8) = (headerCrc l).toNat := word (by decide)
  have ho := l.openState.isLt
  have hp := b2n_le_one l.prevIntact
  have hv := b2n_le_one l.closedValid
  have hc := l.pinsClosed.isLt
  have hq := l.pinsPrev.isLt
  have hgen : bitsOf (leNat (slice (headerOf l) (8 * 0) 8)) 60 4 = 1 := by rw [h0, bitsOf]; omega
  have hopen : BitVec.ofNat 2 (bitsOf (leNat (slice (headerOf l) (8 * 0) 8)) 58 2) = l.openState := by
    rw [h0, bitsOf]; exact BitVec.eq_of_toNat_eq (by rw [BitVec.toNat_ofNat]; omega)
  have hprev : bitOf (leNat (slice (headerOf l) (8 * 0) 8)) 57 = l.prevIntact := bitOf_eq_of_b2n (by rw [h0]; omega)
  have hvalid : bitOf (leNat (slice (headerOf l) (8 * 0) 8)) 56 = l.closedValid := bitOf_eq_of_b2n (by rw [h0]; omega)
  have hpins : BitVec.ofNat 16 (bitsOf (leNat (slice (headerOf l) (8 * 2) 8)) 48 16) = l.pinsClosed := by
    rw [h2, bitsOf]; exact BitVec.eq_of_toNat_eq (by rw [BitVec.toNat_ofNat]; omega)
  have hpinsPrev : BitVec.ofNat 16 (bitsOf (leNat (slice (headerOf l) (8 * 2) 8)) 32 16) = l.pinsPrev := by
    rw [h2, bitsOf]; exact BitVec.eq_of_toNat_eq (by rw [BitVec.toNat_ofNat]; omega)
  rw [parseLift]
  dsimp only
  rw [if_neg (by rw [hb, h7, hgen]; simp [headerCrc]), hopen, hprev, hvalid, hpins, hpinsPrev, word (i := 1) (by decide),
    word (i := 3) (by decide), word (i := 4) (by decide), word (i := 5) (by decide)]
  simp [headerWords, Lift.headed]

/-! ## The four copies (R332) -/

/-- The memory with one header in all four copies. -/
def Mem.withHeaders (m : Mem) (l : Lift) : Mem :=
  (List.range 4).foldl (fun m i => m.write (slowKey (i * 2 ^ 38)) (headerOf l)) m

/-- Bytes written are read back. -/
theorem Mem.read_write_same (m : Mem) (k : Nat) (bs : List Byte) : (m.write k bs).read k bs.length = bs := by
  refine List.ext_getElem (by simp [Mem.read]) fun i hi _ => ?_
  have hl : i < bs.length := by simpa [Mem.read] using hi
  simp [Mem.read, Mem.byte_write, hl]

/-- Bytes that a write does not reach are read as before. -/
theorem Mem.read_write_out (m : Mem) {k j n : Nat} (bs : List Byte) (h : j + n ≤ k ∨ k + bs.length ≤ j) :
    (m.write k bs).read j n = m.read j n :=
  List.map_congr_left fun i hi => Mem.byte_write_out m bs (by have := List.mem_range.1 hi; omega)

/-- Two copies of the header lie apart. -/
theorem slowKey_copies_apart {i j : Nat} (h : j ≠ i) :
    slowKey (i * 2 ^ 38) + 64 ≤ slowKey (j * 2 ^ 38) ∨ slowKey (j * 2 ^ 38) + 64 ≤ slowKey (i * 2 ^ 38) := by
  simp only [slowKey, Nat.reducePow]
  omega

/-- Each copy holds the header. -/
theorem Mem.read_withHeaders (m : Mem) (l : Lift) {i : Nat} (h : i < 4) :
    (m.withHeaders l).read (slowKey (i * 2 ^ 38)) 64 = headerOf l := by
  have same (m : Mem) : (m.write (slowKey (i * 2 ^ 38)) (headerOf l)).read (slowKey (i * 2 ^ 38)) 64 = headerOf l := by
    have h := m.read_write_same (slowKey (i * 2 ^ 38)) (headerOf l)
    rwa [length_headerOf] at h
  have other (m : Mem) {j : Nat} (hj : j ≠ i) :
      (m.write (slowKey (j * 2 ^ 38)) (headerOf l)).read (slowKey (i * 2 ^ 38)) 64 = m.read (slowKey (i * 2 ^ 38)) 64 :=
    m.read_write_out _ (by rw [length_headerOf]; exact slowKey_copies_apart hj)
  have hw : m.withHeaders l = [0, 1, 2, 3].foldl (fun m i => m.write (slowKey (i * 2 ^ 38)) (headerOf l)) m := rfl
  rw [hw]
  simp only [List.foldl_cons, List.foldl_nil]
  obtain rfl | rfl | rfl | rfl : i = 0 ∨ i = 1 ∨ i = 2 ∨ i = 3 := by omega
  · rw [other _ (by decide), other _ (by decide), other _ (by decide), same]
  · rw [other _ (by decide), other _ (by decide), same]
  · rw [other _ (by decide), same]
  · rw [same]

/-- A byte below the slow tier is no part of a header. -/
theorem Mem.byte_withHeaders_below (m : Mem) (l : Lift) {k : Nat} (h : k < 12 * 2 ^ 48) :
    (m.withHeaders l).byte k = m.byte k :=
  List.foldlRecOn (motive := fun u : Mem => u.byte k = m.byte k) _ _ rfl fun u hu _ _ =>
    (u.byte_write_lt _ (Nat.lt_of_lt_of_le h (Nat.le_add_right _ _))).trans hu

/-- The lift state with its sequence number raised by 1. -/
def Lift.raised (l : Lift) : Lift := { l with seq := l.seq + 1 }

/-- A change of the lift state raises its sequence number and writes the headers; nothing else changes. -/
theorem State.modLift_eq (s : State) (f : Lift → Lift) : s.modLift f =
    { s with msn := { s.msn with lift := (f s.msn.lift).raised }, mem := s.mem.withHeaders (f s.msn.lift).raised } := by
  have h := List.foldl_hom (fun m : Mem => { s with msn := { s.msn with lift := (f s.msn.lift).raised }, mem := m })
    (g₁ := fun m i => m.write (slowKey (i * 2 ^ 38)) (headerOf (f s.msn.lift).raised))
    (g₂ := fun u i => { u with mem := u.mem.write (slowKey (i * 2 ^ 38)) (headerOf (f s.msn.lift).raised) })
    (l := List.range 4) (init := s.mem) (fun _ _ => rfl)
  exact h

/-- What a change of the lift state does: the memory below the slow tier stays, and each header reads back as the new
lift state. -/
theorem State.modLift_spec (s : State) (f : Lift → Lift) : ∃ m : Mem,
    s.modLift f = { s with msn := { s.msn with lift := (f s.msn.lift).raised }, mem := m } ∧
    (∀ k, k < 12 * 2 ^ 48 → m.byte k = s.mem.byte k) ∧
    (∀ i, i < 4 → parseLift (m.read (slowKey (i * 2 ^ 38)) 64) = some (f s.msn.lift).raised.headed) := by
  refine ⟨_, s.modLift_eq f, fun k hk => Mem.byte_withHeaders_below _ _ hk, fun i hi => ?_⟩
  rw [Mem.read_withHeaders _ _ hi, parseLift_headerOf]

end Sys2Proof.Machine
end

section
/-! SUPPORT. How a Mason's group starts and how a lift closes or is discarded, and the obligation on them (O41). -/

namespace Sys2Proof.Machine

/-! ## What reads of the module's own leave as it was (R162, R179) -/

/-- Of the state only the requests queued in the fast tier and the Plumb's counts have changed. -/
def State.onlyReads (s u : State) : Prop := { u with ft := { u.ft with pchs := s.ft.pchs }, plb := s.plb } = s

theorem State.onlyReads.eq {s u : State} (h : s.onlyReads u) :
    { u with ft := { u.ft with pchs := s.ft.pchs }, plb := s.plb } = s := h

theorem State.onlyReads.refl (s : State) : s.onlyReads s := Eq.refl s

theorem State.onlyReads.trans {s u v : State} (h : s.onlyReads u) (g : u.onlyReads v) : s.onlyReads v :=
  ((congrArg (fun w : State => { w with ft := { w.ft with pchs := s.ft.pchs }, plb := s.plb }) g.eq :).trans h.eq :)

theorem State.onlyReads.foldl {α : Type} {f : State → α → State} (h : ∀ (s : State) x, s.onlyReads (f s x)) (l : List α)
    (s : State) : s.onlyReads (l.foldl f s) :=
  List.foldlRecOn (motive := fun u => s.onlyReads u) l f (State.onlyReads.refl s) fun u hu x _ => hu.trans (h u x)

theorem State.onlyReads_request (s : State) (a : Word) (n : Nat) (crit write nofill : Bool) :
    s.onlyReads (s.request a n crit write nofill) := by
  refine State.onlyReads.foldl (fun u i => ?_) _ s
  split <;> rfl

theorem State.onlyReads_countBad (s : State) (a : Word) (n : Nat) (write : Bool) : s.onlyReads (s.countBad a n write) :=
  State.onlyReads.foldl (f := State.violate) (fun u _ => Eq.refl u) (s.badAt a n write) s

theorem State.onlyReads_engineRead (s : State) (a : Word) (n : Nat) : s.onlyReads (s.engineRead a n) :=
  State.onlyReads.trans (s.onlyReads_countBad a n false) ((s.countBad a n false).onlyReads_request a n false false false)

theorem State.onlyReads_readAll (s : State) (l : List (Word × Nat)) : s.onlyReads (s.readAll l) := by
  rw [State.readAll]
  refine State.onlyReads.foldl (fun u r => ?_) l s
  exact State.onlyReads_engineRead u r.1 r.2

/-! ## What a read of the fast tier depends on (R161, R175, R182) -/

/-- The two states have the same chain address, the same fast tier but for its queues, and the same bytes below the
slow tier. -/
structure State.readsAlike (s u : State) : Prop where
  chain : u.chain = s.chain
  fast : { u.ft with pchs := s.ft.pchs } = s.ft
  byte : ∀ k, k < 12 * 2 ^ 48 → u.mem.byte k = s.mem.byte k

theorem State.onlyReads.readsAlike {s u : State} (h : s.onlyReads u) : s.readsAlike u where
  chain := (congrArg State.chain h.eq :)
  fast := (congrArg State.ft h.eq :)
  byte k _ := (congrArg (fun w : State => w.mem.byte k) h.eq :)

section
variable {s u : State} (h : s.readsAlike u)
include h

theorem State.readsAlike.place (a : Word) (write : Bool) : u.place a write = s.place a write :=
  State.place_congr (u := { u with ft := { u.ft with pchs := s.ft.pchs } }) h.fast a write

theorem State.readsAlike.fastPlace (y : Nat) : u.fastPlace y = s.fastPlace y := by
  have hf : u.fastPlace y = ({ u with ft := { u.ft with pchs := s.ft.pchs } } : State).fastPlace y := rfl
  rw [hf, State.fastPlace, State.fastPlace, h.fast]

theorem State.readsAlike.capacity : u.ft.capacity = s.ft.capacity :=
  (congrArg FastTier.capacity h.fast :)

theorem State.readsAlike.isSelf (m : Nat) : u.isSelf m = s.isSelf m := by
  rw [State.isSelf, State.isSelf, h.chain]

theorem State.readsAlike.ownFast (a : Word) (n align : Nat) : u.ownFast a n align = s.ownFast a n align := by
  rw [State.ownFast, State.ownFast, h.isSelf, h.capacity]

theorem State.readsAlike.placeByte {p : Place} (hp : ∀ k, p = .mem k → k < 12 * 2 ^ 48) :
    u.placeByte p = s.placeByte p := by
  cases p with
  | mem k => exact h.byte k (hp k rfl)
  | _ => rfl

end

/-- A direct fast-tier offset lies below the slow tier. -/
theorem State.fastPlace_below {s : State} {y k : Nat} (h : s.fastPlace y = .mem k) : k < 12 * 2 ^ 48 := by
  have hc : s.ft.capacity ≤ 805306368 * 512 := Nat.mul_le_mul_left _ (Nat.sub_le _ _)
  rw [State.fastPlace] at h
  split_ifs at h with h1
  obtain rfl : y = k := by simpa [fastKey] using h
  omega

/-- No address but a Mason's leads to the slow tier (R161). -/
theorem State.place_below {s : State} {a : Word} {write : Bool} {k : Nat} (h : s.place a write = .mem k) :
    k < 12 * 2 ^ 48 := by
  rw [State.place] at h
  by_cases ho : 2 ^ 47 ≤ addrOff a
  · rw [if_pos ho] at h; cases h
  · rw [if_neg ho] at h
    split at h
    · split_ifs at h
      · exact State.fastPlace_below h
      · exact State.fastPlace_below h
    · split_ifs at h
      obtain rfl : 2 ^ 48 + addrOff a = k := by simpa using h
      omega
    · split_ifs at h
      obtain rfl : 2 * 2 ^ 48 + addrOff a = k := by simpa using h
      omega
    · split_ifs at h
    · split_ifs at h
    · cases h

section
variable {s u : State} (h : s.readsAlike u)
include h

theorem State.readsAlike.fastBytes (off n : Nat) : u.fastBytes off n = s.fastBytes off n :=
  List.map_congr_left fun i _ => by
    rw [h.fastPlace]
    exact h.placeByte fun k hk => State.fastPlace_below hk

theorem State.readsAlike.readAt (a : Word) (n : Nat) : u.readAt a n = s.readAt a n :=
  List.map_congr_left fun i _ => by
    rw [h.place]
    exact h.placeByte fun k hk => State.place_below hk

theorem State.readsAlike.targetList (bs : List Byte) : u.targetList bs = s.targetList bs := by
  simp only [State.targetList, h.isSelf, h.readAt]

/-- The targets of a group depend on nothing that reads of the module's own and the lift headers change. -/
theorem State.readsAlike.groupIds (d : Desc) : u.groupIds d = s.groupIds d := by
  simp only [State.groupIds, State.descTargets, h.ownFast, h.fastBytes, h.targetList]

end

/-! ## What a Mason shows (R351) -/

/-- A Mason that works has not been stopped. -/
theorem State.stopped_of_masonIdle {s : State} {m : Nat} (h : s.masonIdle m = false) : (s.mason m).stopped = false := by
  simp only [State.masonIdle, Bool.or_eq_false_iff] at h
  obtain ⟨⟨⟨⟨-, hs⟩, -⟩, -⟩, -⟩ := h
  exact hs

/-- A Mason that waits with no group in a pass shows a face pass, or that it waits. -/
theorem Mason.shown_waiting {x : Mason} (hs : x.stopped = false) (hc : x.current = none) (hw : x.wait ≠ 0) :
    x.shown = if x.runs.any (fun g => decide (g.phase = .face)) then 4 else 1 := by
  rw [Mason.shown, if_neg (by simp [hs]), hc]
  dsimp only
  rw [if_pos hw]

/-- A group put behind others of which none is in a pass is the current one, if it is in a pass. -/
theorem Mason.current_append {x y : Mason} {g : GroupRun} (hy : y.runs = x.runs ++ [g]) (hx : x.current = none)
    (hg : g.phase = .rule ∨ g.phase = .carry) : y.current = some g := by
  have hp : decide (g.phase = .rule ∨ g.phase = .trustDue ∨ g.phase = .trust ∨ g.phase = .carry) = true :=
    decide_eq_true (by rcases hg with h | h <;> simp [h])
  rw [Mason.current] at hx ⊢
  rw [hy, List.find?_append, hx, List.find?_singleton, if_pos hp]
  rfl

/-- A Mason shows the rule or the carry pass of its current group. -/
theorem Mason.shown_pass {y : Mason} {g : GroupRun} (hs : y.stopped = false) (hc : y.current = some g)
    (hg : g.phase = .rule ∨ g.phase = .carry) : y.shown = if g.phase = .carry then 5 else 2 := by
  rcases hg with h | h <;> simp [Mason.shown, hs, hc, h]

@[simp] theorem State.mason_modLiftRam (s : State) (f : Lift → Lift) (n : Nat) :
    (s.modLiftRam f).mason n = s.mason n := rfl

@[simp] theorem State.mason_showMason (s : State) (m : Nat) :
    (s.showMason m).mason m = { s.mason m with state := (s.mason m).shown } := State.mason_modMason_same _ _ _

/-! ## The first write of a lift (R334) -/

/-- The state once a group's first write has opened the lift. -/
def State.groupOpened (s : State) : State :=
  (if s.msn.lift.openState = 0 then s.modLift Lift.firstWrite else s).modLiftRam (fun l => { l with updWrote := true })

/-- The first write of an update opens the lift and writes the headers; a later one records itself alone. -/
theorem State.groupOpened_eq (s : State) : ∃ m : Mem,
    s.groupOpened = { s with mem := m, msn := { s.msn with lift :=
      if s.msn.lift.openState = 0 then
        { s.msn.lift with openState := 1, prevIntact := false, seq := s.msn.lift.seq + 1, updWrote := true }
      else { s.msn.lift with updWrote := true } } } ∧
    (∀ k, k < 12 * 2 ^ 48 → m.byte k = s.mem.byte k) ∧ (s.msn.lift.openState ≠ 0 → m = s.mem) := by
  by_cases h : s.msn.lift.openState = 0
  · obtain ⟨m, he, hm, -⟩ := s.modLift_spec Lift.firstWrite
    exact ⟨m, by rw [State.groupOpened, if_pos h, if_pos h, he]; rfl, hm, fun hn => absurd h hn⟩
  · exact ⟨s.mem, by rw [State.groupOpened, if_neg h, if_neg h]; rfl, fun _ _ => rfl, fun _ => rfl⟩

/-! ## Completions (R403) -/

@[simp] theorem State.msn_request (s : State) (a : Word) (n : Nat) (crit write nofill : Bool) :
    (s.request a n crit write nofill).msn = s.msn :=
  (congrArg State.msn (s.request_sameButFt a n crit write nofill) :)

@[simp] theorem State.msn_store (s : State) (k : Nat) (bs : List Byte) : (s.store k bs).msn = s.msn :=
  (congrArg State.msn (State.checkWaits_sameButNet { s with mem := s.mem.write k bs }) :)

/-- A completion changes nothing of the Masons or the lifts. -/
theorem State.msn_complete (s : State) (k : Cmd) : (s.complete k).msn = s.msn := by
  have hkey (key : Nat) (v : Word) : (s.addKey key v).1.msn = s.msn := by
    rw [State.addKey]
    split_ifs
    · rfl
    · exact State.msn_store _ _ _
  have hlocal (a : Word) (v : Word) : (s.addLocal a v).1.msn = s.msn := by
    rw [State.addLocal]
    cases s.place (align8 a) true with
    | mem key =>
      dsimp only
      split_ifs
      · rfl
      · rw [State.msn_request, State.msn_request, hkey]
    | dead => rfl
    | ctl _ => rfl
    | bad _ => rfl
  rw [State.complete, State.advance]
  split_ifs
  · rfl
  · exact hlocal _ _
  · rfl

/-! ## A descriptor done (R326, R334) -/

/-- A descriptor done that is not the last. -/
theorem State.descriptorDone_more {s : State} {m : Nat} (h : 1 < s.msn.lift.updLeft) : s.descriptorDone m =
    (s.modMason m (fun x => { x with done := satAdd x.done 1 })).modLiftRam
      (fun l => { l with updLeft := l.updLeft - 1 }) := by
  rw [State.descriptorDone]
  exact if_pos (show s.msn.lift.updLeft - 1 ≠ 0 by omega)

/-- The open lift becomes COMPLETE where its update wrote, and keeps what it had otherwise. -/
theorem State.openState_written (s : State) :
    let u := if s.msn.lift.updWrote then s.modLift (fun l => { l with openState := 2 }) else s
    u.msn.lift.openState = (if s.msn.lift.updWrote then 2 else s.msn.lift.openState) ∧
      u.msn.lift.skipped = s.msn.lift.skipped := by
  obtain ⟨m, he, -⟩ := s.modLift_spec (fun l => { l with openState := 2 })
  dsimp only
  split
  · rw [he]; exact ⟨rfl, rfl⟩
  · exact ⟨rfl, rfl⟩

/-- The last descriptor done makes the open lift COMPLETE, if the update wrote. -/
theorem State.descriptorDone_last {s : State} {m : Nat} (h : s.msn.lift.updLeft = 1) :
    (s.descriptorDone m).msn.lift.openState = (if s.msn.lift.updWrote then 2 else s.msn.lift.openState) ∧
      (s.descriptorDone m).msn.lift.skipped = s.msn.lift.skipped := by
  let t := (s.modMason m (fun x => { x with done := satAdd x.done 1 })).modLiftRam
    (fun l => { l with updLeft := l.updLeft - 1 })
  have hl : t.msn.lift.updLeft = 0 := by
    show s.msn.lift.updLeft - 1 = 0
    omega
  have ht := t.openState_written
  rw [State.descriptorDone]
  dsimp only
  rw [if_neg (show ¬t.msn.lift.updLeft ≠ 0 from fun hn => hn hl)]
  split
  · rw [State.msn_complete]; exact ht
  · exact ht

/-! ## The start of a group (R15, R20, R325) -/

/-- What a group's start reads: the scale slot, and the target list with its mask. -/
def State.groupRead (s : State) (d : Desc) : State := (s.bulkRead (addrOff d.scaleSlot) 8).readAll (s.targetReads d)

theorem State.onlyReads_groupRead (s : State) (d : Desc) : s.onlyReads (s.groupRead d) :=
  State.onlyReads.trans (State.onlyReads_request s _ 8 false false false) (State.onlyReads_readAll _ _)

/-- A Mason that has moved on to the next group of its table. -/
def Mason.stepped (x : Mason) : Mason := { x with next := x.next + 1, index := BitVec.ofNat 12 x.next, wait := 0 }

@[simp] theorem State.mason_nextGroup (s : State) (m : Nat) : (s.nextGroup m).mason m = (s.mason m).stepped :=
  State.mason_modMason_same _ _ _

/-- The state once a Mason has read what a group's start reads and skipped it. -/
def State.groupSkipped (s : State) (m : Nat) (d : Desc) : State :=
  ((s.groupRead d).nextGroup m).modLiftRam (fun l => { l with skipped := true })

/-- With a group due for the lift after the closed one, a Mason starts it or shows what it waits for. -/
theorem exec_groupStart_due {s : State} {m : MasonId} {i : Nat} {d : Desc} {k : Cmd} (hi : s.masonIdle m = false)
    (hc : (s.mason m).current = none) (ht : (s.mason m).table[(s.mason m).next]? = some (i, d))
    (hr : s.refacing = false) (hu : s.msn.lift.updTaken = some k) (hk : k.lift = s.msn.lift.closed + 1) :
    exec (.groupStart m) s = .next (if s.groupWait d (s.msn.lift.closed + 1) = 0
      then s.startGroup m i d (s.msn.lift.closed + 1)
      else (s.modMason m (fun x => { x with wait := s.groupWait d (s.msn.lift.closed + 1) })).showMason m) := by
  show execGroupStart m s = _
  simp [execGroupStart, hi, hc, ht, hr, hu, hk]

/-- The group that a start puts into its first pass. -/
def State.newGroup (s : State) (i : Nat) (d : Desc) (lift : Word) (slot : Nat) (c : Cmd) : GroupRun :=
  { idx := i, desc := d, phase := if d.frozen then .carry else .rule, lift := lift, scale := BitVec.ofNat 32 slot,
    zeroBad := decide (c.sub = 1), ids := s.groupIds d }

section
variable {s : State} {m i : Nat} {d : Desc} {lift : Word} {c : Cmd} (hc : s.closeFor lift = some c)
include hc

/-- A group that is not skipped opens the lift and is in its first pass. -/
theorem State.startGroup_writes
    (h : leNat (s.fastBytes (addrOff d.scaleSlot) 8) / 2 ^ 32 = 0 ∨ c.sub ≠ 0) : s.startGroup m i d lift =
      ((((s.groupRead d).nextGroup m).groupOpened).modMason m (fun x => { x with runs := x.runs ++
        [s.newGroup i d lift (leNat (s.fastBytes (addrOff d.scaleSlot) 8)) c] })).showMason m := by
  have hids : (((s.groupRead d).nextGroup m).groupOpened).groupIds d = s.groupIds d := by
    obtain ⟨u, hu, hb, -⟩ := ((s.groupRead d).nextGroup m).groupOpened_eq
    have hr := (s.onlyReads_groupRead d).readsAlike
    refine State.readsAlike.groupIds ⟨?_, ?_, fun k hk => ?_⟩ d
    · rw [hu]; exact hr.chain
    · rw [hu]; exact hr.fast
    · rw [hu]; exact (hb k hk).trans (hr.byte k hk)
  have hn : ¬(leNat (s.fastBytes (addrOff d.scaleSlot) 8) / 2 ^ 32 ≠ 0 ∧ c.sub = 0) := by
    rintro ⟨h1, h2⟩
    exact h.elim h1 (fun h3 => h3 h2)
  rw [State.newGroup, ← hids, State.startGroup, hc]
  exact if_neg hn

/-- Under SKIP_STEP with a dirty verdict the group is done without writes. -/
theorem State.startGroup_skips (hd : leNat (s.fastBytes (addrOff d.scaleSlot) 8) / 2 ^ 32 ≠ 0) (hs : c.sub = 0) :
    s.startGroup m i d lift =
      ((s.groupSkipped m d).descriptorDone m).showMason m := by
  rw [State.startGroup, hc]
  exact if_pos ⟨hd, hs⟩

end

/-! ## What a start shows and leaves -/

/-- A group that waits changes only what its Mason shows. -/
theorem State.groupStart_waits {s : State} {m : Nat} {w : BitVec 4} (hi : s.masonIdle m = false)
    (hc : (s.mason m).current = none) (hw : w ≠ 0) :
    let u := (s.modMason m (fun x => { x with wait := w })).showMason m
    u.mason m = { s.mason m with
      wait := w, state := if (s.mason m).runs.any (fun g => decide (g.phase = .face)) then 4 else 1 } ∧
    (∀ n, n ≠ m → u.mason n = s.mason n) ∧ { u with msn := { u.msn with units := s.msn.units } } = s := by
  refine ⟨?_, fun n hn => ?_, rfl⟩
  · have hs : ({ s.mason m with wait := w } : Mason).shown =
        if (s.mason m).runs.any (fun g => decide (g.phase = .face)) then 4 else 1 :=
      Mason.shown_waiting (State.stopped_of_masonIdle hi) hc hw
    rw [State.mason_showMason, State.mason_modMason_same, hs]
  · rw [State.showMason, State.mason_modMason_ne _ _ hn, State.mason_modMason_ne _ _ hn]

/-- What a start reads changes nothing of the Masons. -/
theorem State.msn_groupRead (s : State) (d : Desc) : (s.groupRead d).msn = s.msn :=
  (congrArg State.msn (s.onlyReads_groupRead d).eq :)

theorem State.mem_groupRead (s : State) (d : Desc) : (s.groupRead d).mem = s.mem :=
  (congrArg State.mem (s.onlyReads_groupRead d).eq :)

theorem State.mason_groupRead (s : State) (d : Desc) (n : Nat) : (s.groupRead d).mason n = s.mason n :=
  State.mason_congr (congrArg MasonBlk.units (s.msn_groupRead d)) n

/-- A group that starts is in its first pass, and the lift is open. -/
theorem State.groupStart_passes {s : State} {m : Nat} (d : Desc) {g : GroupRun} (hi : s.masonIdle m = false)
    (hc : (s.mason m).current = none) (hg : g.phase = if d.frozen then .carry else .rule) :
    let l := s.msn.lift
    let u := ((((s.groupRead d).nextGroup m).groupOpened).modMason m (fun x => { x with
      runs := x.runs ++ [g] })).showMason m
    u.mason m = { (s.mason m).stepped with runs := (s.mason m).runs ++ [g], state := if d.frozen then 5 else 2 } ∧
    u.msn.lift = (if l.openState = 0 then
      { l with openState := 1, prevIntact := false, seq := l.seq + 1, updWrote := true }
      else { l with updWrote := true }) ∧
    (l.openState ≠ 0 → u.mem = s.mem) ∧ { u with msn := s.msn, mem := s.mem } = s.groupRead d := by
  have hmsn := s.msn_groupRead d
  have hmem := s.mem_groupRead d
  obtain ⟨b, hu, -, hb⟩ := ((s.groupRead d).nextGroup m).groupOpened_eq
  have hl : ((s.groupRead d).nextGroup m).msn.lift = s.msn.lift :=
    (congrArg MasonBlk.lift hmsn :)
  rw [hl] at hu hb
  have hx : (((s.groupRead d).nextGroup m).groupOpened).mason m = (s.mason m).stepped := by
    rw [hu, ← s.mason_groupRead d, ← State.mason_nextGroup]
    exact State.mason_congr rfl m
  have hp : g.phase = .rule ∨ g.phase = .carry := by
    rw [hg]; cases d.frozen
    · exact .inl rfl
    · exact .inr rfl
  have hs : ({ (s.mason m).stepped with runs := (s.mason m).runs ++ [g] } : Mason).shown =
      if d.frozen then 5 else 2 := by
    have hst : ({ (s.mason m).stepped with runs := (s.mason m).runs ++ [g] } : Mason).stopped = false :=
      State.stopped_of_masonIdle hi
    rw [Mason.shown_pass hst (Mason.current_append rfl hc hp) hp, hg]
    cases d.frozen <;> rfl
  refine ⟨?_, ?_, fun ho => ?_, ?_⟩
  · rw [State.mason_showMason, State.mason_modMason_same, hx]
    exact congrArg (fun z => ({ (s.mason m).stepped with runs := (s.mason m).runs ++ [g], state := z } : Mason)) hs
  · rw [State.showMason, State.modMason, State.modMason, hu]
  · rw [State.showMason, State.modMason, State.modMason, hu]
    exact (hb ho).trans hmem
  · rw [State.showMason, State.modMason, State.modMason, hu, ← hmsn, ← hmem]
    rfl

theorem State.lift_groupSkipped (s : State) (m : Nat) (d : Desc) :
    (s.groupSkipped m d).msn.lift = { s.msn.lift with skipped := true } :=
  (congrArg (fun b : MasonBlk => { b.lift with skipped := true }) (s.msn_groupRead d) :)

theorem State.mason_groupSkipped (s : State) (m : Nat) (d : Desc) :
    (s.groupSkipped m d).mason m = (s.mason m).stepped := by
  rw [State.groupSkipped, State.mason_modLiftRam, State.mason_nextGroup, State.mason_groupRead]

/-- A skipped group that is not the update's last is a descriptor done. -/
theorem State.groupStart_skips_more {s : State} {m : Nat} (d : Desc) (h : 1 < s.msn.lift.updLeft) :
    let u := ((s.groupSkipped m d).descriptorDone m).showMason m
    u.mason m = { (s.mason m).stepped with done := satAdd (s.mason m).done 1, state := (u.mason m).state } ∧
    u.msn.lift = { s.msn.lift with skipped := true, updLeft := s.msn.lift.updLeft - 1 } ∧
    { u with msn := s.msn } = s.groupRead d := by
  have hl := s.lift_groupSkipped m d
  dsimp only
  rw [State.descriptorDone_more (by rw [hl]; exact h)]
  refine ⟨?_, (congrArg (fun l : Lift => { l with updLeft := l.updLeft - 1 }) hl :), ?_⟩
  · rw [State.mason_showMason, State.mason_modLiftRam, State.mason_modMason_same, State.mason_groupSkipped]
    rfl
  · simp only [State.showMason, State.modMason, State.modLiftRam, State.groupSkipped, State.nextGroup]
    rw [← s.msn_groupRead d]

/-- The update's last group, skipped, leaves the lift COMPLETE where others wrote. -/
theorem State.groupStart_skips_last {s : State} {m : Nat} (d : Desc) (h : s.msn.lift.updLeft = 1) :
    let u := ((s.groupSkipped m d).descriptorDone m).showMason m
    u.msn.lift.openState = (if s.msn.lift.updWrote then 2 else s.msn.lift.openState) ∧ u.msn.lift.skipped = true := by
  have hl := s.lift_groupSkipped m d
  obtain ⟨ho, hs⟩ := State.descriptorDone_last (s := s.groupSkipped m d) (m := m) (by rw [hl]; exact h)
  rw [hl] at ho hs
  exact ⟨ho, hs⟩

/-! ## Close and discard (R16, R20, R313, R334) -/

/-- With the close and the update for the open lift in hand and every descriptor complete, the lift may end. -/
theorem State.closing_eq {s : State} {k x : Cmd} (hk : s.msn.lift.closeCmd = some k) (hf : s.liftFree = true)
    (hl : k.lift = s.msn.lift.closed + 1) (hx : s.msn.lift.updTaken = some x) (hxl : x.lift = k.lift)
    (h0 : s.msn.lift.updLeft = 0) : s.closing = some k := by
  simp [State.closing, hk, hf, hl, hx, hxl, h0]

/-- The state after a close, its completion tally apart. -/
def State.liftClosed (s : State) : State :=
  ((((s.modLift Lift.close).modMsn (fun b => { b with mirrorDone := false })).logOp 0).modLiftRam (fun l => { l with
    closeCmd := none, updTaken := none, updWrote := false, skipped := false })).resetLedgers

/-- The state after a discard, its completion tally apart. -/
def State.liftDiscarded (s : State) : State :=
  ((s.modLift (fun l => { l with openState := 0 })).modLiftRam (fun l => { l with
    closeCmd := none, updTaken := none, updWrote := false, skipped := false })).resetLedgers

theorem exec_liftCloseCommit_closes {s : State} {k : Cmd} (hc : s.closing = some k) (ho : s.msn.lift.openState = 2)
    (hs : s.msn.lift.skipped = false) (ht : s.tallyReached k.a k.b = true) (hm : s.msn.mirrorDone = true) :
    exec .liftCloseCommit s = .next (s.liftClosed.complete k) := by
  show execLiftCloseCommit s = _
  simp only [execLiftCloseCommit, hc, ho, hs, ht, hm]
  rfl

theorem exec_liftCloseCommit_waits {s : State} {k : Cmd} (hc : s.closing = some k)
    (h : s.msn.lift.openState ≠ 2 ∨ s.msn.lift.skipped = true ∨ s.tallyReached k.a k.b = false ∨
      s.msn.mirrorDone = false) : exec .liftCloseCommit s = .next s := by
  show execLiftCloseCommit s = _
  simp only [execLiftCloseCommit, hc]
  rw [if_neg]
  simp only [Bool.and_eq_true, decide_eq_true_eq, Bool.not_eq_true']
  rintro ⟨⟨⟨ho, hs⟩, ht⟩, hm⟩
  simp [ho, hs, ht, hm] at h

theorem exec_liftDiscard_discards {s : State} {k : Cmd} (hc : s.closing = some k) (hs : s.msn.lift.skipped = true)
    (hw : s.msn.lift.updWrote = false) (hk : k.sub = 0) :
    exec .liftDiscard s = .next (s.liftDiscarded.complete k) := by
  show execLiftDiscard s = _
  simp only [execLiftDiscard, hc, hs, hw, hk]
  rfl

theorem exec_liftDiscard_waits {s : State} {k : Cmd} (hc : s.closing = some k)
    (h : s.msn.lift.skipped = false ∨ s.msn.lift.updWrote = true ∨ k.sub ≠ 0) : exec .liftDiscard s = .next s := by
  show execLiftDiscard s = _
  simp only [execLiftDiscard, hc]
  rw [if_neg]
  simp only [Bool.and_eq_true, decide_eq_true_eq, Bool.not_eq_true']
  rintro ⟨⟨hs, hw⟩, hk⟩
  simp [hs, hw, hk] at h

/-- A close makes the open lift the closed one, in the state and in the headers, and starts the ledgers' next epoch. -/
theorem State.liftClosed_spec (s : State) :
    let l := s.msn.lift
    let v := s.liftClosed
    v.msn.lift = { l with
      closed := l.closed + 1, openState := 0, prevIntact := true, pinsPrev := l.pinsClosed, pinsClosed := 0,
      seq := l.seq + 1, closeCmd := none, updTaken := none, updWrote := false, skipped := false } ∧
    v.msn.mirrorDone = false ∧ v.mortar = { s.mortar with sent := [], recv := [], epoch := l.closed + 1 } ∧
    v.logGet 0x5200 = min (s.logGet 0x5200 + 1) (2 ^ 64 - 1) ∧
    (∀ m, m < 4 → parseLift (v.mem.read (slowKey (m * 2 ^ 38)) 64) = some {
      closed := l.closed + 1, closedValid := l.closedValid, openState := 0, prevIntact := true, pinsPrev := l.pinsClosed,
      pinsClosed := 0, mirroredOut := l.mirroredOut, receivedIn := l.receivedIn, seq := l.seq + 1 }) ∧
    { v with msn := s.msn, mortar := s.mortar, plb := s.plb, mem := s.mem } = s := by
  obtain ⟨m, he, -, hp⟩ := s.modLift_spec Lift.close
  dsimp only
  rw [State.liftClosed, he]
  have hlog := SMap.get_modify_same 0 s.plb.log 0x5200 (fun v => min (v + 1) (2 ^ 64 - 1))
  exact ⟨rfl, rfl, rfl, hlog, hp, rfl⟩

/-- A discard ends the open lift of an update that has not written. -/
theorem State.liftDiscarded_spec {s : State} (hw : s.msn.lift.updWrote = false) :
    let l := s.msn.lift
    let v := s.liftDiscarded
    v.msn.lift = { l with openState := 0, seq := l.seq + 1, closeCmd := none, updTaken := none, skipped := false } ∧
    v.mortar = { s.mortar with sent := [], recv := [], epoch := l.closed } ∧
    { v with msn := s.msn, mortar := s.mortar, mem := s.mem } = s := by
  obtain ⟨m, he, -⟩ := s.modLift_spec (fun l => { l with openState := 0 })
  dsimp only
  rw [State.liftDiscarded, he, ← hw]
  exact ⟨rfl, rfl, rfl⟩

/-! ## The obligation -/

/-- Settles O41: a group starts or waits by what it waits for, and a close or a discard is one change of the lift state. -/
theorem groupsAndLifts : Obligations.GroupsAndLifts := by
  unfold Obligations.GroupsAndLifts
  refine ⟨fun m s i d k => ?start, fun s k x hk hf hl hx hxl h0 => ?close⟩
  case start =>
    intro x l lift hi hc ht hr hu hk w slot stepped r
    have he := exec_groupStart_due hi hc ht hr hu hk
    refine ⟨fun hw => ?waits, fun hw c hc' => ⟨fun h => ?passes, fun hd hs => ⟨fun hm => ?more, fun hm => ?last⟩⟩⟩
    case waits => exact ⟨_, he.trans (congrArg _ (if_neg hw)), State.groupStart_waits hi hc hw⟩
    case passes =>
      exact ⟨_, (he.trans (congrArg _ (if_pos hw))).trans (congrArg _ (State.startGroup_writes hc' h)),
        State.groupStart_passes d hi hc rfl⟩
    case more =>
      exact ⟨_, (he.trans (congrArg _ (if_pos hw))).trans (congrArg _ (State.startGroup_skips hc' hd hs)),
        State.groupStart_skips_more d hm⟩
    case last =>
      exact ⟨_, (he.trans (congrArg _ (if_pos hw))).trans (congrArg _ (State.startGroup_skips hc' hd hs)),
        State.groupStart_skips_last d hm⟩
  case close =>
    have hc := State.closing_eq hk hf hl hx hxl h0
    exact ⟨fun ho hs ht hm => ⟨_, exec_liftCloseCommit_closes hc ho hs ht hm, s.liftClosed_spec⟩,
      exec_liftCloseCommit_waits hc,
      fun hs hw hz => ⟨_, exec_liftDiscard_discards hc hs hw hz, State.liftDiscarded_spec hw⟩,
      exec_liftDiscard_waits hc⟩

end Sys2Proof.Machine
end

section
/-! SUPPORT. What the edge writes to the save areas of the cores, and the refutation of the obligation on edges (O23). -/

namespace Sys2Proof.Machine

/-! ## Regions of memory (R361) -/

/-- A region that is written to zero reads as zero, and every other one as before. -/
theorem Mem.byte_zeroRegion (m : Mem) (r k : Nat) :
    (m.zeroRegion r).byte k = if regionOf k = r then 0 else m.byte k := by
  have hd : (m.zeroRegion r).dflt k = if regionOf k = r then 0 else m.dflt k := by
    have hl := SMap.find?_erase m.lost r (regionOf k)
    simp only [Mem.dflt, Mem.zeroRegion, SMap.get, hl]
    by_cases h : regionOf k = r
    · rw [if_pos h, if_pos h]; rfl
    · rw [if_neg h, if_neg h]
  have hc := SMap.get_filter ((m.zeroRegion r).dflt k) m.cells (fun j => regionOf j != r) k
  rw [Mem.byte]
  refine hc.trans ?_
  rw [hd]
  by_cases h : regionOf k = r <;> simp [h, Mem.byte]

/-! ## A saved state (R50) -/

theorem mem_placed {off : Nat} {bs : List Byte} {p : Nat × Byte} (h : p ∈ placed off bs) : p.1 < off + bs.length := by
  obtain ⟨q, hq, rfl⟩ := List.mem_map.1 h
  have := List.mem_range.1 (List.of_mem_zip hq).1
  show off + q.1 < _
  omega

theorem length_waitBytes (w : Wait) : w.bytes.length = 32 := by
  cases w <;> simp [Wait.bytes, Wait.words, length_leBytes]

/-- What a strand puts into the save area lies in it. -/
theorem Strand.image_lt {x : Strand} {t : Nat} (ht : t < 4) {p : Nat × Byte} (h : p ∈ x.image t) : p.1 < saveSize := by
  simp only [Strand.image, List.mem_append, List.mem_flatMap] at h
  obtain ((⟨r, -, h⟩ | h) | h) | h := h
  · split_ifs at h with hr
    · have := mem_placed h
      rw [length_wordBytes] at this
      simp only [saveSize]; omega
    · cases h
  · have := mem_placed h
    rw [length_wordBytes] at this
    simp only [saveSize, saveIps] at *; omega
  · have := mem_placed h
    rw [length_leBytes] at this
    simp only [saveSize, saveFlags] at *; omega
  · have := mem_placed h
    rw [length_waitBytes] at this
    simp only [saveSize, saveWaits] at *; omega

/-- What a core saves lies in its save area. -/
theorem Core.image_lt {k : Core} {p : Nat × Byte} (h : p ∈ k.image) : p.1 < saveSize := by
  simp only [Core.image, List.mem_append, List.mem_flatMap, List.mem_map, List.mem_filter] at h
  obtain ((⟨t, ht, h⟩ | ⟨q, ⟨-, hq⟩, rfl⟩) | ⟨q, -, h⟩) | ⟨q, -, h⟩ := h
  · exact Strand.image_lt (List.mem_range.1 ht) h
  · have := of_decide_eq_true hq
    simp only [saveSize, saveRegs]; omega
  · split_ifs at h with hq
    · have := mem_placed h
      rw [length_leBytes] at this
      simp only [saveSize, saveMarks] at *; omega
    · cases h
  · split_ifs at h with hq
    · have := mem_placed h
      rw [length_leBytes] at this
      simp only [saveSize, saveBank] at *; omega
    · cases h

theorem State.mem_storeList (s : State) (l : List (Nat × Byte)) : (s.storeList l).mem = s.mem.writeList l :=
  (congrArg State.mem (State.checkWaits_sameButNet { s with mem := s.mem.writeList l }) :)

/-- A save zeroes the region of its save area, and writes nothing above the area. -/
theorem State.byte_writeSaved {s : State} {c n k : Nat} {img : List (Nat × Byte)}
    (h : ∀ p ∈ img, p.1 < saveSize) (hk : saveKey c n + saveSize ≤ k) : (s.writeSaved c n img).mem.byte k =
      if regionOf k = saveRegion (coreCluster c) (coreMember c) n then 0 else s.mem.byte k := by
  rw [State.writeSaved, State.mem_storeList, Mem.byte_writeList_out]
  · exact Mem.byte_zeroRegion s.mem _ k
  · intro q hq
    obtain ⟨p, hp, rfl⟩ := List.mem_map.1 hq
    have := h p hp
    show saveKey c n + p.1 ≠ k
    omega

/-! ## A core at the edge (R52, R53) -/

theorem State.mem_coreEdge (s : State) (c : Nat) :
    (s.coreEdge c).mem = if (s.core c).run.now = .idle then s.mem else (s.saveCtx c).mem := by
  rw [State.coreEdge]
  split <;> rfl

theorem State.job_saveCtx (s : State) (c : Nat) : (s.saveCtx c).job = s.job := by
  rw [State.saveCtx]
  split
  · exact (congrArg State.job (State.checkWaits_sameButNet _) :)
  · rfl

theorem State.job_coreEdge (s : State) (c : Nat) : (s.coreEdge c).job = s.job := by
  rw [State.coreEdge]
  split
  · rfl
  · exact s.job_saveCtx c

/-- The edge of a core that saves a context zeroes the region of the save area. -/
theorem State.byte_coreEdge_saved {s : State} {c k : Nat} (hn : (s.core c).run.now ≠ .idle)
    (hh : (s.core c).run.holds = true)
    (hr : regionOf k = saveRegion (coreCluster c) (coreMember c) (s.core c).run.ctx.toNat)
    (hk : saveKey c (s.core c).run.ctx.toNat + saveSize ≤ k) : (s.coreEdge c).mem.byte k = 0 := by
  rw [State.mem_coreEdge, if_neg hn, State.saveCtx, if_pos hh,
    State.byte_writeSaved (fun p hp => Core.image_lt hp) hk, if_pos hr]

/-- A byte above a core's save area that is zero stays zero at the core's edge. -/
theorem State.byte_coreEdge_zero {s : State} {c k : Nat} (h0 : s.mem.byte k = 0)
    (hk : saveKey c (s.core c).run.ctx.toNat + saveSize ≤ k) : (s.coreEdge c).mem.byte k = 0 := by
  rw [State.mem_coreEdge, State.saveCtx]
  split_ifs
  · exact h0
  · rw [State.byte_writeSaved (fun p hp => Core.image_lt hp) hk, h0, ite_self]
  · exact h0

/-- Every save area lies below the scratchpads. -/
theorem saveKey_below_spads {c n : Nat} (hc : c < 576) : saveKey c n + saveSize ≤ 2 * 2 ^ 48 := by
  have hk : coreCluster c < 72 := by
    simp only [coreCluster, coreX, coreY]
    omega
  simp only [saveKey, clusterKey, saveOff, saveSize]
  omega

/-! ## The edge of a run that goes on (R30, R277, R279) -/

theorem State.mem_flipFace (s : State) : s.flipFace.mem = s.mem := by
  rw [State.flipFace]
  split <;> rfl

theorem State.mem_openCourse (s : State) (n : Word) (t : Nat) : (s.openCourse n t).mem = s.mem :=
  List.foldlRecOn (motive := fun u : State => u.mem = s.mem) _ _ rfl fun _ hu _ _ => hu

/-- With no core parked there is none to restore. -/
theorem State.restoreParked_eq {s : State} (h : ∀ c, (s.core c).run.state ≠ .parked) :
    s.restoreParked = { s with job := { s.job with parked := none } } := by
  rw [State.restoreParked, List.foldl_fixed' fun c => by rw [State.endPark, if_pos (h c)]]

/-- The edge of a run that goes on, in time and with no reduction block in force: the cores end their course, and the
next one opens. -/
theorem State.courseEdge_goesOn {s : State} {t : Nat} {p : RunPlan} (ht : t ≤ s.chain.te) (hm : s.mortar.red = none)
    (hp : s.job.runs = [p]) (ha : p.active = true) (hs : (s.job.course + 1).toNat < p.stop) :
    s.courseEdge t = ((List.range 576).foldl State.coreEdge s).openCourse (s.job.course + 1) t := by
  have hsnap : s.snapshot s.job.course = s := by simp [State.snapshot, State.redInForce, hm]
  have hj : ((List.range 576).foldl State.coreEdge s).job = s.job :=
    List.foldlRecOn (motive := fun u : State => u.job = s.job) _ _ rfl
      fun u hu c _ => (u.job_coreEdge c).trans hu
  have hrun : ((List.range 576).foldl State.coreEdge s).job.activeRun = some p := by
    rw [hj, Job.activeRun, hp]; simp [ha]
  have hend : ((List.range 576).foldl State.coreEdge s).endRun (s.job.course + 1).toNat =
      (List.range 576).foldl State.coreEdge s := by
    rw [State.endRun, hrun]
    exact if_neg (Nat.not_le.2 hs)
  have hdue : ((List.range 576).foldl State.coreEdge s).startDue (s.job.course + 1).toNat =
      (List.range 576).foldl State.coreEdge s := by
    rw [State.startDue, hj, hp]; simp [ha]
  rw [State.courseEdge, if_neg (Nat.not_lt.2 ht)]
  rw [hsnap, hend, hdue, hrun]
  simp

/-- EDGE_APPLY of a participant that drives ready. -/
theorem exec_edgeApply_running {s : State} {t : Nat} (he : s.edgeTime = some t) (hs : s.job.st = .running)
    (hr : s.chain.ready = true) : exec .edgeApply s = .next (((s.modChain (fun c => { c with
      mark := none, lastEdge := t, edges := satAdd c.edges 1 })).restoreParked.courseEdge t).flipFace) := by
  show execEdgeApply s = _
  simp [execEdgeApply, he, hs, hr, State.modChain]

/-! ## A byte of memory that the module does not have -/

/-- Scratchpads end with number 575, but a state may list bytes beyond them. The key of scratchpad 9000, which no
address reaches (R161), has the region number of core 0's first save area. -/
def strayKey : Nat := spadKey 9000 0

theorem regionOf_strayKey : regionOf strayKey = saveRegion (coreCluster 0) (coreMember 0) 0 := by decide

/-- Cores that are all alike; irreducible, so that a comparison of states does not run through the cores. -/
@[irreducible] def alikeCores (n : Nat) (k : Core) : SMap Core := (List.range n).map (fun c => (c, k))

/-- A core that is done and holds its context 0. -/
def doneCore : Core := { run := { state := .done, holds := true } }

/-- A module at the edge of a course: every core is done and holds its context 0, and one stray byte is set. -/
def strayByte : State where
  mem := { cells := [(strayKey, 1)] }
  cores := alikeCores 576 doneCore
  chain := { mark := some 0, ready := true }
  job := { st := .running, runs := [{ active := true, courses := 2 }] }

/-- A sparse array with one value at each index of a list. -/
theorem SMap.get_map_const {α : Type} (d v : α) {l : List Nat} {k : Nat} :
    (k ∈ l → SMap.get d (l.map (fun i => (i, v))) k = v) ∧ (k ∉ l → SMap.get d (l.map (fun i => (i, v))) k = d) := by
  induction l with
  | nil => exact ⟨fun h => absurd h List.not_mem_nil, fun _ => rfl⟩
  | cons i l ih =>
    simp only [SMap.get] at ih ⊢
    by_cases h : i = k
    · simp [SMap.find?, h]
    · have hk : ¬k = i := fun e => h e.symm
      simpa [SMap.find?, h, hk] using ih

theorem core_strayByte {c : Nat} (h : c < 576) : strayByte.core c = doneCore := by
  have hc : strayByte.cores = alikeCores 576 doneCore := rfl
  rw [State.core, hc, alikeCores]
  exact (SMap.get_map_const _ _).1 (List.mem_range.2 h)

theorem core_strayByte_beyond {c : Nat} (h : ¬c < 576) : strayByte.core c = {} := by
  have hc : strayByte.cores = alikeCores 576 doneCore := rfl
  rw [State.core, hc, alikeCores]
  exact (SMap.get_map_const _ _).2 fun hm => h (List.mem_range.1 hm)

theorem byte_strayByte : strayByte.mem.byte strayKey = 1 := by
  have hg : SMap.get (strayByte.mem.dflt strayKey) [(strayKey, (1 : Byte))] strayKey = 1 := by
    simp [SMap.get, SMap.find?]
  exact hg

theorem strayKey_above_saves {c n : Nat} (hc : c < 576) : saveKey c n + saveSize ≤ strayKey :=
  Nat.le_trans (saveKey_below_spads hc) (by rw [strayKey, spadKey]; omega)

/-- Core 0's save loses the stray byte, and no later core's save brings it back. -/
theorem byte_coreEdges_strayByte {s : State} (hc : s.cores = strayByte.cores) :
    ((List.range 576).foldl State.coreEdge s).mem.byte strayKey = 0 := by
  have h0 : s.core 0 = doneCore :=
    (State.core_congr hc 0).trans (core_strayByte (by decide))
  have hfirst : (s.coreEdge 0).mem.byte strayKey = 0 :=
    State.byte_coreEdge_saved (by rw [h0]; decide) (by rw [h0]; rfl) (by rw [h0]; exact regionOf_strayKey)
      (strayKey_above_saves (by decide))
  rw [List.range_succ_eq_map, List.foldl_cons]
  refine List.foldlRecOn (motive := fun u : State => u.mem.byte strayKey = 0) _ _ hfirst fun u hu c hm => ?_
  obtain ⟨i, hi, rfl⟩ := List.mem_map.1 hm
  have := List.mem_range.1 hi
  exact State.byte_coreEdge_zero hu (strayKey_above_saves (by omega))

theorem byte_edge_strayByte {u : State} (h : exec .edgeApply strayByte = .next u) : u.mem.byte strayKey = 0 := by
  have hpark (f : Chain → Chain) (c : Nat) : ((strayByte.modChain f).core c).run.state ≠ .parked := by
    rw [State.core_congr (s := strayByte) (u := strayByte.modChain f) rfl]
    by_cases h : c < 576
    · rw [core_strayByte h]; decide
    · rw [core_strayByte_beyond h]; decide
  rw [exec_edgeApply_running (t := 0) rfl rfl rfl, State.restoreParked_eq (hpark _),
    State.courseEdge_goesOn (Nat.le_refl 0) rfl rfl rfl (by decide)] at h
  obtain rfl := Host.Outcome.next.inj h
  rw [State.mem_flipFace, State.mem_openCourse]
  exact byte_coreEdges_strayByte rfl

/-! ## The obligation -/

/-- Refutes O23: the frame of memory at an edge fails on a key of a scratchpad that the module does not have. Its region
has the number of core 0's first save area, so the save that the edge makes zeroes the byte that the state lists there. -/
theorem not_edges : ¬ Obligations.Edges := by
  unfold Obligations.Edges
  rintro ⟨-, hedge⟩
  obtain ⟨-, -, hgo⟩ := hedge strayByte 0 rfl
  obtain ⟨u, hu, -, -, -, -, -, -, hframe, -⟩ := hgo rfl rfl _ rfl rfl (by decide)
    (fun c hc => by rw [core_strayByte hc]; rfl)
  have hkept : u.mem.byte strayKey = strayByte.mem.byte strayKey :=
    hframe strayKey (by rw [strayKey, spadKey]; omega) fun c hc _ => .inr (strayKey_above_saves hc)
  rw [byte_edge_strayByte hu, byte_strayByte] at hkept
  exact absurd hkept (by decide)

end Sys2Proof.Machine
end

section
/-! SUPPORT. What a step does with its queue (O57), and the registers of a core right after reset (O58). -/

namespace Sys2Proof.Machine

/-- Settles O57: a step takes the queue apart, and with an empty queue it is the tick of the clock. -/
theorem stepRunsFront : Obligations.StepRunsFront := by
  unfold Obligations.StepRunsFront
  have tick {s : State} (hq : s.pending = []) : step s = .next s.tick := by rw [step, hq]
  refine ⟨fun i s => rfl, fun s hq hp => ?_, fun s hq hp => ?_⟩
  · rw [tick hq, State.tick, if_neg (by simp [hp])]
  · rw [tick hq, State.tick, if_pos hp]

/-! ## A core's block (R58) -/

/-- A register past the first five of a core's block reads in reset as it does out of it (R438). -/
theorem State.coreWord_live (s : State) (c : Nat) {r : Nat} (h : 0x20 < r) : s.coreWord c r = s.coreLive c r := by
  rw [State.coreWord, ite_self]
  all_goals omega

theorem State.coreWord_cycle_inReset {s : State} {c : Nat} (h : (s.core c).run.state = .reset) :
    s.coreWord c 0x10 = some 0 := by
  simp [State.coreWord, State.coreInReset, h]

theorem State.coreLive_ctxTime (s : State) (c : Nat) {n : Nat} (h : n < 8) :
    s.coreLive c (0x200 + 8 * n) = some (SMap.get 0 (s.core c).run.ctxTime n) := by
  have hlog : within (0x200 + 8 * n) 0x100 0x100 = false := by rw [within_eq_false_iff]; omega
  have htime : within (0x200 + 8 * n) 0x200 0x40 = true := by rw [within_iff]; omega
  rw [State.coreLive]
  iterate 6 rw [if_neg (by omega)]
  rw [hlog, htime, show (0x200 + 8 * n - 0x200) / 8 = n by omega]
  rfl

theorem State.coreLive_ctxCourses (s : State) (c : Nat) {n : Nat} (h : n < 8) :
    s.coreLive c (0x240 + 8 * n) = some (SMap.get 0 (s.core c).run.ctxCourses n) := by
  have hlog : within (0x240 + 8 * n) 0x100 0x100 = false := by rw [within_eq_false_iff]; omega
  have htime : within (0x240 + 8 * n) 0x200 0x40 = false := by rw [within_eq_false_iff]; omega
  have hcourses : within (0x240 + 8 * n) 0x240 0x40 = true := by rw [within_iff]; omega
  rw [State.coreLive]
  iterate 6 rw [if_neg (by omega)]
  rw [hlog, htime, hcourses, show (0x240 + 8 * n - 0x240) / 8 = n by omega]
  rfl

/-- Settles O58: the state right after reset is a literal whose fields read off; a core's registers are found through
the core's block. -/
theorem resetState : Obligations.ResetState := by
  unfold Obligations.ResetState
  refine ⟨⟨rfl, fun p hp => absurd hp List.not_mem_nil⟩, rfl, rfl, rfl, rfl, rfl, rfl, fun c hc => ?_, rfl, rfl, rfl,
    rfl, fun _ => rfl, fun _ => rfl, fun _ _ _ => ite_self _, fun _ _ _ => rfl⟩
  have reg {o r : Nat} (hr : r < 0x1000) (ho : o = 0x3000000 + 0x1000 * c + r) :
      State.reset.ctlWord 0 o = State.reset.coreWord c r :=
    ho ▸ State.ctlWord_core State.reset 0 ⟨c, hc⟩ hr
  refine ⟨?_, ?_, fun n hn => ⟨?_, ?_⟩⟩
  · rw [reg (r := 0x28) (by omega) (by omega), State.coreWord_live _ _ (by omega)]; rfl
  · rw [reg (r := 0x10) (by omega) (by omega), State.coreWord_cycle_inReset rfl]
  · rw [reg (r := 0x200 + 8 * n) (by omega) (by omega), State.coreWord_live _ _ (by omega), State.coreLive_ctxTime _ _ hn]
    rfl
  · rw [reg (r := 0x240 + 8 * n) (by omega) (by omega), State.coreWord_live _ _ (by omega),
      State.coreLive_ctxCourses _ _ hn]
    rfl

end Sys2Proof.Machine
end

section
/-! SUPPORT. The array queue (R35, R40): the turn of its entries, and the issue of the instructions that enter it (O9). -/

namespace Sys2Proof.Machine

/-! ## The turn of the queue's entries -/

/-- An entry that starts by a command of its own: an `amm` or an `aflip`. -/
def AEntry.own (e : AEntry) : Prop := (∃ o, e = .amm o) ∨ ∃ n hs, e = .flip n hs

/-- An entry that starts by a command of its own stays in the queue on its turn. -/
theorem ArrayUnit.settleFrom_own {e : AEntry} (he : e.own) (q : List AEntry) (busy : List Nat) (a : ArrayUnit) :
    ArrayUnit.settleFrom (e :: q) busy a = ArrayUnit.settleFrom q (a.keeps e ++ busy) { a with queue := a.queue ++ [e] } := by
  obtain ⟨o, rfl⟩ | ⟨n, hs, rfl⟩ := he
  all_goals exact ite_self _

theorem ArrayUnit.settleFrom_calm (q : List AEntry) (busy : List Nat) (a : ArrayUnit) (h : ∀ e ∈ q, e.own) :
    ArrayUnit.settleFrom q busy a = { a with queue := a.queue ++ q } := by
  induction q generalizing busy a with
  | nil => rw [ArrayUnit.settleFrom, List.append_nil]
  | cons e q ih =>
    rw [ArrayUnit.settleFrom_own (h e List.mem_cons_self), ih _ _ (fun x hx => h x (List.mem_cons_of_mem e hx))]
    simp

/-- A queue in which nothing goes on its own is as it was. -/
theorem ArrayUnit.settle_calm {a : ArrayUnit} (h : a.calm) : a.settle = a :=
  ArrayUnit.settleFrom_calm a.queue [] { a with queue := [] } h

/-- With no retry, nothing is held (R43). -/
theorem ArrayUnit.held_of_no_retry {a : ArrayUnit} (h : a.retries = []) (hs : List Nat) : a.held hs = false := by
  rw [ArrayUnit.held, h]; rfl

/-- Halves meet none of an empty list. -/
@[simp] theorem meets_nil (hs : List Nat) : meets hs [] = false := by simp [meets]

/-- An `awld` whose turn it is loads its latches (R29). -/
theorem ArrayUnit.settleFrom_wld {a : ArrayUnit} (hr : a.retries = []) (n : Nat) (ls : List (Nat × Latch)) :
    ArrayUnit.settleFrom [.wld n ls] [] a = { a with shadow := setLatches a.shadow ls } := by
  rw [ArrayUnit.settleFrom, meets_nil, a.held_of_no_retry hr]
  rfl

/-- An `abrd` whose turn it is goes to the readout path while that has room, and waits else (R40). -/
theorem ArrayUnit.settleFrom_rd {a : ArrayUnit} (hr : a.retries = []) (o : RdOp) :
    ArrayUnit.settleFrom [.rd o] [] a = if a.readout.length < 8 then { a with readout := a.readout ++ [o] }
      else { a with queue := a.queue ++ [.rd o] } := by
  rw [ArrayUnit.settleFrom, meets_nil, a.held_of_no_retry hr]
  rfl

section
variable {a : ArrayUnit} (hq : a.queue = [])
include hq

/-- The one entry of a queue that was empty has its turn. -/
theorem ArrayUnit.enqueue_empty (e : AEntry) :
    a.enqueue e = ArrayUnit.settleFrom [e] [] { a with seq := a.seq + 1 } := by
  rw [ArrayUnit.enqueue, ArrayUnit.settle]
  simp only [hq, List.nil_append]

/-- What starts by a command of its own waits in a queue that was empty. -/
theorem ArrayUnit.enqueue_own {e : AEntry} (he : e.own) :
    a.enqueue e = { a with seq := a.seq + 1, queue := [e] } := by
  rw [ArrayUnit.enqueue_empty hq, ArrayUnit.settleFrom_own he, ArrayUnit.settleFrom]
  simp only [hq, List.nil_append]

end

/-! ## Issue (R29, R40, R88) -/

/-- An instruction whose own condition does not hold waits. -/
theorem State.issue_waits {s : State} {c t : Nat} {ready : Bool} (effect : State → State) (h : s.issues c t = true)
    (hr : ready = false) : s.issue c t ready effect = s := by
  obtain ⟨hi, hp⟩ := (State.issues_iff s c t).1 h
  simp [State.issue, hi, hp, hr]

/-- A change of the arrays by an instruction that retires, and the frame of the rest. -/
theorem State.retire_modArr (s : State) (c t : Nat) (f : ArrayUnit → ArrayUnit) (n : Word) (mis : Bool) :
    s.movedOn ((s.modArr c f).retire c t n mis) c t n ∧
    s.coresFrame ((s.modArr c f).retire c t n mis) c t mis (s.arrBack c) ∧
    s.sameButCores ((s.modArr c f).retire c t n mis) ∧
    (((s.modArr c f).retire c t n mis).core c).arr = f (s.core c).arr := by
  obtain ⟨hip, hcores, hsame⟩ := State.retire_done (s.modArr c f) c t n mis
  have hframe : s.coresFrame (s.modArr c f) c t false (s.arrBack c) :=
    ⟨fun d hd => State.core_modArr_ne s f hd, fun x _ => State.strand_modArr s c c x f, by
      rw [State.core_modArr_same]; rfl⟩
  refine ⟨?_, hframe.retire (fun _ _ _ => rfl) n mis, (State.sameButCores_modCore s c _).trans hsame, ?_⟩
  · rw [State.movedOn, hip, State.strand_modArr]
  · have harr := congrArg Core.arr hcores.2.2
    rw [State.core_modArr_same] at harr
    cases mis <;> simpa [Core.counted] using harr

/-- The shape word of an instruction that ends in the scratchpad is what was fetched (R483). -/
theorem State.shapeAt_within {s : State} {c t : Nat} (h : (s.strand c t).ip.toNat + 8 < 2 ^ 21) (sh : Shape) :
    s.shapeAt c t sh = sh := if_neg (Nat.not_le.2 h)

theorem State.countShape_within {s : State} {c t : Nat} (h : (s.strand c t).ip.toNat + 8 < 2 ^ 21) :
    s.countShape c t = s := by
  rw [State.countShape, decide_eq_false (Nat.not_le.2 h)]
  rfl

/-- An `aflip` names no half just when its mask is zero. -/
theorem flipHalves_isEmpty (w : AflipWord) : (flipHalves w).isEmpty = decide (w.halves = 0) := by
  rw [flipHalves]
  generalize w.halves = h
  revert h
  decide

section
variable {c : CoreId} {t : StrandId} {s : State} (hi : s.issues c t = true) (hq : (s.core c).arr.queue.length < 8)
include hi

/-- An instruction for the arrays waits while the queue is full. -/
theorem exec_array_full {i : Instr} (hfull : 8 ≤ (s.core c).arr.queue.length)
    (h : (∃ w sh, i = .awld c t w sh) ∨ (∃ w, i = .aflip c t w) ∨ (∃ w sh, i = .amm c t w sh) ∨
      ∃ w, i = .abrd c t w) : exec i s = .next s := by
  have hn : decide ((s.core c).arr.queue.length < 8) = false := decide_eq_false (Nat.not_lt.2 hfull)
  have hand (b : Bool) : (decide ((s.core c).arr.queue.length < 8) && b) = false := by rw [hn, Bool.false_and]
  obtain ⟨w, sh, rfl⟩ | ⟨w, rfl⟩ | ⟨w, sh, rfl⟩ | ⟨w, rfl⟩ := h
  · exact congrArg Host.Outcome.next (State.issue_waits _ hi (hand _))
  · exact congrArg Host.Outcome.next (State.issue_waits _ hi hn)
  · exact congrArg Host.Outcome.next (State.issue_waits _ hi (hand _))
  · exact congrArg Host.Outcome.next (State.issue_waits _ hi (hand _))

include hq

/-- The latches that an `awld` of a valid format loads (R90). -/
theorem exec_awld {w : AwldWord} {sh : Shape} {f : EFmt} {hs : List Nat}
    (hr : s.arrayReady c t w.tw.toNat w.vs.toNat sh = true) (hip : (s.strand c t).ip.toNat + 8 < 2 ^ 21)
    (hf : arrayFmt sh.fmt = some f) (ht : targetHalves false w.target f = some hs) :
    ∃ mis, exec (.awld c t w sh) s = .next ((s.modArr c (fun a => a.enqueue (.wld a.seq
      ((s.core c).regs.awldLatches f w { sh with rows := BitVec.ofNat 6 (min (shRows sh) (awldMaxN f hs) - 1) }
        hs)))).retire c t 16 mis) := by
  have he : exec (.awld c t w sh) s = .next _ :=
    congrArg Host.Outcome.next (State.issue_of_issues _ hi (Bool.and_eq_true_iff.2 ⟨decide_eq_true hq, hr⟩))
  simp only [State.shapeAt_within hip, State.countShape_within hip, hf, ht] at he
  exact ⟨_, he⟩

theorem exec_aflip (w : AflipWord) : exec (.aflip c t w) s = .next ((s.modArr c (fun a =>
    if w.halves = 0 then { a with seq := a.seq + 1 } else a.enqueue (.flip a.seq (flipHalves w)))).retire c t 8
    (w.rsv != 0)) := by
  refine (congrArg Host.Outcome.next (State.issue_of_issues _ hi (decide_eq_true hq))).trans ?_
  simp only [flipHalves_isEmpty, decide_eq_true_eq]

/-- The `amm` that enters the queue (R36, R91). -/
theorem exec_amm {w : AmmWord} {sh : Shape} {f : EFmt} {hs : List Nat}
    (hr : s.arrayReady c t w.ta.toNat w.vs.toNat sh = true) (hip : (s.strand c t).ip.toNat + 8 < 2 ^ 21)
    (hf : arrayFmt sh.fmt = some f) (ht : targetHalves true w.target f = some hs) :
    ∃ (mis : Bool) (scales : List (List Byte)), exec (.amm c t w sh) s = .next ((s.modArr c (fun a => a.enqueue (.amm
      { seq := (s.core c).arr.seq, strand := t, target := w.target, zero := w.zero, fmt := sh.fmt,
        k := min (kOf f sh) f.depth, boff := w.boff.toNat,
        rows := (List.range (shRows sh)).map
          (fun i => (s.core c).regs.tileRow w.ta.toNat (shBytes sh f) f.size (w.rbase.toNat + i)),
        scales := scales, mis := mis }))).retire c t 16 mis) := by
  have he : exec (.amm c t w sh) s = .next _ :=
    congrArg Host.Outcome.next (State.issue_of_issues _ hi (Bool.and_eq_true_iff.2 ⟨decide_eq_true hq, hr⟩))
  simp only [State.shapeAt_within hip, State.countShape_within hip, hf, ht] at he
  exact ⟨_, _, he⟩

theorem exec_abrd {w : AbrdWord} {f : FFmt} (hp : ∀ v ∈ abrdRegs w, s.regPending c t v = false)
    (hf : abrdFmt w.ofmt = some f) (hv : ¬(w.ofmt = 6 ∧ w.vd = 255)) :
    exec (.abrd c t w) s = .next ((s.modArr c (fun a => a.enqueue (.rd
      { seq := (s.core c).arr.seq, strand := t, vd := w.vd.toNat, row := w.row.toNat, ofmt := w.ofmt, clr := w.clr,
        nfp := w.nfp, e := w.e, group := w.group }))).retire c t 8 (w.rsv != 0)) := by
  refine (congrArg Host.Outcome.next (State.issue_of_issues _ hi ?_)).trans ?_
  · rw [List.any_eq_false.2 (fun v hv => by simp [hp v hv]), Bool.not_false, Bool.and_true]; exact decide_eq_true hq
  · rw [if_neg (by simpa [hf] using hv)]

end

/-- Settles O9: each instruction puts its entry into the queue and retires; the turn of that entry in an empty queue says
what happens at once. -/
theorem arrayIssue : Obligations.ArrayIssue := by
  unfold Obligations.ArrayIssue
  intro c t s hi a r calm
  refine ⟨fun hfull i => exec_array_full hi hfull, fun w sh f hs hq hr hip hf ht => ?awld, fun w hq => ?aflip,
    fun w sh f hs hq hr hip hf ht => ?amm, fun w f hq hp hf hv => ?abrd⟩
  case awld =>
    obtain ⟨mis, he⟩ := exec_awld hi hq hr hip hf ht
    obtain ⟨hip, hcores, hsame, harr⟩ := State.retire_modArr s c t _ 16 mis
    refine ⟨_, mis, he, hip, hcores, hsame, harr, fun ⟨hempty, hcalm⟩ => harr.trans ?_⟩
    exact (ArrayUnit.enqueue_empty hempty _).trans (ArrayUnit.settleFrom_wld (a := { a with seq := a.seq + 1 }) hcalm _ _)
  case aflip =>
    obtain ⟨hip, hcores, hsame, harr⟩ := State.retire_modArr s c t _ 8 (w.rsv != 0)
    refine ⟨_, exec_aflip hi hq w, hip, hcores, hsame, fun h0 => harr.trans (if_pos h0),
      fun h0 => harr.trans (if_neg h0), fun h0 ⟨hempty, _⟩ => (harr.trans (if_neg h0)).trans ?_⟩
    exact ArrayUnit.enqueue_own hempty (.inr ⟨_, _, rfl⟩)
  case amm =>
    obtain ⟨mis, scales, he⟩ := exec_amm hi hq hr hip hf ht
    obtain ⟨hip, hcores, hsame, harr⟩ := State.retire_modArr s c t _ 16 mis
    refine ⟨_, mis, _, he, hip, hcores, hsame, harr, fun ⟨hempty, _⟩ => harr.trans ?_, rfl, rfl, rfl, rfl, rfl, rfl, rfl,
      rfl⟩
    exact ArrayUnit.enqueue_own hempty (.inl ⟨_, rfl⟩)
  case abrd =>
    obtain ⟨hip, hcores, hsame, harr⟩ := State.retire_modArr s c t _ 8 (w.rsv != 0)
    have hturn (h : a.queue = [] ∧ a.retries = []) (o : RdOp) :=
      (ArrayUnit.enqueue_empty h.1 (.rd o)).trans (ArrayUnit.settleFrom_rd (a := { a with seq := a.seq + 1 }) h.2 o)
    refine ⟨_, exec_abrd hi hq hp hf hv, hip, hcores, hsame, harr, fun h hroom => ?_, fun h hroom => ?_⟩
    · exact harr.trans ((hturn h _).trans (if_pos hroom))
    · refine harr.trans ((hturn h _).trans ((if_neg (Nat.not_lt.2 hroom)).trans ?_))
      rw [h.1]; rfl

end Sys2Proof.Machine
end

section
/-! SUPPORT. The latches, the streaming of an `amm` and its rows in the bank (R29, R33, R35–R39), and O10. -/

namespace Sys2Proof.Machine

/-! ## Bank entries (R33, R38) -/

theorem halfCols_eq (f : EFmt) : halfCols f = 16 ∨ halfCols f = 32 := by
  unfold halfCols; split
  · exact .inl rfl
  · exact .inr rfl

/-- Columns of halves lie apart in the bank (R38). -/
theorem bankCol_inj {f : EFmt} {h h' j j' : Nat} (hj : j < halfCols f) (hj' : j' < halfCols f)
    (e : bankCol f h j = bankCol f h' j') : h = h' ∧ j = j' := by
  unfold bankCol at e
  obtain hc | hc := halfCols_eq f <;> rw [hc] at e hj hj' <;> omega

section
variable {α : Type} (zero : Bool) (place : α → Nat) (val : α → W32)

/-- Results put at places of the bank leave every other entry as it was. -/
theorem get_foldl_bankPut_out (l : List α) (bank : SMap W32) {k : Nat} (h : ∀ x ∈ l, k ≠ place x) :
    SMap.get 0 (l.foldl (fun b x => bankPut b (place x) zero (val x)) bank) k = SMap.get 0 bank k := by
  induction l generalizing bank with
  | nil => rfl
  | cons x l ih =>
    rw [List.foldl_cons, ih _ (fun y hy => h y (List.mem_cons_of_mem x hy)), bankPut,
      SMap.get_put_ne _ _ _ _ (h x List.mem_cons_self)]

/-- A result put at a place of its own is what the bank holds there, or is added to it (R33). -/
theorem get_foldl_bankPut_mem {l : List α} (bank : SMap W32) (hl : (l.map place).Nodup) {x : α} (hx : x ∈ l) :
    SMap.get 0 (l.foldl (fun b x => bankPut b (place x) zero (val x)) bank) (place x) =
      if zero then val x else fadd (SMap.get 0 bank (place x)) (val x) := by
  induction l generalizing bank with
  | nil => exact absurd hx List.not_mem_nil
  | cons y l ih =>
    rw [List.map_cons, List.nodup_cons] at hl
    obtain ⟨hy, hl⟩ := hl
    have hne {z : α} (hz : z ∈ l) : place y ≠ place z := fun e => hy (e ▸ List.mem_map_of_mem hz)
    rw [List.foldl_cons]
    obtain rfl | hx := List.mem_cons.1 hx
    · rw [get_foldl_bankPut_out zero place val _ _ (fun z hz => hne hz), bankPut, SMap.get_put_same]
    · rw [ih _ hl hx, bankPut, SMap.get_put_ne _ _ _ _ (Ne.symm (hne hx))]

end

/-! ## One row of an `amm` (R33, R39) -/

/-- Only the bank changes when a row reaches it. -/
theorem ArrayUnit.writeRow_frame (a : ArrayUnit) (o : AmmOp) (hs : List Nat) (i : Nat) :
    { a.writeRow o hs i with bank := a.bank } = a := by
  unfold ArrayUnit.writeRow
  split
  · rfl
  · split <;> rfl

/-- The bank after a row, as one pass over the halves and columns. -/
theorem ArrayUnit.bank_writeRow {a : ArrayUnit} {o : AmmOp} {f : EFmt} (hs : List Nat) {i : Nat}
    (hf : arrayFmt o.fmt = some f) (hv : o.void = false) (hi : o.boff + i < 256) :
    (a.writeRow o hs i).bank = (hs ×ˢ List.range (halfCols f)).foldl (fun b p =>
      bankPut b (256 * (o.boff + i) + bankCol f p.1 p.2) o.zero
        (columnResult f o.k (o.rows.getD i []) (o.scales.getD i []) (SMap.get {} a.active p.1) p.2)) a.bank := by
  have hc : (o.void || decide (256 ≤ o.boff + i)) = false := by simp [hv, hi]
  simp only [ArrayUnit.writeRow, hf, hc, Bool.false_eq_true, if_false, SProd.sprod, List.product, List.foldl_flatMap,
    List.foldl_map]

/-- A row that is not suppressed reaches exactly its entries of the bank. -/
theorem ArrayUnit.rowDone_writeRow {a : ArrayUnit} {o : AmmOp} {f : EFmt} {hs : List Nat} {i : Nat}
    (hf : arrayFmt o.fmt = some f) (hv : o.void = false) (hi : o.boff + i < 256) (hn : hs.Nodup) :
    a.rowDone (a.writeRow o hs i) o f hs i := by
  have hnd : ((hs ×ˢ List.range (halfCols f)).map (fun p => 256 * (o.boff + i) + bankCol f p.1 p.2)).Nodup := by
    refine (hn.product List.nodup_range).map_on fun p hp q hq e => ?_
    obtain ⟨-, hp⟩ := List.mem_product.1 hp
    obtain ⟨-, hq⟩ := List.mem_product.1 hq
    exact Prod.ext_iff.2 (bankCol_inj (List.mem_range.1 hp) (List.mem_range.1 hq) (Nat.add_left_cancel e))
  rw [ArrayUnit.rowDone, ArrayUnit.bank_writeRow hs hf hv hi]
  refine ⟨fun h hh j hj => ?_, fun k hk => ?_⟩
  · exact get_foldl_bankPut_mem _ _ _ a.bank hnd (List.mem_product.2 ⟨hh, List.mem_range.2 hj⟩)
  · refine get_foldl_bankPut_out _ _ _ _ _ fun p hp => ?_
    obtain ⟨hh, hj⟩ := List.mem_product.1 hp
    exact hk p.1 hh p.2 (List.mem_range.1 hj)

/-! ## Commands that change the arrays of one core -/

/-- A change of the arrays is what it makes of the arrays that the core has. -/
theorem State.modArr_congr (s : State) {c : Nat} {f g : ArrayUnit → ArrayUnit}
    (h : f (s.core c).arr = g (s.core c).arr) : s.modArr c f = s.modArr c g := by
  unfold State.core at h
  simp only [State.modArr, State.modCore, SMap.modify, h]

theorem State.others_modArr (s : State) (c : CoreId) (f : ArrayUnit → ArrayUnit) :
    ∀ d, d ≠ c.val → (s.modArr c f).core d = s.core d := fun _ hd => s.core_modArr_ne f hd

/-- A core that is not parked has nothing saved (R446). -/
theorem State.parkSave_unparked {s : State} {c : Nat} (h : (s.core c).run.state ≠ .parked) : s.parkSave c = s := by
  simp [State.parkSave, h]

theorem State.parkSave_modArr {s : State} {c : Nat} (h : (s.core c).run.state ≠ .parked) (f : ArrayUnit → ArrayUnit) :
    (s.modArr c f).parkSave c = s.modArr c f :=
  State.parkSave_unparked (by rw [State.core_modArr_same]; exact h)

/-! ## The swap of latches (R29) -/

/-- Only latches change in a swap. -/
theorem ArrayUnit.swap_frame (a : ArrayUnit) (hs : List Nat) :
    { a.swap hs with active := a.active, shadow := a.shadow } = a :=
  List.foldlRecOn (motive := fun b : ArrayUnit => { b with active := a.active, shadow := a.shadow } = a) hs _ rfl
    fun _ hb _ _ => hb

/-- The halves named have changed sides, and the others have not. -/
theorem ArrayUnit.swap_latches {hs : List Nat} (a : ArrayUnit) (hn : hs.Nodup) :
    (∀ h, h ∈ hs → SMap.get {} (a.swap hs).active h = SMap.get {} a.shadow h ∧
      SMap.get {} (a.swap hs).shadow h = SMap.get {} a.active h) ∧
    (∀ h, h ∉ hs → SMap.get {} (a.swap hs).active h = SMap.get {} a.active h ∧
      SMap.get {} (a.swap hs).shadow h = SMap.get {} a.shadow h) := by
  induction hs generalizing a with
  | nil => exact ⟨fun h hh => absurd hh List.not_mem_nil, fun h _ => ⟨rfl, rfl⟩⟩
  | cons x hs ih =>
    obtain ⟨hx, hn⟩ := List.nodup_cons.1 hn
    obtain ⟨ihin, ihout⟩ := ih (a.swap [x]) hn
    have hswap : a.swap (x :: hs) = (a.swap [x]).swap hs := rfl
    have hone (h : Nat) : SMap.get {} (a.swap [x]).active h = (if h = x then SMap.get {} a.shadow h else SMap.get {} a.active h) ∧
        SMap.get {} (a.swap [x]).shadow h = (if h = x then SMap.get {} a.active h else SMap.get {} a.shadow h) := by
      by_cases e : h = x
      · subst e; simp [ArrayUnit.swap]
      · simp [ArrayUnit.swap, SMap.get_set_ne _ _ _ e, e]
    rw [hswap]
    refine ⟨fun h hh => ?_, fun h hh => ?_⟩
    · obtain rfl | hh := List.mem_cons.1 hh
      · obtain ⟨ha, hs'⟩ := ihout h hx
        rw [ha, hs', (hone h).1, (hone h).2, if_pos rfl, if_pos rfl]; exact ⟨rfl, rfl⟩
      · have e : h ≠ x := fun e => hx (e ▸ hh)
        obtain ⟨ha, hs'⟩ := ihin h hh
        rw [ha, hs', (hone h).1, (hone h).2, if_neg e, if_neg e]; exact ⟨rfl, rfl⟩
    · obtain ⟨e, hh⟩ : h ≠ x ∧ h ∉ hs := by simpa using hh
      obtain ⟨ha, hs'⟩ := ihout h hh
      rw [ha, hs', (hone h).1, (hone h).2, if_neg e, if_neg e]; exact ⟨rfl, rfl⟩

/-- What the flip at the head of the queue gives an array (R29, R35, R43). -/
theorem ArrayUnit.takeFlip_head {a : ArrayUnit} {arr n : Nat} {hs : List Nat} (q : List AEntry)
    (hm : hs.filter (fun h => h / 2 = arr) ≠ []) :
    a.takeFlip arr [] (.flip n hs :: q) =
      if a.held (hs.filter (fun h => h / 2 = arr)) then ([], .flip n hs :: q)
      else (hs.filter (fun h => h / 2 = arr),
        if (hs.filter (fun h => h / 2 = arr)).length = hs.length then q
        else .flip n (hs.filter (fun h => h / 2 ≠ arr)) :: q) := by
  have hall : (hs.filter (fun h => h / 2 ≠ arr)).isEmpty = decide ((hs.filter (fun h => h / 2 = arr)).length = hs.length) := by
    rw [Bool.eq_iff_iff, decide_eq_true_eq, List.isEmpty_iff, List.filter_eq_nil_iff, List.length_filter_eq_length_iff]
    simp
  rw [ArrayUnit.takeFlip]
  simp only [AEntry.halves, meets_nil, Bool.false_or, hall, decide_eq_true_eq]
  rw [if_neg (by simpa using hm)]

theorem ArrayUnit.queue_swap (a : ArrayUnit) (hs : List Nat) : (a.swap hs).queue = a.queue :=
  (congrArg ArrayUnit.queue (a.swap_frame hs) :)

section
variable {c : CoreId} {arr : Fin 4} {s : State} {mine : List Nat} {q : List AEntry}

/-- No flip's turn has come (R35, R43). -/
theorem exec_aflipTakesEffect_waits (ht : (s.core c).arr.takeFlip arr [] (s.core c).arr.queue = ([], q)) :
    exec (.aflipTakesEffect c arr) s = .next s := by
  show execAflipTakesEffect c arr s = _
  rw [execAflipTakesEffect, ht]
  rfl

/-- The halves of a flip whose turn has come swap at the row boundary (R29, R35). -/
theorem exec_aflipTakesEffect_swaps (ht : (s.core c).arr.takeFlip arr [] (s.core c).arr.queue = (mine, q))
    (hm : mine ≠ []) (hb : (s.core c).arr.halfBusy mine = false) (hp : (s.core c).run.state ≠ .parked)
    (hc : ∀ e ∈ q, e.own) :
    exec (.aflipTakesEffect c arr) s = .next (s.modArr c (fun a => { a with queue := q }.swap mine)) := by
  have hcond : (mine.isEmpty || (s.core c).arr.halfBusy mine || decide ((s.core c).run.state = .parked)) = false := by
    simp [hm, hb, hp]
  have hsettle : ({ (s.core c).arr with queue := q }.swap mine).calm := fun e he => by
    rw [ArrayUnit.queue_swap] at he
    exact hc e he
  show execAflipTakesEffect c arr s = _
  rw [execAflipTakesEffect, ht]
  simp only [hcond, Bool.false_eq_true, if_false]
  exact congrArg Host.Outcome.next (s.modArr_congr (ArrayUnit.settle_calm hsettle))

end

/-! ## The start of an `amm` (R35, R36) -/

theorem SMap.find?_foldl_erase {α : Type} (l : List Nat) (m : SMap α) (k : Nat) :
    SMap.find? (l.foldl SMap.erase m) k = if k ∈ l then none else SMap.find? m k := by
  induction l generalizing m with
  | nil => simp
  | cons x l ih => rw [List.foldl_cons, ih, SMap.find?_erase]; by_cases h : k ∈ l <;> simp [h]

@[simp] theorem Core.counted_arr (k : Core) (mis : Bool) : (k.counted mis).arr = k.arr := by
  cases mis <;> rfl

theorem State.core_misfitIf_same (s : State) (c : Nat) (mis : Bool) : (s.misfitIf c mis).core c = (s.core c).counted mis := by
  cases mis
  · rfl
  · rw [State.misfitIf_true, State.core_modRun_same]; rfl

theorem State.core_misfitIf_ne (s : State) {c d : Nat} (mis : Bool) (h : d ≠ c) : (s.misfitIf c mis).core d = s.core d :=
  (s.coresFrame_misfitIf c 0 mis).1 d h

/-- The arrays once the `amm` at a position of the queue has started (R35, R46, R76). -/
def ArrayUnit.started (a : ArrayUnit) (pos : Nat) (o : AmmOp) : ArrayUnit :=
  { a with
    queue := a.queue.eraseIdx pos
    stream := a.stream ++ [{ o with void := (a.judge o).1, mis := o.mis || (a.judge o).2 }]
    reuse := (arraysOf o.halves).foldl SMap.erase a.reuse
    fillers := (arraysOf o.halves).foldl SMap.erase a.fillers }

section
variable {c : CoreId} {pos : Nat} {s : State} {o : AmmOp} (hq : (s.core c).arr.queue[pos]? = some (.amm o))
include hq

theorem exec_ammStart_waits (hn : (s.core c).arr.canStart pos o = false) : exec (.ammStart c pos) s = .next s := by
  show execAmmStart c pos s = _
  simp only [execAmmStart, hq, hn, Bool.false_and, Bool.false_eq_true, if_false]

theorem exec_ammStart_starts (hp : (s.core c).run.state ≠ .parked) (hc : (s.core c).arr.calm)
    (hn : (s.core c).arr.canStart pos o = true) : exec (.ammStart c pos) s = .next
      ((s.modArr c (fun _ => (s.core c).arr.started pos o)).misfitIf c (((s.core c).arr.judge o).2 && !o.mis)) := by
  have hcalm : ((s.core c).arr.started pos o).calm := fun e he => hc e (List.mem_of_mem_eraseIdx he)
  show execAmmStart c pos s = _
  simp only [execAmmStart, hq, hn, Bool.true_and, decide_eq_true hp, if_true]
  exact congrArg (fun u : State => Host.Outcome.next (u.misfitIf c _)) (s.modArr_congr (ArrayUnit.settle_calm hcalm))

end

/-! ## A row that reaches the bank (R39, R41, R46) -/

/-- The arrays once the next row of the streaming `amm` at a position has reached the bank; `on` says whether filler
operations run. -/
def ArrayUnit.rowWritten (a : ArrayUnit) (pos : Nat) (o : AmmOp) (on : Bool) : ArrayUnit :=
  let b := a.writeRow o (o.halves.filter (fun h => !(a.suppressed o).contains h)) o.next
  let row := (o.rows.getD o.next []) ++ (o.scales.getD o.next [])
  let b := { b with reuse := (arraysOf o.halves).foldl (fun m x => SMap.set m x row) b.reuse }
  if o.next + 1 < o.rows.length then { b with stream := b.stream.set pos { o with next := o.next + 1 } }
  else { b with
    stream := b.stream.eraseIdx pos
    fillers := if on then (arraysOf o.halves).foldl (fun m x => SMap.set m x { density := 8 }) b.fillers else b.fillers }

theorem exec_ammRowWritten_writes {c : CoreId} {pos : Nat} {s : State} {o : AmmOp}
    (hs : (s.core c).arr.stream[pos]? = some o) (hp : (s.core c).run.state ≠ .parked)
    (hb : (s.core c).arr.abrdBefore o.seq (o.boff + o.next) = false) :
    exec (.ammRowWritten c pos) s = .next (s.modArr c (fun a => a.rowWritten pos o s.fillerOn)) := by
  show execAmmRowWritten c pos s = _
  simp only [execAmmRowWritten, hs, hb, Bool.false_eq_true, if_false]
  exact congrArg Host.Outcome.next (State.parkSave_modArr hp _)

theorem ArrayUnit.stream_rowWritten (a : ArrayUnit) (pos : Nat) (o : AmmOp) (on : Bool) :
    (a.rowWritten pos o on).stream = if o.next + 1 < o.rows.length then a.stream.set pos { o with next := o.next + 1 }
      else a.stream.eraseIdx pos := by
  have hw := congrArg ArrayUnit.stream
    (a.writeRow_frame o (o.halves.filter (fun h => !(a.suppressed o).contains h)) o.next)
  rw [ArrayUnit.rowWritten]
  split
  · exact congrArg (fun l => l.set pos { o with next := o.next + 1 }) hw
  · exact congrArg (fun l => l.eraseIdx pos) hw

theorem ArrayUnit.bank_rowWritten (a : ArrayUnit) (pos : Nat) (o : AmmOp) (on : Bool) :
    (a.rowWritten pos o on).bank =
      (a.writeRow o (o.halves.filter (fun h => !(a.suppressed o).contains h)) o.next).bank := by
  rw [ArrayUnit.rowWritten]
  split <;> rfl

theorem ArrayUnit.rowWritten_frame (a : ArrayUnit) (pos : Nat) (o : AmmOp) (on : Bool) :
    { a.rowWritten pos o on with bank := a.bank, stream := a.stream, reuse := a.reuse, fillers := a.fillers } = a := by
  have hw := a.writeRow_frame o (o.halves.filter (fun h => !(a.suppressed o).contains h)) o.next
  rw [ArrayUnit.rowWritten]
  split <;> exact congrArg (fun b : ArrayUnit =>
    { b with stream := a.stream, reuse := a.reuse, fillers := a.fillers }) hw

/-! ## The obligation -/

/-- Settles O10: the flip, the start and the row are each one change of the arrays of the core. -/
theorem arrayStream : Obligations.ArrayStream := by
  unfold Obligations.ArrayStream
  refine ⟨fun c arr s n hs q hq hp hc => ?flip, fun c pos s o hq hp hc => ?start,
    fun c pos s o f hs hf hp hb hv hi hn => ?row⟩
  case flip =>
    intro a mine hnd hm
    have ht : a.takeFlip arr [] a.queue = _ := (congrArg _ hq).trans (ArrayUnit.takeFlip_head q hm)
    refine ⟨fun hh => exec_aflipTakesEffect_waits (ht.trans (if_pos hh)), fun hb hh => ?_⟩
    have hleft : ∀ e ∈ (if mine.length = hs.length then q else .flip n (hs.filter (fun h => h / 2 ≠ arr.val)) :: q),
        e.own := by
      have hq' : ∀ e ∈ q, e.own := fun e he => hc e (hq ▸ List.mem_cons_of_mem _ he)
      split
      · exact hq'
      · exact List.forall_mem_cons.2 ⟨.inr ⟨_, _, rfl⟩, hq'⟩
    have hu := exec_aflipTakesEffect_swaps (ht.trans (if_neg (by simp [mine, hh]))) hm hb hp hleft
    obtain ⟨hin, hout⟩ := ArrayUnit.swap_latches { a with
      queue := if mine.length = hs.length then q else .flip n (hs.filter (fun h => h / 2 ≠ arr.val)) :: q } hnd
    refine ⟨_, hu, State.sameButCores_modCore s c _, s.others_modArr c _, ?_⟩
    rw [State.core_modArr_same]
    refine ⟨hin, hout, ArrayUnit.queue_swap _ _, ?_⟩
    exact congrArg (fun b : ArrayUnit => { s.core c with arr := { b with queue := a.queue } }) (ArrayUnit.swap_frame _ mine)
  case start =>
    intro a j
    refine ⟨exec_ammStart_waits hq, fun hn => ⟨_, exec_ammStart_starts hq hp hc hn,
      (State.sameButCores_modCore s c _).trans (State.sameButCores_misfitIf _ c _),
      fun d hd => (State.core_misfitIf_ne _ _ hd).trans (s.others_modArr c _ d hd), ?_⟩⟩
    rw [State.core_misfitIf_same, State.core_modArr_same, Core.counted_arr]
    refine ⟨rfl, rfl, SMap.find?_foldl_erase _ a.reuse, SMap.find?_foldl_erase _ a.fillers, rfl, ?_⟩
    cases j.2 && !o.mis <;> rfl
  case row =>
    intro a hs'
    refine ⟨_, exec_ammRowWritten_writes hs hp hb, State.sameButCores_modCore s c _, s.others_modArr c _, ?_⟩
    rw [State.core_modArr_same]
    refine ⟨?_, a.stream_rowWritten pos o _, congrArg (fun b => { s.core c with arr := b }) (a.rowWritten_frame pos o _)⟩
    have hrow := ArrayUnit.rowDone_writeRow (a := a) hf hv hi (hn.filter (fun h => !(a.suppressed o).contains h))
    rw [ArrayUnit.rowDone] at hrow ⊢
    rwa [a.bank_rowWritten pos o]

end Sys2Proof.Machine
end

section
/-! SUPPORT. The readout of the bank, latch faults and filler operations (R40, R42–R46, R92), and O11. -/

namespace Sys2Proof.Machine

/-! ## The readout of a bank row (R40, R92) -/

/-- Conversions are counted beside the cores. -/
@[simp] theorem State.noteConv_cores (s : State) (g : BitVec 6) (f : RSlot) (evs : List CEvent) :
    (s.noteConv g f evs).cores = s.cores := by
  unfold State.noteConv
  split <;> rfl

theorem State.noteConv_sameButCores {s u : State} (h : { u with cores := s.cores } = s) (g : BitVec 6) (f : RSlot)
    (evs : List CEvent) : { u.noteConv g f evs with cores := s.cores } = s.noteConv g f evs := by
  have hft : u.ft = s.ft := (congrArg State.ft h :)
  unfold State.noteConv
  split
  · exact h
  · rw [State.modRange, State.modRange, hft]
    exact congrArg (fun v : State => { v with
      ft := { s.ft with range := SMap.modify {} s.ft.range (rangeIdx g f) (fun r => r.note evs) } }) h

/-- The arrays once the `abrd` at the front of the readout path has read its row. -/
def ArrayUnit.readOut (a : ArrayUnit) (r : RdOp) (rest : List RdOp) : ArrayUnit :=
  { a with
    readout := rest
    bank := if r.clr then SMap.clear a.bank (256 * r.row) (256 * r.row + 256) else a.bank }

/-- An `abrd` with clr 1 clears its row of the bank and nothing else. -/
theorem ArrayUnit.bank_readOut (a : ArrayUnit) (r : RdOp) (rest : List RdOp) (k : Nat) :
    SMap.get 0 (a.readOut r rest).bank k = if r.clr = true ∧ k / 256 = r.row then 0 else SMap.get 0 a.bank k := by
  have hrow : (256 * r.row ≤ k ∧ k < 256 * r.row + 256) ↔ k / 256 = r.row := by omega
  rw [ArrayUnit.readOut]
  cases hc : r.clr
  · simp
  · simp [SMap.get_clear, hrow]

theorem exec_abrdStart_reads {c : CoreId} {s : State} {r : RdOp} {rest : List RdOp} {f : FFmt}
    (hr : (s.core c).arr.readout = r :: rest) (hy : (s.core c).arr.abrdReady r = true) (hf : abrdFmt r.ofmt = some f)
    (hg : s.gated c = false) (hc : (s.core c).arr.calm) {vs : List FVal}
    (hv : vs = ((s.core c).arr.bankRow r.row).map (fun x => (f32 x).scale r.e.toInt)) :
    exec (.abrdStart c) s = .next (((s.modArr c (fun a => a.readOut r rest)).modRegs c
      (fun x => x.abrdWrite f r.vd ((vs.map (convFloat f r.nfp false false)).map (fun k => k.code)))).noteConv r.group
        (rslotOf (.flt f)) (List.zipWith (fun v k => convEvent v k.cls) vs (vs.map (convFloat f r.nfp false false)))) := by
  have hcalm : ((s.core c).arr.readOut r rest).calm := hc
  subst hv
  show execAbrdStart c s = _
  simp only [execAbrdStart, hr, hy, hg, hf, Bool.not_true, Bool.or_self, Bool.false_eq_true, if_false]
  refine congrArg (fun u : State => Host.Outcome.next ((u.modRegs c _).noteConv _ _ _)) ?_
  exact s.modArr_congr (ArrayUnit.settle_calm hcalm)

/-! ## Retries (R42–R45) -/

/-- Of a row that reaches the bank, the arrays keep all but the bank. -/
theorem ArrayUnit.writeRow_eq (a : ArrayUnit) (o : AmmOp) (hs : List Nat) (i : Nat) :
    a.writeRow o hs i = { a with bank := (a.writeRow o hs i).bank } := by
  unfold ArrayUnit.writeRow
  split
  · rfl
  · split <;> rfl

/-- A retry of one row streams that row alone. -/
theorem suppressedRows_last {n k : Nat} (h : k + 1 = n) : (List.range n).filter (fun i => k ≤ i) = [k] := by
  have hlow : (List.range k).filter (fun i => k ≤ i) = [] :=
    List.filter_eq_nil_iff.2 fun i hi => by simpa using List.mem_range.1 hi
  rw [← h, List.range_succ, List.filter_append, hlow]
  simp

/-- The arrays once the retry of one row at a position has ended. -/
def ArrayUnit.retried (a : ArrayUnit) (pos : Nat) (r : Retry) (limit : Nat) : ArrayUnit :=
  (({ a with retries := a.retries.eraseIdx pos } : ArrayUnit).writeRow r.op r.halves r.fromRow).countFault limit

theorem ArrayUnit.retried_eq (a : ArrayUnit) (pos : Nat) (r : Retry) (limit : Nat) :
    a.retried pos r limit = { a with
      bank := (a.retried pos r limit).bank, retries := a.retries.eraseIdx pos, lfTotal := satAdd a.lfTotal 1
      lfInCourse := satAdd a.lfInCourse 1
      lfMarked := a.lfMarked || decide (limit ≤ (satAdd a.lfInCourse 1).toNat) } := by
  conv_lhs => rw [ArrayUnit.retried, ArrayUnit.writeRow_eq]
  rfl

section
variable {c : CoreId} {pos : Nat} {s : State} {r : Retry} (hr : (s.core c).arr.retries[pos]? = some r)
include hr

/-- A retry whose `amm` streams yet, or whose row an earlier `abrd` has still to read, goes on. -/
theorem exec_latchRetryDone_waits (hy : (s.core c).arr.retryReady r = false) :
    exec (.latchRetryDone c pos) s = .next s := by
  show execLatchRetryDone c pos s = _
  simp [execLatchRetryDone, hr, hy]

variable (hp : (s.core c).run.state ≠ .parked) (hc : (s.core c).arr.calm) (hy : (s.core c).arr.retryReady r = true)
include hp hc hy

theorem exec_latchRetryDone_safe (hs : (s.core c).retrySafe r = true) (hl : r.fromRow + 1 = r.op.rows.length) :
    exec (.latchRetryDone c pos) s = .next (s.modArr c (fun a => a.retried pos r s.start.img.latchThreshold)) := by
  have hcalm : ((s.core c).arr.retried pos r s.start.img.latchThreshold).calm := by
    rw [ArrayUnit.retried_eq]; exact hc
  show execLatchRetryDone c pos s = _
  simp only [execLatchRetryDone, hr, hy, hs, Bool.not_true, Bool.false_eq_true, if_false, if_true,
    suppressedRows_last hl, List.foldl_cons, List.foldl_nil]
  rw [State.parkSave_modArr hp]
  exact congrArg Host.Outcome.next (s.modArr_congr (ArrayUnit.settle_calm hcalm))

end

/-- The arrays once a retry whose source has changed is given up (R44). -/
def ArrayUnit.lost (a : ArrayUnit) (pos limit : Nat) : ArrayUnit :=
  ({ a with retries := a.retries.eraseIdx pos, lfLost := true, lfLostCount := satAdd a.lfLostCount 1 } : ArrayUnit).countFault
    limit

/-- Entries of one core's bank have taken free values: those at `inside`, and nothing else has changed. -/
structure State.BankFreed (s u : State) (c : Nat) (inside : Nat → Prop) : Prop where
  rest : { u with cores := s.cores, free := s.free } = s
  others : ∀ d, d ≠ c → u.core d = s.core d
  core : u.core c = { s.core c with arr := { (s.core c).arr with bank := (u.core c).arr.bank } }
  bank : ∀ k, ¬inside k → SMap.get 0 (u.core c).arr.bank k = SMap.get 0 (s.core c).arr.bank k

theorem State.BankFreed.refl (s : State) (c : Nat) (inside : Nat → Prop) : s.BankFreed s c inside :=
  ⟨rfl, fun _ _ => rfl, rfl, fun _ _ => rfl⟩

/-- One more entry takes the next free value. -/
theorem State.BankFreed.next {s u : State} {c : Nat} {inside : Nat → Prop} (h : s.BankFreed u c inside) {k : Nat}
    (hk : inside k) (v : W32) :
    s.BankFreed (u.modArr c (fun a => { a with bank := SMap.put 0 a.bank k v })).useFree c inside := by
  have hcore (d : Nat) : (u.modArr c (fun a => { a with bank := SMap.put 0 a.bank k v })).useFree.core d =
      (u.modArr c (fun a => { a with bank := SMap.put 0 a.bank k v })).core d := rfl
  refine ⟨h.rest, fun d hd => ?_, ?_, fun j hj => ?_⟩
  · rw [hcore, State.core_modArr_ne u _ hd]
    exact h.others d hd
  · rw [hcore, State.core_modArr_same, h.core]
  · rw [hcore, State.core_modArr_same, SMap.get_put_ne _ _ _ _ (fun e => hj (by rw [e]; exact hk))]
    exact h.bank j hj

/-- Only the columns of a given up retry take free values (R44). -/
theorem State.bankFreed_freeColumns (s : State) (c : Nat) {r : Retry} {f : EFmt} (hf : arrayFmt r.op.fmt = some f) :
    s.BankFreed (s.freeColumns c r) c (fun k => ∃ i h j, i < r.op.rows.length ∧ h ∈ r.halves ∧ j < halfCols f ∧
      r.op.boff + i < 256 ∧ k = 256 * (r.op.boff + i) + bankCol f h j) := by
  rw [State.freeColumns, hf]
  refine List.foldlRecOn (motive := fun u => s.BankFreed u c _) _ _ (State.BankFreed.refl s c _)
    fun u hu k hk => hu.next ?_ _
  obtain ⟨i, hi, hk⟩ := List.mem_flatMap.1 hk
  split at hk
  · exact absurd hk List.not_mem_nil
  · next hb =>
    obtain ⟨h, hh, hk⟩ := List.mem_flatMap.1 hk
    obtain ⟨j, hj, rfl⟩ := List.mem_map.1 hk
    exact ⟨i, h, j, List.mem_range.1 hi, hh, List.mem_range.1 hj, Nat.not_le.1 hb, rfl⟩

/-- The state once a retry is given up, its columns apart (R44). -/
def State.givenUp (s : State) (c pos : Nat) : State :=
  (s.modArr c (fun a => a.lost pos s.start.img.latchThreshold)).modRun c (fun x => { x with faulted := true })

theorem State.core_givenUp_same (s : State) (c pos : Nat) : (s.givenUp c pos).core c = { s.core c with
    arr := (s.core c).arr.lost pos s.start.img.latchThreshold, run := { (s.core c).run with faulted := true } } := by
  rw [State.givenUp, State.core_modRun_same, State.core_modArr_same]

theorem State.core_givenUp_ne (s : State) {c d : Nat} (pos : Nat) (h : d ≠ c) : (s.givenUp c pos).core d = s.core d :=
  (State.core_modRun_ne _ _ h).trans (s.core_modArr_ne _ h)

/-- A retry whose source tile has changed leaves free values in its columns (R44). -/
theorem exec_latchRetryDone_lost {c : CoreId} {pos : Nat} {s : State} {r : Retry} {f : EFmt}
    (hr : (s.core c).arr.retries[pos]? = some r) (hf : arrayFmt r.op.fmt = some f)
    (hp : (s.core c).run.state ≠ .parked) (hc : (s.core c).arr.calm) (hy : (s.core c).arr.retryReady r = true)
    (hs : (s.core c).retrySafe r = false) :
    exec (.latchRetryDone c pos) s = .next ((s.givenUp c pos).freeColumns c r) := by
  have hcalm : ((s.core c).arr.lost pos s.start.img.latchThreshold).calm := hc
  have hgiven : s.modArr c (fun a => (a.lost pos s.start.img.latchThreshold).settle) =
      s.modArr c (fun a => a.lost pos s.start.img.latchThreshold) := s.modArr_congr (ArrayUnit.settle_calm hcalm)
  have hpark : (((s.givenUp c pos).freeColumns c r).core c).run.state ≠ .parked := by
    rw [((s.givenUp c pos).bankFreed_freeColumns c hf).core, s.core_givenUp_same]; exact hp
  show execLatchRetryDone c pos s = _
  simp only [execLatchRetryDone, hr, hy, hs, Bool.not_true, Bool.false_eq_true, if_false]
  refine Eq.trans ?_ (congrArg Host.Outcome.next (State.parkSave_unparked hpark))
  exact congrArg (fun u : State => Host.Outcome.next (((u.modRun c _).freeColumns c r).parkSave c)) hgiven

/-! ## Filler operations (R46) -/

section
variable {c : CoreId} {arr : Fin 4} {s : State} {f : Filler} (hf : SMap.find? (s.core c).arr.fillers arr.val = some f)
include hf

theorem exec_fillerWindowExpiry : exec (.fillerWindowExpiry c arr) s = .next (s.modArr c (fun a =>
    { a with fillers := SMap.set a.fillers arr.val { f with ramp := true } })) := by
  refine congrArg Host.Outcome.next (s.modArr_congr ?_)
  simp only [hf]

theorem exec_fillerRampStep (hr : f.ramp = true) : exec (.fillerRampStep c arr) s = .next (s.modArr c (fun a =>
    { a with fillers := if f.density ≤ 1 then SMap.erase a.fillers arr.val
      else SMap.set a.fillers arr.val { f with density := f.density - 1 } })) := by
  refine congrArg Host.Outcome.next (s.modArr_congr ?_)
  simp only [hf, hr, Bool.not_true, Bool.false_eq_true, if_false]
  split <;> rfl

end

/-! ## The obligation -/

/-- Settles O11: the readout, the parity error, the end of a retry and the filler's ramp are each one change of the arrays
of the core, with the registers or the run state besides. -/
theorem bankAndLatches : Obligations.BankAndLatches := by
  unfold Obligations.BankAndLatches
  refine ⟨fun c s r rest f hr hy hf hg hc => ?readout, fun c arr half s => ?parity,
    fun c pos s r f hr hf hp hc => ?retry, fun c arr s f hf => ?filler⟩
  case readout =>
    intro a vs cs
    have hv : vs = (a.bankRow r.row).map (fun x => (f32 x).scale r.e.toInt) := by
      rw [ArrayUnit.bankRow, List.map_map]; rfl
    have hcore (u : State) (d : Nat) : (u.noteConv r.group (rslotOf (.flt f))
        (List.zipWith (fun v k => convEvent v k.cls) vs cs)).core d = u.core d :=
      State.core_congr (State.noteConv_cores u _ _ _) d
    refine ⟨_, exec_abrdStart_reads hr hy hf hg hc hv, fun d hd => ?_, ?_⟩
    · rw [hcore, State.core_modRegs_ne _ _ hd, State.core_modArr_ne _ _ hd]
    · rw [hcore, State.core_modRegs_same, State.core_modArr_same]
      exact ⟨rfl, a.bank_readOut r rest, rfl, State.noteConv_sameButCores rfl _ _ _⟩
  case parity =>
    exact ⟨_, rfl, State.sameButCores_modCore s c _, s.others_modArr c _, State.core_modArr_same s c _⟩
  case retry =>
    intro a
    refine ⟨exec_latchRetryDone_waits hr, fun hy hs hv hn hl hb => ?_, fun hy hs => ?_⟩
    · refine ⟨_, exec_latchRetryDone_safe hr hp hc hy hs hl, State.sameButCores_modCore s c _, s.others_modArr c _, ?_⟩
      rw [State.core_modArr_same]
      exact ⟨ArrayUnit.rowDone_writeRow (a := { a with retries := a.retries.eraseIdx pos }) hf hv hb hn,
        a.retried_eq pos r _, rfl⟩
    · have hfreed := (s.givenUp c pos).bankFreed_freeColumns c hf
      have hcore := hfreed.core
      have hbank := hfreed.bank
      rw [s.core_givenUp_same] at hcore hbank
      refine ⟨_, exec_latchRetryDone_lost hr hf hp hc hy hs, ?_,
        fun d hd => (hfreed.others d hd).trans (s.core_givenUp_ne pos hd), fun k hk => hbank k ?_, ?_, ?_⟩
      · exact congrArg (fun v : State => { v with cores := s.cores, free := s.free }) hfreed.rest
      · rintro ⟨i, h, j, hi, hh, hj, hb, e⟩
        exact hk i h j hi hh hj hb e
      · exact (congrArg Core.arr hcore :)
      · rw [hcore]
  case filler =>
    refine ⟨⟨_, exec_fillerWindowExpiry hf, State.sameButCores_modCore s c _, s.others_modArr c _,
      State.core_modArr_same s c _⟩, fun hr => ⟨_, exec_fillerRampStep hf hr, State.sameButCores_modCore s c _,
      s.others_modArr c _, ?_⟩⟩
    rw [State.core_modArr_same]
    refine ⟨?_, fun x hx => ?_, rfl⟩
    · split <;> simp [SMap.find?_erase, SMap.find?_set]
    · split <;> simp [SMap.find?_erase, SMap.find?_set, hx]

end Sys2Proof.Machine
end

section
/-! SUPPORT. The words of a core's instructions (R78–R101): each layout gives back the fields that were put into it, and a
word is put together again from its fields. A word is looked at as the fields side by side, whose lengths add up to 64. -/

namespace Sys2Proof

theorem ofBool_getLsbD (w : Word) (i : Nat) : BitVec.ofBool (w.getLsbD i) = w.extractLsb' i 1 := by
  ext j hj
  obtain rfl : j = 0 := by omega
  simp

/-- A bit as a field of its own. -/
theorem getElem_eq_extract (w : Word) (i : Nat) (h : i < 64) : w[i] = (w.extractLsb' i 1)[0] := by
  rw [BitVec.getElem_extractLsb', Nat.add_zero, BitVec.getLsbD_eq_getElem h]

/-! ### Layout S (R80) -/

theorem SWord.extract_toWord (x : SWord) (op : BitVec 8) (s n : Nat) : (x.toWord op).extractLsb' s n =
    (op ++ x.sd ++ x.sa ++ x.sb ++ BitVec.ofBool x.i ++ x.rsv ++ x.imm).extractLsb' s n := rfl

@[simp] theorem SWord.op_toWord (x : SWord) (op : BitVec 8) : (x.toWord op).extractLsb' 56 8 = op := by
  simp [SWord.extract_toWord, BitVec.extractLsb'_append_eq_of_le, -Nat.reduceAdd]

@[simp] theorem SWord.ofWord_toWord (x : SWord) (op : BitVec 8) : SWord.ofWord (x.toWord op) = x := by
  cases x
  simp [SWord.ofWord, getElem_eq_extract, SWord.extract_toWord, BitVec.extractLsb'_append_eq_of_le,
    BitVec.extractLsb'_append_eq_of_add_le, -Nat.reduceAdd]

theorem SWord.toWord_ofWord {w : Word} {op : BitVec 8} (h : w.extractLsb' 56 8 = op) :
    (SWord.ofWord w).toWord op = w := by
  have hw : w.extractLsb' 56 8 ++ w.extractLsb' 51 5 ++ w.extractLsb' 46 5 ++ w.extractLsb' 41 5 ++
      BitVec.ofBool (w.getLsbD 40) ++ w.extractLsb' 32 8 ++ w.extractLsb' 0 32 =
      w.extractLsb' 0 (8 + 5 + 5 + 5 + 1 + 8 + 32) := by
    simp only [ofBool_getLsbD, BitVec.extractLsb'_append_extractLsb'_eq_extractLsb', -Nat.reduceAdd]
  rw [h] at hw
  exact hw.trans BitVec.extractLsb'_eq_self

/-! ### Layout T (R85) -/

theorem TWord.extract_toWord (x : TWord) (op : BitVec 8) (s n : Nat) : (x.toWord op).extractLsb' s n =
    (op ++ x.tt ++ x.sa ++ x.sb ++ x.rsv ++ x.imm).extractLsb' s n := rfl

@[simp] theorem TWord.op_toWord (x : TWord) (op : BitVec 8) : (x.toWord op).extractLsb' 56 8 = op := by
  simp [TWord.extract_toWord, BitVec.extractLsb'_append_eq_of_le, -Nat.reduceAdd]

@[simp] theorem TWord.ofWord_toWord (x : TWord) (op : BitVec 8) : TWord.ofWord (x.toWord op) = x := by
  cases x
  simp [TWord.ofWord, TWord.extract_toWord, BitVec.extractLsb'_append_eq_of_le,
    BitVec.extractLsb'_append_eq_of_add_le, -Nat.reduceAdd]

theorem TWord.toWord_ofWord {w : Word} {op : BitVec 8} (h : w.extractLsb' 56 8 = op) :
    (TWord.ofWord w).toWord op = w := by
  have hw : w.extractLsb' 56 8 ++ w.extractLsb' 51 5 ++ w.extractLsb' 46 5 ++ w.extractLsb' 41 5 ++
      w.extractLsb' 32 9 ++ w.extractLsb' 0 32 =
      w.extractLsb' 0 (8 + 5 + 5 + 5 + 9 + 32) := by
    simp only [BitVec.extractLsb'_append_extractLsb'_eq_extractLsb', -Nat.reduceAdd]
  rw [h] at hw
  exact hw.trans BitVec.extractLsb'_eq_self

/-! ### Layout V (R93) -/

theorem VWord.extract_toWord (x : VWord) (op : BitVec 8) (s n : Nat) : (x.toWord op).extractLsb' s n =
    (op ++ x.vd ++ x.va ++ x.vb ++ x.vc ++ x.f ++ x.ext).extractLsb' s n := rfl

@[simp] theorem VWord.op_toWord (x : VWord) (op : BitVec 8) : (x.toWord op).extractLsb' 56 8 = op := by
  simp [VWord.extract_toWord, BitVec.extractLsb'_append_eq_of_le, -Nat.reduceAdd]

@[simp] theorem VWord.ofWord_toWord (x : VWord) (op : BitVec 8) : VWord.ofWord (x.toWord op) = x := by
  cases x
  simp [VWord.ofWord, VWord.extract_toWord, BitVec.extractLsb'_append_eq_of_le,
    BitVec.extractLsb'_append_eq_of_add_le, -Nat.reduceAdd]

theorem VWord.toWord_ofWord {w : Word} {op : BitVec 8} (h : w.extractLsb' 56 8 = op) :
    (VWord.ofWord w).toWord op = w := by
  have hw : w.extractLsb' 56 8 ++ w.extractLsb' 48 8 ++ w.extractLsb' 40 8 ++ w.extractLsb' 32 8 ++
      w.extractLsb' 24 8 ++ w.extractLsb' 20 4 ++ w.extractLsb' 0 20 =
      w.extractLsb' 0 (8 + 8 + 8 + 8 + 8 + 4 + 20) := by
    simp only [BitVec.extractLsb'_append_extractLsb'_eq_extractLsb', -Nat.reduceAdd]
  rw [h] at hw
  exact hw.trans BitVec.extractLsb'_eq_self

/-! ### Layout VM (R93) -/

theorem VMWord.extract_toWord (x : VMWord) (op : BitVec 8) (s n : Nat) : (x.toWord op).extractLsb' s n =
    (op ++ x.vv ++ x.sa ++ x.rsv ++ x.imm).extractLsb' s n := rfl

@[simp] theorem VMWord.op_toWord (x : VMWord) (op : BitVec 8) : (x.toWord op).extractLsb' 56 8 = op := by
  simp [VMWord.extract_toWord, BitVec.extractLsb'_append_eq_of_le, -Nat.reduceAdd]

@[simp] theorem VMWord.ofWord_toWord (x : VMWord) (op : BitVec 8) : VMWord.ofWord (x.toWord op) = x := by
  cases x
  simp [VMWord.ofWord, VMWord.extract_toWord, BitVec.extractLsb'_append_eq_of_le,
    BitVec.extractLsb'_append_eq_of_add_le, -Nat.reduceAdd]

theorem VMWord.toWord_ofWord {w : Word} {op : BitVec 8} (h : w.extractLsb' 56 8 = op) :
    (VMWord.ofWord w).toWord op = w := by
  have hw : w.extractLsb' 56 8 ++ w.extractLsb' 48 8 ++ w.extractLsb' 43 5 ++ w.extractLsb' 32 11 ++
      w.extractLsb' 0 32 =
      w.extractLsb' 0 (8 + 8 + 5 + 11 + 32) := by
    simp only [BitVec.extractLsb'_append_extractLsb'_eq_extractLsb', -Nat.reduceAdd]
  rw [h] at hw
  exact hw.trans BitVec.extractLsb'_eq_self

/-! ### Layout M (R101) -/

theorem MWord.extract_toWord (x : MWord) (op : BitVec 8) (s n : Nat) : (x.toWord op).extractLsb' s n =
    (op ++ x.sa ++ x.sb ++ x.sc ++ x.sd ++ x.atype ++ x.sfmt ++ x.e ++ BitVec.ofBool x.mc ++ BitVec.ofBool x.rsv ++ x.ct).extractLsb' s n := rfl

@[simp] theorem MWord.op_toWord (x : MWord) (op : BitVec 8) : (x.toWord op).extractLsb' 56 8 = op := by
  simp [MWord.extract_toWord, BitVec.extractLsb'_append_eq_of_le, -Nat.reduceAdd]

@[simp] theorem MWord.ofWord_toWord (x : MWord) (op : BitVec 8) : MWord.ofWord (x.toWord op) = x := by
  cases x
  simp [MWord.ofWord, getElem_eq_extract, MWord.extract_toWord, BitVec.extractLsb'_append_eq_of_le,
    BitVec.extractLsb'_append_eq_of_add_le, -Nat.reduceAdd]

theorem MWord.toWord_ofWord {w : Word} {op : BitVec 8} (h : w.extractLsb' 56 8 = op) :
    (MWord.ofWord w).toWord op = w := by
  have hw : w.extractLsb' 56 8 ++ w.extractLsb' 51 5 ++ w.extractLsb' 46 5 ++ w.extractLsb' 41 5 ++
      w.extractLsb' 36 5 ++ w.extractLsb' 32 4 ++ w.extractLsb' 28 4 ++ w.extractLsb' 20 8 ++
      BitVec.ofBool (w.getLsbD 19) ++ BitVec.ofBool (w.getLsbD 18) ++ w.extractLsb' 0 18 =
      w.extractLsb' 0 (8 + 5 + 5 + 5 + 5 + 4 + 4 + 8 + 1 + 1 + 18) := by
    simp only [ofBool_getLsbD, BitVec.extractLsb'_append_extractLsb'_eq_extractLsb', -Nat.reduceAdd]
  rw [h] at hw
  exact hw.trans BitVec.extractLsb'_eq_self

/-! ### `amm` (R88) -/

theorem AmmWord.extract_toWord (x : AmmWord) (s n : Nat) : (x.toWord).extractLsb' s n =
    (0x52#8 ++ x.ta ++ x.target ++ BitVec.ofBool x.zero ++ x.vs ++ x.boff ++ x.rbase ++ x.rsv).extractLsb' s n := rfl

@[simp] theorem AmmWord.op_toWord (x : AmmWord) : (x.toWord).extractLsb' 56 8 = 0x52#8 := by
  simp [AmmWord.extract_toWord, BitVec.extractLsb'_append_eq_of_le, -Nat.reduceAdd]

@[simp] theorem AmmWord.ofWord_toWord (x : AmmWord) : AmmWord.ofWord (x.toWord) = x := by
  cases x
  simp [AmmWord.ofWord, getElem_eq_extract, AmmWord.extract_toWord, BitVec.extractLsb'_append_eq_of_le,
    BitVec.extractLsb'_append_eq_of_add_le, -Nat.reduceAdd]

theorem AmmWord.toWord_ofWord {w : Word} (h : w.extractLsb' 56 8 = 0x52#8) :
    (AmmWord.ofWord w).toWord = w := by
  have hw : w.extractLsb' 56 8 ++ w.extractLsb' 51 5 ++ w.extractLsb' 47 4 ++ BitVec.ofBool (w.getLsbD 46) ++
      w.extractLsb' 38 8 ++ w.extractLsb' 30 8 ++ w.extractLsb' 24 6 ++ w.extractLsb' 0 24 =
      w.extractLsb' 0 (8 + 5 + 4 + 1 + 8 + 8 + 6 + 24) := by
    simp only [ofBool_getLsbD, BitVec.extractLsb'_append_extractLsb'_eq_extractLsb', -Nat.reduceAdd]
  rw [h] at hw
  exact hw.trans BitVec.extractLsb'_eq_self

/-! ### `aflip` (R88) -/

theorem AflipWord.extract_toWord (x : AflipWord) (s n : Nat) : (x.toWord).extractLsb' s n =
    (0x51#8 ++ x.halves ++ x.rsv).extractLsb' s n := rfl

@[simp] theorem AflipWord.op_toWord (x : AflipWord) : (x.toWord).extractLsb' 56 8 = 0x51#8 := by
  simp [AflipWord.extract_toWord, BitVec.extractLsb'_append_eq_of_le, -Nat.reduceAdd]

@[simp] theorem AflipWord.ofWord_toWord (x : AflipWord) : AflipWord.ofWord (x.toWord) = x := by
  cases x
  simp [AflipWord.ofWord, AflipWord.extract_toWord, BitVec.extractLsb'_append_eq_of_le,
    BitVec.extractLsb'_append_eq_of_add_le, -Nat.reduceAdd]

theorem AflipWord.toWord_ofWord {w : Word} (h : w.extractLsb' 56 8 = 0x51#8) :
    (AflipWord.ofWord w).toWord = w := by
  have hw : w.extractLsb' 56 8 ++ w.extractLsb' 48 8 ++ w.extractLsb' 0 48 =
      w.extractLsb' 0 (8 + 8 + 48) := by
    simp only [BitVec.extractLsb'_append_extractLsb'_eq_extractLsb', -Nat.reduceAdd]
  rw [h] at hw
  exact hw.trans BitVec.extractLsb'_eq_self

/-! ### `abrd` (R88) -/

theorem AbrdWord.extract_toWord (x : AbrdWord) (s n : Nat) : (x.toWord).extractLsb' s n =
    (0x53#8 ++ x.vd ++ x.row ++ x.ofmt ++ BitVec.ofBool x.clr ++ BitVec.ofBool x.nfp ++ x.e ++ x.group ++ x.rsv).extractLsb' s n := rfl

@[simp] theorem AbrdWord.op_toWord (x : AbrdWord) : (x.toWord).extractLsb' 56 8 = 0x53#8 := by
  simp [AbrdWord.extract_toWord, BitVec.extractLsb'_append_eq_of_le, -Nat.reduceAdd]

@[simp] theorem AbrdWord.ofWord_toWord (x : AbrdWord) : AbrdWord.ofWord (x.toWord) = x := by
  cases x
  simp [AbrdWord.ofWord, getElem_eq_extract, AbrdWord.extract_toWord, BitVec.extractLsb'_append_eq_of_le,
    BitVec.extractLsb'_append_eq_of_add_le, -Nat.reduceAdd]

theorem AbrdWord.toWord_ofWord {w : Word} (h : w.extractLsb' 56 8 = 0x53#8) :
    (AbrdWord.ofWord w).toWord = w := by
  have hw : w.extractLsb' 56 8 ++ w.extractLsb' 48 8 ++ w.extractLsb' 40 8 ++ w.extractLsb' 36 4 ++
      BitVec.ofBool (w.getLsbD 35) ++ BitVec.ofBool (w.getLsbD 34) ++ w.extractLsb' 26 8 ++ w.extractLsb'
      20 6 ++ w.extractLsb' 0 20 =
      w.extractLsb' 0 (8 + 8 + 8 + 4 + 1 + 1 + 8 + 6 + 20) := by
    simp only [ofBool_getLsbD, BitVec.extractLsb'_append_extractLsb'_eq_extractLsb', -Nat.reduceAdd]
  rw [h] at hw
  exact hw.trans BitVec.extractLsb'_eq_self

/-! ### `awld` (R88) -/

theorem AwldWord.extract_toWord (x : AwldWord) (s n : Nat) : (x.toWord).extractLsb' s n =
    (0x50#8 ++ x.tw ++ x.target ++ x.rsv.extractLsb' 38 1 ++ x.vs ++ x.rsv.extractLsb' 0 38).extractLsb' s n := rfl

@[simp] theorem AwldWord.op_toWord (x : AwldWord) : (x.toWord).extractLsb' 56 8 = 0x50#8 := by
  simp [AwldWord.extract_toWord, BitVec.extractLsb'_append_eq_of_le, -Nat.reduceAdd]

@[simp] theorem AwldWord.ofWord_toWord (x : AwldWord) : AwldWord.ofWord (x.toWord) = x := by
  cases x
  simp [AwldWord.ofWord, AwldWord.extract_toWord, BitVec.extractLsb'_append_eq_of_le,
    BitVec.extractLsb'_append_eq_of_add_le, -Nat.reduceAdd]

theorem AwldWord.extract_rsv_ofWord (w : Word) (s n : Nat) : (AwldWord.ofWord w).rsv.extractLsb' s n =
    (w.extractLsb' 46 1 ++ w.extractLsb' 0 38).extractLsb' s n := rfl

theorem AwldWord.toWord_ofWord {w : Word} (h : w.extractLsb' 56 8 = 0x50#8) :
    (AwldWord.ofWord w).toWord = w := by
  have hhi : (AwldWord.ofWord w).rsv.extractLsb' 38 1 = w.extractLsb' 46 1 := by
    simp [AwldWord.extract_rsv_ofWord, BitVec.extractLsb'_append_eq_of_le, -Nat.reduceAdd]
  have hlo : (AwldWord.ofWord w).rsv.extractLsb' 0 38 = w.extractLsb' 0 38 := by
    simp [AwldWord.extract_rsv_ofWord, BitVec.extractLsb'_append_eq_of_add_le, -Nat.reduceAdd]
  have hw : w.extractLsb' 56 8 ++ w.extractLsb' 51 5 ++ w.extractLsb' 47 4 ++ w.extractLsb' 46 1 ++
      w.extractLsb' 38 8 ++ w.extractLsb' 0 38 =
      w.extractLsb' 0 (8 + 5 + 4 + 1 + 8 + 38) := by
    simp only [BitVec.extractLsb'_append_extractLsb'_eq_extractLsb', -Nat.reduceAdd]
  rw [AwldWord.toWord, hhi, hlo, ← h]
  exact hw.trans BitVec.extractLsb'_eq_self

/-! ### The shape word (R78) -/

theorem Shape.extract_toWord (x : Shape) (s n : Nat) : (x.toWord).extractLsb' s n =
    (x.rsv.extractLsb' 4 44 ++ x.fmt ++ x.rsv.extractLsb' 2 2 ++ x.cols ++ x.rsv.extractLsb' 0 2 ++ x.rows).extractLsb' s n := rfl

@[simp] theorem Shape.ofWord_toWord (x : Shape) : Shape.ofWord x.toWord = x := by
  have hr : x.rsv.extractLsb' 4 44 ++ x.rsv.extractLsb' 2 2 ++ x.rsv.extractLsb' 0 2 = x.rsv.extractLsb' 0 (44 + 2 + 2) := by
    simp only [BitVec.extractLsb'_append_extractLsb'_eq_extractLsb', -Nat.reduceAdd]
  have hrsv : x.rsv.extractLsb' 4 44 ++ x.rsv.extractLsb' 2 2 ++ x.rsv.extractLsb' 0 2 = x.rsv :=
    hr.trans BitVec.extractLsb'_eq_self
  cases x
  simp [Shape.ofWord, Shape.extract_toWord, BitVec.extractLsb'_append_eq_of_le,
    BitVec.extractLsb'_append_eq_of_add_le, -Nat.reduceAdd]
  exact hrsv

theorem Shape.extract_rsv_ofWord (w : Word) (s n : Nat) : (Shape.ofWord w).rsv.extractLsb' s n =
    (w.extractLsb' 20 44 ++ w.extractLsb' 14 2 ++ w.extractLsb' 6 2).extractLsb' s n := rfl

@[simp] theorem Shape.toWord_ofWord (w : Word) :
    (Shape.ofWord w).toWord = w := by
  have hhi : (Shape.ofWord w).rsv.extractLsb' 4 44 = w.extractLsb' 20 44 := by
    simp [Shape.extract_rsv_ofWord, BitVec.extractLsb'_append_eq_of_le, -Nat.reduceAdd]
  have hmid : (Shape.ofWord w).rsv.extractLsb' 2 2 = w.extractLsb' 14 2 := by
    simp [Shape.extract_rsv_ofWord, BitVec.extractLsb'_append_eq_of_le, BitVec.extractLsb'_append_eq_of_add_le, -Nat.reduceAdd]
  have hlo : (Shape.ofWord w).rsv.extractLsb' 0 2 = w.extractLsb' 6 2 := by
    simp [Shape.extract_rsv_ofWord, BitVec.extractLsb'_append_eq_of_add_le, -Nat.reduceAdd]
  have hw : w.extractLsb' 20 44 ++ w.extractLsb' 16 4 ++ w.extractLsb' 14 2 ++ w.extractLsb' 8 6 ++
      w.extractLsb' 6 2 ++ w.extractLsb' 0 6 =
      w.extractLsb' 0 (44 + 4 + 2 + 6 + 2 + 6) := by
    simp only [BitVec.extractLsb'_append_extractLsb'_eq_extractLsb', -Nat.reduceAdd]
  rw [Shape.toWord, hhi, hmid, hlo]
  exact hw.trans BitVec.extractLsb'_eq_self

end Sys2Proof

namespace Sys2Proof.Machine

/-! ## Decoding (R79) -/

/-- The words of an instruction decode to it. -/
theorem decodeCore_encodeCore {i : Instr} {c : CoreId} {t : StrandId} (h : issuer i = some (c.val, t.val)) :
    ∃ w w2, encodeCore i = some (w, w2) ∧ decodeCore c t w w2 = i := by
  cases i
  all_goals simp only [issuer, Option.some.injEq, Prod.mk.injEq, reduceCtorEq, Fin.val_inj] at h
  all_goals
    obtain ⟨rfl, rfl⟩ := h
    exact ⟨_, _, rfl, by simp [decodeCore]⟩

/-- An opcode whose instruction has a second word (R77). -/
def twoWords (op : Nat) : Bool := op == 0x40 || op == 0x41 || op == 0x50 || op == 0x52

/-- An instruction of one word is the same whatever follows it. -/
theorem decodeCore_oneWord (c : CoreId) (t : StrandId) {w : Word} (x y : Word)
    (h : twoWords (w.extractLsb' 56 8).toNat = false) : decodeCore c t w x = decodeCore c t w y := by
  unfold decodeCore
  generalize (w.extractLsb' 56 8).toNat = n at h
  split
  pick_goal -1
  · rfl
  all_goals cases h
  all_goals rfl

/-- The opcode of a word, where its number is known. -/
theorem opcode_eq {w : Word} {n : Nat} (h : (w.extractLsb' 56 8).toNat = n) :
    w.extractLsb' 56 8 = BitVec.ofNat 8 n := by
  rw [← h, BitVec.ofNat_toNat, BitVec.setWidth_eq]

/-- A word is its opcode and the 56 bits below. -/
theorem opcode_append_rest (w : Word) : w.extractLsb' 56 8 ++ w.extractLsb' 0 56 = w := by
  have h : w.extractLsb' 56 8 ++ w.extractLsb' 0 56 = w.extractLsb' 0 (8 + 56) :=
    BitVec.extractLsb'_append_extractLsb'_eq_extractLsb' rfl
  exact h.trans BitVec.extractLsb'_eq_self

/-- The words of an instruction out of the words that it was decoded from: the second is zero where it has but one. -/
theorem encodeCore_decodeCore (c : CoreId) (t : StrandId) (w x : Word) : encodeCore (decodeCore c t w x) =
    some (w, if twoWords (w.extractLsb' 56 8).toNat then x else 0) := by
  unfold decodeCore
  split
  pick_goal -1
  · have hone : twoWords (w.extractLsb' 56 8).toNat = false := by
      generalize (w.extractLsb' 56 8).toNat = n at *
      rw [twoWords, Bool.eq_false_iff]
      intro h
      simp only [Bool.or_eq_true, beq_iff_eq] at h
      obtain ((h | h) | h) | h := h <;> contradiction
    rw [hone]
    exact congrArg (fun v : Word => some (v, 0)) (opcode_append_rest w)
  all_goals
    rename_i e
    have ho := opcode_eq e
    simp [encodeCore, twoWords, ho, SWord.toWord_ofWord, TWord.toWord_ofWord, VWord.toWord_ofWord,
      VMWord.toWord_ofWord, MWord.toWord_ofWord, AwldWord.toWord_ofWord, AflipWord.toWord_ofWord,
      AmmWord.toWord_ofWord, AbrdWord.toWord_ofWord]

/-- No bit of the words of an instruction is dropped. -/
theorem exists_encodeCore_decodeCore (c : CoreId) (t : StrandId) (w w2 : Word) : ∃ x,
    encodeCore (decodeCore c t w w2) = some (w, x) ∧ (x = w2 ∨ x = 0) ∧
    decodeCore c t w x = decodeCore c t w w2 := by
  refine ⟨_, encodeCore_decodeCore c t w w2, ?_⟩
  cases h : twoWords (w.extractLsb' 56 8).toNat
  · exact ⟨.inr rfl, decodeCore_oneWord c t 0 w2 h⟩
  · exact ⟨.inl rfl, rfl⟩

/-! ## Issue (R24, R27, R49, R359, R483) -/

theorem State.lanewise2_issue (s : State) (c : CoreId) (t : StrandId) (w : VWord) (ff fi : W32 → W32 → W32) :
    ∃ ready effect, s.lanewise2 c t w ff fi = s.issue c t ready effect := by
  unfold State.lanewise2 State.vector
  exact ⟨_, _, rfl⟩

theorem State.lanewise1_issue (s : State) (c : CoreId) (t : StrandId) (w : VWord) (f : W32 → W32) :
    ∃ ready effect, s.lanewise1 c t w f = s.issue c t ready effect := by
  unfold State.lanewise1 State.vector
  exact ⟨_, _, rfl⟩

/-- Every instruction takes its effect through the issue of its strand. -/
theorem exec_issue {i : Instr} {c t : Nat} (h : issuer i = some (c, t)) (s : State) :
    ∃ ready effect, exec i s = .next (s.issue c t ready effect) := by
  cases i
  all_goals cases h
  case vadd w | vsub w | vmul w | vmax w | vmin w =>
    obtain ⟨ready, effect, e⟩ := s.lanewise2_issue _ _ w _ _
    exact ⟨ready, effect, congrArg Host.Outcome.next e⟩
  case vexp w | vrcp w | vrsqrt w =>
    obtain ⟨ready, effect, e⟩ := s.lanewise1_issue _ _ w _
    exact ⟨ready, effect, congrArg Host.Outcome.next e⟩
  all_goals exact ⟨_, _, rfl⟩

/-- Past the end of the scratchpad a zero word runs as `nop` and counts (R483). -/
theorem State.issue_pastEnd {s : State} {c t : Nat} (ready : Bool) (effect : State → State)
    (h : s.canIssue c t = true) (hp : s.pastEnd c t = true) :
    s.issue c t ready effect = (s.advanceIp c t 8).violate .outOfCapacity := by
  simp [State.issue, h, hp]

/-- Settles O56. -/
theorem coreIssue : Obligations.CoreIssue := by
  unfold Obligations.CoreIssue
  refine ⟨fun i s c t hi => ?_, fun i c t => decodeCore_encodeCore, exists_encodeCore_decodeCore⟩
  obtain ⟨ready, effect, he⟩ := exec_issue hi s
  refine ⟨fun h => ?_, fun h hp => ?_⟩
  · rw [he, State.issue_idle s ready effect h]
  · rw [he, State.issue_pastEnd ready effect h hp]

end Sys2Proof.Machine
end


section
/-! SUPPORT. The restore of a context out of its save area (R50, R52, R170). -/

namespace Sys2Proof.Machine

/-! ## Sparse arrays out of lists -/

/-- The entries of a window of an array, moved down to its start. -/
theorem SMap.get_window {α : Type} (d : α) (m : SMap α) (a n i : Nat) :
    SMap.get d ((m.filter (fun p => within p.1 a n)).map (fun p => (p.1 - a, p.2))) i =
      if i < n then SMap.get d m (a + i) else d := by
  have hf : SMap.find? ((m.filter (fun p => within p.1 a n)).map (fun p => (p.1 - a, p.2))) i =
      if i < n then SMap.find? m (a + i) else none := by
    induction m with
    | nil => simp
    | cons x m ih =>
      obtain ⟨k, v⟩ := x
      rw [List.filter_cons]
      cases hw : within k a n with
      | true =>
        obtain ⟨hlo, hhi⟩ := within_iff.1 hw
        have hk : k - a = i ↔ k = a + i := by omega
        by_cases e : k = a + i
        · have hi : i < n := by omega
          simp [SMap.find?, e, hi]
        · simp [SMap.find?, hk, e, ih]
      | false =>
        have hout := within_eq_false_iff.1 hw
        have hk : i < n → k ≠ a + i := by omega
        rw [if_neg (by decide), ih]
        by_cases hi : i < n
        · simp [SMap.find?, hi, hk hi]
        · simp [hi]
  rw [SMap.get, hf, SMap.get]
  split <;> rfl

/-- An array that lists a value at each index below a bound. -/
theorem SMap.get_map_range {α : Type} (d : α) (f : Nat → α) (n i : Nat) :
    SMap.get d ((List.range n).map (fun i => (i, f i))) i = if i < n then f i else d := by
  have hf : ∀ l : List Nat, SMap.find? (l.map (fun i => (i, f i))) i = if i ∈ l then some (f i) else none := by
    intro l
    induction l with
    | nil => simp
    | cons j l ih =>
      by_cases e : j = i
      · simp [SMap.find?, e]
      · simp [SMap.find?, e, Ne.symm e, ih]
  rw [SMap.get, hf]
  simp only [List.mem_range]
  split <;> rfl

/-- Values put one after another, each at its own index. -/
theorem SMap.get_foldl_put {α : Type} [DecidableEq α] (d : α) (f : Nat → α) (l : List Nat) (m : SMap α) (k : Nat) :
    SMap.get d (l.foldl (fun r i => SMap.put d r i (f i)) m) k = if k ∈ l then f k else SMap.get d m k := by
  induction l generalizing m with
  | nil => simp
  | cons i l ih =>
    rw [List.foldl_cons, ih, SMap.get_put _ _ _ _ _ _ (fun _ => rfl)]
    by_cases h : k ∈ l
    · simp [h]
    · by_cases e : k = i
      · simp [e]
      · simp [h, e]

/-- Every value of an array changed by a function that keeps the unlisted value. -/
theorem SMap.get_map_val {α : Type} {d : α} {g : α → α} (hg : g d = d) (m : SMap α) (k : Nat) :
    SMap.get d (m.map (fun p => (p.1, g p.2))) k = g (SMap.get d m k) := by
  have hf : SMap.find? (m.map (fun p => (p.1, g p.2))) k = (SMap.find? m k).map g := by
    induction m with
    | nil => simp
    | cons x m ih =>
      obtain ⟨i, v⟩ := x
      by_cases e : i = k
      · simp [SMap.find?, e]
      · simp [SMap.find?, e, ih]
  rw [SMap.get, hf, SMap.get]
  cases SMap.find? m k with
  | none => exact hg.symm
  | some v => rfl

/-! ## The bytes of a save area (R50, R170) -/

/-- The region of a byte of a cluster memory, by its distance from the top. -/
theorem regionOf_clusterKey {k x : Nat} (hk : k < 72) (hx : x < 2 ^ 25) : regionOf (clusterKey k x) =
    if (2 ^ 25 - 1 - x) / 394752 < 64 ∧ 394752 ≤ saveSize + (2 ^ 25 - 1 - x) % 394752
    then 10000 + 64 * k + (2 ^ 25 - 1 - x) / 394752 else clusterRegion k := by
  have hq : clusterKey k x / 2 ^ 48 = 1 := by
    rw [clusterKey]
    omega
  have hr : clusterKey k x % 2 ^ 48 = k * 2 ^ 25 + x := by
    rw [clusterKey]
    omega
  have hlo : (k * 2 ^ 25 + x) % 2 ^ 25 = x := by omega
  have hhi : (k * 2 ^ 25 + x) / 2 ^ 25 = k := by omega
  rw [regionOf, hq]
  simp only [hr, hlo, hhi]

/-- A save area lies in the region of its context. -/
theorem regionOf_saveKey {c n off : Nat} (hc : c < 576) (hn : n < 8) (ho : off < saveSize) :
    regionOf (saveKey c n + off) = saveRegion (coreCluster c) (coreMember c) n := by
  have hk : coreCluster c < 72 := by
    simp only [coreCluster, coreX, coreY]
    omega
  have hm : coreMember c < 8 := by
    simp only [coreMember, coreX, coreY]
    omega
  rw [saveSize] at ho
  have hx : saveOff (coreMember c) n + off < 2 ^ 25 := by
    rw [saveOff]
    omega
  have hd : 2 ^ 25 - 1 - (saveOff (coreMember c) n + off) =
      394752 * (8 * n + coreMember c) + (394751 - off) := by
    rw [saveOff]
    omega
  have hlt : 394751 - off < 394752 := by omega
  have hkey : saveKey c n + off = clusterKey (coreCluster c) (saveOff (coreMember c) n + off) := Nat.add_assoc _ _ _
  rw [hkey, regionOf_clusterKey hk hx, hd, Nat.mul_add_div (by decide), Nat.mul_add_mod, Nat.div_eq_of_lt hlt,
    Nat.mod_eq_of_lt hlt, if_pos (by rw [saveSize]; omega), saveRegion]
  omega

/-- What a restore reads of a save area is what memory holds there. -/
theorem State.get_savedBytes (s : State) {c n off : Nat} (hc : c < 576) (hn : n < 8) (ho : off < saveSize) :
    SMap.get 0 (s.savedBytes c n) off = s.mem.byte (saveKey c n + off) := by
  rw [State.savedBytes]
  split
  · next h =>
    have hd : s.mem.dflt (saveKey c n + off) = 0 := by
      rw [Mem.dflt, regionOf_saveKey hc hn ho, h]
    rw [Mem.byte, hd]
    exact (SMap.get_window 0 s.mem.cells (saveKey c n) saveSize off).trans (if_pos ho)
  · exact (SMap.get_map_range 0 (fun i => s.mem.byte (saveKey c n + i)) saveSize off).trans (if_pos ho)

/-- An item of a saved state is the bytes of its place. -/
theorem State.savedRead_savedBytes (s : State) {c n off len : Nat} (hc : c < 576) (hn : n < 8)
    (ho : off + len ≤ saveSize) : savedRead (s.savedBytes c n) off len = s.mem.read (saveKey c n + off) len := by
  refine List.map_congr_left fun i hi => ?_
  have hi := List.mem_range.1 hi
  rw [s.get_savedBytes hc hn (by omega), Nat.add_assoc]

/-! ## Records out of a saved state (R50) -/

/-- The scalar registers of a strand out of a saved state are put one after another. -/
theorem strandOf_regs (m : SMap Byte) (t : Nat) : (strandOf m t).regs = ((List.range 31).map (· + 1)).foldl
    (fun r j => SMap.put 0 r j (leWord (savedRead m (256 * t + 8 * j) 8))) [] := by
  rw [List.foldl_map, strandOf]

/-- A scalar register of a strand out of a saved state. -/
theorem get_strandOf_regs (m : SMap Byte) (t : Nat) {x : Nat} (h0 : x ≠ 0) (hx : x < 32) :
    SMap.get 0 (strandOf m t).regs x = leWord (savedRead m (256 * t + 8 * x) 8) := by
  have hmem : x ∈ (List.range 31).map (· + 1) :=
    List.mem_map.2 ⟨x - 1, List.mem_range.2 (by omega), Nat.sub_add_cancel (Nat.pos_of_ne_zero h0)⟩
  rw [strandOf_regs, SMap.get_foldl_put, if_pos hmem]

/-- A fill mark out of a saved state. -/
theorem get_marksOf (m : SMap Byte) {k : Nat} (hk : k < 32) :
    SMap.get {} (marksOf m) k = Mark.ofCode (leNat (savedRead m (saveMarks + 4 * k) 4)) :=
  (SMap.get_foldl_put {} (fun j => Mark.ofCode (leNat (savedRead m (saveMarks + 4 * j) 4))) _ [] k).trans
    (if_pos (List.mem_range.2 hk))

/-- An array reads as its unlisted value where it lists nothing. -/
theorem SMap.get_of_not_listed {α : Type} (d : α) {m : SMap α} {k : Nat} (h : ∀ p ∈ m, p.1 ≠ k) :
    SMap.get d m k = d := by
  have hf : SMap.find? m k = none := by
    induction m with
    | nil => rfl
    | cons x m ih =>
      obtain ⟨hx, hm⟩ := List.forall_mem_cons.1 h
      rw [SMap.find?, if_neg hx, ih hm]
  rw [SMap.get, hf]
  rfl

/-- A bank entry out of a saved state: a restore leaves out the entries of which nothing is listed, which are zero. -/
theorem get_bankOf (m : SMap Byte) {i : Nat} (hi : i < 65536) :
    SMap.get 0 (bankOf m) i = BitVec.ofNat 32 (leNat (savedRead m (saveBank + 4 * i) 4)) := by
  rw [bankOf, SMap.get_foldl_put]
  split
  · rfl
  · next h =>
    have hz : ∀ j ∈ List.range 4, SMap.get 0 m (saveBank + 4 * i + j) = 0 := by
      intro j hj
      have hj := List.mem_range.1 hj
      refine SMap.get_of_not_listed 0 fun p hp e => h ?_
      refine List.mem_dedup.2 (List.mem_map.2 ⟨p, List.mem_filter.2 ⟨hp, within_iff.2 ?_⟩, ?_⟩) <;> omega
    have hr : savedRead m (saveBank + 4 * i) 4 = (List.range 4).map (fun _ => 0) := List.map_congr_left hz
    rw [hr]
    rfl

end Sys2Proof.Machine
end


section
/-! SUPPORT. Courses: a core's done, and the release of its strands (R49–R52, R64–R66, R404). -/

namespace Sys2Proof.Machine

/-! ## The release of a context (R52) -/

/-- The course flags of a strand as its release leaves them. -/
def Strand.released (x : Strand) : Strand := { x with atEnd := false, wait := .none }

/-- A core after a restore of context `n` (R52). -/
def State.restoredCore (s : State) (c n : Nat) : Core :=
  let m : SMap Byte := s.savedBytes c n
  { s.core c with
    strands := (List.range 4).map (fun t => (t, strandOf m t))
    regs := { (s.core c).regs with
      bytes := (m.filter (fun p => within p.1 saveRegs 131072)).map (fun p => (p.1 - saveRegs, p.2)), marks := marksOf m }
    arr := { (s.core c).arr with bank := bankOf m }
    run := { (s.core c).run with holds := true } }

theorem State.restoreCtx_eq (s : State) (c n : Nat) :
    s.restoreCtx c n = s.modCore c (fun _ => s.restoredCore c n) := rfl

/-- The state that a release starts from: the core holds the context, or has restored it (R52). -/
def State.readied (s : State) (c n : Nat) : State :=
  if (s.core c).run.holds && decide ((s.core c).run.ctx.toNat = n) then s else s.restoreCtx c n

/-- The strands of a core released. -/
def Core.released (k : Core) : Core := { k with strands := k.strands.map (fun p => (p.1, p.2.released)) }

/-- A release lets the strands of its core run and notes the context and the time. -/
theorem State.releaseCtx_eq (s : State) (c n : Nat) : s.releaseCtx c n =
    ((s.readied c n).modCore c Core.released).modRun c (fun r => { r.enter .running with
      ctx := BitVec.ofNat 3 n, holds := true, start := ((s.readied c n).modCore c Core.released).coreCycle c }) := rfl

theorem State.readied_held {s : State} {c n : Nat} (hh : (s.core c).run.holds = true)
    (hn : (s.core c).run.ctx.toNat = n) : s.readied c n = s := by
  rw [State.readied, hh, decide_eq_true hn]
  rfl

theorem State.readied_other {s : State} {c n : Nat} (h : (s.core c).run.holds = false ∨ (s.core c).run.ctx.toNat ≠ n) :
    s.readied c n = s.restoreCtx c n := by
  refine if_neg ?_
  simp only [Bool.and_eq_true, decide_eq_true_eq, not_and]
  obtain h | h := h
  · simp [h]
  · exact fun _ => h

/-- What the restore of a context leaves of the state: the other cores, and of its own core what the save area does not
hold. -/
structure State.Readied (s u : State) (c : Nat) : Prop where
  same : s.sameButCores u
  others : ∀ d, d ≠ c → u.core d = s.core d
  eng : (u.core c).eng = (s.core c).eng
  arr : { (u.core c).arr with bank := (s.core c).arr.bank } = (s.core c).arr
  run : { (u.core c).run with holds := true } = { (s.core c).run with holds := true }

theorem State.Readied.of_readied (s : State) (c n : Nat) : s.Readied (s.readied c n) c := by
  rw [State.readied]
  split
  · exact ⟨rfl, fun _ _ => rfl, rfl, rfl, rfl⟩
  · rw [State.restoreCtx_eq]
    have hc := s.core_modCore_same c (fun _ => s.restoredCore c n)
    exact ⟨rfl, fun d hd => s.core_modCore_ne _ hd, by rw [hc]; rfl, by rw [hc]; rfl, by rw [hc]; rfl⟩

/-- A core at an edge that is not parked enters a state at once. -/
theorem CoreRun.enter_of_edge {r : CoreRun} (h : r.state = .edge) (st : CoreState) :
    r.enter st = { r with state := st } :=
  if_neg (by rw [h]; decide)

theorem State.releaseCtx_sameButCores (s : State) (c n : Nat) : s.sameButCores (s.releaseCtx c n) :=
  (State.Readied.of_readied s c n).same

theorem State.core_releaseCtx_ne (s : State) {c d : Nat} (n : Nat) (h : d ≠ c) :
    (s.releaseCtx c n).core d = s.core d := by
  rw [State.releaseCtx_eq, State.core_modRun_ne _ _ h, State.core_modCore_ne _ _ h]
  exact (State.Readied.of_readied s c n).others d h

/-- The run of a core after a release. -/
theorem State.run_releaseCtx {s : State} {c : Nat} (n : Nat) (h : (s.core c).run.state = .edge) :
    ((s.releaseCtx c n).core c).run = { (s.core c).run with
      state := .running, ctx := BitVec.ofNat 3 n, holds := true, start := s.coreCycle c } := by
  obtain ⟨hsame, -, -, -, hrun⟩ := State.Readied.of_readied s c n
  rw [State.releaseCtx_eq, State.core_modRun_same]
  generalize s.readied c n = u at *
  have hclk : ((u.modCore c Core.released).coreCycle c) = s.coreCycle c := by
    have hb : (u.core c).run.clkBase = (s.core c).run.clkBase := by simpa using congrArg CoreRun.clkBase hrun
    have hp : u.pwr = s.pwr := (congrArg State.pwr hsame :)
    rw [State.coreCycle, State.core_modCore_same]
    show BitVec.ofNat 64 (u.pwr.coreClk - (u.core c).run.clkBase) = _
    rw [hb, hp]
    rfl
  have hst : (u.core c).run.state = .edge := (congrArg CoreRun.state hrun :).trans h
  rw [hclk, State.core_modCore_same]
  have hrel : (u.core c).released.run = (u.core c).run := rfl
  rw [hrel, CoreRun.enter_of_edge hst]
  exact congrArg (fun r : CoreRun => { r with state := .running, ctx := BitVec.ofNat 3 n, start := s.coreCycle c }) hrun

/-- Besides its run, a release changes nothing but the strands of a core whose context is ready. -/
theorem State.core_releaseCtx (s : State) (c n : Nat) : ∃ r,
    (s.releaseCtx c n).core c = { ((s.readied c n).core c).released with run := r } := by
  rw [State.releaseCtx_eq, State.core_modRun_same, State.core_modCore_same]
  exact ⟨_, rfl⟩

theorem State.eng_releaseCtx (s : State) (c n : Nat) :
    ((s.releaseCtx c n).core c).eng = ((s.readied c n).core c).eng := by
  obtain ⟨r, h⟩ := s.core_releaseCtx c n
  rw [h, Core.released]

theorem State.regs_releaseCtx (s : State) (c n : Nat) :
    ((s.releaseCtx c n).core c).regs = ((s.readied c n).core c).regs := by
  obtain ⟨r, h⟩ := s.core_releaseCtx c n
  rw [h, Core.released]

theorem State.arr_releaseCtx (s : State) (c n : Nat) :
    ((s.releaseCtx c n).core c).arr = ((s.readied c n).core c).arr := by
  obtain ⟨r, h⟩ := s.core_releaseCtx c n
  rw [h, Core.released]

theorem State.strand_releaseCtx (s : State) (c n t : Nat) :
    (s.releaseCtx c n).strand c t = ((s.readied c n).strand c t).released := by
  obtain ⟨r, h⟩ := s.core_releaseCtx c n
  rw [State.strand, h]
  exact SMap.get_map_val rfl _ t

/-! ## The restored context (R50, R52, R170) -/

theorem State.core_restoreCtx (s : State) (c n : Nat) : (s.restoreCtx c n).core c = s.restoredCore c n := by
  rw [State.restoreCtx_eq, State.core_modCore_same]

theorem State.strand_restoreCtx (s : State) (c n : Nat) (t : StrandId) :
    (s.restoreCtx c n).strand c t = strandOf (s.savedBytes c n) t := by
  rw [State.strand, State.core_restoreCtx]
  exact (SMap.get_map_range {} (strandOf (s.savedBytes c n)) 4 t).trans (if_pos t.isLt)

theorem State.get_restoredCore_bytes (s : State) (c n : Nat) {i : Nat} (hi : i < 131072) :
    SMap.get 0 (s.restoredCore c n).regs.bytes i = SMap.get 0 (s.savedBytes c n) (saveRegs + i) := by
  rw [State.restoredCore, SMap.get_window, if_pos hi]

/-- A word of a saved state. -/
theorem State.leWord_savedRead (s : State) {c n off : Nat} (hc : c < 576) (hn : n < 8) (ho : off + 8 ≤ saveSize) :
    leWord (savedRead (s.savedBytes c n) off 8) = s.mem.word (saveKey c n + off) := by
  rw [s.savedRead_savedBytes hc hn ho, Mem.word]

/-- A release that restores runs the context as it was saved. -/
theorem State.ctxRestored_releaseCtx {s : State} {c n : Nat} (hc : c < 576) (hn : n < 8)
    (h : (s.core c).run.holds = false ∨ (s.core c).run.ctx.toNat ≠ n) :
    s.ctxRestored (s.releaseCtx c n) c (saveKey c n) := by
  have hstrand (t : StrandId) : (s.releaseCtx c n).strand c t = (strandOf (s.savedBytes c n) t).released := by
    rw [State.strand_releaseCtx, State.readied_other h, State.strand_restoreCtx]
  have hregs : ((s.releaseCtx c n).core c).regs = (s.restoredCore c n).regs := by
    rw [State.regs_releaseCtx, State.readied_other h, State.core_restoreCtx]
  have hbank : ((s.releaseCtx c n).core c).arr.bank = bankOf (s.savedBytes c n) := by
    rw [State.arr_releaseCtx, State.readied_other h, State.core_restoreCtx, State.restoredCore]
  refine ⟨fun t => ⟨?_, ?_, ?_, fun x hx => ?_⟩, fun i hi => ?_, fun k hk => ?_, fun i hi => ?_⟩
  · rw [hstrand, Strand.released, strandOf, s.leWord_savedRead hc hn (by rw [saveSize, saveIps]; omega), saveIps,
      Nat.add_assoc]
  · rw [hstrand, Strand.released]
  · rw [hstrand, Strand.released]
  · have h0 : x.toNat ≠ 0 := fun e => hx (BitVec.eq_of_toNat_eq e)
    rw [State.sreg, if_neg hx, hstrand, Strand.released, get_strandOf_regs _ _ h0 x.isLt,
      s.leWord_savedRead hc hn (by rw [saveSize]; omega), Nat.add_assoc]
  · rw [hregs, s.get_restoredCore_bytes c n hi, s.get_savedBytes hc hn (by rw [saveSize, saveRegs]; omega), saveRegs,
      Nat.add_assoc]
  · rw [hregs, RegFile.mark, State.restoredCore, get_marksOf _ hk,
      s.savedRead_savedBytes hc hn (by rw [saveSize, saveMarks]; omega), saveMarks, Nat.add_assoc]
  · rw [hbank, get_bankOf _ hi, s.savedRead_savedBytes hc hn (by rw [saveSize, saveBank]; omega), saveBank,
      Nat.add_assoc]

end Sys2Proof.Machine
end


section
/-! SUPPORT. Courses: a core's done with its reports and its fault hold, and the core's course at an opening
(R44, R49–R52, R64–R66, R354, R404). -/

namespace Sys2Proof.Machine

/-! ## A fault hold (R359) -/

@[simp] theorem State.cores_msixBoth (s : State) (v : Nat) : (s.msixBoth v).cores = s.cores := by
  unfold State.msixBoth State.msix
  split_ifs <;> rfl

@[simp] theorem State.job_msixBoth (s : State) (v : Nat) : (s.msixBoth v).job = s.job := by
  unfold State.msixBoth State.msix
  split_ifs <;> rfl

@[simp] theorem State.chain_msixBoth (s : State) (v : Nat) : (s.msixBoth v).chain = s.chain := by
  unfold State.msixBoth State.msix
  split_ifs <;> rfl

/-- A fault hold leaves every core as it is. -/
theorem State.cores_hold (s : State) (h : Hold) (unit : Nat) : (s.hold h unit).cores = s.cores := by
  unfold State.hold State.setMod
  dsimp only
  split_ifs <;> simp

/-- A fault hold of a module that runs. -/
theorem State.hold_of_running {s : State} (h : Hold) (unit : Nat) (hs : s.job.st = .running) :
    (s.hold h unit).job.st = .held ∧ (s.hold h unit).job.holds = s.job.holds ++ [h.code] ∧
    (s.hold h unit).chain.ready = false := by
  simp [State.hold, State.setMod, hs]

/-! ## A course done (R51, R64–R66) -/

/-- The busy time of a core's course, which stops at the width of its field (R65). -/
def State.courseBusy (s : State) (c : Nat) : W32 := satAdd 0 ((s.coreCycle c).toNat - (s.core c).run.start.toNat)

/-- A count that starts from zero. -/
theorem toNat_satAdd_zero {n : Nat} (k : Nat) : (satAdd (0 : BitVec n) k).toNat = min k (2 ^ n - 1) := by
  have hpos : 0 < 2 ^ n := Nat.two_pow_pos n
  have h0 : (0 : BitVec n).toNat = 0 := BitVec.toNat_zero
  rw [satAdd, h0, Nat.zero_add]
  split
  · next h => rw [BitVec.toNat_ofNat, Nat.mod_eq_of_lt h, Nat.min_eq_left (by omega)]
  · next h => rw [BitVec.toNat_allOnes, Nat.min_eq_right (by omega)]

/-- The course log entry of a core that is done (R65). -/
def State.doneEntry (s : State) (c : Nat) : CourseEntry :=
  { start := (s.core c).run.start, course := s.job.course.setWidth 24, ctx := (s.core c).run.ctx,
    overrun := decide (s.chain.te < s.chain.time), idle := false, busy := s.courseBusy c }

/-- What a core that is done reports (R51, R44, R64–R66). -/
def State.doneRun (s : State) (c : Nat) : CoreRun :=
  let r := (s.core c).run
  { r with
    state := if r.faulted then .doneFault else .done
    head := r.head + 1
    clog := SMap.set r.clog ((r.head.toNat + 1) % 16) (s.doneEntry c)
    ctxTime := SMap.modify 0 r.ctxTime r.ctx.toNat (fun v => v + (s.courseBusy c).setWidth 64)
    ctxCourses := SMap.modify 0 r.ctxCourses r.ctx.toNat (fun v => v + 1) }

/-- The state in which a core has reported its course done, before any fault hold. -/
def State.courseDone (s : State) (c : Nat) : State :=
  let n := (s.core c).run.ctx.toNat
  (s.logCourse c (s.doneEntry c)).modRun c (fun r => { r with
    state := if r.faulted then .doneFault else .done
    ctxTime := SMap.modify 0 r.ctxTime n (fun v => v + (s.courseBusy c).setWidth 64)
    ctxCourses := SMap.modify 0 r.ctxCourses n (fun v => v + 1) })

theorem State.core_courseDone (s : State) (c : Nat) :
    (s.courseDone c).core c = { s.core c with run := s.doneRun c } := by
  rw [State.courseDone, State.core_modRun_same, State.logCourse, State.core_modRun_same]
  rfl

theorem State.core_courseDone_ne (s : State) {c d : Nat} (h : d ≠ c) : (s.courseDone c).core d = s.core d := by
  rw [State.courseDone, State.core_modRun_ne _ _ h, State.logCourse, State.core_modRun_ne _ _ h]

/-- The time of a context grows by the busy time, which stops at the width of its field (R65, R66). -/
theorem State.get_doneRun_ctxTime (s : State) (c : Nat) :
    SMap.get 0 (s.doneRun c).ctxTime (s.core c).run.ctx.toNat =
      SMap.get 0 (s.core c).run.ctxTime (s.core c).run.ctx.toNat +
        BitVec.ofNat 64 (min ((s.coreCycle c).toNat - (s.core c).run.start.toNat) (2 ^ 32 - 1)) := by
  have hw : (s.courseBusy c).setWidth 64 = BitVec.ofNat 64 (s.courseBusy c).toNat :=
    (BitVec.ofNat_toNat _ _).symm
  rw [State.doneRun, SMap.get_modify_same, hw, State.courseBusy, toNat_satAdd_zero]

theorem State.get_doneRun_ctxCourses (s : State) (c : Nat) :
    SMap.get 0 (s.doneRun c).ctxCourses (s.core c).run.ctx.toNat =
      SMap.get 0 (s.core c).run.ctxCourses (s.core c).run.ctx.toNat + 1 := by
  rw [State.doneRun, SMap.get_modify_same]

/-- The state after a core's done: a course that lost a latch fault raises a fault hold (R44, R354). -/
def State.afterDone (s : State) (c : Nat) : State :=
  if (s.core c).run.faulted then (s.courseDone c).hold .latchLost c else s.courseDone c

theorem exec_coreDone {s : State} {c : CoreId} (h : s.workDone c = true) :
    exec (.coreDone c) s = .next (s.afterDone c) := by
  show execCoreDone c s = _
  rw [execCoreDone, h]
  rfl

/-- The fault hold leaves the cores as their reports have left them. -/
theorem State.core_afterDone (s : State) (c d : Nat) : (s.afterDone c).core d = (s.courseDone c).core d := by
  rw [State.afterDone]
  split
  · exact State.core_congr (State.cores_hold _ _ _) d
  · rfl

/-! ## An opening with no context (R49, R404) -/

/-- The course log entry of a core without a context. -/
def State.idleEntry (s : State) (c : Nat) : CourseEntry :=
  { start := s.coreCycle c, course := s.job.course.setWidth 24, ctx := (s.core c).run.ctx, idle := true }

/-- What a core without a context reports at the opening of a course. -/
def State.idleRun (s : State) (c : Nat) : CoreRun :=
  let r := (s.core c).run
  { r with
    state := .idle, head := r.head + 1, clog := SMap.set r.clog ((r.head.toNat + 1) % 16) (s.idleEntry c)
    start := s.coreCycle c }

theorem State.idleCourse_sameButCores (s : State) (c : Nat) : s.sameButCores (s.idleCourse c) := rfl

theorem State.core_idleCourse {s : State} {c : Nat} (h : (s.core c).run.state = .edge) :
    (s.idleCourse c).core c = { s.core c with run := s.idleRun c } := by
  rw [State.idleCourse, State.core_modRun_same, State.logCourse, State.core_modRun_same,
    CoreRun.enter_of_edge (by exact h)]
  rfl

theorem State.core_idleCourse_ne (s : State) {c d : Nat} (h : d ≠ c) : (s.idleCourse c).core d = s.core d := by
  rw [State.idleCourse, State.core_modRun_ne _ _ h, State.logCourse, State.core_modRun_ne _ _ h]

/-- The run `v` is the run `r` of a core that has no context in `course`, but for what the misfit counters hold. -/
def CoreRun.Idled (course : Word) (r v : CoreRun) : Prop :=
  v.state = .idle ∧ v.head = r.head + 1 ∧
  (∃ e : CourseEntry, SMap.find? v.clog ((r.head.toNat + 1) % 16) = some e ∧ e.idle = true ∧
    e.course = course.setWidth 24) ∧
  { v with state := r.state, head := r.head, clog := r.clog, start := r.start, misfit := r.misfit,
           misfitCourse := r.misfitCourse } = r

theorem State.idled_idleRun (s : State) (c : Nat) : ((s.core c).run).Idled s.job.course (s.idleRun c) :=
  ⟨rfl, rfl, ⟨_, (SMap.find?_set _ _ _ _).trans (if_pos rfl), rfl, rfl⟩, rfl⟩

theorem State.core_misfit_same (s : State) (c : Nat) : (s.misfit c).core c = { s.core c with
    run := { (s.core c).run with
      misfit := satAdd (s.core c).run.misfit 1, misfitCourse := satAdd (s.core c).run.misfitCourse 1 } } :=
  s.core_modRun_same c _

/-- A core counts a misfit before it idles. -/
theorem State.idled_misfit (s : State) (c : Nat) :
    ((s.core c).run).Idled s.job.course ((s.misfit c).idleRun c) := by
  rw [State.idleRun, s.core_misfit_same]
  exact ⟨rfl, rfl, ⟨_, (SMap.find?_set _ _ _ _).trans (if_pos rfl), rfl, rfl⟩, rfl⟩

/-! ## The opening of a course (R49, R52, R404) -/

/-- What a core does at the opening of a course with the code `n` that the schedule holds for it. -/
def State.opened (s : State) (c n : Nat) : State :=
  if n = 0xF then s.idleCourse c
  else if 8 ≤ n then (s.violate .reservedSet).idleCourse c
  else if (s.core c).run.loaded.getLsbD n then s.releaseCtx c n
  else (s.misfit c).idleCourse c

theorem exec_strandsReleased {s : State} {c : CoreId} {p : RunPlan} (hp : s.job.activeRun = some p)
    (ho : s.job.isOpen = true) (he : (s.core c).run.state = .edge) (hk : ∀ k ∈ s.job.started, k.opcode ≠ 1) :
    exec (.strandsReleased c) s = .next (s.opened c (s.scheduled p c)) := by
  have hnow : (s.core c).run.now = .edge := by
    rw [CoreRun.now, if_neg (by rw [he]; decide), he]
  have hrun : s.job.started.any (fun k => k.opcode == 1) = false := by
    simpa using hk
  show execStrandsReleased c s = _
  rw [execStrandsReleased, hp, ho, hnow, hrun]
  rfl

/-- The opening changes no other core. -/
theorem State.core_opened_ne (s : State) {c d : Nat} (n : Nat) (h : d ≠ c) : (s.opened c n).core d = s.core d := by
  rw [State.opened]
  split_ifs
  · exact s.core_idleCourse_ne h
  · exact State.core_idleCourse_ne _ h
  · exact s.core_releaseCtx_ne n h
  · exact (State.core_idleCourse_ne _ h).trans (s.core_modRun_ne _ h)

/-- Settles O22: `doneRun` says what a core that is done reports, and `opened` what it does at the opening of a course;
a restore gives it the saved bytes of its area. -/
theorem courses : Obligations.Courses := by
  unfold Obligations.Courses
  refine ⟨fun c s hw => ?_, fun c s p hp ho he hk => ?_⟩
  · intro r start now busy n
    refine ⟨_, exec_coreDone hw, fun d hd => (s.core_afterDone c d).trans (s.core_courseDone_ne hd), ?_⟩
    rw [s.core_afterDone c c, s.core_courseDone]
    refine ⟨rfl, rfl, ⟨s.doneEntry c, (SMap.find?_set _ _ _ _).trans (if_pos rfl), rfl, rfl, rfl, rfl, rfl,
      toNat_satAdd_zero _⟩, s.get_doneRun_ctxTime c, s.get_doneRun_ctxCourses c, rfl,
      fun h => ⟨if_neg (ne_true_of_eq_false h), ?_⟩, fun h hst => ⟨if_pos h, ?_⟩⟩
    · rw [State.afterDone, if_neg (ne_true_of_eq_false h)]
      rfl
    · rw [State.afterDone, if_pos h]
      exact State.hold_of_running .latchLost c hst
  · intro n r area idled same
    have he' : ((s.misfit c).core c).run.state = .edge := by
      rw [s.core_misfit_same]
      exact he
    refine ⟨s.opened c n, exec_strandsReleased hp ho he hk, fun d hd => s.core_opened_ne n hd, fun hn hl => ?_,
      fun hn => ?_, fun h8 h15 => ?_, fun hn hl => ?_⟩
    · have hu : s.opened c n = s.releaseCtx c n := by
        rw [State.opened, if_neg (by omega), if_neg (by omega), if_pos hl]
      have hready := State.Readied.of_readied s c n
      rw [hu, s.eng_releaseCtx, s.arr_releaseCtx]
      refine ⟨s.releaseCtx_sameButCores c n, hready.eng, hready.arr, State.run_releaseCtx n he, fun hh hctx => ?_,
        fun hno => ⟨State.ctxRestored_releaseCtx c.isLt hn hno, ?_⟩⟩
      · rw [s.regs_releaseCtx, State.readied_held hh hctx]
        refine ⟨rfl, rfl, fun t => ?_⟩
        rw [s.strand_releaseCtx, State.readied_held hh hctx, Strand.released]
      · rw [s.regs_releaseCtx, State.readied_other hno, State.core_restoreCtx, State.restoredCore]
    · have hu : s.opened c n = s.idleCourse c := if_pos hn
      rw [hu, State.core_idleCourse he]
      exact ⟨rfl, rfl, s.idled_idleRun c, rfl, rfl⟩
    · have hu : s.opened c n = (s.violate .reservedSet).idleCourse c := by
        rw [State.opened, if_neg (by omega), if_pos h8]
      rw [hu, State.core_idleCourse (s := s.violate .reservedSet) he]
      exact ⟨rfl, rfl, State.idled_idleRun (s.violate .reservedSet) c, rfl, rfl⟩
    · have hu : s.opened c n = (s.misfit c).idleCourse c := by
        rw [State.opened, if_neg (by omega), if_neg (by omega), if_neg (ne_true_of_eq_false hl)]
      rw [hu, State.core_idleCourse he', s.core_misfit_same]
      refine ⟨rfl, rfl, s.idled_misfit c, ?_⟩
      rw [State.idleRun, s.core_misfit_same]
      exact ⟨rfl, rfl⟩

end Sys2Proof.Machine
end

section
/-! SUPPORT. Arithmetic of words in the terms of R81, the scratchpad by offset, what an instruction that retires leaves, and
the scalar and control instructions (O1, O2, O3, O55). -/

namespace Sys2Proof.Machine

/-! ## Words as numbers (R81) -/

theorem ofInt_sub (a b : Word) : BitVec.ofInt 64 (a.toInt - b.toInt) = a - b := by
  rw [Int.sub_eq_add_neg, BitVec.ofInt_add, BitVec.ofInt_neg, BitVec.ofInt_toInt, BitVec.ofInt_toInt,
    BitVec.sub_eq_add_neg]

theorem divWord_eq (a b : Word) : divWord a b =
    if b = 0 then BitVec.allOnes 64 else BitVec.ofInt 64 (a.toInt.tdiv b.toInt) := by
  have h : a.sdiv b = BitVec.ofInt 64 (a.toInt.tdiv b.toInt) :=
    BitVec.eq_of_toInt_eq (by rw [BitVec.toInt_ofInt, BitVec.toInt_sdiv])
  rw [divWord, h]

theorem divuWord_eq (a b : Word) : divuWord a b =
    if b = 0 then BitVec.allOnes 64 else BitVec.ofNat 64 (a.toNat / b.toNat) := by
  rw [divuWord, ← BitVec.toNat_udiv, BitVec.ofNat_toNat, BitVec.setWidth_eq]

theorem shiftLeft_eq_ofNat (a : Word) (n : Nat) : a <<< n = BitVec.ofNat 64 (a.toNat * 2 ^ n) :=
  BitVec.eq_of_toNat_eq (by rw [BitVec.toNat_ofNat, BitVec.toNat_shiftLeft, Nat.shiftLeft_eq])

theorem ushiftRight_eq_ofNat (a : Word) (n : Nat) : a >>> n = BitVec.ofNat 64 (a.toNat / 2 ^ n) := by
  rw [← Nat.shiftRight_eq_div_pow, ← BitVec.toNat_ushiftRight, BitVec.ofNat_toNat, BitVec.setWidth_eq]

/-- A shift with the sign divides and rounds down. -/
theorem sshiftRight_eq_ofInt (a : Word) (n : Nat) : a.sshiftRight n = BitVec.ofInt 64 (a.toInt / 2 ^ n) := by
  rw [BitVec.sshiftRight_eq, Int.shiftRight_eq_div_pow, Int.natCast_pow]
  rfl

theorem signedMin_eq_ofInt {n : Nat} (a b : BitVec n) :
    (if b.slt a then b else a) = BitVec.ofInt n (min a.toInt b.toInt) := by
  simp only [BitVec.slt_iff_toInt_lt]
  split
  · rw [min_eq_right (by omega), BitVec.ofInt_toInt]
  · rw [min_eq_left (by omega), BitVec.ofInt_toInt]

theorem signedMax_eq_ofInt {n : Nat} (a b : BitVec n) :
    (if a.slt b then b else a) = BitVec.ofInt n (max a.toInt b.toInt) := by
  simp only [BitVec.slt_iff_toInt_lt]
  split
  · rw [max_eq_right (by omega), BitVec.ofInt_toInt]
  · rw [max_eq_left (by omega), BitVec.ofInt_toInt]

/-- The two halves of a `lui`. -/
theorem luiWord_eq (a : Word) (imm : BitVec 32) : (imm.setWidth 64 <<< 32) ||| (a &&& 0xFFFFFFFF) =
    BitVec.ofNat 64 (2 ^ 32 * imm.toNat + a.toNat % 2 ^ 32) := by
  have hhi : (imm.setWidth 64 <<< 32).toNat = imm.toNat <<< 32 := by
    rw [BitVec.toNat_shiftLeft, BitVec.toNat_setWidth, Nat.shiftLeft_eq]; omega
  have hlo : (a &&& 0xFFFFFFFF).toNat = a.toNat % 2 ^ 32 := by
    rw [BitVec.toNat_and]; exact Nat.and_two_pow_sub_one_eq_mod a.toNat 32
  apply BitVec.eq_of_toNat_eq
  rw [BitVec.toNat_or, hhi, hlo, ← Nat.shiftLeft_add_eq_or_of_lt (Nat.mod_lt _ (by decide)), Nat.shiftLeft_eq,
    BitVec.toNat_ofNat]
  omega

/-- An address plus a sign-extended offset, as R82 states it. -/
theorem add_immWord (a : Word) (k : Int) (imm : BitVec 32) :
    BitVec.ofInt 64 (a.toInt + k * imm.toInt) = a + BitVec.ofInt 64 k * immWord imm := by
  rw [BitVec.ofInt_add, BitVec.ofInt_toInt, BitVec.ofInt_mul]
  rfl

/-- A word with its `k` low bits cleared. -/
theorem toNat_clearLow (a : Word) {k : Nat} (hk : k ≤ 64) :
    (a &&& BitVec.ofNat 64 (2 ^ 64 - 2 ^ k)).toNat = 2 ^ k * (a.toNat / 2 ^ k) := by
  have hm : 2 ^ 64 - 2 ^ k = (2 ^ (64 - k) - 1) <<< k := by
    rw [Nat.shiftLeft_eq, Nat.sub_mul, ← Nat.pow_add, Nat.sub_add_cancel hk, Nat.one_mul]
  have hd : 2 ^ k * (a.toNat / 2 ^ k) = (a.toNat >>> k) <<< k := by
    rw [Nat.shiftLeft_eq, Nat.shiftRight_eq_div_pow, Nat.mul_comm]
  have htop (i : Nat) (h : 64 ≤ i) : a.toNat.testBit i = false :=
    Nat.testBit_lt_two_pow (a.isLt.trans_le (Nat.pow_le_pow_right (by decide) h))
  rw [hm, hd, BitVec.toNat_and, BitVec.toNat_ofNat]
  refine Nat.eq_of_testBit_eq fun i => ?_
  simp only [Nat.testBit_and, Nat.testBit_mod_two_pow, Nat.testBit_shiftLeft, Nat.testBit_shiftRight,
    Nat.testBit_two_pow_sub_one]
  by_cases hi : k ≤ i
  · rw [Nat.add_sub_cancel' hi]
    by_cases h64 : i < 64
    · simp [hi, h64]; omega
    · simp [htop i (by omega)]
  · simp [hi]

theorem toNat_align8 (a : Word) : (align8 a).toNat = 8 * (a.toNat / 8) := toNat_clearLow a (k := 3) (by decide)

@[simp] theorem leWord_wordBytes (w : Word) : leWord (wordBytes w) = w := by
  rw [leWord, leNat_wordBytes, BitVec.ofNat_toNat, BitVec.setWidth_eq]

/-! ## The scratchpad by offset (R483) -/

theorem spadKey_add (c off i : Nat) : spadKey c (off + i) = spadKey c off + i := by
  simp only [spadKey, Nat.add_assoc]

@[simp] theorem State.length_spadRead (s : State) (c : Nat) (off : Word) (n : Nat) :
    (s.spadRead c off n).length = n := by
  simp [State.spadRead]

theorem State.getD_spadRead (s : State) (c : Nat) (off : Word) {n b : Nat} (h : b < n) :
    (s.spadRead c off n).getD b 0 = if off.toNat + b < 2 ^ 21 then s.mem.byte (spadKey c (off.toNat + b)) else 0 := by
  rw [List.getD_eq_getElem _ _ (by simpa using h)]
  simp [State.spadRead]

/-- An aligned word lies in the scratchpad whole or not at all. -/
theorem State.leWord_spadRead (s : State) (c : Nat) {off : Word} (h : off.toNat % 8 = 0) :
    leWord (s.spadRead c off 8) = if off.toNat < 2 ^ 21 then s.mem.word (spadKey c off.toNat) else 0 := by
  split
  · next hin =>
    refine congrArg leWord (List.map_congr_left fun i hi => ?_)
    rw [List.mem_range] at hi
    rw [if_pos (by omega), spadKey_add]
  · next hout =>
    have hz : s.spadRead c off 8 = List.replicate 8 0 :=
      List.eq_replicate_iff.2 ⟨s.length_spadRead c off 8, fun b hb => by
      obtain ⟨i, -, rfl⟩ := List.mem_map.1 hb
      exact if_neg (by omega)⟩
    rw [hz]
    rfl

/-- What is written at an offset, and where. -/
theorem mem_spadBytes {c : Nat} {off : Word} {bs : List Byte} {p : Nat × Byte} : p ∈ spadBytes c off bs ↔
    ∃ b, b < bs.length ∧ off.toNat + b < 2 ^ 21 ∧ p = (spadKey c (off.toNat + b), bs.getD b 0) := by
  rw [spadBytes, List.mem_filterMap]
  constructor
  · rintro ⟨⟨i, x⟩, hm, hp⟩
    obtain ⟨hi, hx⟩ : i < bs.length ∧ bs[i]? = some x := by
      obtain ⟨j, hj⟩ := List.mem_iff_getElem?.1 hm
      rw [List.getElem?_zip_eq_some] at hj
      obtain ⟨hr, hb⟩ := hj
      obtain ⟨hlt, hij⟩ := List.getElem?_eq_some_iff.1 hr
      rw [List.getElem_range] at hij
      subst hij
      exact ⟨by simpa using hlt, hb⟩
    split at hp
    · next hin => exact ⟨i, hi, hin, by rw [List.getD_eq_getElem?_getD, hx]; exact (Option.some.inj hp).symm⟩
    · cases hp
  · rintro ⟨b, hb, hin, rfl⟩
    refine ⟨(b, bs.getD b 0), List.mem_iff_getElem?.2 ⟨b, ?_⟩, if_pos hin⟩
    rw [List.getElem?_zip_eq_some]
    simp [hb]

/-- The keys written are those of different offsets. -/
theorem nodup_spadBytes (c : Nat) (off : Word) (bs : List Byte) : ((spadBytes c off bs).map Prod.fst).Nodup := by
  have hz : ((List.range bs.length).zip bs).Pairwise (fun p q => p.1 ≠ q.1) :=
    List.pairwise_map.1 (by rw [List.map_fst_zip (by simp)]; exact List.nodup_range)
  refine List.pairwise_map.2 (List.pairwise_filterMap.2 (hz.imp fun {p q} hne x hx y hy => ?_))
  obtain ⟨-, hx⟩ := Option.ite_none_right_eq_some.1 hx
  obtain ⟨-, hy⟩ := Option.ite_none_right_eq_some.1 hy
  rw [← Option.some.inj hx, ← Option.some.inj hy, spadKey_add, spadKey_add]
  omega

/-- A byte that listed writes name once is the byte written. -/
theorem Mem.byte_writeList_mem (m : Mem) {l : List (Nat × Byte)} (hl : (l.map Prod.fst).Nodup) {p : Nat × Byte}
    (hp : p ∈ l) : (m.writeList l).byte p.1 = p.2 := by
  induction l generalizing m with
  | nil => cases hp
  | cons q l ih =>
    rw [List.map_cons, List.nodup_cons] at hl
    show ((m.put q.1 q.2).writeList l).byte p.1 = p.2
    rcases List.mem_cons.1 hp with rfl | hp
    · rw [Mem.byte_writeList_out _ _ (fun r hr he => hl.1 (List.mem_map.2 ⟨r, hr, he⟩)), Mem.byte_put_same]
    · exact ih _ hl.2 hp

theorem Mem.byte_spadBytes (m : Mem) (c : Nat) {off : Word} {bs : List Byte} {b : Nat} (hb : b < bs.length)
    (h : off.toNat + b < 2 ^ 21) : (m.writeList (spadBytes c off bs)).byte (spadKey c (off.toNat + b)) = bs.getD b 0 :=
  m.byte_writeList_mem (nodup_spadBytes c off bs) (mem_spadBytes.2 ⟨b, hb, h, rfl⟩)

theorem Mem.byte_spadBytes_out (m : Mem) (c : Nat) {off : Word} {bs : List Byte} {k : Nat}
    (h : ∀ b, b < bs.length → off.toNat + b < 2 ^ 21 → k ≠ spadKey c (off.toNat + b)) :
    (m.writeList (spadBytes c off bs)).byte k = m.byte k := by
  refine m.byte_writeList_out _ fun p hp he => ?_
  obtain ⟨b, hb, hin, rfl⟩ := mem_spadBytes.1 hp
  exact h b hb hin he.symm

theorem spadPast_eq (off : Word) {n : Nat} (h : 0 < n) : spadPast off n = decide (2 ^ 21 < off.toNat + n) := by
  rw [spadPast, decide_eq_true h, Bool.true_and]

/-! ## Instructions that retire (R77, R110) -/

/-- A change of the register file by an instruction that retires, and the frame of the rest. -/
theorem State.retire_modRegs (s : State) (c t : Nat) (f : RegFile → RegFile) (n : Word) (mis : Bool) :
    s.movedOn ((s.modRegs c f).retire c t n mis) c t n ∧
    s.coresFrame ((s.modRegs c f).retire c t n mis) c t mis (s.regsBack c) ∧
    s.sameButCores ((s.modRegs c f).retire c t n mis) := by
  obtain ⟨hip, -, hsame⟩ := State.retire_done (s.modRegs c f) c t n mis
  have hframe : s.coresFrame (s.modRegs c f) c t false (s.regsBack c) :=
    ⟨fun d hd => State.core_modRegs_ne s f hd, fun x _ => State.strand_modRegs s c c x f, by
      rw [State.core_modRegs_same]; rfl⟩
  refine ⟨?_, hframe.retire (fun _ _ _ => rfl) n mis, (State.sameButCores_modCore s c _).trans hsame⟩
  rw [State.movedOn, hip, State.strand_modRegs]

/-- A count of an access past the scratchpad touches nothing that retiring does. -/
theorem State.retire_outOfCapIf (s : State) (c t : Nat) (n : Word) (past mis : Bool) :
    (s.outOfCapIf past).retire c t n mis = (s.retire c t n mis).outOfCapIf past := by
  cases past <;> cases mis <;> rfl

@[simp] theorem State.cores_outOfCapIf (s : State) (past : Bool) : (s.outOfCapIf past).cores = s.cores := by
  cases past <;> rfl

theorem State.sameButCores.outOfCapIf {s u : State} (h : s.sameButCores u) (past : Bool) :
    s.sameButPast (u.outOfCapIf past) past := by
  have h' : (u.outOfCapIf past).mem = u.mem := by cases past <;> rfl
  unfold State.sameButPast
  rw [← (h : { u with cores := s.cores } = s)]
  cases past <;> rfl

/-- Of the state a store changes the memory and the network. -/
theorem State.storeList_eq (s : State) (l : List (Nat × Byte)) :
    s.storeList l = { s with mem := s.mem.writeList l, net := (s.storeList l).net } := by
  unfold State.storeList State.checkWaits
  dsimp only
  split <;> rfl

/-- Bytes stored by an instruction that retires (R81, R99, R483): the memory, the waits that it satisfies, the count of
what lay past the end, and the frame of the rest. -/
theorem State.retire_storeList (s : State) (c t : Nat) (l : List (Nat × Byte)) (past : Bool) (n : Word) (mis : Bool) :
    let u := ((s.storeList l).outOfCapIf past).retire c t n mis
    s.movedOn u c t n ∧ s.coresFrame u c t mis id ∧ u.mem = s.mem.writeList l ∧
    u.net = (State.checkWaits { s with mem := u.mem }).net ∧
    { u with cores := s.cores, mem := s.mem, net := s.net } = s.outOfCapIf past := by
  intro u
  have hu : u =
      (({ s with mem := s.mem.writeList l, net := (s.storeList l).net } : State).retire c t n mis).outOfCapIf past := by
    rw [← State.storeList_eq, ← State.retire_outOfCapIf]
  obtain ⟨hip, hcores, hsame⟩ :=
    State.retire_done { s with mem := s.mem.writeList l, net := (s.storeList l).net } c t n mis
  have hmem : u.mem = s.mem.writeList l := by rw [hu]; cases past <;> cases mis <;> rfl
  refine ⟨?_, hcores.congr (by rw [hu, State.cores_outOfCapIf]), hmem, ?_, ?_⟩
  · rw [State.movedOn, hu, State.strand_congr (State.cores_outOfCapIf _ past)]
    exact hip
  · rw [hmem, hu]
    cases past <;> cases mis <;> rfl
  · rw [hu]
    cases past <;> cases mis <;> rfl


/-! ## Scalar registers (R67) -/

/-- Every strand but the one that a frame names is as before. -/
theorem State.coresFrame.strand_other {s u : State} {c t : Nat} {mis : Bool} {back : Core → Core}
    (h : s.coresFrame u c t mis back) {d x : Nat} (hx : d ≠ c ∨ x ≠ t) : u.strand d x = s.strand d x := by
  obtain ⟨hcores, hstrands, -⟩ := h
  by_cases hd : d = c
  · subst hd
    exact hstrands x (hx.resolve_left (fun hne => hne rfl))
  · rw [State.strand, State.strand, hcores d hd]

/-- Settles O55: a register is read back by `sreg_setSreg`, and its write changes one strand's registers. -/
theorem scratchRegisters : Obligations.ScratchRegisters := by
  unfold Obligations.ScratchRegisters
  intro s c t r q v
  have hframe := s.coresFrame_setSreg c t r v
  refine ⟨s.sreg_zero c t, if_pos rfl, s.sreg_setSreg c t r q v, fun d u hd => ?_, hframe, s.sameButCores_setSreg c t r v⟩
  simp only [State.sreg, hframe.strand_other hd]

/-! ## Scalar results (R81) -/

section
variable {s : State} {c : CoreId} {t : StrandId} (hi : s.issues c t = true) (w : SWord)
include hi

/-- A scalar instruction completes with its result, however R81 writes it. -/
theorem exists_scalarDone {i : Instr} {f : Word → Word → Word} {v : Word} (he : exec i s = .next (s.scalar c t w f))
    (hv : f (s.sreg c t w.sa) (s.operandB c t w) = v) :
    ∃ u, exec i s = .next u ∧ s.scalarDone u c t w.sd v ((s.strand c t).ip + 8) (w.rsv != 0) :=
  ⟨_, he, hv ▸ State.scalar_done w f hi⟩

theorem exec_nop : exec (.nop c t w) s = .next (s.retire c t 8 (w.rsv != 0)) :=
  congrArg Host.Outcome.next (State.issue_of_issues _ hi rfl)

end

/-- Settles O1: each result is the model's own operation on words, written with the values that the words stand for. -/
theorem scalarResults : Obligations.ScalarResults := by
  unfold Obligations.ScalarResults
  refine ⟨fun c t w s hi => ?arithmetic, fun c t w s hi => ?bitwise, fun c t w s hi => ?comparison⟩
  case arithmetic =>
    intro a b ip mis
    exact ⟨⟨_, exec_nop hi w, s.scalarDone_of c t 0 0 (· + 8) mis⟩,
      exists_scalarDone hi w rfl (by rw [BitVec.ofInt_add, BitVec.ofInt_toInt, BitVec.ofInt_toInt]),
      exists_scalarDone hi w rfl (ofInt_sub a b).symm,
      exists_scalarDone hi w rfl (by rw [BitVec.ofInt_mul, BitVec.ofInt_toInt, BitVec.ofInt_toInt]),
      exists_scalarDone hi w rfl (divWord_eq a b), exists_scalarDone hi w rfl (divuWord_eq a b)⟩
  case bitwise =>
    intro a b n ip mis
    have bits {i : Instr} {f : Word → Word → Word} {g : Bool → Bool → Bool} (he : exec i s = .next (s.scalar c t w f))
        (hg : ∀ k, (f a b).getLsbD k = g (a.getLsbD k) (b.getLsbD k)) : ∃ u, exec i s = .next u ∧
          ∃ v, s.scalarDone u c t w.sd v ip mis ∧ ∀ k, v.getLsbD k = g (a.getLsbD k) (b.getLsbD k) :=
      ⟨_, he, _, State.scalar_done w f hi, hg⟩
    exact ⟨bits rfl (fun _ => BitVec.getLsbD_and), bits rfl (fun _ => BitVec.getLsbD_or),
      bits rfl (fun _ => BitVec.getLsbD_xor), exists_scalarDone hi w rfl (shiftLeft_eq_ofNat a n),
      exists_scalarDone hi w rfl (ushiftRight_eq_ofNat a n), exists_scalarDone hi w rfl (sshiftRight_eq_ofInt a n)⟩
  case comparison =>
    intro a b ip mis
    exact ⟨exists_scalarDone hi w rfl (if_congr BitVec.slt_iff_toInt_lt rfl rfl),
      exists_scalarDone hi w rfl (if_congr BitVec.ult_iff_toNat_lt rfl rfl),
      exists_scalarDone hi w rfl (signedMin_eq_ofInt a b), exists_scalarDone hi w rfl (signedMax_eq_ofInt a b),
      exists_scalarDone hi w rfl (luiWord_eq a w.imm)⟩


/-! ## Branches and jumps (R77, R82) -/

/-- The target of a branch as R82 states it. -/
theorem State.branchTarget_eq (s : State) (c t : Nat) (w : SWord) :
    align8 (s.branchTarget c t w) = align8 (BitVec.ofInt 64 ((s.strand c t).ip.toInt + 8 * w.imm.toInt)) := by
  rw [add_immWord]
  rfl

/-- A jump writes the return address and goes to its target (R82). -/
theorem exists_jumpDone {s : State} {c t : Nat} {w : SWord} {i : Instr} {a ip : Word}
    (he : exec i s = .next (((s.setSreg c t w.sd ((s.strand c t).ip + 8)).jumpTo c t a).misfitIf c (w.rsv != 0)))
    (hip : align8 a = ip) :
    ∃ u, exec i s = .next u ∧ s.scalarDone u c t w.sd ((s.strand c t).ip + 8) ip (w.rsv != 0) :=
  ⟨_, he, hip ▸ s.scalarDone_of c t w.sd _ (fun _ => align8 a) _⟩

section
variable {s : State} {c : CoreId} {t : StrandId} (hi : s.issues c t = true) (w : SWord)
include hi

theorem State.branch_done (taken : Word → Word → Bool) : s.scalarDone (s.branch c t w taken) c t 0 0
    (if taken (s.sreg c t w.sa) (s.sreg c t w.sb) = true then align8 (s.branchTarget c t w) else (s.strand c t).ip + 8)
    (w.rsv != 0) := by
  rw [State.branch, State.issue_of_issues _ hi rfl]
  split
  · exact s.scalarDone_of c t 0 0 (fun _ => align8 (s.branchTarget c t w)) _
  · exact s.scalarDone_of c t 0 0 (· + 8) _

/-- A branch goes where its comparison says, however R82 writes it. -/
theorem exists_branchDone {i : Instr} {taken : Word → Word → Bool} {ip : Word}
    (he : exec i s = .next (s.branch c t w taken))
    (hip : (if taken (s.sreg c t w.sa) (s.sreg c t w.sb) = true then align8 (s.branchTarget c t w)
      else (s.strand c t).ip + 8) = ip) :
    ∃ u, exec i s = .next u ∧ s.scalarDone u c t 0 0 ip (w.rsv != 0) :=
  ⟨_, he, hip ▸ State.branch_done hi w taken⟩

theorem exec_jal : exec (.jal c t w) s = .next
    (((s.setSreg c t w.sd ((s.strand c t).ip + 8)).jumpTo c t (s.branchTarget c t w)).misfitIf c (w.rsv != 0)) :=
  congrArg Host.Outcome.next (State.issue_of_issues _ hi rfl)

theorem exec_jr : exec (.jr c t w) s = .next (((s.setSreg c t w.sd ((s.strand c t).ip + 8)).jumpTo c t
    (s.sreg c t w.sa + immWord w.imm)).misfitIf c (w.rsv != 0)) :=
  congrArg Host.Outcome.next (State.issue_of_issues _ hi rfl)

/-! ## Special values (R83) -/

/-- The state in which a `srd` of a code has read: rstat is cleared where the code names it. -/
def State.specialRead (s : State) (c t code : Nat) : State :=
  if code = 10 then s.modStrand c t (fun x => { x with rstat := 0 }) else s

theorem exec_srd : exec (.srd c t w) s = .next (((s.specialRead c t (w.imm.toNat % 256)).setSreg c t w.sd
    ((s.special c t (w.imm.toNat % 256)).getD 0)).retire c t 8
      (w.rsv != 0 || (s.special c t (w.imm.toNat % 256)).isNone)) :=
  congrArg Host.Outcome.next (State.issue_of_issues _ hi rfl)

/-! ## `cend`, `trel` and reserved opcodes (R74, R79, R84) -/

theorem exec_cend : exec (.cend c t w) s =
    .next ((s.modStrand c t (fun x => { x with atEnd := true })).retire c t 8 (w.rsv != 0)) :=
  congrArg Host.Outcome.next (State.issue_of_issues _ hi rfl)

theorem exec_reservedOpcode {op : BitVec 8} (rest : BitVec 56) (h : isReservedOp op.toNat = true) :
    exec (.reservedOpcode c t op rest) s = .next (s.retire c t 8 true) :=
  congrArg Host.Outcome.next ((if_pos h).trans (State.issue_of_issues _ hi rfl))

end

/-- The codes of special values are 0 to 11. -/
theorem State.isNone_special (s : State) (c t code : Nat) : (s.special c t code).isNone = decide (11 < code) := by
  by_cases h : 11 < code
  · obtain ⟨k, rfl⟩ : ∃ k, code = k + 12 := ⟨code - 12, by omega⟩
    rw [decide_eq_true h]
    rfl
  · rw [decide_eq_false h]
    interval_cases code <;> rfl

/-- Reading a special value touches the strand's rstat alone. -/
theorem State.specialRead_done (s : State) (c t code : Nat) :
    (s.specialRead c t code).strand c t = { s.strand c t with rstat := if code = 10 then 0 else (s.strand c t).rstat } ∧
    s.coresFrame (s.specialRead c t code) c t false id ∧ s.sameButCores (s.specialRead c t code) := by
  rw [State.specialRead]
  split
  · exact ⟨State.strand_modStrand_same s c t _, s.coresFrame_modStrand c t _, s.sameButCores_modStrand c t _⟩
  · exact ⟨rfl, State.coresFrame.refl s c t, rfl⟩

/-- What a mask of 32 tiles names. -/
theorem mem_trelTiles {w : SWord} {n : Nat} : n ∈ trelTiles w ↔ n < 32 ∧ w.imm.getLsbD n = true := by
  simp [trelTiles, setBits, bitOf, BitVec.getLsbD, Nat.testBit_eq_decide_div_mod_eq]

theorem nodup_trelTiles (w : SWord) : (trelTiles w).Nodup := List.nodup_range.filter _

/-- The mark of a tile after tiles were released. -/
theorem RegFile.mark_release (r : RegFile) (n k : Nat) : (r.release n).mark k = if k = n then {} else r.mark k :=
  RegFile.mark_touch _ _ _ _

theorem RegFile.wcnt_release (r : RegFile) (n k : Nat) : SMap.get 0 (r.release n).wcnt k =
    if k = n then SMap.get 0 r.wcnt k + 1 else SMap.get 0 r.wcnt k := RegFile.wcnt_touch _ _ _ _

/-- A released tile reads as zero, and every other register as before. -/
theorem RegFile.byte_release (r : RegFile) (n v : Nat) {b : Nat} (hb : b < 512) :
    (r.release n).byte v b = if v / 8 = n then 0 else r.byte v b := by
  rw [RegFile.byte_eq, RegFile.mark_release, RegFile.byte_eq]
  split
  · rfl
  · rw [RegFile.release, RegFile.touch_bytes, SMap.get_clear, if_neg (c := 4096 * n ≤ _ ∧ _) (by omega)]

/-- Tiles released one after another: each is empty, and its count has advanced once. -/
theorem RegFile.releases (r : RegFile) {l : List Nat} (hl : l.Nodup) :
    (∀ k, (l.foldl RegFile.release r).mark k = if k ∈ l then {} else r.mark k) ∧
    (∀ v b, b < 512 → (l.foldl RegFile.release r).byte v b = if v / 8 ∈ l then 0 else r.byte v b) ∧
    (∀ k, SMap.get 0 (l.foldl RegFile.release r).wcnt k =
      if k ∈ l then SMap.get 0 r.wcnt k + 1 else SMap.get 0 r.wcnt k) := by
  induction l generalizing r with
  | nil => simp
  | cons n l ih =>
    obtain ⟨hn, hl⟩ := List.nodup_cons.1 hl
    obtain ⟨hmark, hbyte, hcount⟩ := ih (r.release n) hl
    simp only [List.foldl_cons, List.mem_cons]
    refine ⟨fun k => ?_, fun v b hb => ?_, fun k => ?_⟩
    · rw [hmark, RegFile.mark_release]
      by_cases hk : k = n <;> by_cases hm : k ∈ l <;> simp [hk, hm]
    · rw [hbyte v b hb, RegFile.byte_release r n v hb]
      by_cases hk : v / 8 = n <;> by_cases hm : v / 8 ∈ l <;> simp [hk, hm]
    · rw [hcount, RegFile.wcnt_release]
      by_cases hk : k = n
      · subst hk; simp [hn]
      · simp [hk]

theorem exec_trel {s : State} {c : CoreId} {t : StrandId} (hi : s.issues c t = true) (w : SWord)
    (h : ∀ n, n < 32 → w.imm.getLsbD n = true → s.tileBusy c t n = false) : exec (.trel c t w) s =
    .next ((s.modRegs c (fun r => (trelTiles w).foldl RegFile.release r)).retire c t 8 (w.rsv != 0)) := by
  refine congrArg Host.Outcome.next (State.issue_of_issues _ hi ?_)
  rw [Bool.not_eq_true', List.any_eq_false]
  intro n hn
  obtain ⟨hlt, hbit⟩ := mem_trelTiles.1 hn
  simp [h n hlt hbit]

/-- Settles O2: branches and jumps write one register and the pointer; `srd`, `cend` and `trel` change what they name
before they retire. -/
theorem controlInstructions : Obligations.ControlInstructions := by
  unfold Obligations.ControlInstructions
  refine ⟨fun c t w s hi => ?branches, fun c t w s hi => ?others⟩
  case branches =>
    intro a b ip target mis
    have htarget : align8 (s.branchTarget c t w) = target := s.branchTarget_eq c t w
    refine ⟨exists_branchDone hi w rfl ?beq, exists_branchDone hi w rfl ?bne, exists_branchDone hi w rfl ?blt,
      exists_branchDone hi w rfl ?bge, exists_branchDone hi w rfl ?bltu⟩
    all_goals rw [htarget]
    case beq => exact if_congr beq_iff_eq rfl rfl
    case bne => exact (if_congr bne_iff_ne rfl rfl).trans (ite_not _ _ _)
    case blt => exact if_congr BitVec.slt_iff_toInt_lt rfl rfl
    case bge =>
      refine if_congr ?_ rfl rfl
      rw [Bool.not_eq_true', ← Bool.not_eq_true, BitVec.slt_iff_toInt_lt, Int.not_lt]
    case bltu => exact if_congr BitVec.ult_iff_toNat_lt rfl rfl
  case others =>
    intro ip mis
    refine ⟨exists_jumpDone (exec_jal hi w) (s.branchTarget_eq c t w),
      exists_jumpDone (exec_jr hi w) ?jr, ?srd, ?cend, fun hbusy => ?trel, fun op rest hop => ?reserved⟩
    case jr =>
      have h := add_immWord (s.sreg c t w.sa) 1 w.imm
      rw [Int.one_mul] at h
      rw [h]
      exact congrArg align8 (congrArg (s.sreg c t w.sa + ·) (BitVec.one_mul (immWord w.imm)).symm)
    case srd =>
      obtain ⟨hstrand, hcores, hsame⟩ := s.specialRead_done c t (w.imm.toNat % 256)
      obtain ⟨hw, hr, hf, hs⟩ := (s.specialRead c t (w.imm.toNat % 256)).scalarDone_of c t w.sd
        ((s.special c t (w.imm.toNat % 256)).getD 0) (· + 8) (w.rsv != 0 || (s.special c t (w.imm.toNat % 256)).isNone)
      refine ⟨_, exec_srd hi w, fun r => (hw r).trans ?_, ?_, ?_, hsame.trans hs⟩
      · rw [State.sreg_strand (s := s) (by rw [hstrand])]
      · exact hr.trans (by rw [hstrand]; rfl)
      · rw [← s.isNone_special c t]
        exact hcores.trans hf
    case cend =>
      obtain ⟨hip, hcores, hsame⟩ := (s.modStrand c t (fun x => { x with atEnd := true })).retire_done c t 8 mis
      refine ⟨_, exec_cend hi w, hip.trans ?_, (s.coresFrame_modStrand c t _).trans hcores,
        (s.sameButCores_modStrand c t _).trans hsame⟩
      rw [State.strand_modStrand_same]
    case trel =>
      obtain ⟨hip, hcores, hsame⟩ := s.retire_modRegs c t (fun r => (trelTiles w).foldl RegFile.release r) 8 mis
      obtain ⟨hmark, hbyte, hcount⟩ := (s.core c).regs.releases (nodup_trelTiles w)
      refine ⟨_, exec_trel hi w hbusy, hip, hcores, hsame, ?_⟩
      rw [s.regs_retire]
      simp only [mem_trelTiles] at hmark hbyte hcount
      refine ⟨hmark, fun n b hb => (hbyte n b hb).trans (if_congr (and_congr_left' ?_) rfl rfl), hcount⟩
      omega
    case reserved =>
      obtain ⟨hip, hcores, hsame⟩ := s.retire_done c t 8 true
      exact ⟨_, exec_reservedOpcode hi rest hop, hip, hcores, hsame⟩

/-! ## `ld` and `st` (R81, R483) -/

/-- A load by an instruction that retires: its register, the pointer, and the count of what lay past the end. -/
theorem State.retire_load (s : State) (c t : Nat) (sd : BitVec 5) (v : Word) (past mis : Bool) :
    let u := ((s.setSreg c t sd v).outOfCapIf past).retire c t 8 mis
    s.wrote u c t sd v ∧ s.retired u c t ((s.strand c t).ip + 8) ∧ s.coresFrame u c t mis id ∧ s.sameButPast u past := by
  intro u
  have hu : u = ((s.setSreg c t sd v).retire c t 8 mis).outOfCapIf past := State.retire_outOfCapIf _ c t 8 past mis
  obtain ⟨hw, hr, hf, hs⟩ := s.scalarDone_of c t sd v (· + 8) mis
  rw [hu]
  cases past
  · exact ⟨hw, hr, hf, hs⟩
  · exact ⟨hw, hr, hf, hs.outOfCapIf true⟩

section
variable {s : State} {c : CoreId} {t : StrandId} (hi : s.issues c t = true) (hp : s.storePending c t = false) (w : SWord)
include hi hp

theorem exec_ld : exec (.ld c t w) s = .next (((s.setSreg c t w.sd
    (leWord (s.spadRead c (s.ldOffset c t w) 8))).outOfCapIf (spadPast (s.ldOffset c t w) 8)).retire c t 8
      (w.rsv != 0)) :=
  congrArg Host.Outcome.next (State.issue_of_issues _ hi (by rw [hp]; rfl))

theorem exec_st : exec (.st c t w) s = .next (((s.storeList
    (spadBytes c (s.ldOffset c t w) (wordBytes (s.sreg c t w.sb)))).outOfCapIf
      (spadPast (s.ldOffset c t w) 8)).retire c t 8 (w.rsv != 0)) :=
  congrArg Host.Outcome.next (State.issue_of_issues _ hi (by rw [hp]; rfl))

end

/-- Settles O3: the word at the aligned offset, or nothing past the end. -/
theorem scratchpadWords : Obligations.ScratchpadWords := by
  unfold Obligations.ScratchpadWords
  intro c t w s hi hp off mis
  have hoff : (s.ldOffset c t w).toNat = off := toNat_align8 _
  have hpast : spadPast (s.ldOffset c t w) 8 = decide (2 ^ 21 ≤ off) := by
    rw [spadPast_eq _ (by decide), hoff]
    exact decide_eq_decide.2 (by omega)
  refine ⟨?ld, ?st⟩
  case ld =>
    obtain ⟨hw, hr, hf, hs⟩ :=
      s.retire_load c t w.sd (leWord (s.spadRead c (s.ldOffset c t w) 8)) (spadPast (s.ldOffset c t w) 8) mis
    refine ⟨_, exec_ld hi hp w, fun r => (hw r).trans ?_, hr, hf, by rw [← hpast]; exact hs⟩
    rw [s.leWord_spadRead c (by omega), hoff]
  case st =>
    obtain ⟨hip, hcores, hmem, hnet, hrest⟩ := s.retire_storeList c t
      (spadBytes c (s.ldOffset c t w) (wordBytes (s.sreg c t w.sb))) (spadPast (s.ldOffset c t w) 8) 8 mis
    refine ⟨_, exec_st hi hp w, hip, hcores, fun hin => ?_, fun k hk => ?_, hnet, hrest.trans (by rw [hpast])⟩
    · have hread : (s.mem.writeList (spadBytes c (s.ldOffset c t w) (wordBytes (s.sreg c t w.sb)))).read
          (spadKey c off) 8 = wordBytes (s.sreg c t w.sb) := by
        refine (List.map_congr_left fun i hlt => ?_).trans (map_getD_range _ 8 (length_wordBytes _))
        rw [List.mem_range] at hlt
        rw [← spadKey_add, ← hoff, Mem.byte_spadBytes _ _ (by simpa using hlt) (by omega)]
      rw [hmem, Mem.word, hread, leWord_wordBytes]
    · rw [hmem]
      refine s.mem.byte_spadBytes_out c fun b hb hlt he => hk ?_
      rw [length_wordBytes] at hb
      rw [hoff, spadKey_add] at he
      exact ⟨by omega, by omega, by omega⟩

end Sys2Proof.Machine
end

section
/-! SUPPORT. How a vector instruction that is ready retires, and the obligations on lane-wise arithmetic (O4) and on moves
and functions (O5). -/

namespace Sys2Proof.Machine

/-! ## Issue (R27, R94, R110) -/

theorem State.vready_iff {s : State} {c t : Nat} {l : List Nat} :
    s.vready c t l = true ↔ ∀ v ∈ l, s.regPending c t v = false := by
  simp [State.vready]

theorem State.vready_mono {s : State} {c t : Nat} {l m : List Nat} (h : s.vready c t m = true) (hl : l ⊆ m) :
    s.vready c t l = true :=
  State.vready_iff.2 fun v hv => State.vready_iff.1 h v (hl hv)

theorem State.vready_append {s : State} {c t : Nat} {l m : List Nat} (hl : s.vready c t l = true)
    (hm : s.vready c t m = true) : s.vready c t (l ++ m) = true :=
  State.vready_iff.2 fun v hv => (List.mem_append.1 hv).elim (State.vready_iff.1 hl v) (State.vready_iff.1 hm v)

/-- A vector instruction whose fields are not valid executes as `nop` and counts as a misfit. -/
theorem exists_vectorMisfit {s : State} {c : CoreId} {t : StrandId} {l m : List Nat} {valid mis : Bool}
    {effect : State → State} {i : Instr} (hi : s.issues c t = true) (hm : s.vready c t m = true)
    (he : exec i s = .next (s.vector c t l valid mis effect)) (hl : l ⊆ m) (hv : valid = false) :
    ∃ u, exec i s = .next u ∧ s.misfitNop u c t 8 := by
  obtain ⟨hip, hcores, hsame⟩ := s.retire_done c t 8 true
  refine ⟨s.retire c t 8 true, he.trans (congrArg Host.Outcome.next ?_), hip, hcores, hsame⟩
  rw [State.vector, State.issue_of_issues _ hi (State.vready_mono hm hl), hv]
  rfl

/-- A vector instruction with a valid format takes its effect and retires. -/
theorem exec_vector {s : State} {c : CoreId} {t : StrandId} {l m : List Nat} {valid mis : Bool} {effect : State → State}
    {i : Instr} (hi : s.issues c t = true) (hm : s.vready c t m = true)
    (he : exec i s = .next (s.vector c t l valid mis effect)) (hl : l ⊆ m) (hv : valid = true) :
    exec i s = .next ((effect s).retire c t 8 mis) := by
  subst hv
  exact he.trans (congrArg Host.Outcome.next (State.vector_of_issues effect hi (State.vready_mono hm hl)))

/-! ## Lanes (R94) -/

@[simp] theorem RegFile.length_lanes (r : RegFile) (n : Nat) : (r.lanes n).length = 128 := by simp [RegFile.lanes]

@[simp] theorem RegFile.getElem_lanes (r : RegFile) (n i : Nat) (h : i < (r.lanes n).length) :
    (r.lanes n)[i] = r.lane n i := by
  simp [RegFile.lanes]

section
variable {s : State} {c : CoreId} {t : StrandId} {w : VWord} {m : List Nat} {i : Instr}
  (hi : s.issues c t = true) (hm : s.vready c t m = true)
include hi hm

/-- A vector instruction that writes every lane of vd. -/
theorem exists_lanesDone {l : List Nat} {valid : Bool} {effect : State → State} {ls : List W32} {g : Nat → W32}
    (he : exec i s = .next (s.vector c t l valid false effect)) (heff : effect s = s.setLanes c (vreg w.vd) ls)
    (hl : l ⊆ m) (hv : valid = true) (hn : ls.length = 128) (hg : ∀ k, k < 128 → ls.getD k 0 = g k) :
    ∃ u, exec i s = .next u ∧ s.lanesDone u c t (vreg w.vd) g := by
  refine ⟨_, exec_vector hi hm he hl hv, ?_⟩
  rw [heff]
  exact State.lanesDone_of hn hg

/-- A lane-wise operation of two registers, whatever the form in which R94 gives its INT32 result. -/
theorem exists_lanewise2 {ff fi gi : W32 → W32 → W32} (he : exec i s = .next (s.lanewise2 c t w ff fi))
    (hl : [vreg w.va, vreg w.vb, vreg w.vd] ⊆ m) (hf : w.f = 6 ∨ w.f = 8) (hg : ∀ x y, fi x y = gi x y) :
    ∃ u, exec i s = .next u ∧ s.lanesDone u c t (vreg w.vd) (fun k =>
      if w.f = 6 then ff ((s.core c).regs.lane (vreg w.va) k) ((s.core c).regs.lane (vreg w.vb) k)
      else gi ((s.core c).regs.lane (vreg w.va) k) ((s.core c).regs.lane (vreg w.vb) k)) := by
  refine exists_lanesDone hi hm he rfl hl (by simpa using hf) (by simp [State.lanes]) fun k hk => ?_
  rw [List.getD_eq_getElem _ _ (by simpa [State.lanes] using hk), List.getElem_zipWith]
  simp only [State.lanes, RegFile.getElem_lanes]
  split
  · rfl
  · exact hg _ _

/-- A function of one register in every lane. -/
theorem exists_lanewise1 {l : List Nat} {valid : Bool} {effect : State → State} {f : W32 → W32}
    (he : exec i s = .next (s.vector c t l valid false effect))
    (heff : effect s = s.setLanes c (vreg w.vd) ((s.lanes c (vreg w.va)).map f)) (hl : l ⊆ m) (hv : valid = true) :
    ∃ u, exec i s = .next u ∧ s.lanesDone u c t (vreg w.vd) (fun k => f ((s.core c).regs.lane (vreg w.va) k)) := by
  refine exists_lanesDone hi hm he heff hl hv (by simp [State.lanes]) fun k hk => ?_
  rw [List.getD_eq_getElem _ _ (by simpa [State.lanes] using hk), List.getElem_map]
  simp only [State.lanes, RegFile.getElem_lanes]

end

/-- An integer's magnitude, as R94 states `vabs`. -/
theorem signedAbs_eq_ofInt {n : Nat} (a : BitVec n) : (if a.msb then -a else a) = BitVec.ofInt n |a.toInt| := by
  split
  · next h => rw [abs_of_neg (BitVec.toInt_neg_of_msb_true h), BitVec.ofInt_neg, BitVec.ofInt_toInt]
  · next h => rw [abs_of_nonneg (BitVec.toInt_nonneg_of_msb_false (by simpa using h)), BitVec.ofInt_toInt]

/-- Settles O4: every lane is the operation on the lanes of the operands, and a format that does not fit is a misfit. -/
theorem vectorArithmetic : Obligations.VectorArithmetic := by
  unfold Obligations.VectorArithmetic
  refine ⟨fun c t w s hi => ?valid, fun c t w s hi hm => ?misfit⟩
  case valid =>
    intro r a b hm
    refine ⟨fun hf => ?both, fun hf hc => ?fma⟩
    case both =>
      have lanewise (ff gi : W32 → W32 → W32) {fi : W32 → W32 → W32} {i : Instr}
          (he : exec i s = .next (s.lanewise2 c t w ff fi)) (hg : ∀ x y, fi x y = gi x y) :
          ∃ u, exec i s = .next u ∧
            s.lanesDone u c t (vreg w.vd) (fun k => if w.f = 6 then ff (a k) (b k) else gi (a k) (b k)) :=
        exists_lanewise2 hi hm he (List.Subset.refl _) hf hg
      refine ⟨lanewise fadd (· + ·) rfl (fun _ _ => rfl), lanewise fsub (· - ·) rfl (fun _ _ => rfl),
        lanewise fmul (· * ·) rfl (fun _ _ => rfl),
        lanewise fmax (fun x y => BitVec.ofInt 32 (max x.toInt y.toInt)) rfl signedMax_eq_ofInt,
        lanewise fmin (fun x y => BitVec.ofInt 32 (min x.toInt y.toInt)) rfl signedMin_eq_ofInt, ?_⟩
      have habs := exists_lanewise1 hi hm (i := .vabs c t w) rfl rfl (by simp) (by simpa using hf)
      simp only [ite_apply, signedAbs_eq_ofInt] at habs
      exact habs
    case fma =>
      refine exists_lanesDone hi (State.vready_append hm hc) rfl rfl (by simp) (by simpa using hf)
        (by simp [State.lanes]) fun k hk => ?_
      rw [List.getD_eq_getElem _ _ (by simpa [State.lanes] using hk), List.getElem_zipWith, List.getElem_zipWith]
      simp only [State.lanes, RegFile.getElem_lanes]
      rfl
  case misfit =>
    have misfit {i : Instr} {l : List Nat} {valid mis : Bool} {effect : State → State}
        (he : exec i s = .next (s.vector c t l valid mis effect))
        (hl : l ⊆ [vreg w.va, vreg w.vb, vreg w.vc, vreg w.vd]) (hv : valid = false) :
        ∃ u, exec i s = .next u ∧ s.misfitNop u c t 8 := exists_vectorMisfit hi hm he hl hv
    refine ⟨fun h6 h8 i h => ?both, fun h6 i h => ?fp32, fun h4 => ?rred, fun hvd hp => ?rred2, fun hk => ?vcvt⟩
    case both =>
      have hv : (w.f == 6 || w.f == 8) = false := by simpa using And.intro h6 h8
      simp only [List.mem_cons, List.not_mem_nil, or_false] at h
      obtain rfl | rfl | rfl | rfl | rfl | rfl | rfl := h
      all_goals exact misfit rfl (by simp) hv
    case fp32 =>
      have hv : (w.f == 6) = false := by simpa using h6
      simp only [List.mem_cons, List.not_mem_nil, or_false] at h
      obtain rfl | rfl | rfl | rfl := h
      all_goals exact misfit rfl (by simp) hv
    case rred =>
      exact misfit rfl (by split <;> simp) (decide_eq_false (by omega))
    case rred2 =>
      have hnext : s.vready c t [256] = true := State.vready_iff.2 (by simpa using hp)
      refine exists_vectorMisfit hi (State.vready_append hm hnext) rfl ?_ ?_
      · simp [hvd]
      · simp [hvd]
    case vcvt =>
      exact misfit rfl (by simp [vcvtRegs, hk]) (by rw [hk]; rfl)


/-! ## Moves and functions (R94, R95) -/

@[simp] theorem RegFile.length_vec (r : RegFile) (n : Nat) : (r.vec n).length = 512 := by simp [RegFile.vec]

theorem RegFile.getD_vec (r : RegFile) (n : Nat) {b : Nat} (h : b < 512) : (r.vec n).getD b 0 = r.byte n b := by
  rw [List.getD_eq_getElem _ _ (by simpa using h)]
  simp [RegFile.vec]

/-- A register that was written whole. -/
theorem RegFile.byte_vecWrite_whole (r : RegFile) (n : Nat) {bs : List Byte} (hl : bs.length = 512) {b : Nat}
    (hb : b < 512) : (r.vecWrite n 0 bs).byte n b = bs.getD b 0 := by
  rw [RegFile.byte_vecWrite r (by omega) n b hb, if_pos ⟨rfl, Nat.zero_le b, by omega⟩, Nat.sub_zero]

theorem RegFile.wrote_vecWrite_whole (r : RegFile) (n : Nat) {bs : List Byte} (hl : bs.length = 512) :
    r.wrote (r.vecWrite n 0 bs) [n / 8] (fun m _ => m = n) :=
  r.wrote_vecWrite (by omega) (fun _ _ _ => rfl)

/-- Settles O5: a move copies the register's bytes, and every other result is a function of the lane or the scalar. -/
theorem vectorMovesAndFunctions : Obligations.VectorMovesAndFunctions := by
  unfold Obligations.VectorMovesAndFunctions
  intro c t w s hi r a hm
  refine ⟨?vmov, ?vbcast, fun hf => ?vlane, fun hf => ?functions⟩
  case vmov =>
    refine ⟨_, exec_vector hi hm rfl (List.Subset.refl _) rfl, fun b hb => ?_,
      State.vectorDone_of _ false (RegFile.wrote_vecWrite_whole _ _ (RegFile.length_vec _ _))⟩
    rw [State.regs_retire, RegFile.byte_vecWrite_whole _ _ (RegFile.length_vec _ _) hb, RegFile.getD_vec _ _ hb]
  case vbcast =>
    refine exists_lanesDone hi hm rfl rfl (by simp) rfl List.length_replicate fun k hk => ?_
    rw [List.getD_eq_getElem _ _ (by simpa using hk), List.getElem_replicate]
    rfl
  case vlane =>
    exact ⟨_, exec_vector hi hm rfl (by simp) (by simpa using hf), s.scalarDone_of c t _ _ (· + 8) false⟩
  case functions =>
    have hv : (w.f == 6) = true := by simpa using hf
    have function (f : W32 → W32) {i : Instr} (he : exec i s = .next (s.lanewise1 c t w f)) :
        ∃ u, exec i s = .next u ∧ s.lanesDone u c t (vreg w.vd) (fun k => f (a k)) :=
      exists_lanewise1 hi hm he rfl (List.Subset.refl _) hv
    exact ⟨function (fun x => fexp (Config.vexpUnits x) x) rfl, function (fun x => frcp (Config.vrcpUnits x) x) rfl,
      function (fun x => frsqrt (Config.vrsqrtUnits x) x) rfl⟩

end Sys2Proof.Machine
end

section
/-! SUPPORT. What `vcvt`, `rred` and `rred2` write into the register file, and the obligation on them (O6); `vld` and
`vst` (O7). -/

namespace Sys2Proof.Machine

/-! ## Lengths -/

theorem length_flatMap_of_forall {α β : Type} {l : List α} {f : α → List β} {n : Nat} (h : ∀ x ∈ l, (f x).length = n) :
    (l.flatMap f).length = n * l.length := by
  rw [List.length_flatMap, List.map_congr_left h, List.map_const', List.sum_replicate_nat, Nat.mul_comm]

theorem length_flatMap_leBytes (k : Nat) (cs : List Nat) : (cs.flatMap (leBytes k)).length = k * cs.length :=
  length_flatMap_of_forall fun _ _ => length_leBytes k _

/-- A list of `m` parts of `n` elements, cut into parts of `n`. -/
theorem chunksFuel_of_length {α : Type} {n m fuel : Nat} (hn : 0 < n) {l : List α} (hl : l.length = n * m)
    (hf : m ≤ fuel) : (chunksFuel fuel n l).length = m ∧ ∀ p ∈ chunksFuel fuel n l, p.length = n := by
  induction m generalizing fuel l with
  | zero =>
    obtain rfl : l = [] := List.eq_nil_of_length_eq_zero (by simpa using hl)
    cases fuel <;> simp [chunksFuel]
  | succ m ih =>
    obtain ⟨k, rfl⟩ : ∃ k, fuel = k + 1 := ⟨fuel - 1, by omega⟩
    have hl' : l.length = n * m + n := by rw [hl, Nat.mul_succ]
    have hne : l.isEmpty = false := by
      rw [List.isEmpty_eq_false_iff_exists_mem]
      exact List.exists_mem_of_length_pos (by omega)
    obtain ⟨hcount, hparts⟩ := ih (fuel := k) (l := l.drop n) (by rw [List.length_drop]; omega) (by omega)
    rw [chunksFuel, hne, if_neg Bool.false_ne_true]
    refine ⟨by rw [List.length_cons, hcount], fun p hp => ?_⟩
    rcases List.mem_cons.1 hp with rfl | hp
    · rw [List.length_take]; omega
    · exact hparts p hp

theorem chunks_of_length {α : Type} {n m : Nat} (hn : 0 < n) {l : List α} (hl : l.length = n * m) :
    (chunks n l).length = m ∧ ∀ p ∈ chunks n l, p.length = n := by
  rw [chunks, max_eq_left hn]
  exact chunksFuel_of_length hn hl (hl ▸ Nat.le_mul_of_pos_left m hn)

theorem length_packE2m1 (l : List Nat) : (packE2m1 l).length = (l.length + 1) / 2 := by
  induction l using packE2m1.induct with
  | case1 a b l ih => simp only [packE2m1, List.length_cons, ih]; omega
  | case2 a => simp [packE2m1]
  | case3 => simp [packE2m1]

@[simp] theorem length_convMany (d : DFmt) (nfp wider : Bool) (vs : List FVal) :
    (convMany d nfp wider vs).1.length = vs.length := by simp [convMany]

/-! ## One lane -/

/-- A lane whose four bytes are those of a number. -/
theorem RegFile.lane_of_bytes {r : RegFile} {n i : Nat} {v : W32}
    (h : ∀ j, j < 4 → r.byte n (4 * i + j) = (leBytes 4 v.toNat).getD j 0) : r.lane n i = v := by
  have hb : (List.range 4).map (fun j => r.byte n (4 * i + j)) = leBytes 4 v.toNat :=
    (List.map_congr_left fun j hj => h j (List.mem_range.1 hj)).trans (map_getD_range _ 4 (length_leBytes _ _))
  rw [RegFile.lane, hb, leNat_leBytes]
  exact BitVec.eq_of_toNat_eq (by simpa using v.isLt)

/-! ## Two registers in one write (R75, R98) -/

@[simp] theorem RegFile.mark_openTile (r : RegFile) (k n : Nat) : (r.openTile k).mark n = r.mark n := by
  rw [RegFile.mark, RegFile.openTile_marks, RegFile.mark]

/-- An opened tile reads as it did. -/
theorem RegFile.byte_openTile (r : RegFile) (k n : Nat) {b : Nat} (hb : b < 512) :
    (r.openTile k).byte n b = r.byte n b := by
  rw [RegFile.byte_eq, RegFile.mark_openTile, RegFile.get_openTile _ _ _ _ hb, RegFile.byte_eq]
  by_cases h : (r.mark (n / 8)).rows = 0
  · rw [if_pos h, if_pos h]
  · simp only [if_neg h, ite_self]

theorem RegFile.get_openTile_openTile (r : RegFile) (k k' n : Nat) {b : Nat} (hb : b < 512) :
    SMap.get 0 ((r.openTile k).openTile k').bytes (512 * n + b) =
      if n / 8 ∈ [k, k'] then r.byte n b else SMap.get 0 r.bytes (512 * n + b) := by
  rw [RegFile.get_openTile _ _ _ _ hb, RegFile.byte_openTile _ _ _ hb, RegFile.get_openTile _ _ _ _ hb]
  by_cases hk : n / 8 = k
  · simp [hk]
  · simp [hk]

/-- A register reads as it did where the tiles written hold what their registers read as, and the other tiles are as they
were. -/
theorem RegFile.byte_of_tiles {r q : RegFile} {tiles : List Nat} {n b : Nat}
    (hmark : q.mark (n / 8) = if n / 8 ∈ tiles then markAny else r.mark (n / 8))
    (hget : SMap.get 0 q.bytes (512 * n + b) = if n / 8 ∈ tiles then r.byte n b else SMap.get 0 r.bytes (512 * n + b)) :
    q.byte n b = r.byte n b := by
  rw [RegFile.byte_eq, hmark, hget]
  split
  · exact if_neg (by decide)
  · rfl

/-- Bytes stored within one register. -/
theorem RegFile.get_storeBytes_register (r : RegFile) {x lo : Nat} {bs : List Byte} (h : lo + bs.length ≤ 512) (n : Nat)
    {b : Nat} (hb : b < 512) : SMap.get 0 (r.storeBytes (512 * x + lo) bs).bytes (512 * n + b) =
      if n = x ∧ lo ≤ b ∧ b < lo + bs.length then bs.getD (b - lo) 0 else SMap.get 0 r.bytes (512 * n + b) := by
  rw [RegFile.get_storeBytes]
  by_cases hin : n = x ∧ lo ≤ b ∧ b < lo + bs.length
  · rw [if_pos (by omega), if_pos hin, show 512 * n + b - (512 * x + lo) = b - lo by omega]
  · rw [if_neg (by omega), if_neg hin]

section
variable (r : RegFile) {n lo : Nat} {bs bs' : List Byte} (h : lo + bs.length ≤ 512) (h' : lo + bs'.length ≤ 512)

/-- The marks and the write counts after a write of two registers: a tile that holds both is written once. -/
theorem RegFile.tiles_vecWrite2 (k : Nat) :
    (r.vecWrite2 n lo bs (n + 1) lo bs').mark k = (if k ∈ [n / 8, (n + 1) / 8] then markAny else r.mark k) ∧
    SMap.get 0 (r.vecWrite2 n lo bs (n + 1) lo bs').wcnt k =
      (if k ∈ [n / 8, (n + 1) / 8] then SMap.get 0 r.wcnt k + 1 else SMap.get 0 r.wcnt k) := by
  have hm (x : RegFile) (base : Nat) (l : List Byte) (j : Nat) : (x.storeBytes base l).mark j = x.mark j := rfl
  rw [RegFile.vecWrite2]
  split
  · next heq =>
    simp only [RegFile.mark_touch, RegFile.wcnt_touch, hm, RegFile.mark_openTile, RegFile.storeBytes_wcnt,
      RegFile.openTile_wcnt, heq, List.mem_cons, List.not_mem_nil, or_false, or_self, and_self]
  · next hne =>
    simp only [RegFile.mark_touch, RegFile.wcnt_touch, hm, RegFile.mark_openTile, RegFile.storeBytes_wcnt,
      RegFile.openTile_wcnt, List.mem_cons, List.not_mem_nil, or_false]
    by_cases hk : k = (n + 1) / 8
    · simp [hk, Ne.symm hne]
    · simp [hk]

include h h'

/-- A byte of any register after a write of two. -/
theorem RegFile.byte_vecWrite2 (m : Nat) {b : Nat} (hb : b < 512) : (r.vecWrite2 n lo bs (n + 1) lo bs').byte m b =
    if m = n + 1 ∧ lo ≤ b ∧ b < lo + bs'.length then bs'.getD (b - lo) 0
    else if m = n ∧ lo ≤ b ∧ b < lo + bs.length then bs.getD (b - lo) 0 else r.byte m b := by
  have hbytes : (r.vecWrite2 n lo bs (n + 1) lo bs').bytes =
      ((((r.openTile (n / 8)).openTile ((n + 1) / 8)).storeBytes (512 * n + lo) bs).storeBytes (512 * (n + 1) + lo)
        bs').bytes := by
    rw [RegFile.vecWrite2]
    split <;> rfl
  obtain ⟨hmark, -⟩ := r.tiles_vecWrite2 (n := n) (lo := lo) (bs := bs) (bs' := bs') (m / 8)
  have hget : SMap.get 0 (r.vecWrite2 n lo bs (n + 1) lo bs').bytes (512 * m + b) =
      if m = n + 1 ∧ lo ≤ b ∧ b < lo + bs'.length then bs'.getD (b - lo) 0
      else if m = n ∧ lo ≤ b ∧ b < lo + bs.length then bs.getD (b - lo) 0
      else if m / 8 ∈ [n / 8, (n + 1) / 8] then r.byte m b else SMap.get 0 r.bytes (512 * m + b) := by
    rw [hbytes, RegFile.get_storeBytes_register _ h' m hb, RegFile.get_storeBytes_register _ h m hb,
      RegFile.get_openTile_openTile _ _ _ _ hb]
  have hwritten (ht : m / 8 ∈ [n / 8, (n + 1) / 8]) : (r.vecWrite2 n lo bs (n + 1) lo bs').byte m b =
      SMap.get 0 (r.vecWrite2 n lo bs (n + 1) lo bs').bytes (512 * m + b) := by
    rw [RegFile.byte_eq, hmark, if_pos ht]
    exact if_neg (by decide)
  by_cases hsecond : m = n + 1 ∧ lo ≤ b ∧ b < lo + bs'.length
  · rw [hwritten (by simp [hsecond.1]), hget, if_pos hsecond, if_pos hsecond]
  by_cases hfirst : m = n ∧ lo ≤ b ∧ b < lo + bs.length
  · rw [hwritten (by simp [hfirst.1]), hget, if_neg hsecond, if_neg hsecond, if_pos hfirst, if_pos hfirst]
  rw [if_neg hsecond, if_neg hfirst] at hget ⊢
  exact RegFile.byte_of_tiles hmark hget

end


/-! ## Row reduce (R97, R98) -/

section
variable (r : RegFile) (n : Nat) {ln : Nat} (hln : ln < 128)
include hln

theorem RegFile.lane_vecWrite_lane (v : W32) : (r.vecWrite n (4 * ln) (leBytes 4 v.toNat)).lane n ln = v := by
  refine RegFile.lane_of_bytes fun j hj => ?_
  rw [RegFile.byte_vecWrite r (by rw [length_leBytes]; omega) n _ (by omega),
    if_pos ⟨rfl, by omega, by rw [length_leBytes]; omega⟩, Nat.add_sub_cancel_left]

theorem RegFile.wrote_vecWrite_lane (v : W32) :
    r.wrote (r.vecWrite n (4 * ln) (leBytes 4 v.toNat)) [n / 8] (fun m b => m = n ∧ b / 4 = ln) :=
  r.wrote_vecWrite (by rw [length_leBytes]; omega) fun b _ hb => ⟨rfl, by rw [length_leBytes] at hb; omega⟩

/-- The two results of a `rred2`, and all that it writes. -/
theorem RegFile.vecWrite2_lanes (v v' : W32) :
    let q := r.vecWrite2 n (4 * ln) (leBytes 4 v.toNat) (n + 1) (4 * ln) (leBytes 4 v'.toNat)
    q.lane n ln = v ∧ q.lane (n + 1) ln = v' ∧
    r.wrote q [n / 8, (n + 1) / 8] (fun m b => (m = n ∨ m = n + 1) ∧ b / 4 = ln) := by
  intro q
  have hlen (x : W32) : 4 * ln + (leBytes 4 x.toNat).length ≤ 512 := by rw [length_leBytes]; omega
  have hbyte (m : Nat) {b : Nat} (hb : b < 512) := r.byte_vecWrite2 (n := n) (hlen v) (hlen v') m hb
  simp only [length_leBytes] at hbyte
  refine ⟨RegFile.lane_of_bytes fun j hj => ?_, RegFile.lane_of_bytes fun j hj => ?_, fun m b hb hout => ?_,
    fun k => (r.tiles_vecWrite2 k).1, fun k => (r.tiles_vecWrite2 k).2⟩
  · rw [hbyte n (by omega), if_neg (by omega), if_pos (by omega), Nat.add_sub_cancel_left]
  · rw [hbyte (n + 1) (by omega), if_pos (by omega), Nat.add_sub_cancel_left]
  · rw [hbyte m hb, if_neg, if_neg]
    · rintro ⟨rfl, hlo, hhi⟩
      exact hout ⟨.inl rfl, by omega⟩
    · rintro ⟨rfl, hlo, hhi⟩
      exact hout ⟨.inr rfl, by omega⟩

end

/-! ## `vcvt` (R96, R119) -/

/-- Single bytes stored one after another touch no other byte, no mark and no count. -/
theorem RegFile.storeEach {α : Type} (g : α → Nat) (v : α → Byte) (l : List α) (r : RegFile) :
    (∀ j, (∀ p ∈ l, g p ≠ j) →
      SMap.get 0 (l.foldl (fun q p => q.storeBytes (g p) [v p]) r).bytes j = SMap.get 0 r.bytes j) ∧
    (l.foldl (fun q p => q.storeBytes (g p) [v p]) r).marks = r.marks ∧
    (l.foldl (fun q p => q.storeBytes (g p) [v p]) r).wcnt = r.wcnt := by
  induction l generalizing r with
  | nil => exact ⟨fun _ _ => rfl, rfl, rfl⟩
  | cons p l ih =>
    obtain ⟨hget, hmarks, hwcnt⟩ := ih (r.storeBytes (g p) [v p])
    refine ⟨fun j hj => ?_, hmarks, hwcnt⟩
    have hp : g p ≠ j := hj p List.mem_cons_self
    rw [List.foldl_cons, hget j (fun q hq => hj q (List.mem_cons_of_mem p hq)), RegFile.get_storeBytes,
      if_neg (by rw [List.length_singleton]; omega)]

/-- A scale byte lies in its register. -/
theorem scaleAt_lt (v : Nat) {d len : Nat} (hd : d < 512) (hl : 16 ≤ len) : scaleAt v d len < 256 := by
  have : d % 64 / len ≤ 3 := by
    rw [← Nat.lt_succ_iff, Nat.div_lt_iff_lt_mul (by omega)]
    omega
  rw [scaleAt]
  omega

/-- Scale bytes stored into a register: of the marks and counts only those of its tile change, and there only where the
tile is not the one already written. -/
def RegFile.storeScales (r : RegFile) (tile vb : Nat) (l : List (Nat × Byte)) : RegFile :=
  let q := l.foldl (fun q p => q.storeBytes (512 * vb + p.1) [p.2]) (r.openTile (vb / 8))
  if vb / 8 = tile then q else q.touch markAny (vb / 8)

theorem RegFile.wrote_storeScales {r q : RegFile} {tile vb : Nat} {l : List (Nat × Byte)} {inside : Nat → Nat → Prop}
    (h : r.wrote q [tile] inside) (hl : ∀ p ∈ l, p.1 < 512 ∧ inside vb p.1) :
    r.wrote (q.storeScales tile vb l) [tile, vb / 8] inside := by
  obtain ⟨hbyte, hmark, hcount⟩ := h
  obtain ⟨hget, hmarks, hwcnt⟩ := RegFile.storeEach (fun p : Nat × Byte => 512 * vb + p.1) Prod.snd l
    (q.openTile (vb / 8))
  have hbytes : (q.storeScales tile vb l).bytes =
      (l.foldl (fun q p => q.storeBytes (512 * vb + p.1) [p.2]) (q.openTile (vb / 8))).bytes := by
    rw [RegFile.storeScales]
    split <;> rfl
  have hold (k : Nat) : (l.foldl (fun q p => q.storeBytes (512 * vb + p.1) [p.2]) (q.openTile (vb / 8))).mark k =
      q.mark k := by
    rw [RegFile.mark, hmarks, RegFile.openTile_marks, RegFile.mark]
  have hnew (k : Nat) : (q.storeScales tile vb l).mark k = if k ∈ [vb / 8] then markAny else q.mark k := by
    rw [RegFile.storeScales]
    split
    · next heq =>
      rw [hold, hmark, heq]
      by_cases hk : k = tile <;> simp [hk]
    · rw [RegFile.mark_touch, hold]
      simp
  refine ⟨fun n b hb hout => ?_, fun k => ?_, fun k => ?_⟩
  · refine (RegFile.byte_of_tiles (hnew (n / 8)) ?_).trans (hbyte n b hb hout)
    rw [hbytes, hget, RegFile.get_openTile _ _ _ _ hb]
    · simp
    · intro p hp he
      obtain ⟨hlt, hin⟩ := hl p hp
      obtain ⟨rfl, rfl⟩ : n = vb ∧ b = p.1 := by omega
      exact hout hin
  · rw [hnew, hmark]
    by_cases hk : k = tile <;> by_cases hk' : k = vb / 8 <;> simp [hk, hk']
  · rw [RegFile.storeScales]
    split
    · next heq =>
      rw [hwcnt, RegFile.openTile_wcnt, hcount, heq]
      simp
    · next hne =>
      rw [RegFile.wcnt_touch, hwcnt, RegFile.openTile_wcnt, hcount]
      by_cases hk : k = vb / 8
      · subst hk; simp [hne]
      · simp [hk]

/-- The part that a `vcvt` fills of a register, whatever the bytes (R96). -/
theorem RegFile.wrote_vcvt_whole (r : RegFile) (vd : Nat) {cs : List Nat} (h : cs.length = 128) :
    r.wrote (r.vecWrite vd 0 (cs.flatMap (leBytes 4))) [vd / 8] (fun m _ => m = vd) :=
  r.wrote_vecWrite_whole vd (by rw [length_flatMap_leBytes, h])

theorem RegFile.wrote_vcvt_narrow (r : RegFile) (vd : Nat) {part : Nat} (hp : part < 4) {bs : List Byte}
    (h : bs.length = 128) : r.wrote (r.vecWrite vd (128 * part) bs) [vd / 8] (fun m b => m = vd ∧ b / 128 = part) :=
  r.wrote_vecWrite (by omega) fun b _ _ => ⟨rfl, by omega⟩

theorem RegFile.wrote_vcvt_half (r : RegFile) (vd part : Nat) {bs : List Byte} (h : bs.length = 256) :
    r.wrote (r.vecWrite vd (256 * (part % 2)) bs) [vd / 8] (fun m b => m = vd ∧ b / 256 = part % 2) :=
  r.wrote_vecWrite (by omega) fun b _ _ => ⟨rfl, by omega⟩

/-- A block of a block-scaled result takes 16 bytes in E2M1, else 32 (R119). -/
def blockLen (f : FFmt) : Nat := if f = .e2m1 then 16 else 32

/-- The blocks of a block-scaled conversion of the lanes of `va`. -/
def RegFile.blocksOf (r : RegFile) (f : FFmt) (src : EFmt) (va : Nat) (e : Int) (nfp : Bool) : List (List Conv × Nat) :=
  (chunks 32 ((r.lanes va).map (fun x => (src.val x.toNat).scale e))).map (convBlock f nfp)

/-- The data bytes of blocks. -/
def blockData (f : FFmt) (blocks : List (List Conv × Nat)) : List Byte :=
  let codes := blocks.flatMap (fun b => b.1.map (fun c => c.code))
  if f = .e2m1 then packE2m1 codes else codes.map (BitVec.ofNat 8)

/-- The scale bytes of blocks, each with its place in the scale register. -/
def blockScales (f : FFmt) (vd part : Nat) (blocks : List (List Conv × Nat)) : List (Nat × Byte) :=
  ((List.range blocks.length).zip (blocks.map (fun b => BitVec.ofNat 8 b.2))).map
    (fun p => (scaleAt vd (128 * part + p.1 * blockLen f) (blockLen f), p.2))

theorem RegFile.vcvtEffect_toBlock (r : RegFile) (f : FFmt) (src : EFmt) (vd va vb part : Nat) (e : Int) (nfp : Bool) :
    (vcvtEffect r (.toBlock f) src vd va vb part e nfp).1 =
      (r.vecWrite vd (128 * part) (blockData f (r.blocksOf f src va e nfp))).storeScales (vd / 8) vb
        (blockScales f vd part (r.blocksOf f src va e nfp)) := by
  rw [RegFile.storeScales, blockScales, List.foldl_map]
  rfl

theorem blockLen_bounds (f : FFmt) : 16 ≤ blockLen f ∧ blockLen f ≤ 32 := by
  rw [blockLen]
  split <;> decide

/-- The lanes of a register make four blocks of 32. -/
theorem RegFile.length_blocksOf (r : RegFile) (f : FFmt) (src : EFmt) (va : Nat) (e : Int) (nfp : Bool) :
    (r.blocksOf f src va e nfp).length = 4 ∧ ∀ b ∈ r.blocksOf f src va e nfp, b.1.length = 32 := by
  obtain ⟨hcount, hparts⟩ := chunks_of_length (n := 32) (m := 4) (by decide)
    (l := (r.lanes va).map (fun x => (src.val x.toNat).scale e)) (by simp)
  refine ⟨(List.length_map _).trans hcount, fun b hb => ?_⟩
  obtain ⟨p, hp, rfl⟩ := List.mem_map.1 hb
  rw [convBlock, List.length_map, hparts p hp]

theorem RegFile.length_blockData (r : RegFile) (f : FFmt) (src : EFmt) (va : Nat) (e : Int) (nfp : Bool) :
    (blockData f (r.blocksOf f src va e nfp)).length = 4 * blockLen f := by
  obtain ⟨hcount, hparts⟩ := r.length_blocksOf f src va e nfp
  have hcodes : ((r.blocksOf f src va e nfp).flatMap (fun b => b.1.map (fun c => c.code))).length = 128 := by
    rw [length_flatMap_of_forall (n := 32), hcount]
    intro b hb
    rw [List.length_map, hparts b hb]
  rw [blockData, blockLen]
  split
  · rw [length_packE2m1, hcodes]
  · rw [List.length_map, hcodes]

/-- The scales of a part's blocks lie in one register, at the places of those blocks. -/
theorem RegFile.mem_blockScales (r : RegFile) (f : FFmt) (src : EFmt) (vd va : Nat) {part : Nat} (hp : part < 4) (e : Int)
    (nfp : Bool) {p : Nat × Byte} (h : p ∈ blockScales f vd part (r.blocksOf f src va e nfp)) :
    p.1 < 512 ∧ ∃ i, i < 4 ∧ p.1 = scaleAt vd (128 * part + i * blockLen f) (blockLen f) := by
  obtain ⟨q, hq, rfl⟩ := List.mem_map.1 h
  have hi : q.1 < 4 := by
    rw [← (r.length_blocksOf f src va e nfp).1]
    exact List.mem_range.1 (List.of_mem_zip hq).1
  obtain ⟨hlo, hhi⟩ := blockLen_bounds f
  have hplace : q.1 * blockLen f ≤ 3 * 32 := Nat.mul_le_mul (by omega) hhi
  exact ⟨(scaleAt_lt vd (by omega) hlo).trans (by decide), q.1, hi, rfl⟩

theorem RegFile.wrote_vcvt_toBlock (r : RegFile) (f : FFmt) (src : EFmt) (vd va vb : Nat) {part : Nat} (hp : part < 4)
    (e : Int) (nfp : Bool) : r.wrote (vcvtEffect r (.toBlock f) src vd va vb part e nfp).1 [vd / 8, vb / 8]
      ((VcvtKind.toBlock f).fills vd vb part) := by
  have hlen := r.length_blockData f src va e nfp
  have hmax := (blockLen_bounds f).2
  rw [RegFile.vcvtEffect_toBlock]
  refine RegFile.wrote_storeScales (r.wrote_vecWrite (by omega) fun b hlo hhi => .inl ⟨rfl, hlo, ?_⟩) fun p h => ?_
  · rw [hlen] at hhi
    exact hhi
  · obtain ⟨hlt, hplace⟩ := r.mem_blockScales f src vd va hp e nfp h
    exact ⟨hlt, .inr ⟨rfl, hplace⟩⟩

/-- What a `vcvt` writes, kind by kind (R96, R119). -/
theorem RegFile.wrote_vcvtEffect (r : RegFile) (k : VcvtKind) (src : EFmt) (vd va vb : Nat) {part : Nat} (hp : part < 4)
    (e : Int) (nfp : Bool) :
    r.wrote (vcvtEffect r k src vd va vb part e nfp).1 (match k with
      | .toBlock _ => [vd / 8, vb / 8]
      | _ => [vd / 8]) (k.fills vd vb part) := by
  cases k with
  | narrow d => exact r.wrote_vcvt_narrow vd hp (by simp)
  | toBf16 => exact r.wrote_vcvt_half vd part (by rw [length_flatMap_leBytes]; simp)
  | widen f d => exact r.wrote_vcvt_whole vd (by simp)
  | fromBlock f => exact r.wrote_vcvt_whole vd (by simp)
  | fromBf16 => exact r.wrote_vcvt_whole vd (by simp)
  | toBlock f => exact r.wrote_vcvt_toBlock f src vd va vb hp e nfp
  | lane d => exact r.wrote_vcvt_whole vd (by simp)

/-- A count of conversions touches nothing that retiring does. -/
theorem State.retire_noteConv (s : State) (g : BitVec 6) (f : RSlot) (evs : List CEvent) (c t : Nat) (n : Word)
    (mis : Bool) : (s.noteConv g f evs).retire c t n mis = (s.retire c t n mis).noteConv g f evs := by
  unfold State.noteConv
  split <;> cases mis <;> rfl

@[simp] theorem State.cores_noteConv (s : State) (g : BitVec 6) (f : RSlot) (evs : List CEvent) :
    (s.noteConv g f evs).cores = s.cores := by
  unfold State.noteConv
  split <;> rfl

theorem State.sameButCores.noteConv {s u : State} (h : s.sameButCores u) (g : BitVec 6) (f : RSlot) (evs : List CEvent) :
    { u.noteConv g f evs with cores := s.cores } = s.noteConv g f evs := by
  rw [← (h : { u with cores := s.cores } = s)]
  unfold State.noteConv
  split <;> rfl

/-- The unused low bits of an extension field, as R97 and R96 state them. -/
theorem bitsOf_zero_ne (v n : Nat) : (bitsOf v 0 n != 0) = decide (v % 2 ^ n ≠ 0) := by
  rw [bitsOf, Nat.pow_zero, Nat.div_one, decide_not]
  rfl

/-- A frame of the cores speaks of the cores alone. -/
theorem State.coresFrame.of_cores {s u v : State} {c : CoreId} {t : StrandId} {back : Core → Core} {misfit : Bool}
    (h : s.coresFrame u c t misfit back) (hc : v.cores = u.cores) : s.coresFrame v c t misfit back := by
  unfold State.coresFrame State.strand State.core at *
  rw [hc]
  exact h

section
variable {s : State} {c : CoreId} {t : StrandId} {w : VWord} (hi : s.issues c t = true)
include hi

theorem exec_vcvt {src : EFmt} {k : VcvtKind} (hk : vcvtOf w = some (src, k)) (hm : s.vready c t (vcvtRegs w) = true) :
    let o := vcvtEffect (s.core c).regs k src (vreg w.vd) (vreg w.va) (vreg w.vb) (vcvtPart w) (vcvtE w) (vcvtNfp w)
    exec (.vcvt c t w) s = .next (((s.modRegs c (fun _ => o.1)).retire c t 8
      (bitsOf w.ext.toNat 0 3 != 0)).noteConv (vcvtGroup w) o.2.1 o.2.2) := by
  intro o
  refine (exec_vector hi hm (i := .vcvt c t w) rfl (List.Subset.refl _) (by rw [hk]; rfl)).trans
    (congrArg Host.Outcome.next ?_)
  rw [hk]
  exact State.retire_noteConv _ _ _ _ c t 8 _

theorem exec_rred {v : W32}
    (hv : rredVal w.f.toNat (rredN w) ((s.core c).regs.lanes (vreg w.va)) ((s.core c).regs.lanes (vreg w.vb)) = some v)
    (hm : s.vready c t [vreg w.va, vreg w.vb, vreg w.vd] = true) : exec (.rred c t w) s =
      .next ((s.modRegs c (fun r => r.vecWrite (vreg w.vd) (4 * rredLn w) (leBytes 4 v.toNat))).retire c t 8
        (bitsOf w.ext.toNat 0 6 != 0)) := by
  have hmode : w.f.toNat ≤ 4 := by
    by_contra hgt
    obtain ⟨k, hk⟩ : ∃ k, w.f.toNat = k + 5 := ⟨w.f.toNat - 5, by omega⟩
    rw [hk] at hv
    cases hv
  rw [exec_vector hi hm (i := .rred c t w) rfl (by split <;> simp) (decide_eq_true hmode)]
  simp only [State.lanes, hv, Option.getD_some]

theorem exec_rred2 (hvd : vreg w.vd ≠ 255)
    (hm : s.vready c t [vreg w.va, vreg w.vb, vreg w.vc, vreg w.vd, vreg w.vd + 1] = true) :
    let p := List.zipWith fmul ((s.core c).regs.lanes (vreg w.va)) ((s.core c).regs.lanes (vreg w.vb))
    exec (.rred2 c t w) s = .next ((s.modRegs c (fun r => r.vecWrite2 (vreg w.vd) (4 * rredLn w)
      (leBytes 4 (laneTree fadd (padTerms (rredN w) 0 p)).toNat) (vreg w.vd + 1) (4 * rredLn w)
      (leBytes 4 (laneTree fadd (padTerms (rredN w) 0 (List.zipWith fmul p ((s.core c).regs.lanes (vreg w.vc))))).toNat)
      )).retire c t 8 (w.f != 0 || bitsOf w.ext.toNat 0 6 != 0)) := by
  intro p
  refine exec_vector hi hm (i := .rred2 c t w) rfl (List.Subset.refl _) ?_
  rw [bne_iff_ne]
  rintro h
  exact hvd (by rw [h]; rfl)

end

/-- Settles O6: a conversion writes what `vcvtEffect` gives, within the part or the blocks that its kind fills; a
reduction writes one lane of its registers. -/
theorem vectorConvertAndReduce : Obligations.VectorConvertAndReduce := by
  unfold Obligations.VectorConvertAndReduce
  intro c t w s hi r vd ln n mis
  have hln : ln < 128 := Nat.mod_lt _ (by decide)
  have hmis : (bitsOf w.ext.toNat 0 6 != 0) = mis := bitsOf_zero_ne _ 6
  refine ⟨fun src k hk hm => ?vcvt, fun v hv hm => ?rred, fun hvd hm => ?rred2⟩
  case vcvt =>
    intro o
    obtain ⟨hip, hcores, hsame⟩ := s.retire_modRegs c t (fun _ => o.1) 8 (bitsOf w.ext.toNat 0 3 != 0)
    have hregs : ((((s.modRegs c (fun _ => o.1)).retire c t 8 (bitsOf w.ext.toNat 0 3 != 0)).noteConv (vcvtGroup w) o.2.1
        o.2.2).core c).regs = o.1 := by
      rw [State.core_congr (State.cores_noteConv _ _ _ _), State.regs_retire]
    refine ⟨_, exec_vcvt hi hk hm, hregs, ?_, ?_, ?_, hsame.noteConv _ _ _⟩
    · rw [State.movedOn, State.strand_congr (State.cores_noteConv _ _ _ _)]
      exact hip
    · rw [hregs]
      have h := r.wrote_vcvtEffect k src vd (vreg w.va) (vreg w.vb) (part := vcvtPart w) (Nat.mod_lt _ (by decide))
        (vcvtE w) (vcvtNfp w)
      cases k <;> exact h
    · have hext : (bitsOf w.ext.toNat 0 3 != 0) = decide (w.ext.toNat % 8 ≠ 0) := bitsOf_zero_ne _ 3
      exact hext ▸ hcores.of_cores (State.cores_noteConv _ _ _ _)
  case rred =>
    refine ⟨_, exec_rred hi hv hm, ?_, ?_⟩
    · rw [State.regs_retire]
      exact r.lane_vecWrite_lane vd hln v
    · rw [← hmis]
      exact State.vectorDone_of _ _ (r.wrote_vecWrite_lane vd hln v)
  case rred2 =>
    intro p
    obtain ⟨hfirst, hsecond, hwrote⟩ := r.vecWrite2_lanes vd hln (laneTree fadd (padTerms n 0 p))
      (laneTree fadd (padTerms n 0 (List.zipWith fmul p (r.lanes (vreg w.vc)))))
    refine ⟨_, exec_rred2 hi hvd hm, ?_, ?_, ?_⟩
    · rw [State.regs_retire]
      exact hfirst
    · rw [State.regs_retire]
      exact hsecond
    · have hboth : (mis || decide (w.f ≠ 0)) = (w.f != 0 || bitsOf w.ext.toNat 0 6 != 0) := by
        rw [hmis, Bool.or_comm, decide_not]
        rfl
      rw [hboth]
      exact State.vectorDone_of _ _ hwrote

/-! ## `vld` and `vst` (R99) -/

section
variable {s : State} {c : CoreId} {t : StrandId} {w : VMWord} (hi : s.issues c t = true)
  (hp : s.storePending c t = false) (hm : s.vready c t [vreg w.vv] = true)
include hi hp hm

theorem exec_vld : exec (.vld c t w) s = .next (((s.modRegs c (fun r => r.vecWrite (vreg w.vv) 0
    (s.spadRead c (s.vOffset c t w) 512))).outOfCapIf (spadPast (s.vOffset c t w) 512)).retire c t 8 (w.rsv != 0)) :=
  congrArg Host.Outcome.next (State.issue_of_issues _ hi (by rw [hm, hp]; rfl))

theorem exec_vst : exec (.vst c t w) s = .next (((s.storeList (spadBytes c (s.vOffset c t w)
    ((s.core c).regs.vec (vreg w.vv)))).outOfCapIf (spadPast (s.vOffset c t w) 512)).retire c t 8 (w.rsv != 0)) :=
  congrArg Host.Outcome.next (State.issue_of_issues _ hi (by rw [hm, hp]; rfl))

end

/-- Settles O7: byte `b` of the register answers to byte `off + b` of the scratchpad, where there is one. -/
theorem vectorMemory : Obligations.VectorMemory := by
  unfold Obligations.VectorMemory
  intro c t w s hi hp hm off mis past
  have hoff : (s.vOffset c t w).toNat = off := toNat_clearLow _ (k := 6) (by decide)
  have hpast : spadPast (s.vOffset c t w) 512 = past := by rw [spadPast_eq _ (by decide), hoff]
  refine ⟨?vld, ?vst⟩
  case vld =>
    have hlen : (s.spadRead c (s.vOffset c t w) 512).length = 512 := State.length_spadRead ..
    obtain ⟨hip, hcores, hsame⟩ :=
      s.retire_modRegs c t (fun r => r.vecWrite (vreg w.vv) 0 (s.spadRead c (s.vOffset c t w) 512)) 8 mis
    refine ⟨_, exec_vld hi hp hm, ?_⟩
    rw [State.retire_outOfCapIf, hpast, State.core_congr (State.cores_outOfCapIf _ _), State.regs_retire]
    refine ⟨fun b hb => ?_, RegFile.wrote_vecWrite_whole _ _ hlen, ?_, hcores.of_cores (State.cores_outOfCapIf _ _),
      hsame.outOfCapIf _⟩
    · rw [RegFile.byte_vecWrite_whole _ _ hlen hb, State.getD_spadRead _ _ _ hb, hoff]
    · rw [State.movedOn, State.strand_congr (State.cores_outOfCapIf _ _)]
      exact hip
  case vst =>
    have hlen := RegFile.length_vec (s.core c).regs (vreg w.vv)
    obtain ⟨hip, hcores, hmem, hnet, hrest⟩ :=
      s.retire_storeList c t (spadBytes c (s.vOffset c t w) ((s.core c).regs.vec (vreg w.vv)))
        (spadPast (s.vOffset c t w) 512) 8 mis
    refine ⟨_, exec_vst hi hp hm, hip, hcores, fun b hb hin => ?_, fun k hk => ?_, hnet, hrest.trans (by rw [hpast])⟩
    · rw [hmem, ← hoff, Mem.byte_spadBytes _ _ (by omega) (by omega), RegFile.getD_vec _ _ hb]
    · rw [hmem]
      refine s.mem.byte_spadBytes_out c fun b hb hin he => hk ?_
      rw [hlen] at hb
      rw [hoff] at hin he
      exact ⟨b, hb, hin, he⟩

end Sys2Proof.Machine
end

section
/-! SUPPORT. Why the obligation on the tile path (O8) fails: its clause on TLOAD_COMPLETE takes any core. -/

namespace Sys2Proof.Machine

/-- Core 0 is parked with its registers kept in the slow tier (10 R362), and a `tload` to tile 31 was on its tile
path. -/
def parkedLoadState : State :=
  { cores := [(0, { run := { state := .parked, holds := false },
                    eng := { tops := [.load 0 31 markAny [(0, 1)]] } })] }

/-- TLOAD_COMPLETE waits while the core is parked without its registers. -/
theorem exec_tloadComplete_of_gated {s : State} {c : CoreId} (h : s.gated c = true) (tile : BitVec 5) :
    exec (.tloadComplete c tile) s = .next s :=
  congrArg Host.Outcome.next (if_pos h)

/-- Refutes O8: the clause on TLOAD_COMPLETE does not ask that the core holds its registers, and a core parked without
them keeps the load in progress. -/
theorem not_tiles : ¬ Obligations.Tiles := by
  unfold Obligations.Tiles
  rintro ⟨-, hload, -⟩
  obtain ⟨u, hu, -, -, hcore, -⟩ := hload 0 31 parkedLoadState 0 markAny [(0, 1)] rfl (by decide) (by decide)
  obtain rfl : parkedLoadState = u :=
    Host.Outcome.next.inj ((exec_tloadComplete_of_gated (by decide) 31).symm.trans hu)
  have htops := congrArg (fun k : Core => k.eng.tops.length) hcore
  exact absurd htops (by decide)

end Sys2Proof.Machine
end

section
/-! SUPPORT. How a wait returns or blocks its strand, and the obligation on the issue of the waits (O16). -/

namespace Sys2Proof.Machine

/-! ## Frames -/

theorem State.sameButCores.eq {s u : State} (h : s.sameButCores u) : u = { s with cores := u.cores } := by
  unfold State.sameButCores at h
  rw [← h]

/-- A frame that counts, and one that does not. -/
theorem State.coresFrame.trans_uncounted {s u v : State} {c t : Nat} {mis : Bool} (h : s.coresFrame u c t mis id)
    (g : u.coresFrame v c t false id) : s.coresFrame v c t mis id := by
  obtain ⟨hcores, hstrands, hcore⟩ := h
  obtain ⟨gcores, gstrands, gcore⟩ := g
  refine ⟨fun d hd => (gcores d hd).trans (hcores d hd), fun x hx => (gstrands x hx).trans (hstrands x hx), ?_⟩
  rw [Core.counted_false] at gcore
  rw [← hcore, ← gcore]
  rfl

theorem State.coresFrame.eng_eq {s u : State} {c t : Nat} {mis : Bool} (h : s.coresFrame u c t mis id) :
    (u.core c).eng = (s.core c).eng := by
  have heng := congrArg Core.eng h.2.2
  cases mis <;> exact heng

/-! ## A strand that blocks (R108) -/

theorem State.blockedOn_block {s u : State} {c t : Nat} {mis : Bool} (hip : s.movedOn u c t 8)
    (hcores : s.coresFrame u c t mis id) (w : Wait) : s.blockedOn (u.block c t w) c t w mis := by
  refine ⟨?_, hcores.trans_uncounted (State.coresFrame_modStrand _ _ _ _)⟩
  rw [State.block, State.strand_modStrand_same, hip]

/-- The strand waits once its instruction has retired. -/
theorem State.retire_block (s : State) (c t : Nat) (mis : Bool) (w : Wait) :
    s.blockedOn ((s.retire c t 8 mis).block c t w) c t w mis ∧ s.sameButCores ((s.retire c t 8 mis).block c t w) := by
  obtain ⟨hip, hcores, hsame⟩ := State.retire_done s c t 8 mis
  exact ⟨State.blockedOn_block hip hcores w, hsame.trans (State.sameButCores_modStrand _ _ _ _)⟩

theorem State.blockedOn.of_cores {s u v : State} {c t : Nat} {w : Wait} {mis : Bool} (h : s.blockedOn u c t w mis)
    (hc : v.cores = u.cores) : s.blockedOn v c t w mis :=
  ⟨(State.strand_congr hc c t).trans h.1, h.2.congr hc⟩

/-- A packet sent from a state that differs in its cores alone. -/
theorem State.sameButCores.post {s u : State} (h : s.sameButCores u) {p : Packet} (hr : s.routable p = true) :
    (u.post p).cores = u.cores ∧ { u.post p with cores := s.cores } = s.sent [p] := by
  have hu : u.routable p = true := by rw [h.eq]; exact hr
  rw [State.post_of_routable hu]
  exact ⟨rfl, congrArg (State.sent · [p]) h⟩

/-- A wait registered from a state that differs in its cores alone (R217). -/
theorem State.sameButCores.register {s u : State} (h : s.sameButCores u) (c t : Nat) (a v : Word) :
    let g := SMap.get 0 s.net.waitGen (4 * c + t) + 1
    let p : Packet := { s.coreHdr c (t + 4 * g.toNat) with op := 6, dst := a, aux := v }
    s.routable p = true → (u.register c t a v).cores = u.cores ∧
      { u.register c t a v with cores := s.cores } = State.sent { s with net := { s.net with
        waitGen := SMap.set s.net.waitGen (4 * c + t) g } } [p] := by
  intro g p hr
  rw [h.eq]
  exact State.sameButCores.post (s := { s with net := { s.net with waitGen := SMap.set s.net.waitGen (4 * c + t) g } })
    (u := { s with cores := u.cores, net := { s.net with waitGen := SMap.set s.net.waitGen (4 * c + t) g } }) rfl hr

/-! ## A strand that returns (R105, R108, R109) -/

/-- The remote status bit of a status (R105). -/
def rstatBit (st : BitVec 3) : BitVec 2 := if st = stAbsent then 1 else if st = stBroken then 2 else 0

theorem State.noteStatus_eq (s : State) (c t : Nat) (st : BitVec 3) : s.noteStatus c t st = s ∧ rstatBit st = 0 ∨
    s.noteStatus c t st = s.modStrand c t (fun x => { x with rstat := x.rstat ||| rstatBit st }) := by
  unfold State.noteStatus rstatBit
  split
  · exact .inr rfl
  split
  · exact .inr rfl
  · exact .inl ⟨rfl, rfl⟩

theorem State.strand_noteStatus (s : State) (c t : Nat) (st : BitVec 3) : (s.noteStatus c t st).strand c t =
    { s.strand c t with rstat := (s.strand c t).rstat ||| rstatBit st } := by
  obtain ⟨he, hz⟩ | he := s.noteStatus_eq c t st
  · simp [he, hz]
  · rw [he, State.strand_modStrand_same]

theorem State.coresFrame_noteStatus (s : State) (c t : Nat) (st : BitVec 3) :
    s.coresFrame (s.noteStatus c t st) c t false id := by
  obtain ⟨he, -⟩ | he := s.noteStatus_eq c t st
  · rw [he]; exact State.coresFrame.refl s c t
  · rw [he]; exact State.coresFrame_modStrand s c t _

theorem State.sameButCores_noteStatus (s : State) (c t : Nat) (st : BitVec 3) :
    s.sameButCores (s.noteStatus c t st) := by
  obtain ⟨he, -⟩ | he := s.noteStatus_eq c t st
  · rw [he]; exact State.sameButCores.refl s
  · rw [he]; exact State.sameButCores_modStrand s c t _

@[simp] theorem State.cores_absentIf (s : State) (c : Nat) (st : BitVec 3) : (s.absentIf c st).cores = s.cores := by
  unfold State.absentIf
  split <;> rfl

theorem State.sameButCores.absentIf {s u : State} (h : s.sameButCores u) (c : Nat) (st : BitVec 3) :
    { u.absentIf c st with cores := s.cores } = s.absentIf c st := by
  unfold State.absentIf
  split
  · exact congrArg (State.countAbsent · c) h
  · exact h

theorem State.returned.of_cores {s u v : State} {c t : Nat} {n x : Word} {sd : BitVec 5} {st : BitVec 3} {mis : Bool}
    (h : s.returned u c t n sd x st mis) (hc : v.cores = u.cores) : s.returned v c t n sd x st mis := by
  obtain ⟨hw, hs, hf⟩ := h
  have hstrand := State.strand_congr hc c t
  refine ⟨fun r => (State.sreg_strand (by rw [hstrand]) r).trans (hw r), ?_, hf.congr hc⟩
  rw [hstrand]
  exact hs

/-- A wait returns a value and a status to its strand, and an absent peer is counted. -/
theorem State.karrDone_returned (s : State) (c t : Nat) (sd : BitVec 5) (v : Word) (st : BitVec 3) :
    s.returned (s.karrDone c t sd v st) c t 0 sd v st false ∧
    { s.karrDone c t sd v st with cores := s.cores } = s.absentIf c st := by
  let x := s.block c t .none
  let y := x.setSreg c t sd v
  have hx : x.strand c t = { s.strand c t with wait := .none } := State.strand_modStrand_same ..
  have hy : y.strand c t = { x.strand c t with regs := (y.strand c t).regs } := State.strand_setSreg ..
  have hz : (y.noteStatus c t st).strand c t = { y.strand c t with rstat := (y.strand c t).rstat ||| rstatBit st } :=
    State.strand_noteStatus ..
  have hw : s.wrote (y.noteStatus c t st) c t sd v := fun r => by
    rw [State.sreg_strand (u := y.noteStatus c t st) (s := y) (by rw [hz]), State.sreg_setSreg,
      State.sreg_strand (u := x) (s := s) (by rw [hx])]
  have hstrand : (y.noteStatus c t st).strand c t = { s.strand c t with
      ip := (s.strand c t).ip + 0, wait := .none, regs := ((y.noteStatus c t st).strand c t).regs,
      rstat := (s.strand c t).rstat ||| rstatBit st } := by
    rw [hz, hy, hx, show (s.strand c t).ip + 0 = (s.strand c t).ip from BitVec.add_zero _]
  have hcores : s.coresFrame (y.noteStatus c t st) c t false id :=
    ((State.coresFrame_modStrand s c t _).trans (State.coresFrame_setSreg x c t sd v)).trans
      (State.coresFrame_noteStatus y c t st)
  have hsame : s.sameButCores (y.noteStatus c t st) :=
    ((State.sameButCores_modStrand s c t _).trans (State.sameButCores_setSreg x c t sd v)).trans
      (State.sameButCores_noteStatus y c t st)
  exact ⟨State.returned.of_cores ⟨hw, hstrand, hcores⟩ (State.cores_absentIf _ c st), hsame.absentIf c st⟩

/-- `twait` and `kwait` return the code of their status. -/
theorem State.unblock_returned (s : State) (c t : Nat) (sd : BitVec 5) (st : BitVec 3) :
    s.returned (s.unblock c t sd st) c t 0 sd (waitCode st) st false ∧
    { s.unblock c t sd st with cores := s.cores } = s.absentIf c st := s.karrDone_returned c t sd (waitCode st) st

/-- A wait that returns once its instruction has retired. -/
theorem State.retire_unblock (s : State) (c t : Nat) (mis : Bool) (sd : BitVec 5) {st : BitVec 3} (hst : st ≠ stAbsent) :
    s.returned ((s.retire c t 8 mis).unblock c t sd st) c t 8 sd (waitCode st) st mis ∧
    s.sameButCores ((s.retire c t 8 mis).unblock c t sd st) := by
  obtain ⟨hip, hcores, hsame⟩ := State.retire_done s c t 8 mis
  obtain ⟨⟨hw, hs, hf⟩, hrest⟩ := (s.retire c t 8 mis).unblock_returned c t sd st
  rw [State.absentIf, if_neg hst] at hrest
  refine ⟨⟨fun r => ?_, ?_, hcores.trans_uncounted hf⟩, hsame.trans hrest⟩
  · rw [hw r, State.sreg_strand (u := s.retire c t 8 mis) (s := s) (by rw [hip])]
  · rw [show ((s.retire c t 8 mis).strand c t).ip + 0 = _ from BitVec.add_zero _] at hs
    rw [hs, hip]

/-! ## What a wait looks at (R217, R226) -/

theorem State.sameButCores.ownTally {s u : State} (h : s.sameButCores u) (c : Nat) (a : Word) :
    u.ownTally c a = s.ownTally c a := by
  rw [h.eq]; rfl

theorem State.sameButCores.tallyAnswer {s u : State} (h : s.sameButCores u) (key : Nat) (v : Word) :
    u.tallyAnswer key v = s.tallyAnswer key v := by
  rw [h.eq]; rfl

theorem State.tallyAnswer_broken {s : State} {key : Nat} (h : s.broken key = true) (v : Word) :
    s.tallyAnswer key v = some stBroken := if_pos h

theorem State.tallyAnswer_reached {s : State} {key : Nat} {v : Word} (h : s.broken key = false)
    (hv : v ≤ s.mem.word key) : s.tallyAnswer key v = some stOk := by
  rw [State.tallyAnswer, h, if_neg Bool.false_ne_true, if_pos hv]

theorem State.tallyAnswer_waits {s : State} {key : Nat} {v : Word} (h : s.broken key = false)
    (hv : s.mem.word key < v) : s.tallyAnswer key v = none := by
  rw [State.tallyAnswer, h, if_neg Bool.false_ne_true, if_neg (BitVec.not_le.2 hv)]

theorem State.roundSeen_retire (s : State) (c t : Nat) (n : Word) (mis : Bool) (a x : Word) :
    (s.retire c t n mis).roundSeen c a x = s.roundSeen c a x := by
  obtain ⟨-, hcores, hsame⟩ := State.retire_done s c t n mis
  unfold State.roundSeen
  rw [hcores.eng_eq, hsame.eq]
  rfl

/-! ## The issue of a wait -/

section
variable {s : State} {c : CoreId} {t : StrandId} {w : MWord} (hi : s.issues c t = true)
  (hp : s.storePending c t = false) (hmc : w.mc = false)
include hi hp hmc

/-- A `twait` on a tally of the core's own scratchpad that lets it go. -/
theorem exec_twait_returns (ha : tallySpace (s.sreg c t w.sb) = true) {key : Nat} {st : BitVec 3}
    (hk : s.ownTally c (s.sreg c t w.sb) = some key) (hst : s.tallyAnswer key (s.sreg c t w.sc) = some st) :
    exec (.twait c t w) s =
      .next ((s.retire c t 8 (mUnused w { sb := true, sc := true, sd := true })).unblock c t w.sd st) := by
  obtain ⟨-, -, hsame⟩ := State.retire_done s c t 8 (mUnused w { sb := true, sc := true, sd := true })
  refine congrArg Host.Outcome.next ((State.issue_of_issues _ hi (by rw [hp]; rfl)).trans ?_)
  simp only [hmc, ha, hsame.ownTally, hk, hsame.tallyAnswer, hst, Bool.not_true, Bool.or_self, if_neg Bool.false_ne_true]

/-- A `twait` on a tally of the core's own scratchpad that holds it. -/
theorem exec_twait_blocks (ha : tallySpace (s.sreg c t w.sb) = true) {key : Nat}
    (hk : s.ownTally c (s.sreg c t w.sb) = some key) (hst : s.tallyAnswer key (s.sreg c t w.sc) = none) :
    exec (.twait c t w) s = .next ((s.retire c t 8 (mUnused w { sb := true, sc := true, sd := true })).block c t
      (.twait (s.sreg c t w.sb) (s.sreg c t w.sc) w.sd)) := by
  obtain ⟨-, -, hsame⟩ := State.retire_done s c t 8 (mUnused w { sb := true, sc := true, sd := true })
  refine congrArg Host.Outcome.next ((State.issue_of_issues _ hi (by rw [hp]; rfl)).trans ?_)
  simp only [hmc, ha, hsame.ownTally, hk, hsame.tallyAnswer, hst, Bool.not_true, Bool.or_self, if_neg Bool.false_ne_true]

/-- A `twait` on any other tally. -/
theorem exec_twait_other (ha : tallySpace (s.sreg c t w.sb) = true) (hk : s.ownTally c (s.sreg c t w.sb) = none) :
    exec (.twait c t w) s = .next (((s.retire c t 8 (mUnused w { sb := true, sc := true, sd := true })).block c t
      (.twait (s.sreg c t w.sb) (s.sreg c t w.sc) w.sd)).register c t (s.sreg c t w.sb) (s.sreg c t w.sc)) := by
  obtain ⟨-, -, hsame⟩ := State.retire_done s c t 8 (mUnused w { sb := true, sc := true, sd := true })
  refine congrArg Host.Outcome.next ((State.issue_of_issues _ hi (by rw [hp]; rfl)).trans ?_)
  simp only [hmc, ha, hsame.ownTally, hk, Bool.not_true, Bool.or_self, if_neg Bool.false_ne_true]

theorem exec_karr (ha : keySpace (s.sreg c t w.sb) = true) : exec (.karr c t w) s = .next
    (((s.retire c t 8 (mUnused w { sb := true, sd := true })).block c t (.karr (s.sreg c t w.sb) w.sd)).post
      { s.coreHdr c t with op := 8, dst := s.sreg c t w.sb }) := by
  obtain ⟨-, -, hsame⟩ := State.retire_done s c t 8 (mUnused w { sb := true, sd := true })
  refine congrArg Host.Outcome.next ((State.issue_of_issues _ hi (by rw [hp]; rfl)).trans ?_)
  simp only [hmc, ha, Bool.not_true, Bool.or_self, if_neg Bool.false_ne_true]
  rw [show (s.retire c t 8 (mUnused w { sb := true, sd := true })).coreHdr c t = s.coreHdr c t by rw [hsame.eq]; rfl]

theorem exec_kwait (ha : keySpace (s.sreg c t w.sb) = true) : exec (.kwait c t w) s = .next
    (if s.roundSeen c (s.sreg c t w.sb) (s.sreg c t w.sc) = true then
      (s.retire c t 8 (mUnused w { sb := true, sc := true, sd := true })).unblock c t w.sd stOk
    else ((s.retire c t 8 (mUnused w { sb := true, sc := true, sd := true })).block c t
      (.kwait (s.sreg c t w.sb) (s.sreg c t w.sc) w.sd)).post
        { s.coreHdr c t with op := 9, dst := s.sreg c t w.sb, aux := s.sreg c t w.sc }) := by
  obtain ⟨-, -, hsame⟩ := State.retire_done s c t 8 (mUnused w { sb := true, sc := true, sd := true })
  refine congrArg Host.Outcome.next ((State.issue_of_issues _ hi (by rw [hp]; rfl)).trans ?_)
  simp only [hmc, ha, Bool.not_true, Bool.or_self, if_neg Bool.false_ne_true, State.roundSeen_retire]
  rw [show (s.retire c t 8 (mUnused w { sb := true, sc := true, sd := true })).coreHdr c t = s.coreHdr c t by
    rw [hsame.eq]; rfl]

end

/-- Settles O16: a wait that is already over returns as its instruction retires; any other blocks its strand, and its
packet is the one that a state with the same network would send. -/
theorem waitIssue : Obligations.WaitIssue := by
  unfold Obligations.WaitIssue
  intro c t w s hi hp hmc a v mis
  refine ⟨fun ha => ⟨fun key hk => ?own, fun hk => ?other⟩, fun ha => ⟨?karr, ?seen, ?waits⟩⟩
  case own =>
    refine ⟨fun hb => ?_, fun hb hv => ?_, fun hb hv => ?_⟩
    · exact ⟨_, exec_twait_returns hi hp hmc ha hk (State.tallyAnswer_broken hb v),
        s.retire_unblock c t mis w.sd (by decide)⟩
    · exact ⟨_, exec_twait_returns hi hp hmc ha hk (State.tallyAnswer_reached hb hv),
        s.retire_unblock c t mis w.sd (by decide)⟩
    · exact ⟨_, exec_twait_blocks hi hp hmc ha hk (State.tallyAnswer_waits hb hv), s.retire_block c t mis _⟩
  case other =>
    intro g p hr
    obtain ⟨hblocked, hsame⟩ := s.retire_block c t mis (.twait a v w.sd)
    obtain ⟨hcores, hrest⟩ := hsame.register c t a v hr
    exact ⟨_, exec_twait_other hi hp hmc ha hk, hblocked.of_cores hcores, hrest⟩
  case karr =>
    intro p hr
    obtain ⟨hblocked, hsame⟩ := s.retire_block c t (mUnused w { sb := true, sd := true }) (.karr a w.sd)
    obtain ⟨hcores, hrest⟩ := hsame.post hr
    exact ⟨_, exec_karr hi hp hmc ha, hblocked.of_cores hcores, hrest⟩
  case seen =>
    intro hseen
    refine ⟨_, (exec_kwait hi hp hmc ha).trans (congrArg _ (if_pos hseen)), s.retire_unblock c t mis w.sd (by decide)⟩
  case waits =>
    intro hseen p hr
    obtain ⟨hblocked, hsame⟩ := s.retire_block c t mis (.kwait a v w.sd)
    obtain ⟨hcores, hrest⟩ := hsame.post hr
    have hne : ¬s.roundSeen c a v = true := by rw [hseen]; exact Bool.false_ne_true
    exact ⟨_, (exec_kwait hi hp hmc ha).trans (congrArg _ (if_neg hne)), hblocked.of_cores hcores, hrest⟩

end Sys2Proof.Machine
end

section
/-! SUPPORT. Packets that arrive in their turn, what they do to waiting strands and to the records of a home, and the
obligation on them (O17). -/

namespace Sys2Proof.Machine

/-! ## A packet that arrives in its turn (R171) -/

theorem State.takePacket_of_takes {s : State} {p : Packet} {op : BitVec 4} (h : s.takes p op = true)
    (act : State → State) : s.takePacket p op act = act (s.takeFlight p) := by
  simp only [State.takes, Bool.and_eq_true, decide_eq_true_eq] at h
  obtain ⟨⟨⟨⟨⟨hself, hgen⟩, hop⟩, hkind⟩, hrsv⟩, hturn⟩ := h
  have hhere : ¬(!s.isSelf (packetModule p) || !s.inTurn p) = true := by rw [hself, hturn]; decide
  have hours : ¬(p.gen ≠ 1 ∨ 12 ≤ p.op.toNat) := by
    rintro (hne | hge)
    · exact hne hgen
    · exact absurd hkind (Nat.not_lt.2 hge)
  unfold State.takePacket
  rw [if_neg hhere, if_neg hours, if_neg (not_not.2 hop), if_pos hrsv]

/-- A packet that leaves flight touches the packets in flight and the credits of a link. -/
theorem State.takeFlight_flight (s : State) (p : Packet) : ∃ fl ls, s.takeFlight p =
    { s with net := { s.net with flight := fl }, lnk := { s.lnk with links := ls } } := by
  unfold State.takeFlight
  split
  · exact ⟨s.net.flight, s.lnk.links, rfl⟩
  · unfold State.freeFlight
    split
    · exact ⟨_, s.lnk.links, rfl⟩
    · exact ⟨_, _, rfl⟩

@[simp] theorem State.core_takeFlight (s : State) (p : Packet) (c : Nat) : (s.takeFlight p).core c = s.core c :=
  State.core_congr (State.takeFlight_cores s p) c

@[simp] theorem State.strand_takeFlight (s : State) (p : Packet) (c t : Nat) :
    (s.takeFlight p).strand c t = s.strand c t :=
  State.strand_congr (State.takeFlight_cores s p) c t

@[simp] theorem State.routable_takeFlight (s : State) (p q : Packet) : (s.takeFlight p).routable q = s.routable q := by
  obtain ⟨fl, ls, h⟩ := s.takeFlight_flight p
  rw [h]; rfl

@[simp] theorem State.sameTally_takeFlight (s : State) (p : Packet) (a b : Word) :
    (s.takeFlight p).sameTally a b = s.sameTally a b := by
  obtain ⟨fl, ls, h⟩ := s.takeFlight_flight p
  rw [h]; rfl

@[simp] theorem State.sameObj_takeFlight (s : State) (p : Packet) (a b : Word) :
    (s.takeFlight p).sameObj a b = s.sameObj a b := by
  obtain ⟨fl, ls, h⟩ := s.takeFlight_flight p
  rw [h]; rfl

@[simp] theorem State.waitGen_takeFlight (s : State) (p : Packet) : (s.takeFlight p).net.waitGen = s.net.waitGen := by
  obtain ⟨fl, ls, h⟩ := s.takeFlight_flight p
  rw [h]

@[simp] theorem State.waits_takeFlight (s : State) (p : Packet) : (s.takeFlight p).net.waits = s.net.waits := by
  obtain ⟨fl, ls, h⟩ := s.takeFlight_flight p
  rw [h]

@[simp] theorem State.cluster_takeFlight (s : State) (p : Packet) (k : Nat) : (s.takeFlight p).cluster k = s.cluster k :=
  State.cluster_congr (State.takeFlight_clusters s p) k

/-- A frame of the cores after a packet has left flight. -/
theorem State.returned.of_takeFlight {s u : State} {p : Packet} {c t : Nat} {n v : Word} {sd : BitVec 5} {st : BitVec 3}
    {mis : Bool} (h : (s.takeFlight p).returned u c t n sd v st mis) : s.returned u c t n sd v st mis := by
  unfold State.returned State.wrote State.sreg State.coresFrame at *
  simpa only [State.strand_takeFlight, State.core_takeFlight] using h

/-! ## The wake of a strand (R108, R217, R218) -/

section
variable {s : State} {c : CoreId} {t : StrandId} {a v : Word} {sd : BitVec 5} (hrun : (s.core c).run.state ≠ .parked)
  (hw : (s.strand c t).wait = .twait a v sd)
include hrun hw

theorem exec_strandWake_returns {key : Nat} {st : BitVec 3} (hk : s.ownTally c a = some key)
    (hst : s.tallyAnswer key v = some st) : exec (.strandWake c t) s = .next (s.unblock c t sd st) :=
  congrArg Host.Outcome.next ((if_neg hrun).trans (by simp only [hw, hk, hst]))

theorem exec_strandWake_waits {key : Nat} (hk : s.ownTally c a = some key) (hst : s.tallyAnswer key v = none) :
    exec (.strandWake c t) s = .next s :=
  congrArg Host.Outcome.next ((if_neg hrun).trans (by simp only [hw, hk, hst]))

/-- A strand that is not parked and waits for the tally of a WAKE takes it by the tag of its registration. -/
theorem State.wakeStrand_twait {p : Packet} (hs : s.sameTally a p.dst = true) : s.wakeStrand c t p =
    if p.tag.toNat / 4 ≠ (SMap.get 0 s.net.waitGen (4 * c.val + t.val)).toNat then s
    else if p.status = stFull then s.resendLater p.srcUnit p.tag a v else s.unblock c t sd p.status := by
  unfold State.wakeStrand
  simp only [if_neg hrun, hw, hs, Bool.not_true, Bool.false_or, decide_eq_true_eq]

end

/-- A WAKE for a core goes to the strand of its tag (R217). -/
theorem exec_wake {s : State} {p : Packet} {c : CoreId} {t : StrandId} (h : s.takes p 7 = true)
    (hc : p.srcUnit.toNat = c.val) (ht : p.tag.toNat % 4 = t.val) :
    exec (.wake p) s = .next ((s.takeFlight p).wakeStrand c t p) := by
  refine congrArg Host.Outcome.next ((State.takePacket_of_takes h _).trans ?_)
  simp only [hc, ht, if_pos c.isLt]

/-- A WAIT_REG answered FULL sets out again (R218). -/
theorem exec_waitRegResend {s : State} {pos : Nat} {p : Packet} (h : s.net.resend[pos]? = some p)
    (hr : s.routable p = true) : exec (.waitRegResend pos) s = .next
      (State.sent { s with net := { s.net with resend := s.net.resend.eraseIdx pos } } [p]) := by
  refine congrArg Host.Outcome.next ?_
  simp only [h]
  exact State.post_of_routable hr

/-! ## K_RELEASE (R225, R226) -/

/-- What a K_RELEASE with status OK does to one strand. -/
def State.strandReleased (s u : State) (c t : Nat) (p : Packet) : Prop :=
  (∀ a x sd, (s.strand c t).wait = .kwait a x sd → s.sameObj a p.dst = true → x ≤ p.aux →
    s.wrote u c t sd 0 ∧ u.strand c t = { s.strand c t with wait := .none, regs := (u.strand c t).regs }) ∧
  ((∀ a x sd, (s.strand c t).wait = .kwait a x sd → s.sameObj a p.dst = false ∨ p.aux < x) →
    u.strand c t = s.strand c t)

/-- It speaks of the strand before and after, and of the names of objects. -/
theorem State.strandReleased.congr {s s' u u' : State} {c t : Nat} {p : Packet} (h : s.strandReleased u c t p)
    (hs : s'.strand c t = s.strand c t) (ho : ∀ a b, s'.sameObj a b = s.sameObj a b)
    (hu : u'.strand c t = u.strand c t) : s'.strandReleased u' c t p := by
  unfold State.strandReleased State.wrote State.sreg at *
  simpa only [hs, ho, hu] using h

/-- Every field but the cores is as before, and of the cores only strands of core `c` have changed. -/
def State.strandsOnly (s u : State) (c : Nat) : Prop :=
  s.sameButCores u ∧ (∀ d, d ≠ c → u.core d = s.core d) ∧ { u.core c with strands := (s.core c).strands } = s.core c

theorem State.strandsOnly.refl (s : State) (c : Nat) : s.strandsOnly s c := ⟨rfl, fun _ _ => rfl, rfl⟩

theorem State.strandsOnly.trans {s u v : State} {c : Nat} (h : s.strandsOnly u c) (g : u.strandsOnly v c) :
    s.strandsOnly v c := by
  obtain ⟨hsame, hcores, hcore⟩ := h
  obtain ⟨gsame, gcores, gcore⟩ := g
  refine ⟨hsame.trans gsame, fun d hd => (gcores d hd).trans (hcores d hd), ?_⟩
  rw [← hcore, ← gcore]

theorem State.strandsOnly.sameObj {s u : State} {c : Nat} (h : s.strandsOnly u c) (a b : Word) :
    u.sameObj a b = s.sameObj a b := by
  rw [h.1.eq]; rfl

/-- Strands of a core whose engine has changed. -/
theorem State.strandsOnly.of_modEng {s u : State} {c : Nat} {f : Engine → Engine} (h : (s.modEng c f).strandsOnly u c) :
    s.sameButCores u ∧ (∀ d, d ≠ c → u.core d = s.core d) ∧
    { u.core c with strands := (s.core c).strands, eng := (s.core c).eng } = s.core c ∧
    (u.core c).eng = f (s.core c).eng := by
  obtain ⟨hsame, hcores, hcore⟩ := h
  rw [State.core_modEng_same] at hcore
  exact ⟨(State.sameButCores_modCore s c _).trans hsame, fun d hd => (hcores d hd).trans (State.core_modEng_ne s f hd),
    congrArg (fun k : Core => { k with eng := (s.core c).eng }) hcore, congrArg Core.eng hcore⟩

/-- A K_RELEASE with status OK at one strand. -/
theorem State.releaseStrand_released (s : State) (c t : Nat) {p : Packet} (hst : p.status = stOk) :
    s.strandReleased (s.releaseStrand c p t) c t p ∧ s.strandsOnly (s.releaseStrand c p t) c ∧
    ∀ x, x ≠ t → (s.releaseStrand c p t).strand c x = s.strand c x := by
  have hstay (u : State) (hu : u = s) (hno : ∀ a x sd, (s.strand c t).wait = .kwait a x sd →
      ¬(s.sameObj a p.dst = true ∧ x ≤ p.aux)) :
      s.strandReleased u c t p ∧ s.strandsOnly u c ∧ ∀ x, x ≠ t → u.strand c x = s.strand c x := by
    subst hu
    exact ⟨⟨fun a x sd hw ho hx => absurd ⟨ho, hx⟩ (hno a x sd hw), fun _ => rfl⟩, State.strandsOnly.refl u c,
      fun _ _ => rfl⟩
  have hok : ¬p.status ≠ 0 := not_not.2 hst
  unfold State.releaseStrand
  split
  · next a x sd hw =>
    simp only [decide_eq_false hok, Bool.false_or, Bool.and_eq_true, decide_eq_true_eq]
    split
    · next hgo =>
      obtain ⟨⟨hwrote, hstrand, hcores, hothers, hcore⟩, hrest⟩ := s.unblock_returned c t sd p.status
      rw [hst] at hwrote hstrand hcores hothers hcore hrest ⊢
      refine ⟨⟨fun a' x' sd' hw' _ _ => ?_, fun hno => ?_⟩, ⟨hrest, hcores, hcore⟩, hothers⟩
      · obtain ⟨rfl, rfl, rfl⟩ := Wait.kwait.inj (hw.symm.trans hw')
        refine ⟨hwrote, hstrand.trans ?_⟩
        simp [stOk, stAbsent, stBroken]
      · obtain hdiff | hlt := hno a x sd hw
        · exact absurd hgo.1 (by rw [hdiff]; exact Bool.false_ne_true)
        · exact absurd hgo.2 (BitVec.not_le.2 hlt)
    · next hno =>
      refine hstay s rfl fun a' x' sd' hw' => ?_
      obtain ⟨rfl, rfl, rfl⟩ := Wait.kwait.inj (hw.symm.trans hw')
      exact hno
  · next hw => exact hstay s rfl fun a x sd hw' => absurd hw' (hw a x sd)

/-- A K_RELEASE with status OK at several strands. -/
theorem State.foldl_releaseStrand (s : State) (c : Nat) {p : Packet} (hst : p.status = stOk) {l : List Nat}
    (hl : l.Nodup) :
    let u := l.foldl (fun s t => s.releaseStrand c p t) s
    (∀ t ∈ l, s.strandReleased u c t p) ∧ s.strandsOnly u c ∧ ∀ t, t ∉ l → u.strand c t = s.strand c t := by
  induction l generalizing s with
  | nil => exact ⟨fun t ht => absurd ht List.not_mem_nil, State.strandsOnly.refl s c, fun _ _ => rfl⟩
  | cons t0 l ih =>
    intro u
    obtain ⟨hnot, hl⟩ := List.nodup_cons.1 hl
    obtain ⟨hone, hframe, hothers⟩ := s.releaseStrand_released c t0 hst
    obtain ⟨hin, hframe', hout⟩ := ih (s.releaseStrand c p t0) hl
    refine ⟨fun t ht => ?_, hframe.trans hframe', fun t ht => ?_⟩
    · rcases List.mem_cons.1 ht with rfl | ht
      · exact hone.congr rfl (fun _ _ => rfl) (hout t hnot)
      · have hne : t ≠ t0 := fun he => hnot (he ▸ ht)
        exact (hin t ht).congr (hothers t hne).symm (fun a b => (hframe.sameObj a b).symm) rfl
    · rw [List.mem_cons, not_or] at ht
      exact (hout t ht.2).trans (hothers t ht.1)

theorem exec_kRelease {s : State} {p : Packet} {c : CoreId} (h : s.takes p 10 = true) (hc : p.srcUnit.toNat = c.val)
    (hst : p.status = stOk) (hrun : (s.core c).run.state ≠ .parked) : exec (.kRelease p) s = .next
      ((List.range 4).foldl (fun u t => u.releaseStrand c p t) ((s.takeFlight p).noteRelease c p)) := by
  have hrun' : (((s.takeFlight p).noteRelease c p).core c).run.state ≠ .parked := by
    rw [State.noteRelease, State.core_modEng_same, State.core_takeFlight]
    exact hrun
  refine congrArg Host.Outcome.next ((State.takePacket_of_takes h _).trans ?_)
  simp only [hc, if_neg (Nat.not_le.2 c.isLt), if_pos (show p.status = 0 from hst), if_neg hrun']

/-! ## The reply to a `karr` (R109, R224) -/

theorem exec_karrReply_parked {s : State} {c : CoreId} {r : KReply} (hc : r.core = c.val)
    (h : (s.core c).run.state = .parked) : exec (.karrReply r) s = .next s :=
  congrArg Host.Outcome.next (if_pos ⟨hc ▸ c.isLt, hc ▸ h⟩)

theorem exec_karrReply {s : State} {c : CoreId} {t : StrandId} {r : KReply} {a : Word} {sd : BitVec 5}
    (hc : r.core = c.val) (ht : r.strand = t.val) (h : (s.core c).run.state ≠ .parked) (hw : (s.strand c t).wait = .karr a sd) :
    exec (.karrReply r) s = .next
      (State.karrDone { s with net := { s.net with replies := s.net.replies.erase r } } c t sd r.round r.status) := by
  have hin : ¬(576 ≤ r.core ∨ 4 ≤ r.strand) := by omega
  have hw' : (State.strand { s with net := { s.net with replies := s.net.replies.erase r } } r.core r.strand).wait =
      .karr a sd := by rw [hc, ht]; exact hw
  refine congrArg Host.Outcome.next ((if_neg fun hp => h (hc ▸ hp.2)).trans ?_)
  simp only [if_neg hin, hw']
  rw [hc, ht]

/-! ## WAIT_REG (R217, R218, R231) -/

section
variable {s : State} {p : Packet} {key : Nat} (h : s.takes p 6 = true) (hk : s.place (align8 p.dst) true = .mem key)
include h hk

theorem exec_waitReg_answers {st : BitVec 3} (hst : s.tallyAnswer key p.aux = some st) :
    exec (.waitReg p) s = .next ((s.takeFlight p).post (answer p 7 st)) := by
  obtain ⟨fl, ls, hf⟩ := s.takeFlight_flight p
  have hk' : (s.takeFlight p).place (align8 p.dst) true = .mem key := by rw [hf]; exact hk
  have hst' : (s.takeFlight p).tallyAnswer key p.aux = some st := by rw [hf]; exact hst
  refine congrArg Host.Outcome.next ((State.takePacket_of_takes h _).trans ?_)
  simp only [hk', hst']

theorem exec_waitReg_records (hst : s.tallyAnswer key p.aux = none) : exec (.waitReg p) s = .next
    (if (s.homeOf key).records ≤ s.recordsUsed (s.homeOf key) then
      ((s.takeFlight p).countFull (s.homeOf key)).post (answer p 7 stFull)
    else (s.takeFlight p).addRecord (s.homeOf key)
      { key := key, value := p.aux, module := p.srcModule, unit := p.srcUnit, tag := p.tag }) := by
  obtain ⟨fl, ls, hf⟩ := s.takeFlight_flight p
  have hk' : (s.takeFlight p).place (align8 p.dst) true = .mem key := by rw [hf]; exact hk
  have hst' : (s.takeFlight p).tallyAnswer key p.aux = none := by rw [hf]; exact hst
  have hhome : (s.takeFlight p).homeOf key = s.homeOf key := by rw [hf]; rfl
  have hused : (s.takeFlight p).recordsUsed (s.homeOf key) = s.recordsUsed (s.homeOf key) := by rw [hf]; rfl
  refine congrArg Host.Outcome.next ((State.takePacket_of_takes h _).trans ?_)
  simp only [hk', hst', hhome, hused]

end

/-- A record kept touches the records, and the peak of one cluster (R244). -/
theorem State.addRecord_done (s : State) (h : Home) (r : WaitRec) :
    (s.addRecord h r).net = { s.net with waits := s.net.waits ++ [r] } ∧
    (∀ k, { (s.addRecord h r).cluster k with peak := (s.cluster k).peak } = s.cluster k) ∧
    { s.addRecord h r with net := s.net, clusters := s.clusters } = s := by
  unfold State.addRecord
  split
  · next j =>
    refine ⟨rfl, fun k => ?_, rfl⟩
    by_cases hkj : k = j
    · subst hkj
      rw [State.cluster_modCluster_same]
      rfl
    · rw [State.cluster_modCluster_ne _ _ hkj]
      rfl
  · exact ⟨rfl, fun _ => rfl, rfl⟩

/-- A FULL answer is counted in the lifetime log and in its cluster (R244, R458). -/
theorem State.countFull_done (s : State) (h : Home) :
    (s.countFull h).net = s.net ∧ (s.countFull h).logGet 0x5240 = min (s.logGet 0x5240 + 1) (2 ^ 64 - 1) ∧
    (∀ k, { (s.countFull h).cluster k with full := (s.cluster k).full } = s.cluster k) ∧
    { s.countFull h with clusters := s.clusters, plb := s.plb } = s := by
  have hlog : (s.logWait 0).logGet 0x5240 = min (s.logGet 0x5240 + 1) (2 ^ 64 - 1) :=
    SMap.get_modify_same 0 s.plb.log 0x5240 (fun v => min (v + 1) (2 ^ (8 * 8) - 1))
  unfold State.countFull
  split
  · next j =>
    refine ⟨rfl, hlog, fun k => ?_, rfl⟩
    by_cases hkj : k = j
    · subst hkj
      rw [State.cluster_modCluster_same]
      rfl
    · rw [State.cluster_modCluster_ne _ _ hkj]
      rfl
  · exact ⟨rfl, hlog, fun _ => rfl, rfl⟩

theorem State.countFull_routable (s : State) (h : Home) (p : Packet) : (s.countFull h).routable p = s.routable p := by
  unfold State.countFull
  split <;> rfl

/-- Settles O17: a strand goes on by `unblock` or `karrDone`, of which `returned` says what they do; a WAIT_REG is
answered by the value of its tally and by the room of its home. -/
theorem waits : Obligations.Waits := by
  unfold Obligations.Waits
  refine ⟨⟨?strandWake, ?wake, ?resend, ?kRelease, ?karrReply⟩, ?waitReg⟩
  case strandWake =>
    intro c t s a v sd key hrun hw hk
    refine ⟨fun hb => ?_, fun hb hv => ?_, fun hb hv => ?_⟩
    · exact ⟨_, exec_strandWake_returns hrun hw hk (State.tallyAnswer_broken hb v), s.unblock_returned c t sd stBroken⟩
    · exact ⟨_, exec_strandWake_returns hrun hw hk (State.tallyAnswer_reached hb hv), s.unblock_returned c t sd stOk⟩
    · exact exec_strandWake_waits hrun hw hk (State.tallyAnswer_waits hb hv)
  case wake =>
    intro c t p s a v sd h hc ht hrun hw hs
    have hrun' : ((s.takeFlight p).core c).run.state ≠ .parked := by rw [State.core_takeFlight]; exact hrun
    have hw' : ((s.takeFlight p).strand c t).wait = .twait a v sd := by rw [State.strand_takeFlight]; exact hw
    have he := exec_wake h hc ht
    rw [State.wakeStrand_twait hrun' hw' ((State.sameTally_takeFlight ..).trans hs), State.waitGen_takeFlight] at he
    refine ⟨fun htag => by rw [he, if_pos htag], fun htag => ?_⟩
    rw [if_neg (not_not.2 htag)] at he
    refine ⟨fun hfull => ?_, fun hfull => ?_⟩
    · rw [if_neg hfull] at he
      obtain ⟨hret, hrest⟩ := (s.takeFlight p).unblock_returned c t sd p.status
      rw [State.takeFlight_cores] at hrest
      exact ⟨_, he, hret.of_takeFlight, hrest⟩
    · rw [if_pos hfull] at he
      refine ⟨_, he, ?_⟩
      obtain ⟨fl, ls, hf⟩ := s.takeFlight_flight p
      rw [hf]
      rfl
  case resend =>
    intro pos s p hpos hr
    exact exec_waitRegResend hpos hr
  case kRelease =>
    intro c p s h hc hst hrun
    let v := (s.takeFlight p).noteRelease c p
    obtain ⟨hin, honly, hout⟩ := v.foldl_releaseStrand c hst List.nodup_range (l := List.range 4)
    have hstrand (x : Nat) : s.strand c x = v.strand c x :=
      ((State.strand_modEng _ c c x _).trans (State.strand_takeFlight s p c x)).symm
    have hobj (a b : Word) : s.sameObj a b = v.sameObj a b := (State.sameObj_takeFlight s p a b).symm
    obtain ⟨hsame, hcores, hcore, heng⟩ := honly.of_modEng
    simp only [State.sameButCores, State.takeFlight_cores, State.core_takeFlight, State.sameObj_takeFlight]
      at hsame hcores hcore heng
    refine ⟨_, exec_kRelease h hc hst hrun, hsame, hcores, hcore, heng, fun t a x sd hw ho hx => ?_, fun t hno => ?_⟩
    · exact ((hin t (List.mem_range.2 t.isLt)).congr (hstrand t) hobj rfl).1 a x sd hw ho hx
    · by_cases ht : t ∈ List.range 4
      · exact ((hin t ht).congr (hstrand t) hobj rfl).2 hno
      · exact (hout t ht).trans (hstrand t).symm
  case karrReply =>
    intro c t r s a sd hc ht hst hw
    refine ⟨exec_karrReply_parked hc, fun hrun => ?_⟩
    obtain ⟨hret, hrest⟩ := State.karrDone_returned { s with net := { s.net with replies := s.net.replies.erase r } } c t
      sd r.round r.status
    rw [hst] at hret hrest
    refine ⟨_, exec_karrReply hc ht hrun hw, ?_, ?_⟩
    · rw [hst]; exact hret
    · rw [hst]; exact hrest
  case waitReg =>
    intro p s key h hk home
    have hsent (q : Packet) (hr : s.routable q = true) : (s.takeFlight p).post q = (s.takeFlight p).sent [q] :=
      State.post_of_routable ((State.routable_takeFlight s p q).trans hr)
    refine ⟨fun hb hr => ?_, fun hb hv hr => ?_, fun hb hv hroom => ?_, fun hb hv hroom hr => ?_⟩
    · rw [exec_waitReg_answers h hk (State.tallyAnswer_broken hb _), hsent _ hr]
    · rw [exec_waitReg_answers h hk (State.tallyAnswer_reached hb hv), hsent _ hr]
    · have he := exec_waitReg_records h hk (State.tallyAnswer_waits hb hv)
      rw [if_neg (Nat.not_le.2 hroom)] at he
      obtain ⟨hnet, hpeak, hrest⟩ := (s.takeFlight p).addRecord_done home
        { key := key, value := p.aux, module := p.srcModule, unit := p.srcUnit, tag := p.tag }
      rw [State.waits_takeFlight] at hnet
      simp only [State.cluster_takeFlight] at hpeak
      rw [State.takeFlight_clusters] at hrest
      exact ⟨_, he, hnet, hpeak, hrest⟩
    · have he := exec_waitReg_records h hk (State.tallyAnswer_waits hb hv)
      rw [if_pos hroom, State.post_of_routable ((State.countFull_routable _ _ _).trans
        ((State.routable_takeFlight s p _).trans hr))] at he
      obtain ⟨hnet, hlog, hfull, hrest⟩ := (s.takeFlight p).countFull_done home
      simp only [State.cluster_takeFlight] at hfull
      rw [State.takeFlight_clusters, State.takeFlight_plb] at hrest
      refine ⟨_, he, ?_, ?_, hfull, congrArg (fun x : State => { x with net := (s.takeFlight p).net }) hrest⟩
      · exact congrArg (fun n : Net => { n with flight := n.flight ++ setOut [answer p 7 stFull] }) hnet
      · refine hlog.trans ?_
        rw [State.logGet, State.takeFlight_plb, State.logGet]

end Sys2Proof.Machine
end

section
/-! SUPPORT. The order in which branches send, slots taken with packets sent, target lists, and the obligation on the
issue of remote operations (O13). -/

namespace Sys2Proof.Machine

/-! ## Rotation (R213, R229) -/

/-- The `i`-th packet of each branch that has one. -/
def rankOf {α : Type} (ps : List (List α)) (i : Nat) : List α := ps.filterMap (fun l => l[i]?)

theorem rotate_eq_flatMap (n : Nat) (ps : List (List Packet)) : rotate n ps = (List.range n).flatMap (rankOf ps) := by
  induction n generalizing ps with
  | zero => rfl
  | succ n ih =>
    have hhead : ps.filterMap List.head? = rankOf ps 0 :=
      List.filterMap_congr fun l _ => List.head?_eq_getElem?
    have htail (i : Nat) : rankOf (ps.map List.tail) i = rankOf ps (i + 1) := by
      rw [rankOf, rankOf, List.filterMap_map]
      exact List.filterMap_congr fun l _ => List.getElem?_tail
    rw [rotate, ih, hhead, List.range_succ_eq_map, List.flatMap_cons, List.flatMap_map]
    exact congrArg _ (List.flatMap_congr fun i _ => htail i)

/-- Past every branch's last packet there is none. -/
theorem flatMap_rankOf_add {α : Type} {ps : List (List α)} {n : Nat} (h : ∀ l ∈ ps, l.length ≤ n) (m : Nat) :
    (List.range (n + m)).flatMap (rankOf ps) = (List.range n).flatMap (rankOf ps) := by
  have hnone (i : Nat) : rankOf ps (n + i) = [] :=
    List.filterMap_eq_nil_iff.2 fun l hl => List.getElem?_eq_none ((h l hl).trans (Nat.le_add_right n i))
  rw [List.range_add, List.flatMap_append, List.flatMap_map, List.flatMap_eq_nil_iff.2 fun i _ => hnone i,
    List.append_nil]

theorem flatMap_rankOf_congr {α : Type} {ps : List (List α)} {n m : Nat} (hn : ∀ l ∈ ps, l.length ≤ n)
    (hm : ∀ l ∈ ps, l.length ≤ m) : (List.range n).flatMap (rankOf ps) = (List.range m).flatMap (rankOf ps) := by
  rw [← flatMap_rankOf_add hn m, Nat.add_comm, flatMap_rankOf_add hm n]

theorem le_foldl_max (l : List Nat) (a : Nat) : a ≤ l.foldl max a ∧ ∀ x ∈ l, x ≤ l.foldl max a := by
  induction l generalizing a with
  | nil => exact ⟨Nat.le_refl a, fun x hx => absurd hx List.not_mem_nil⟩
  | cons y l ih =>
    obtain ⟨hstart, hall⟩ := ih (max a y)
    refine ⟨(Nat.le_max_left a y).trans hstart, fun x hx => ?_⟩
    rcases List.mem_cons.1 hx with rfl | hx
    · exact (Nat.le_max_right a x).trans hstart
    · exact hall x hx

/-- Branches send in rotation what each may send. -/
theorem rotate_firstRuns (brs : List (Word × List (List Packet))) :
    rotate (((brs.map (fun b => firstRuns b.2)).map List.length).foldl max 0) (brs.map (fun b => firstRuns b.2)) =
      firstOf brs := by
  have hrank (i : Nat) : rankOf (brs.map (fun b => firstRuns b.2)) i = brs.filterMap (fun b => (firstRuns b.2)[i]?) := by
    rw [rankOf, List.filterMap_map]
    rfl
  have hsum (l) (hl : l ∈ brs.map (fun b => firstRuns b.2)) :
      l.length ≤ (brs.map (fun b => (firstRuns b.2).length)).sum := by
    obtain ⟨b, hb, rfl⟩ := List.mem_map.1 hl
    exact List.single_le_sum (fun _ _ => Nat.zero_le _) _ (List.mem_map_of_mem hb)
  rw [rotate_eq_flatMap, flatMap_rankOf_congr (fun l hl => (le_foldl_max _ 0).2 _ (List.mem_map_of_mem hl)) hsum, firstOf]
  exact List.flatMap_congr fun i _ => hrank i

theorem flatMap_range_getElem? {α : Type} (l : List α) :
    (List.range l.length).flatMap (fun i => (l[i]?).toList) = l := by
  induction l with
  | nil => rfl
  | cons x l ih =>
    rw [List.length_cons, List.range_succ_eq_map, List.flatMap_cons, List.flatMap_map]
    exact congrArg (x :: ·) ih

/-- One branch sends its packets in order. -/
theorem firstOf_single (dst : Word) (runs : List (List Packet)) : firstOf [(dst, runs)] = firstRuns runs := by
  refine Eq.trans ?_ (flatMap_range_getElem? (firstRuns runs))
  rw [firstOf]
  refine congrArg₂ _ (funext fun i => ?_) (by simp)
  cases h : (firstRuns runs)[i]? <;> simp [h]

theorem mem_firstOf {brs : List (Word × List (List Packet))} {p : Packet} (h : p ∈ firstOf brs) :
    ∃ b ∈ brs, p ∈ firstRuns b.2 := by
  obtain ⟨i, -, hi⟩ := List.mem_flatMap.1 h
  obtain ⟨b, hb, hp⟩ := List.mem_filterMap.1 hi
  exact ⟨b, hb, List.mem_of_getElem? hp⟩

/-! ## Packets that set out with a slot (R206) -/

theorem State.sent_nil (s : State) : s.sent [] = s := by
  rw [State.sent, setOut, List.map_nil, List.append_nil]

theorem State.sent_append (s : State) (ps qs : List Packet) : (s.sent ps).sent qs = s.sent (ps ++ qs) := by
  simp only [State.sent, setOut, List.map_append, List.append_assoc]

theorem State.postAll_of_routable {s : State} {ps : List Packet} (h : ∀ p ∈ ps, s.routable p = true) :
    s.postAll ps = s.sent ps := by
  induction ps generalizing s with
  | nil => exact s.sent_nil.symm
  | cons p ps ih =>
    obtain ⟨hp, hps⟩ := List.forall_mem_cons.1 h
    have hrest : (s.sent [p]).postAll ps = (s.sent [p]).sent ps := ih hps
    rw [State.postAll, List.foldl_cons, State.post_of_routable hp]
    exact hrest.trans (s.sent_append [p] ps)

/-- An engine with an operation in a slot. -/
def Engine.withSlot (e : Engine) (tag : Nat) (x : RemSlot) : Engine := { e with remotes := SMap.set e.remotes tag x }

theorem State.setSlot_core (s : State) (c : CoreId) (tag : Nat) (x : RemSlot) :
    s.setSlot c tag (some x) = s.modEng c (fun e => e.withSlot tag x) := if_pos c.isLt

theorem State.launch_of_routable {s : State} {c : CoreId} {brs : List (Word × List (List Packet))}
    (h : ∀ b ∈ brs, ∀ p ∈ firstRuns b.2, s.routable p = true) (tag : Nat) (x : RemSlot) : s.launch c tag x brs =
      (s.modEng c (fun e => e.withSlot tag { x with branches := brs.map (fun b => branchOf b.1 b.2) })).sent
        (firstOf brs) := by
  rw [State.launch, State.setSlot_core, rotate_firstRuns]
  refine State.postAll_of_routable fun p hp => ?_
  obtain ⟨b, hb, hp⟩ := mem_firstOf hp
  exact h b hb p hp

/-- An instruction that changes the engine of its core and sends packets. -/
theorem State.retire_modEng (s : State) (c t : Nat) (f : Engine → Engine) (ps : List Packet) (n : Word) (mis : Bool) :
    let u := ((s.modEng c f).sent ps).retire c t n mis
    s.movedOn u c t n ∧ s.coresFrame u c t mis (s.engBack c) ∧ { u with cores := s.cores } = s.sent ps ∧
    (u.core c).eng = f (s.core c).eng := by
  intro u
  obtain ⟨hip, hcores, hsame⟩ := State.retire_done ((s.modEng c f).sent ps) c t n mis
  have hframe : s.coresFrame ((s.modEng c f).sent ps) c t false (s.engBack c) :=
    ⟨fun d hd => State.core_modEng_ne s f hd, fun x _ => State.strand_modEng s c c x f, by
      rw [show ((s.modEng c f).sent ps).core c = (s.modEng c f).core c from rfl, State.core_modEng_same]; rfl⟩
  refine ⟨?_, hframe.retire (fun _ _ _ => rfl) n mis, ?_, hcores.eng_eq.trans ?_⟩
  · rw [State.movedOn, hip]
    exact congrArg (fun x : Strand => { x with ip := x.ip + n }) (State.strand_modEng s c c t f)
  · exact congrArg (fun v : State => { v with cores := s.cores }) hsame
  · exact congrArg Core.eng (State.core_modEng_same s c f)

/-- An operation that takes its slot, from a state that differs in the fast tier alone (R178, R228). -/
theorem State.launch_retired {s : State} {c : CoreId} {brs : List (Word × List (List Packet))} (q : FastTier)
    (h : ∀ b ∈ brs, ∀ p ∈ firstRuns b.2, s.routable p = true) (t slot : Nat) (x : RemSlot) (n : Word) (mis : Bool) :
    let u := (State.launch { s with ft := q } c slot x brs).retire c t n mis
    s.movedOn u c t n ∧ s.coresFrame u c t mis (s.engBack c) ∧
    { u with cores := s.cores } = State.sent { s with ft := q } (firstOf brs) ∧
    (u.core c).eng = (s.core c).eng.withSlot slot { x with branches := brs.map (fun b => branchOf b.1 b.2) } := by
  intro u
  have hu : u = _ := congrArg (fun v : State => v.retire c t n mis)
    (State.launch_of_routable (s := { s with ft := q }) h slot x)
  rw [hu]
  exact State.retire_modEng { s with ft := q } c t
    (fun e => e.withSlot slot { x with branches := brs.map (fun b => branchOf b.1 b.2) }) (firstOf brs) n mis

/-! ## Target lists (R228) -/

theorem leNat_lt (bs : List Byte) : leNat bs < 256 ^ bs.length := by
  induction bs with
  | nil => exact Nat.zero_lt_one
  | cons b bs ih =>
    have hb := b.isLt
    rw [leNat, List.length_cons, Nat.pow_succ]
    omega

theorem length_slice (bs : List Byte) (lo n : Nat) : (slice bs lo n).length = n := by
  simp [slice]

/-- A word of a list, as a number. -/
theorem leNat_slice_eq {bs : List Byte} {lo : Nat} {v : Word} (h : BitVec.ofNat 64 (leNat (slice bs lo 8)) = v) :
    leNat (slice bs lo 8) = v.toNat := by
  have hlt := leNat_lt (slice bs lo 8)
  rw [length_slice] at hlt
  rw [← h, BitVec.toNat_ofNat]
  exact (Nat.mod_eq_of_lt hlt).symm

theorem any_ne_zero_of_forall {bs : List Byte} (h : ∀ b ∈ bs, b = 0) : bs.any (fun b => b != 0) = false := by
  rw [List.any_eq_false]
  intro b hb
  simp [h b hb]

/-- A list that names targets is valid, with nothing reserved set; a module mask that it names lies in memory. -/
theorem State.targetList_of_listNames {s : State} {bs : List Byte} {cores : Bool} {dst : Word} {ids : List Nat}
    (h : s.listNames bs cores dst ids) : ∃ m, s.targetList bs =
      some { cores := cores, dst := dst, ids := some ids, rsv := false, mask := m } ∧
    ∀ a, m = some a → ∀ i, i < 512 → ∃ k, s.place (a + BitVec.ofNat 64 i) false = .mem k := by
  obtain ⟨hdst, htail, hkind⟩ := h
  have htail' := any_ne_zero_of_forall htail
  cases cores with
  | true =>
    obtain ⟨hword, hspace, hmask, hids⟩ := hkind
    refine ⟨none, ?_, fun a ha => by cases ha⟩
    simp only [State.targetList, leNat_slice_eq hword, leNat_slice_eq hmask, hdst, hspace, htail', hids]
    rfl
  | false =>
    obtain ⟨hword, hpad, hself, hspace, hplace, hids⟩ := hkind
    refine ⟨some _, ?_, fun a ha i hi => Option.some.inj ha ▸ hplace i hi⟩
    simp only [State.targetList, leNat_slice_eq hword, hdst, hself, hspace, htail', any_ne_zero_of_forall hpad, hids]
    rfl

/-- Reading a valid list changes the queues of the fast tier at most. -/
theorem State.countList_of_places {s : State} {tg : Targets} (hrsv : tg.rsv = false)
    (h : ∀ a, tg.mask = some a → ∀ i, i < 512 → ∃ k, s.place (a + BitVec.ofNat 64 i) false = .mem k) :
    ∃ q, s.countList tg = { s with ft := q } := by
  unfold State.countList
  rw [hrsv, if_neg Bool.false_ne_true]
  split
  · next m hm =>
    have hbad : s.badAt m 512 false = [] := by
      rw [State.badAt, List.filterMap_eq_nil_iff.2, List.dedup_nil]
      intro i hi
      obtain ⟨k, hk⟩ := h m hm i (List.mem_range.1 hi)
      rw [hk]
    rw [State.engineRead, State.countBad_of_nil hbad]
    have hft := s.request_sameButFt m 512 false false false
    exact ⟨(s.request m 512 false false false).ft, congrArg
      (fun v : State => { v with ft := (s.request m 512 false false false).ft }) hft⟩
  · exact ⟨s.ft, rfl⟩

/-! ## `put` and `acc` (R102, R104, R205, R228) -/

/-- The runs of a `put` from a core's slot to one target, given as its destination and its signal's address. -/
def State.putTo (s : State) (c slot : Nat) (mc sig : Bool) (data : List Byte) (x : Word × Word) : List (List Packet) :=
  putRuns { s.coreHdr c slot with op := 0, mcb := mc, sig := sig, aux := if sig then x.2 else 0 } x.1 data

/-- The runs of an `acc` likewise. -/
def State.accTo (s : State) (c slot : Nat) (w : MWord) (mc sig : Bool) (data : List Byte) (x : Word × Word) :
    List (List Packet) :=
  accRuns { s.coreHdr c slot with
    op := 1, atype := w.atype, sfmt := w.sfmt, e := if 3 ≤ w.atype.toNat then w.e else 0, mcb := mc, sig := sig,
    aux := if sig then x.2 else 0 } x.1 data

/-- The header of a multicast's packets with a signal. -/
theorem State.putTo_signal (s : State) (c slot : Nat) (data : List Byte) (a b : Word) :
    s.putTo c slot true true data (a, b) =
      putRuns { { s.coreHdr c slot with mcb := true } with op := 0, sig := true, aux := b } a data := by
  rw [State.putTo, if_pos rfl]

theorem State.accTo_signal (s : State) (c slot : Nat) (w : MWord) (data : List Byte) (a b : Word) :
    s.accTo c slot w true true data (a, b) = accRuns { { s.coreHdr c slot with mcb := true } with
      op := 1, atype := w.atype, sfmt := w.sfmt, e := if 3 ≤ w.atype.toNat then w.e else 0, sig := true, aux := b }
      a data := by
  rw [State.accTo, if_pos rfl]

/-- What `put` and `acc` do once their targets are known: an operation with none ends, any other takes its slot. -/
def State.writeTo (s : State) (c t slot : Nat) (w : MWord) (mc : Bool) (op : BitVec 8) (tg : Targets)
    (runs : Word × Word → List (List Packet)) : State :=
  if (tg.all (s.sreg c t w.sd)).isEmpty then (s.countList tg).endCt c t w.ct
  else (s.countList tg).launch c slot { op := op, strand := t, ct := w.ct, mc := mc }
    ((tg.all (s.sreg c t w.sd)).map (fun x => (x.1, runs x)))

section
variable {s : State} {c : CoreId} {t : StrandId} {w : MWord} {slot : Nat} {mc : Bool} (hi : s.issues c t = true)
  (hp : s.storePending c t = false) (hslot : lowestFree (s.core c).eng.remotes 32 = some slot) (hmc : w.mc = mc)

section
include hslot hmc

theorem State.issueWrite_put (op : BitVec 8) (sig : Bool) (tg : Targets) (data : List Byte) :
    s.issueWrite c t w op { op := 0, sig := sig } tg data =
      s.writeTo c t slot w mc op tg (s.putTo c slot mc sig data) := by
  have hfree : s.freeSlot c = slot := by rw [State.freeSlot, hslot]; rfl
  rw [State.issueWrite, hfree, hmc]
  rfl

theorem State.issueWrite_acc (op : BitVec 8) (sig : Bool) (tg : Targets) (data : List Byte) :
    s.issueWrite c t w op
      { op := 1, atype := w.atype, sfmt := w.sfmt, e := if 3 ≤ w.atype.toNat then w.e else 0, sig := sig } tg data = s.writeTo c t slot w mc op tg (s.accTo c slot w mc sig data) := by
  have hfree : s.freeSlot c = slot := by rw [State.freeSlot, hslot]; rfl
  rw [State.issueWrite, hfree, hmc]
  rfl

end

include hi hp in
theorem State.issue_remote (hfree : (lowestFree (s.core c).eng.remotes 32).isSome = true) (effect : State → State) :
    s.issue c t (s.remoteReady c t) effect = effect s :=
  State.issue_of_issues effect hi (by rw [State.remoteReady, hfree, hp]; rfl)

include hi hp hslot

theorem State.putOp_retires {tg : Targets} {sig : Bool} (hmc : w.mc = mc) (htg : s.targetsOf c t w = some tg)
    (hd : putSpace tg.dst = true) (hs : sig = true → tallySpace (s.sreg c t w.sd) = true) (op : BitVec 8) :
    ∃ mis, s.putOp c t w op sig = (s.writeTo c t slot w mc op tg (s.putTo c slot mc sig
      (s.spadRead c (s.sreg c t w.sa) (clipLen (s.sreg c t w.sa) (s.sreg c t w.sc))))).retire c t 8 mis := by
  have hvalid : ¬(!putSpace tg.dst || (sig && !tallySpace (s.sreg c t w.sd))) = true := by
    simpa [hd] using hs
  rw [State.putOp, State.issue_remote hi hp (by rw [hslot]; rfl)]
  simp only [htg, if_neg hvalid, State.issueWrite_put hslot hmc]
  exact ⟨_, rfl⟩

theorem State.accOp_retires {tg : Targets} {sig : Bool} (hmc : w.mc = mc) (htg : s.targetsOf c t w = some tg)
    (hpair : accPair w.atype w.sfmt = true) (hd : accSpace w.atype tg.dst = true)
    (hgrain : w.atype = 4 → tg.dst.toNat % 2048 = 0) (hs : sig = true → tallySpace (s.sreg c t w.sd) = true)
    (op : BitVec 8) :
    ∃ mis, s.accOp c t w op sig = (s.writeTo c t slot w mc op tg (s.accTo c slot w mc sig
      (s.spadRead c (s.sreg c t w.sa) (clipLen (s.sreg c t w.sa) (s.sreg c t w.sc) / accSrcSize w.sfmt *
        accSrcSize w.sfmt)))).retire c t 8 mis := by
  have hvalid : ¬(!accPair w.atype w.sfmt || !accSpace w.atype tg.dst || (sig && !tallySpace (s.sreg c t w.sd)) ||
      (decide (w.atype = 4) && decide (tg.dst.toNat % 2048 ≠ 0))) = true := by
    simpa [hpair, hd] using ⟨hs, hgrain⟩
  rw [State.accOp, State.issue_remote hi hp (by rw [hslot]; rfl)]
  simp only [htg, if_neg hvalid, State.issueWrite_acc hslot hmc]
  exact ⟨_, rfl⟩

end

/-! ## One target -/

/-- The target of an instruction with mc = 0. -/
def singleTarget (a : Word) : Targets := { cores := false, dst := a, ids := none, rsv := false, mask := none }

theorem State.targetsOf_single (s : State) (c t : Nat) {w : MWord} (h : w.mc = false) :
    s.targetsOf c t w = some (singleTarget (s.sreg c t w.sb)) := by
  rw [State.targetsOf, h]
  rfl

/-- A remote operation of one target has retired: it holds its slot, and its packets have set out. -/
def State.slotTaken (s u : State) (c t slot : Nat) (x : RemSlot) (ps : List Packet) : Prop :=
  { u with cores := s.cores } = s.sent ps ∧
  (u.core c).eng = { (s.core c).eng with remotes := SMap.set (s.core c).eng.remotes slot x } ∧ s.movedOn u c t 8 ∧
  ∃ mis, s.coresFrame u c t mis (s.engBack c)

theorem State.slotTaken_launch {s : State} {c : CoreId} {a : Word} {runs : List (List Packet)}
    (h : ∀ p ∈ firstRuns runs, s.routable p = true) (t slot : Nat) (x : RemSlot) (mis : Bool) :
    s.slotTaken ((s.launch c slot x [(a, runs)]).retire c t 8 mis) c t slot { x with branches := [branchOf a runs] }
      (firstRuns runs) := by
  obtain ⟨hip, hcores, hrest, heng⟩ := State.launch_retired (brs := [(a, runs)]) s.ft (by simpa using h) t slot x 8 mis
  rw [firstOf_single] at hrest
  exact ⟨hrest, heng, hip, mis, hcores⟩

theorem State.writeTo_single (s : State) (c t slot : Nat) (w : MWord) (mc : Bool) (op : BitVec 8) (a : Word)
    (runs : Word × Word → List (List Packet)) : s.writeTo c t slot w mc op (singleTarget a) runs =
      s.launch c slot { op := op, strand := t, ct := w.ct, mc := mc } [(a, runs (a, s.sreg c t w.sd))] := rfl

theorem State.slotTaken_sent {s : State} {c : CoreId} {ps : List Packet} (h : ∀ p ∈ ps, s.routable p = true)
    (t slot : Nat) (x : RemSlot) (mis : Bool) :
    s.slotTaken (((s.setSlot c slot (some x)).postAll ps).retire c t 8 mis) c t slot x ps := by
  rw [State.setSlot_core, State.postAll_of_routable (s := s.modEng c (fun e => e.withSlot slot x)) h]
  obtain ⟨hip, hcores, hrest, heng⟩ := s.retire_modEng c t (fun e => e.withSlot slot x) ps 8 mis
  exact ⟨hrest, heng, hip, mis, hcores⟩

section
variable {s : State} {c : CoreId} {t : StrandId} {w : MWord} {slot : Nat} (hi : s.issues c t = true)
  (hp : s.storePending c t = false) (hslot : lowestFree (s.core c).eng.remotes 32 = some slot) (hmc : w.mc = false)
include hi hp hslot hmc

theorem State.putOp_single {sig : Bool} (hd : putSpace (s.sreg c t w.sb) = true)
    (hs : sig = true → tallySpace (s.sreg c t w.sd) = true) (op : BitVec 8) :
    let runs := s.putTo c slot false sig (s.spadRead c (s.sreg c t w.sa) (clipLen (s.sreg c t w.sa) (s.sreg c t w.sc)))
      (s.sreg c t w.sb, s.sreg c t w.sd)
    (∀ p ∈ firstRuns runs, s.routable p = true) → s.slotTaken (s.putOp c t w op sig) c t slot
      { op := op, strand := t, ct := w.ct, branches := [branchOf (s.sreg c t w.sb) runs] } (firstRuns runs) := by
  intro runs hr
  obtain ⟨mis, he⟩ := State.putOp_retires hi hp hslot hmc (s.targetsOf_single c t hmc) hd hs op
  rw [he, State.writeTo_single]
  exact State.slotTaken_launch hr t slot _ mis

theorem State.accOp_single {sig : Bool} (hpair : accPair w.atype w.sfmt = true)
    (hd : accSpace w.atype (s.sreg c t w.sb) = true) (hgrain : w.atype = 4 → (s.sreg c t w.sb).toNat % 2048 = 0)
    (hs : sig = true → tallySpace (s.sreg c t w.sd) = true) (op : BitVec 8) :
    let runs := s.accTo c slot w false sig (s.spadRead c (s.sreg c t w.sa)
      (clipLen (s.sreg c t w.sa) (s.sreg c t w.sc) / accSrcSize w.sfmt * accSrcSize w.sfmt))
      (s.sreg c t w.sb, s.sreg c t w.sd)
    (∀ p ∈ firstRuns runs, s.routable p = true) → s.slotTaken (s.accOp c t w op sig) c t slot
      { op := op, strand := t, ct := w.ct, branches := [branchOf (s.sreg c t w.sb) runs] } (firstRuns runs) := by
  intro runs hr
  obtain ⟨mis, he⟩ := State.accOp_retires hi hp hslot hmc (s.targetsOf_single c t hmc) hpair hd hgrain hs op
  rw [he, State.writeTo_single]
  exact State.slotTaken_launch hr t slot _ mis

theorem exec_getI (hd : getSpace (s.sreg c t w.sb) = true) :
    let n := clipLen (s.sreg c t w.sa) (s.sreg c t w.sc)
    let reqs := getReqs (s.coreHdr c slot) (s.sreg c t w.sb) (s.sreg c t w.sa).toNat n
    let x : RemSlot := { op := opGet, strand := t, ct := w.ct, ret := (s.sreg c t w.sa).toNat, len := n,
                         branches := [{ dst := s.sreg c t w.sb, acksLeft := reqs.length }] }
    reqs ≠ [] → exec (.getI c t w) s = .next (((s.setSlot c slot (some x)).postAll reqs).retire c t 8
      (decide (n ≠ (s.sreg c t w.sc).toNat) || mUnused w { sa := true, sb := true, sc := true, ct := true })) := by
  intro n reqs x hne
  have hfree : s.freeSlot c = slot := by rw [State.freeSlot, hslot]; rfl
  have hsome : ¬reqs.isEmpty = true := by rwa [List.isEmpty_iff]
  refine congrArg Host.Outcome.next ((State.issue_remote hi hp (by rw [hslot]; rfl) _).trans ?_)
  simp only [hmc, hd, Bool.not_true, Bool.or_self, if_neg Bool.false_ne_true, hfree]
  rw [if_neg hsome]

theorem exec_tadd (hd : tallySpace (s.sreg c t w.sb) = true) :
    let p : Packet := { s.coreHdr c slot with op := 4, dst := s.sreg c t w.sb, aux := s.sreg c t w.sc }
    exec (.tadd c t w) s = .next ((s.launch c slot { op := 0x70, strand := t, ct := w.ct }
      [(s.sreg c t w.sb, [[p]])]).retire c t 8 (mUnused w { sb := true, sc := true, ct := true })) := by
  intro p
  have hfree : s.freeSlot c = slot := by rw [State.freeSlot, hslot]; rfl
  refine congrArg Host.Outcome.next ((State.issue_remote hi hp (by rw [hslot]; rfl) _).trans ?_)
  simp only [hmc, hd, Bool.not_true, Bool.or_self, if_neg Bool.false_ne_true, hfree, p]

end

/-! ## Several targets (R227, R228, R229) -/

/-- An address aimed at a target of a list. -/
def aimAt (cores : Bool) (a : Word) (i : Nat) : Word := if cores then withCore a i else withModule a i

/-- A multicast has retired: with no target it has ended, else it holds its slot and its branches have sent what they
may. -/
def State.multicast (s u : State) (c t slot : Nat) (w : MWord) (op : BitVec 8) (ids : List Nat)
    (brs : List (Word × List (List Packet))) : Prop :=
  (ids = [] → w.ct = 0 → ∃ mis, s.movedOn u c t 8 ∧ s.coresFrame u c t mis id ∧
    { u with cores := s.cores, ft := s.ft } = s) ∧
  (ids ≠ [] → (∀ b ∈ brs, ∀ p ∈ firstRuns b.2, s.routable p = true) → ∃ mis,
    s.movedOn u c t 8 ∧ s.coresFrame u c t mis (s.engBack c) ∧
    { u with cores := s.cores, ft := s.ft } = s.sent (firstOf brs) ∧
    (u.core c).eng = (s.core c).eng.withSlot slot
      { op := op, strand := t, ct := w.ct, mc := true, branches := brs.map (fun b => branchOf b.1 b.2) })

theorem State.writeTo_none {s : State} {c t : Nat} {w : MWord} {tg : Targets} (h : tg.all (s.sreg c t w.sd) = [])
    (hct : w.ct = 0) (slot : Nat) (mc : Bool) (op : BitVec 8) (runs : Word × Word → List (List Packet)) :
    s.writeTo c t slot w mc op tg runs = s.countList tg := by
  rw [State.writeTo, h, if_pos List.isEmpty_nil, State.endCt, if_pos hct]

theorem State.writeTo_some {s : State} {c t : Nat} {w : MWord} {tg : Targets} (h : tg.all (s.sreg c t w.sd) ≠ [])
    (slot : Nat) (mc : Bool) (op : BitVec 8) (runs : Word × Word → List (List Packet)) :
    s.writeTo c t slot w mc op tg runs = (s.countList tg).launch c slot { op := op, strand := t, ct := w.ct, mc := mc }
      ((tg.all (s.sreg c t w.sd)).map (fun x => (x.1, runs x))) := by
  rw [State.writeTo, if_neg (by rwa [List.isEmpty_iff])]

theorem State.multicast_writeTo {s : State} {c : CoreId} {cores : Bool} {dst : Word} {ids : List Nat} {m : Option Word}
    {q : FastTier} (hq : s.countList { cores := cores, dst := dst, ids := some ids, rsv := false, mask := m } =
      { s with ft := q }) (t slot : Nat) (w : MWord) (op : BitVec 8) (runs : Word × Word → List (List Packet))
    (mis : Bool) : s.multicast ((s.writeTo c t slot w true op { cores := cores, dst := dst, ids := some ids, rsv := false, mask := m }
      runs).retire c t 8 mis) c t slot w op ids
        (ids.map (fun i => (aimAt cores dst i, runs (aimAt cores dst i, aimAt cores (s.sreg c t w.sd) i)))) := by
  refine ⟨fun hids hct => ⟨mis, ?_⟩, fun hids hr => ⟨mis, ?_⟩⟩
  · subst hids
    rw [State.writeTo_none rfl hct, hq]
    obtain ⟨hip, hcores, hsame⟩ := State.retire_done { s with ft := q } c t 8 mis
    exact ⟨hip, hcores, congrArg (fun v : State => { v with ft := s.ft }) hsame⟩
  · have hall : Targets.all { cores := cores, dst := dst, ids := some ids, rsv := false, mask := m } (s.sreg c t w.sd) =
        ids.map (fun i => (aimAt cores dst i, aimAt cores (s.sreg c t w.sd) i)) := rfl
    rw [State.writeTo_some (by rw [hall]; exact fun h => hids (List.map_eq_nil_iff.1 h)), hq, hall, List.map_map]
    obtain ⟨hip, hcores, hrest, heng⟩ := State.launch_retired q hr t slot
      { op := op, strand := t, ct := w.ct, mc := true } 8 mis
    exact ⟨hip, hcores, congrArg (fun v : State => { v with ft := s.ft }) hrest, heng⟩

section
variable {s : State} {c : CoreId} {t : StrandId} {w : MWord} {slot : Nat} {cores : Bool} {dst : Word} {ids : List Nat}
  (hi : s.issues c t = true) (hp : s.storePending c t = false)
  (hslot : lowestFree (s.core c).eng.remotes 32 = some slot) (hmc : w.mc = true)
  (hl : s.listNames (s.spadRead c (s.sreg c t w.sb &&& 0xFFFFFFFFFFFFFFC0) 128) cores dst ids)

include hmc hl in
/-- The targets of a multicast, and what reading them changes. -/
theorem State.targetsOf_list : ∃ m q,
    s.targetsOf c t w = some { cores := cores, dst := dst, ids := some ids, rsv := false, mask := m } ∧
    s.countList { cores := cores, dst := dst, ids := some ids, rsv := false, mask := m } = { s with ft := q } := by
  obtain ⟨m, htl, hplace⟩ := State.targetList_of_listNames hl
  obtain ⟨q, hq⟩ := State.countList_of_places
    (tg := { cores := cores, dst := dst, ids := some ids, rsv := false, mask := m }) rfl hplace
  exact ⟨m, q, by rw [State.targetsOf, if_pos hmc, htl], hq⟩

include hi hp hslot hmc hl

theorem State.putOp_multicast {sig : Bool} (hd : putSpace dst = true)
    (hs : sig = true → tallySpace (s.sreg c t w.sd) = true) (op : BitVec 8) :
    s.multicast (s.putOp c t w op sig) c t slot w op ids (ids.map (fun i => (aimAt cores dst i,
      s.putTo c slot true sig (s.spadRead c (s.sreg c t w.sa) (clipLen (s.sreg c t w.sa) (s.sreg c t w.sc)))
        (aimAt cores dst i, aimAt cores (s.sreg c t w.sd) i)))) := by
  obtain ⟨m, q, htg, hq⟩ := State.targetsOf_list hmc hl
  obtain ⟨mis, he⟩ := State.putOp_retires hi hp hslot hmc htg hd hs op
  rw [he]
  exact State.multicast_writeTo hq t slot w op _ mis

theorem State.accOp_multicast {sig : Bool} (hpair : accPair w.atype w.sfmt = true) (hd : accSpace w.atype dst = true)
    (hgrain : w.atype = 4 → dst.toNat % 2048 = 0) (hs : sig = true → tallySpace (s.sreg c t w.sd) = true)
    (op : BitVec 8) : s.multicast (s.accOp c t w op sig) c t slot w op ids (ids.map (fun i => (aimAt cores dst i,
      s.accTo c slot w true sig (s.spadRead c (s.sreg c t w.sa)
        (clipLen (s.sreg c t w.sa) (s.sreg c t w.sc) / accSrcSize w.sfmt * accSrcSize w.sfmt))
        (aimAt cores dst i, aimAt cores (s.sreg c t w.sd) i)))) := by
  obtain ⟨m, q, htg, hq⟩ := State.targetsOf_list hmc hl
  obtain ⟨mis, he⟩ := State.accOp_retires hi hp hslot hmc htg hpair hd hgrain hs op
  rw [he]
  exact State.multicast_writeTo hq t slot w op _ mis

end

/-! ## Instructions without a multicast (R110, R228) -/

/-- `get`, `tadd` and the waits are not valid with mc = 1. -/
theorem State.misfitNop_retire (s : State) (c t : Nat) : s.misfitNop (s.retire c t 8 true) c t 8 :=
  State.retire_done s c t 8 true

section
variable {s : State} {c : CoreId} {t : StrandId} {w : MWord} (hi : s.issues c t = true)
  (hp : s.storePending c t = false) (hmc : w.mc = true)
include hi hp hmc

theorem exec_wait_multicast {i : Instr} (h : i ∈ [Instr.twait c t w, .karr c t w, .kwait c t w]) :
    exec i s = .next (s.retire c t 8 true) := by
  have hmisfit {effect : State → State} (he : effect s = s.retire c t 8 true) :
      Host.Outcome.next (s.issue c t (!s.storePending c t) effect) =
        (.next (s.retire c t 8 true) : Host.Outcome State Fault Refusal) :=
    congrArg Host.Outcome.next ((State.issue_of_issues effect hi (by rw [hp]; rfl)).trans he)
  rw [List.mem_cons, List.mem_cons, List.mem_singleton] at h
  rcases h with rfl | rfl | rfl
  · exact hmisfit (by simp only [hmc, Bool.true_or, if_true])
  · exact hmisfit (by simp only [hmc, Bool.true_or, if_true])
  · exact hmisfit (by simp only [hmc, Bool.true_or, if_true])

theorem exec_getI_tadd_multicast (hfree : (lowestFree (s.core c).eng.remotes 32).isSome = true) {i : Instr}
    (h : i ∈ [Instr.getI c t w, .tadd c t w]) : exec i s = .next (s.retire c t 8 true) := by
  have hmisfit {effect : State → State} (he : effect s = s.retire c t 8 true) :
      Host.Outcome.next (s.issue c t (s.remoteReady c t) effect) =
        (.next (s.retire c t 8 true) : Host.Outcome State Fault Refusal) :=
    congrArg Host.Outcome.next ((State.issue_remote hi hp hfree effect).trans he)
  rw [List.mem_cons, List.mem_singleton] at h
  rcases h with rfl | rfl
  · exact hmisfit (by simp only [hmc, Bool.true_or, if_true])
  · exact hmisfit (by simp only [hmc, Bool.true_or, if_true])

end

/-- Settles O13: `put` and `acc` reduce to `writeTo`, whose slot and packets `launch` gives, one target being the
rotation of a single branch. -/
theorem remoteIssue : Obligations.RemoteIssue := by
  unfold Obligations.RemoteIssue
  refine ⟨?single, ?several, ?noMulticast⟩
  case single =>
    intro c t w s slot hi hp hslot hmc dst off len sig data hdr slotIs sentAll
    refine ⟨?put, ?putS, ?get, ?acc, ?tadd⟩
    case put =>
      intro hd runs hr
      exact ⟨_, rfl, State.putOp_single hi hp hslot hmc (sig := false) hd (fun h => nomatch h) 0x61 hr⟩
    case putS =>
      intro hd hs runs hr
      exact ⟨_, rfl, State.putOp_single hi hp hslot hmc (sig := true) hd (fun _ => hs) 0x62 hr⟩
    case get =>
      intro hd reqs hne hr
      exact ⟨_, exec_getI hi hp hslot hmc hd hne, State.slotTaken_sent hr t slot _ _⟩
    case acc =>
      intro hpair hd hgrain n acc
      refine ⟨?_, ?_⟩
      · intro runs hr
        exact ⟨_, rfl, State.accOp_single hi hp hslot hmc (sig := false) hpair hd hgrain (fun h => nomatch h) 0x64 hr⟩
      · intro hs runs hr
        exact ⟨_, rfl, State.accOp_single hi hp hslot hmc (sig := true) hpair hd hgrain (fun _ => hs) 0x65 hr⟩
    case tadd =>
      intro hd p hr
      exact ⟨_, exec_tadd hi hp hslot hmc hd,
        State.slotTaken_launch (runs := [[p]]) (List.forall_mem_singleton.2 hr) t slot _ _⟩
  case several =>
    intro c t w s slot cores dst ids hi hp hslot hmc hl aim off len sig data n part hdr acc goes
    have hgoes (i : Instr) (op : BitVec 8) (runs : Nat → List (List Packet)) (u : State) (he : exec i s = .next u)
        (h : s.multicast u c t slot w op ids (ids.map (fun x => (aim dst x, runs x)))) : goes i op runs := by
      obtain ⟨hnone, hsome⟩ := h
      refine ⟨fun hids hct => ?_, fun hids hr => ?_⟩
      · obtain ⟨mis, hdone⟩ := hnone hids hct
        exact ⟨u, mis, he, hdone⟩
      · obtain ⟨mis, hip, hcores, hrest, heng⟩ := hsome hids (by simpa using hr)
        refine ⟨u, mis, he, hip, hcores, hrest, heng.trans ?_⟩
        rw [Engine.withSlot, List.map_map]
        rfl
    refine ⟨fun hd => ⟨?puts, fun hs => ?putSs⟩, fun hpair hd hgrain => ⟨?accs, fun hs => ?accSs⟩⟩
    case puts =>
      exact hgoes _ _ _ _ rfl (State.putOp_multicast hi hp hslot hmc hl (sig := false) hd (fun h => nomatch h) 0x61)
    case putSs =>
      have h := State.putOp_multicast hi hp hslot hmc hl (sig := true) hd (fun _ => hs) 0x62
      simp only [State.putTo_signal] at h
      exact hgoes _ _ _ _ rfl h
    case accs =>
      exact hgoes _ _ _ _ rfl
        (State.accOp_multicast hi hp hslot hmc hl (sig := false) hpair hd hgrain (fun h => nomatch h) 0x64)
    case accSs =>
      have h := State.accOp_multicast hi hp hslot hmc hl (sig := true) hpair hd hgrain (fun _ => hs) 0x65
      simp only [State.accTo_signal] at h
      exact hgoes _ _ _ _ rfl h
  case noMulticast =>
    intro c t w s hi hp hmc
    exact ⟨fun i h => ⟨_, exec_wait_multicast hi hp hmc h, s.misfitNop_retire c t⟩,
      fun hfree i h => ⟨_, exec_getI_tadd_multicast hi hp hmc hfree h, s.misfitNop_retire c t⟩⟩

end Sys2Proof.Machine
end

section
/-! SUPPORT. Every command keeps what no command may break (Laws/Keeps.lean), and the obligations on commands (O59) and on
steps (O60). -/

namespace Sys2Proof.Machine

/-- Every command answers a next state: no meaning ends in a fault or a refusal. -/
theorem exec_answers (i : Instr) (s : State) : ∃ u, exec i s = .next u := by
  cases i <;> exact ⟨_, rfl⟩

/-- The dispatch takes each command to a meaning that keeps what no command may break. -/
theorem exec_keeps {s0 s u : State} (i : Instr) (hk : s0.Keeps s) (h : exec i s = .next u) : s0.Keeps u :=
  match i, h with
  | .nop c t w, h => execNop_keeps c t w hk h
  | .add c t w, h => execAdd_keeps c t w hk h
  | .sub c t w, h => execSub_keeps c t w hk h
  | .mul c t w, h => execMul_keeps c t w hk h
  | .div c t w, h => execDiv_keeps c t w hk h
  | .divu c t w, h => execDivu_keeps c t w hk h
  | .andI c t w, h => execAndI_keeps c t w hk h
  | .orI c t w, h => execOrI_keeps c t w hk h
  | .xorI c t w, h => execXorI_keeps c t w hk h
  | .shl c t w, h => execShl_keeps c t w hk h
  | .shr c t w, h => execShr_keeps c t w hk h
  | .sra c t w, h => execSra_keeps c t w hk h
  | .slt c t w, h => execSlt_keeps c t w hk h
  | .sltu c t w, h => execSltu_keeps c t w hk h
  | .minI c t w, h => execMinI_keeps c t w hk h
  | .maxI c t w, h => execMaxI_keeps c t w hk h
  | .lui c t w, h => execLui_keeps c t w hk h
  | .ld c t w, h => execLd_keeps c t w hk h
  | .st c t w, h => execSt_keeps c t w hk h
  | .beq c t w, h => execBeq_keeps c t w hk h
  | .bne c t w, h => execBne_keeps c t w hk h
  | .blt c t w, h => execBlt_keeps c t w hk h
  | .bge c t w, h => execBge_keeps c t w hk h
  | .bltu c t w, h => execBltu_keeps c t w hk h
  | .jal c t w, h => execJal_keeps c t w hk h
  | .jr c t w, h => execJr_keeps c t w hk h
  | .srd c t w, h => execSrd_keeps c t w hk h
  | .cend c t w, h => execCend_keeps c t w hk h
  | .vadd c t w, h => execVadd_keeps c t w hk h
  | .vsub c t w, h => execVsub_keeps c t w hk h
  | .vmul c t w, h => execVmul_keeps c t w hk h
  | .vfma c t w, h => execVfma_keeps c t w hk h
  | .vmax c t w, h => execVmax_keeps c t w hk h
  | .vmin c t w, h => execVmin_keeps c t w hk h
  | .vabs c t w, h => execVabs_keeps c t w hk h
  | .vbcast c t w, h => execVbcast_keeps c t w hk h
  | .vlane c t w, h => execVlane_keeps c t w hk h
  | .vmov c t w, h => execVmov_keeps c t w hk h
  | .vexp c t w, h => execVexp_keeps c t w hk h
  | .vrcp c t w, h => execVrcp_keeps c t w hk h
  | .vrsqrt c t w, h => execVrsqrt_keeps c t w hk h
  | .vcvt c t w, h => execVcvt_keeps c t w hk h
  | .rred c t w, h => execRred_keeps c t w hk h
  | .rred2 c t w, h => execRred2_keeps c t w hk h
  | .vld c t w, h => execVld_keeps c t w hk h
  | .vst c t w, h => execVst_keeps c t w hk h
  | .tload c t w sh, h => execTload_keeps c t w sh hk h
  | .tloadComplete c tile, h => execTloadComplete_keeps c tile hk h
  | .tstore c t w sh, h => execTstore_keeps c t w sh hk h
  | .tstoreComplete c t, h => execTstoreComplete_keeps c t hk h
  | .trel c t w, h => execTrel_keeps c t w hk h
  | .awld c t w sh, h => execAwld_keeps c t w sh hk h
  | .aflip c t w, h => execAflip_keeps c t w hk h
  | .aflipTakesEffect c arr, h => execAflipTakesEffect_keeps c arr hk h
  | .amm c t w sh, h => execAmm_keeps c t w sh hk h
  | .ammStart c pos, h => execAmmStart_keeps c pos hk h
  | .ammRowWritten c pos, h => execAmmRowWritten_keeps c pos hk h
  | .abrd c t w, h => execAbrd_keeps c t w hk h
  | .abrdStart c, h => execAbrdStart_keeps c hk h
  | .cpy c t w, h => execCpy_keeps c t w hk h
  | .copyComplete c slot, h => execCopyComplete_keeps c slot hk h
  | .putI c t w, h => execPutI_keeps c t w hk h
  | .putSI c t w, h => execPutSI_keeps c t w hk h
  | .getI c t w, h => execGetI_keeps c t w hk h
  | .accI c t w, h => execAccI_keeps c t w hk h
  | .accSI c t w, h => execAccSI_keeps c t w hk h
  | .tadd c t w, h => execTadd_keeps c t w hk h
  | .twait c t w, h => execTwait_keeps c t w hk h
  | .karr c t w, h => execKarr_keeps c t w hk h
  | .kwait c t w, h => execKwait_keeps c t w hk h
  | .reservedOpcode c t op rest, h => execReservedOpcode_keeps c t op rest hk h
  | .strandWake c t, h => execStrandWake_keeps c t hk h
  | .latchParityError c arr half, h => execLatchParityError_keeps c arr half hk h
  | .latchRetryDone c pos, h => execLatchRetryDone_keeps c pos hk h
  | .fillerWindowExpiry c arr, h => execFillerWindowExpiry_keeps c arr hk h
  | .fillerRampStep c arr, h => execFillerRampStep_keeps c arr hk h
  | .coreDone c, h => execCoreDone_keeps c hk h
  | .strandsReleased c, h => execStrandsReleased_keeps c hk h
  | .readyUpdate, h => execReadyUpdate_keeps hk h
  | .edgeMarkSend, h => execEdgeMarkSend_keeps hk h
  | .edgeMarkReceive arrivalPs, h => execEdgeMarkReceive_keeps arrivalPs hk h
  | .edgeApply, h => execEdgeApply_keeps hk h
  | .edgeEchoMeasure hopPs, h => execEdgeEchoMeasure_keeps hopPs hk h
  | .reductionBlockLoaded, h => execReductionBlockLoaded_keeps hk h
  | .putPacket p, h => execPutPacket_keeps p hk h
  | .accPacket p, h => execAccPacket_keeps p hk h
  | .getReq p, h => execGetReq_keeps p hk h
  | .getResp p, h => execGetResp_keeps p hk h
  | .taddPacket p, h => execTaddPacket_keeps p hk h
  | .ackPacket p, h => execAckPacket_keeps p hk h
  | .waitReg p, h => execWaitReg_keeps p hk h
  | .wake p, h => execWake_keeps p hk h
  | .waitRegResend pos, h => execWaitRegResend_keeps pos hk h
  | .writeConfirm k, h => execWriteConfirm_keeps k hk h
  | .kArrive p, h => execKArrive_keeps p hk h
  | .kWait p, h => execKWait_keeps p hk h
  | .kRelease p, h => execKRelease_keeps p hk h
  | .kChain p, h => execKChain_keeps p hk h
  | .ksCascadeClose cl slot, h => execKsCascadeClose_keeps cl slot hk h
  | .ksSlotBind cl, h => execKsSlotBind_keeps cl hk h
  | .mcHoldTimeout c slot branch, h => execMcHoldTimeout_keeps c slot branch hk h
  | .pchServe p, h => execPchServe_keeps p hk h
  | .bulkPromote p, h => execBulkPromote_keeps p hk h
  | .fragmentAdd adder, h => execFragmentAdd_keeps adder hk h
  | .linkForward pos, h => execLinkForward_keeps pos hk h
  | .routeWaitExpiry pos, h => execRouteWaitExpiry_keeps pos hk h
  | .dataFlit l flit, h => execDataFlit_keeps l flit hk h
  | .linkAckTimer l, h => execLinkAckTimer_keeps l hk h
  | .replayTimeout l, h => execReplayTimeout_keeps l hk h
  | .linkDown l why, h => execLinkDown_keeps l why hk h
  | .capMsg l arg, h => execCapMsg_keeps l arg hk h
  | .addressMsg l arg, h => execAddressMsg_keeps l arg hk h
  | .retireLane l arg, h => execRetireLane_keeps l arg hk h
  | .widthMsg l arg, h => execWidthMsg_keeps l arg hk h
  | .resetNotice l, h => execResetNotice_keeps l hk h
  | .widthChangeDone l, h => execWidthChangeDone_keeps l hk h
  | .laneWindowExpiry l lane, h => execLaneWindowExpiry_keeps l lane hk h
  | .laneErrLimit l lane, h => execLaneErrLimit_keeps l lane hk h
  | .laneLockLoss l lane, h => execLaneLockLoss_keeps l lane hk h
  | .cableInsert cage, h => execCableInsert_keeps cage hk h
  | .cableRemove cage, h => execCableRemove_keeps cage hk h
  | .linkTrainingDone l r, h => execLinkTrainingDone_keeps l r hk h
  | .linkRetrainTimer l, h => execLinkRetrainTimer_keeps l hk h
  | .bondStandbyJoin l, h => execBondStandbyJoin_keeps l hk h
  | .cageOvercurrent cage, h => execCageOvercurrent_keeps cage hk h
  | .routeInstall, h => execRouteInstall_keeps hk h
  | .enumFrame f crcOk, h => execEnumFrame_keeps f crcOk hk h
  | .enumDone f crcOk, h => execEnumDone_keeps f crcOk hk h
  | .delayFrame f crcOk, h => execDelayFrame_keeps f crcOk hk h
  | .delayDone f crcOk, h => execDelayDone_keeps f crcOk hk h
  | .delayPassTimer, h => execDelayPassTimer_keeps hk h
  | .compFrame f crcOk, h => execCompFrame_keeps f crcOk hk h
  | .joinReq f crcOk, h => execJoinReq_keeps f crcOk hk h
  | .joinGrant f crcOk, h => execJoinGrant_keeps f crcOk hk h
  | .joinedFrame f crcOk, h => execJoinedFrame_keeps f crcOk hk h
  | .leaveFrame f crcOk, h => execLeaveFrame_keeps f crcOk hk h
  | .absentFrame f crcOk, h => execAbsentFrame_keeps f crcOk hk h
  | .topoFrame f crcOk, h => execTopoFrame_keeps f crcOk hk h
  | .reenumFrame f crcOk, h => execReenumFrame_keeps f crcOk hk h
  | .censusFrame f crcOk, h => execCensusFrame_keeps f crcOk hk h
  | .hereFrame f crcOk, h => execHereFrame_keeps f crcOk hk h
  | .chainAck f crcOk, h => execChainAck_keeps f crcOk hk h
  | .frameResend ty, h => execFrameResend_keeps ty hk h
  | .refLock, h => execRefLock_keeps hk h
  | .refLoss, h => execRefLoss_keeps hk h
  | .splice, h => execSplice_keeps hk h
  | .hstTaddWrite p bytes, h => execHstTaddWrite_keeps p bytes hk h
  | .hstWlWrite p list off bytes, h => execHstWlWrite_keeps p list off bytes hk h
  | .hstNotifyWrite p v off bytes, h => execHstNotifyWrite_keeps p v off bytes hk h
  | .hstApBaseWrite p off bytes, h => execHstApBaseWrite_keeps p off bytes hk h
  | .ftRangeClearWrite path off bytes, h => execFtRangeClearWrite_keeps path off bytes hk h
  | .latchFaultLostClear c value setNow, h => execLatchFaultLostClear_keeps c value setNow hk h
  | .readClear path off size, h => execReadClear_keeps path off size hk h
  | .registerWrite path off bytes, h => execRegisterWrite_keeps path off bytes hk h
  | .bar2Read p off size, h => execBar2Read_keeps p off size hk h
  | .bar2Write p off bytes, h => execBar2Write_keeps p off bytes hk h
  | .commandFetch, h => execCommandFetch_keeps hk h
  | .commandActionStart pos, h => execCommandActionStart_keeps pos hk h
  | .run k, h => execRun_keeps k hk h
  | .update k, h => execUpdate_keeps k hk h
  | .liftClose k, h => execLiftClose_keeps k hk h
  | .pin k, h => execPin_keeps k hk h
  | .unpin k, h => execUnpin_keeps k hk h
  | .rewindStop k, h => execRewindStop_keeps k hk h
  | .stopQuiesced, h => execStopQuiesced_keeps hk h
  | .rwQuiesceExpiry, h => execRwQuiesceExpiry_keeps hk h
  | .rewindResume k, h => execRewindResume_keeps k hk h
  | .resumeArrivalReached, h => execResumeArrivalReached_keeps hk h
  | .drain k, h => execDrain_keeps k hk h
  | .drainComplete, h => execDrainComplete_keeps hk h
  | .restoreStage k, h => execRestoreStage_keeps k hk h
  | .restoreCommit k, h => execRestoreCommit_keeps k hk h
  | .restorePartner k, h => execRestorePartner_keeps k hk h
  | .restoreComplete data, h => execRestoreComplete_keeps data hk h
  | .hostAccessTimeout isDrain, h => execHostAccessTimeout_keeps isDrain hk h
  | .mirrorOut k, h => execMirrorOut_keeps k hk h
  | .mirrorReturn k, h => execMirrorReturn_keeps k hk h
  | .mirrorChunkSend, h => execMirrorChunkSend_keeps hk h
  | .mirrorChunkTake, h => execMirrorChunkTake_keeps hk h
  | .retirePch k, h => execRetirePch_keeps k hk h
  | .suspectReplay k, h => execSuspectReplay_keeps k hk h
  | .suspectDone, h => execSuspectDone_keeps hk h
  | .dump k, h => execDump_keeps k hk h
  | .shedAck k, h => execShedAck_keeps k hk h
  | .reEnumerate k, h => execReEnumerate_keeps k hk h
  | .groupStart m, h => execGroupStart_keeps m hk h
  | .rulePassEnd m, h => execRulePassEnd_keeps m hk h
  | .trustPassStart m, h => execTrustPassStart_keeps m hk h
  | .facePassStart m, h => execFacePassStart_keeps m hk h
  | .liftCloseCommit, h => execLiftCloseCommit_keeps hk h
  | .liftDiscard, h => execLiftDiscard_keeps hk h
  | .slowCorrected ch, h => execSlowCorrected_keeps ch hk h
  | .slowUncorrectedRead ch, h => execSlowUncorrectedRead_keeps ch hk h
  | .slowRetryResult ch ok, h => execSlowRetryResult_keeps ch ok hk h
  | .slowCeLimit ch, h => execSlowCeLimit_keeps ch hk h
  | .slowWindowExpiry ch, h => execSlowWindowExpiry_keeps ch hk h
  | .slowRetrainDone ch ok, h => execSlowRetrainDone_keeps ch ok hk h
  | .pchCorrected p, h => execPchCorrected_keeps p hk h
  | .pchUncorrectedRead p, h => execPchUncorrectedRead_keeps p hk h
  | .pchRereadDone p ok, h => execPchRereadDone_keeps p ok hk h
  | .pchCeLimit p, h => execPchCeLimit_keeps p hk h
  | .pchWindowExpiry p, h => execPchWindowExpiry_keeps p hk h
  | .pchInterfaceCheck p margin, h => execPchInterfaceCheck_keeps p margin hk h
  | .pchCaParityError p, h => execPchCaParityError_keeps p hk h
  | .pchRetrainDone p ok, h => execPchRetrainDone_keeps p ok hk h
  | .sramCorrected u, h => execSramCorrected_keeps u hk h
  | .sramUncorrected u place off, h => execSramUncorrected_keeps u place off hk h
  | .resetReqCompute path, h => execResetReqCompute_keeps path hk h
  | .resetReqPackage path, h => execResetReqPackage_keeps path hk h
  | .resetReqModule path, h => execResetReqModule_keeps path hk h
  | .computeResetDone, h => execComputeResetDone_keeps hk h
  | .computeResetTimeout, h => execComputeResetTimeout_keeps hk h
  | .packageResetNotSet, h => execPackageResetNotSet_keeps hk h
  | .resetRelease, h => execResetRelease_keeps hk h
  | .perstAssert p, h => execPerstAssert_keeps p hk h
  | .perstRelease p, h => execPerstRelease_keeps p hk h
  | .pcieLinkDown p, h => execPcieLinkDown_keeps p hk h
  | .dumpCapture, h => execDumpCapture_keeps hk h
  | .scanReadTimeout ty idx, h => execScanReadTimeout_keeps ty idx hk h
  | .dumpWritten, h => execDumpWritten_keeps hk h
  | .inputApplied, h => execInputApplied_keeps hk h
  | .powerGood strap openPairs, h => execPowerGood_keeps strap openPairs hk h
  | .startStepDone r, h => execStartStepDone_keeps r hk h
  | .powerLoss, h => execPowerLoss_keeps hk h
  | .railOutOfRegulation rail, h => execRailOutOfRegulation_keeps rail hk h
  | .shedStepEnter vin, h => execShedStepEnter_keeps vin hk h
  | .shedStepLeave vin, h => execShedStepLeave_keeps vin hk h
  | .parkRotate, h => execParkRotate_keeps hk h
  | .overVoltage vin, h => execOverVoltage_keeps vin hk h
  | .undervoltageCutoff vin, h => execUndervoltageCutoff_keeps vin hk h
  | .powerRestart vin, h => execPowerRestart_keeps vin hk h
  | .powerLimitTick pin rails clu, h => execPowerLimitTick_keeps pin rails clu hk h
  | .thermalTick temps, h => execThermalTick_keeps temps hk h
  | .thermalPowerOff, h => execThermalPowerOff_keeps hk h
  | .clockPointChange, h => execClockPointChange_keeps hk h
  | .lifetimeLogWrite, h => execLifetimeLogWrite_keeps hk h
  | .failCauseExpiry, h => execFailCauseExpiry_keeps hk h
  | .updBegin path v, h => execUpdBegin_keeps path v hk h
  | .updWrite path v, h => execUpdWrite_keeps path v hk h
  | .updVerify path v, h => execUpdVerify_keeps path v hk h
  | .updAbort path v, h => execUpdAbort_keeps path v hk h
  | .updSessionTimeout, h => execUpdSessionTimeout_keeps hk h
  | .plbUpdBufWrite path off bytes, h => execPlbUpdBufWrite_keeps path off bytes hk h
  | .getVersion path req, h => execGetVersion_keeps path req hk h
  | .getCapabilities path req, h => execGetCapabilities_keeps path req hk h
  | .negotiateAlgorithms path req, h => execNegotiateAlgorithms_keeps path req hk h
  | .getDigests path req, h => execGetDigests_keeps path req hk h
  | .getCertificate path req, h => execGetCertificate_keeps path req hk h
  | .challenge path req, h => execChallenge_keeps path req hk h
  | .getMeasurements path req, h => execGetMeasurements_keeps path req hk h
  | .pldmRequest path req, h => execPldmRequest_keeps path req hk h
  | .smbusAlertResponse, h => execSmbusAlertResponse_keeps hk h
  | .idleFlit l flit, h => execIdleFlit_keeps l flit hk h
  | .karrReply r, h => execKarrReply_keeps r hk h
  | .rdyInChange level, h => execRdyInChange_keeps level hk h
  | .chainOutPresenceChange present, h => execChainOutPresenceChange_keeps present hk h
  | .censusEnd, h => execCensusEnd_keeps hk h
  | .trustPassEnd m, h => execTrustPassEnd_keeps m hk h
  | .facePassEnd m, h => execFacePassEnd_keeps m hk h
  | .mirrorComplete, h => execMirrorComplete_keeps hk h
  | .slowRetrainStart ch, h => execSlowRetrainStart_keeps ch hk h
  | .pcieLinkUp p speed width flit, h => execPcieLinkUp_keeps p speed width flit hk h
  | .overRangeEvent vin, h => execOverRangeEvent_keeps vin hk h
  | .updRequestComplete flashOk, h => execUpdRequestComplete_keeps flashOk hk h

/-- A step keeps the form of the memory and its loss numbers: the queue is no part of them, a command keeps them, and so
does the clock (R176, R361). -/
theorem step_keeps_memOk {s u : State} (hm : s.memOk) (h : step s = .next u) : u.memOk := by
  unfold step at h
  split at h
  · injection h with h
    exact h ▸ (State.tick_keeps (State.Keeps.refl s)).memOk hm
  next c rest _ => exact (exec_keeps c (State.Keeps.refl { s with pending := rest }) h).memOk hm

/-- Settles O60: the invariant is one of those that `State.Keeps` carries through every meaning. -/
theorem stepKeepsMemory : Obligations.StepKeepsMemory := by
  unfold Obligations.StepKeepsMemory
  exact fun _ _ => step_keeps_memOk

/-- Settles O59: every command answers a next state, and `State.Keeps` names what it leaves and what only grows. -/
theorem commandsKeep : Obligations.CommandsKeep := by
  unfold Obligations.CommandsKeep
  intro i s
  obtain ⟨u, h⟩ := exec_answers i s
  obtain ⟨hpending, hfree, hlosses, hout, -⟩ := exec_keeps i (State.Keeps.refl s) h
  exact ⟨u, h, hpending, hout, hfree, hlosses⟩

end Sys2Proof.Machine
end

section
/-! SUPPORT. The queues of a pseudo-channel and the read buffer (R178, R180), and the obligation on them (O21). -/

namespace Sys2Proof.Machine

/-! ## The oldest request (R180) -/

/-- A queue that holds requests has an oldest one, which arrived no later than any other. -/
theorem oldest_spec {l : List PchReq} (h : l ≠ []) :
    ∃ r, oldest l = some r ∧ r ∈ l ∧ ∀ x ∈ l, r.arrival ≤ x.arrival := by
  induction l with
  | nil => exact absurd rfl h
  | cons r rs ih =>
    by_cases hrs : rs = []
    · subst hrs
      exact ⟨r, rfl, by simp, by simp⟩
    · obtain ⟨q, hq, hm, hle⟩ := ih hrs
      rw [oldest, hq]
      by_cases hlt : q.arrival < r.arrival
      · refine ⟨q, if_pos hlt, List.mem_cons_of_mem _ hm, ?_⟩
        simpa using ⟨Nat.le_of_lt hlt, hle⟩
      · refine ⟨r, if_neg hlt, List.mem_cons_self, ?_⟩
        simpa using fun x hx => (Nat.le_of_not_lt hlt).trans (hle x hx)

/-! ## Requests at the ingress (R180) -/

/-- The queue of a class has no room. -/
def Pch.full (p : Pch) (crit : Bool) : Prop := if crit = true then 64 ≤ p.crit.length else 256 ≤ p.bulk.length

/-- A request whose queue has no room waits at the ingress. -/
theorem Pch.accept_full {p : Pch} {crit : Bool} (h : p.full crit) (r : PchReq) :
    p.accept crit r = { p with ingress := p.ingress ++ [(crit, r)] } := by
  unfold Pch.full at h
  cases crit <;> simp_all [Pch.accept, Nat.not_lt.2]

/-- A request whose queue has room, with none of its class before it at the ingress, does not wait there. -/
theorem Pch.ingress_accept_room {p : Pch} {crit : Bool} (h : ¬p.full crit) (hi : ∀ x ∈ p.ingress, x.1 ≠ crit)
    (r : PchReq) : (p.accept crit r).ingress = p.ingress := by
  have hany : p.ingress.any (fun x => x.1 == crit) = false := by simpa using hi
  unfold Pch.full at h
  cases crit <;> simp_all [Pch.accept, Nat.not_le.1]

theorem Pch.length_ingress_accept (p : Pch) (crit : Bool) (r : PchReq) :
    (p.accept crit r).ingress.length ≤ p.ingress.length + 1 := by
  unfold Pch.accept
  repeat' split
  all_goals simp

theorem Pch.length_ingress_accepts (xs : List (Bool × PchReq)) (p : Pch) :
    (xs.foldl (fun q x => q.accept x.1 x.2) p).ingress.length ≤ p.ingress.length + xs.length := by
  induction xs generalizing p with
  | nil => exact Nat.le_refl _
  | cons x xs ih =>
    have := ih (p.accept x.1 x.2)
    have := p.length_ingress_accept x.1 x.2
    simp only [List.foldl_cons, List.length_cons]
    omega

/-- Behind an ingress of requests without room, a list of requests stays at the ingress just where none has room. -/
theorem Pch.ingress_accepts_iff (xs : List (Bool × PchReq)) (p : Pch) (hp : ∀ x ∈ p.ingress, p.full x.1) :
    (xs.foldl (fun q x => q.accept x.1 x.2) p).ingress = p.ingress ++ xs ↔ ∀ x ∈ xs, p.full x.1 := by
  induction xs generalizing p with
  | nil => simp
  | cons x xs ih =>
    rw [List.foldl_cons, List.forall_mem_cons]
    by_cases hx : p.full x.1
    · rw [Pch.accept_full hx, List.append_cons p.ingress x xs, and_iff_right hx]
      exact ih { p with ingress := p.ingress ++ [x] } (List.forall_mem_append.2 ⟨hp, List.forall_mem_singleton.2 hx⟩)
    · refine iff_of_false (fun he => ?_) (fun h => hx h.1)
      have hlen := Pch.length_ingress_accepts xs (p.accept x.1 x.2)
      rw [he, Pch.ingress_accept_room hx (fun y hy hc => hx (hc ▸ hp y hy))] at hlen
      simp at hlen

/-- Nothing enters from the ingress just where no request there has room in its queue. -/
theorem Pch.letIn_idle_iff (p : Pch) : p.letIn.ingress = p.ingress ↔ ∀ x ∈ p.ingress, p.full x.1 :=
  Pch.ingress_accepts_iff p.ingress { p with ingress := [] } (fun _ hx => absurd hx List.not_mem_nil)

/-! ## The read buffer (R178) -/

/-- The set of the read buffer in which an access falls, after it: a hit becomes most recent, a read miss allocates. -/
theorem FastTier.bufAccess_spec (f : FastTier) (off : Nat) (write nofill : Bool) :
    let set := SMap.get [] f.rbuf (f.bufSet off)
    SMap.get [] (f.bufAccess off write nofill).rbuf (f.bufSet off) = (if off / 256 ∈ set then
      off / 256 :: set.erase (off / 256) else if write = true ∨ nofill = true then set else (off / 256 :: set).take 16) ∧
    (∀ j, j ≠ f.bufSet off → SMap.get [] (f.bufAccess off write nofill).rbuf j = SMap.get [] f.rbuf j) ∧
    { f.bufAccess off write nofill with rbuf := f.rbuf } = f := by
  intro set
  unfold FastTier.bufAccess
  by_cases hit : off / 256 ∈ set
  · rw [if_pos hit, if_pos (List.contains_iff_mem.2 hit)]
    exact ⟨SMap.get_set_same .., fun j hj => SMap.get_set_ne _ _ _ hj, rfl⟩
  · rw [if_neg hit, if_neg (mt List.contains_iff_mem.1 hit)]
    by_cases hno : write = true ∨ nofill = true
    · rw [if_pos hno, if_pos (by simpa using hno)]
      exact ⟨rfl, fun _ _ => rfl, rfl⟩
    · rw [if_neg hno, if_neg (by simpa using hno)]
      exact ⟨SMap.get_set_same .., fun j hj => SMap.get_set_ne _ _ _ hj, rfl⟩

/-! ## Service and promotion (R178, R180) -/

/-- The state once a pseudo-channel has served a request. -/
def State.pchServed (s : State) (p : Nat) (r : PchReq) : State :=
  { s.modPch p (fun q => q.served r) with
    ft := (s.modPch p (fun q => q.served r)).ft.bufAccess r.offset r.write r.nofill }

theorem exec_pchServe_idle {p : PchId} {s : State} (h : (s.pch p).nextReq = none) : exec (.pchServe p) s = .next s := by
  show execPchServe p s = _
  rw [execPchServe, h]

theorem exec_pchServe_serves {p : PchId} {s : State} {r : PchReq} (h : (s.pch p).nextReq = some r) :
    exec (.pchServe p) s = .next (s.pchServed p r) := by
  show execPchServe p s = _
  rw [execPchServe, h]
  rfl

theorem exec_bulkPromote_idle {p : PchId} {s : State} (h : ∀ r ∈ (s.pch p).bulk, s.aged r = false) :
    exec (.bulkPromote p) s = .next s := by
  show execBulkPromote p s = _
  rw [execBulkPromote]
  by_cases hb : (s.pch p).bulk = []
  · rw [hb]; rfl
  · obtain ⟨r, hr, hm, -⟩ := oldest_spec hb
    simp [hr, h r hm]

theorem exec_bulkPromote_promotes {p : PchId} {s : State} {r : PchReq} (hr : oldest (s.pch p).bulk = some r)
    (ha : s.aged r = true) : exec (.bulkPromote p) s = .next (s.modPch p (fun q =>
      { q with bulk := q.bulk.erase r, crit := q.crit ++ [r] }.letIn)) := by
  show execBulkPromote p s = _
  rw [execBulkPromote, hr]
  simp [ha]

theorem State.pch_pchServed (s : State) (p : Nat) (r : PchReq) (x : Nat) :
    (s.pchServed p r).pch x = (s.modPch p (fun q => q.served r)).pch x :=
  State.pch_congr (congrArg FastTier.pchs
    ((s.modPch p (fun q => q.served r)).ft.bufAccess_spec r.offset r.write r.nofill).2.2 :) x

/-- A service changes its pseudo-channel and the read buffer, and nothing else. -/
theorem State.frame_pchServed (s : State) (p : Nat) (r : PchReq) :
    (∀ x, x ≠ p → (s.pchServed p r).pch x = s.pch x) ∧
    { s.pchServed p r with ft := { (s.pchServed p r).ft with pchs := s.ft.pchs, rbuf := s.ft.rbuf } } = s :=
  ⟨fun x hx => (s.pch_pchServed p r x).trans (State.pch_modPch_ne s _ hx),
    congrArg (fun f : FastTier => { s with ft := { f with pchs := s.ft.pchs } })
      ((s.modPch p (fun q => q.served r)).ft.bufAccess_spec r.offset r.write r.nofill).2.2⟩

/-- Settles O21: the request served is the oldest of its queue, and `bufAccess_spec` says what the buffer then holds. -/
theorem pseudoChannels : Obligations.PseudoChannels := by
  unfold Obligations.PseudoChannels
  intro p s q i set atom buffered
  have hbuf (r : PchReq) : buffered (s.pchServed p r) r := by
    obtain ⟨hset, hother, -⟩ := (s.modPch p (fun q => q.served r)).ft.bufAccess_spec r.offset r.write r.nofill
    exact ⟨hset, hother, s.frame_pchServed p r⟩
  have hpch (r : PchReq) : (s.pchServed p r).pch p = q.served r :=
    (s.pch_pchServed p r p).trans (State.pch_modPch_same ..)
  refine ⟨fun h => exec_pchServe_idle ?_, fun hr hd => ⟨fun hc => ?_, fun hc hb => ?_⟩, Pch.letIn_idle_iff q, ?_, ?_⟩
  · simp_all [Pch.nextReq, q]
  · obtain ⟨r, hr', hm, hle⟩ := oldest_spec hc
    refine ⟨_, r, exec_pchServe_serves (by simp_all [Pch.nextReq, q]), hm, hle, ?_, hbuf r⟩
    rw [hpch, Pch.served, if_pos (List.contains_iff_mem.2 hm)]
  · obtain ⟨r, hr', hm, hle⟩ := oldest_spec hb
    refine ⟨_, r, exec_pchServe_serves (by simp_all [Pch.nextReq, q, oldest]), hm, hle, ?_, hbuf r⟩
    rw [hpch, Pch.served, hc]; rfl
  · rintro ⟨x, hx, hage⟩
    obtain ⟨r, hr, hm, hle⟩ := oldest_spec (List.ne_nil_of_mem hx)
    have := hle x hx
    refine ⟨_, r, exec_bulkPromote_promotes hr ?_, hm, hle, State.pch_modPch_same ..,
      fun x hx => State.pch_modPch_ne s _ hx, rfl⟩
    exact decide_eq_true (by rw [State.plc]; omega)
  · intro h
    refine exec_bulkPromote_idle fun r hr => ?_
    exact decide_eq_false (Nat.not_le.2 (h r hr))

end Sys2Proof.Machine
end

section
/-! SUPPORT. Why the obligation on copies (O12) fails: its clauses on copies of a kind take any descriptor in a slot. -/

namespace Sys2Proof.Machine

/-- A CONVERT copy of one INT8 byte, the last of core 0's scratchpad, with clr and without bushel: a pair that `cpy`
itself refuses (R196). -/
def clearAtEnd : CopyDesc where
  kind := 2
  clr := true
  srcFmt := 7
  dstFmt := 7
  rows := 1
  cols := 1
  src := 0xFFF20000001FFFFF
  dst := 0xFFF1000000000000

/-- Core 0 holds that copy in slot 0, and the first byte of core 1's scratchpad is set. -/
def clearingAtEnd : State where
  cores := [(0, { eng := { copies := [(0, { desc := clearAtEnd })] } })]
  mem := { cells := [(spadKey 1 0, 1)] }

/-- The memory key of a place, if it is one of memory. -/
def Place.key? : Place → Option Nat
  | .mem k => some k
  | _ => none

/-- Runs that a test finds in memory lie there. -/
theorem State.placed_of_all {α : Type} {s : State} {write : Bool} {runs : List (Word × α)} (len : α → Nat) (ok : Nat → Bool)
    (h : runs.all (fun r => (List.range (len r.2)).all (fun i =>
      (s.place (r.1 + BitVec.ofNat 64 i) write).key?.any ok)) = true) :
    ∀ r ∈ runs, ∀ i, i < len r.2 → ∃ x, s.place (r.1 + BitVec.ofNat 64 i) write = .mem x ∧ ok x = true := by
  intro r hr i hi
  have hi' := List.all_eq_true.1 (List.all_eq_true.1 h r hr) i (List.mem_range.2 hi)
  cases hp : s.place (r.1 + BitVec.ofNat 64 i) write with
  | mem k => exact ⟨k, rfl, by simpa [hp, Place.key?] using hi'⟩
  | _ => simp [hp, Place.key?] at hi'

/-- The copy clears its source only up to the end of core 0's scratchpad, so core 1's byte stays. -/
theorem byte_copyComplete_clearingAtEnd {u : State} (h : exec (.copyComplete 0 0) clearingAtEnd = .next u) :
    u.mem.byte (spadKey 1 0) = 1 := by
  obtain rfl := Host.Outcome.next.inj h
  decide

/-- Refutes O12: a source element of INT8 has one byte, and the clause on clr has eight cleared for each. Where the
source ends with core 0's scratchpad, the clause has the copy clear the start of core 1's, which R103 cuts off. -/
theorem not_copies : ¬ Obligations.Copies := by
  unfold Obligations.Copies
  rintro ⟨-, -, hkinds⟩
  have hreads := State.placed_of_all (s := clearingAtEnd) (write := false)
    (runs := clearingAtEnd.copyReads 0 clearAtEnd ++ clearAtEnd.auxRuns) id (fun _ => true) (by decide)
  obtain ⟨-, -, hconvert, -⟩ := hkinds 0 0 clearingAtEnd _ rfl rfl (by decide) (by simp)
    (fun r hr i hi => (hreads r hr i hi).imp fun _ h => h.1) (by decide)
  obtain ⟨-, hclear, -⟩ := hconvert .int8 rfl
  obtain ⟨u, hu, hmem, -⟩ := hclear rfl rfl fun w hw i hi =>
    (State.placed_of_all List.length (fun x => !clearingAtEnd.boundAt x) (by decide) w hw i hi).imp
      fun _ h => ⟨h.1, (Bool.not_eq_true' _).mp h.2⟩
  have hkept := byte_copyComplete_clearingAtEnd hu
  rw [hmem] at hkept
  exact absurd hkept (by decide)

end Sys2Proof.Machine
end

section
/-! SUPPORT. Why the obligation on starting (O52) fails: its clause on the links asks that a FAILED link trains. -/

namespace Sys2Proof.Machine

/-- A cold start at its step 5, with a cable in every cage and link 0 FAILED. -/
def startWithFailedLink : State where
  pwr := { good := true }
  start := { phase := 5 }
  lnk := { cage := BitVec.allOnes 6, links := [(0, { state := lkFailed })] }

/-- Once the step is done link 0 meets every condition of training, and it is FAILED still (R283). -/
theorem link_startWithFailedLink {u : State} (h : exec (.startStepDone {}) startWithFailedLink = .next u) :
    u.canTrain 0 = true ∧ (u.link 0).state = lkFailed := by
  obtain rfl := Host.Outcome.next.inj h
  decide +kernel

/-- Refutes O52: the clause on the end of a cold start's step 5 has every link that can train in training, and a link
that is FAILED stays so. -/
theorem not_starting : ¬ Obligations.Starting := by
  unfold Obligations.Starting
  rintro ⟨-, hsteps⟩
  obtain ⟨-, -, -, hcold, -⟩ := hsteps startWithFailedLink {} rfl rfl rfl rfl
  obtain ⟨u, hu, -, -, -, -, -, -, -, -, -, -, -, -, -, -, -, hlinks, -⟩ :=
    hcold rfl rfl rfl rfl rfl (by decide +kernel) (by decide +kernel)
  obtain ⟨htrain, hfailed⟩ := link_startWithFailedLink hu
  have htraining := hlinks 0 (by decide) htrain
  rw [hfailed] at htraining
  exact absurd htraining (by decide)

end Sys2Proof.Machine
end

section
/-! SUPPORT. What packets of remote operations do where they arrive, and what answers do to the slot that waits for them:
the obligation on remote packets (O14). -/

namespace Sys2Proof.Machine

/-! ## Stores, counts and requests as changes of the state (R162, R178, R217) -/

/-- The waits that a change of memory satisfies leave their home, and their WAKEs set out. -/
theorem State.checkWaits_eq (s : State) : ∃ ws wakes,
    s.checkWaits = { s with net := { s.net with waits := ws, flight := s.net.flight ++ wakes } } := by
  unfold State.checkWaits
  dsimp only
  split
  · exact ⟨s.net.waits, [], by rw [List.append_nil]⟩
  · exact ⟨_, _, rfl⟩

theorem State.request_eq (s : State) (a : Word) (n : Nat) (crit write nofill : Bool) : ∃ q,
    s.request a n crit write nofill = { s with ft := { s.ft with pchs := q } } :=
  List.foldlRecOn (motive := fun u : State => ∃ q, u = { s with ft := { s.ft with pchs := q } }) _ _ ⟨s.ft.pchs, rfl⟩
    (by
      rintro _ ⟨q, rfl⟩ i -
      dsimp only
      split
      · exact ⟨_, rfl⟩
      · exact ⟨q, rfl⟩)

theorem State.countBad_eq (s : State) (a : Word) (n : Nat) (write : Bool) : ∃ log,
    s.countBad a n write = { s with plb := { s.plb with log := log } } :=
  List.foldlRecOn (motive := fun u : State => ∃ log, u = { s with plb := { s.plb with log := log } }) _ _
    ⟨s.plb.log, rfl⟩ (by rintro _ ⟨log, rfl⟩ v -; exact ⟨_, rfl⟩)

/-- A write stores its bytes where they land, counts what falls under R162 or meets a keystone, and answers waits. -/
theorem State.writeAt_eq (s : State) (a : Word) (bs : List Byte) : ∃ ws wakes log, s.writeAt a bs = { s with
    mem := s.mem.writeList (s.landing a bs), net := { s.net with waits := ws, flight := s.net.flight ++ wakes },
    plb := { s.plb with log := log } } := by
  obtain ⟨log, hlog⟩ := s.countBad_eq a bs.length true
  have hcounted : ∃ log, (if s.hitsBound a bs.length then (s.countBad a bs.length true).violate .keystoneWrite
      else s.countBad a bs.length true) = { s with plb := { s.plb with log := log } } := by
    rw [hlog]
    split <;> exact ⟨_, rfl⟩
  obtain ⟨log, hlog⟩ := hcounted
  unfold State.writeAt
  dsimp only
  rw [hlog, State.storeList]
  obtain ⟨ws, wakes, hw⟩ := State.checkWaits_eq { s with
    mem := s.mem.writeList (s.landing a bs), plb := { s.plb with log := log } }
  exact ⟨ws, wakes, log, hw⟩

/-- The data of a `get` is stored wherever it falls in memory, a keystone object's unit included (R223). -/
theorem State.writeGot_eq (s : State) (a : Word) (bs : List Byte) : ∃ ws wakes log, s.writeGot a bs = { s with
    mem := s.mem.writeList (((List.range bs.length).zip bs).filterMap (fun p =>
      match s.place (a + BitVec.ofNat 64 p.1) true with
      | .mem k => some (k, p.2)
      | _ => none))
    net := { s.net with waits := ws, flight := s.net.flight ++ wakes }, plb := { s.plb with log := log } } := by
  obtain ⟨log, hlog⟩ := s.countBad_eq a bs.length true
  unfold State.writeGot
  rw [hlog, State.storeList]
  obtain ⟨ws, wakes, hw⟩ := State.checkWaits_eq { s with
    mem := s.mem.writeList (((List.range bs.length).zip bs).filterMap (fun p =>
      match s.place (a + BitVec.ofNat 64 p.1) true with
      | .mem k => some (k, p.2)
      | _ => none))
    plb := { s.plb with log := log } }
  exact ⟨ws, wakes, log, hw⟩

/-! ## Words of memory -/

@[simp] theorem Mem.word_write_same (m : Mem) (k : Nat) (v : Word) : (m.write k (wordBytes v)).word k = v := by
  have hread := m.read_write_same k (wordBytes v)
  rw [length_wordBytes] at hread
  rw [Mem.word, hread, leWord_wordBytes]

/-! ## Tallies of this module (R107, R216) -/

/-- An addition to a tally in memory whose home is not broken. -/
theorem State.addLocal_of_mem {s : State} {a amount : Word} {k : Nat} (hk : s.place (align8 a) true = .mem k)
    (hb : s.broken k = false) : ∃ ws wakes q, s.addLocal a amount = ({ s with
      mem := s.mem.write k (wordBytes (s.mem.word k + amount))
      net := { s.net with waits := ws, flight := s.net.flight ++ wakes }, ft := { s.ft with pchs := q } }, stOk) := by
  obtain ⟨ws, wakes, hw⟩ := State.checkWaits_eq { s with mem := s.mem.write k (wordBytes (s.mem.word k + amount)) }
  have hadd : (s.addKey k amount).1 = { s with
      mem := s.mem.write k (wordBytes (s.mem.word k + amount))
      net := { s.net with waits := ws, flight := s.net.flight ++ wakes } } := by
    rw [State.addKey, hb]; exact hw
  unfold State.addLocal
  simp only [hk, hb, hadd, Bool.false_eq_true, if_false]
  obtain ⟨q, hq⟩ := State.request_eq { s with
      mem := s.mem.write k (wordBytes (s.mem.word k + amount))
      net := { s.net with waits := ws, flight := s.net.flight ++ wakes } } (align8 a) 8 false false false
  rw [hq]
  obtain ⟨q', hq'⟩ := State.request_eq { s with
      mem := s.mem.write k (wordBytes (s.mem.word k + amount))
      net := { s.net with waits := ws, flight := s.net.flight ++ wakes }
      ft := { s.ft with pchs := q } } (align8 a) 8 false true false
  exact ⟨ws, wakes, q', congrArg (·, stOk) hq'⟩

/-! ## Packets at their destination (R185, R207, R212, R216) -/

/-- The last packet of a run is noted with the agent that awaits its confirmations. -/
theorem State.noteLanding_eq (s : State) (p : Packet) (link : Option Nat) : s.noteLanding p link = { s with
    net := { s.net with landings := s.net.landings ++
      (if p.last = true then [{ agent := s.agentOf p link, pkt := p }] else []) } } := by
  unfold State.noteLanding State.modLandings
  split
  · rfl
  · rw [List.append_nil]

theorem exec_putPacket {p : Packet} {s : State} (h : s.takes p 0 = true) (hne : p.payload ≠ [])
    (hctl : ∀ o, s.place p.dst true ≠ .ctl o) : exec (.putPacket p) s = .next
      (((((s.takeFlight p).noteLanding p (s.linkOf p)).writeAt p.dst p.payload).request p.dst p.payload.length
        false true false).confirm p) := by
  have hplace : ((s.takeFlight p).noteLanding p (s.linkOf p)).place p.dst true = s.place p.dst true := by
    rw [State.noteLanding_eq]; exact State.place_congr (s.takeFlight_ft p) _ _
  have hfull : p.payload.isEmpty = false := by simpa using hne
  refine congrArg Host.Outcome.next ((State.takePacket_of_takes h _).trans ?_)
  dsimp only
  rw [hplace]
  cases hp : s.place p.dst true with
  | ctl o => exact absurd hp (hctl o)
  | _ => simp only [hfull, Bool.false_eq_true, if_false]

theorem State.postFrom_of_routable {s : State} {p : Packet} {a : Word} (h : s.routable p = true) :
    s.postFrom p a = s.sendFrom p a := if_pos h

/-- The GET_RESP that answers a GET_REQ with the bytes read (R207). -/
def State.getAnswer (s : State) (p : Packet) : Packet :=
  { answer p 3 stOk with
    dst := BitVec.ofNat 64 (p.srcModule.toNat * 2 ^ 52 + 2 * 2 ^ 48 + p.srcUnit.toNat * 2 ^ 21 + p.aux.toNat % 2 ^ 21),
    len := p.len, payload := s.readAt p.dst p.len.toNat }

/-- A read outside the control space counts and asks the pseudo-channels for its atoms; the answer sets out. -/
theorem exec_getReq {p : Packet} {s : State} (h : s.takes p 2 = true) (hctl : ∀ o, s.place p.dst false ≠ .ctl o) :
    exec (.getReq p) s = .next (((((s.takeFlight p).countBad p.dst p.len.toNat false).request p.dst p.len.toNat p.cls
      false false)).postFrom (s.getAnswer p) p.dst) := by
  have hplace : (s.takeFlight p).place p.dst false = s.place p.dst false := State.place_congr (s.takeFlight_ft p) _ _
  have hread : (s.takeFlight p).readAt p.dst p.len.toNat = s.readAt p.dst p.len.toNat := by
    obtain ⟨fl, ls, hf⟩ := s.takeFlight_flight p
    rw [hf]; rfl
  refine congrArg Host.Outcome.next ((State.takePacket_of_takes h _).trans ?_)
  simp only [State.readAny, State.readEffect, hplace, hread]
  cases hp : s.place p.dst false with
  | ctl o => exact absurd hp (hctl o)
  | _ => rfl

theorem exec_taddPacket {p : Packet} {s : State} (h : s.takes p 4 = true) : exec (.taddPacket p) s = .next
    (((s.takeFlight p).addLocal p.dst p.aux).1.post (ackFor p ((s.takeFlight p).addLocal p.dst p.aux).2)) :=
  congrArg Host.Outcome.next (State.takePacket_of_takes h _)

/-! ## Answers to a slot with one branch (R105, R206, R213) -/

/-- What an answer with status OK leaves of a slot that waits on one branch: nothing where it was the last. -/
def RemSlot.afterAnswer (x : RemSlot) (b : Branch) : Option RemSlot :=
  if b.acksLeft = 1 then none else some { x with branches := [{ b with acksLeft := b.acksLeft - 1 }] }

/-- An engine whose slot has been written or freed. -/
def Engine.putSlot (e : Engine) (tag : Nat) (v : Option RemSlot) : Engine :=
  { e with remotes := match v with
    | none => SMap.erase e.remotes tag
    | some x => SMap.set e.remotes tag x }

theorem Engine.find?_putSlot (e : Engine) (tag : Nat) (v : Option RemSlot) :
    SMap.find? (e.putSlot tag v).remotes tag = v := by
  cases v with
  | none => exact (SMap.find?_erase ..).trans (if_pos rfl)
  | some x => exact (SMap.find?_set ..).trans (if_pos rfl)

theorem State.setSlot_eq_modEng (s : State) (c : CoreId) (tag : Nat) (v : Option RemSlot) :
    s.setSlot c tag v = s.modEng c (fun e => e.putSlot tag v) := if_pos c.isLt

theorem State.noteStatus_ok (s : State) (c t : Nat) : s.noteStatus c t stOk = s := by
  simp [State.noteStatus, stOk, stAbsent, stBroken]

section
variable {x : RemSlot} {b : Branch} (hb : x.branches = [b]) (hheld : b.held = []) (hct : x.ct = 0)
  (habsent : x.absent = false) (hleft : 0 < b.acksLeft)
include hb hheld hct habsent hleft

/-- An answer with status OK counts in its branch; the last one frees the slot, which names no tally. -/
theorem State.countAnswer_ok (s : State) (c : CoreId) (tag : Nat) :
    s.countAnswer c tag x 0 b stOk = s.modEng c (fun e => e.putSlot tag (x.afterAnswer b)) := by
  have hcore : ¬(576 ≤ c.val) := Nat.not_le.2 c.isLt
  have hmark (b' : Branch) : s.markOwn c tag b' = s := if_neg fun h => hcore h.1
  have hfinish (x' : RemSlot) (hct' : x'.ct = 0) (habsent' : x'.absent = false) :
      s.finishSlot c tag x' = s.setSlot c tag none := by
    simp [State.finishSlot, State.endCt, c.isLt, hct', habsent']
  have hok : decide (stOk = stAbsent) = false := rfl
  unfold State.countAnswer RemSlot.afterAnswer
  simp only [hok, hheld, List.isEmpty_nil, Bool.not_true, Bool.false_and, Bool.or_false, Bool.false_eq_true,
    if_false, hmark, hb, List.set_cons_zero, List.all_cons, List.all_nil, Bool.and_true, decide_eq_true_eq, b2n,
    Nat.sub_zero]
  by_cases h1 : b.acksLeft = 1
  · rw [if_pos (by omega), if_pos h1]
    exact (hfinish _ (by exact hct) (by exact habsent)).trans (s.setSlot_eq_modEng c tag none)
  · rw [if_neg (by omega), if_neg h1, State.setSlot_eq_modEng]

/-- An answer with status OK reaches the slot of a core that waits for it. -/
theorem State.answered_ok {s : State} {c : CoreId} {tag : Nat} (hx : SMap.find? (s.core c).eng.remotes tag = some x)
    (dst : Word) (extra : RemSlot → Branch → State → State) : s.answered c tag dst stOk extra =
      (extra x b s).modEng c (fun e => e.putSlot tag (x.afterAnswer b)) := by
  have hslot : s.slotOf c tag = some x := (if_pos c.isLt).trans hx
  have hidx : s.branchIdx x dst = 0 := if_pos (by simp [hb])
  unfold State.answered
  simp only [hslot, hidx, hb, List.getElem?_cons_zero, if_neg (Nat.pos_iff_ne_zero.1 hleft), State.noteStatus_ok, ite_self]
  exact State.countAnswer_ok hb hheld hct habsent hleft _ c tag

end

/-- With no transfer in progress no Mason has a `get` to issue. -/
theorem State.faceGets_idle {s : State} (h : s.msn.xfer = {}) : s.faceGets = s := by
  unfold State.faceGets
  split
  · rfl
  · have hmsn : { s with msn := { s.msn with xfer := {} } } = s := by rw [← h]
    simpa [h, State.modXfer] using hmsn

/-! ## What an answer does at the module that issued the operation (R105, R206, R207, R213) -/

theorem exec_getResp {s : State} {p : Packet} {c : CoreId} (h : s.takes p 3 = true) (hc : p.srcUnit.toNat = c.val)
    (hst : p.status = stOk) : exec (.getResp p) s = .next (((s.takeFlight p).answered c p.tag.toNat p.dst stOk
      (fun _ _ u => u.writeGot p.dst p.payload)).faceGets) := by
  have hcore : ¬(576 ≤ c.val ∧ c.val < 580) := fun hm => Nat.not_le.2 c.isLt hm.1
  refine congrArg Host.Outcome.next ((State.takePacket_of_takes h _).trans ?_)
  simp only [hc, if_neg hcore, hst]

/-- An ACK with status OK for a slot of a core. -/
theorem exec_ackPacket_slot {s : State} {p : Packet} {c : CoreId} (h : s.takes p 5 = true) (hc : p.srcUnit.toNat = c.val)
    (ht : p.tag.toNat < 32) (hst : p.status = stOk) : exec (.ackPacket p) s = .next
      (((s.takeFlight p).answered c p.tag.toNat p.dst stOk (fun _ _ u => u)).faceGets) := by
  have hland : ¬c.val = landingUnit := fun he => Nat.lt_irrefl 576 (by rw [landingUnit] at he; omega)
  have hok : decide (stOk = stAbsent) = false := rfl
  have htag : ¬(c.val < 576 ∧ 32 ≤ p.tag.toNat) := fun hm => Nat.not_le.2 ht hm.2
  refine congrArg Host.Outcome.next ((State.takePacket_of_takes h _).trans ?_)
  simp only [hc, if_neg hland, if_neg htag, hst, hok, Bool.and_false, Bool.false_eq_true, if_false]

/-- The ACK of a copy's completion tally on another module: tag 32 + strand (log entry 33). -/
theorem exec_ackPacket_tally {s : State} {p : Packet} {c : CoreId} (h : s.takes p 5 = true) (hc : p.srcUnit.toNat = c.val)
    (ht : 32 ≤ p.tag.toNat) : exec (.ackPacket p) s = .next
      (((s.takeFlight p).noteStatus c (p.tag.toNat % 4) p.status).absentIf c p.status) := by
  have hland : ¬c.val = landingUnit := fun he => Nat.lt_irrefl 576 (by rw [landingUnit] at he; omega)
  refine congrArg Host.Outcome.next ((State.takePacket_of_takes h _).trans ?_)
  simp only [hc, if_neg hland, if_pos (And.intro c.isLt ht), State.absentIf]

/-! ## The obligation -/

section
variable {p : Packet} {s : State}

theorem put_arrives (h : s.takes p 0 = true) (hne : p.payload ≠ []) (hctl : ∀ o, s.place p.dst true ≠ .ctl o) :
    ∃ u, exec (.putPacket p) s = .next u ∧ u.mem = s.mem.writeList (s.landing p.dst p.payload) ∧
      u.net.confirms = s.net.confirms ++ [{ module := p.srcModule, unit := p.srcUnit, tag := p.tag, dst := p.dst }] ∧
      u.net.landings = s.net.landings ++
        (if p.last = true then [{ agent := s.agentOf p (s.linkOf p), pkt := p }] else []) ∧
      { u with mem := s.mem, net := (s.takeFlight p).net, plb := s.plb, ft := s.ft } = s.takeFlight p := by
  obtain ⟨fl, ls, hf⟩ := s.takeFlight_flight p
  have hnoted := (s.takeFlight p).noteLanding_eq p (s.linkOf p)
  obtain ⟨ws, wakes, log, hw⟩ := ((s.takeFlight p).noteLanding p (s.linkOf p)).writeAt_eq p.dst p.payload
  obtain ⟨q, hq⟩ := (((s.takeFlight p).noteLanding p (s.linkOf p)).writeAt p.dst p.payload).request_eq
    p.dst p.payload.length false true false
  refine ⟨_, exec_putPacket h hne hctl, ?_⟩
  rw [hq, hw, hnoted, hf]
  exact ⟨rfl, rfl, rfl, rfl⟩

theorem getReq_arrives (h : s.takes p 2 = true) (hctl : ∀ o, s.place p.dst false ≠ .ctl o)
    (hr : s.routable (s.getAnswer p) = true) : ∃ u, exec (.getReq p) s = .next u ∧
      u.net = { (s.takeFlight p).net with
        flight := (s.takeFlight p).net.flight ++ [{ pkt := s.getAnswer p, source := some p.dst }] } ∧
      { u with net := (s.takeFlight p).net, plb := s.plb, ft := s.ft } = s.takeFlight p := by
  obtain ⟨fl, ls, hf⟩ := s.takeFlight_flight p
  obtain ⟨log, hlog⟩ := (s.takeFlight p).countBad_eq p.dst p.len.toNat false
  obtain ⟨q, hq⟩ := ((s.takeFlight p).countBad p.dst p.len.toNat false).request_eq p.dst p.len.toNat p.cls false false
  have hr' : (((s.takeFlight p).countBad p.dst p.len.toNat false).request p.dst p.len.toNat p.cls false false).routable
      (s.getAnswer p) = true := by rw [hq, hlog, hf]; exact hr
  refine ⟨_, exec_getReq h hctl, ?_⟩
  rw [State.postFrom_of_routable hr', hq, hlog, hf]
  exact ⟨rfl, rfl⟩

theorem tadd_arrives (h : s.takes p 4 = true) {k : Nat} (hk : s.place (align8 p.dst) true = .mem k)
    (hb : s.broken k = false) (hr : s.routable (ackFor p stOk) = true) :
    ∃ u, exec (.taddPacket p) s = .next u ∧ u.mem.word k = s.mem.word k + p.aux ∧
      s.memFrame u (fun j => k ≤ j ∧ j < k + 8) ∧
      (∃ wakes, u.net.flight = (s.takeFlight p).net.flight ++ wakes ++ setOut [ackFor p stOk]) ∧
      { u with mem := s.mem, net := (s.takeFlight p).net, ft := s.ft } = s.takeFlight p := by
  obtain ⟨fl, ls, hf⟩ := s.takeFlight_flight p
  have hk' : (s.takeFlight p).place (align8 p.dst) true = .mem k :=
    (State.place_congr (s.takeFlight_ft p) _ _).trans hk
  have hb' : (s.takeFlight p).broken k = false := by rw [hf]; exact hb
  obtain ⟨ws, wakes, q, hadd⟩ := State.addLocal_of_mem (amount := p.aux) hk' hb'
  have hr' : ((s.takeFlight p).addLocal p.dst p.aux).1.routable (ackFor p stOk) = true := by rw [hadd, hf]; exact hr
  refine ⟨_, exec_taddPacket h, ?_⟩
  have hst : ((s.takeFlight p).addLocal p.dst p.aux).2 = stOk := congrArg Prod.snd hadd
  rw [hst, State.post_of_routable hr', hadd, hf]
  refine ⟨Mem.word_write_same .., fun j hj => ?_, ⟨wakes, rfl⟩, rfl⟩
  exact Mem.byte_write_out _ _ (by rw [length_wordBytes]; omega)

end

section
variable {p : Packet} {s : State} {c : CoreId} {x : RemSlot} {b : Branch} (hc : p.srcUnit.toNat = c.val)
  (hst : p.status = stOk) (hx : SMap.find? (s.core c).eng.remotes p.tag.toNat = some x) (hb : x.branches = [b]) (hheld : b.held = [])
  (hxfer : s.msn.xfer = {}) (hct : x.ct = 0) (habsent : x.absent = false) (hleft : 0 < b.acksLeft)
include hc hst hx hb hheld hxfer hct habsent hleft

theorem getResp_arrives (h : s.takes p 3 = true) :
    ∃ u, exec (.getResp p) s = .next u ∧
      u.mem = s.mem.writeList (((List.range p.payload.length).zip p.payload).filterMap (fun q =>
        match s.place (p.dst + BitVec.ofNat 64 q.1) true with
        | .mem k => some (k, q.2)
        | _ => none)) ∧
      SMap.find? (u.core c).eng.remotes p.tag.toNat = x.afterAnswer b ∧
      (∀ d, d ≠ c.val → u.core d = s.core d) ∧
      { u.core c with eng := (s.core c).eng } = s.core c ∧
      { u with cores := s.cores, mem := s.mem, net := (s.takeFlight p).net, plb := s.plb } = s.takeFlight p := by
  obtain ⟨fl, ls, hf⟩ := s.takeFlight_flight p
  obtain ⟨ws, wakes, log, hw⟩ := (s.takeFlight p).writeGot_eq p.dst p.payload
  have hx' : SMap.find? ((s.takeFlight p).core c).eng.remotes p.tag.toNat = some x := by
    rw [State.core_takeFlight]; exact hx
  have hcore (d : Nat) : ((s.takeFlight p).writeGot p.dst p.payload).core d = s.core d := by rw [hw, hf]; rfl
  refine ⟨_, exec_getResp h hc hst, ?_⟩
  rw [State.answered_ok hb hheld hct habsent hleft hx', State.faceGets_idle (by rw [hw, hf]; exact hxfer)]
  refine ⟨by rw [hw, hf]; rfl, ?_, fun d hd => ?_, ?_, by rw [hw, hf]; rfl⟩
  · rw [State.core_modEng_same, Engine.find?_putSlot]
  · rw [State.core_modEng_ne _ _ hd, hcore]
  · rw [State.core_modEng_same, hcore]

theorem ackPacket_arrives (htag : p.tag.toNat < 32) (h : s.takes p 5 = true) :
    ∃ u, exec (.ackPacket p) s = .next u ∧ SMap.find? (u.core c).eng.remotes p.tag.toNat = x.afterAnswer b ∧
      (∀ d, d ≠ c.val → u.core d = s.core d) ∧ { u.core c with eng := (s.core c).eng } = s.core c ∧
      { u with cores := s.cores } = s.takeFlight p := by
  obtain ⟨fl, ls, hf⟩ := s.takeFlight_flight p
  have hx' : SMap.find? ((s.takeFlight p).core c).eng.remotes p.tag.toNat = some x := by
    rw [State.core_takeFlight]; exact hx
  refine ⟨_, exec_ackPacket_slot h hc htag hst, ?_⟩
  rw [State.answered_ok hb hheld hct habsent hleft hx', State.faceGets_idle (by rw [hf]; exact hxfer)]
  refine ⟨?_, fun d hd => ?_, ?_, by rw [hf]; rfl⟩
  · rw [State.core_modEng_same, Engine.find?_putSlot]
  · rw [State.core_modEng_ne _ _ hd, State.core_takeFlight]
  · rw [State.core_modEng_same, State.core_takeFlight]

end

theorem copyTallyAck_arrives {p : Packet} {s : State} {c : CoreId} (hc : p.srcUnit.toNat = c.val)
    (ht : 32 ≤ p.tag.toNat) (h : s.takes p 5 = true) : ∃ u, exec (.ackPacket p) s = .next u ∧
      u.strand c (p.tag.toNat % 4) = { s.strand c (p.tag.toNat % 4) with
        rstat := (s.strand c (p.tag.toNat % 4)).rstat ||| rstatBit p.status } ∧
      s.coresFrame u c (p.tag.toNat % 4) false id ∧
      { u with cores := s.cores } = (s.takeFlight p).absentIf c p.status := by
  have hv := ((s.takeFlight p).noteStatus c (p.tag.toNat % 4) p.status).cores_absentIf c p.status
  refine ⟨_, exec_ackPacket_tally h hc ht, ?_, ?_, ?_⟩
  · rw [State.strand_congr hv, State.strand_noteStatus, State.strand_takeFlight]
  · have hframe := (s.takeFlight p).coresFrame_noteStatus c (p.tag.toNat % 4) p.status
    simpa only [State.coresFrame, State.core_congr hv, State.strand_congr hv, State.core_takeFlight,
      State.strand_takeFlight] using hframe
  · rw [← State.takeFlight_cores s p]
    exact (State.sameButCores_noteStatus ..).absentIf c p.status

/-- Settles O14: what a packet writes, reads or adds is one change of the memory and the network, and an answer is one
change of the slot that waits for it. -/
theorem remotePackets : Obligations.RemotePackets := by
  unfold Obligations.RemotePackets
  refine ⟨fun p s => ⟨put_arrives, getReq_arrives, fun h k hk hb hr => tadd_arrives h hk hb hr⟩,
    fun p s c x b hc hst hx hb hheld hxfer _ hct habsent htag hleft => ⟨fun h => ?_, fun h => ?_⟩,
    fun p s c hc ht h => copyTallyAck_arrives hc ht h⟩
  · exact getResp_arrives hc hst hx hb hheld hxfer hct habsent hleft h
  · exact ackPacket_arrives hc hst hx hb hheld hxfer hct habsent hleft htag h

end Sys2Proof.Machine
end

section
/-! SUPPORT. How a flit leaves, what a packet that leaves or is lost does to the links, and the obligation on routing
(O31). -/

namespace Sys2Proof.Machine

/-! ## What links keep to send and receive (R250, R253, R263) -/

/-- A change of what a link keeps to send and receive leaves the rest of every link as it was. -/
theorem State.link_modCh (s : State) (l x : Nat) (f : LinkCh → LinkCh) : (s.modCh l f).link x =
    { s.link x with ch := if x = l then f (s.link x).ch else (s.link x).ch } := by
  by_cases hx : x = l
  · subst hx
    rw [if_pos rfl]
    exact s.link_modLink_same x _
  · rw [if_neg hx]
    exact s.link_modLink_ne _ hx

theorem State.leader_modCh (s : State) (l x : Nat) (f : LinkCh → LinkCh) : (s.modCh l f).leader x = s.leader x := by
  simp only [State.leader, State.link_modCh]

/-- The channel of a link to whose partner credits return. -/
def LinkCh.freed (k : LinkCh) (response : Bool) (n : Nat) : LinkCh :=
  if response then { k with retRsp := k.retRsp + n } else { k with retReq := k.retReq + n }

theorem State.freeFlight_cases (s : State) (f : Flight) :
    s.freeFlight f = s ∨ ∃ l rsp n, s.freeFlight f = s.modCh l (fun k => k.freed rsp n) := by
  unfold State.freeFlight
  split
  · exact .inl rfl
  · exact .inr ⟨_, _, _, rfl⟩

theorem State.freeFlight_eq (s : State) (f : Flight) :
    ∃ ls, s.freeFlight f = { s with lnk := { s.lnk with links := ls } } := by
  obtain h | ⟨l, rsp, n, h⟩ := s.freeFlight_cases f
  · exact ⟨s.lnk.links, h⟩
  · exact ⟨_, h⟩

/-- A packet that leaves the buffers changes only the credits that its link is to return. -/
theorem State.link_freeFlight (s : State) (f : Flight) (x : Nat) : ∃ rq rs, (s.freeFlight f).link x =
    { s.link x with ch := { (s.link x).ch with retReq := rq, retRsp := rs } } := by
  obtain h | ⟨l, rsp, n, h⟩ := s.freeFlight_cases f
  · exact ⟨_, _, by rw [h]⟩
  · rw [h, State.link_modCh, LinkCh.freed]
    split
    · split <;> exact ⟨_, _, rfl⟩
    · exact ⟨_, _, rfl⟩

/-! ## Flits (R249, R250) -/

/-- The header of a flit. -/
def LinkCh.flitHeader (k : LinkCh) (kind : BitVec 2) (seq : BitVec 16) : Word :=
  fields [(60, 1), (58, kind.toNat), (42, seq.toNat), (26, (k.rxSeq - 1).toNat), (25, b2n k.nakDue),
    (13, min k.retReq 4095), (1, min k.retRsp 4095)]

/-- Sixteen bits at bit 42 of a 64-bit word, where what stands below them does not carry. -/
theorem bits_at_42 {low seq top : Nat} (hlow : low < 2 ^ 42) (hseq : seq < 2 ^ 16) :
    (low + 2 ^ 42 * (seq + 2 ^ 16 * top)) % 2 ^ 64 / 2 ^ 42 % 2 ^ 16 = seq := by
  rw [show 2 ^ 64 = 2 ^ 42 * 2 ^ 22 from rfl, Nat.mod_mul_right_div_self, Nat.add_mul_div_left _ _ (by decide),
    Nat.div_eq_of_lt hlow, Nat.zero_add, Nat.mod_mod_of_dvd _ (by decide), Nat.add_mul_mod_self_left, Nat.mod_eq_of_lt hseq]

/-- The header holds the sequence number at bit 42: what stands below it is too small to carry. -/
theorem LinkCh.extract_flitHeader (k : LinkCh) (kind : BitVec 2) (seq : BitVec 16) :
    (k.flitHeader kind seq).extractLsb' 42 16 = seq := by
  have hack := (k.rxSeq - 1).isLt
  have hnak := b2n_le_one k.nakDue
  have hreq := Nat.min_le_right k.retReq 4095
  have hrsp := Nat.min_le_right k.retRsp 4095
  have hlow : (k.rxSeq - 1).toNat * 2 ^ 26 + b2n k.nakDue * 2 ^ 25 + min k.retReq 4095 * 2 ^ 13 +
      min k.retRsp 4095 * 2 ^ 1 < 2 ^ 42 := by omega
  have hbits := bits_at_42 (top := kind.toNat + 4) hlow seq.isLt
  apply BitVec.eq_of_toNat_eq
  rw [LinkCh.flitHeader, fields, BitVec.extractLsb'_toNat, BitVec.toNat_ofNat, Nat.shiftRight_eq_div_pow]
  refine Eq.trans (congrArg (· % 2 ^ 64 / 2 ^ 42 % 2 ^ 16) ?_) hbits
  simp only [List.foldl_cons, List.foldl_nil]
  ring

/-- The channel of a link after a flit has left. -/
def LinkCh.flitSent (k : LinkCh) : LinkCh :=
  { k with nakDue := false, sinceAck := 0, retReq := k.retReq - min k.retReq 4095, retRsp := k.retRsp - min k.retRsp 4095,
           turn := k.turn + 1 }

/-- The channel of a link whose next flit waits in the replay buffer for its ack. -/
def LinkCh.queued (k : LinkCh) (t : TxFlit) : LinkCh :=
  { k with txSeq := k.txSeq + 1, replayBuf := k.replayBuf ++ [t] }

/-- A flit as its segments on a link's lanes. -/
def Link.flit (k : Link) (m : Nat) (header : Word) (body : List Byte) : Out :=
  .linkFlit m (((List.range 8).map (laneOf k.live)).zip (flitSegments header body))

theorem State.sendFlit_of_leader {s : State} {l : Nat} (hl : s.leader l = l) (kind : BitVec 2) (on : Option Nat)
    (seq : BitVec 16) (body : List Byte) : s.sendFlit l kind on seq body =
      (s.modCh l LinkCh.flitSent).emit ((s.link (on.getD (s.nextMember l))).flit (on.getD (s.nextMember l))
        ((s.link l).ch.flitHeader kind seq) body) := by
  unfold State.sendFlit
  rw [hl]
  rfl

theorem State.sendSeq_of_leader {s : State} {l : Nat} (hl : s.leader l = l) (kind : BitVec 2) (on : Option Nat)
    (body : List Byte) (pkt : Option Flight) : s.sendSeq l kind on body pkt =
      (s.modCh l (fun k => k.queued { seq := (s.link l).ch.txSeq, kind, on, body, pkt })).sendFlit l kind on
        (s.link l).ch.txSeq body := by
  unfold State.sendSeq
  rw [hl]
  rfl

/-! ## A packet on its link (R251, R253) -/

/-- The credits and the stream that a packet takes on its link. -/
def LinkCh.taken (k : LinkCh) (stream n : Nat) (p : Packet) : LinkCh :=
  { k with
    usedReq := if isResponse p.op then k.usedReq else k.usedReq + n
    usedRsp := if isResponse p.op then k.usedRsp + n else k.usedRsp
    txStreams := if p.payload.isEmpty || p.last then SMap.erase k.txStreams stream
      else SMap.set k.txStreams stream { p with payload := [] } }

theorem State.noteSent_eq (s : State) (p : Packet) : s.noteSent p = { s with mortar := (s.noteSent p).mortar } := by
  unfold State.noteSent
  split <;> rfl

theorem State.mortar_noteSent_congr {s u : State} (hm : u.mortar = s.mortar) (hc : u.chain = s.chain) (p : Packet) :
    (u.noteSent p).mortar = (s.noteSent p).mortar := by
  have hred : u.isReduction p = s.isReduction p := by simp only [State.isReduction, State.isSelf, hc]
  have hself : u.isSelf p.srcModule.toNat = s.isSelf p.srcModule.toNat := by simp only [State.isSelf, hc]
  unfold State.noteSent
  rw [hred, hself]
  split
  · rw [hm]
  · exact hm

theorem State.link_noteSent (s : State) (p : Packet) (x : Nat) : (s.noteSent p).link x = s.link x := by
  rw [State.noteSent_eq]; rfl

theorem State.leader_noteSent (s : State) (p : Packet) (x : Nat) : (s.noteSent p).leader x = s.leader x := by
  simp only [State.leader, State.link_noteSent]

/-- The state whose link holds a packet's flit in its replay buffer, and whose credits the packet has taken. -/
def State.takenOn (s : State) (l : Nat) (f : Flight) (stream : Nat) (bytes : List Byte) : State :=
  ((s.noteSent f.pkt).modCh l (fun k => k.taken stream (linkCredits bytes.length) f.pkt)).modCh l
    (fun k => k.queued { seq := (s.link l).ch.txSeq, body := bytes, pkt := some f })

theorem State.link_takenOn (s : State) (l : Nat) (f : Flight) (stream : Nat) (bytes : List Byte) (x : Nat) :
    (s.takenOn l f stream bytes).link x = { s.link x with
      ch := if x = l then ((s.link x).ch.taken stream (linkCredits bytes.length) f.pkt).queued
          { seq := (s.link l).ch.txSeq, body := bytes, pkt := some f }
        else (s.link x).ch } := by
  rw [State.takenOn, State.link_modCh, State.link_modCh, State.link_noteSent]
  split <;> rfl

/-- A packet leaves on its link in one flit. -/
theorem State.onLink_of_leader {s : State} {l : Nat} (hl : s.leader l = l) (f : Flight) :
    let w := s.linkForm l f.pkt
    let bytes := linkBytes f w.1 w.2
    let u := s.takenOn l f w.1 bytes
    s.onLink l f = (u.modCh l LinkCh.flitSent).emit ((s.link (u.nextMember l)).flit (u.nextMember l)
      ((u.link l).ch.flitHeader 0 (s.link l).ch.txSeq) bytes) := by
  intro w bytes u
  have htaken : ((s.noteSent f.pkt).modCh l (fun k => k.taken w.1 (linkCredits bytes.length) f.pkt)).leader l = l := by
    rw [State.leader_modCh, State.leader_noteSent, hl]
  have hseq : (((s.noteSent f.pkt).modCh l (fun k => k.taken w.1 (linkCredits bytes.length) f.pkt)).link l).ch.txSeq =
      (s.link l).ch.txSeq := by
    rw [State.link_modCh, State.link_noteSent, if_pos rfl]; rfl
  have hu : u.leader l = l := (State.leader_modCh ..).trans htaken
  have hflit (m : Nat) (h : Word) : (u.link m).flit m h bytes = (s.link m).flit m h bytes := by
    rw [State.link_takenOn]; rfl
  unfold State.onLink
  refine (State.sendSeq_of_leader htaken ..).trans ?_
  rw [hseq]
  refine (State.sendFlit_of_leader hu ..).trans ?_
  rw [hflit]
  rfl

/-! ## A packet that waits for its first hop (R171, R253, R254, R266) -/

/-- The state from which the packet in flight at a position has left, and whose links count what they return for it. -/
def State.leftAt (s : State) (pos : Nat) (f : Flight) : State :=
  State.freeFlight { s with net := { s.net with flight := s.net.flight.eraseIdx pos } } f

theorem State.leftAt_eq (s : State) (pos : Nat) (f : Flight) : ∃ ls, s.leftAt pos f = { s with
    net := { s.net with flight := s.net.flight.eraseIdx pos }, lnk := { s.lnk with links := ls } } :=
  State.freeFlight_eq _ f

theorem State.link_leftAt (s : State) (pos : Nat) (f : Flight) (x : Nat) : ∃ rq rs, (s.leftAt pos f).link x =
    { s.link x with ch := { (s.link x).ch with retReq := rq, retRsp := rs } } :=
  State.link_freeFlight _ f x

theorem State.leader_leftAt (s : State) (pos : Nat) (f : Flight) (x : Nat) : (s.leftAt pos f).leader x = s.leader x := by
  obtain ⟨_, _, hx⟩ := s.link_leftAt pos f x
  rw [State.leader, hx]; rfl

theorem State.linkForm_leftAt (s : State) (pos : Nat) (f : Flight) (x : Nat) (p : Packet) :
    (s.leftAt pos f).linkForm x p = s.linkForm x p := by
  obtain ⟨_, _, hx⟩ := s.link_leftAt pos f x
  obtain ⟨ls, hs⟩ := s.leftAt_eq pos f
  have hop (a b : Packet) : (s.leftAt pos f).sameOp a b = s.sameOp a b := by rw [hs]; rfl
  simp only [State.linkForm, hx, hop]

/-- The first hop of a packet (R171, R254). -/
def State.firstHop (s : State) (f : Flight) : Nat :=
  (s.candidates f.pkt).getD (packetModule f.pkt % (s.candidates f.pkt).length) 0

/-- A packet one hop further. -/
def Flight.onward (f : Flight) : Flight := { f with hops := f.hops + 1, link := none, credits := 0 }

/-- The bytes of a packet on its link. -/
def State.bytesOn (s : State) (l : Nat) (f : Flight) : List Byte :=
  linkBytes f.onward (s.linkForm l f.pkt).1 (s.linkForm l f.pkt).2

theorem State.linkReady_onward_iff (s : State) (l : Nat) (f : Flight) : s.linkReady l f.onward = true ↔
    linkCredits (s.bytesOn l f).length + (if isResponse f.pkt.op then (s.link l).ch.usedRsp else (s.link l).ch.usedReq) ≤
      s.granted l (isResponse f.pkt.op) ∧ s.replayRoom l = true ∧ s.joinsSoon l = false := by
  have hready : s.linkReady l f.onward =
    (decide (linkCredits (s.bytesOn l f).length +
        (if isResponse f.pkt.op then (s.link l).ch.usedRsp else (s.link l).ch.usedReq) ≤ s.granted l (isResponse f.pkt.op)) &&
      s.replayRoom l && !s.joinsSoon l) := rfl
  rw [hready, Bool.and_eq_true, Bool.and_eq_true, decide_eq_true_eq, Bool.not_eq_true', and_assoc]

section
variable {s : State} {pos : Nat} {f : Flight} (hf : s.net.flight[pos]? = some f)
  (hself : s.isSelf (packetModule f.pkt) = false)
include hf hself

theorem exec_linkForward_notInTurn (ht : s.inTurn f.pkt = false) : exec (.linkForward pos) s = .next s := by
  refine congrArg Host.Outcome.next ?_
  simp [hf, hself, ht]

section
variable (ht : s.inTurn f.pkt = true)
include ht

theorem exec_linkForward_absent (ha : s.absent (packetModule f.pkt) = true) : exec (.linkForward pos) s = .next
    ((s.leftAt pos f).endLost f.pkt ((s.net.flight.eraseIdx pos).map (fun x => x.pkt))) := by
  refine congrArg Host.Outcome.next ?_
  simp [hf, hself, ht, ha, State.leftAt]

theorem exec_linkForward_hops (ha : s.absent (packetModule f.pkt) = false) (hh : 31 ≤ f.hops) :
    exec (.linkForward pos) s = .next
      (((s.leftAt pos f).endLost f.pkt ((s.net.flight.eraseIdx pos).map (fun x => x.pkt))).logAdd 0x40000 8 1) := by
  refine congrArg Host.Outcome.next ?_
  simp [hf, hself, ht, ha, hh, State.leftAt]

section
variable (ha : s.absent (packetModule f.pkt) = false) (hh : f.hops + 1 < 32)
include ha hh

theorem exec_linkForward_waits
    (hw : s.candidates f.pkt = [] ∨ s.net.routeWait.any (fun x => s.sameStream x f) = true) :
    exec (.linkForward pos) s = .next { s with net := { s.net with
      flight := s.net.flight.eraseIdx pos, routeWait := s.net.routeWait ++ [f] } } := by
  have hwait : (List.isEmpty (s.candidates f.pkt) || s.net.routeWait.any (fun x => s.sameStream x f)) = true := by
    simpa using hw
  refine congrArg Host.Outcome.next ?_
  simp only [hf, hself, ht, ha, hwait, if_neg (Nat.not_le.2 hh)]
  rfl

theorem exec_linkForward_hop (hc : s.candidates f.pkt ≠ [])
    (hw : s.net.routeWait.any (fun x => s.sameStream x f) = false) : exec (.linkForward pos) s = .next
      (if s.linkReady (s.firstHop f) f.onward then (s.leftAt pos f).onLink (s.firstHop f) f.onward else s) := by
  have hwait : (List.isEmpty (s.candidates f.pkt) || s.net.routeWait.any (fun x => s.sameStream x f)) = false := by
    simpa [hw] using hc
  refine congrArg Host.Outcome.next ?_
  simp only [hf, hself, ht, ha, hwait, if_neg (Nat.not_le.2 hh)]
  rfl

end
end
end

theorem State.takenOn_eq (s : State) (l : Nat) (f : Flight) (stream : Nat) (bytes : List Byte) :
    ∃ ls, s.takenOn l f stream bytes = { s with
      mortar := (s.noteSent f.pkt).mortar, lnk := { s.lnk with links := ls } } := by
  unfold State.takenOn
  rw [s.noteSent_eq f.pkt]
  exact ⟨_, rfl⟩

/-- The packet in flight at a position goes on its link. -/
def State.goOn (s : State) (pos l : Nat) (f : Flight) : State := (s.leftAt pos f).onLink l f.onward

section
variable {s : State} {l : Nat} (hl : s.leader l = l) (pos : Nat) (f : Flight)
include hl

theorem State.goOn_of_leader :
    let u := (s.leftAt pos f).takenOn l f.onward (s.linkForm l f.pkt).1 (s.bytesOn l f)
    s.goOn pos l f = (u.modCh l LinkCh.flitSent).emit (((s.leftAt pos f).link (u.nextMember l)).flit (u.nextMember l)
      ((u.link l).ch.flitHeader 0 ((s.leftAt pos f).link l).ch.txSeq) (s.bytesOn l f)) := by
  have hgo := State.onLink_of_leader ((s.leader_leftAt pos f l).trans hl) f.onward
  rw [show (s.leftAt pos f).linkForm l f.onward.pkt = s.linkForm l f.pkt from s.linkForm_leftAt pos f l f.pkt] at hgo
  exact hgo

/-- The channel of the link takes the packet, and its flit leaves. -/
theorem State.link_goOn (x : Nat) : (s.goOn pos l f).link x = { (s.leftAt pos f).link x with
    ch := if x = l then ((((s.leftAt pos f).link x).ch.taken (s.linkForm l f.pkt).1
          (linkCredits (s.bytesOn l f).length) f.pkt).queued
          { seq := ((s.leftAt pos f).link l).ch.txSeq, body := s.bytesOn l f, pkt := some f.onward }).flitSent
      else ((s.leftAt pos f).link x).ch } := by
  rw [State.goOn_of_leader hl pos f]
  refine (State.link_modCh _ l x _).trans ?_
  rw [State.link_takenOn]
  split <;> rfl

theorem State.ch_goOn : ∃ rq rs, ((s.goOn pos l f).link l).ch =
    ((({ (s.link l).ch with retReq := rq, retRsp := rs } : LinkCh).taken (s.linkForm l f.pkt).1
      (linkCredits (s.bytesOn l f).length) f.pkt).queued
      { seq := (s.link l).ch.txSeq, body := s.bytesOn l f, pkt := some f.onward }).flitSent := by
  obtain ⟨rq, rs, hx⟩ := s.link_leftAt pos f l
  refine ⟨rq, rs, ?_⟩
  rw [State.link_goOn hl pos f l, hx]
  exact if_pos rfl

/-- A flit leaves with the packet; else only links change, and for a reduction packet the sent ledger. -/
theorem State.goOn_eq : ∃ ls m hd, hd.extractLsb' 42 16 = (s.link l).ch.txSeq ∧ s.goOn pos l f = { s with
    net := { s.net with flight := s.net.flight.eraseIdx pos }, lnk := { s.lnk with links := ls },
    mortar := (s.noteSent f.pkt).mortar, out := s.out ++ [(s.link m).flit m hd (s.bytesOn l f)] } := by
  obtain ⟨ls, hs⟩ := s.leftAt_eq pos f
  obtain ⟨ls', hu⟩ := (s.leftAt pos f).takenOn_eq l f.onward (s.linkForm l f.pkt).1 (s.bytesOn l f)
  have hm : ((s.leftAt pos f).noteSent f.pkt).mortar = (s.noteSent f.pkt).mortar :=
    State.mortar_noteSent_congr (by rw [hs]) (by rw [hs]) f.pkt
  have hflit (m : Nat) (hd : Word) : ((s.leftAt pos f).link m).flit m hd (s.bytesOn l f) =
      (s.link m).flit m hd (s.bytesOn l f) := by
    obtain ⟨_, _, hx⟩ := s.link_leftAt pos f m
    rw [hx]; rfl
  have hseq : ((s.leftAt pos f).link l).ch.txSeq = (s.link l).ch.txSeq := by
    obtain ⟨_, _, hx⟩ := s.link_leftAt pos f l
    rw [hx]
  obtain ⟨u, hu', hgo⟩ : ∃ u, u = (s.leftAt pos f).takenOn l f.onward (s.linkForm l f.pkt).1 (s.bytesOn l f) ∧ _ :=
    ⟨_, rfl, State.goOn_of_leader hl pos f⟩
  have hmod : ∃ ls, u.modCh l LinkCh.flitSent = { s with
      net := { s.net with flight := s.net.flight.eraseIdx pos }, lnk := { s.lnk with links := ls },
      mortar := (s.noteSent f.pkt).mortar } := by
    rw [hu', hu, show (s.leftAt pos f).noteSent f.onward.pkt = (s.leftAt pos f).noteSent f.pkt from rfl, hm, hs]
    exact ⟨_, rfl⟩
  obtain ⟨ls, hmod⟩ := hmod
  refine ⟨ls, u.nextMember l, _, LinkCh.extract_flitHeader (u.link l).ch 0 _, ?_⟩
  rw [hgo, ← hu', hflit, hseq, hmod]
  rfl

end

/-! ## Packets that are lost (R230) -/

/-- A TADD of this module that is lost ends with PEER_ABSENT. -/
theorem State.endLost_tadd {s : State} {p : Packet} (hop : p.op = 4) (hself : s.isSelf p.srcModule.toNat = true)
    (rest : List Packet) : s.endLost p rest = s.sent [answer p 5 stAbsent] := by
  have hrun : ¬((p.op = 0 ∨ p.op = 1) ∧ (!p.last) = true ∧ rest.any (fun q => s.sameOp p q) = true) := by
    simp [hop]
  have hanswer : absentAnswer { p with last := true } = some (answer p 5 stAbsent) := by
    simp only [absentAnswer, hop]; rfl
  have hmodule : packetModule (answer p 5 stAbsent) = p.srcModule.toNat := rfl
  rw [State.endLost, if_neg hrun, State.endAbsent, hanswer]
  simp only [hmodule, hself, Bool.true_or, if_true]
  rfl

theorem State.endLost_leftAt {s : State} {f : Flight} (hop : f.pkt.op = 4) (hself : s.isSelf f.pkt.srcModule.toNat = true)
    (pos : Nat) (rest : List Packet) :
    (s.leftAt pos f).endLost f.pkt rest = (s.leftAt pos f).sent [answer f.pkt 5 stAbsent] := by
  obtain ⟨ls, hs⟩ := s.leftAt_eq pos f
  exact State.endLost_tadd hop (by rw [hs]; exact hself) rest

theorem exec_routeWaitExpiry_tadd {s : State} {pos : Nat} {f : Flight} (hf : s.net.routeWait[pos]? = some f)
    (hop : f.pkt.op = 4) (hself : s.isSelf f.pkt.srcModule.toNat = true) : exec (.routeWaitExpiry pos) s =
      .next (State.sent (State.freeFlight { s with net := { s.net with
        routeWait := s.net.routeWait.eraseIdx pos } } f) [answer f.pkt 5 stAbsent]) := by
  obtain ⟨ls, hs⟩ := State.freeFlight_eq { s with net := { s.net with routeWait := s.net.routeWait.eraseIdx pos } } f
  have hend := State.endLost_tadd hop (s := State.freeFlight { s with net := { s.net with
    routeWait := s.net.routeWait.eraseIdx pos } } f) (by rw [hs]; exact hself)
    ((s.net.routeWait.eraseIdx pos).map (fun x => x.pkt))
  refine congrArg Host.Outcome.next ?_
  simp only [hf]
  exact hend

/-! ## A new route table (R171, R268) -/

theorem absentDiffers_eq_false {s u : State} (h : ∀ i, i < 4095 → u.absent i = s.absent i) :
    absentDiffers s u = false := by
  rw [absentDiffers, List.any_eq_false]
  intro i hi
  simp [h i (List.mem_range.1 hi)]

theorem State.afterAbsence_of_same {s u : State} (h : ∀ i, i < 4095 → u.absent i = s.absent i) : u.afterAbsence s = u := by
  rw [State.afterAbsence, absentDiffers_eq_false h]; rfl

theorem State.endReenum_of_none {s : State} (h : s.job.reenum = none) : s.endReenum = s := by
  simp only [State.endReenum, h]

/-- Settles O31: a packet's first hop, what it leaves behind there, what ends it, and the routes that are new. -/
theorem routing : Obligations.Routing := by
  unfold Obligations.Routing
  intro s
  refine ⟨fun pos f hf hself => ?flight, fun pos f hf hop hsrc => exec_routeWaitExpiry_tadd hf hop hsrc, ?install⟩
  case install =>
    intro u hre hsame
    refine congrArg Host.Outcome.next ?_
    change (State.afterAbsence u s).endReenum = u
    rw [State.afterAbsence_of_same hsame]
    exact State.endReenum_of_none hre
  case flight =>
    refine ⟨exec_linkForward_notInTurn hf hself, fun ht => ⟨fun ha hh =>
      ⟨exec_linkForward_waits hf hself ht ha hh, fun hc hw hn hroom hjoin hl => ?goes, fun hc hw hheld => ?stays⟩,
      fun hop hsrc => ⟨fun ha => ?absent, fun ha hh => ?hops⟩⟩⟩
    case absent => rw [exec_linkForward_absent hf hself ht ha, State.endLost_leftAt hop hsrc]; rfl
    case hops => rw [exec_linkForward_hops hf hself ht ha hh, State.endLost_leftAt hop hsrc]; rfl
    case stays =>
      have hready : ¬s.linkReady (s.firstHop f) f.onward = true := by
        rw [State.linkReady_onward_iff]
        rintro ⟨hn, hroom, hjoin⟩
        obtain h | h | h := hheld
        · exact Nat.not_le.2 h hn
        · exact Bool.false_ne_true (h.symm.trans hroom)
        · exact Bool.false_ne_true (hjoin.symm.trans h)
      rw [exec_linkForward_hop hf hself ht ha hh hc hw, if_neg hready]
    case goes =>
      have hl' : s.leader (s.firstHop f) = s.firstHop f := hl
      have hready := (s.linkReady_onward_iff (s.firstHop f) f).2 ⟨hn, hroom, hjoin⟩
      obtain ⟨ls, m, hd, hseq, hgo⟩ := State.goOn_eq hl' pos f
      obtain ⟨rq, rs, hch⟩ := State.ch_goOn hl' pos f
      refine ⟨s.goOn pos (s.firstHop f) f, m, hd, ?_, by rw [hgo]; rfl, hseq, by rw [hgo], by rw [hgo],
        congrArg LinkCh.txSeq hch, congrArg LinkCh.replayBuf hch, congrArg LinkCh.usedReq hch, congrArg LinkCh.usedRsp hch,
        fun x => ?_, fun x hx => ?_, by rw [hgo]⟩
      · rw [exec_linkForward_hop hf hself ht ha hh hc hw, if_pos hready]
        rfl
      · obtain ⟨_, _, hx⟩ := s.link_leftAt pos f x
        rw [State.link_goOn hl' pos f x, hx]
      · rw [State.link_goOn hl' pos f x]
        exact if_neg hx

end Sys2Proof.Machine
end

section
/-! SUPPORT. What a module that enters FAILED keeps: its retired pseudo-channels, their error counts, its fail cause and dump
requests, and the states of the links that do not go down. -/

namespace Sys2Proof.Machine

/-- What nothing on the way into FAILED changes but the entry itself, and of the links only those that go down. -/
structure FaultView where
  /-- retired pseudo-channels. -/
  retired : List Nat
  /-- the spare map in use. -/
  installed : List Nat
  /-- the cause of FAILED. -/
  failCause : BitVec 4
  /-- its line in the power-loss log. -/
  logFail : Option (BitVec 4 × Nat)
  /-- dumps that are wanted. -/
  dumpWant : List (BitVec 4)
  /-- of each pseudo-channel, its uncorrected errors and the re-read that is due. -/
  errors : Nat → BitVec 16 × Bool
  /-- state of each link. -/
  links : Nat → BitVec 4

/-- The view of the fields that bear it. -/
def faultViewOf (retired installed : List Nat) (pchs : SMap Pch) (failCause : BitVec 4)
    (logFail : Option (BitVec 4 × Nat)) (dumpWant : List (BitVec 4)) (links : SMap Link) : FaultView :=
  { retired, installed, failCause, logFail, dumpWant
    errors := fun p => ((SMap.get {} pchs p).uncorrected, (SMap.get {} pchs p).reread)
    links := fun l => (SMap.get {} links l).state }

def State.faultView (s : State) : FaultView :=
  faultViewOf s.ft.retired s.ft.installed s.ft.pchs s.plb.failCause s.plb.logFail s.plb.dumpWant s.lnk.links

theorem State.failCause_faultView (s : State) : s.faultView.failCause = s.plb.failCause := rfl
theorem State.logFail_faultView (s : State) : s.faultView.logFail = s.plb.logFail := rfl
theorem State.links_faultView (s : State) (l : Nat) : s.faultView.links l = (s.link l).state := rfl
theorem State.dumpWant_faultView (s : State) : s.faultView.dumpWant = s.plb.dumpWant := rfl
theorem State.retired_faultView (s : State) : s.faultView.retired = s.ft.retired := rfl
theorem State.installed_faultView (s : State) : s.faultView.installed = s.ft.installed := rfl
theorem State.errors_faultView (s : State) (p : Nat) :
    s.faultView.errors p = ((s.pch p).uncorrected, (s.pch p).reread) := rfl

/-! ## How the view sees a state that is built -/

@[simp] theorem State.faultView_mk (pending : List Instr) (mem : Mem) (cores : SMap Core) (clusters : SMap Cluster)
    (ft : FastTier) (net : Net) (mortar : Mortar) (lnk : Links) (chain : Chain) (msn : MasonBlk) (ports : SMap Port)
    (job : Job) (plb : Plumb) (pwr : Power) (start : Start) (free losses : Nat) (out : List Out) :
    State.faultView ⟨pending, mem, cores, clusters, ft, net, mortar, lnk, chain, msn, ports, job, plb, pwr, start, free,
      losses, out⟩ =
      faultViewOf ft.retired ft.installed ft.pchs plb.failCause plb.logFail plb.dumpWant lnk.links := rfl

@[simp] theorem faultViewOf_fields (s : State) : faultViewOf s.ft.retired s.ft.installed s.ft.pchs s.plb.failCause
    s.plb.logFail s.plb.dumpWant s.lnk.links = s.faultView := rfl

@[simp] theorem State.faultView_ite (c : Prop) [Decidable c] (s u : State) :
    (if c then s else u).faultView = if c then s.faultView else u.faultView := apply_ite ..

theorem State.faultView_foldl {α : Type} {f : State → α → State} (h : ∀ u x, (f u x).faultView = u.faultView)
    (l : List α) (s : State) : (l.foldl f s).faultView = s.faultView :=
  List.foldlRecOn (motive := fun u : State => u.faultView = s.faultView) l f rfl fun u hu x _ => (h u x).trans hu

theorem State.faultView_modPch (s : State) (p : Nat) {f : Pch → Pch}
    (h : ∀ q, (f q).uncorrected = q.uncorrected ∧ (f q).reread = q.reread) :
    (s.modPch p f).faultView = s.faultView := by
  have herr (i : Nat) : ((SMap.get {} (SMap.modify {} s.ft.pchs p f) i).uncorrected,
      (SMap.get {} (SMap.modify {} s.ft.pchs p f) i).reread) =
      ((SMap.get {} s.ft.pchs i).uncorrected, (SMap.get {} s.ft.pchs i).reread) := by
    by_cases hi : i = p
    · rw [hi, SMap.get_modify_same, (h _).1, (h _).2]
    · rw [SMap.get_modify_ne _ _ _ hi]
  simp only [State.modPch, State.faultView, faultViewOf, herr]

theorem State.faultView_modLink (s : State) (l : Nat) {f : Link → Link} (h : ∀ k, (f k).state = k.state) :
    (s.modLink l f).faultView = s.faultView := by
  have hstate (i : Nat) : (SMap.get {} (SMap.modify {} s.lnk.links l f) i).state = (SMap.get {} s.lnk.links i).state := by
    by_cases hi : i = l
    · rw [hi, SMap.get_modify_same, h]
    · rw [SMap.get_modify_ne _ _ _ hi]
  simp only [State.modLink, State.faultView, faultViewOf, hstate]

/-! ## Operations that leave the view as it is -/

theorem Pch.errors_accept (p : Pch) (crit : Bool) (r : PchReq) :
    (p.accept crit r).uncorrected = p.uncorrected ∧ (p.accept crit r).reread = p.reread := by
  unfold Pch.accept
  split_ifs <;> exact ⟨rfl, rfl⟩

section
variable (s : State)

@[simp] theorem State.faultView_modStrand (c t : Nat) (f : Strand → Strand) :
    (s.modStrand c t f).faultView = s.faultView := rfl
@[simp] theorem State.faultView_modEng (c : Nat) (f : Engine → Engine) : (s.modEng c f).faultView = s.faultView := rfl
@[simp] theorem State.faultView_modCluster (k : Nat) (f : Cluster → Cluster) :
    (s.modCluster k f).faultView = s.faultView := rfl
@[simp] theorem State.faultView_modMason (m : Nat) (f : Mason → Mason) : (s.modMason m f).faultView = s.faultView := rfl
@[simp] theorem State.faultView_modPort (p : Nat) (f : Port → Port) : (s.modPort p f).faultView = s.faultView := rfl
@[simp] theorem State.faultView_emit (o : Out) : (s.emit o).faultView = s.faultView := rfl
@[simp] theorem State.faultView_send (p : Packet) : (s.send p).faultView = s.faultView := rfl
@[simp] theorem State.faultView_useFree : s.useFree.faultView = s.faultView := rfl
@[simp] theorem State.faultView_logAdd (off bytes n : Nat) : (s.logAdd off bytes n).faultView = s.faultView := rfl
@[simp] theorem State.faultView_violate (v : Viol) : (s.violate v).faultView = s.faultView := rfl
@[simp] theorem State.faultView_logWait (i : Nat) : (s.logWait i).faultView = s.faultView := rfl
@[simp] theorem State.faultView_logOp (i : Nat) : (s.logOp i).faultView = s.faultView := rfl
@[simp] theorem State.faultView_errLog (cause unit : Nat) : (s.errLog cause unit).faultView = s.faultView := rfl
@[simp] theorem State.faultView_countAbsent (c : Nat) : (s.countAbsent c).faultView = s.faultView := rfl
@[simp] theorem State.faultView_modLandings (f : List Landing → List Landing) :
    (s.modLandings f).faultView = s.faultView := rfl
@[simp] theorem State.faultView_takeGot (l : Landing) : (s.takeGot l).faultView = s.faultView := rfl
@[simp] theorem State.faultView_block (c t : Nat) (w : Wait) : (s.block c t w).faultView = s.faultView := rfl
@[simp] theorem State.faultView_setKSlot (cl i : Nat) (x : KSlot) : (s.setKSlot cl i x).faultView = s.faultView := rfl
@[simp] theorem State.faultView_relabel (from_ : List Nat) (l : Nat) : (s.relabel from_ l).faultView = s.faultView := rfl
@[simp] theorem State.faultView_forgetCredits (l : Nat) : (s.forgetCredits l).faultView = s.faultView := rfl
@[simp] theorem State.faultView_noteTopo (e : TopoEdge) (up : Bool) : (s.noteTopo e up).faultView = s.faultView := rfl
@[simp] theorem State.faultView_sendUp (ty : BitVec 4) (body : W32) : (s.sendUp ty body).faultView = s.faultView := rfl
@[simp] theorem State.faultView_sendDown (ty : BitVec 4) (body : W32) : (s.sendDown ty body).faultView = s.faultView := rfl
@[simp] theorem State.faultView_modChain (f : Chain → Chain) : (s.modChain f).faultView = s.faultView := rfl
@[simp] theorem State.faultView_modJob (f : Job → Job) : (s.modJob f).faultView = s.faultView := rfl
@[simp] theorem State.faultView_modLiftRam (f : Lift → Lift) : (s.modLiftRam f).faultView = s.faultView := rfl

@[simp] theorem State.faultView_checkWaits : s.checkWaits.faultView = s.faultView := by
  simp [State.checkWaits]

@[simp] theorem State.faultView_store (key : Nat) (bs : List Byte) : (s.store key bs).faultView = s.faultView := by
  simp [State.store]

@[simp] theorem State.faultView_storeList (l : List (Nat × Byte)) : (s.storeList l).faultView = s.faultView := by
  simp [State.storeList]

@[simp] theorem State.faultView_request (a : Word) (n : Nat) (crit write nofill : Bool) :
    (s.request a n crit write nofill).faultView = s.faultView := by
  refine State.faultView_foldl (fun u i => ?_) _ s
  split
  · exact State.faultView_modPch u _ fun q => q.errors_accept crit _
  · rfl

@[simp] theorem State.faultView_addKey (key : Nat) (amount : Word) : (s.addKey key amount).1.faultView = s.faultView := by
  unfold State.addKey
  split <;> simp

@[simp] theorem State.faultView_addLocal (a amount : Word) : (s.addLocal a amount).1.faultView = s.faultView := by
  unfold State.addLocal
  split
  · split <;> simp
  all_goals simp

@[simp] theorem State.faultView_advance (a : Word) (unit tag : Nat) : (s.advance a unit tag).faultView = s.faultView := by
  simp [State.advance]

@[simp] theorem State.faultView_setSlot (unit tag : Nat) (v : Option RemSlot) :
    (s.setSlot unit tag v).faultView = s.faultView := by
  simp [State.setSlot]

@[simp] theorem State.faultView_noteStatus (c t : Nat) (st : BitVec 3) : (s.noteStatus c t st).faultView = s.faultView := by
  simp [State.noteStatus]

@[simp] theorem State.faultView_msixBoth (v : Nat) : (s.msixBoth v).faultView = s.faultView := by
  simp [State.msixBoth, State.msix]

@[simp] theorem State.faultView_setMod (st : ModState) : (s.setMod st).faultView = s.faultView := by
  simp [State.setMod]

@[simp] theorem State.faultView_hold (h : Hold) (unit : Nat) : (s.hold h unit).faultView = s.faultView := by
  simp [State.hold, State.errLog]

@[simp] theorem State.faultView_complete (k : Cmd) : (s.complete k).faultView = s.faultView := by
  simp [State.complete]

@[simp] theorem State.faultView_setSreg (c t : Nat) (r : BitVec 5) (v : Word) :
    (s.setSreg c t r v).faultView = s.faultView := by
  simp [State.setSreg]

@[simp] theorem State.faultView_countSlow (off n : Nat) : (s.countSlow off n).faultView = s.faultView :=
  State.faultView_foldl (f := State.violate) (fun u v => u.faultView_violate v) _ s

@[simp] theorem State.faultView_writeSlow (off : Nat) (bs : List Byte) : (s.writeSlow off bs).faultView = s.faultView := by
  simp [State.writeSlow]

@[simp] theorem State.faultView_modLift (f : Lift → Lift) : (s.modLift f).faultView = s.faultView := by
  unfold State.modLift State.writeHeaders
  dsimp only
  rw [State.faultView_foldl (fun u _ => by rw [State.faultView_mk, faultViewOf_fields])]
  simp

@[simp] theorem State.faultView_descriptorDone (m : Nat) : (s.descriptorDone m).faultView = s.faultView := by
  unfold State.descriptorDone
  dsimp only
  split
  · simp
  split <;> simp

@[simp] theorem State.faultView_endGroups (m : Nat) : (s.endGroups m).faultView = s.faultView := by
  simp only [State.endGroups, State.faultView_foldl, State.faultView_descriptorDone, implies_true, State.faultView_modMason]

@[simp] theorem State.faultView_recordReceived : s.recordReceived.faultView = s.faultView := by
  unfold State.recordReceived
  split
  · rfl
  dsimp only
  split
  · rfl
  · rw [State.faultView_advance]
    split
    · rw [State.faultView_logOp, State.faultView_modLift, State.faultView_mk, faultViewOf_fields]
    · rw [State.faultView_mk, faultViewOf_fields]

@[simp] theorem State.faultView_endAbsent (p : Packet) : (s.endAbsent p).faultView = s.faultView := by
  unfold State.endAbsent
  split <;> simp

@[simp] theorem State.faultView_post (p : Packet) : (s.post p).faultView = s.faultView := by
  simp [State.post]

@[simp] theorem State.faultView_postAll (ps : List Packet) : (s.postAll ps).faultView = s.faultView :=
  State.faultView_foldl (fun u p => u.faultView_post p) ps s

@[simp] theorem State.faultView_endCt (c t : Nat) (ct : BitVec 18) : (s.endCt c t ct).faultView = s.faultView := by
  simp [State.endCt]

@[simp] theorem State.faultView_finishSlot (unit tag : Nat) (x : RemSlot) :
    (s.finishSlot unit tag x).faultView = s.faultView := by
  unfold State.finishSlot
  dsimp only
  split
  · simp
  split <;> simp

@[simp] theorem State.faultView_markOwn (unit tag : Nat) (b : Branch) : (s.markOwn unit tag b).faultView = s.faultView := by
  simp [State.markOwn]

@[simp] theorem State.faultView_countAnswer (unit tag : Nat) (x : RemSlot) (i : Nat) (b : Branch) (st : BitVec 3) :
    (s.countAnswer unit tag x i b st).faultView = s.faultView := by
  simp [State.countAnswer]

@[simp] theorem State.faultView_landRun (l : Landing) : (s.landRun l).faultView = s.faultView := by
  unfold State.landRun
  dsimp only
  split
  · split <;> simp
  · split <;> simp

@[simp] theorem State.faultView_landAll : s.landAll.faultView = s.faultView :=
  State.faultView_foldl (fun u l => by split <;> simp) _ s

@[simp] theorem State.faultView_signalAcked (p : Packet) : (s.signalAcked p).faultView = s.faultView := by
  unfold State.signalAcked
  split <;> simp

@[simp] theorem State.faultView_modCh (l : Nat) (f : LinkCh → LinkCh) : (s.modCh l f).faultView = s.faultView :=
  s.faultView_modLink l fun _ => rfl

@[simp] theorem State.faultView_freeFlight (f : Flight) : (s.freeFlight f).faultView = s.faultView := by
  obtain h | ⟨l, rsp, n, h⟩ := s.freeFlight_cases f
  · rw [h]
  · rw [h, State.faultView_modCh]

/-- A change of every link that keeps its state. -/
theorem State.faultView_mapLinks (n : Net) {g : Link → Link} (h0 : g {} = {}) (hg : ∀ k, (g k).state = k.state) :
    State.faultView { s with net := n, lnk := { s.lnk with links := s.lnk.links.map (fun k => (k.1, g k.2)) } } =
      s.faultView := by
  simp only [State.faultView, faultViewOf, SMap.get_map_val h0, hg]

/-- A link whose replay buffer has lost its packets of an operation. -/
def Link.withoutPackets (f : Packet → Bool) (k : Link) : Link :=
  { k with ch := { k.ch with replayBuf := k.ch.replayBuf.map (fun t =>
    if t.pkt.any (fun x => f x.pkt) then { t with pkt := none } else t) } }

@[simp] theorem State.faultView_dropPackets (f : Packet → Bool) : (s.dropPackets f).faultView = s.faultView := by
  have hfree := State.faultView_foldl (f := State.freeFlight) (fun u x => u.faultView_freeFlight x)
    ((s.net.flight ++ s.net.routeWait).filter (fun x => f x.pkt)) s
  unfold State.dropPackets
  exact (State.faultView_mapLinks _ _ (g := Link.withoutPackets f) rfl fun _ => rfl).trans hfree

@[simp] theorem State.faultView_endBranch (unit tag i : Nat) : (s.endBranch unit tag i).faultView = s.faultView := by
  unfold State.endBranch
  split
  · rfl
  split
  · rfl
  · simp

@[simp] theorem State.faultView_endBranches : s.endBranches.faultView = s.faultView :=
  State.faultView_foldl (fun u (x : Nat × Nat × Nat) => u.faultView_endBranch x.1 x.2.1 x.2.2) _ s

@[simp] theorem State.faultView_endSignals : s.endSignals.faultView = s.faultView :=
  State.faultView_foldl (fun u l => by split <;> simp) _ s

@[simp] theorem State.faultView_dropLandings : s.dropLandings.faultView = s.faultView := by
  simp [State.dropLandings]

@[simp] theorem State.faultView_absentIf (c : Nat) (st : BitVec 3) : (s.absentIf c st).faultView = s.faultView := by
  simp [State.absentIf]

@[simp] theorem State.faultView_unblock (c t : Nat) (sd : BitVec 5) (st : BitVec 3) :
    (s.unblock c t sd st).faultView = s.faultView := by
  simp [State.unblock]

@[simp] theorem State.faultView_karrDone (c t : Nat) (sd : BitVec 5) (round : Word) (st : BitVec 3) :
    (s.karrDone c t sd round st).faultView = s.faultView := by
  simp [State.karrDone]

@[simp] theorem State.faultView_endWait (c t : Nat) : (s.endWait c t).faultView = s.faultView := by
  unfold State.endWait
  split
  · rfl
  split <;> simp

@[simp] theorem State.faultView_notifyFire (p v : Nat) : (s.notifyFire p v).faultView = s.faultView := by
  simp [State.notifyFire, State.msix]

@[simp] theorem State.faultView_endWaits : s.endWaits.faultView = s.faultView := by
  unfold State.endWaits
  dsimp only
  rw [State.faultView_foldl (fun u x => by split <;> simp),
    State.faultView_foldl (fun u (x : Nat × Nat) => u.faultView_endWait x.1 x.2), State.faultView_dropPackets]

@[simp] theorem State.faultView_replyKarr (key : Nat) (m : KMember) (round : Word) (st : BitVec 3) :
    (s.replyKarr key m round st).faultView = s.faultView := by
  simp [State.replyKarr]

@[simp] theorem State.faultView_sendRelease (key : Nat) (m : KMember) (round : Word) (st : BitVec 3) :
    (s.sendRelease key m round st).faultView = s.faultView := by
  simp [State.sendRelease]

@[simp] theorem State.faultView_writeBack (x : KSlot) : (s.writeBack x).faultView = s.faultView := by
  simp [State.writeBack]

@[simp] theorem State.faultView_kBreak (cl i : Nat) (x : KSlot) : (s.kBreak cl i x).faultView = s.faultView := by
  unfold State.kBreak
  dsimp only
  rw [State.faultView_writeBack, State.faultView_setKSlot, State.faultView_foldl (fun u m => by simp),
    State.faultView_foldl (fun u m => by simp)]

@[simp] theorem State.faultView_chainBreak (cl key : Nat) : (s.chainBreak cl key).faultView = s.faultView := by
  unfold State.chainBreak
  split <;> simp

@[simp] theorem State.faultView_tellModules (key : Nat) (ms : List Nat) (round : Word) (st : BitVec 3) :
    (s.tellModules key ms round st).faultView = s.faultView :=
  State.faultView_foldl (fun u _ => u.faultView_post _) _ s

@[simp] theorem State.faultView_breakChain (cl key : Nat) : (s.breakChain cl key).faultView = s.faultView := by
  simp [State.breakChain]

@[simp] theorem State.faultView_endKeystones : s.endKeystones.faultView = s.faultView :=
  State.faultView_foldl (fun u x => by simp) _ s

@[simp] theorem State.faultView_sweepAbsent : s.sweepAbsent.faultView = s.faultView := by
  simp [State.sweepAbsent]

@[simp] theorem State.faultView_afterAbsence (old : State) : (s.afterAbsence old).faultView = s.faultView := by
  simp [State.afterAbsence]

@[simp] theorem State.faultView_broadcastAbsent (a : Nat) : (s.broadcastAbsent a).faultView = s.faultView := by
  simp [State.broadcastAbsent]

@[simp] theorem State.faultView_headTopo (e : TopoEdge) (up : Bool) (body : W32) :
    (s.headTopo e up body).faultView = s.faultView := by
  simp [State.headTopo]

@[simp] theorem State.faultView_reportTopo (l : Nat) (up : Bool) : (s.reportTopo l up).faultView = s.faultView := by
  simp [State.reportTopo]

/-! ## Links (R250, R263, R266) -/

@[simp] theorem State.faultView_sendFlit (l : Nat) (kind : BitVec 2) (on : Option Nat) (seq : BitVec 16)
    (body : List Byte) : (s.sendFlit l kind on seq body).faultView = s.faultView := by
  simp [State.sendFlit]

@[simp] theorem State.faultView_sendSeq (l : Nat) (kind : BitVec 2) (on : Option Nat) (body : List Byte)
    (pkt : Option Flight) : (s.sendSeq l kind on body pkt).faultView = s.faultView := by
  simp [State.sendSeq]

@[simp] theorem State.faultView_sendCtrl (l code arg : Nat) : (s.sendCtrl l code arg).faultView = s.faultView := by
  simp [State.sendCtrl]

@[simp] theorem State.faultView_resend (l : Nat) : (s.resend l).faultView = s.faultView :=
  State.faultView_foldl (fun u (t : TxFlit) => u.faultView_sendFlit l t.kind t.on t.seq t.body) _ s

@[simp] theorem State.faultView_replay (l : Nat) : (s.replay l).faultView = s.faultView := by
  simp [State.replay, State.faultView_modLink]

@[simp] theorem State.faultView_endLost (p : Packet) (rest : List Packet) : (s.endLost p rest).faultView = s.faultView := by
  simp [State.endLost]

@[simp] theorem State.faultView_moveLead (old new : Nat) : (s.moveLead old new).faultView = s.faultView := by
  simp [State.moveLead]

@[simp] theorem State.faultView_sendLeave : s.sendLeave.faultView = s.faultView := by
  unfold State.sendLeave
  dsimp only
  rw [State.faultView_foldl (fun u l => by split <;> simp)]
  simp

end

@[simp] theorem State.faultView_endAllLost (s : State) (ps : List Packet) : (s.endAllLost ps).faultView = s.faultView := by
  induction ps generalizing s with
  | nil => rfl
  | cons p ps ih => rw [State.endAllLost, ih, State.faultView_endLost]

/-! ## Links that go down (R266, R363) -/

/-- The state of a link that goes down: neither an empty nor a failed link changes. -/
def downState (st : BitVec 4) : BitVec 4 := if st = 0 then 0 else if st = lkFailed then lkFailed else lkDown

/-- The view with a link in another state. -/
def FaultView.setLink (v : FaultView) (l : Nat) (st : BitVec 4) : FaultView :=
  { v with links := fun x => if x = l then st else v.links x }

theorem downState_of_out {st : BitVec 4} (h : st = 0 ∨ st = lkFailed) : downState st = st := by
  obtain rfl | rfl := h <;> rfl

theorem FaultView.setLink_self (v : FaultView) (l : Nat) : v.setLink l (v.links l) = v :=
  congrArg (fun g => { v with links := g }) (funext fun x => by split <;> simp_all)

section
variable (s : State) (l : Nat) {f : Link → Link}

theorem State.faultView_changeLink (h : ∀ k, (f k).state = k.state) : (s.changeLink l f).faultView = s.faultView := by
  simp [State.changeLink, State.faultView_modLink s l h]

theorem State.faultView_changeLink_state {st : BitVec 4} (h : ∀ k, (f k).state = st) :
    (s.changeLink l f).faultView = s.faultView.setLink l st := by
  have hmod : (s.modLink l f).faultView = s.faultView.setLink l st := by
    have hstate (i : Nat) : (SMap.get {} (SMap.modify {} s.lnk.links l f) i).state =
        if i = l then st else (SMap.get {} s.lnk.links i).state := by
      split
      · next hi => rw [hi, SMap.get_modify_same, h]
      · next hi => rw [SMap.get_modify_ne _ _ _ hi]
    simp only [State.modLink, State.faultView, faultViewOf, FaultView.setLink, hstate]
  simp [State.changeLink, hmod]

theorem State.faultView_linkOut (st cause : BitVec 4) :
    (s.linkOut l st cause).faultView = s.faultView.setLink l st := by
  unfold State.linkOut
  dsimp only
  split
  · rw [State.faultView_replay, State.faultView_modCh, State.faultView_foldl,
      State.faultView_changeLink_state (st := st)]
    · simp
    · exact fun _ => rfl
    · exact fun u k => u.faultView_changeLink k fun _ => rfl
  · rw [State.faultView_endAllLost, State.faultView_forgetCredits, State.faultView_changeLink_state (st := st)]
    · simp
    · exact fun _ => rfl

theorem State.faultView_darken (cause : BitVec 4) : (s.darken l cause).faultView =
    s.faultView.setLink l (downState (s.faultView.links l)) := by
  have hstate : s.faultView.links l = (s.link l).state := rfl
  unfold State.darken
  split
  · next h => rw [hstate, downState_of_out h, ← hstate, FaultView.setLink_self]
  · next h => rw [State.faultView_linkOut, hstate, downState, if_neg (not_or.1 h).1, if_neg (not_or.1 h).2]

end

/-- The view with the first `n` links down. -/
def FaultView.linksDown (v : FaultView) (n : Nat) : FaultView :=
  { v with links := fun x => if x < n then downState (v.links x) else v.links x }

theorem State.faultView_foldl_darken (s : State) (cause : BitVec 4) (n : Nat) :
    ((List.range n).foldl (fun s l => s.darken l cause) s).faultView = s.faultView.linksDown n := by
  induction n with
  | zero => rfl
  | succ n ih =>
    rw [List.range_succ, List.foldl_append, List.foldl_cons, List.foldl_nil, State.faultView_darken, ih]
    have hlast : (s.faultView.linksDown n).links n = s.faultView.links n := if_neg (Nat.lt_irrefl n)
    rw [hlast]
    have hlink (x : Nat) : (if x = n then downState (s.faultView.links n) else (s.faultView.linksDown n).links x) =
        if x < n + 1 then downState (s.faultView.links x) else s.faultView.links x := by
      obtain hx | hx | hx := Nat.lt_trichotomy x n
      · rw [if_neg (Nat.ne_of_lt hx), if_pos (Nat.lt_succ_of_lt hx)]
        exact if_pos hx
      · rw [if_pos hx, hx, if_pos (Nat.lt_succ_self n)]
      · rw [if_neg (Nat.ne_of_gt hx), if_neg (Nat.not_lt.2 hx)]
        exact if_neg (Nat.not_lt.2 (Nat.le_of_lt hx))
    exact congrArg (fun g => { s.faultView with links := g }) (funext hlink)

@[simp] theorem State.faultView_linksDown (s : State) : s.linksDown.faultView = s.faultView.linksDown 12 :=
  s.faultView_foldl_darken 0 12

/-! ## FAILED (R363) -/

theorem State.faultView_enterFailed (s : State) (cause : BitVec 4) : (s.enterFailed cause).faultView =
    { s.faultView with
      failCause := cause, logFail := some (cause, s.plb.powered), dumpWant := s.plb.dumpWant ++ [2]
      links := (s.faultView.linksDown 12).links } := by
  unfold State.enterFailed
  dsimp only
  rw [State.faultView_msixBoth, State.faultView_setMod, State.faultView_modJob, State.closeBypass,
    State.faultView_modChain, State.faultView_linksDown, State.faultView_sendLeave]
  rfl

theorem State.job_setMod (s : State) (st : ModState) : (s.setMod st).job = { s.job with st } := by
  unfold State.setMod
  split
  · next h => rw [← h]
  · rw [State.job_msixBoth]

theorem State.chain_setMod (s : State) (st : ModState) : (s.setMod st).chain = s.chain := by
  unfold State.setMod
  split
  · rfl
  · rw [State.chain_msixBoth]

theorem State.job_enterFailed (s : State) (cause : BitVec 4) : ∃ j : Job, (s.enterFailed cause).job =
    { j with st := .failed, frozen := true, masonStop := true, runs := [] } := by
  refine ⟨(s.enterFailed cause).job, ?_⟩
  unfold State.enterFailed
  dsimp only
  rw [State.job_msixBoth, State.job_setMod, State.modJob]

theorem State.chain_enterFailed (s : State) (cause : BitVec 4) : ∃ c : Chain, (s.enterFailed cause).chain =
    { c with bypass := true, addrValid := false } := by
  refine ⟨(s.enterFailed cause).chain, ?_⟩
  unfold State.enterFailed
  dsimp only
  rw [State.chain_msixBoth, State.chain_setMod, State.modJob, State.closeBypass, State.modChain]

/-- Entering FAILED sets its cause and its line in the power-loss log, wants a dump, leaves the chain and takes the links
down. -/
theorem State.failedFor_enterFailed (s : State) (cause : BitVec 4) : s.failedFor (s.enterFailed cause) cause := by
  have hview := s.faultView_enterFailed cause
  have hcause : (s.enterFailed cause).plb.failCause = cause := by rw [← State.failCause_faultView, hview]
  have hlog : (s.enterFailed cause).plb.logFail = some (cause, s.plb.powered) := by
    rw [← State.logFail_faultView, hview]
  have hdump : (s.enterFailed cause).plb.dumpWant = s.plb.dumpWant ++ [2] := by
    rw [← State.dumpWant_faultView, hview]
  have hlinks (l : Nat) (hl : l < 12) : ((s.enterFailed cause).link l).state = downState (s.link l).state := by
    rw [← State.links_faultView, hview]
    exact if_pos hl
  obtain ⟨j, hjob⟩ := s.job_enterFailed cause
  obtain ⟨c, hchain⟩ := s.chain_enterFailed cause
  exact ⟨by rw [hjob], hcause, hlog, hdump, by rw [hchain], by rw [hchain], by rw [hjob], by rw [hjob],
    by rw [hjob], hlinks⟩

end Sys2Proof.Machine
end

section
/-! SUPPORT. Errors of a pseudo-channel, its retirement, and the obligation on them (O44). -/

namespace Sys2Proof.Machine

/-! ## The lifetime log and pseudo-channels (R357, R458) -/

theorem State.logGet_logAdd_same (s : State) (off bytes n : Nat) :
    (s.logAdd off bytes n).logGet off = min (s.logGet off + n) (2 ^ (8 * bytes) - 1) :=
  SMap.get_modify_same 0 s.plb.log off (fun v => min (v + n) (2 ^ (8 * bytes) - 1))

theorem State.logGet_logAdd_ne (s : State) {off x : Nat} (bytes n : Nat) (h : x ≠ off) :
    (s.logAdd off bytes n).logGet x = s.logGet x :=
  SMap.get_modify_ne 0 s.plb.log (fun v => min (v + n) (2 ^ (8 * bytes) - 1)) h

/-- Of a pseudo-channel `p`, `f` is new; nothing else changes. -/
def State.pchChanged (s u : State) (p : Nat) (f : Pch) : Prop :=
  u.pch p = f ∧ (∀ x, x ≠ p → u.pch x = s.pch x) ∧ { u with ft := { u.ft with pchs := s.ft.pchs } } = s

/-- Of a pseudo-channel `p`, `f` is new, and an event is counted in the lifetime log. -/
def State.pchCounted (s u : State) (p : Nat) (f : Pch) (off bytes : Nat) : Prop :=
  u.pch p = f ∧ (∀ x, x ≠ p → u.pch x = s.pch x) ∧
  u.logGet off = min (s.logGet off + 1) (2 ^ (8 * bytes) - 1) ∧ (∀ x, x ≠ off → u.logGet x = s.logGet x) ∧
  { u with ft := { u.ft with pchs := s.ft.pchs }, plb := { u.plb with log := s.plb.log } } = s

/-- What a module that is retiring a pseudo-channel has already changed: counts of pseudo-channels and the lifetime log. -/
def State.pchNoted (s v : State) : Prop := ∃ qs log,
  v = { s with ft := { s.ft with pchs := qs }, plb := { s.plb with log } }

theorem State.pchChanged_self (s : State) (p : Nat) : s.pchChanged s p (s.pch p) := ⟨rfl, fun _ _ => rfl, rfl⟩

section
variable {s v : State} {p : Nat} {f : Pch}

theorem State.pchChanged.modPch (h : s.pchChanged v p f) (g : Pch → Pch) : s.pchChanged (v.modPch p g) p (g f) := by
  obtain ⟨hpch, hother, hrest⟩ := h
  exact ⟨by rw [State.pch_modPch_same, hpch], fun x hx => (State.pch_modPch_ne v g hx).trans (hother x hx), hrest⟩

theorem State.pchChanged.logAdd (h : s.pchChanged v p f) (off bytes : Nat) :
    s.pchCounted (v.logAdd off bytes 1) p f off bytes := by
  obtain ⟨hpch, hother, hrest⟩ := h
  have hplb : v.plb = s.plb := by rw [← hrest]
  have hlog (x : Nat) : v.logGet x = s.logGet x := by rw [State.logGet, State.logGet, hplb]
  refine ⟨hpch, hother, ?_, fun x hx => ?_, ?_⟩
  · rw [State.logGet_logAdd_same, hlog]
  · rw [State.logGet_logAdd_ne _ _ _ hx, hlog]
  · rw [← hplb]
    exact hrest

theorem State.pchChanged.noted (h : s.pchChanged v p f) : s.pchNoted v := by
  obtain ⟨-, -, hrest⟩ := h
  exact ⟨v.ft.pchs, v.plb.log, by rw [← hrest]⟩

theorem State.pchChanged.noted_logAdd (h : s.pchChanged v p f) (off bytes : Nat) : s.pchNoted (v.logAdd off bytes 1) := by
  obtain ⟨-, -, hrest⟩ := h
  exact ⟨v.ft.pchs, (v.logAdd off bytes 1).plb.log, by rw [← hrest]; rfl⟩

end

theorem State.onPch_of_live {s : State} {p : Nat} (hg : s.pwr.good = true) (hp : p ∉ s.ft.retired) (act : State → State) :
    s.onPch p act = act s := by
  simp [State.onPch, hg, hp]

/-! ## A sorted list that takes a number -/

theorem mem_insertSorted {x y : Nat} {l : List Nat} : y ∈ insertSorted x l ↔ y = x ∨ y ∈ l := by
  induction l with
  | nil => simp [insertSorted]
  | cons z l ih =>
    unfold insertSorted
    split_ifs with hlt heq
    · exact List.mem_cons
    · rw [heq, List.mem_cons]; tauto
    · rw [List.mem_cons, ih, List.mem_cons]; tauto

theorem length_insertSorted {x : Nat} {l : List Nat} (h : x ∉ l) : (insertSorted x l).length = l.length + 1 := by
  induction l with
  | nil => rfl
  | cons z l ih =>
    obtain ⟨hz, hl⟩ := not_or.1 (mt List.mem_cons.2 h)
    unfold insertSorted
    split_ifs
    · rfl
    · rw [List.length_cons, List.length_cons, ih hl]

/-! ## A fault hold (R359) -/

theorem State.msix_eq (s : State) (p v : Nat) : ∃ ps o, s.msix p v = { s with ports := ps, out := o } := by
  unfold State.msix
  split
  · split
    · exact ⟨_, s.out, rfl⟩
    · exact ⟨s.ports, _, rfl⟩
  · exact ⟨s.ports, s.out, rfl⟩

theorem State.msixBoth_eq (s : State) (v : Nat) : ∃ ps o, s.msixBoth v = { s with ports := ps, out := o } := by
  obtain ⟨_, _, h0⟩ := s.msix_eq 0 v
  obtain ⟨ps, o, h1⟩ := (s.msix 0 v).msix_eq 1 v
  exact ⟨ps, o, by rw [State.msixBoth, h1, h0]⟩

theorem State.setMod_eq (s : State) (st : ModState) : ∃ ps o, s.setMod st =
    { s with job := { s.job with st }, ports := ps, out := o } := by
  unfold State.setMod
  split
  · next h => exact ⟨s.ports, s.out, by rw [← h]⟩
  · exact State.msixBoth_eq { s with job := { s.job with st } } 0

/-- What a fault hold notes before the module state changes. -/
def State.noteHold (s : State) (h : Hold) (unit : Nat) : State := { s.errLog h.code.toNat unit with
  chain := { s.chain with ready := false }
  job := { s.job with
    holds := s.job.holds ++ [h.code], frozen := s.job.frozen || h.freezes
    masonStop := s.job.masonStop || h.stopsMasons, rewind := s.job.rewind.filter (fun r => !r.resume)
    prior := s.job.st } }

/-- A module that runs or is set goes to HELD. -/
theorem State.hold_eq {s : State} (h : Hold) (unit : Nat) (hs : s.job.st = .running ∨ s.job.st = .set) :
    ∃ ps o, s.hold h unit = { s.noteHold h unit with
      job := { (s.noteHold h unit).job with st := .held }, ports := ps, out := o } := by
  have hrun : ¬(s.job.st = .unset ∨ s.job.st = .failed) := by obtain h | h := hs <;> simp [h]
  have hheld : ¬s.job.st = .held := by obtain h | h := hs <;> simp [h]
  have heq : s.hold h unit = ((s.noteHold h unit).setMod .held).msixBoth 2 := by
    simp only [State.hold, State.noteHold, if_neg hrun, if_pos hs, if_neg hheld]
    rfl
  obtain ⟨_, _, hset⟩ := (s.noteHold h unit).setMod_eq .held
  obtain ⟨ps, o, hmsix⟩ := ((s.noteHold h unit).setMod .held).msixBoth_eq 2
  exact ⟨ps, o, by rw [heq, hmsix, hset]⟩

theorem State.heldFor_hold {s : State} (h : Hold) (unit : Nat) (hs : s.job.st = .running ∨ s.job.st = .set) :
    s.heldFor (s.hold h unit) h ∧ (s.hold h unit).mem = s.mem ∧ (s.hold h unit).cores = s.cores ∧
      (s.hold h unit).net = s.net ∧ (s.hold h unit).msn = s.msn := by
  obtain ⟨ps, o, he⟩ := State.hold_eq h unit hs
  rw [he]
  exact ⟨⟨rfl, rfl, rfl, rfl, rfl, rfl⟩, rfl, rfl, rfl, rfl⟩

/-! ## Retirement (R357, R359, R363) -/

theorem State.recordRetired_eq (s : State) (kind unit : Nat) : ∃ rs es, s.recordRetired kind unit =
    { s with plb := { s.plb with retirements := rs, errlog := es } } := by
  unfold State.recordRetired
  dsimp only
  split <;> exact ⟨_, _, rfl⟩

/-- A pseudo-channel has been retired, and the module is about to be held or to enter FAILED. -/
def State.pchRetired (s : State) (p : Nat) : State :=
  State.modPch { s.recordRetired 0 p with ft := { (s.recordRetired 0 p).ft with
    retired := insertSorted p (s.recordRetired 0 p).ft.retired } } p (fun q => { q with reread := false, retraining := false })

theorem State.pchRetired_eq (s : State) (p : Nat) : ∃ rs es qs, s.pchRetired p = { s with
    plb := { s.plb with retirements := rs, errlog := es }
    ft := { s.ft with retired := insertSorted p s.ft.retired, pchs := qs } } := by
  obtain ⟨rs, es, h⟩ := s.recordRetired_eq 0 p
  unfold State.pchRetired
  rw [h]
  exact ⟨rs, es, _, rfl⟩

/-- The eighth retirement enters FAILED; any other holds the module. -/
theorem State.retirePch_of_live {s : State} {p : Nat} (hp : p ∉ s.ft.retired) : s.retirePch p =
    if 7 ≤ s.ft.retired.length then (s.pchRetired p).enterFailed 1 else (s.pchRetired p).hold .pchRetired p := by
  obtain ⟨rs, es, qs, hr⟩ := s.pchRetired_eq p
  have hlen : (s.pchRetired p).ft.retired.length = s.ft.retired.length + 1 := by
    rw [hr]; exact length_insertSorted hp
  have hcontains : s.ft.retired.contains p = false := by simpa using hp
  have hstep : s.retirePch p = if 8 ≤ (s.pchRetired p).ft.retired.length then (s.pchRetired p).enterFailed 1
      else (s.pchRetired p).hold .pchRetired p := by
    unfold State.retirePch
    exact if_neg (Bool.eq_false_iff.1 hcontains)
  rw [hstep, hlen]
  exact if_congr (by omega) rfl rfl

/-- What the retirement of a pseudo-channel sets, and how it holds or fails the module. -/
def State.pchRetires (s u : State) (p : Nat) : Prop :=
  (∀ x, x ∈ u.ft.retired ↔ x = p ∨ x ∈ s.ft.retired) ∧ u.ft.installed = s.ft.installed ∧
  (s.ft.retired.length < 7 → s.job.st = .running ∨ s.job.st = .set →
    s.heldFor u .pchRetired ∧ u.mem = s.mem ∧ u.cores = s.cores ∧ u.net = s.net ∧ u.msn = s.msn) ∧
  (7 ≤ s.ft.retired.length → s.failedFor u 1)

theorem State.pch_pchRetired (s : State) (p : Nat) : (s.pchRetired p).pch p =
    { s.pch p with reread := false, retraining := false } := by
  obtain ⟨rs, es, h⟩ := s.recordRetired_eq 0 p
  unfold State.pchRetired
  rw [State.pch_modPch_same, h]
  rfl

theorem State.faultView_retirePch {s : State} {p : Nat} (hp : p ∉ s.ft.retired) :
    (s.retirePch p).faultView.retired = insertSorted p s.ft.retired ∧
    (s.retirePch p).faultView.installed = s.ft.installed ∧
    (s.retirePch p).faultView.errors p = ((s.pch p).uncorrected, false) := by
  obtain ⟨rs, es, qs, hr⟩ := s.pchRetired_eq p
  have hret : (s.pchRetired p).faultView.retired = insertSorted p s.ft.retired := by
    rw [State.retired_faultView, hr]
  have hinst : (s.pchRetired p).faultView.installed = s.ft.installed := by
    rw [State.installed_faultView, hr]
  have herr : (s.pchRetired p).faultView.errors p = ((s.pch p).uncorrected, false) := by
    rw [State.errors_faultView, State.pch_pchRetired]
  rw [State.retirePch_of_live hp]
  split
  · rw [State.faultView_enterFailed]; exact ⟨hret, hinst, herr⟩
  · rw [State.faultView_hold]; exact ⟨hret, hinst, herr⟩

theorem State.heldFor.of_job {s r u : State} {h : Hold} (hj : r.job = s.job) (hu : r.heldFor u h) : s.heldFor u h := by
  unfold State.heldFor at hu ⊢
  rw [← hj]
  exact hu

theorem State.failedFor.of_plb {s r u : State} {cause : BitVec 4} (hu : r.failedFor u cause)
    (hpow : r.plb.powered = s.plb.powered) (hdump : r.plb.dumpWant = s.plb.dumpWant) (hl : r.lnk = s.lnk) :
    s.failedFor u cause := by
  have hlink (l : Nat) : s.link l = r.link l := (State.link_congr (congrArg Links.links hl) l).symm
  unfold State.failedFor at hu ⊢
  simp only [← hpow, ← hdump, hlink]
  exact hu

/-- A retirement is what the spec says of the state before the error that caused it was counted. -/
theorem State.pchRetires_retirePch {s v : State} {p : Nat} (hp : p ∉ s.ft.retired) (hv : s.pchNoted v) :
    s.pchRetires (v.retirePch p) p := by
  obtain ⟨qs, log, hv⟩ := hv
  have hret : v.ft.retired = s.ft.retired := by rw [hv]
  have hp' : p ∉ v.ft.retired := hret ▸ hp
  obtain ⟨rs, es, qs', hr⟩ := v.pchRetired_eq p
  obtain ⟨hretired, hinst, -⟩ := State.faultView_retirePch hp'
  refine ⟨fun x => ?_, ?_, fun hlen hst => ?_, fun hlen => ?_⟩
  · rw [← State.retired_faultView, hretired, mem_insertSorted, hret]
  · rw [← State.installed_faultView, hinst, hv]
  · have hjob : (v.pchRetired p).job = s.job := by rw [hr, hv]
    obtain ⟨hheld, hmem, hcores, hnet, hmsn⟩ := State.heldFor_hold (s := v.pchRetired p) .pchRetired p (hjob ▸ hst)
    rw [State.retirePch_of_live hp', if_neg (by rw [hret]; omega)]
    exact ⟨hheld.of_job hjob, hmem.trans (by rw [hr, hv]), hcores.trans (by rw [hr, hv]), hnet.trans (by rw [hr, hv]),
      hmsn.trans (by rw [hr, hv])⟩
  · rw [State.retirePch_of_live hp', if_pos (by rw [hret]; omega)]
    exact ((v.pchRetired p).failedFor_enterFailed 1).of_plb (by rw [hr, hv]) (by rw [hr, hv]) (by rw [hr, hv])

/-! ## The obligation -/

section
variable {s : State} {p : PchId} (hg : s.pwr.good = true) (hp : p.val ∉ s.ft.retired)
include hg hp

theorem exec_pchRereadDone (hr : (s.pch p).reread = true) (r : Reread) : exec (.pchRereadDone p r) s = .next (match r with
    | .clean => s.modPch p (fun q => { q with reread := false })
    | .corrected => (s.modPch p (fun q => { q with reread := false })).pchGoodRead p
    | .uncorrected => (s.pchBadRead p false).retirePch p) :=
  congrArg Host.Outcome.next ((State.onPch_of_live hg hp _).trans (if_neg (by rw [hr]; decide)))

theorem exec_pchUncorrectedRead (hr : (s.pch p).reread = false) :
    exec (.pchUncorrectedRead p) s = .next (s.pchBadRead p true) :=
  congrArg Host.Outcome.next ((State.onPch_of_live hg hp _).trans (if_neg (by rw [hr]; decide)))

theorem exec_pchCeLimit : exec (.pchCeLimit p) s =
    .next (if s.start.img.ftCeLimit ≤ (s.pch p).window.toNat then s.retirePch p else s) :=
  congrArg Host.Outcome.next (State.onPch_of_live hg hp _)

/-- The pseudo-channel after a retrain: in use again, or with one more failure. -/
theorem exec_pchRetrainDone (ht : (s.pch p).retraining = true) (ok : Bool) : exec (.pchRetrainDone p ok) s =
    .next (if 3 ≤ (if ok then 0 else (s.pch p).fails + 1)
      then (s.modPch p (fun q => { q with retraining := false, fails := if ok then 0 else q.fails + 1 })).retirePch p
      else s.modPch p (fun q => { q with retraining := false, fails := if ok then 0 else q.fails + 1 })) := by
  refine congrArg Host.Outcome.next ((State.onPch_of_live hg hp _).trans ((if_neg (by rw [ht]; decide)).trans ?_))
  dsimp only
  rw [State.pch_modPch_same]

end

/-- A retrain that an error asks for. -/
theorem State.pchCounted_pchRetrain {s : State} {p : Nat} (ht : (s.pch p).retraining = false) :
    s.pchCounted (s.pchRetrain p) p { s.pch p with retraining := true, retrains := satAdd (s.pch p).retrains 1 }
      (0x240C + 16 * p) 4 := by
  have hlog : 0x240C + 16 * p = pchLog p + 12 := by rw [pchLog]; omega
  rw [State.pchRetrain, if_neg (by rw [ht]; decide), hlog]
  exact ((s.pchChanged_self p).modPch _).logAdd _ 4

/-! ## The obligation -/

/-- Settles O44: each error of a pseudo-channel is counted, and a retirement holds or fails the module. -/
theorem pseudoChannelFaults : Obligations.PseudoChannelFaults := by
  unfold Obligations.PseudoChannelFaults
  intro p s hg hp
  have hself := s.pchChanged_self p
  have hlive := State.onPch_of_live hg hp
  refine ⟨⟨_, congrArg Host.Outcome.next (hlive _), (hself.modPch _).logAdd _ 8⟩, fun hr => ?misread,
    fun hr => ⟨?clean, ?corrected, ?uncorrected⟩, fun hlim => ?limit, fun hlim => ?below,
    ⟨_, congrArg Host.Outcome.next (hlive _), hself.modPch _⟩,
    fun ht margin => ⟨fun hm => ?floor, fun hm => ?fine, ?parity⟩, fun ht => ⟨?trained, fun hf => ?again, fun hf => ?third⟩⟩
  case misread =>
    have hlog : 0x2408 + 16 * p.val = pchLog p + 8 := by rw [pchLog]; omega
    rw [hlog]
    exact ⟨_, exec_pchUncorrectedRead hg hp hr, (hself.modPch _).logAdd _ 4⟩
  case clean => exact ⟨_, exec_pchRereadDone hg hp hr .clean, hself.modPch _⟩
  case corrected => exact ⟨_, exec_pchRereadDone hg hp hr .corrected, ((hself.modPch _).modPch _).logAdd _ 8⟩
  case uncorrected =>
    have hcounted := (hself.modPch (fun q => { q with uncorrected := satAdd q.uncorrected 1, reread := false }))
    obtain ⟨-, -, herr⟩ := State.faultView_retirePch (s := s.pchBadRead p false) hp
    have herrors := (State.errors_faultView _ _).symm.trans herr
    have hpch : (s.pchBadRead p false).pch p =
        { s.pch p with uncorrected := satAdd (s.pch p).uncorrected 1, reread := false } := hcounted.1
    exact ⟨_, exec_pchRereadDone hg hp hr .uncorrected, State.pchRetires_retirePch hp (hcounted.noted_logAdd _ 4),
      (congrArg Prod.fst herrors).trans (by rw [hpch]), congrArg Prod.snd herrors⟩
  case limit =>
    exact ⟨_, (exec_pchCeLimit hg hp).trans (congrArg _ (if_pos hlim)), State.pchRetires_retirePch hp hself.noted⟩
  case below => exact (exec_pchCeLimit hg hp).trans (congrArg _ (if_neg (Nat.not_le.2 hlim)))
  case floor =>
    exact ⟨_, congrArg Host.Outcome.next ((hlive _).trans (if_pos hm)), State.pchCounted_pchRetrain ht⟩
  case fine => exact congrArg Host.Outcome.next ((hlive _).trans (if_neg (Nat.not_lt.2 hm)))
  case parity => exact ⟨_, congrArg Host.Outcome.next (hlive _), State.pchCounted_pchRetrain ht⟩
  case trained => exact ⟨_, exec_pchRetrainDone hg hp ht true, hself.modPch _⟩
  case again =>
    exact ⟨_, (exec_pchRetrainDone hg hp ht false).trans (congrArg _ (if_neg (Nat.not_le.2 (Nat.succ_lt_succ hf)))),
      hself.modPch _⟩
  case third =>
    exact ⟨_, (exec_pchRetrainDone hg hp ht false).trans (congrArg _ (if_pos (Nat.succ_le_succ hf))),
      State.pchRetires_retirePch hp (hself.modPch _).noted⟩

end Sys2Proof.Machine
end

section
/-! SUPPORT. Write confirmations that a landing agent receives, a held branch of a multicast, and the obligation on them
(O15). -/

namespace Sys2Proof.Machine

/-! ## Confirmations (R212, R213) -/

/-- The net once a landing agent has received a confirmation. -/
def Net.received (n : Net) (k : Confirm) : Net := { n with confirms := n.confirms.erase k, got := n.got ++ [k] }

theorem exec_writeConfirm {k : Confirm} {s : State} {l : Landing} (hl : s.net.landings = [l]) :
    exec (.writeConfirm k) s = .next (if State.landed { s with net := s.net.received k } l
      then State.landRun { s with net := s.net.received k } l else { s with net := s.net.received k }) := by
  show Host.Outcome.next (s.net.landings.foldl _ _) = _
  rw [hl]; rfl

theorem State.landed_iff {l : Landing} (hw : l.sigWait = none) (s : State) :
    s.landed l = true ↔ l.pkt.count.toNat ≤ (s.net.got.filter l.covers).length := by
  rw [State.landed, hw, Option.isNone_none, Bool.true_and, decide_eq_true_eq]

/-- The only run being landed, one without a signal, takes its confirmations and sends its ACK. -/
theorem State.landRun_unsignalled {s : State} {l : Landing} (hl : s.net.landings = [l]) (hsig : l.pkt.sig = false)
    (hr : s.routable (ackFor l.pkt stOk) = true) : s.landRun l = { s with net := { s.net with
      got := s.net.got.filter (fun x => !l.covers x), landings := [],
      flight := s.net.flight ++ setOut [ackFor l.pkt stOk] } } := by
  have herase : s.net.landings.erase l = [] := by rw [hl, List.erase_cons_head]
  have hland : s.landRun l = (((s.takeGot l).modLandings (fun ls => ls.erase l)).post (ackFor l.pkt stOk)) := by
    simp only [State.landRun, hsig, Bool.false_and, Bool.false_eq_true, if_false]
  rw [hland, State.modLandings]
  show State.post { s with net := { s.net with got := _, landings := s.net.landings.erase l } } _ = _
  rw [herase]
  exact State.post_of_routable hr

/-! ## Held branches (R229, R245) -/

/-- The slot of a multicast one of whose branches has been counted as held. -/
def RemSlot.heldCounted (x : RemSlot) (i : Nat) (b : Branch) : RemSlot :=
  { x with branches := x.branches.set i { b with holdCounted := true } }

theorem exec_mcHoldTimeout {c : CoreId} {slot : Fin 32} {i : Nat} {s : State} {x : RemSlot} {b : Branch}
    (hx : SMap.find? (s.core c).eng.remotes slot.val = some x) (hb : x.branches[i]? = some b) (hmc : x.mc = true)
    (hc : b.holdCounted = false) (hleft : b.acksLeft ≠ 0) (hh : s.branchHeld c slot b = true) :
    exec (.mcHoldTimeout c slot i) s = .next (((s.modEng c (fun e => e.putSlot slot (some (x.heldCounted i b)))).modCluster
      (coreCluster c) (fun k => { k with mcHold := satAdd k.mcHold 1 })).logWait 1) := by
  have hslot : s.slotOf c slot = some x := (if_pos c.isLt).trans hx
  have hcounts : ¬(!x.mc || b.holdCounted || decide (b.acksLeft = 0) || !s.branchHeld c slot b) = true := by
    rw [hmc, hc, decide_eq_false hleft, hh]; decide
  refine congrArg Host.Outcome.next ?_
  simp only [hslot, hb, if_neg hcounts, State.setSlot_eq_modEng]
  rfl

/-! ## The obligation -/

/-- Settles O15: the only run being landed counts what its agent has received, and a held branch is one change of its
slot, of its cluster's counter and of the log. -/
theorem confirmationsAndHolds : Obligations.ConfirmationsAndHolds := by
  unfold Obligations.ConfirmationsAndHolds
  refine ⟨fun k s l hl _ hw hsig => ⟨fun hless => ?waits, fun hall hr => ?lands⟩, fun c slot i s x b hx hb hmc hc hleft hh =>
    ⟨_, exec_mcHoldTimeout hx hb hmc hc hleft hh, ?slot, ?cluster, State.logGet_logAdd_same .., rfl⟩⟩
  case waits =>
    exact (exec_writeConfirm hl).trans (congrArg _ (if_neg fun h => Nat.not_le.2 hless ((State.landed_iff hw _).1 h)))
  case lands =>
    refine (exec_writeConfirm hl).trans (congrArg _ ((if_pos ((State.landed_iff hw _).2 hall)).trans ?_))
    exact State.landRun_unsignalled (s := { s with net := s.net.received k }) hl hsig hr
  case slot =>
    rw [State.core_congr (State.logWait_cores ..), State.core_congr (State.modCluster_cores ..), State.core_modEng_same]
    exact Engine.find?_putSlot ..
  case cluster =>
    rw [State.cluster_congr (State.logWait_clusters ..), State.cluster_modCluster_same]
    rfl

end Sys2Proof.Machine
end

section
/-! SUPPORT. Keystone slots: the object that holds a slot, the close of a round, and what arrivals and waits do at the
slot of their object. -/

namespace Sys2Proof.Machine

/-! ## An object that holds its slot (R222) -/

theorem Mem.word_write_out (m : Mem) {k j : Nat} (bs : List Byte) (h : j + 8 ≤ k ∨ k + bs.length ≤ j) :
    (m.write k bs).word j = m.word j := by
  rw [Mem.word, Mem.read_write_out m bs h, Mem.word]

/-- The first word of an object, with the mark of a broken keystone or without it. -/
def brokenMark (w : Word) (broken : Bool) : Word := if broken then w ||| (1#64 <<< 57) else w &&& ~~~(1#64 <<< 57)

theorem getLsbD_brokenMark (w : Word) {b : Nat} (hb : b < 64) :
    (brokenMark w true).getLsbD b = (w.getLsbD b || b == 57) := by
  have hbit : (1#64 <<< 57).getLsbD b = (b == 57) := by
    rw [show (1#64 <<< 57) = BitVec.twoPow 64 57 from rfl, BitVec.getLsbD_twoPow]
    rcases eq_or_ne b 57 with rfl | h
    · rfl
    · rw [beq_false_of_ne h, decide_eq_false h.symm]; rfl
  rw [brokenMark, if_pos rfl, BitVec.getLsbD_or, hbit]

/-- The memory once a slot's state has been written back to its object. -/
def Mem.withSlot (m : Mem) (x : KSlot) : Mem :=
  (((m.write x.obj.toNat (wordBytes (brokenMark (m.word x.obj.toNat) x.broken))).write (x.obj.toNat + 8)
    (wordBytes x.round)).write (x.obj.toNat + 104) (leBytes 72 x.cur.toNat)).write (x.obj.toNat + 176)
    (leBytes 72 x.nxt.toNat)

theorem State.writeBack_eq (s : State) (x : KSlot) : ∃ ws wakes, s.writeBack x = { s with
    mem := s.mem.withSlot x, net := { s.net with waits := ws, flight := s.net.flight ++ wakes } } :=
  State.checkWaits_eq { s with mem := s.mem.withSlot x }

theorem Mem.byte_withSlot_out (m : Mem) (x : KSlot) {k : Nat} (h : ¬(x.obj.toNat ≤ k ∧ k < x.obj.toNat + 248)) :
    (m.withSlot x).byte k = m.byte k := by
  rw [Mem.withSlot, Mem.byte_write_out, Mem.byte_write_out, Mem.byte_write_out, Mem.byte_write_out] <;>
    simp only [length_wordBytes, length_leBytes] <;> omega

/-- The masks of an object lie above its first two words. -/
theorem Mem.word_withSlot (m : Mem) (x : KSlot) {j : Nat} (h : j ≤ x.obj.toNat + 8) : (m.withSlot x).word j =
    ((m.write x.obj.toNat (wordBytes (brokenMark (m.word x.obj.toNat) x.broken))).write (x.obj.toNat + 8)
      (wordBytes x.round)).word j := by
  rw [Mem.withSlot, Mem.word_write_out _ _ (by omega), Mem.word_write_out _ _ (by omega)]

theorem Mem.round_withSlot (m : Mem) (x : KSlot) : (m.withSlot x).word (x.obj.toNat + 8) = x.round := by
  rw [Mem.word_withSlot m x (Nat.le_refl _), Mem.word_write_same]

theorem Mem.mark_withSlot (m : Mem) (x : KSlot) :
    (m.withSlot x).word x.obj.toNat = brokenMark (m.word x.obj.toNat) x.broken := by
  rw [Mem.word_withSlot m x (Nat.le_add_right _ _), Mem.word_write_out _ _ (by omega), Mem.word_write_same]

/-! ## Slots of a cluster (R222) -/

/-- From `v`, whose clusters are those of `s`, only slot `i` of cluster `cl` has changed, which is now `y`. -/
def State.slotSet (s v u : State) (cl i : Nat) (y : KSlot) : Prop :=
  SMap.find? (u.cluster cl).slots i = some y ∧
  (∀ j, j ≠ i → SMap.find? (u.cluster cl).slots j = SMap.find? (s.cluster cl).slots j) ∧
  { u.cluster cl with slots := (s.cluster cl).slots } = s.cluster cl ∧
  (∀ d, d ≠ cl → u.cluster d = s.cluster d) ∧ { u with clusters := s.clusters } = v

theorem State.cluster_setKSlot_same (s : State) (cl i : Nat) (y : KSlot) : (s.setKSlot cl i y).cluster cl =
    { s.cluster cl with slots := SMap.set (s.cluster cl).slots i y } := State.cluster_modCluster_same ..

theorem State.find?_setKSlot (s : State) (cl i : Nat) (y : KSlot) (j : Nat) :
    SMap.find? ((s.setKSlot cl i y).cluster cl).slots j = if j = i then some y else SMap.find? (s.cluster cl).slots j := by
  rw [State.cluster_setKSlot_same]
  exact SMap.find?_set ..

theorem State.slotSet_setKSlot {s v : State} (h : v.clusters = s.clusters) (cl i : Nat) (y : KSlot) :
    s.slotSet v (v.setKSlot cl i y) cl i y := by
  have hcl := State.cluster_congr h
  refine ⟨?_, fun j hj => ?_, ?_, fun d hd => ?_, ?_⟩
  · rw [State.find?_setKSlot, if_pos rfl]
  · rw [State.find?_setKSlot, if_neg hj, hcl]
  · rw [State.cluster_setKSlot_same, hcl]
  · exact (State.cluster_modCluster_ne v _ hd).trans (hcl d)
  · rw [← h]; rfl

theorem State.find?_freeKSlot (s : State) (cl i : Nat) : SMap.find? ((s.freeKSlot cl i).cluster cl).slots i = none := by
  rw [State.freeKSlot, State.cluster_modCluster_same]
  exact (SMap.find?_erase ..).trans (if_pos rfl)

/-! ## The close of a round (R225) -/

/-- The K_RELEASE that a close sends to an engine (R225). -/
def State.releasePacket (s : State) (key : Nat) (m : KMember) (round : Word) (st : BitVec 3) : Packet :=
  { op := 10, status := st, dst := s.addrOf key, srcModule := m.module, srcUnit := m.unit, tag := m.tag, aux := round }

/-- Releases to engines of this module set out. -/
theorem State.foldl_sendRelease (key : Nat) (round : Word) (st : BitVec 3) {l : List KMember} {s : State}
    (h : ∀ m ∈ l, s.isSelf m.module.toNat = true) : l.foldl (fun u m => u.sendRelease key m round st) s =
      s.sent (l.map (fun m => s.releasePacket key m round st)) := by
  induction l generalizing s with
  | nil => exact s.sent_nil.symm
  | cons m l ih =>
    obtain ⟨hm, hl⟩ := List.forall_mem_cons.1 h
    have hr : s.routable (s.releasePacket key m round st) = true :=
      (congrArg (· || !s.absent m.module.toNat) hm).trans (Bool.true_or _)
    have hrest := ih (s := s.sent [s.releasePacket key m round st]) hl
    have hfirst : s.sendRelease key m round st = s.sent [s.releasePacket key m round st] := State.post_of_routable hr
    rw [List.foldl_cons, hfirst]
    exact hrest.trans (s.sent_append _ _)

/-- A slot whose open round nothing but its participants waits for. -/
structure KSlot.Plain (x : KSlot) : Prop where
  nxt : x.nxt = 0
  held : x.held = []
  waiters : x.waiters = []

/-- A plain slot with its next round open. -/
def KSlot.closed (x : KSlot) : KSlot :=
  { x with round := x.round + 1, cur := 0, nxt := 0, held := [], waiters := [], chainPending := false }

section
variable {s : State} (hself : s.isSelf s.self.toNat = true)
include hself

/-- The close of a plain slot's round releases its participants, writes the object back and frees the slot. -/
theorem State.kClose_plain {x : KSlot} (hx : x.Plain) (cl i : Nat) : s.kClose cl i x =
    ((s.sent (s.releasesOf x)).writeBack x.closed).freeKSlot cl i := by
  have hto : s.releaseTo x =
      (setBits 576 x.parts.toNat).map (fun c => { module := s.self, unit := BitVec.ofNat 10 c }) := by
    unfold State.releaseTo
    simp only [hx.waiters, List.filter_nil, List.append_nil]
  have hsent := State.foldl_sendRelease x.obj.toNat x.round stOk (l := s.releaseTo x) (s := s) (by
    rw [hto]
    exact List.forall_mem_map.2 fun c _ => hself)
  have hpackets : (s.releaseTo x).map (fun m => s.releasePacket x.obj.toNat m x.round stOk) = s.releasesOf x := by
    rw [hto, List.map_map]; rfl
  unfold State.kClose
  simp only [hsent, hpackets, hx.waiters, hx.held, hx.nxt]
  rfl

theorem State.roundClosed_kClose {x : KSlot} (hx : x.Plain) (cl i : Nat) :
    s.roundClosed (s.kClose cl i x) cl i x := by
  obtain ⟨ws, wakes, hw⟩ := (s.sent (s.releasesOf x)).writeBack_eq x.closed
  rw [State.kClose_plain hself hx, hw]
  refine ⟨s.mem.round_withSlot x.closed, fun k hk => s.mem.byte_withSlot_out x.closed hk, ⟨wakes, rfl⟩,
    State.find?_freeKSlot .., fun k hk => State.cluster_modCluster_ne _ _ hk, rfl⟩

/-- A local keystone whose participants have all arrived closes its round (R225). -/
theorem State.roundClosed_kCheck {x : KSlot} (hx : x.Plain) (hp : x.parts ≠ 0) (hall : x.cur &&& x.parts = x.parts)
    (hb : x.broken = false) (hc : x.chainPending = false) (hs : x.scope = 0) (cl i : Nat) :
    s.roundClosed (s.kCheck cl i x) cl i x := by
  have hfull : ¬(x.parts = 0 ∨ x.cur &&& x.parts ≠ x.parts ∨ x.broken = true ∨ x.chainPending = true) := by
    rw [hb, hc]
    rintro (h | h | h | h)
    exacts [hp h, h hall, absurd h (by decide), absurd h (by decide)]
  rw [State.kCheck, if_neg hfull, if_pos hs]
  exact State.roundClosed_kClose hself hx cl i

end

theorem State.kCheck_waits {x : KSlot} (h : x.cur &&& x.parts ≠ x.parts) (s : State) (cl i : Nat) :
    s.kCheck cl i x = s.setKSlot cl i x := if_pos (.inr (.inl h))

/-! ## Arrivals and waits at a bound slot (R224, R226) -/

/-- The reply that a home gives to a `karr` of a core of this module (R224). -/
def karrReply (p : Packet) (round : Word) : KReply :=
  { core := p.srcUnit.toNat, strand := p.tag.toNat, round := round, status := stOk }

/-- The reply to a `karr` has set out. -/
def State.replied (s : State) (p : Packet) (round : Word) : State :=
  { s with net := { s.net with replies := s.net.replies ++ [karrReply p round] } }

theorem State.replied_takeFlight (s : State) (p q : Packet) (round : Word) : (s.takeFlight q).replied p round =
    { s.takeFlight q with net := { (s.takeFlight q).net with replies := s.net.replies ++ [karrReply p round] } } := by
  obtain ⟨fl, ls, hf⟩ := s.takeFlight_flight q
  rw [hf]; rfl

/-- The slot once a core has arrived for its open round. -/
def KSlot.arrived (x : KSlot) (c : Nat) : KSlot := { x with cur := x.cur ||| coreBit c }

theorem State.replyKarr_own {s : State} {p : Packet} (hm : s.isSelf p.srcModule.toNat = true)
    (hu : p.srcUnit.toNat < 576) (key : Nat) (round : Word) : s.replyKarr key (memberOf p) round stOk = s.replied p round :=
  if_pos (by rw [memberOf, hm, decide_eq_true hu]; rfl)

section
variable {p : Packet} {x : KSlot} (hb : x.broken = false)
include hb

section
variable {s : State} (hop : p.op = 8) (hm : s.isSelf p.srcModule.toNat = true) (hu : p.srcUnit.toNat < 576)
include hop hm hu

/-- A participant that arrives first in the open round is admitted. -/
theorem State.kAct_admits (hp : hasCore x.parts p.srcUnit.toNat = true) (hc : hasCore x.cur p.srcUnit.toNat = false)
    (cl i : Nat) : s.kAct cl i x p = (s.replied p x.round).kCheck cl i (x.arrived p.srcUnit.toNat) := by
  have hin : s.letIn x (memberOf p) = (s.replied p x.round, x.arrived p.srcUnit.toNat) := by
    have hfree : (!hasCore x.cur (memberOf p).unit.toNat) = true := by rw [memberOf, hc]; rfl
    rw [State.letIn, if_pos hfree, State.replyKarr_own hm hu]; rfl
  have hmember : (s.isSelf (memberOf p).module.toNat && decide ((memberOf p).unit.toNat < 576) &&
      hasCore x.parts (memberOf p).unit.toNat) = true := by
    rw [memberOf, hm, decide_eq_true hu, hp]; rfl
  rw [State.kAct, if_neg (by rw [hb]; decide), if_pos hop, if_pos hmember, hin]

/-- An arrival of a core that is no participant is counted and answered. -/
theorem State.kAct_nonmember (hp : hasCore x.parts p.srcUnit.toNat = false) (cl i : Nat) :
    s.kAct cl i x p = (s.violate .keystoneNonmember).replied p x.round := by
  have hmember : ¬(s.isSelf (memberOf p).module.toNat && decide ((memberOf p).unit.toNat < 576) &&
      hasCore x.parts (memberOf p).unit.toNat) = true := by
    rw [memberOf, hp, Bool.and_false]; decide
  rw [State.kAct, if_neg (by rw [hb]; decide), if_pos hop, if_neg hmember]
  exact State.replyKarr_own (s := s.violate .keystoneNonmember) hm hu x.obj.toNat x.round

end

section
variable (hop : p.op = 9)
include hop

theorem State.kAct_registers (hr : x.round ≤ p.aux) (s : State) (cl i : Nat) :
    s.kAct cl i x p = s.setKSlot cl i { x with waiters := x.waiters ++ [memberOf p] } := by
  have hopen : ¬(memberOf p).round < x.round := BitVec.not_lt.2 hr
  rw [State.kAct, if_neg (by rw [hb]; decide), if_neg (by rw [hop]; decide), if_neg hopen]

theorem State.kAct_releases (hr : p.aux < x.round) {s : State}
    (hs : s.routable (s.releasePacket x.obj.toNat (memberOf p) (x.round - 1) stOk) = true) (cl i : Nat) :
    s.kAct cl i x p = s.sent [s.releasePacket x.obj.toNat (memberOf p) (x.round - 1) stOk] := by
  have hclosed : (memberOf p).round < x.round := hr
  rw [State.kAct, if_neg (by rw [hb]; decide), if_neg (by rw [hop]; decide), if_pos hclosed]
  exact State.post_of_routable hs

end
end

/-! ## Packets for a bound slot -/

@[simp] theorem State.slotServing_takeFlight (s : State) (p : Packet) (cl key : Nat) :
    (s.takeFlight p).slotServing cl key = s.slotServing cl key := by
  obtain ⟨fl, ls, hf⟩ := s.takeFlight_flight p
  rw [hf]; rfl

/-- An arrival or a wait for an object that a slot serves acts at that slot. -/
theorem State.atHome_bound {s : State} {p : Packet} {k i : Nat} {x : KSlot} (hk : s.place p.dst true = .mem k)
    (hsp : k / 2 ^ 48 = 1 ∨ k / 2 ^ 48 = 2) (hb : s.broken (k / 256 * 256) = false)
    (hx : s.slotServing (servingCluster (k / 256 * 256)) (k / 256 * 256) = some (i, x)) :
    s.atHome p = s.kAct (servingCluster (k / 256 * 256)) i x p := by
  unfold State.atHome
  simp only [hk, if_pos hsp, State.kServe, hb, hx, Bool.false_eq_true, if_false]

theorem State.atHome_takeFlight {s : State} {p : Packet} {k i : Nat} {x : KSlot} (hk : s.place p.dst true = .mem k)
    (hsp : k / 2 ^ 48 = 1 ∨ k / 2 ^ 48 = 2) (hb : s.broken (k / 256 * 256) = false)
    (hx : s.slotServing (servingCluster (k / 256 * 256)) (k / 256 * 256) = some (i, x)) :
    (s.takeFlight p).atHome p = (s.takeFlight p).kAct (servingCluster (k / 256 * 256)) i x p := by
  refine State.atHome_bound ((State.place_congr (s.takeFlight_ft p) _ _).trans hk) hsp ?_
    ((s.slotServing_takeFlight p _ _).trans hx)
  obtain ⟨fl, ls, hf⟩ := s.takeFlight_flight p
  rw [hf]; exact hb

theorem State.op_of_takes {s : State} {p : Packet} {op : BitVec 4} (h : s.takes p op = true) : p.op = op := by
  simp only [State.takes, Bool.and_eq_true, decide_eq_true_eq] at h
  obtain ⟨⟨⟨⟨-, hop⟩, -⟩, -⟩, -⟩ := h
  exact hop

theorem exec_kArrive {s : State} {p : Packet} (h : s.takes p 8 = true) :
    exec (.kArrive p) s = .next ((s.takeFlight p).atHome p) :=
  congrArg Host.Outcome.next (State.takePacket_of_takes h _)

theorem exec_kWait {s : State} {p : Packet} (h : s.takes p 9 = true) :
    exec (.kWait p) s = .next ((s.takeFlight p).atHome p) :=
  congrArg Host.Outcome.next (State.takePacket_of_takes h _)

section
variable {p : Packet} {s : State} {k i : Nat} {x : KSlot} (hk : s.place p.dst true = .mem k)
  (hsp : k / 2 ^ 48 = 1 ∨ k / 2 ^ 48 = 2) (hb : s.broken (k / 256 * 256) = false)
  (hx : s.slotServing (servingCluster (k / 256 * 256)) (k / 256 * 256) = some (i, x)) (hxb : x.broken = false)
include hk hsp hb hx hxb

section
variable (hm : s.isSelf p.srcModule.toNat = true) (hu : p.srcUnit.toNat < 576) (h : s.takes p 8 = true)
include hm hu h

/-- An arrival that the slot admits goes on to the check of its round. -/
theorem exec_kArrive_admits (hp : hasCore x.parts p.srcUnit.toNat = true) (hc : hasCore x.cur p.srcUnit.toNat = false) :
    exec (.kArrive p) s = .next (((s.takeFlight p).replied p x.round).kCheck (servingCluster (k / 256 * 256)) i
      (x.arrived p.srcUnit.toNat)) := by
  obtain ⟨fl, ls, hf⟩ := s.takeFlight_flight p
  have hm' : (s.takeFlight p).isSelf p.srcModule.toNat = true := by rw [hf]; exact hm
  rw [exec_kArrive h, State.atHome_takeFlight hk hsp hb hx,
    State.kAct_admits hxb (State.op_of_takes h) hm' hu hp hc]

theorem exec_kArrive_nonmember (hp : hasCore x.parts p.srcUnit.toNat = false) : exec (.kArrive p) s =
    .next (((s.takeFlight p).violate .keystoneNonmember).replied p x.round) := by
  obtain ⟨fl, ls, hf⟩ := s.takeFlight_flight p
  have hm' : (s.takeFlight p).isSelf p.srcModule.toNat = true := by rw [hf]; exact hm
  rw [exec_kArrive h, State.atHome_takeFlight hk hsp hb hx,
    State.kAct_nonmember hxb (State.op_of_takes h) hm' hu hp]

end

variable (h : s.takes p 9 = true)
include h

theorem exec_kWait_registers (hr : x.round ≤ p.aux) : exec (.kWait p) s = .next ((s.takeFlight p).setKSlot
    (servingCluster (k / 256 * 256)) i { x with waiters := x.waiters ++ [memberOf p] }) := by
  rw [exec_kWait h, State.atHome_takeFlight hk hsp hb hx, State.kAct_registers hxb (State.op_of_takes h) hr]

theorem exec_kWait_releases (hr : p.aux < x.round)
    (hs : s.routable (s.releasePacket x.obj.toNat (memberOf p) (x.round - 1) stOk) = true) : exec (.kWait p) s =
      .next ((s.takeFlight p).sent [s.releasePacket x.obj.toNat (memberOf p) (x.round - 1) stOk]) := by
  obtain ⟨fl, ls, hf⟩ := s.takeFlight_flight p
  have hsame : (s.takeFlight p).releasePacket x.obj.toNat (memberOf p) (x.round - 1) stOk =
      s.releasePacket x.obj.toNat (memberOf p) (x.round - 1) stOk := by rw [hf]; rfl
  rw [exec_kWait h, State.atHome_takeFlight hk hsp hb hx, State.kAct_releases hxb (State.op_of_takes h) hr, hsame]
  rw [hsame, State.routable_takeFlight]
  exact hs

end

/-! ## A free slot and a stalled wait (R222) -/

theorem State.broken_congr {s u : State} (h : ∀ k, (u.cluster k).brokenClm = (s.cluster k).brokenClm ∧
    (u.cluster k).brokenSpad = (s.cluster k).brokenSpad) (hf : u.ft = s.ft) (key : Nat) : u.broken key = s.broken key := by
  unfold State.broken
  simp only [(h _).1, (h _).2, hf]

/-- An arrival or a wait has left the list of a cluster's stalled ones. -/
def State.unstalled (s : State) (cl : Nat) (p : Packet) : State :=
  s.modCluster cl (fun k => { k with stalled := k.stalled.erase p })

theorem State.cluster_unstalled (s : State) (cl : Nat) (p : Packet) :
    (s.unstalled cl p).cluster cl = { s.cluster cl with stalled := (s.cluster cl).stalled.erase p } :=
  State.cluster_modCluster_same ..

theorem State.broken_unstalled (s : State) (cl : Nat) (p : Packet) (key : Nat) :
    (s.unstalled cl p).broken key = s.broken key := by
  refine State.broken_congr (s := s) (u := s.unstalled cl p) (fun k => ?_) rfl key
  by_cases hk : k = cl
  · rw [hk, State.cluster_unstalled]; exact ⟨rfl, rfl⟩
  · rw [State.unstalled, State.cluster_modCluster_ne _ _ hk]; exact ⟨rfl, rfl⟩

section
variable {s : State} {cl key i : Nat} {p : Packet} (hi : lowestFree (s.cluster cl).slots 16 = some i)
  (hb : s.broken key = false) (hn : s.slotServing cl key = none) (hf : s.objectFault key = none)
  (hx : (s.loadSlot key).broken = false)
include hi hb hn hf hx

/-- A wait for an object that no slot serves takes the lowest free slot, which loads the object. -/
theorem State.kServe_binds (count : Bool) : s.kServe cl key p count =
    (s.setKSlot cl i (s.loadSlot key)).kAct cl i (s.loadSlot key) p := by
  unfold State.kServe
  simp only [hb, hn, hf, hx, hi, Bool.false_eq_true, if_false]

/-- A stalled wait for an object that no slot serves is bound and registered. -/
theorem State.kServe_unstalled (hop : p.op = 9) (hr : (s.loadSlot key).round ≤ p.aux) (count : Bool) :
    (s.unstalled cl p).kServe cl key p count = ((s.unstalled cl p).setKSlot cl i (s.loadSlot key)).setKSlot cl i
      { s.loadSlot key with waiters := [memberOf p] } := by
  have hcl := s.cluster_unstalled cl p
  have hi' : lowestFree ((s.unstalled cl p).cluster cl).slots 16 = some i := by rw [hcl]; exact hi
  have hn' : (s.unstalled cl p).slotServing cl key = none := by rw [State.slotServing, hcl]; exact hn
  exact (State.kServe_binds hi' ((s.broken_unstalled cl p key).trans hb) hn' hf hx count).trans
    (State.kAct_registers hx hop hr _ cl i)

end

/-- The key of the object that a packet names. -/
def objectKey (p : Packet) : Nat := p.dst.toNat % 2 ^ 52 / 256 * 256

theorem exec_ksSlotBind {s : State} {cl : ClusterId} {p : Packet} {rest : List Packet}
    (hp : (s.cluster cl).stalled = p :: rest) {i : Nat} (hi : lowestFree (s.cluster cl).slots 16 = some i) :
    exec (.ksSlotBind cl) s =
      .next ((s.unstalled cl p).kServe cl (objectKey p) p false) := by
  refine congrArg Host.Outcome.next ?_
  simp only [hp, hi, Option.isSome_some, Bool.true_or, List.find?_cons_of_pos]
  rfl

/-- A stalled wait takes a free slot, and nothing else of its cluster but the list of stalled ones has changed. -/
theorem stalledWait_binds {cl : ClusterId} {s : State} {p : Packet} {rest : List Packet} {i : Nat}
    (hp : (s.cluster cl).stalled = p :: rest) (hi : lowestFree (s.cluster cl).slots 16 = some i) (hop : p.op = 9)
    (hb : s.broken (objectKey p) = false) (hn : s.slotServing cl (objectKey p) = none)
    (hf : s.objectFault (objectKey p) = none) (hx : (s.loadSlot (objectKey p)).broken = false)
    (hr : (s.loadSlot (objectKey p)).round ≤ p.aux) :
    ∃ u, exec (.ksSlotBind cl) s = .next u ∧ (u.cluster cl).stalled = rest ∧
      SMap.find? (u.cluster cl).slots i = some { s.loadSlot (objectKey p) with waiters := [memberOf p] } ∧
      (∀ j, j ≠ i → SMap.find? (u.cluster cl).slots j = SMap.find? (s.cluster cl).slots j) ∧
      { u.cluster cl with slots := (s.cluster cl).slots, stalled := (s.cluster cl).stalled } = s.cluster cl ∧
      (∀ d, d ≠ cl.val → u.cluster d = s.cluster d) ∧ { u with clusters := s.clusters } = s := by
  have hcl := s.cluster_unstalled cl p
  refine ⟨_, (exec_ksSlotBind hp hi).trans (congrArg _ (State.kServe_unstalled hi hb hn hf hx hop hr false)),
    ?_, ?_, fun j hj => ?_, ?_, fun d hd => ?_, rfl⟩
  · rw [State.cluster_setKSlot_same, State.cluster_setKSlot_same, hcl, hp]
    exact List.erase_cons_head ..
  · rw [State.find?_setKSlot, if_pos rfl]
  · rw [State.find?_setKSlot, if_neg hj, State.find?_setKSlot, if_neg hj, hcl]
  · rw [State.cluster_setKSlot_same, State.cluster_setKSlot_same, hcl]
  · exact (State.cluster_modCluster_ne _ _ hd).trans ((State.cluster_modCluster_ne _ _ hd).trans
      (State.cluster_modCluster_ne _ _ hd))

end Sys2Proof.Machine
end

section
/-! SUPPORT. How a chain keystone closes its round or breaks with K_CHAIN, and the obligation on keystones (O18). -/

namespace Sys2Proof.Machine

/-! ## K_CHAIN packets to other modules (R227, R230) -/

/-- A packet that is posted sets out, or the answer that ends it does, or nothing. -/
theorem State.post_eq (s : State) (p : Packet) : ∃ ps, s.post p = s.sent ps ∧ (s.routable p = true → ps = [p]) := by
  unfold State.post State.endAbsent
  split
  · exact ⟨[p], rfl, fun _ => rfl⟩
  · next hr =>
    split
    · exact ⟨[], s.sent_nil.symm, fun h => absurd h hr⟩
    · split
      · exact ⟨[_], rfl, fun h => absurd h hr⟩
      · exact ⟨[], s.sent_nil.symm, fun h => absurd h hr⟩

/-- The K_CHAIN that tells a module of a round of a chain keystone. -/
def State.chainPacket (s : State) (key : Nat) (round : Word) (st : BitVec 3) (m : Nat) : Packet :=
  { op := 11, status := st, dst := withModule (s.addrOf key) m, aux := round, srcModule := s.self,
    srcUnit := BitVec.ofNat 10 landingUnit }

theorem State.foldl_post_chainPacket (key : Nat) (round : Word) (st : BitVec 3) (l : List Nat) (s : State) : ∃ ps,
    l.foldl (fun u m => u.post (u.chainPacket key round st m)) s = s.sent ps ∧
    ∀ m ∈ l, s.routable (s.chainPacket key round st m) = true → s.chainPacket key round st m ∈ ps := by
  induction l generalizing s with
  | nil => exact ⟨[], s.sent_nil.symm, fun m hm => absurd hm List.not_mem_nil⟩
  | cons m l ih =>
    obtain ⟨qs, hq, hqr⟩ := s.post_eq (s.chainPacket key round st m)
    obtain ⟨ps, hps, hpsr⟩ := ih (s.sent qs)
    refine ⟨qs ++ ps, ?_, fun n hn hr => ?_⟩
    · rw [List.foldl_cons, hq, hps, State.sent_append]
    · rcases List.mem_cons.1 hn with rfl | hn
      · exact List.mem_append_left _ (by rw [hqr hr]; exact List.mem_singleton_self _)
      · exact List.mem_append_right _ (hpsr n hn hr)

/-- Every other module of a mask that can be reached is told. -/
theorem State.tellModules_eq (s : State) (key : Nat) (ms : List Nat) (round : Word) (st : BitVec 3) : ∃ ps,
    s.tellModules key ms round st = s.sent ps ∧ ∀ m ∈ ms, s.isSelf m = false →
      s.routable (s.chainPacket key round st m) = true → s.chainPacket key round st m ∈ ps := by
  obtain ⟨ps, hps, hr⟩ := State.foldl_post_chainPacket key round st (ms.filter (fun m => !s.isSelf m)) s
  refine ⟨ps, hps, fun m hm hself => hr m (List.mem_filter.2 ⟨hm, ?_⟩)⟩
  rw [hself]; rfl

/-! ## A keystone that breaks (R230–R232) -/

/-- The keystone of slot `i`, which no one waits for, is broken, in the slot and in its object. -/
def State.keystoneBroken (s u : State) (cl i : Nat) (x : KSlot) : Prop :=
  SMap.find? (u.cluster cl).slots i = some { x with broken := true, chainPending := false } ∧
  (u.mem.word x.obj.toNat).getLsbD 57 = true ∧ u.mem.word (x.obj.toNat + 8) = x.round ∧
  s.memFrame u (fun k => x.obj.toNat ≤ k ∧ k < x.obj.toNat + 248)

section
variable {x : KSlot} (hheld : x.held = []) (hwait : x.waiters = [])
include hheld hwait

theorem State.kBreak_quiet (s : State) (cl i : Nat) : s.kBreak cl i x =
    (s.setKSlot cl i { x with broken := true, chainPending := false }).writeBack
      { x with broken := true, chainPending := false } := by
  unfold State.kBreak
  simp only [hheld, hwait, List.foldl_nil]

/-- The break of a keystone that no one waits for, in the slot that serves it, once packets have set out. -/
theorem State.chainBreak_bound {s : State} {cl key i : Nat} (hx : s.slotServing cl key = some (i, x)) (ps : List Packet) :
    s.keystoneBroken ((s.sent ps).chainBreak cl key) cl i x ∧
    (∀ q ∈ ps, ({ pkt := q } : Flight) ∈ ((s.sent ps).chainBreak cl key).net.flight) ∧
    { (s.sent ps).chainBreak cl key with mem := s.mem, net := s.net, clusters := s.clusters } = s := by
  obtain ⟨ws, wakes, hw⟩ := ((s.sent ps).setKSlot cl i { x with broken := true, chainPending := false }).writeBack_eq
    { x with broken := true, chainPending := false }
  have hbreak : (s.sent ps).chainBreak cl key = (s.sent ps).kBreak cl i x := by
    rw [State.chainBreak, show (s.sent ps).slotServing cl key = some (i, x) from hx]
  rw [hbreak, State.kBreak_quiet hheld hwait, hw]
  refine ⟨⟨?_, ?_, s.mem.round_withSlot { x with broken := true, chainPending := false }, fun k hk =>
    s.mem.byte_withSlot_out { x with broken := true, chainPending := false } hk⟩, fun q hq => ?_, rfl⟩
  · exact (State.find?_setKSlot ..).trans (if_pos rfl)
  · have hmark := s.mem.mark_withSlot { x with broken := true, chainPending := false }
    refine (congrArg (fun w : Word => w.getLsbD 57) hmark).trans ?_
    rw [getLsbD_brokenMark _ (by decide)]
    exact Bool.or_true _
  · exact List.mem_append_left _ (List.mem_append_right _ (List.mem_map_of_mem hq))

end

theorem State.keystoneBroken.congr {s v u : State} {cl i : Nat} {x : KSlot} (h : v.keystoneBroken u cl i x)
    (hm : v.mem = s.mem) : s.keystoneBroken u cl i x := by
  unfold State.keystoneBroken State.memFrame at *
  rwa [hm] at h

theorem State.chainBroken_bound {s : State} {cl key i : Nat} {x : KSlot} (hx : s.slotServing cl key = some (i, x)) :
    s.chainBroken cl key = x.broken := by rw [State.chainBroken, hx]

theorem State.maskAddr_bound {s : State} {cl key i : Nat} {x : KSlot} (hx : s.slotServing cl key = some (i, x)) :
    s.maskAddr cl key = x.chainMask := by rw [State.maskAddr, hx]

/-- In `s` every other module of `ms` that can be reached has been told by `ps` that a chain keystone is broken. -/
def State.tells (s : State) (key : Nat) (ms : List Nat) (round : Word) (ps : List Packet) : Prop :=
  ∀ m ∈ ms, s.isSelf m = false → s.routable (s.chainPacket key round stBroken m) = true →
    s.chainPacket key round stBroken m ∈ ps

/-- K_CHAIN with a status breaks a keystone that is not broken; a chain home tells the other modules first (R230). -/
theorem State.chainEnds_eq {s : State} {cl key : Nat} (h : s.chainBroken cl key = false) (p : Packet) : ∃ ps,
    s.chainEnds cl key p = (s.sent ps).chainBreak cl key ∧
    ((s.maskModules (s.maskAddr cl key)).head?.any s.isSelf = true →
      s.tells key (s.maskModules (s.maskAddr cl key)) p.aux ps) := by
  unfold State.chainEnds
  simp only [h, Bool.false_eq_true, if_false]
  split
  · obtain ⟨ps, hps, htold⟩ := s.tellModules_eq key (s.maskModules (s.maskAddr cl key)) p.aux stBroken
    exact ⟨ps, by rw [hps], fun _ => htold⟩
  · next hhome => exact ⟨[], by rw [State.sent_nil], fun h => absurd h hhome⟩

/-- A chain home whose keystone is broken, or of whose mask a module is absent, answers a K_CHAIN so (R230). -/
theorem State.chainArrive_breaks {s : State} {cl key : Nat} {ms : List Nat}
    (h : s.chainBroken cl key = true ∨ ∃ m ∈ ms, s.isSelf m = false ∧ s.absent m = true) (p : Packet) : ∃ rounds ps,
    s.chainArrive cl key ms p =
      (State.sent { s with net := { s.net with chainRounds := rounds } } ps).chainBreak cl key ∧
    s.tells key ms p.aux ps := by
  have hbreaks : (s.chainBroken cl key || ms.any (fun m => !s.isSelf m && s.absent m)) = true := by
    rw [Bool.or_eq_true, List.any_eq_true]
    refine h.imp_right fun ⟨m, hm, hself, habs⟩ => ⟨m, hm, ?_⟩
    rw [hself, habs]; rfl
  unfold State.chainArrive
  extract_lets r home rounds n v
  obtain ⟨ps, hps, htold⟩ := v.tellModules_eq key ms p.aux stBroken
  have hv : (v.chainBroken cl key || ms.any (fun m => !v.isSelf m && v.absent m)) = true := hbreaks
  exact ⟨rounds, ps, by rw [if_pos hv, hps], htold⟩

/-- The break of a chain keystone that no slot serves, in its object. -/
theorem State.chainBreak_object {s : State} {cl key : Nat} (hn : s.slotServing cl key = none)
    (hf : s.objectFault key = none) (hscope : (s.mem.word key).extractLsb' 58 2 = 1) : ∃ ws wakes,
    s.chainBreak cl key = { s with
      mem := s.mem.write key (wordBytes (brokenMark (s.mem.word key) true))
      net := { s.net with waits := ws, flight := s.net.flight ++ wakes } } := by
  have hchain : ((s.objectFault key).isNone && decide ((s.mem.word key).extractLsb' 58 2 = 1)) = true := by
    rw [hf, decide_eq_true hscope]; rfl
  have hstore : s.chainBreak cl key = s.store key (wordBytes (brokenMark (s.mem.word key) true)) := by
    unfold State.chainBreak
    rw [hn]
    exact if_pos hchain
  rw [hstore]
  exact State.checkWaits_eq { s with mem := s.mem.write key (wordBytes (brokenMark (s.mem.word key) true)) }

/-! ## K_CHAIN (R227, R230) -/

theorem State.engineRead_eq (s : State) (a : Word) (n : Nat) : ∃ q log, s.engineRead a n = { s with
    ft := { s.ft with pchs := q }, plb := { s.plb with log := log } } := by
  obtain ⟨log, hlog⟩ := s.countBad_eq a n false
  obtain ⟨q, hq⟩ := (s.countBad a n false).request_eq a n false false false
  refine ⟨q, log, ?_⟩
  rw [State.engineRead, hq, hlog]

theorem State.chainClose_bound {s : State} {cl key i : Nat} {x : KSlot} (hx : s.slotServing cl key = some (i, x))
    (hp : x.chainPending = true) (round : Word) (hr : x.round = round) :
    s.chainClose cl key round = s.kClose cl i x := by
  rw [State.chainClose, hx]
  exact if_pos (by rw [hp, decide_eq_true hr]; rfl)

section
variable {s : State} {p : Packet} (h : s.takes p 11 = true)
include h

theorem exec_kChain_ends (hst : p.status ≠ stOk) : exec (.kChain p) s =
    .next ((s.takeFlight p).chainEnds (servingCluster (objectKey p)) (objectKey p) p) :=
  congrArg Host.Outcome.next ((State.takePacket_of_takes h _).trans (if_pos hst))

section
variable {i : Nat} {x : KSlot} (hx : s.slotServing (servingCluster (objectKey p)) (objectKey p) = some (i, x))
include hx

/-- A K_CHAIN with status OK for an object in a slot: the chain home takes it in, another home closes its round. -/
theorem exec_kChain_ok (hst : p.status = stOk) {home : Nat}
    (hh : (s.maskModules x.chainMask).head? = some home) : exec (.kChain p) s = .next (if s.isSelf home
      then ((s.takeFlight p).engineRead x.chainMask 512).chainArrive (servingCluster (objectKey p)) (objectKey p)
        (s.maskModules x.chainMask) p
      else ((s.takeFlight p).engineRead x.chainMask 512).chainClose (servingCluster (objectKey p)) (objectKey p) p.aux) := by
  obtain ⟨fl, ls, hf⟩ := s.takeFlight_flight p
  have hask : (s.takeFlight p).maskAddr (servingCluster (p.dst.toNat % 2 ^ 52 / 256 * 256))
      (p.dst.toNat % 2 ^ 52 / 256 * 256) = x.chainMask :=
    State.maskAddr_bound ((s.slotServing_takeFlight p _ _).trans hx)
  have hms : (s.takeFlight p).maskModules x.chainMask = s.maskModules x.chainMask := by rw [hf]; rfl
  have hself : ((s.takeFlight p).engineRead x.chainMask 512).isSelf home = s.isSelf home := by
    obtain ⟨q, log, hr⟩ := (s.takeFlight p).engineRead_eq x.chainMask 512
    rw [hr, hf]; rfl
  have hok : ¬p.status ≠ 0 := fun hne => hne hst
  refine congrArg Host.Outcome.next ((State.takePacket_of_takes h _).trans ?_)
  simp only [if_neg hok, hask, hms, hh, hself]
  rfl

/-- The chain home's K_CHAIN closes the round that the local home asked it for (R227). -/
theorem kChain_closes (hplain : x.Plain) (hst : p.status = stOk) (hself : s.isSelf s.self.toNat = true)
    (hpend : x.chainPending = true) (hr : x.round = p.aux) {home : Nat}
    (hh : (s.maskModules x.chainMask).head? = some home) (hother : s.isSelf home = false) :
    ∃ u, exec (.kChain p) s = .next u ∧
      ((s.takeFlight p).engineRead x.chainMask 512).roundClosed u (servingCluster (objectKey p)) i x := by
  obtain ⟨fl, ls, hf⟩ := s.takeFlight_flight p
  obtain ⟨q, log, hread⟩ := (s.takeFlight p).engineRead_eq x.chainMask 512
  have hx' : ((s.takeFlight p).engineRead x.chainMask 512).slotServing (servingCluster (objectKey p)) (objectKey p) =
      some (i, x) := by rw [hread, hf]; exact hx
  have hself' : ((s.takeFlight p).engineRead x.chainMask 512).isSelf
      ((s.takeFlight p).engineRead x.chainMask 512).self.toNat = true := by rw [hread, hf]; exact hself
  refine ⟨_, exec_kChain_ok h hx hst hh, ?_⟩
  rw [if_neg (by rw [hother]; decide), State.chainClose_bound hx' hpend p.aux hr]
  exact State.roundClosed_kClose hself' hplain _ i

section
variable (hheld : x.held = []) (hwait : x.waiters = [])
include hheld hwait

/-- K_CHAIN with a status breaks the keystone of a slot (R230). -/
theorem kChain_fails (hst : p.status ≠ stOk) (hb : x.broken = false) : ∃ u, exec (.kChain p) s = .next u ∧
    s.keystoneBroken u (servingCluster (objectKey p)) i x ∧
    ((s.maskModules x.chainMask).head?.any s.isSelf = true → ∀ m ∈ s.maskModules x.chainMask, s.isSelf m = false →
      s.routable (s.chainPacket (objectKey p) p.aux stBroken m) = true →
      ({ pkt := s.chainPacket (objectKey p) p.aux stBroken m } : Flight) ∈ u.net.flight) ∧
    { u with mem := s.mem, net := (s.takeFlight p).net, clusters := s.clusters } = s.takeFlight p := by
  obtain ⟨fl, ls, hf⟩ := s.takeFlight_flight p
  have hx' := (s.slotServing_takeFlight p _ _).trans hx
  obtain ⟨ps, hps, htold⟩ := State.chainEnds_eq ((State.chainBroken_bound hx').trans hb) p
  obtain ⟨hbroken, hsent, hframe⟩ := State.chainBreak_bound hheld hwait hx' ps
  rw [State.maskAddr_bound hx'] at htold
  refine ⟨_, exec_kChain_ends h hst, ?_⟩
  rw [hps]
  refine ⟨hbroken.congr (s.takeFlight_mem p), fun hhome m hm hself hr => hsent _ ?_, ?_⟩
  · rw [hf] at htold
    exact htold hhome m hm hself hr
  · rwa [s.takeFlight_mem, s.takeFlight_clusters] at hframe

/-- The chain home answers a K_CHAIN with a broken keystone (R230). -/
theorem kChain_home_breaks (hst : p.status = stOk) (hhome : (s.maskModules x.chainMask).head?.any s.isSelf = true)
    (hb : x.broken = true ∨ ∃ m ∈ s.maskModules x.chainMask, s.isSelf m = false ∧ s.absent m = true) :
    ∃ u, exec (.kChain p) s = .next u ∧ s.keystoneBroken u (servingCluster (objectKey p)) i x ∧
    (∀ m ∈ s.maskModules x.chainMask, s.isSelf m = false →
      s.routable (s.chainPacket (objectKey p) p.aux stBroken m) = true →
      ({ pkt := s.chainPacket (objectKey p) p.aux stBroken m } : Flight) ∈ u.net.flight) ∧
    { u with mem := s.mem, net := (s.takeFlight p).net, clusters := s.clusters } =
      { (s.takeFlight p).engineRead x.chainMask 512 with net := (s.takeFlight p).net } := by
  obtain ⟨fl, ls, hf⟩ := s.takeFlight_flight p
  obtain ⟨q, log, hread⟩ := (s.takeFlight p).engineRead_eq x.chainMask 512
  obtain ⟨home, hh, hown⟩ := Option.any_eq_true _ _ |>.1 hhome
  have hx' : ((s.takeFlight p).engineRead x.chainMask 512).slotServing (servingCluster (objectKey p)) (objectKey p) =
      some (i, x) := by rw [hread, hf]; exact hx
  have hb' : ((s.takeFlight p).engineRead x.chainMask 512).chainBroken (servingCluster (objectKey p)) (objectKey p) = true ∨
      ∃ m ∈ s.maskModules x.chainMask, ((s.takeFlight p).engineRead x.chainMask 512).isSelf m = false ∧
        ((s.takeFlight p).engineRead x.chainMask 512).absent m = true := by
    rw [State.chainBroken_bound hx', hread, hf]; exact hb
  obtain ⟨rounds, ps, hps, htold⟩ := State.chainArrive_breaks hb' p
  refine ⟨_, exec_kChain_ok h hx hst hh, ?_⟩
  rw [if_pos hown, hps]
  obtain ⟨hbroken, hsent, hframe⟩ := State.chainBreak_bound hheld hwait (s :=
    { (s.takeFlight p).engineRead x.chainMask 512 with
      net := { ((s.takeFlight p).engineRead x.chainMask 512).net with chainRounds := rounds } }) hx' ps
  refine ⟨hbroken.congr (by rw [hread, hf]), fun m hm hself hr => hsent _ ?_, ?_⟩
  · rw [hread, hf] at htold
    exact htold m hm hself hr
  · have hnet := congrArg (fun w : State => { w with net := (s.takeFlight p).net }) hframe
    rw [hread, hf] at hnet ⊢
    exact hnet

end
end

/-- K_CHAIN with a status breaks a chain keystone that no slot serves, in its object (R230). -/
theorem kChain_marks_object (hn : s.slotServing (servingCluster (objectKey p)) (objectKey p) = none) (hst : p.status ≠ stOk)
    (hf : s.objectFault (objectKey p) = none) (hscope : (s.mem.word (objectKey p)).extractLsb' 58 2 = 1) :
    ∃ u, exec (.kChain p) s = .next u ∧
      (∀ b, b < 64 → (u.mem.word (objectKey p)).getLsbD b = ((s.mem.word (objectKey p)).getLsbD b || b == 57)) ∧
      s.memFrame u (fun k => objectKey p ≤ k ∧ k < objectKey p + 8) ∧
      { u with mem := s.mem, net := (s.takeFlight p).net } = s.takeFlight p := by
  obtain ⟨fl, ls, hfl⟩ := s.takeFlight_flight p
  have hn' := (s.slotServing_takeFlight p _ _).trans hn
  have hbroken : (s.takeFlight p).chainBroken (servingCluster (objectKey p)) (objectKey p) =
      (s.mem.word (objectKey p)).getLsbD 57 := by rw [State.chainBroken, hn', s.takeFlight_mem]
  refine ⟨_, exec_kChain_ends h hst, ?_⟩
  cases hbit : (s.mem.word (objectKey p)).getLsbD 57 with
  | true =>
    have hsame : (s.takeFlight p).chainEnds (servingCluster (objectKey p)) (objectKey p) p = s.takeFlight p :=
      if_pos (hbroken.trans hbit)
    rw [hsame, s.takeFlight_mem]
    refine ⟨fun b hb => ?_, fun k _ => by rw [s.takeFlight_mem], by rw [hfl]⟩
    rcases eq_or_ne b 57 with rfl | hne
    · rw [hbit]; rfl
    · rw [beq_false_of_ne hne, Bool.or_false]
  | false =>
    obtain ⟨ps, hps, -⟩ := State.chainEnds_eq (hbroken.trans hbit) p
    have hf' : ((s.takeFlight p).sent ps).objectFault (objectKey p) = none := by rw [hfl]; exact hf
    have hscope' : (((s.takeFlight p).sent ps).mem.word (objectKey p)).extractLsb' 58 2 = 1 := by rw [hfl]; exact hscope
    obtain ⟨ws, wakes, hw⟩ := State.chainBreak_object (s := (s.takeFlight p).sent ps) hn' hf' hscope'
    rw [hps, hw, hfl]
    refine ⟨fun b hb => ?_, fun k hk => ?_, rfl⟩
    · exact (congrArg (fun w : Word => w.getLsbD b) (Mem.word_write_same ..)).trans (getLsbD_brokenMark _ hb)
    · exact Mem.byte_write_out _ _ (by rw [length_wordBytes]; omega)

end

/-! ## The obligation -/

/-- Settles O18: an arrival or a wait acts at the slot of its object, a full round closes, a stalled wait takes a free
slot, and a K_CHAIN closes a round or breaks its keystone. -/
theorem keystones : Obligations.Keystones := by
  unfold Obligations.Keystones
  refine ⟨⟨fun p s k i x hk hsp hb hx hxb hself => ⟨fun h hm hu => ⟨fun hp hc => ⟨fun hwait => ?arrives,
      fun hall hparts hscope hpend hnxt hheld hwaiters => ?closes⟩, fun hp => ?nonmember⟩,
      fun h => ⟨fun hr => ?waits, fun hr hobj hs => ?late⟩⟩,
    fun cl i s x hx hself hparts hall hb hpend hscope hnxt hheld hwaiters => ?cascade⟩,
    fun cl s p rest i hp hi hop hb hn hf hx hr => stalledWait_binds hp hi hop hb hn hf hx hr,
    fun p s i x h hx hheld hwaiters => ⟨fun hst hself hpend hr hnxt ⟨home, hh, hother⟩ =>
      kChain_closes h hx ⟨hnxt, hheld, hwaiters⟩ hst hself hpend hr hh hother, fun hst hb => ?endsBroken,
      fun hst hb => ?ends, fun hst hhome hb => ?homeBreaks⟩,
    fun p s h hn hst hf hscope => kChain_marks_object h hn hst hf hscope⟩
  case arrives =>
    refine ⟨_, (exec_kArrive_admits hk hsp hb hx hxb hm hu h hp hc).trans (congrArg _ (State.kCheck_waits hwait _ _ _)), ?_⟩
    have hset := State.slotSet_setKSlot (v := (s.takeFlight p).replied p x.round) (s.takeFlight_clusters p)
      (servingCluster (k / 256 * 256)) i (x.arrived p.srcUnit.toNat)
    rw [State.replied_takeFlight] at hset ⊢
    exact hset
  case closes =>
    obtain ⟨fl, ls, hf⟩ := s.takeFlight_flight p
    have hself' : ((s.takeFlight p).replied p x.round).isSelf ((s.takeFlight p).replied p x.round).self.toNat = true := by
      rw [hf]; exact hself
    refine ⟨_, exec_kArrive_admits hk hsp hb hx hxb hm hu h hp hc, ?_⟩
    rw [State.replied_takeFlight] at hself' ⊢
    exact State.roundClosed_kCheck hself' (x := x.arrived p.srcUnit.toNat) ⟨hnxt, hheld, hwaiters⟩ hparts hall hxb hpend
      hscope _ i
  case nonmember =>
    refine ⟨_, exec_kArrive_nonmember hk hsp hb hx hxb hm hu h hp, ?_⟩
    obtain ⟨fl, ls, hf⟩ := s.takeFlight_flight p
    rw [hf]; rfl
  case waits =>
    exact ⟨_, exec_kWait_registers hk hsp hb hx hxb h hr, State.slotSet_setKSlot (s.takeFlight_clusters p) _ i _⟩
  case late =>
    have hpacket : s.releasePacket x.obj.toNat (memberOf p) (x.round - 1) stOk = { answer p 10 stOk with
        mcb := false, dst := s.addrOf (k / 256 * 256), aux := x.round - 1 } := by rw [hobj]; rfl
    rw [← hpacket] at hs ⊢
    exact exec_kWait_releases hk hsp hb hx hxb h hr hs
  case cascade =>
    have hexec : exec (.ksCascadeClose cl i) s = .next (s.kCheck cl i x) := by
      refine congrArg Host.Outcome.next ?_
      simp only [hx]
    exact ⟨_, hexec, State.roundClosed_kCheck hself ⟨hnxt, hheld, hwaiters⟩ hparts hall hb hpend hscope _ i⟩
  case endsBroken =>
    refine (exec_kChain_ends h hst).trans (congrArg _ (if_pos ?_))
    exact (State.chainBroken_bound ((s.slotServing_takeFlight p _ _).trans hx)).trans hb
  case ends =>
    obtain ⟨u, hu, ⟨hslot, hmark, hround, hmem⟩, htold, hframe⟩ := kChain_fails h hx hheld hwaiters hst hb
    exact ⟨u, hu, ⟨hslot, hmark, hround, hmem, htold⟩, hframe⟩
  case homeBreaks =>
    obtain ⟨u, hu, ⟨hslot, hmark, hround, hmem⟩, htold, hframe⟩ := kChain_home_breaks h hx hheld hwaiters hst hhome hb
    exact ⟨u, hu, ⟨hslot, hmark, hround, hmem, fun _ => htold⟩, hframe⟩

end Sys2Proof.Machine
end

section
/-! SUPPORT. Elements of equal size written one after another, and an ACC packet that is added in a scratchpad or a
cluster memory. -/

namespace Sys2Proof.Machine

/-! ## Elements written in order -/

/-- The memory once element `i` of `w` bytes, from a key on, has been written with `v i` for each `i` below `n`. -/
def Mem.writeEach (m : Mem) (k w : Nat) (v : Nat → List Byte) : Nat → Mem
  | 0 => m
  | n + 1 => (m.writeEach k w v n).write (k + n * w) (v n)

section
variable (m : Mem) (k : Nat) {w : Nat} {v : Nat → List Byte} (hv : ∀ i, (v i).length = w)
include hv

theorem Mem.byte_writeEach_out {n j : Nat} (h : j < k ∨ k + n * w ≤ j) : (m.writeEach k w v n).byte j = m.byte j := by
  induction n with
  | zero => rfl
  | succ n ih =>
    rw [Nat.succ_mul] at h
    rw [Mem.writeEach, Mem.byte_write_out _ _ (by rw [hv]; omega)]
    exact ih (by omega)

/-- An element that has not been reached reads as before. -/
theorem Mem.read_writeEach_later {n i : Nat} (h : n ≤ i) :
    (m.writeEach k w v n).read (k + i * w) w = m.read (k + i * w) w :=
  List.map_congr_left fun b _ => by
    have hle := Nat.mul_le_mul_right w h
    exact Mem.byte_writeEach_out m k hv (by omega)

theorem Mem.read_writeEach {n i : Nat} (h : i < n) : (m.writeEach k w v n).read (k + i * w) w = v i := by
  induction n with
  | zero => exact absurd h (Nat.not_lt_zero i)
  | succ n ih =>
    rw [Mem.writeEach]
    rcases Nat.lt_succ_iff_lt_or_eq.1 h with hlt | rfl
    · have hle := Nat.mul_le_mul_right w (Nat.succ_le_of_lt hlt)
      rw [Nat.succ_mul] at hle
      rw [Mem.read_write_out _ _ (by omega), ih hlt]
    · have hsame := (m.writeEach k w v i).read_write_same (k + i * w) (v i)
      rwa [hv] at hsame

end

/-- Since `s`, memory has become `m`, and waits that this satisfied have been answered. -/
def State.stored (s : State) (m : Mem) (u : State) : Prop := ∃ ws wakes,
  u = { s with mem := m, net := { s.net with waits := ws, flight := s.net.flight ++ wakes } }

section
variable {s u : State} {m : Mem} (h : s.stored m u)
include h

theorem State.stored.mem : u.mem = m := by
  obtain ⟨ws, wakes, rfl⟩ := h; rfl

theorem State.stored.ft : u.ft = s.ft := by
  obtain ⟨ws, wakes, rfl⟩ := h; rfl

theorem State.stored.mortar : u.mortar = s.mortar := by
  obtain ⟨ws, wakes, rfl⟩ := h; rfl

theorem State.stored.boundAt (k : Nat) : u.boundAt k = s.boundAt k := by
  obtain ⟨ws, wakes, rfl⟩ := h; rfl

end

theorem State.stored.store {s u : State} {m : Mem} (h : s.stored m u) (k : Nat) (bs : List Byte) :
    s.stored (m.write k bs) (u.store k bs) := by
  obtain ⟨ws, wakes, rfl⟩ := h
  obtain ⟨ws', wakes', hw⟩ := State.checkWaits_eq { s with
    mem := m.write k bs, net := { s.net with waits := ws, flight := s.net.flight ++ wakes } }
  refine ⟨ws', wakes ++ wakes', hw.trans ?_⟩
  rw [List.append_assoc]

/-- Stores of one element after another. -/
theorem State.stored_foldl {s : State} {k w : Nat} {v : Nat → List Byte} {g : State → Nat → State} {n : Nat}
    (hg : ∀ i, i < n → ∀ u, s.stored (s.mem.writeEach k w v i) u → g u i = u.store (k + i * w) (v i)) :
    s.stored (s.mem.writeEach k w v n) ((List.range n).foldl g s) := by
  induction n with
  | zero => exact ⟨s.net.waits, [], by rw [List.append_nil]; rfl⟩
  | succ n ih =>
    have hn := ih fun i hi => hg i (Nat.lt_succ_of_lt hi)
    rw [List.range_succ, List.foldl_append, List.foldl_cons, List.foldl_nil, hg n (Nat.lt_succ_self n) _ hn]
    exact hn.store _ _

/-! ## Accumulation in a scratchpad or a cluster memory (R293, R294) -/

/-- The bytes of element `i` of a destination, at a key, once the packet's source element has been added. -/
def accElem (m : Mem) (p : Packet) (k i : Nat) : List Byte :=
  leBytes (accDstSize p.atype) (accPlain p.atype (leNat (m.read (k + i * accDstSize p.atype) (accDstSize p.atype)))
    (srcCode p.sfmt p.payload i))

theorem length_accElem (m : Mem) (p : Packet) (k i : Nat) : (accElem m p k i).length = accDstSize p.atype :=
  length_leBytes ..

theorem State.accLocal_stored {s : State} {p : Packet} {k : Nat}
    (hbad : s.badAt p.dst (p.payload.length / accSrcSize p.sfmt * accDstSize p.atype) true = [])
    (hbound : s.hitsBound p.dst (p.payload.length / accSrcSize p.sfmt * accDstSize p.atype) = false)
    (hplace : ∀ i, i < p.payload.length / accSrcSize p.sfmt →
      s.place (p.dst + BitVec.ofNat 64 (i * accDstSize p.atype)) true = .mem (k + i * accDstSize p.atype) ∧
      s.boundAt (k + i * accDstSize p.atype) = false) :
    s.stored (s.mem.writeEach k (accDstSize p.atype) (accElem s.mem p k) (p.payload.length / accSrcSize p.sfmt))
      (s.accLocal p) := by
  unfold State.accLocal
  simp only [State.countBad_of_nil hbad, hbound, Bool.false_eq_true, if_false]
  refine State.stored_foldl fun i hi u hu => ?_
  obtain ⟨hmem, hfree⟩ := hplace i hi
  have hold : u.mem.read (k + i * accDstSize p.atype) (accDstSize p.atype) =
      s.mem.read (k + i * accDstSize p.atype) (accDstSize p.atype) := by
    rw [hu.mem]
    exact s.mem.read_writeEach_later k (length_accElem s.mem p k) (Nat.le_refl i)
  have hmem' : u.place (p.dst + BitVec.ofNat 64 (i * accDstSize p.atype)) true = .mem (k + i * accDstSize p.atype) :=
    (State.place_congr hu.ft _ _).trans hmem
  simp only [hmem', hu.boundAt, hfree, hold, Bool.false_eq_true, if_false]
  rfl

/-- An ACC packet has been taken, and the last one of a run has been noted for its landing agent. -/
def State.noted (s : State) (p : Packet) : State := (s.takeFlight p).noteLanding p (s.linkOf p)

theorem State.noted_eq (s : State) (p : Packet) : ∃ fl ls lands,
    s.takeFlight p = { s with net := { s.net with flight := fl }, lnk := { s.lnk with links := ls } } ∧
    s.noted p =
      { s with net := { s.net with flight := fl, landings := lands }, lnk := { s.lnk with links := ls } } := by
  obtain ⟨fl, ls, hf⟩ := s.takeFlight_flight p
  refine ⟨fl, ls, (s.noted p).net.landings, hf, ?_⟩
  rw [State.noted, State.noteLanding_eq, hf]

/-- An ACC packet of a plain type for a scratchpad or a cluster memory is added at once and confirmed. -/
theorem exec_accPacket_local {p : Packet} {s : State} (h : s.takes p 1 = true) (hne : p.payload ≠ [])
    (hty : p.atype.toNat < 3) (hsp : addrSpace p.dst = 1 ∨ addrSpace p.dst = 2) : exec (.accPacket p) s =
      .next (((s.noted p).accLocal p).confirm p) := by
  have hfull : p.payload.isEmpty = false := by simpa using hne
  have h0 : addrSpace p.dst ≠ 0 := by omega
  have h8 : addrSpace p.dst ≠ 8 := by omega
  have hkind : ¬(5 ≤ p.atype.toNat ∨ (3 ≤ p.atype.toNat ∧ addrSpace p.dst ≠ 0)) := by omega
  have hfront : toFront p = false := by
    rw [toFront, decide_eq_false h0, Bool.and_false, Bool.false_and]
  refine congrArg Host.Outcome.next ?_
  simp only [hfront, Bool.false_and, Bool.false_eq_true, if_false, State.takePacket_of_takes h, hfull, if_neg hkind,
    if_neg h0, if_neg h8]
  rfl

theorem accPacket_adds {p : Packet} {s : State} (h : s.takes p 1 = true) (hne : p.payload ≠ []) {k : Nat}
    (hty : p.atype.toNat < 3) (hsp : addrSpace p.dst = 1 ∨ addrSpace p.dst = 2)
    (hbad : s.badAt p.dst (p.payload.length / accSrcSize p.sfmt * accDstSize p.atype) true = [])
    (hbound : s.hitsBound p.dst (p.payload.length / accSrcSize p.sfmt * accDstSize p.atype) = false)
    (hplace : ∀ i, i < p.payload.length / accSrcSize p.sfmt →
      s.place (p.dst + BitVec.ofNat 64 (i * accDstSize p.atype)) true = .mem (k + i * accDstSize p.atype) ∧
      s.boundAt (k + i * accDstSize p.atype) = false) :
    ∃ u, exec (.accPacket p) s = .next u ∧
      (∀ i, i < p.payload.length / accSrcSize p.sfmt →
        u.mem.read (k + i * accDstSize p.atype) (accDstSize p.atype) = accElem s.mem p k i) ∧
      s.memFrame u (fun j => k ≤ j ∧ j < k + p.payload.length / accSrcSize p.sfmt * accDstSize p.atype) ∧
      u.net.confirms = s.net.confirms ++ [{ module := p.srcModule, unit := p.srcUnit, tag := p.tag, dst := p.dst }] ∧
      { u with mem := s.mem, net := (s.takeFlight p).net } = s.takeFlight p := by
  obtain ⟨fl, ls, lands, hf, hn⟩ := s.noted_eq p
  obtain ⟨ws, wakes, hu⟩ := State.accLocal_stored (s := s.noted p) (k := k) (by rw [hn]; exact hbad)
    (by rw [hn]; exact hbound) (by rw [hn]; exact hplace)
  refine ⟨_, exec_accPacket_local h hne hty hsp, ?_⟩
  rw [hu, hn, hf]
  refine ⟨fun i hi => s.mem.read_writeEach k (length_accElem s.mem p k) hi, fun j hj => ?_, rfl, rfl⟩
  exact s.mem.byte_writeEach_out k (length_accElem s.mem p k) (by omega)

end Sys2Proof.Machine
end

section
/-! SUPPORT. Fragments of an ACC packet at a mortar front: they pass to the queues of their adders or wait for room. -/

namespace Sys2Proof.Machine

/-! ## Fragments that enter a front (R298, R310) -/

/-- A fragment as it enters a front. -/
def Frag.entered (f : Frag) (wait : Bool) (arrival : Nat) : Frag := { f with waiting := wait, arrival := arrival }

/-- Fragments have entered their front together: all of them wait, or none. -/
def State.entered (s : State) (wait : Bool) (fs : List Frag) : State :=
  { s with mortar := { s.mortar with frags := s.mortar.frags ++ fs.map (fun f => f.entered wait s.plc) } }

/-- Whether a fragment that enters its front waits there. -/
def State.mustWait (s : State) (f : Frag) : Bool := decide (0 < s.frontQueue f.front f.adder) || !s.adderRoom f

/-- Fragments of which each finds the same answer enter together. -/
theorem State.foldl_enterFrag {s : State} {wait : Bool} {fs : List Frag}
    (h : ∀ pre f post, fs = pre ++ f :: post → (s.entered wait pre).mustWait f = wait) :
    fs.foldl State.enterFrag s = s.entered wait fs := by
  induction fs using List.reverseRecOn with
  | nil => simp only [List.foldl_nil, State.entered, List.map_nil, List.append_nil]
  | append_singleton fs f ih =>
    have hpre := ih fun pre g post hp => h pre g (post ++ [f]) (by rw [hp, List.append_assoc]; rfl)
    have hf := h fs f [] rfl
    rw [List.foldl_append, hpre, List.foldl_cons, List.foldl_nil]
    have henter : (s.entered wait fs).enterFrag f = { s.entered wait fs with mortar := { (s.entered wait fs).mortar with
        frags := (s.entered wait fs).mortar.frags ++ [f.entered ((s.entered wait fs).mustWait f) s.plc] } } := rfl
    rw [henter, hf]
    simp only [State.entered, List.map_append, List.map_cons, List.map_nil, List.append_assoc]

theorem State.frontQueue_entered {s : State} (h : ∀ f ∈ s.mortar.frags, f.waiting = false) (fs : List Frag)
    (front adder : Nat) : (s.entered false fs).frontQueue front adder = 0 := by
  refine List.length_eq_zero_iff.2 (List.filter_eq_nil_iff.2 fun f hf => ?_)
  have hw : f.waiting = false := by
    rcases List.mem_append.1 hf with hf | hf
    · exact h f hf
    · obtain ⟨g, -, rfl⟩ := List.mem_map.1 hf
      rfl
  rw [hw, Bool.false_and]; decide

theorem State.adderQueue_entered (s : State) (wait : Bool) (fs : List Frag) (adder : Nat) :
    (s.entered wait fs).adderQueue adder = s.adderQueue adder +
      ((fs.map (fun f => f.entered wait s.plc)).filter (fun f => !f.waiting && decide (f.adder = adder))).length := by
  rw [State.adderQueue, State.adderQueue, ← List.length_append, ← List.filter_append]
  rfl

theorem State.adderQueue_entered_le (s : State) (wait : Bool) (fs : List Frag) (adder : Nat) :
    (s.entered wait fs).adderQueue adder ≤ s.adderQueue adder + fs.length := by
  rw [State.adderQueue_entered]
  have hle := List.length_filter_le (fun f : Frag => !f.waiting && decide (f.adder = adder))
    (fs.map (fun f => f.entered wait s.plc))
  rw [List.length_map] at hle
  omega

/-- Elements that are added lengthen a list without repetitions by no more than their number. -/
theorem length_dedup_append_le {α : Type} [DecidableEq α] (l m : List α) :
    (l ++ m).dedup.length ≤ l.dedup.length + m.length := by
  rw [← List.card_toFinset, ← List.card_toFinset, List.toFinset_append]
  exact (Finset.card_union_le _ _).trans (Nat.add_le_add_left (List.toFinset_card_le m) _)

theorem State.length_joinsAt_entered_le (s : State) (wait : Bool) (fs : List Frag) (adder : Nat) :
    ((s.entered wait fs).joinsAt adder).length ≤ (s.joinsAt adder).length + fs.length := by
  have hsplit : (s.entered wait fs).joinsAt adder =
      (((s.mortar.joins ++ s.mortar.frags.filter (fun f => !f.waiting && s.isSplit f)).filter
        (fun f => f.adder = adder)).map s.joinKey ++
      ((((fs.map (fun f => f.entered wait s.plc)).filter (fun f => !f.waiting && s.isSplit f)).filter
        (fun f => f.adder = adder)).map s.joinKey)).dedup := by
    rw [← List.map_append, ← List.filter_append, List.append_assoc, ← List.filter_append]
    rfl
  have hnew : ((((fs.map (fun f => f.entered wait s.plc)).filter (fun f => !f.waiting && s.isSplit f)).filter
      (fun f => f.adder = adder)).map s.joinKey).length ≤ fs.length := by
    rw [List.length_map]
    exact ((List.length_filter_le _ _).trans (List.length_filter_le _ _)).trans (Nat.le_of_eq (List.length_map _))
  rw [hsplit]
  exact (length_dedup_append_le _ _).trans (Nat.add_le_add_left hnew _)

/-- With nothing waiting at the fronts and room at every adder for all of them, fragments pass to their adders. -/
theorem State.foldl_enterFrag_passes {s : State} {fs : List Frag} (hw : ∀ f ∈ s.mortar.frags, f.waiting = false)
    (hq : ∀ a, s.adderQueue a + fs.length ≤ 2048) (hj : ∀ a, (s.joinsAt a).length + fs.length ≤ 256) :
    fs.foldl State.enterFrag s = s.entered false fs := by
  refine State.foldl_enterFrag fun pre f post hp => ?_
  have hlen : pre.length < fs.length := by rw [hp, List.length_append, List.length_cons]; omega
  have hqueue : (s.entered false pre).adderQueue f.adder < 2048 :=
    (Nat.lt_of_le_of_lt (s.adderQueue_entered_le false pre f.adder) (Nat.add_lt_add_left hlen _)).trans_le (hq _)
  have hjoins : ((s.entered false pre).joinsAt f.adder).length < 256 :=
    (Nat.lt_of_le_of_lt (s.length_joinsAt_entered_le false pre f.adder) (Nat.add_lt_add_left hlen _)).trans_le (hj _)
  have hroom : (s.entered false pre).adderRoom f = true := by
    rw [State.adderRoom, decide_eq_true hqueue, decide_eq_true hjoins, Bool.or_true]; rfl
  rw [State.mustWait, State.frontQueue_entered hw, hroom]; rfl

/-- Fragments whose adders' queues are full wait at their front. -/
theorem State.foldl_enterFrag_waits {s : State} {fs : List Frag} (h : ∀ f ∈ fs, 2048 ≤ s.adderQueue f.adder) :
    fs.foldl State.enterFrag s = s.entered true fs := by
  refine State.foldl_enterFrag fun pre f post hp => ?_
  have hf : f ∈ fs := by rw [hp]; exact List.mem_append_right _ List.mem_cons_self
  have hqueue : ¬(s.entered true pre).adderQueue f.adder < 2048 := by
    have hfull := h f hf
    rw [State.adderQueue_entered]
    omega
  rw [State.mustWait, State.adderRoom, decide_eq_false hqueue, Bool.false_and]
  exact Bool.or_true _

/-! ## ACC packets at a front (R295, R298) -/

/-- The parts into which a front cuts a packet. -/
def accParts (p : Packet) : List (Nat × Nat × List Byte) :=
  if p.atype = 4 then grainParts p (addrOff p.dst) else plainParts p (addrOff p.dst)

theorem accParts_eq (p : Packet) :
    (if p.atype = 4 then grainParts p (addrOff p.dst) else plainParts p (addrOff p.dst)) = accParts p := rfl

/-- The fragment of a part of the next packet. -/
def State.fragOf (s : State) (front : Nat) (x : Nat × Nat × List Byte) : Frag :=
  { adder := s.adderOf x.1, front := front, pkt := s.mortar.nextNum, offset := x.1, skip := x.2.1, body := x.2.2 }

/-- A packet with `n` fragments has been numbered. -/
def State.numbered (s : State) (p : Packet) (n : Nat) : State :=
  { s with mortar := { s.mortar with
    nextNum := s.mortar.nextNum + 1, packs := s.mortar.packs ++ [{ num := s.mortar.nextNum, pkt := p, left := n }] } }

section
variable {s : State} {p : Packet} (hne : accParts p ≠ []) (hlive : ∀ x ∈ accParts p, ∃ k, s.fastPlace x.1 = .mem k)
include hlive

/-- A packet all of whose parts lie in memory loses none. -/
theorem State.fragsOf_live (front : Nat) : s.fragsOf p front = (accParts p).map (s.fragOf front) := by
  have hparts : s.liveParts p = accParts p := by
    refine List.filter_eq_self.2 fun x hx => ?_
    obtain ⟨k, hk⟩ := hlive x hx
    simp only [hk]
  rw [State.fragsOf, hparts]
  rfl

include hne

theorem State.frontTake_live (front : Nat) : s.frontTake p front =
    ((accParts p).map (s.fragOf front)).foldl State.enterFrag (s.numbered p (accParts p).length) := by
  have hin : (accParts p).any (fun x => decide (s.fastPlace x.1 = .bad .outOfCapacity)) = false := by
    refine List.any_eq_false.2 fun x hx hbad => ?_
    obtain ⟨k, hk⟩ := hlive x hx
    rw [hk] at hbad
    exact Place.noConfusion (of_decide_eq_true hbad)
  have hfull : ((accParts p).map (s.fragOf front)).isEmpty = false := by
    rw [List.isEmpty_eq_false_iff, Ne, List.map_eq_nil_iff]; exact hne
  unfold State.frontTake
  simp only [accParts_eq, hin, Bool.false_eq_true, if_false, State.fragsOf_live hlive, hfull, List.length_map]
  rfl

end

/-- Without a payload there is nothing to cut. -/
theorem payload_ne_of_accParts {p : Packet} (h : accParts p ≠ []) : p.payload ≠ [] := by
  intro hnil
  refine h ?_
  unfold accParts grainParts plainParts
  simp only [hnil, List.length_nil, Nat.zero_div, if_true, ite_self]

section
variable {s : State} {p : Packet} (h : s.takes p 1 = true) (hsp : addrSpace p.dst = 0) (hty : p.atype.toNat < 5)
  (ho : addrOff p.dst < 2 ^ 46) (hne : accParts p ≠ [])
include hsp hty ho hne

theorem toFront_of_parts : toFront p = true := by
  have hfull : p.payload.isEmpty = false := by simpa using payload_ne_of_accParts hne
  rw [toFront, hfull, decide_eq_true hty, decide_eq_true hsp, decide_eq_true ho]; rfl

/-- A front without room takes no packet. -/
theorem exec_accPacket_held (hr : s.frontReady p (s.frontOf p (s.linkOf p)) = false) :
    exec (.accPacket p) s = .next s := by
  refine congrArg Host.Outcome.next (if_pos ?_)
  rw [toFront_of_parts hsp hty ho hne, hr]; rfl

include h

/-- A front with room takes the packet. -/
theorem exec_accPacket_front (hr : s.frontReady p (s.frontOf p (s.linkOf p)) = true) :
    exec (.accPacket p) s = .next ((s.noted p).frontTake p (s.frontOf p (s.linkOf p))) := by
  have hfull : p.payload.isEmpty = false := by simpa using payload_ne_of_accParts hne
  have hkind : ¬(5 ≤ p.atype.toNat ∨ (3 ≤ p.atype.toNat ∧ addrSpace p.dst ≠ 0)) := by omega
  refine congrArg Host.Outcome.next ?_
  simp only [hr, Bool.not_true, Bool.and_false, Bool.false_eq_true, if_false, State.takePacket_of_takes h, hfull,
    if_neg hkind, if_pos hsp, if_neg (show ¬2 ^ 47 ≤ addrOff p.dst by omega), if_neg (Nat.not_le.2 ho)]
  rfl

end

/-- The mortar once the fragments of a packet's parts have entered front `front`. -/
def State.mortarWith (s : State) (p : Packet) (front : Nat) (wait : Bool) : Mortar := { s.mortar with
  nextNum := s.mortar.nextNum + 1
  frags := s.mortar.frags ++ (accParts p).map (fun x => (s.fragOf front x).entered wait s.plc)
  packs := s.mortar.packs ++ [{ num := s.mortar.nextNum, pkt := p, left := (accParts p).length }] }

/-- From `s` to `u` a packet has been taken and its fragments have entered its front; it is not confirmed yet. -/
def State.passesInto (s : State) (p : Packet) (wait : Bool) (u : State) : Prop :=
  u.mortar = s.mortarWith p (s.frontOf p (s.linkOf p)) wait ∧ u.net.confirms = s.net.confirms ∧
    { u with net := (s.takeFlight p).net, mortar := s.mortar } = s.takeFlight p

section
variable {s : State} {p : Packet} (h : s.takes p 1 = true) (hsp : addrSpace p.dst = 0) (hty : p.atype.toNat < 5)
  (ho : addrOff p.dst < 2 ^ 46) (hne : accParts p ≠ []) (hlive : ∀ x ∈ accParts p, ∃ k, s.fastPlace x.1 = .mem k)
  (hr : s.frontReady p (s.frontOf p (s.linkOf p)) = true)
include h hsp hty ho hne hlive hr

/-- A front with room takes a packet whose fragments all pass to their adders, or all wait. -/
theorem accPacket_enters {wait : Bool} (henter :
    ((accParts p).map ((s.noted p).fragOf (s.frontOf p (s.linkOf p)))).foldl State.enterFrag
        ((s.noted p).numbered p (accParts p).length) =
      ((s.noted p).numbered p (accParts p).length).entered wait
        ((accParts p).map ((s.noted p).fragOf (s.frontOf p (s.linkOf p))))) :
    ∃ u, exec (.accPacket p) s = .next u ∧ s.passesInto p wait u := by
  obtain ⟨fl, ls, lands, hf, hn⟩ := s.noted_eq p
  have hlive' : ∀ x ∈ accParts p, ∃ k, (s.noted p).fastPlace x.1 = .mem k := by rw [hn]; exact hlive
  refine ⟨_, (exec_accPacket_front h hsp hty ho hne hr).trans
    (congrArg _ ((State.frontTake_live hne hlive' _).trans henter)), ?_⟩
  rw [hn, State.passesInto, hf, State.entered, List.map_map]
  exact ⟨rfl, rfl, rfl⟩

theorem accPacket_passes (hw : ∀ f ∈ s.mortar.frags, f.waiting = false)
    (hq : ∀ a, s.adderQueue a + (accParts p).length ≤ 2048)
    (hj : ∀ a, ((s.numbered p (accParts p).length).joinsAt a).length + (accParts p).length ≤ 256) :
    ∃ u, exec (.accPacket p) s = .next u ∧ s.passesInto p false u := by
  obtain ⟨fl, ls, lands, -, hn⟩ := s.noted_eq p
  refine accPacket_enters h hsp hty ho hne hlive hr (State.foldl_enterFrag_passes ?_ ?_ ?_)
  · rw [hn]; exact hw
  · rw [List.length_map, hn]; exact hq
  · rw [List.length_map, hn]; exact hj

theorem accPacket_waits (hq : ∀ x ∈ accParts p, 2048 ≤ s.adderQueue (s.adderOf x.1)) :
    ∃ u, exec (.accPacket p) s = .next u ∧ s.passesInto p true u := by
  obtain ⟨fl, ls, lands, -, hn⟩ := s.noted_eq p
  refine accPacket_enters h hsp hty ho hne hlive hr (State.foldl_enterFrag_waits ?_)
  rw [hn]
  exact List.forall_mem_map.2 hq

end

end Sys2Proof.Machine
end

section
/-! SUPPORT. What a mortar adder takes next, the elements of a bushel fragment inside a bucket, and the obligation on
accumulation (O19). -/

namespace Sys2Proof.Machine

/-! ## The fragment that comes first (R296) -/

/-- The order in which an adder takes fragments: by arrival, then by issuing module and unit. -/
def State.fragRank (s : State) (f : Frag) : Nat :=
  (f.arrival * 2 ^ 12 + (s.pack f.pkt).pkt.srcModule.toNat) * 2 ^ 10 + (s.pack f.pkt).pkt.srcUnit.toNat

theorem State.arrival_le_of_fragRank_le {s : State} {f g : Frag} (h : s.fragRank f ≤ s.fragRank g) :
    f.arrival ≤ g.arrival := by
  have hm := (s.pack g.pkt).pkt.srcModule.isLt
  have hu := (s.pack g.pkt).pkt.srcUnit.isLt
  unfold State.fragRank at h
  omega

/-- The earlier of the fragment chosen so far and another. -/
def State.earlier (s : State) (best : Option Frag) (f : Frag) : Option Frag :=
  match best with
  | none => some f
  | some b => if s.before b f then some f else best

theorem State.earlier_spec {s : State} {best : Option Frag} {f g : Frag} (h : s.earlier best f = some g) :
    (g = f ∨ best = some g) ∧ s.fragRank g ≤ s.fragRank f ∧ ∀ b, best = some b → s.fragRank g ≤ s.fragRank b := by
  cases best with
  | none =>
    obtain rfl : f = g := Option.some.inj h
    exact ⟨.inl rfl, Nat.le_refl _, fun b hb => nomatch hb⟩
  | some b =>
    have hbefore : s.before b f = true ↔ s.fragRank f < s.fragRank b := decide_eq_true_iff
    by_cases hlt : s.fragRank f < s.fragRank b
    · obtain rfl : f = g := Option.some.inj ((if_pos (hbefore.2 hlt)).symm.trans h)
      exact ⟨.inl rfl, Nat.le_refl _, fun c hc => Option.some.inj hc ▸ Nat.le_of_lt hlt⟩
    · obtain rfl : b = g := Option.some.inj ((if_neg (fun hb => hlt (hbefore.1 hb))).symm.trans h)
      exact ⟨.inr rfl, Nat.not_lt.1 hlt, fun c hc => Option.some.inj hc ▸ Nat.le_refl _⟩

theorem State.foldl_earlier_spec {s : State} {l : List Frag} {best : Option Frag} {g : Frag}
    (h : l.foldl s.earlier best = some g) :
    (g ∈ l ∨ best = some g) ∧ (∀ f ∈ l, s.fragRank g ≤ s.fragRank f) ∧
      ∀ b, best = some b → s.fragRank g ≤ s.fragRank b := by
  induction l generalizing best with
  | nil => exact ⟨.inr h, fun f hf => absurd hf List.not_mem_nil, fun b hb => by
      rw [Option.some.inj (hb.symm.trans h)]⟩
  | cons x l ih =>
    obtain ⟨hg, hl, hbest⟩ := ih h
    cases he : s.earlier best x with
    | none => cases best with
      | none => exact absurd he (by rw [State.earlier]; exact Option.some_ne_none x)
      | some b =>
        rw [State.earlier] at he
        split at he <;> exact absurd he (Option.some_ne_none _)
    | some c =>
      obtain ⟨hc, hx, hb⟩ := State.earlier_spec he
      have hgc := hbest c he
      refine ⟨?_, fun f hf => ?_, fun b hb' => hgc.trans (hb b hb')⟩
      · rcases hg with hg | hg
        · exact .inl (List.mem_cons_of_mem _ hg)
        · obtain rfl : c = g := Option.some.inj (he.symm.trans hg)
          exact hc.imp (fun heq => List.mem_cons.2 (.inl heq)) id
      · rcases List.mem_cons.1 hf with rfl | hf
        · exact hgc.trans hx
        · exact hl f hf

/-- An adder takes a fragment of its queue that it can add and that came first of those. -/
theorem State.nextFrag_spec {s : State} {adder : Nat} {f : Frag} (h : s.nextFrag adder = some f) :
    f ∈ s.mortar.frags ∧ f.adder = adder ∧ f.waiting = false ∧
      ∀ g, g ∈ s.mortar.frags → g.adder = adder → g.waiting = false → s.canAdd g = true → f.arrival ≤ g.arrival := by
  obtain ⟨hf, hfirst, -⟩ := State.foldl_earlier_spec (best := none) h
  have hmem {g : Frag} : g ∈ s.mortar.frags.filter (fun f => !f.waiting && decide (f.adder = adder) && s.canAdd f) ↔
      g ∈ s.mortar.frags ∧ (g.waiting = false ∧ g.adder = adder) ∧ s.canAdd g = true := by
    simp only [List.mem_filter, Bool.and_eq_true, Bool.not_eq_true', decide_eq_true_eq]
  obtain ⟨hin, ⟨hw, ha⟩, -⟩ := hmem.1 (hf.resolve_right (Option.some_ne_none f).symm)
  exact ⟨hin, ha, hw, fun g hg hga hgw hgc =>
    State.arrival_le_of_fragRank_le (hfirst g (hmem.2 ⟨hg, ⟨hgw, hga⟩, hgc⟩))⟩

/-! ## An adder's turn (R296, R298, R302) -/

section
variable {adder : Fin 16} {s : State}

theorem exec_fragmentAdd_loading (h : s.mortar.loading = true) : exec (.fragmentAdd adder) s = .next s :=
  congrArg Host.Outcome.next (if_pos h)

theorem exec_fragmentAdd_refills (h : s.mortar.loading = false) (hn : s.nextFrag adder = none) :
    exec (.fragmentAdd adder) s = .next (s.refill adder) :=
  congrArg Host.Outcome.next ((if_neg (by rw [h]; decide)).trans (by rw [hn]))

/-- A fragment has left the queue of its adder. -/
def State.dequeued (s : State) (f : Frag) : State :=
  { s with mortar := { s.mortar with frags := s.mortar.frags.erase f } }

theorem exec_fragmentAdd_adds (h : s.mortar.loading = false) {f : Frag} (hn : s.nextFrag adder = some f) :
    exec (.fragmentAdd adder) s = .next (((s.dequeued f).addFrag f).refill adder) :=
  congrArg Host.Outcome.next ((if_neg (by rw [h]; decide)).trans (by rw [hn]; rfl))

end

/-- With no fragment of an adder's at the fronts its queue takes none in. -/
theorem State.refill_none {s : State} {adder : Nat} (h : ∀ g ∈ s.mortar.frags, g.waiting = true → g.adder ≠ adder) :
    s.refill adder = s := by
  have hnil : s.mortar.frags.filter (fun f => f.waiting && decide (f.adder = adder)) = [] := by
    refine List.filter_eq_nil_iff.2 fun g hg hga => ?_
    rw [Bool.and_eq_true, decide_eq_true_eq] at hga
    exact h g hg hga.1 hga.2
  rw [State.refill, hnil]; rfl

theorem State.refill_single {s : State} {adder : Nat} {f : Frag}
    (h : s.mortar.frags.filter (fun g => g.waiting && decide (g.adder = adder)) = [f]) :
    s.refill adder = if s.adderRoom f then s.passFrag f else s := by
  rw [State.refill, h]; rfl

/-! ## A bushel fragment (R131, R294, R297) -/

/-- Requests of the fast tier do not look at the fragments. -/
theorem State.request_dequeued (s : State) (f : Frag) (a : Word) (n : Nat) (crit write nofill : Bool) :
    (s.dequeued f).request a n crit write nofill = (s.request a n crit write nofill).dequeued f := by
  refine List.foldl_hom (fun u : State => u.dequeued f) (fun u i => ?_)
  cases hoff : u.fastOff (a + BitVec.ofNat 64 i) write with
  | none => rw [show (u.dequeued f).fastOff _ write = none from hoff]
  | some o => rw [show (u.dequeued f).fastOff _ write = some o from hoff]; rfl

/-- A contribution to an element inside a bucket of its packet's exponent that does not turn it to poison. -/
theorem State.addBushel_inBucket {s : State} {e : BitVec 8} {off : Nat} {b : Bucket} {v : FVal}
    (hb : s.bucketAt off = some b) (he : e = b.e) (hg : b.grpEn = false)
    (hp : bushelAdd (s.mem.word (fastKey off)) (toBushel e v).1 ≠ poison) (num : Nat) : s.addBushel num e off v =
      s.store (fastKey off) (wordBytes (bushelAdd (s.mem.word (fastKey off)) (toBushel e v).1)) := by
  unfold State.addBushel State.putBushel
  simp only [hb, if_pos he, hg, Bool.false_eq_true, if_false, if_neg (fun h => hp (And.left h))]

/-- One more fragment of a packet is added: the last one confirms the packet. -/
theorem State.fragDone_eq (s : State) (num : Nat) : s.fragDone num = { s with
    mortar := { s.mortar with
      packs := if (s.pack num).left ≤ 1 then s.mortar.packs.filter (fun q => q.num != num)
        else s.mortar.packs.map (fun q => if q.num = num then { q with left := q.left - 1 } else q) },
    net := { s.net with confirms := s.net.confirms ++ (if (s.pack num).left ≤ 1 then
      [{ module := (s.pack num).pkt.srcModule, unit := (s.pack num).pkt.srcUnit, tag := (s.pack num).pkt.tag,
         dst := (s.pack num).pkt.dst }] else []) } } := by
  unfold State.fragDone
  dsimp only
  split
  · rfl
  · rw [List.append_nil]; rfl

/-- Element `i` of a bushel fragment once its contribution has been added. -/
def State.bushelSum (s : State) (f : Frag) (i : Nat) : Word :=
  bushelAdd (s.mem.word (fastKey (f.offset + 8 * i)))
    (toBushel (s.pack f.pkt).pkt.e (accValue (s.pack f.pkt).pkt.sfmt f.body i)).1

section
variable {s : State} {f : Frag} {b : Bucket} (hty : (s.pack f.pkt).pkt.atype = 3) (he : b.e = (s.pack f.pkt).pkt.e)
  (hg : b.grpEn = false) (hin : ∀ i, i < f.body.length / accSrcSize (s.pack f.pkt).pkt.sfmt →
    s.bucketAt (f.offset + 8 * i) = some b ∧ s.bushelSum f i ≠ poison)
include hty he hg hin

theorem State.addElems_stored : s.stored (s.mem.writeEach (fastKey f.offset) 8 (fun i => wordBytes (s.bushelSum f i))
    (f.body.length / accSrcSize (s.pack f.pkt).pkt.sfmt)) (s.addElems f) := by
  have hlen : ∀ i, (wordBytes (s.bushelSum f i)).length = 8 := fun i => length_wordBytes _
  unfold State.addElems
  simp only [hty, if_true]
  refine State.stored_foldl fun i hi u hu => ?_
  obtain ⟨hbucket, hpoison⟩ := hin i hi
  have hoff : f.offset + i * accDstSize 3 = f.offset + 8 * i := by rw [show accDstSize 3 = 8 from rfl, Nat.mul_comm]
  have hkey : fastKey f.offset + i * 8 = fastKey (f.offset + 8 * i) := by rw [Nat.mul_comm]; rfl
  have hword : u.mem.word (fastKey (f.offset + 8 * i)) = s.mem.word (fastKey (f.offset + 8 * i)) := by
    rw [hu.mem, ← hkey]
    exact congrArg leWord (s.mem.read_writeEach_later (fastKey f.offset) hlen (Nat.le_refl i))
  have hbucket' : u.bucketAt (f.offset + 8 * i) = some b := by rw [State.bucketAt, hu.mortar]; exact hbucket
  rw [hoff, hkey, State.addBushel_inBucket hbucket' he.symm hg (by rw [hword]; exact hpoison), hword]
  rfl

end

/-- What an adder reads and writes for a fragment of whole elements. -/
def State.fragTraffic (s : State) (f : Frag) : State :=
  (s.bulkRead f.offset (256 - f.offset % 256)).bulkWrite f.offset (256 - f.offset % 256)

theorem State.fragTraffic_eq (s : State) (f : Frag) : ∃ q,
    s.fragTraffic f = { s with ft := { s.ft with pchs := q } } := by
  obtain ⟨q, hq⟩ := s.request_eq (fastAddr f.offset) (256 - f.offset % 256) false false false
  obtain ⟨q', hq'⟩ := (s.bulkRead f.offset (256 - f.offset % 256)).request_eq (fastAddr f.offset)
    (256 - f.offset % 256) false true false
  refine ⟨q', hq'.trans ?_⟩
  rw [show s.bulkRead f.offset (256 - f.offset % 256) = _ from hq]

theorem State.adderTraffic_dequeued {s : State} {f : Frag} (hty : (s.pack f.pkt).pkt.atype = 3) :
    (s.dequeued f).adderTraffic f = (s.fragTraffic f).dequeued f := by
  have hkind : ¬((s.dequeued f).pack f.pkt).pkt.atype = 4 := fun h => absurd (hty.symm.trans h) (by decide)
  unfold State.adderTraffic State.fragTraffic State.bulkRead State.bulkWrite
  simp only [if_neg hkind, State.request_dequeued]

/-- A bushel fragment is added to its elements at once, and is gone. -/
theorem State.addFrag_elems {s : State} {f : Frag} (hty : (s.pack f.pkt).pkt.atype = 3) :
    (s.dequeued f).addFrag f = (((s.fragTraffic f).dequeued f).addElems f).fragDone f.pkt := by
  obtain ⟨q, hq⟩ := s.fragTraffic_eq f
  have hwhole : (s.dequeued f).isSplit f = false := by
    rw [State.isSplit, show (s.dequeued f).pack f.pkt = s.pack f.pkt from rfl, hty]; rfl
  have hkind : ¬(((s.fragTraffic f).dequeued f).pack f.pkt).pkt.atype = 4 := by
    rw [hq]; exact fun h => absurd (hty.symm.trans h) (by decide)
  unfold State.addFrag
  simp only [hwhole, Bool.not_false, if_true, State.adderTraffic_dequeued hty, if_neg hkind]

/-- The mortar once a fragment has been added. -/
def State.mortarWithout (s : State) (f : Frag) : Mortar := { s.mortar with
  frags := s.mortar.frags.erase f
  packs := if (s.pack f.pkt).left ≤ 1 then s.mortar.packs.filter (fun q => q.num != f.pkt)
    else s.mortar.packs.map (fun q => if q.num = f.pkt then { q with left := q.left - 1 } else q) }

/-- The confirmation that the last fragment of a packet sends. -/
def AccPkt.confirmed (k : AccPkt) : List Confirm := if k.left ≤ 1 then
  [{ module := k.pkt.srcModule, unit := k.pkt.srcUnit, tag := k.pkt.tag, dst := k.pkt.dst }] else []

theorem fragmentAdd_adds {adder : Fin 16} {s : State} {f : Frag} {b : Bucket} (hl : s.mortar.loading = false)
    (hn : s.nextFrag adder = some f) (hw : ∀ g ∈ s.mortar.frags, g.waiting = true → g.adder ≠ adder.val)
    (hty : (s.pack f.pkt).pkt.atype = 3) (he : b.e = (s.pack f.pkt).pkt.e) (hg : b.grpEn = false)
    (hin : ∀ i, i < f.body.length / accSrcSize (s.pack f.pkt).pkt.sfmt →
      s.bucketAt (f.offset + 8 * i) = some b ∧ s.bushelSum f i ≠ poison) :
    ∃ u, exec (.fragmentAdd adder) s = .next u ∧
      (∀ i, i < f.body.length / accSrcSize (s.pack f.pkt).pkt.sfmt →
        u.mem.word (fastKey (f.offset + 8 * i)) = s.bushelSum f i) ∧
      s.memFrame u (fun j => fastKey f.offset ≤ j ∧
        j < fastKey f.offset + 8 * (f.body.length / accSrcSize (s.pack f.pkt).pkt.sfmt)) ∧
      u.mortar = s.mortarWithout f ∧ u.net.confirms = s.net.confirms ++ (s.pack f.pkt).confirmed ∧
      u.ft = (s.fragTraffic f).ft ∧ { u with mem := s.mem, net := s.net, mortar := s.mortar, ft := s.ft } = s := by
  obtain ⟨q, hq⟩ := s.fragTraffic_eq f
  have hlen : ∀ i, (wordBytes (s.bushelSum f i)).length = 8 := fun i => length_wordBytes _
  obtain ⟨ws, wakes, hu⟩ := State.addElems_stored (s := (s.fragTraffic f).dequeued f) (f := f) (b := b)
    (by rw [hq]; exact hty) (by rw [hq]; exact he) hg (by rw [hq]; exact hin)
  have hexec := exec_fragmentAdd_adds hl hn
  rw [State.addFrag_elems hty, State.fragDone_eq, hu, hq, State.refill_none
    (fun g hmem => hw g (List.mem_of_mem_erase hmem))] at hexec
  refine ⟨_, hexec, fun i hi => ?_, fun j hj => ?_, rfl, rfl, by rw [hq]; rfl, rfl⟩
  · have hread := s.mem.read_writeEach (fastKey f.offset) hlen hi
    rw [Nat.mul_comm i 8] at hread
    exact (congrArg leWord hread).trans (leWord_wordBytes _)
  · have hout := s.mem.byte_writeEach_out (fastKey f.offset) hlen
      (n := f.body.length / accSrcSize (s.pack f.pkt).pkt.sfmt) (j := j) (by omega)
    exact hout

/-- Settles O19: plain memories by stores of one element after another, a front's queues by the fragments that enter
together, an adder's turn by the elements of the fragment that comes first. -/
theorem mortarAdds : Obligations.MortarAdds := by
  unfold Obligations.MortarAdds
  refine ⟨fun p s h hne => ⟨fun k hty hsp hbad hbound hplace => accPacket_adds h hne hty hsp hbad hbound hplace,
    fun hsp hty ho hparts hlive => ⟨fun hr => exec_accPacket_held hsp hty ho hparts hr, fun hr =>
      ⟨fun hw hq hj => accPacket_passes h hsp hty ho hparts hlive hr hw hq hj,
        fun hq => accPacket_waits h hsp hty ho hparts hlive hr hq⟩⟩⟩,
    fun adder s => ⟨exec_fragmentAdd_loading, ?_, ?_, ?_⟩⟩
  · intro f hl hn hw
    rw [exec_fragmentAdd_refills hl hn, State.refill_single hw]
    rfl
  · exact fun f hn => State.nextFrag_spec hn
  · exact fun f b hl hn hw hty he hg hin => fragmentAdd_adds hl hn hw hty he hg hin

end Sys2Proof.Machine
end


section
/-! SUPPORT. Control frames on the chain: which a module takes, how it passes them on, and what it does about addresses,
absence and delays (O24, O25, O26). -/

namespace Sys2Proof.Machine

/-! ## Frames that arrive (R270) -/

section
variable {s : State} {f : Frame} {ty : BitVec 4} (act : State → State)

theorem State.hears_iff : s.hears f ty = true ↔ s.chain.bypass = false ∧ f.gen = 1 ∧ f.ty = ty := by
  simp [State.hears, and_assoc]

theorem State.ty_of_hears (h : s.hears f ty = true) : f.ty = ty := (State.hears_iff.1 h).2.2

theorem State.hearsNew_iff : s.hearsNew f ty = true ↔ s.hears f ty = true ∧ s.chain.seqSeen.contains (f.ty, f.seq) = false := by
  rw [State.hearsNew, Bool.and_eq_true, Bool.not_eq_true']

theorem State.takeFrame_of_bypass (hb : s.chain.bypass = true) (ok : Bool) : s.takeFrame f ok ty act = s := if_pos hb

theorem State.takeFrame_badCrc (hb : s.chain.bypass = false) : s.takeFrame f false ty act =
    { s with chain := { s.chain with frameErr := satAdd s.chain.frameErr 1 } } := by
  rw [State.takeFrame, hb]; rfl

theorem State.takeFrame_otherGen (hb : s.chain.bypass = false) (hg : f.gen ≠ 1) :
    s.takeFrame f true ty act = s.violate .generation := by
  rw [State.takeFrame, hb]
  exact if_pos hg

theorem State.takeFrame_of_hears (h : s.hears f ty = true) : s.takeFrame f true ty act = act s := by
  obtain ⟨hb, hg, ht⟩ := State.hears_iff.1 h
  simp [State.takeFrame, hb, hg, ht]

theorem State.takeDown_of_new (h : s.hearsNew f ty = true) : s.takeDown f true ty act = act (s.heard f) := by
  obtain ⟨h, hseen⟩ := State.hearsNew_iff.1 h
  rw [State.takeDown, State.takeFrame_of_hears _ h, hseen]
  rfl

theorem State.takeDown_of_seen (h : s.hears f ty = true) (hseen : s.chain.seqSeen.contains (f.ty, f.seq) = true) :
    s.takeDown f true ty act = if s.chain.head then s else s.passDown (s.onward f) := by
  rw [State.takeDown, State.takeFrame_of_hears _ h, hseen]
  rfl

theorem State.takeUp_of_head (h : s.hears f ty = true) (hh : s.chain.head = true) (a : Option Nat) :
    s.takeUp f true ty a act = act (match a with | some a => s.ackFrame a ty | none => s) := by
  rw [State.takeUp, State.takeFrame_of_hears _ h, hh]
  rfl

theorem State.takeUp_passes (h : s.hears f ty = true) (hh : s.chain.head = false) (a : Option Nat) :
    s.takeUp f true ty a act = s.emit (.frameUp f) := by
  rw [State.takeUp, State.takeFrame_of_hears _ h, hh]
  rfl

end

/-- What the tail does, or the frame that any other module repeats. -/
theorem State.ite_tail_passDown (w v : State) (g : Frame) :
    (if w.chain.tail then v else w.passDown g) = if w.chain.tail then v else w.emit (.frameDn g) := by
  rw [State.passDown]
  split <;> rfl

theorem State.onward_eq (s : State) (f : Frame) : s.onward f = { f with
    body := if f.ty = 1 then BitVec.ofNat 32 (f.body.toNat / 2 ^ 13 * 2 ^ 13 + (f.body.toNat + 1) % 2 ^ 13)
      else if f.ty = 3 then f.body + s.chain.h else f.body } := by
  rw [State.onward, Frame13, Nat.mod_add_mod]
  split
  · rfl
  · split <;> rfl

/-! ## Frames downstream and upstream (R270) -/

/-- The frames that go downstream, with their types. -/
def downFrames (f : Frame) : List (BitVec 4 × (Bool → Instr)) :=
  [(1, .enumFrame f), (3, .delayFrame f), (5, .compFrame f), (7, .joinGrant f), (8, .joinedFrame f),
   (10, .absentFrame f), (11, .topoFrame f), (12, .reenumFrame f), (13, .censusFrame f), (15, .chainAck f)]

/-- The frames that go upstream, with their types. -/
def upFrames (f : Frame) : List (BitVec 4 × (Bool → Instr)) :=
  [(2, .enumDone f), (4, .delayDone f), (6, .joinReq f), (9, .leaveFrame f), (14, .hereFrame f)]

section
variable {f : Frame} {x : BitVec 4 × (Bool → Instr)} (s : State)

theorem exec_topoFrame_notHead {s : State} (hh : s.chain.head = false) (ok : Bool) : exec (.topoFrame f ok) s =
    .next (s.takeDown f ok 11 (fun s => (s.passDown f).noteTopo (topoOf f) (bitOf f.body.toNat 30))) :=
  congrArg Host.Outcome.next (if_neg (by simp [hh]))

theorem exec_topoFrame_head {s : State} (hh : s.chain.head = true) (ok : Bool) : exec (.topoFrame f ok) s =
    .next (s.takeUp f ok 11 (some (topoOf f).addr) (fun s => s.headTopo (topoOf f) (bitOf f.body.toNat 30) f.body)) :=
  congrArg Host.Outcome.next (if_pos hh)

theorem exec_reenumFrame_notHead {s : State} (hh : s.chain.head = false) (ok : Bool) : exec (.reenumFrame f ok) s =
    .next (s.takeDown f ok 12 (fun s => (s.passDown f).dropAddresses)) :=
  congrArg Host.Outcome.next (if_neg (by simp [hh]))

theorem exec_reenumFrame_head {s : State} (hh : s.chain.head = true) (ok : Bool) : exec (.reenumFrame f ok) s =
    .next (s.takeFrame f ok 12 (fun s =>
      (((s.ackFrame noAddress 0xC).sendDown 0xC 0).dropAddresses).startEnumeration)) :=
  congrArg Host.Outcome.next (if_pos hh)

/-- Every frame downstream but a TOPO or REENUM at the head is taken so. -/
theorem exec_downFrame {s : State} : ∀ x ∈ downFrames f, (s.chain.head = true → x.1 ≠ 11 ∧ x.1 ≠ 12) →
    ∃ act, ∀ ok, exec (x.2 ok) s = .next (s.takeDown f ok x.1 act) := by
  simp only [downFrames, List.forall_mem_cons, List.not_mem_nil, false_implies, implies_true, and_true]
  exact ⟨fun _ => ⟨_, fun _ => rfl⟩, fun _ => ⟨_, fun _ => rfl⟩, fun _ => ⟨_, fun _ => rfl⟩, fun _ => ⟨_, fun _ => rfl⟩,
    fun _ => ⟨_, fun _ => rfl⟩, fun _ => ⟨_, fun _ => rfl⟩,
    fun hh => ⟨_, exec_topoFrame_notHead (Bool.eq_false_iff.2 fun h => (hh h).1 rfl)⟩,
    fun hh => ⟨_, exec_reenumFrame_notHead (Bool.eq_false_iff.2 fun h => (hh h).2 rfl)⟩,
    fun _ => ⟨_, fun _ => rfl⟩, fun _ => ⟨_, fun _ => rfl⟩⟩

theorem exec_downFrame_head {s : State} (hh : s.chain.head = true) : ∀ x ∈ downFrames f,
    ∃ act, ∀ ok, exec (x.2 ok) s = .next (s.takeFrame f ok x.1 act) := by
  simp only [downFrames, List.forall_mem_cons, List.not_mem_nil, false_implies, implies_true, and_true]
  exact ⟨⟨_, fun _ => rfl⟩, ⟨_, fun _ => rfl⟩, ⟨_, fun _ => rfl⟩, ⟨_, fun _ => rfl⟩, ⟨_, fun _ => rfl⟩, ⟨_, fun _ => rfl⟩,
    ⟨_, exec_topoFrame_head hh⟩, ⟨_, exec_reenumFrame_head hh⟩, ⟨_, fun _ => rfl⟩, ⟨_, fun _ => rfl⟩⟩

theorem exec_upFrame : ∀ x ∈ upFrames f, ∃ a act, ∀ ok, exec (x.2 ok) s = .next (s.takeUp f ok x.1 a act) := by
  simp only [upFrames, List.forall_mem_cons, List.not_mem_nil, false_implies, implies_true, and_true]
  exact ⟨⟨_, _, fun _ => rfl⟩, ⟨_, _, fun _ => rfl⟩, ⟨_, _, fun _ => rfl⟩, ⟨_, _, fun _ => rfl⟩, ⟨_, _, fun _ => rfl⟩⟩

/-- Whatever a frame does, it is taken first. -/
theorem exec_frame (hx : x ∈ downFrames f ++ upFrames f) :
    ∃ act, ∀ ok, exec (x.2 ok) s = .next (s.takeFrame f ok x.1 act) := by
  obtain hx | hx := List.mem_append.1 hx
  · by_cases hh : s.chain.head = true
    · exact exec_downFrame_head hh x hx
    · obtain ⟨_, h⟩ := exec_downFrame x hx fun h => absurd h hh
      exact ⟨_, h⟩
  · obtain ⟨_, _, h⟩ := exec_upFrame s x hx
    exact ⟨_, h⟩

end

/-! ## Delays (R280, R281, R291) -/

section
variable {s : State} {f : Frame}

theorem exec_delayPassTimer (hh : s.chain.head = true) (hb : s.chain.bypass = false) : exec .delayPassTimer s =
    .next (if s.chain.tail then s.setDelay 0 else s.sendDown 3 0) :=
  congrArg Host.Outcome.next (if_neg (by simp [hh, hb]))

theorem exec_delayPassTimer_idle (h : s.chain.head = false ∨ s.chain.bypass = true) :
    exec .delayPassTimer s = .next s :=
  congrArg Host.Outcome.next (if_pos (by simpa using h))

/-- A module keeps the sum of delays up to it. -/
def State.delayKept (s : State) (f : Frame) : State :=
  (s.heard f).modChain (fun k => { k with c := f.body + s.chain.h, cMeasured := true })

theorem exec_delayFrame (h : s.hearsNew f 3 = true) (hh : s.chain.head = false) : exec (.delayFrame f true) s =
    .next (if (s.delayKept f).chain.tail then (s.delayKept f).sendUp 4 (f.body + s.chain.h)
      else (s.delayKept f).emit (.frameDn { f with body := f.body + s.chain.h })) := by
  have ht := State.ty_of_hears (State.hearsNew_iff.1 h).1
  have hon : (s.delayKept f).onward f = { f with body := f.body + s.chain.h } := by rw [State.onward_eq, ht]; rfl
  rw [← hon, ← State.ite_tail_passDown]
  refine congrArg Host.Outcome.next ((State.takeDown_of_new _ h).trans ?_)
  exact if_neg (by simp [State.heard, hh])

theorem exec_delayDone (h : s.hears f 4 = true) (hh : s.chain.head = true) : exec (.delayDone f true) s =
    .next ((s.ackFrame (s.chain.granted.getLastD 0) 4).setDelay f.body) :=
  congrArg Host.Outcome.next (State.takeUp_of_head _ h hh _)

theorem exec_compFrame (h : s.hearsNew f 5 = true) : exec (.compFrame f true) s =
    .next ((s.repeated f).modChain (fun c => { c with newD := some (c.time, f.body.setWidth 24) })) :=
  congrArg Host.Outcome.next (State.takeDown_of_new _ h)

theorem State.chain_repeated (s : State) (f : Frame) : (s.repeated f).chain = (s.heard f).chain := by
  rw [State.repeated]
  split <;> rfl

end

/-- Settles O24: what every frame meets before its own action, and the frames and measures of the delays. -/
theorem chainFrames : Obligations.ChainFrames := by
  unfold Obligations.ChainFrames
  refine ⟨fun f s => ⟨fun x hx => ?any, fun x hx h hseen => ?seen, fun x hx hh h => ?up⟩, fun f s => ?delays⟩
  case any =>
    obtain ⟨act, hexec⟩ := exec_frame (f := f) s hx
    simp only [hexec]
    exact ⟨fun hb ok => by rw [State.takeFrame_of_bypass _ hb], fun hb =>
      ⟨by rw [State.takeFrame_badCrc _ hb], fun hg => by rw [State.takeFrame_otherGen _ hb hg]⟩⟩
  case seen =>
    have hexec (hh : s.chain.head = true → x.1 ≠ 11 ∧ x.1 ≠ 12) : exec (x.2 true) s =
        .next (if s.chain.head then s else s.passDown (s.onward f)) := by
      obtain ⟨act, hact⟩ := exec_downFrame (f := f) x hx hh
      rw [hact, State.takeDown_of_seen _ h hseen]
    refine ⟨fun hh h11 h12 => ?_, fun hh ht => ?_, fun hh ht => ?_⟩
    · rw [hexec fun _ => ⟨h11, h12⟩, hh]; rfl
    · rw [hexec (by simp [hh]), hh, State.passDown, ht]; rfl
    · rw [hexec (by simp [hh]), hh, State.passDown, ht, State.onward_eq, State.ty_of_hears h]; rfl
  case up =>
    obtain ⟨a, act, hexec⟩ := exec_upFrame (f := f) s x hx
    rw [hexec, State.takeUp_passes _ h hh]
  case delays =>
    refine ⟨exec_delayPassTimer, exec_delayPassTimer_idle, exec_delayFrame, exec_delayDone, fun h => ?_, fun ps => ?_⟩
    · refine (exec_compFrame h).trans ?_
      rw [State.modChain, State.chain_repeated]; rfl
    · refine congrArg Host.Outcome.next ?_
      simp only [State.modChain, Bool.or_eq_true]

end Sys2Proof.Machine
end

section
/-! SUPPORT. How chain addresses are taken, kept and dropped, and how the head grants one (O25). -/

namespace Sys2Proof.Machine

section
variable {s : State} {f : Frame}

/-! ## ENUM and REENUM (R271, R272) -/

/-- A module passes an ENUM on, or answers it as the tail. -/
def State.enumAnswered (w : State) (f : Frame) : State :=
  if w.chain.tail then w.sendUp 2 (BitVec.ofNat 32 (min (Frame13 f + 1) 4095)) else w.emit (.frameDn (w.onward f))

/-- An ENUM has been heard, and what was absent before it is absent no more. -/
def State.enumHeard (s : State) (f : Frame) : State :=
  (s.heard f).modChain (fun c => { c with enums := satAdd c.enums 1, declared := [] })

/-- The module takes the address of an ENUM, or, with none left to take, drops its own. -/
def State.enumTaken (s : State) (f : Frame) : State :=
  if 4094 < Frame13 f
  then ((s.enumHeard f).modChain (fun c => { c with full := true, addrValid := false, addr := 0 })).afterAbsence (s.heard f)
  else (((s.enumHeard f).holding (Frame13 f)).afterAbsence (s.heard f)).announce

theorem exec_enumFrame (h : s.hearsNew f 1 = true) (hh : s.chain.head = false) :
    exec (.enumFrame f true) s = .next ((s.enumTaken f).enumAnswered f) := by
  refine congrArg Host.Outcome.next ((State.takeDown_of_new _ h).trans ?_)
  rw [State.enumAnswered, ← State.ite_tail_passDown]
  exact if_neg (by simp [State.heard, hh])

theorem State.enumAnswered_of_free (w : State) (ht : f.ty = 1) (ha : Frame13 f ≤ 4094) : w.enumAnswered f =
    if w.chain.tail then w.sendUp 2 (BitVec.ofNat 32 (Frame13 f + 1)) else w.emit (.frameDn { f with body := f.body + 1 }) := by
  have hbody : BitVec.ofNat 32 (f.body.toNat / 2 ^ 13 * 2 ^ 13 + (f.body.toNat + 1) % 2 ^ 13) = f.body + 1 := by
    rw [Frame13] at ha
    apply BitVec.eq_of_toNat_eq
    rw [BitVec.toNat_ofNat, BitVec.toNat_add, show (1 : W32).toNat = 1 from rfl]
    omega
  rw [State.enumAnswered, Nat.min_eq_left (by omega), State.onward_eq, if_pos ht, hbody]

theorem State.enumAnswered_of_full (w : State) (ht : f.ty = 1) (ha : 4094 < Frame13 f) : w.enumAnswered f =
    if w.chain.tail then w.sendUp 2 4095 else w.emit (.frameDn { f with
      body := BitVec.ofNat 32 (f.body.toNat / 2 ^ 13 * 2 ^ 13 + (Frame13 f + 1) % 2 ^ 13) }) := by
  rw [State.enumAnswered, Nat.min_eq_right (by omega), State.onward_eq, if_pos ht, Frame13, Nat.mod_add_mod]
  rfl

theorem exec_enumDone (h : s.hears f 2 = true) (hh : s.chain.head = true) : exec (.enumDone f true) s =
    .next (((s.ackFrame (Frame13 f - 1) 2).enumerated (Frame13 f)).sendDown 3 0) :=
  congrArg Host.Outcome.next (State.takeUp_of_head _ h hh _)

theorem exec_reenumFrame_drops (h : s.hearsNew f 12 = true) (hh : s.chain.head = false) :
    exec (.reenumFrame f true) s = .next (s.repeated f).dropAddresses :=
  (exec_reenumFrame_notHead hh true).trans (congrArg Host.Outcome.next (State.takeDown_of_new _ h))

theorem exec_reenumFrame_enumerates (h : s.hears f 12 = true) (hh : s.chain.head = true) : exec (.reenumFrame f true) s =
    .next (((s.ackFrame noAddress 0xC).sendDown 0xC 0).dropAddresses).startEnumeration :=
  (exec_reenumFrame_head hh true).trans (congrArg Host.Outcome.next (State.takeFrame_of_hears _ h))

/-! ## Grants (R273) -/

/-- The number that tells a JOIN_REQ from another. -/
def joinNonce (f : Frame) : Nat := f.body.toNat / 2 ^ 13

/-- The head has granted address `x` to a JOIN_REQ: it holds it, and is absent no more. -/
def State.grants (g : State) (f : Frame) (x : Nat) : State :=
  g.modChain (fun c => { c with
    granted := if c.granted.contains x then c.granted else (x :: c.granted).mergeSort
    joined := (BitVec.ofNat 19 (joinNonce f), x) :: c.joined.filter (fun y => y.1 != BitVec.ofNat 19 (joinNonce f))
    declared := c.declared.filter (fun y => y != x) })

/-- The head tells the chain of a grant. -/
def State.tellsGrant (k g : State) (f : Frame) (x : Nat) : State :=
  ((k.sendDown 7 (BitVec.ofNat 32 (x + joinNonce f * 2 ^ 13))).sendDown 8 (BitVec.ofNat 32 x)).afterAbsence g

theorem exec_joinReq_answered (h : s.hears f 6 = true) (hh : s.chain.head = true) {x : Nat}
    (hx : s.answerFor (Frame13 f) (BitVec.ofNat 19 (joinNonce f)) = some x) :
    let g := s.ackFrame (Frame13 f) 6
    exec (.joinReq f true) s = .next ((g.grants f x).tellsGrant g f x) := by
  intro g
  have hg : g.answerFor (Frame13 f) (BitVec.ofNat 19 (f.body.toNat / 2 ^ 13)) = some x := hx
  refine congrArg Host.Outcome.next ((State.takeUp_of_head _ h hh _).trans ?_)
  dsimp only
  rw [hg]
  rfl

theorem State.answerFor_repeat {want x : Nat} {n y : BitVec 19} (hf : s.chain.joined.find? (fun z => z.1 = n) = some (y, x)) :
    s.answerFor want n = some x := by
  rw [State.answerFor, hf]

/-- The conditions under which the head grants `x` to one that wants `a` (R273). -/
def State.mayGrant (s : State) (a x : Nat) : Prop :=
  (s.start.img.joinLowest = false ∧ a < 4095 ∧ a ∉ s.chain.granted ∧ x = a) ∨
    ((s.start.img.joinLowest = true ∨ 4095 ≤ a ∨ a ∈ s.chain.granted) ∧ s.chain.lowestAddr = some x)

theorem State.answerFor_new {a x : Nat} {n : BitVec 19} (hf : s.chain.joined.find? (fun z => z.1 = n) = none)
    (hx : s.mayGrant a x) : s.answerFor a n = some x := by
  rw [State.answerFor, hf]
  dsimp only
  rw [State.grantFor]
  obtain ⟨himg, ha, hfree, rfl⟩ | ⟨hwhy, hlow⟩ := hx
  · exact if_pos (by simp [himg, ha, hfree])
  · rw [if_neg, hlow]
    obtain h | h | h := hwhy <;> simp [h]

theorem Chain.lowestAddr_not_granted {c : Chain} {x : Nat} (h : c.lowestAddr = some x) : x ∉ c.granted := by
  have hx := List.find?_some h
  simp only [Bool.and_eq_true, Bool.not_eq_true'] at hx
  simpa using hx.1

theorem State.not_granted_of_mayGrant {a x : Nat} (hx : s.mayGrant a x) : x ∉ s.chain.granted := by
  obtain ⟨-, -, hfree, rfl⟩ | ⟨-, hlow⟩ := hx
  · exact hfree
  · exact Chain.lowestAddr_not_granted hlow

theorem State.grants_new {x : Nat} (hfree : x ∉ s.chain.granted)
    (hf : s.chain.joined.find? (fun z => z.1 = BitVec.ofNat 19 (joinNonce f)) = none) : s.grants f x =
      s.modChain (fun c => { c with
        granted := (x :: c.granted).mergeSort
        joined := (BitVec.ofNat 19 (joinNonce f), x) :: c.joined
        declared := c.declared.filter (fun y => y != x) }) := by
  have hothers : s.chain.joined.filter (fun y => y.1 != BitVec.ofNat 19 (joinNonce f)) = s.chain.joined :=
    List.filter_eq_self.2 fun y hy => by simpa using List.find?_eq_none.1 hf y hy
  rw [State.grants, State.modChain, hothers, if_neg (by simpa using hfree)]
  rfl

theorem State.grants_repeat {x : Nat} : s.grants f x = s.modChain (fun c => { c with
    granted := if x ∈ c.granted then c.granted else (x :: c.granted).mergeSort
    joined := (BitVec.ofNat 19 (joinNonce f), x) :: c.joined.filter (fun y => y.1 != BitVec.ofNat 19 (joinNonce f))
    declared := c.declared.filter (fun y => y != x) }) := by
  simp only [State.grants, List.contains_iff_mem]

theorem exec_joinGrant (h : s.hearsNew f 7 = true) : exec (.joinGrant f true) s =
    let r := s.repeated f
    .next (if s.chain.port ≠ 4 ∨ joinNonce f ≠ s.chain.nonce.toNat then r
      else if 4094 < Frame13 f then { r with chain := { r.chain with full := true } }
      else ((r.holding (Frame13 f)).afterAbsence r).announce) := by
  have hr := s.chain_repeated f
  have hport : (s.repeated f).chain.port = s.chain.port := by rw [hr]; rfl
  have hnonce : (s.repeated f).chain.nonce = s.chain.nonce := by rw [hr]; rfl
  dsimp only
  rw [← hport, ← hnonce]
  exact congrArg Host.Outcome.next (State.takeDown_of_new _ h)

theorem exec_joinedFrame (h : s.hearsNew f 8 = true) : exec (.joinedFrame f true) s =
    let r := s.repeated f
    .next (State.afterAbsence (r.modChain (fun c => { c with declared := c.declared.filter (fun x => x != Frame13 f) })) r) :=
  congrArg Host.Outcome.next (State.takeDown_of_new _ h)

end

/-- Settles O25: an address taken from ENUM or JOIN_GRANT, dropped at REENUM, and granted by the head at JOIN_REQ. -/
theorem chainAddresses : Obligations.ChainAddresses := by
  unfold Obligations.ChainAddresses
  intro f s
  refine ⟨fun h hh => ⟨fun ha => ?enum, fun ha => ?full⟩, exec_enumDone, exec_reenumFrame_drops,
    exec_reenumFrame_enumerates, fun h hh => ⟨fun y x hf => ?again, fun x hf hx => ?grant⟩,
    fun h => ⟨fun hp hn => ⟨fun ha => ?take, fun ha => ?none⟩, fun hne => ?other⟩, exec_joinedFrame⟩
  case enum =>
    intro w
    have hw : s.enumTaken f = w := if_neg (Nat.not_lt.2 ha)
    rw [exec_enumFrame h hh, hw, State.enumAnswered_of_free _ (State.ty_of_hears (State.hearsNew_iff.1 h).1) ha]
    rfl
  case full =>
    intro w
    have hw : s.enumTaken f = w := if_pos ha
    rw [exec_enumFrame h hh, hw, State.enumAnswered_of_full _ (State.ty_of_hears (State.hearsNew_iff.1 h).1) ha]
    rfl
  case again =>
    rw [exec_joinReq_answered h hh (State.answerFor_repeat hf), State.grants_repeat]
    rfl
  case grant =>
    rw [exec_joinReq_answered h hh (State.answerFor_new hf hx),
      State.grants_new (s := s.ackFrame (Frame13 f) 6) (State.not_granted_of_mayGrant hx) hf]
    rfl
  case take =>
    exact (exec_joinGrant h).trans (congrArg Host.Outcome.next
      ((if_neg (not_or.2 ⟨not_not.2 hp, not_not.2 hn⟩)).trans (if_neg (Nat.not_lt.2 ha))))
  case none =>
    exact (exec_joinGrant h).trans (congrArg Host.Outcome.next
      ((if_neg (not_or.2 ⟨not_not.2 hp, not_not.2 hn⟩)).trans (if_pos ha)))
  case other => exact (exec_joinGrant h).trans (congrArg Host.Outcome.next (if_pos hne))

end Sys2Proof.Machine
end

section
/-! SUPPORT. Absence, the topology, the census, and frames that wait for their ACK (O26). -/

namespace Sys2Proof.Machine

section
variable {s : State} {f : Frame}

theorem State.lnk_repeated (s : State) (f : Frame) : (s.repeated f).lnk = s.lnk := by
  rw [State.repeated]
  split <;> rfl

theorem bitOf_toNat {n : Nat} (v : BitVec n) (i : Nat) : bitOf v.toNat i = v.getLsbD i := by
  rw [bitOf, BitVec.getLsbD, Nat.testBit_eq_decide_div_mod_eq]

/-! ## LEAVE and ABSENT (R268, R274) -/

theorem exec_leaveFrame (h : s.hears f 9 = true) (hh : s.chain.head = true) : exec (.leaveFrame f true) s =
    .next ((s.ackFrame (Frame13 f) 9).broadcastAbsent (Frame13 f)) :=
  congrArg Host.Outcome.next (State.takeUp_of_head _ h hh _)

theorem State.broadcastAbsent_known {a : Nat} (ha : a ∈ s.chain.declared) : s.broadcastAbsent a = s :=
  if_pos (by simpa using ha)

theorem State.broadcastAbsent_new {a : Nat} (ha : a ∉ s.chain.declared) : s.broadcastAbsent a =
    (State.sendDown { s with chain := { s.chain with
      declared := a :: s.chain.declared, granted := s.chain.granted.filter (fun x => x != a)
      joined := s.chain.joined.filter (fun x => x.2 != a) } } 0xA (BitVec.ofNat 32 a)).afterAbsence s :=
  if_neg (by simpa using ha)

theorem exec_absentFrame (h : s.hearsNew f 10 = true) : exec (.absentFrame f true) s =
    let r := s.repeated f
    .next (State.afterAbsence { r with chain := { r.chain with
      absents := satAdd s.chain.absents 1,
      declared := if Frame13 f ∈ s.chain.declared then s.chain.declared else Frame13 f :: s.chain.declared } } r) := by
  have habsents : (s.repeated f).chain.absents = s.chain.absents := by
    rw [s.chain_repeated]; rfl
  have hdeclared : (s.repeated f).chain.declared = s.chain.declared := by
    rw [s.chain_repeated]; rfl
  dsimp only
  rw [← habsents, ← hdeclared]
  refine congrArg Host.Outcome.next ((State.takeDown_of_new _ h).trans ?_)
  simp only [State.modChain, List.contains_iff_mem]
  rfl

/-! ## TOPO (R265, R274) -/

theorem exec_topoFrame_notes (h : s.hearsNew f 11 = true) (hh : s.chain.head = false) : exec (.topoFrame f true) s =
    .next ((s.repeated f).noteTopo (topoOf f) (f.body.getLsbD 30)) := by
  rw [exec_topoFrame_notHead hh, bitOf_toNat]
  exact congrArg Host.Outcome.next (State.takeDown_of_new _ h)

theorem exec_topoFrame_reports (h : s.hears f 11 = true) (hh : s.chain.head = true) : exec (.topoFrame f true) s =
    .next ((s.ackFrame (topoOf f).addr 0xB).headTopo (topoOf f) (f.body.getLsbD 30) f.body) := by
  rw [exec_topoFrame_head hh, bitOf_toNat]
  exact congrArg Host.Outcome.next (State.takeUp_of_head _ h hh _)

/-- Recording a report where the links and the clock are those of another state. -/
theorem State.noteTopo_eq {s r : State} (hl : r.lnk = s.lnk) (ht : r.chain.time = s.chain.time) (e : TopoEdge) (up : Bool) :
    let other (x : TopoEdge) : Bool := !(x.addr == e.addr && x.link == e.link)
    let ups := s.lnk.topo.filter other
    let downs := s.lnk.downs.filter other
    r.noteTopo e up = { r with
      lnk := { r.lnk with topo := if up then ups ++ [e] else ups, downs := if up then downs else downs ++ [e] }
      chain := { r.chain with topoAt := some s.chain.time } } := by
  rw [← hl, ← ht]
  rfl

/-! ## The census (R269) -/

theorem exec_censusFrame (h : s.hearsNew f 13 = true) : exec (.censusFrame f true) s =
    .next (if s.chain.addrValid then (s.repeated f).sendUp 0xE (s.chain.addr.setWidth 32) else s.repeated f) := by
  have hvalid : (s.repeated f).chain.addrValid = s.chain.addrValid := by
    rw [s.chain_repeated]; rfl
  have haddr : (s.repeated f).chain.addr = s.chain.addr := by
    rw [s.chain_repeated]; rfl
  rw [← hvalid, ← haddr]
  exact congrArg Host.Outcome.next (State.takeDown_of_new _ h)

theorem exec_hereFrame (h : s.hears f 14 = true) (hh : s.chain.head = true) : exec (.hereFrame f true) s =
    .next { s with chain := { s.chain with
      here := if Frame13 f ∈ s.chain.here then s.chain.here else Frame13 f :: s.chain.here } } := by
  refine congrArg Host.Outcome.next ((State.takeUp_of_head _ h hh _).trans ?_)
  simp only [State.modChain, List.contains_iff_mem]

theorem exec_censusEnd (hh : s.chain.head = true) (hc : s.chain.census = true) : exec .censusEnd s =
    let own := if s.chain.addrValid then [s.chain.addr.toNat] else []
    let held := (s.chain.here ++ own).dedup.mergeSort
    let g := (s.chain.granted.filter (fun x => !held.contains x)).foldl State.broadcastAbsent s
    .next { g with chain := { g.chain with census := false, here := [], granted := held } } :=
  congrArg Host.Outcome.next (if_neg (by simp [hh, hc]))

/-! ## Acknowledgement and resending (R270, R273) -/

theorem exec_chainAck (h : s.hearsNew f 15 = true) : exec (.chainAck f true) s =
    let r := s.repeated f
    .next { r with chain := { r.chain with unacked := s.chain.unacked.filter (fun u => !s.acked f u.1) } } := by
  have hunacked : (s.repeated f).chain.unacked = s.chain.unacked := by
    rw [s.chain_repeated]; rfl
  have hacked (u : Frame) : (s.repeated f).acked f u = s.acked f u := by
    rw [State.acked, State.chain_repeated]; rfl
  dsimp only
  rw [← hunacked]
  simp only [← hacked]
  exact congrArg Host.Outcome.next (State.takeDown_of_new _ h)

theorem State.foldl_emit {α : Type} (g : α → Out) (l : List α) (s : State) :
    l.foldl (fun s x => s.emit (g x)) s = { s with out := s.out ++ l.map g } := by
  induction l generalizing s with
  | nil => simp
  | cons x l ih =>
    rw [List.foldl_cons, ih, List.map_cons, List.append_cons]
    rfl

/-- A frame is sent again, and the sends made are counted, while they are 16 or fewer (R270). -/
theorem State.resendFrames_eq (s : State) (ty : BitVec 4) :
    let due := s.chain.unacked.filter (fun x => decide (x.1.ty = ty) && decide (x.2 ≤ 16))
    let kept := s.chain.unacked.filter (fun x => decide (x.1.ty ≠ ty) || decide (x.2 ≤ 16))
    s.resendFrames ty = { s with
      chain := { s.chain with unacked := kept.map (fun x => if x.1.ty = ty then (x.1, x.2 + 1) else x) }
      out := s.out ++ due.map (fun x => .frameUp x.1) } := by
  intro due kept
  have hkept : s.chain.unacked.filter (fun u => decide (u.1.ty ≠ ty) || (decide (u.1.ty = ty) && decide (u.2 ≤ 16))) = kept :=
    List.filter_congr fun u _ => by by_cases h : u.1.ty = ty <;> simp [h]
  refine (State.foldl_emit (fun u : Frame × Nat => .frameUp u.1) due _).trans ?_
  rw [← hkept]
  rfl

end

/-- Settles O26: reports of absence and of links, the census, and what is sent again or no more. -/
theorem chainAbsence : Obligations.ChainAbsence := by
  unfold Obligations.ChainAbsence
  intro f s
  refine ⟨fun h hh => ⟨fun ha => ?known, fun ha => ?leaves⟩, exec_absentFrame, fun h hh => ?topo,
    fun h hh => ⟨fun hup => ?topoUp, fun hup => ?topoDown⟩, exec_censusFrame, exec_hereFrame, exec_censusEnd,
    exec_chainAck, fun ty hty => ?resend, fun hp => ?join⟩
  case known =>
    replace ha : Frame13 f ∈ s.chain.declared := ha
    rw [exec_leaveFrame h hh, State.broadcastAbsent_known (s := s.ackFrame (Frame13 f) 9) ha]
    rfl
  case leaves =>
    replace ha : Frame13 f ∉ s.chain.declared := ha
    rw [exec_leaveFrame h hh, State.broadcastAbsent_new (s := s.ackFrame (Frame13 f) 9) ha]
    rfl
  case topo =>
    rw [exec_topoFrame_notes h hh,
      State.noteTopo_eq (s.lnk_repeated f) (congrArg Chain.time (s.chain_repeated f) :)]
  case topoUp =>
    rw [exec_topoFrame_reports h hh, State.headTopo, hup]; rfl
  case topoDown =>
    rw [exec_topoFrame_reports h hh, State.headTopo, hup]; rfl
  case resend =>
    refine ⟨s.resendFrames ty, congrArg Host.Outcome.next (if_neg ?_), ?_⟩
    · rintro ⟨h, hp⟩
      exact hty.elim (· h) (· hp)
    · rw [State.resendFrames_eq]
      exact ⟨rfl, rfl, rfl⟩
  case join =>
    exact congrArg Host.Outcome.next (if_pos ⟨rfl, hp⟩)

end Sys2Proof.Machine
end

section
/-! SUPPORT. Edge marks, the reference, the bypass, and the lines from and to the neighbours (O27). -/

namespace Sys2Proof.Machine

section
variable {s : State}

/-! ## Marks (R277–R280) -/

/-- A mark at time `t` adopts a D that has been known for 5 ms, and changes nothing else (R280). -/
theorem Chain.adopt_spec (c : Chain) (t : Nat) :
    (c.adopt t).d = (match c.newD with | some (t0, x) => if t0 + 500000 ≤ t then x else c.d | none => c.d) ∧
    (c.adopt t).newD = (match c.newD with | some (t0, x) => if t0 + 500000 ≤ t then none else some (t0, x) | none => none) ∧
    { c.adopt t with d := c.d, newD := c.newD } = c := by
  cases hn : c.newD with
  | none =>
    have hkeep : c.adopt t = c := by rw [Chain.adopt, hn]
    rw [hkeep]
    exact ⟨rfl, hn, by rw [← hn]⟩
  | some x =>
    obtain ⟨t0, d⟩ := x
    dsimp only
    by_cases h : t0 + 500000 ≤ t
    · have htake : c.adopt t = { c with d := d, newD := none } := by rw [Chain.adopt, hn]; exact if_pos h
      rw [htake, if_pos h, if_pos h]
      exact ⟨rfl, rfl, by rw [← hn]⟩
    · have hkeep : c.adopt t = c := by rw [Chain.adopt, hn]; exact if_neg h
      rw [hkeep, if_neg h, if_neg h]
      exact ⟨rfl, hn, by rw [← hn]⟩

theorem Chain.tail_adopt (c : Chain) (t : Nat) : (c.adopt t).tail = c.tail := by
  obtain ⟨-, -, hrest⟩ := c.adopt_spec t
  have htail := congrArg Chain.tail hrest
  exact htail

theorem State.rdyOut_spliced (hb : s.chain.bypass = false) : s.rdyOut = ((s.chain.tail || s.chain.rdyIn) && s.ownReady) :=
  (if_neg (by simp [hb])).trans (Bool.and_comm _ _)

theorem State.maySendMark_iff (s : State) : s.maySendMark = true ↔
    s.chain.head = true ∧ s.chain.bypass = false ∧ s.ownReady = true ∧ (s.chain.tail = true ∨ s.chain.rdyIn = true) ∧
      s.chain.tsPrev + 2 * s.chain.d.toNat + 400 < s.chain.time ∧ s.chain.tsPrev + 2000 ≤ s.chain.time := by
  have hgap {a g t : Nat} : a + (g + 400) < t ∧ a + max 2000 (g + 400) ≤ t ↔ a + g + 400 < t ∧ a + 2000 ≤ t := by omega
  rw [State.maySendMark]
  by_cases hb : s.chain.bypass = true
  · simp [hb]
  · simp only [State.rdyOut, hb, Bool.not_false, Bool.and_true, Bool.and_eq_true, decide_eq_true_eq,
      Bool.false_eq_true, if_false, Bool.or_eq_true, and_assoc, true_and, hgap]

theorem exec_edgeMarkSend (h : s.maySendMark = true) : exec .edgeMarkSend s = .next ((s.modChain (fun c =>
    ({ c with tsPrev := c.time, mark := some c.time } : Chain).adopt c.time)).emit .edgeMark) :=
  congrArg Host.Outcome.next (if_neg (by simp [h]))

theorem exec_edgeMarkSend_not (h : s.maySendMark = false) : exec .edgeMarkSend s = .next s :=
  congrArg Host.Outcome.next (if_pos (by simp [h]))

theorem exec_edgeMarkReceive_listening (ps : Nat) (hh : s.chain.head = false) (hb : s.chain.bypass = true) :
    exec (.edgeMarkReceive ps) s = .next { s with chain := { s.chain with tsPrev := ps / 10000 } } :=
  congrArg Host.Outcome.next ((if_neg (by simp [hh])).trans (if_pos hb))

/-- A spliced module that has taken a mark (R279). -/
def State.markTaken (s : State) (ps : Nat) : State :=
  s.modChain (fun c => ({ c with tsPrev := ps / 10000, mark := some ((ps - c.c.toNat) / 10000) } : Chain).adopt (ps / 10000))

theorem exec_edgeMarkReceive (ps : Nat) (hh : s.chain.head = false) (hb : s.chain.bypass = false) :
    exec (.edgeMarkReceive ps) s =
      .next (if s.chain.tail then s.markTaken ps else (s.markTaken ps).emit .edgeMark) := by
  have htail : (s.markTaken ps).chain.tail = s.chain.tail := Chain.tail_adopt ..
  rw [← htail]
  exact congrArg Host.Outcome.next ((if_neg (by simp [hh])).trans (if_neg (by simp [State.modChain, hb])))

/-! ## The reference (R269) and splicing (R276) -/

theorem exec_refLock (hg : s.pwr.good = true) : exec .refLock s = .next { s with chain := { s.chain with
    refLocked := true, inCable := true, head := false,
    port := if s.chain.bypass = true ∧ s.job.st ≠ .failed then 1 else s.chain.port } } := by
  refine congrArg Host.Outcome.next ((if_neg (by simp [hg])).trans ?_)
  simp only [State.modChain, Bool.and_eq_true, decide_eq_true_eq]

theorem exec_refLoss_spliced (hb : s.chain.bypass = false) (hh : s.chain.head = false) : exec .refLoss s =
    .next (State.sendDown { s with chain := { s.chain with
      refLocked := false, inCable := false, head := true, headChanges := satAdd s.chain.headChanges 1, census := true,
      here := [] } } 0xD 0) :=
  congrArg Host.Outcome.next ((if_neg (by simp [State.modChain, hh])).trans (if_neg (by simp [State.modChain, hb])))

theorem exec_refLoss_stays (h : s.chain.head = true ∨
      s.chain.bypass = true ∧ (s.chain.port ≠ 1 ∨ s.start.phase.toNat < 7 ∨ s.job.st = .failed)) :
    exec .refLoss s = .next { s with chain := { s.chain with refLocked := false, inCable := false } } := by
  by_cases hh : s.chain.head = true
  · exact congrArg Host.Outcome.next (if_pos hh)
  · obtain ⟨hb, hno⟩ := h.resolve_left hh
    have hstays : ¬(s.chain.port = 1 ∧ 7 ≤ s.start.phase.toNat ∧ s.job.st ≠ .failed) := by
      rintro ⟨hp, hphase, hst⟩
      exact hno.elim (· hp) (·.elim (Nat.not_lt.2 hphase) hst)
    exact congrArg Host.Outcome.next ((if_neg hh).trans ((if_pos hb).trans (if_neg hstays)))

theorem State.startChain_alone (h : s.chain.inCable = false) : s.startChain = State.startEnumeration
    { s with chain := { s.chain with
      tail := !s.chain.outCable, rdyIn := s.chain.rdyIn || !s.chain.outCable, head := true, bypass := false } } := by
  unfold State.startChain
  dsimp only [State.modChain]
  rw [h]
  exact if_pos rfl

theorem exec_refLoss_enumerates (hh : s.chain.head = false) (hb : s.chain.bypass = true) (hp : s.chain.port = 1)
    (hphase : 7 ≤ s.start.phase.toNat) (hst : s.job.st ≠ .failed) : exec .refLoss s =
    .next (State.startEnumeration { s with chain := { s.chain with
      refLocked := false, inCable := false, head := true, headChanges := satAdd s.chain.headChanges 1, bypass := false
      tail := !s.chain.outCable, rdyIn := s.chain.rdyIn || !s.chain.outCable } }) :=
  congrArg Host.Outcome.next ((if_neg (by simp [State.modChain, hh])).trans
    ((if_pos hb).trans ((if_pos ⟨hp, hphase, hst⟩).trans (State.startChain_alone rfl))))

/-- A port that listens may open its bypass (R276, R363). -/
def State.maySplice (s : State) : Prop :=
  s.chain.bypass = true ∧ s.chain.port = 1 ∧ s.chain.refLocked = true ∧ 7 ≤ s.start.phase.toNat ∧ s.job.st ≠ .failed ∧
    s.chain.tsPrev + 100 ≤ s.chain.time ∧ s.chain.time ≤ s.chain.tsPrev + 300

theorem exec_splice (h : s.maySplice) : exec .splice s = .next { s with chain := { s.chain with
    bypass := false, splices := satAdd s.chain.splices 1, port := 2, cMeasured := false, c := s.chain.h } } := by
  obtain ⟨hb, hp, hr, hphase, hst, hlo, hhi⟩ := h
  exact congrArg Host.Outcome.next (if_pos (by simp [hb, hp, hr, hphase, hst, hlo, hhi]))

theorem exec_splice_not (h : ¬s.maySplice) : exec .splice s = .next s := by
  refine congrArg Host.Outcome.next (if_neg fun hc => h ?_)
  simp only [Bool.and_eq_true, decide_eq_true_eq, and_assoc] at hc
  exact hc

end

/-- Settles O27: when marks are sent and taken, what the reference and the bypass do, and the lines to the neighbours. -/
theorem chainMarks : Obligations.ChainMarks := by
  unfold Obligations.ChainMarks
  intro s
  refine ⟨fun hh hb hrdy hown hgap hmin => ?send, fun h => ?hold,
    fun ps hh => ⟨exec_edgeMarkReceive_listening ps hh, fun hb => ?take⟩,
    exec_refLock, exec_refLoss_spliced, exec_refLoss_stays, exec_refLoss_enumerates,
    fun hb hp hr hphase hst hlo hhi => exec_splice ⟨hb, hp, hr, hphase, hst, hlo, hhi⟩, fun hst => ?failed, fun h => ?early,
    fun _ => rfl, fun _ => rfl, ?ready⟩
  case send =>
    have hmay : s.maySendMark = true := s.maySendMark_iff.2 ⟨hh, hb, hown, hrdy, hgap, hmin⟩
    exact ⟨_, exec_edgeMarkSend hmay, rfl, Chain.adopt_spec _ _, rfl⟩
  case hold =>
    refine exec_edgeMarkSend_not (Bool.eq_false_iff.2 fun hmay => ?_)
    obtain ⟨-, -, hown, -, hgap, hmin⟩ := s.maySendMark_iff.1 hmay
    obtain h | h | h := h
    · exact Nat.not_le.2 h hmin
    · exact Nat.not_lt.2 h hgap
    · exact Bool.false_ne_true (h.symm.trans hown)
  case take =>
    refine ⟨_, exec_edgeMarkReceive ps hh hb, ?_⟩
    split
    · exact ⟨Chain.adopt_spec _ _, by simp [State.markTaken], rfl⟩
    · exact ⟨Chain.adopt_spec _ _, rfl, rfl⟩
  case failed => exact exec_splice_not fun ⟨_, _, _, _, hne, _, _⟩ => hne hst
  case ready =>
    split
    · next hb => exact if_pos hb
    · next hb =>
      rw [State.rdyOut_spliced (Bool.eq_false_iff.2 hb)]
      exact congrArg _ (if_neg hb)
  case early =>
    refine exec_splice_not fun ⟨_, _, _, _, _, hlo, hhi⟩ => ?_
    omega

end Sys2Proof.Machine
end

section
/-! SUPPORT. A link that leaves service, or changes alone: what becomes of it and what stays (O29). -/

namespace Sys2Proof.Machine

/-! ## Changes of one link -/

/-- Of the links only `l` has changed, into `k`, and besides the links only what tells of it: packets, frames, messages and
vectors. -/
structure State.LinkBecomes (s u : State) (l : Nat) (k : Link) : Prop where
  link : u.link l = k
  others : ∀ j, j ≠ l → u.link j = s.link j
  cage : u.lnk.cage = s.lnk.cage
  cut : u.lnk.cut = s.lnk.cut
  head : u.chain.head = s.chain.head
  rest : { u with lnk := s.lnk, net := s.net, chain := s.chain, out := s.out, ports := s.ports } = s

section
variable {s v u : State} {l : Nat} {k m : Link}

/-- What lies outside the links and what tells of them is kept by two changes, one after the other. -/
theorem State.linkRest_trans
    (h : { v with lnk := s.lnk, net := s.net, chain := s.chain, out := s.out, ports := s.ports } = s)
    (g : { u with lnk := v.lnk, net := v.net, chain := v.chain, out := v.out, ports := v.ports } = v) :
    { u with lnk := s.lnk, net := s.net, chain := s.chain, out := s.out, ports := s.ports } = s :=
  (congrArg (fun x : State => { x with lnk := s.lnk, net := s.net, chain := s.chain, out := s.out, ports := s.ports }) g).trans h

theorem State.LinkBecomes.trans (h : s.LinkBecomes v l k) (g : v.LinkBecomes u l m) : s.LinkBecomes u l m where
  link := g.link
  others j hj := (g.others j hj).trans (h.others j hj)
  cage := g.cage.trans h.cage
  cut := g.cut.trans h.cut
  head := g.head.trans h.head
  rest := State.linkRest_trans h.rest g.rest

theorem State.LinkBecomes.refl (s : State) (l : Nat) : s.LinkBecomes s l (s.link l) := ⟨rfl, fun _ _ => rfl, rfl, rfl, rfl, rfl⟩

theorem State.LinkBecomes.withNet (h : s.LinkBecomes u l k) (n : Net) : s.LinkBecomes { u with net := n } l k :=
  ⟨h.link, h.others, h.cage, h.cut, h.head, h.rest⟩

theorem State.onlyLink.refl (s : State) (l : Nat) : s.onlyLink s l := ⟨fun _ _ => rfl, rfl, rfl⟩

theorem State.onlyLink.trans (h : s.onlyLink v l) (g : v.onlyLink u l) : s.onlyLink u l := by
  obtain ⟨hlink, hlnk, hrest⟩ := h
  obtain ⟨glink, glnk, grest⟩ := g
  exact ⟨fun j hj => (glink j hj).trans (hlink j hj),
    (congrArg (fun x : Links => { x with links := s.lnk.links }) glnk).trans hlnk,
    (congrArg (fun x : State => { x with lnk := s.lnk, out := s.out, ports := s.ports }) grest).trans hrest⟩

theorem State.onlyLink.chain (h : s.onlyLink u l) : u.chain = s.chain := by
  obtain ⟨-, -, hrest⟩ := h
  have hchain := congrArg State.chain hrest
  exact hchain

theorem State.onlyLink.plb (h : s.onlyLink u l) : u.plb = s.plb := by
  obtain ⟨-, -, hrest⟩ := h
  have hplb := congrArg State.plb hrest
  exact hplb

theorem State.onlyLink.becomes (h : s.onlyLink u l) (hk : u.link l = k) : s.LinkBecomes u l k := by
  have hchain := congrArg Chain.head h.chain
  obtain ⟨hlink, hlnk, hrest⟩ := h
  have hcage := congrArg Links.cage hlnk
  have hcut := congrArg Links.cut hlnk
  exact ⟨hk, hlink, hcage, hcut, hchain, congrArg (fun x : State => { x with net := s.net, chain := s.chain }) hrest⟩

theorem State.onlyLink_modLink (s : State) (l : Nat) (f : Link → Link) : s.onlyLink (s.modLink l f) l :=
  ⟨fun _ hj => s.link_modLink_ne f hj, rfl, rfl⟩

theorem State.onlyLink_emit (s : State) (l : Nat) (o : Out) : s.onlyLink (s.emit o) l := ⟨fun _ _ => rfl, rfl, rfl⟩

theorem State.onlyLink_msixBoth (s : State) (l v : Nat) : s.onlyLink (s.msixBoth v) l := by
  obtain ⟨ps, o, h⟩ := s.msixBoth_eq v
  rw [h]
  exact ⟨fun _ _ => rfl, rfl, rfl⟩

theorem State.onlyLink_changeLink (s : State) (l : Nat) (f : Link → Link) : s.onlyLink (s.changeLink l f) l := by
  rw [State.changeLink]
  split
  · exact s.onlyLink_modLink l f
  · exact (s.onlyLink_modLink l f).trans (State.onlyLink_msixBoth _ _ _)

theorem State.link_changeLink (s : State) (l : Nat) (f : Link → Link) : (s.changeLink l f).link l = f (s.link l) := by
  rw [State.changeLink]
  split
  · exact s.link_modLink_same l f
  · obtain ⟨ps, o, h⟩ := (s.modLink l f).msixBoth_eq 6
    rw [h]
    exact s.link_modLink_same l f

theorem State.becomes_changeLink (s : State) (l : Nat) (f : Link → Link) : s.LinkBecomes (s.changeLink l f) l (f (s.link l)) :=
  (s.onlyLink_changeLink l f).becomes (s.link_changeLink l f)

end

/-! ## A link without a bond leaves service (R255, R283) -/

/-- A link out of service with a state and a cause. -/
def Link.out (state cause : BitVec 4) (k : Link) : Link :=
  { k with state := state, cause := cause, width := 0, rate := 0, live := 0, locked := 0, bond := 0xF, ch := {} }

section
variable {s : State} {l : Nat}

theorem State.leader_unbonded (hb : (s.link l).bond = 0xF) : s.leader l = l := if_pos hb

theorem State.bondOf_unbonded (hb : (s.link l).bond = 0xF) : s.bondOf l = [l] := if_pos hb

theorem State.endLost_eq (s : State) (p : Packet) (rest : List Packet) : ∃ n, s.endLost p rest = { s with net := n } := by
  unfold State.endLost State.endAbsent
  split
  · exact ⟨_, rfl⟩
  · split
    · exact ⟨_, rfl⟩
    · split <;> exact ⟨_, rfl⟩

theorem State.endAllLost_eq (s : State) (ps : List Packet) : ∃ n, s.endAllLost ps = { s with net := n } := by
  induction ps generalizing s with
  | nil => exact ⟨_, rfl⟩
  | cons p rest ih =>
    obtain ⟨n, h⟩ := s.endLost_eq p rest
    obtain ⟨n', h'⟩ := ih (s.endLost p rest)
    exact ⟨n', by rw [State.endAllLost, h', h]⟩

/-- The state in which the head may have heard that a link goes. -/
def State.toldOut (s : State) (l : Nat) : State := if (s.link l).carries then s.reportTopo l false else s

theorem State.endAllLost_forgetCredits_eq (s : State) (l : Nat) (ps : List Packet) :
    ∃ n, (s.forgetCredits l).endAllLost ps = { s with net := n } :=
  (s.forgetCredits l).endAllLost_eq ps

theorem State.link_withNet (s : State) (n : Net) (l : Nat) : State.link { s with net := n } l = s.link l := rfl

theorem State.linkOut_unbonded (hb : (s.link l).bond = 0xF) (state cause : BitVec 4) :
    ∃ n, s.linkOut l state cause = { (s.toldOut l).changeLink l (Link.out state cause) with net := n } := by
  have hnone : [l].filter (fun k => k != l && (s.link k).carries) = [] := by simp
  rw [State.linkOut, State.bondOf_unbonded hb, hnone]
  simp only [List.head?_nil]
  exact State.endAllLost_forgetCredits_eq ((s.toldOut l).changeLink l (Link.out state cause)) l _

theorem State.toldOut_quiet (hq : s.chain.head = false ∨ (s.link l).carries = false) :
    s.LinkBecomes (s.toldOut l) l (s.link l) := by
  unfold State.toldOut State.reportTopo
  split
  · next hc =>
    have hh : s.chain.head = false := hq.resolve_right (by simp [hc])
    rw [hh]
    split
    · exact .refl s l
    · exact ⟨rfl, fun _ _ => rfl, rfl, rfl, rfl, rfl⟩
  · exact .refl s l

theorem State.becomes_linkOut (hb : (s.link l).bond = 0xF) (hq : s.chain.head = false ∨ (s.link l).carries = false)
    (state cause : BitVec 4) : s.LinkBecomes (s.linkOut l state cause) l ((s.link l).out state cause) := by
  obtain ⟨n, h⟩ := State.linkOut_unbonded hb state cause
  have htold := State.toldOut_quiet hq
  rw [h, ← htold.link]
  exact (htold.trans (State.becomes_changeLink ..)).withNet n

theorem State.wentOut_of_becomes {u : State} {k : Link} {state cause : BitVec 4} (h : s.LinkBecomes u l (k.out state cause)) :
    s.wentOut u l state cause := by
  rw [State.wentOut, h.link]
  exact ⟨rfl, rfl, rfl, rfl, rfl, rfl, rfl, rfl, fun _ => ⟨h.others, h.rest⟩⟩

theorem State.wentOut_linkOut (hb : (s.link l).bond = 0xF) (state cause : BitVec 4) :
    s.wentOut (s.linkOut l state cause) l state cause := by
  by_cases hq : s.chain.head = false ∨ (s.link l).carries = false
  · exact State.wentOut_of_becomes (State.becomes_linkOut hb hq state cause)
  · obtain ⟨n, h⟩ := State.linkOut_unbonded hb state cause
    have hlink : (s.linkOut l state cause).link l = ((s.toldOut l).link l).out state cause := by
      rw [h]
      exact (State.link_withNet ((s.toldOut l).changeLink l (Link.out state cause)) n l).trans (State.link_changeLink ..)
    rw [State.wentOut, hlink]
    exact ⟨rfl, rfl, rfl, rfl, rfl, rfl, rfl, rfl, fun h => absurd h hq⟩

end

/-! ## Link commands that take a link out or back (R255, R256, R283) -/

section
variable {s : State} {l : LinkId}

theorem exec_linkDown_replays (hb : (s.link l).bond = 0xF) (hlive : (s.link l).carries = true ∨ (s.link l).state = lkStandby)
    (hf : 16 ≤ (s.link l).ch.failed) : exec (.linkDown l .replays) s = .next (s.linkOut l lkDown 2) := by
  refine congrArg Host.Outcome.next (if_pos ?_)
  rw [State.leader_unbonded hb]
  simpa [hf] using hlive

theorem exec_linkDown_lossOfLock (hlive : (s.link l).carries = true ∨ (s.link l).state = lkStandby) :
    exec (.linkDown l .lossOfLock) s = .next (s.linkOut l lkDown 1) :=
  congrArg Host.Outcome.next (if_pos (by simpa using hlive))

theorem exec_linkDown_cableLoss (hlive : (s.link l).carries = true ∨ (s.link l).state = lkStandby) :
    exec (.linkDown l .cableLoss) s = .next (s.linkOut l lkDown 8) :=
  congrArg Host.Outcome.next (if_pos (by simpa using Or.inl hlive))

theorem exec_resetNotice (hlive : (s.link l).carries = true ∨ (s.link l).state = lkStandby) :
    exec (.resetNotice l) s = .next (s.linkOut l lkDown 3) :=
  congrArg Host.Outcome.next (if_pos (by simpa using hlive))

theorem exec_linkRetrainTimer_trains (hd : (s.link l).state = lkDown) (hc : (s.link l).cause = 1 ∨ (s.link l).cause = 3)
    (ht : s.canTrain l = true) : exec (.linkRetrainTimer l) s =
      .next (s.changeLink l (fun k => { k with state := lkTraining, cause := 0 })) := by
  have hcage : s.lnk.cage.getLsbD (cageOf l) = true := by
    simp only [State.canTrain, Bool.and_eq_true] at ht
    obtain ⟨⟨-, hcage⟩, -⟩ := ht
    exact hcage
  refine congrArg Host.Outcome.next ((if_neg (not_not.2 hd)).trans ((if_neg (by simp [hcage])).trans ((if_pos hc).trans ?_)))
  exact if_pos (by rw [ht, hd]; rfl)

theorem exec_linkRetrainTimer_empty (hd : (s.link l).state = lkDown) (hcage : s.lnk.cage.getLsbD (l.val / 2) = false) :
    exec (.linkRetrainTimer l) s = .next (s.changeLink l (fun k => { k with state := 0, cause := 0 })) :=
  congrArg Host.Outcome.next ((if_neg (not_not.2 hd)).trans (if_pos (by simp [cageOf, hcage])))

end

end Sys2Proof.Machine
end

section
/-! SUPPORT. Cables that come and go, and cages that lose their supply (O29). -/

namespace Sys2Proof.Machine

/-! ## Two links of a cage, one after the other -/

section
variable {s v u : State} {a b : Nat} {k m : Link}

theorem State.LinkBecomes.pair (hab : a ≠ b) (h : s.LinkBecomes v a k) (g : v.LinkBecomes u b m) :
    u.link a = k ∧ u.link b = m ∧ (∀ j, j ≠ a → j ≠ b → u.link j = s.link j) ∧ u.lnk.cage = s.lnk.cage ∧
      u.lnk.cut = s.lnk.cut ∧
      { u with lnk := s.lnk, net := s.net, chain := s.chain, out := s.out, ports := s.ports } = s :=
  ⟨(g.others a hab).trans h.link, g.link, fun j ha hb => (g.others j hb).trans (h.others j ha), g.cage.trans h.cage,
    g.cut.trans h.cut, State.linkRest_trans h.rest g.rest⟩

theorem State.onlyLink.pair (hab : a ≠ b) (h : s.onlyLink v a) (g : v.onlyLink u b) :
    u.link a = v.link a ∧ (∀ j, j ≠ a → j ≠ b → u.link j = s.link j) ∧ u.lnk.cage = s.lnk.cage ∧
      { u with lnk := s.lnk, out := s.out, ports := s.ports } = s := by
  obtain ⟨hlink, hlnk, hrest⟩ := h
  obtain ⟨glink, glnk, grest⟩ := g
  have hcage := congrArg Links.cage hlnk
  have gcage := congrArg Links.cage glnk
  exact ⟨glink a hab, fun j ha hb => (glink j hb).trans (hlink j ha), gcage.trans hcage,
    (congrArg (fun x : State => { x with lnk := s.lnk, out := s.out, ports := s.ports }) grest).trans hrest⟩

end

/-! ## A cable is plugged in (R256, R474) -/

section
variable (s : State) (l : Nat)

/-- A link that begins to train. -/
def Link.training (k : Link) : Link := { k with state := lkTraining, cause := 0 }

theorem State.link_startTraining : (s.startTraining l).link l =
    if s.canTrain l = true ∧ (s.link l).state ≠ lkFailed then (s.link l).training else s.link l := by
  unfold State.startTraining
  by_cases h : s.canTrain l = true ∧ (s.link l).state ≠ lkFailed
  · rw [if_pos h, if_pos (by simpa using h)]
    exact s.link_changeLink l Link.training
  · rw [if_neg h, if_neg (by simpa using h)]

theorem State.onlyLink_startTraining : s.onlyLink (s.startTraining l) l := by
  unfold State.startTraining
  split
  · exact s.onlyLink_changeLink l Link.training
  · exact .refl s l

/-- A change of one link keeps what lets a link train. -/
theorem State.onlyLink.canTrain {s u : State} {l : Nat} (h : s.onlyLink u l) (j : Nat) : u.canTrain j = s.canTrain j := by
  obtain ⟨-, hlnk, hrest⟩ := h
  have hcage := congrArg Links.cage hlnk
  have hcut := congrArg Links.cut hlnk
  have hpwr := congrArg State.pwr hrest
  have hstart := congrArg State.start hrest
  have hjob := congrArg State.job hrest
  dsimp only at hcage hcut hpwr hstart hjob
  simp only [State.canTrain, State.linkBit, hpwr, hstart, hjob, hcage, hcut]

/-- Cages that hold a cable, one more among them. -/
def State.withCage (s : State) (cage : Nat) : State := { s with lnk := { s.lnk with cage := s.lnk.cage ||| (1#6 <<< cage) } }

/-- A cage holds a cable on which its links have not trained. -/
def State.plugged (s : State) (cage : Nat) : State :=
  ((s.withCage cage).modLink (2 * cage) (fun k => { k with trained := false })).modLink (2 * cage + 1)
    (fun k => { k with trained := false })

theorem State.link_plugged (cage : Nat) {j : Nat} (hj : j = 2 * cage ∨ j = 2 * cage + 1) :
    (s.plugged cage).link j = { s.link j with trained := false } := by
  obtain rfl | rfl := hj
  · exact (State.link_modLink_ne _ _ (by omega)).trans (State.link_modLink_same _ _ _)
  · refine (State.link_modLink_same _ _ _).trans ?_
    rw [State.link_modLink_ne _ _ (by omega)]
    rfl

theorem State.link_plugged_other {cage j : Nat} (ha : j ≠ 2 * cage) (hb : j ≠ 2 * cage + 1) :
    (s.plugged cage).link j = s.link j :=
  (State.link_modLink_ne _ _ hb).trans (State.link_modLink_ne _ _ ha)

theorem exec_cableInsert {cage : Fin 6} {s : State} (h : s.lnk.cage.getLsbD cage = false) : exec (.cableInsert cage) s =
    .next (((s.plugged cage).startTraining (2 * cage.val)).startTraining (2 * cage.val + 1)) :=
  congrArg Host.Outcome.next (if_neg (by rw [h]; decide))

theorem cableInsert_spec {cage : Fin 6} {s : State} (h : s.lnk.cage.getLsbD cage = false) :
    ∃ u, exec (.cableInsert cage) s = .next u ∧ u.lnk.cage = s.lnk.cage ||| (1#6 <<< cage.val) ∧
      (∀ j ∈ [2 * cage.val, 2 * cage.val + 1], u.link j =
        if (s.withCage cage).canTrain j = true ∧ (s.link j).state ≠ lkFailed
        then Link.training { s.link j with trained := false } else { s.link j with trained := false }) ∧
      (∀ j, j ≠ 2 * cage.val → j ≠ 2 * cage.val + 1 → u.link j = s.link j) ∧
      { u with lnk := s.lnk, out := s.out, ports := s.ports } = s := by
  have hfirst := (s.plugged cage).onlyLink_startTraining (2 * cage.val)
  have hsecond := ((s.plugged cage).startTraining (2 * cage.val)).onlyLink_startTraining (2 * cage.val + 1)
  obtain ⟨hlink, hother, hcage, hrest⟩ := hfirst.pair (by omega) hsecond
  have hcan (j : Nat) : (s.plugged cage).canTrain j = (s.withCage cage).canTrain j := rfl
  refine ⟨_, exec_cableInsert h, hcage, fun j hj => ?_,
    fun j ha hb => (hother j ha hb).trans (s.link_plugged_other ha hb), ?_⟩
  · replace hj : j = 2 * cage.val ∨ j = 2 * cage.val + 1 := by simpa using hj
    have hplug := s.link_plugged cage hj
    obtain rfl | rfl := hj
    · rw [hlink, State.link_startTraining, hcan, hplug]
    · rw [State.link_startTraining, hfirst.canTrain, hfirst.1 _ (by omega), hcan, hplug]
  · exact congrArg (fun x : State => { x with lnk := s.lnk }) hrest

end

/-! ## A cable goes, and a cage loses its supply (R283, R474, R475) -/

section
variable {s : State} {l : Nat}

/-- A link without its cable. -/
def Link.gone (k : Link) : Link :=
  { if k.state = 0 then k else k.out lkDown 8 with
    trained := false, cableType := 0, lengthCm := 0, loss := 0, longPassive := false, serialTag := 0 }

/-- A link without a supply: an EMPTY or FAILED one stays so. -/
def Link.dark (cause : BitVec 4) (k : Link) : Link :=
  if k.state = 0 ∨ k.state = lkFailed then k else k.out lkDown cause

theorem State.becomes_cableGone (hb : (s.link l).bond = 0xF) (hq : s.chain.head = false ∨ (s.link l).carries = false) :
    s.LinkBecomes (s.cableGone l) l (s.link l).gone := by
  have hout : s.LinkBecomes (if (s.link l).state = 0 then s else s.linkOut l lkDown 8) l
      (if (s.link l).state = 0 then s.link l else (s.link l).out lkDown 8) := by
    split
    · exact .refl s l
    · exact State.becomes_linkOut hb hq lkDown 8
  have hgone := hout.trans (State.becomes_changeLink _ l (fun k => { k with
    trained := false, cableType := 0, lengthCm := 0, loss := 0, longPassive := false, serialTag := 0 }))
  rw [hout.link] at hgone
  exact hgone

theorem State.becomes_darken (hb : (s.link l).bond = 0xF) (hq : s.chain.head = false ∨ (s.link l).carries = false)
    (cause : BitVec 4) : s.LinkBecomes (s.darken l cause) l ((s.link l).dark cause) := by
  unfold State.darken Link.dark
  split
  · exact .refl s l
  · exact State.becomes_linkOut hb hq lkDown cause

theorem Link.state_gone (k : Link) : k.gone.state = if k.state = 0 then 0 else lkDown := by
  unfold Link.gone
  split
  · next h => exact h
  · rfl

theorem Link.cause_gone (k : Link) : k.gone.cause = if k.state = 0 then k.cause else 8 := by
  unfold Link.gone
  split <;> rfl

/-- The links once a cage has lost its cable and has its supply back. -/
def Links.withoutCage (k : Links) (cage : Nat) : Links :=
  { k with cage := k.cage &&& ~~~(1#6 <<< cage), cut := k.cut &&& ~~~(1#6 <<< cage) }

/-- The links once a cage's supply is cut. -/
def Links.withCut (k : Links) (cage : Nat) : Links := { k with cut := k.cut ||| (1#6 <<< cage) }

variable {cage : Fin 6}

theorem exec_cableRemove (h : s.lnk.cage.getLsbD cage = true) : exec (.cableRemove cage) s =
    .next ((State.cableGone { s with lnk := s.lnk.withoutCage cage } (2 * cage.val)).cableGone (2 * cage.val + 1)) :=
  congrArg Host.Outcome.next (if_neg (by simp [h]))

theorem exec_cageOvercurrent (h : s.lnk.cage.getLsbD cage = true) (hcut : s.lnk.cut.getLsbD cage = false) :
    exec (.cageOvercurrent cage) s =
      .next ((State.darken { s with lnk := s.lnk.withCut cage } (2 * cage.val) 1).darken (2 * cage.val + 1) 1) :=
  congrArg Host.Outcome.next (if_neg (by rw [h, hcut]; decide))

/-- The head does not hear of a cage's links, or the module is not head. -/
def State.cageQuiet (s : State) (cage : Nat) : Prop :=
  s.chain.head = false ∨ ((s.link (2 * cage)).carries = false ∧ (s.link (2 * cage + 1)).carries = false)

/-- Both links of a cage change in turn as one does that is alone. -/
theorem State.cage_becomes {f : State → Nat → State} {g : Link → Link}
    (hf : ∀ (s : State) l, (s.link l).bond = 0xF → (s.chain.head = false ∨ (s.link l).carries = false) →
      s.LinkBecomes (f s l) l (g (s.link l)))
    {s : State} {x : Links} (hx : x.links = s.lnk.links) {cage : Nat} (ha : (s.link (2 * cage)).bond = 0xF)
    (hb : (s.link (2 * cage + 1)).bond = 0xF) (hq : s.cageQuiet cage) :
    let u := f (f { s with lnk := x } (2 * cage)) (2 * cage + 1)
    (∀ j ∈ [2 * cage, 2 * cage + 1], u.link j = g (s.link j)) ∧
      (∀ j, j ≠ 2 * cage → j ≠ 2 * cage + 1 → u.link j = s.link j) ∧ u.lnk.cage = x.cage ∧ u.lnk.cut = x.cut ∧
      { u with lnk := s.lnk, net := s.net, chain := s.chain, out := s.out, ports := s.ports } = s := by
  have hlink (j : Nat) : State.link { s with lnk := x } j = s.link j := State.link_congr hx j
  have hfirst := hf { s with lnk := x } (2 * cage) (by rw [hlink, ha]) (by rw [hlink]; exact hq.imp_right And.left)
  have hkept := (hfirst.others (2 * cage + 1) (by omega)).trans (hlink _)
  have hsecond := hf (f { s with lnk := x } (2 * cage)) (2 * cage + 1) (by rw [hkept, hb])
    (by rw [hkept, hfirst.head]; exact hq.imp_right And.right)
  rw [hkept] at hsecond
  rw [hlink] at hfirst
  obtain ⟨hlinka, hlinkb, hothers, hcage, hcut, hrest⟩ := hfirst.pair (by omega) hsecond
  refine ⟨fun j hj => ?_, fun j hja hjb => (hothers j hja hjb).trans (hlink j), hcage, hcut,
    congrArg (fun x : State => { x with lnk := s.lnk }) hrest⟩
  obtain rfl | rfl : j = 2 * cage ∨ j = 2 * cage + 1 := by simpa using hj
  · exact hlinka
  · exact hlinkb

theorem cableRemove_spec (h : s.lnk.cage.getLsbD cage = true) (ha : (s.link (2 * cage)).bond = 0xF)
    (hb : (s.link (2 * cage + 1)).bond = 0xF) (hq : s.cageQuiet cage) :
    ∃ u, exec (.cableRemove cage) s = .next u ∧ u.lnk.cage = s.lnk.cage &&& ~~~(1#6 <<< cage.val) ∧
      (∀ j ∈ [2 * cage.val, 2 * cage.val + 1], u.link j = (s.link j).gone) ∧
      (∀ j, j ≠ 2 * cage.val → j ≠ 2 * cage.val + 1 → u.link j = s.link j) ∧
      { u with lnk := s.lnk, net := s.net, chain := s.chain, out := s.out, ports := s.ports } = s := by
  obtain ⟨hlink, hothers, hcage, -, hrest⟩ := State.cage_becomes (x := s.lnk.withoutCage cage)
    (fun _ _ => State.becomes_cableGone) rfl ha hb hq
  exact ⟨_, exec_cableRemove h, hcage, hlink, hothers, hrest⟩

theorem cageOvercurrent_spec (h : s.lnk.cage.getLsbD cage = true) (hcut : s.lnk.cut.getLsbD cage = false)
    (ha : (s.link (2 * cage)).bond = 0xF) (hb : (s.link (2 * cage + 1)).bond = 0xF) (hq : s.cageQuiet cage) :
    ∃ u, exec (.cageOvercurrent cage) s = .next u ∧ u.lnk.cut = s.lnk.cut ||| (1#6 <<< cage.val) ∧
      (∀ j ∈ [2 * cage.val, 2 * cage.val + 1], u.link j = (s.link j).dark 1) ∧
      (∀ j, j ≠ 2 * cage.val → j ≠ 2 * cage.val + 1 → u.link j = s.link j) ∧
      { u with lnk := s.lnk, net := s.net, chain := s.chain, out := s.out, ports := s.ports } = s := by
  obtain ⟨hlink, hothers, -, hcut', hrest⟩ := State.cage_becomes (x := s.lnk.withCut cage) (f := fun s l => s.darken l 1)
    (fun _ _ hb hq => State.becomes_darken hb hq 1) rfl ha hb hq
  exact ⟨_, exec_cageOvercurrent h hcut, hcut', hlink, hothers, hrest⟩

end

end Sys2Proof.Machine
end

section
/-! SUPPORT. What training finds, and the link that comes UP (O29). -/

namespace Sys2Proof.Machine

/-! ## Entries of the lifetime log that change one by one (R458) -/

/-- Each key of a list gets a value in the lifetime log, from what stands there. -/
def State.logEach (s : State) (key : Nat → Nat) (val : Nat → Option Nat → Nat) (L : List Nat) : State :=
  L.foldl (fun s i => s.logSet (key i) (val i (SMap.find? s.plb.log (key i)))) s

/-- The state with another lifetime log. -/
def State.withLog (s : State) (lg : SMap Nat) : State := { s with plb := { s.plb with log := lg } }

section
variable {key : Nat → Nat} {val : Nat → Option Nat → Nat} {L : List Nat}

theorem State.logEach_eq (s : State) (key : Nat → Nat) (val : Nat → Option Nat → Nat) (L : List Nat) :
    ∃ lg, s.logEach key val L = s.withLog lg := by
  induction L generalizing s with
  | nil => exact ⟨s.plb.log, rfl⟩
  | cons i L ih =>
    obtain ⟨lg, h⟩ := ih (s.logSet (key i) (val i (SMap.find? s.plb.log (key i))))
    exact ⟨lg, h⟩

theorem State.find?_logSet (s : State) (off v o : Nat) :
    SMap.find? (s.logSet off v).plb.log o = if o = off then some v else SMap.find? s.plb.log o := SMap.find?_set ..

theorem State.find?_logEach_other {o : Nat} (h : ∀ i ∈ L, o ≠ key i) (s : State) :
    SMap.find? (s.logEach key val L).plb.log o = SMap.find? s.plb.log o := by
  induction L generalizing s with
  | nil => rfl
  | cons i L ih =>
    refine (ih (fun j hj => h j (List.mem_cons_of_mem i hj)) _).trans ?_
    rw [State.find?_logSet, if_neg (h i List.mem_cons_self)]

theorem State.find?_logEach_same (hkey : Function.Injective key) (hn : L.Nodup) {i : Nat} (hi : i ∈ L) (s : State) :
    SMap.find? (s.logEach key val L).plb.log (key i) = some (val i (SMap.find? s.plb.log (key i))) := by
  induction L generalizing s with
  | nil => cases hi
  | cons j L ih =>
    obtain ⟨hj, hn⟩ := List.nodup_cons.1 hn
    by_cases hij : i = j
    · subst hij
      refine (State.find?_logEach_other (L := L) (fun k hk heq => hj ?_) _).trans ?_
      · rwa [hkey heq]
      · rw [State.find?_logSet, if_pos rfl]
    · refine (ih hn ((List.mem_cons.1 hi).resolve_left hij) _).trans ?_
      rw [State.find?_logSet, if_neg fun heq => hij (hkey heq)]

end

/-! ## Retrains and eye margins of lanes (R458) -/

/-- The eye margin of a lane. -/
def eyeOf (l i powered : Nat) : Nat := (Config.eyeMargin (8 * l + i) powered).toNat

/-- A count of four bytes, one higher. -/
def countedOnce (v : Option Nat) : Nat := min (v.getD 0 + 1) (2 ^ 32 - 1)

/-- The lanes of a mask. -/
def lanesOf (mask : BitVec 8) : List Nat := (List.range 8).filter (fun i => mask.getLsbD i)

theorem mem_lanesOf {mask : BitVec 8} {i : Nat} : i ∈ lanesOf mask ↔ i < 8 ∧ mask.getLsbD i = true := by
  simp [lanesOf]

theorem nodup_lanesOf (mask : BitVec 8) : (lanesOf mask).Nodup := List.nodup_range.filter _

theorem State.countRetrains_eq (s : State) (l : Nat) (mask : BitVec 8) :
    s.countRetrains l mask = s.logEach (laneLog l) (fun _ => countedOnce) (lanesOf mask) := rfl

theorem State.foldl_noteMargin (s : State) (l : Nat) (L : List Nat) : L.foldl (fun s i => s.noteMargin l i) s =
    s.logEach (fun i => laneLog l i + 8) (fun i v => (v.map (min (eyeOf l i s.plb.powered))).getD (eyeOf l i s.plb.powered))
      L := by
  induction L generalizing s with
  | nil => rfl
  | cons i L ih => exact ih (s.noteMargin l i)

theorem laneLog_injective (l : Nat) : Function.Injective (laneLog l) := by
  intro i j h
  simp only [laneLog] at h
  omega

/-- The log once the lanes of a link have trained, for the first time or again. -/
def State.lanesLogged (s : State) (l : Nat) (again : Bool) (mask : BitVec 8) : State :=
  State.noteMargins (if again then s.countRetrains l mask else s) l mask

section
variable {s : State} {l : Nat} {again : Bool} {mask : BitVec 8}

theorem State.countedIf_eq (s : State) (l : Nat) (again : Bool) (mask : BitVec 8) :
    ∃ lg, (if again then s.countRetrains l mask else s) = s.withLog lg := by
  split
  · exact s.logEach_eq (laneLog l) (fun _ => countedOnce) (lanesOf mask)
  · exact ⟨s.plb.log, rfl⟩

theorem State.lanesLogged_eq (s : State) (l : Nat) (again : Bool) (mask : BitVec 8) :
    ∃ lg, s.lanesLogged l again mask = s.withLog lg := by
  obtain ⟨lg, h⟩ := s.countedIf_eq l again mask
  rw [State.lanesLogged, h, State.noteMargins, State.foldl_noteMargin]
  exact State.logEach_eq ..

theorem State.find?_countedIf (o : Nat) : SMap.find? (if again then s.countRetrains l mask else s).plb.log o =
    if again = true ∧ ∃ i ∈ lanesOf mask, o = laneLog l i then some (countedOnce (SMap.find? s.plb.log o))
    else SMap.find? s.plb.log o := by
  cases again with
  | false => simp
  | true =>
    rw [if_pos rfl, State.countRetrains_eq]
    split
    · next h =>
      obtain ⟨-, i, hi, rfl⟩ := h
      exact State.find?_logEach_same (laneLog_injective l) (nodup_lanesOf mask) hi s
    · next h => exact State.find?_logEach_other (fun i hi heq => h ⟨rfl, i, hi, heq⟩) s

/-- The lowest eye margin of a lane of the mask. -/
theorem State.find?_lanesLogged_eye {i : Nat} (hi : i ∈ lanesOf mask) :
    SMap.find? (s.lanesLogged l again mask).plb.log (laneLog l i + 8) =
      some (((SMap.find? s.plb.log (laneLog l i + 8)).map (min (eyeOf l i s.plb.powered))).getD (eyeOf l i s.plb.powered)) := by
  have hpowered : (if again then s.countRetrains l mask else s).plb.powered = s.plb.powered := by
    obtain ⟨lg, h⟩ := s.countedIf_eq l again mask
    rw [h]; rfl
  have hkey : Function.Injective (fun i => laneLog l i + 8) := fun i j h => laneLog_injective l (Nat.add_right_cancel h)
  rw [State.lanesLogged, State.noteMargins, State.foldl_noteMargin, hpowered]
  refine (State.find?_logEach_same hkey (nodup_lanesOf mask) hi _).trans ?_
  rw [State.find?_countedIf, if_neg]
  rintro ⟨-, j, -, h⟩
  simp only [laneLog] at h
  omega

/-- The retrains of the lanes of the mask, and every other place of the log. -/
theorem State.find?_lanesLogged_other {o : Nat} (ho : ∀ i ∈ lanesOf mask, o ≠ laneLog l i + 8) :
    SMap.find? (s.lanesLogged l again mask).plb.log o =
      if again = true ∧ ∃ i ∈ lanesOf mask, o = laneLog l i then some (countedOnce (SMap.find? s.plb.log o))
      else SMap.find? s.plb.log o := by
  rw [State.lanesLogged, State.noteMargins, State.foldl_noteMargin]
  exact (State.find?_logEach_other ho _).trans (State.find?_countedIf o)

end

/-! ## Messages of a link without a bond (R252, R254) -/

section
variable {s : State} {l : Nat}

/-- The flit of a link message. -/
def ctrlFlitOf (l : Nat) (seq : BitVec 16) (code arg : Nat) : TxFlit :=
  { seq := seq, kind := 2, on := some l, body := wordBytes (fields [(56, code), (0, arg % 2 ^ 56)]) }

/-- What a link keeps once a message has left on it. -/
def LinkCh.messageSent (c : LinkCh) (l code arg : Nat) : LinkCh := (c.queued (ctrlFlitOf l c.txSeq code arg)).flitSent

theorem State.onlyLink_modCh (s : State) (l : Nat) (f : LinkCh → LinkCh) : s.onlyLink (s.modCh l f) l :=
  s.onlyLink_modLink l _

theorem State.sendCtrl_of_room (hb : (s.link l).bond = 0xF) (hw : (s.link l).ch.ctlWait = [])
    (hr : (s.link l).ch.replayBuf.length < 1024) (code arg : Nat) :
    s.onlyLink (s.sendCtrl l code arg) l ∧
      (s.sendCtrl l code arg).link l = { s.link l with ch := (s.link l).ch.messageSent l code arg } := by
  have hl := State.leader_unbonded hb
  have hroom : s.replayRoom l = true := by simpa [State.replayRoom, State.bondOf_unbonded hb] using hr
  have hlq : (s.modCh l (fun k => k.queued (ctrlFlitOf l (s.link l).ch.txSeq code arg))).leader l = l :=
    (State.leader_modCh ..).trans hl
  have hsend : s.sendCtrl l code arg = ((s.modCh l (fun k => k.queued (ctrlFlitOf l (s.link l).ch.txSeq code arg))).sendFlit
      l 2 (some l) (s.link l).ch.txSeq (wordBytes (fields [(56, code), (0, arg % 2 ^ 56)]))) := by
    rw [State.sendCtrl, hl, if_pos (by rw [hw, hroom]; rfl), State.sendSeq_of_leader hl]
    rfl
  rw [hsend, State.sendFlit_of_leader hlq]
  constructor
  · exact ((State.onlyLink_modCh ..).trans (State.onlyLink_modCh ..)).trans (State.onlyLink_emit ..)
  · refine Eq.trans (b := ((s.modCh l (fun k => k.queued (ctrlFlitOf l (s.link l).ch.txSeq code arg))).modCh l
      LinkCh.flitSent).link l) rfl ?_
    rw [State.link_modCh, State.link_modCh, if_pos rfl, if_pos rfl]
    rfl

end

end Sys2Proof.Machine
end

section
/-! SUPPORT. Training: what it finds, and how the link comes out of it (O29). -/

namespace Sys2Proof.Machine

/-! ## What training finds (R256, R257, R258, R262) -/

/-- The insertion loss last measured. -/
def State.withLoss (s : State) (x : BitVec 8) : State := { s with lnk := { s.lnk with lossAtHalf := x } }

theorem State.LinkBecomes.withLoss {s u : State} {l : Nat} {k : Link} (h : s.LinkBecomes u l k) (x : BitVec 8) :
    s.LinkBecomes (u.withLoss x) l k := ⟨h.link, h.others, h.cage, h.cut, h.head, h.rest⟩

section
variable (s : State) (l : Nat) (r : TrainResult)

/-- The lanes that the module has recorded as retired for a link on the cable found. -/
def State.retiredFor : BitVec 8 := if r.memory then s.recordedLanes l r.serialTag else 0

/-- The cable is passive. -/
def passiveCable : Bool := decide (cableTypeOf r = 1 ∨ cableTypeOf r = 4)

/-- The link trains at the full rate. -/
def State.trainsFull : Bool :=
  decide (r.lanesFull ||| s.retiredFor l r = 255) && !(passiveCable r && decide (152 < r.loss)) && s.linkBit l 1

/-- The lanes found good. -/
def State.lanesGood : BitVec 8 := (if s.trainsFull l r then r.lanesFull else r.lanesHalf) &&& ~~~s.retiredFor l r

/-- Too much is lost on a passive cable even at half the rate. -/
def lossyCable : Bool := passiveCable r && decide (152 < r.lossHalf)

/-- What training found goes into the link. -/
def State.foundIn (k : Link) : Link :=
  { k with
    cableType := cableTypeOf r, lengthCm := BitVec.ofNat 14 (min (r.roundTripPs / 100) 0x3FFF)
    loss := BitVec.ofNat 8 (min r.loss 255)
    longPassive := decide (cableTypeOf r = 1) && decide (200 < min (r.roundTripPs / 100) 0x3FFF)
    serialTag := if r.memory then r.serialTag else 0, retired := s.retiredFor l r
    pCap := r.partnerCap &&& ~~~0xFF, pValid := false, pAddr := 0, pLink := 0, gen := 0, live := 0
    locked := s.lanesGood l r, bond := 0xF, ch := {} }

/-- The state in which training has found what it can. -/
def State.found : State := (s.changeLink l (s.foundIn l r)).withLoss (BitVec.ofNat 8 (min r.lossHalf 255))

theorem State.becomes_found : s.LinkBecomes (s.found l r) l (s.foundIn l r (s.link l)) :=
  (s.becomes_changeLink l (s.foundIn l r)).withLoss _

theorem State.recordedIf_eq : (if r.memory then s.recordedLanes l (if r.memory then r.serialTag else 0) else 0) =
    s.retiredFor l r := by
  unfold State.retiredFor
  split <;> rfl

theorem State.trainedLink_eq : s.trainedLink l r =
    if lossyCable r then (s.found l r).linkOut l lkFailed 5
    else (s.found l r).trainedUp l (s.trainsFull l r) (widest (~~~s.lanesGood l r) ((s.found l r).link l).maxWidth)
      (negotiate r.partnerCap) := by
  unfold State.trainedLink
  dsimp only
  rw [State.recordedIf_eq]
  rfl

theorem cableTypeOf_eq : cableTypeOf r =
    (if r.memory = false then 4 else if r.optical then 3 else if r.active then 2 else 1) := by
  unfold cableTypeOf
  cases r.memory <;> rfl

end

section
variable {s : State} {l : LinkId} {r : TrainResult}

theorem exec_linkTrainingDone (hc : s.canTrain l = true) (hs : (s.link l).state = lkTraining) :
    exec (.linkTrainingDone l r) s = .next (if r.signal = false then s.trainedDark l r else s.trainedLink l r) := by
  refine congrArg Host.Outcome.next ((if_neg (by simp [hc, hs])).trans ?_)
  cases r.signal <;> rfl

/-! ## Training that brings no link UP -/

theorem Link.carries_of_training {k : Link} (h : k.state = lkTraining) : k.carries = false := by
  rw [Link.carries, h]; rfl

end

section
variable {s : State} {l : Nat} {r : TrainResult} (hs : (s.link l).state = lkTraining)
include hs

theorem State.becomes_trainedDark (hb : (s.link l).bond = 0xF) : s.LinkBecomes (s.trainedDark l r) l (Link.out lkDown 1
    (if r.memory then { s.link l with cableType := cableTypeOf r, serialTag := r.serialTag } else s.link l)) := by
  have hmem : s.LinkBecomes (if r.memory then
      s.changeLink l (fun k => { k with cableType := cableTypeOf r, serialTag := r.serialTag }) else s) l
      (if r.memory then { s.link l with cableType := cableTypeOf r, serialTag := r.serialTag } else s.link l) := by
    split
    · exact s.becomes_changeLink l _
    · exact .refl s l
  have hout := State.becomes_linkOut (by rw [hmem.link]; split <;> exact hb)
    (.inr (by rw [hmem.link]; split <;> exact Link.carries_of_training hs)) lkDown 1
  rw [hmem.link] at hout
  exact hmem.trans hout

theorem State.becomes_foundOut (state cause : BitVec 4) : s.LinkBecomes ((s.found l r).linkOut l state cause) l
    ((s.foundIn l r (s.link l)).out state cause) := by
  have hfound := s.becomes_found l r
  have hout := State.becomes_linkOut (by rw [hfound.link]; rfl)
    (.inr (by rw [hfound.link]; exact Link.carries_of_training hs)) state cause
  rw [hfound.link] at hout
  exact hfound.trans hout

theorem State.becomes_mismatch : ∃ c, s.LinkBecomes (((s.found l r).sendCtrl l 1 (ownCap.toNat / 256)).linkOut l lkMismatch 6) l
    (Link.out lkMismatch 6 { s.foundIn l r (s.link l) with ch := c }) := by
  have hfound := s.becomes_found l r
  obtain ⟨honly, hlink⟩ := State.sendCtrl_of_room (s := s.found l r) (l := l) (by rw [hfound.link]; rfl)
    (by rw [hfound.link]; rfl) (by rw [hfound.link]; exact (by decide : 0 < 1024)) 1 (ownCap.toNat / 256)
  rw [hfound.link] at hlink
  have hout := State.becomes_linkOut (by rw [hlink]; rfl) (.inr (by rw [hlink]; exact Link.carries_of_training hs)) lkMismatch 6
  rw [hlink] at hout
  exact ⟨_, (hfound.trans (honly.becomes hlink)).trans hout⟩

end

/-! ## A link that comes UP (R256, R258, R261) -/

/-- A link that has come UP at a width, on the lanes `live`. -/
def Link.cameUp (again full : Bool) (w : Nat) (live : BitVec 8) (g : BitVec 4) (k : Link) : Link :=
  { k with
    state := lkUp, cause := 0, rate := if full then 2 else 1, width := BitVec.ofNat 4 w, live := live, gen := g, bond := 0xF
    trained := true, retrains := if again then satAdd k.retrains 1 else k.retrains, ch := { rxSeq := 1 } }

/-- Besides the links, what tells of them and the lifetime log, nothing has changed. -/
def State.upRest (s u : State) : Prop :=
  { u with lnk := s.lnk, out := s.out, ports := s.ports, plb := { u.plb with log := s.plb.log } } = s

theorem State.upRest.trans {s v u : State} (h : s.upRest v) (g : v.upRest u) : s.upRest u := by
  unfold State.upRest at *
  exact (congrArg (fun x : State => { x with
    lnk := s.lnk, out := s.out, ports := s.ports, plb := { x.plb with log := s.plb.log } }) g).trans h

theorem State.onlyLink.upRest {s u : State} {l : Nat} (h : s.onlyLink u l) : s.upRest u := by
  unfold State.upRest
  exact congrArg (fun x : State => { x with plb := { x.plb with log := s.plb.log } }) h.2.2

theorem State.upRest.withLog {s u : State} (h : s.upRest u) (lg : SMap Nat) : s.upRest (u.withLog lg) := h

theorem State.upRest.withLoss {s u : State} (h : s.upRest u) (x : BitVec 8) : s.upRest (u.withLoss x) := h

theorem State.chain_withLoss (s : State) (x : BitVec 8) : (s.withLoss x).chain = s.chain := rfl

theorem State.plb_withLoss (s : State) (x : BitVec 8) : (s.withLoss x).plb = s.plb := rfl

theorem State.link_withLog (s : State) (lg : SMap Nat) (j : Nat) : (s.withLog lg).link j = s.link j := rfl

theorem State.chain_withLog (s : State) (lg : SMap Nat) : (s.withLog lg).chain = s.chain := rfl

/-- The module's CAP, as the first message of a link that has come UP. -/
def LinkCh.capSent (l : Nat) : LinkCh := ({ rxSeq := 1 } : LinkCh).messageSent l 1 (ownCap.toNat / 256)

/-- What a link that has come UP keeps to send: its CAP, and its address where it has one. -/
def Chain.greeting (c : Chain) (l : Nat) : LinkCh :=
  if c.addrValid then (LinkCh.capSent l).messageSent l 2 (c.addr.toNat + l * 2 ^ 13 + 2 ^ 17) else LinkCh.capSent l

theorem LinkCh.cap_body : fields [(56, 1), (0, ownCap.toNat / 256 % 2 ^ 56)] =
    BitVec.ofNat 64 (2 ^ 56 + 0x1103070880040000 / 2 ^ 8) := by decide

theorem Chain.greeting_spec (c : Chain) (l : Nat) :
    (c.greeting l).txSeq = (if c.addrValid then 2 else 1) ∧ (c.greeting l).rxSeq = 1 ∧
      (c.greeting l).replayBuf.map (fun t => (t.seq, t.kind)) = (0, 2) :: (if c.addrValid then [(1, 2)] else []) ∧
      (c.greeting l).replayBuf.head?.map (fun t => t.body) =
        some (wordBytes (BitVec.ofNat 64 (2 ^ 56 + 0x1103070880040000 / 2 ^ 8))) := by
  rw [← LinkCh.cap_body]
  unfold Chain.greeting
  split <;> exact ⟨rfl, rfl, rfl, rfl⟩

theorem State.sendAddress_greets {s : State} {l : Nat} (hb : (s.link l).bond = 0xF) (hch : (s.link l).ch = LinkCh.capSent l) :
    s.onlyLink (s.sendAddress l) l ∧ (s.sendAddress l).link l = { s.link l with ch := s.chain.greeting l } := by
  unfold State.sendAddress Chain.greeting
  split
  · obtain ⟨honly, hlink⟩ := State.sendCtrl_of_room hb (by rw [hch]; rfl) (by rw [hch]; exact (by decide : 1 < 1024)) 2
      (s.chain.addr.toNat + l * 2 ^ 13 + 2 ^ 17)
    rw [hch] at hlink
    exact ⟨honly, hlink⟩
  · exact ⟨.refl s l, by rw [← hch]⟩

theorem State.found_rest (s : State) (l : Nat) (r : TrainResult) :
    (s.found l r).chain = s.chain ∧ (s.found l r).plb = s.plb ∧ s.upRest (s.found l r) := by
  have honly := s.onlyLink_changeLink l (s.foundIn l r)
  rw [State.found]
  exact ⟨(State.chain_withLoss _ _).trans honly.chain, (State.plb_withLoss _ _).trans honly.plb, honly.upRest.withLoss _⟩

/-- The state in which a link that has come UP stands in the registers and the lifetime log. -/
def State.upLogged (s : State) (l : Nat) (full : Bool) (w : Nat × BitVec 8) (g : BitVec 4) : State :=
  (s.changeLink l (Link.cameUp (s.link l).trained full w.1 w.2 g)).lanesLogged l (s.link l).trained w.2

theorem State.trainedUp_eq (s : State) (l : Nat) (full : Bool) (w : Nat × BitVec 8) (g : BitVec 4) :
    s.trainedUp l full (some w) (some g) = ((s.upLogged l full w g).sendCtrl l 1 (ownCap.toNat / 256)).sendAddress l := rfl

section
variable (s : State) (l : Nat) (full : Bool) (w : Nat × BitVec 8) (g : BitVec 4)

/-- A link that has come UP, with what it keeps to send. -/
def State.upLink : Link :=
  { Link.cameUp (s.link l).trained full w.1 w.2 g (s.link l) with ch := s.chain.greeting l }

theorem State.upLogged_spec :
    (s.upLogged l full w g).link l = Link.cameUp (s.link l).trained full w.1 w.2 g (s.link l) ∧
      (∀ j, j ≠ l → (s.upLogged l full w g).link j = s.link j) ∧ (s.upLogged l full w g).chain = s.chain ∧
      s.upRest (s.upLogged l full w g) := by
  have honly := s.onlyLink_changeLink l (Link.cameUp (s.link l).trained full w.1 w.2 g)
  obtain ⟨lg, h⟩ := (s.changeLink l (Link.cameUp (s.link l).trained full w.1 w.2 g)).lanesLogged_eq l (s.link l).trained w.2
  rw [State.upLogged, h]
  exact ⟨(State.link_withLog _ lg l).trans (s.link_changeLink l _), fun j hj => (State.link_withLog _ lg j).trans (honly.1 j hj),
    (State.chain_withLog _ lg).trans honly.chain, honly.upRest.withLog lg⟩

theorem State.trainedUp_spec :
    let u := s.trainedUp l full (some w) (some g)
    u.link l = s.upLink l full w g ∧ (∀ j, j ≠ l → u.link j = s.link j) ∧ s.upRest u ∧
      u.plb.log = (s.upLogged l full w g).plb.log := by
  rw [State.trainedUp_eq]
  obtain ⟨hlink, hothers, hchain, hrest⟩ := s.upLogged_spec l full w g
  obtain ⟨hcap, hcaplink⟩ := State.sendCtrl_of_room (s := s.upLogged l full w g) (l := l) (by rw [hlink]; rfl)
    (by rw [hlink]; rfl) (by rw [hlink]; exact (by decide : 0 < 1024)) 1 (ownCap.toNat / 256)
  rw [hlink] at hcaplink
  obtain ⟨haddr, haddrlink⟩ := State.sendAddress_greets (by rw [hcaplink]; rfl) (by rw [hcaplink]; rfl)
  have honly := hcap.trans haddr
  rw [hcaplink, hcap.chain, hchain] at haddrlink
  exact ⟨haddrlink, fun j hj => (honly.1 j hj).trans (hothers j hj), hrest.trans honly.upRest, congrArg Plumb.log honly.plb⟩

end

/-! ## The lifetime log of a link that comes UP (R458) -/

section
variable {s x u : State} {l : Nat} {again : Bool} {mask : BitVec 8} (hx : x.plb = s.plb)
  (hu : u.plb.log = (x.lanesLogged l again mask).plb.log)
include hx hu

theorem State.logGet_eye {i : Nat} (hi : i < 8) (hm : mask.getLsbD i = true) :
    let o := 0x4908 + 16 * (8 * l + i)
    u.logGet o = ((SMap.find? s.plb.log o).map (min (eyeOf l i s.plb.powered))).getD (eyeOf l i s.plb.powered) := by
  have ho : 0x4908 + 16 * (8 * l + i) = laneLog l i + 8 := by rw [laneLog]; omega
  rw [ho]
  dsimp only
  rw [State.logGet, SMap.get, hu, State.find?_lanesLogged_eye (mem_lanesOf.2 ⟨hi, hm⟩), hx]
  rfl

theorem State.logGet_notEye {o : Nat} (ho : ∀ i, i < 8 → mask.getLsbD i = true → o ≠ 0x4908 + 16 * (8 * l + i)) :
    u.logGet o = if again && (List.range 8).any (fun i => mask.getLsbD i && o == 0x4900 + 16 * (8 * l + i))
      then min (s.logGet o + 1) (2 ^ 32 - 1) else s.logGet o := by
  have hplace : ∀ i ∈ lanesOf mask, o ≠ laneLog l i + 8 := fun i hi heq => by
    obtain ⟨hi, hm⟩ := mem_lanesOf.1 hi
    exact ho i hi hm (by rw [heq, laneLog]; omega)
  have hretrain : (∃ i ∈ lanesOf mask, o = laneLog l i) ↔
      (List.range 8).any (fun i => mask.getLsbD i && o == 0x4900 + 16 * (8 * l + i)) = true := by
    simp only [mem_lanesOf, List.any_eq_true, List.mem_range, Bool.and_eq_true, beq_iff_eq, laneLog, and_assoc]
  rw [State.logGet, SMap.get, hu, State.find?_lanesLogged_other hplace, hx]
  simp only [hretrain, Bool.and_eq_true]
  split <;> rfl

end

end Sys2Proof.Machine
end

section
/-! SUPPORT. The obligation on the states of links (O29). -/

namespace Sys2Proof.Machine

/-- Training that ends with the link out of service, or UP (R256–R258, R261, R262). -/
theorem exec_linkTrainingDone_spec {l : LinkId} {r : TrainResult} {s : State} (hc : s.canTrain l = true)
    (hs : (s.link l).state = lkTraining) (hb : (s.link l).bond = 0xF) :
    let most := min (if (s.link l).limited then 4 else 8) ((r.partnerCap &&& ~~~0xFF).extractLsb' 32 8).toNat
    (r.signal = false → ∃ u, exec (.linkTrainingDone l r) s = .next u ∧ s.wentOut u l lkDown 1 ∧
      (r.memory = true → (u.link l).cableType = cableTypeOf r ∧ (u.link l).serialTag = r.serialTag)) ∧
    (r.signal = true →
      (lossyCable r = true → ∃ u, exec (.linkTrainingDone l r) s = .next u ∧ s.wentOut u l lkFailed 5) ∧
      (lossyCable r = false → widest (~~~s.lanesGood l r) most = none →
        ∃ u, exec (.linkTrainingDone l r) s = .next u ∧ s.wentOut u l lkFailed 4) ∧
      (∀ w, lossyCable r = false → widest (~~~s.lanesGood l r) most = some w →
        (negotiate r.partnerCap = none →
          ∃ u, exec (.linkTrainingDone l r) s = .next u ∧ s.wentOut u l lkMismatch 6) ∧
        (∀ g, negotiate r.partnerCap = some g →
          exec (.linkTrainingDone l r) s = .next ((s.found l r).trainedUp l (s.trainsFull l r) (some w) (some g))))) := by
  intro most
  have hfound := s.becomes_found l r
  have hmost : ((s.found l r).link l).maxWidth = most := by rw [hfound.link]; rfl
  have hexec := exec_linkTrainingDone (r := r) hc hs
  refine ⟨fun hsig => ?dark, fun hsig => ?_⟩
  case dark =>
    rw [if_pos hsig] at hexec
    have hout := State.becomes_trainedDark (r := r) hs hb
    refine ⟨_, hexec, State.wentOut_of_becomes hout, fun hm => ?_⟩
    rw [hout.link, if_pos hm]
    exact ⟨rfl, rfl⟩
  rw [if_neg (by simp [hsig]), State.trainedLink_eq, hmost] at hexec
  refine ⟨fun hl => ?_, fun hl hw => ?_, fun w hl hw => ⟨fun hg => ?_, fun g hg => ?_⟩⟩
  · rw [if_pos hl] at hexec
    exact ⟨_, hexec, State.wentOut_of_becomes (State.becomes_foundOut hs lkFailed 5)⟩
  · rw [if_neg (by simp [hl]), hw] at hexec
    exact ⟨_, hexec, State.wentOut_of_becomes (State.becomes_foundOut hs lkFailed 4)⟩
  · rw [if_neg (by simp [hl]), hw, hg] at hexec
    obtain ⟨c, hout⟩ := State.becomes_mismatch (r := r) hs
    exact ⟨_, hexec, State.wentOut_of_becomes hout⟩
  · rw [if_neg (by simp [hl]), hw, hg] at hexec
    exact hexec

/-- Settles O29: a link leaves service and comes back to train; training leaves it out, or brings it UP. -/
theorem linkStates : Obligations.LinkStates := by
  unfold Obligations.LinkStates
  refine ⟨fun l s => ⟨fun hb hlive => ?down, fun hd => ?retrain, fun cage h => ?insert, fun cage h => ?goes⟩,
    fun l r s => ?train⟩
  case down =>
    exact ⟨fun hf => ⟨_, exec_linkDown_replays hb hlive hf, State.wentOut_linkOut hb _ _⟩,
      ⟨_, exec_linkDown_lossOfLock hlive, State.wentOut_linkOut hb _ _⟩,
      ⟨_, exec_linkDown_cableLoss hlive, State.wentOut_linkOut hb _ _⟩,
      ⟨_, exec_resetNotice hlive, State.wentOut_linkOut hb _ _⟩⟩
  case retrain =>
    exact ⟨fun hc ht => ⟨_, exec_linkRetrainTimer_trains hd hc ht, s.link_changeLink l _, s.onlyLink_changeLink l _⟩,
      fun hcage => ⟨_, exec_linkRetrainTimer_empty hd hcage, s.link_changeLink l _, s.onlyLink_changeLink l _⟩⟩
  case insert =>
    obtain ⟨u, hu, hcage, hlink, hothers, hrest⟩ := cableInsert_spec h
    refine ⟨u, hu, hcage, fun m hm => ?_, hothers, hrest⟩
    rw [hcage]
    exact hlink m hm
  case goes =>
    intro a ha hb hq
    refine ⟨?_, fun hcut => ?_⟩
    · obtain ⟨u, hu, hcage, hlink, hothers, hrest⟩ := cableRemove_spec h ha hb hq
      refine ⟨u, hu, hcage, fun m hm => ?_, hothers, hrest⟩
      rw [hlink m hm]
      exact ⟨Link.state_gone _, Link.cause_gone _, rfl, rfl, rfl⟩
    · obtain ⟨u, hu, hcut', hlink, hothers, hrest⟩ := cageOvercurrent_spec h hcut ha hb hq
      refine ⟨u, hu, hcut', fun m hm => ?_, hothers, hrest⟩
      rw [hlink m hm]
      by_cases hstay : (s.link m).state = 0 ∨ (s.link m).state = lkFailed
      · rw [if_pos hstay]
        exact if_pos hstay
      · have hout : Link.dark 1 (s.link m) = (s.link m).out lkDown 1 := if_neg hstay
        rw [if_neg hstay]
        exact ⟨congrArg Link.state hout, congrArg Link.cause hout⟩
  case train =>
    intro k hc hs hb type passive retired full good lossy cap most
    have htype : type = cableTypeOf r := (cableTypeOf_eq r).symm
    have hpassive : passive = passiveCable r := by unfold passiveCable; rw [← htype]
    have hfull : full = s.trainsFull l r := by unfold State.trainsFull; rw [← hpassive]; rfl
    have hgood : good = s.lanesGood l r := by unfold State.lanesGood; rw [← hfull]; rfl
    have hlossy : lossy = lossyCable r := by unfold lossyCable; rw [← hpassive]
    obtain ⟨hdark, hsignal⟩ := exec_linkTrainingDone_spec (r := r) hc hs hb
    rw [htype, hgood, hlossy, hfull]
    refine ⟨hdark, fun hsig => ?_⟩
    obtain ⟨hloss, hnone, hsome⟩ := hsignal hsig
    refine ⟨hloss, hnone, fun w hl hw => ⟨(hsome w hl hw).1, fun g hg => ?up⟩⟩
    have hexec := (hsome w hl hw).2 g hg
    have hfound := s.becomes_found l r
    obtain ⟨hchain, hplb, hfrest⟩ := s.found_rest l r
    obtain ⟨hlink, hothers, hrest, hlog⟩ := (s.found l r).trainedUp_spec l (s.trainsFull l r) w g
    rw [State.upLink, hfound.link, hchain] at hlink
    rw [State.upLogged, hfound.link] at hlog
    obtain ⟨htx, hrx, hbuf, hcap⟩ := s.chain.greeting_spec l
    have hx := ((s.found l r).onlyLink_changeLink l (Link.cameUp k.trained (s.trainsFull l r) w.1 w.2 g)).plb.trans hplb
    refine ⟨_, hexec, ?_⟩
    rw [hlink]
    exact ⟨rfl, rfl, rfl, rfl, rfl, rfl, rfl, rfl, rfl, rfl, rfl, rfl, htx, hrx, hbuf, hcap,
      fun m hm => (hothers m hm).trans (hfound.others m hm), fun i hi hm => State.logGet_eye hx hlog hi hm,
      fun o ho => State.logGet_notEye hx hlog ho, hfrest.trans hrest⟩

end Sys2Proof.Machine
end

section
/-! SUPPORT. Why the obligations on flits (O28) and on link messages (O30) fail. -/

namespace Sys2Proof.Machine

/-! ## Flits: a leader that is itself in another bond -/

/-- Link 0 is in a bond under link 1, which has a flit to send again, and link 1 in one under link 2. -/
def crossedBonds : State where
  lnk := { links := [(0, { state := lkUp, bond := 1 }), (1, { state := lkUp, bond := 2, ch := { replayBuf := [{}] } })] }

/-- The replay of link 1 sends in the turn of link 2, the leader of link 1. -/
theorem turn_replayTimeout_crossedBonds {u : State} (h : exec (.replayTimeout 0) crossedBonds = .next u) :
    (u.link 2).ch.turn = 1 := by
  obtain rfl := Host.Outcome.next.inj h
  decide

/-- Refutes O28: the clause on a replay has no link but the leader change, and does not ask that the leader leads its own
bond (R263). Where that leader has another, the flits sent again count in the other's turn. -/
theorem not_linkFlits : ¬ Obligations.LinkFlits := by
  unfold Obligations.LinkFlits
  intro h
  obtain ⟨-, hcarries⟩ := h 0 [] crossedBonds
  obtain ⟨-, -, -, -, -, -, hreplay⟩ := hcarries rfl
  obtain ⟨u, -, hu, -, -, -, -, -, -, -, -, honly, -⟩ := hreplay (by decide) (by decide)
  have hturn := turn_replayTimeout_crossedBonds hu
  rw [honly 2 (by decide)] at hturn
  exact absurd hturn (by decide)

/-! ## Link messages: a lane lost that leaves no width -/

/-- Link 0 is UP on lanes 0 and 1, the only ones locked, and a message waits for its replay buffer. -/
def narrowLink : State where
  lnk := { links := [(0, { state := lkUp, width := 2, live := 3, locked := 3, pCap := ownCap, ch := { ctlWait := [(0, 0)] } })] }

/-- Without lane 0 no width is left, so the link goes out of service, and no message waits on it (R255). -/
theorem ctlWait_laneLockLoss_narrowLink {u : State} (h : exec (.laneLockLoss 0 0) narrowLink = .next u) :
    (u.link 0).ch.ctlWait = [] := by
  obtain rfl := Host.Outcome.next.inj h
  decide

/-- Refutes O30: where a message has to wait, the clause on a lane's loss has RETIRE wait behind it. A link that the loss
leaves without a width goes FAILED (R261), and nothing of it waits any more. -/
theorem not_linkMessages : ¬ Obligations.LinkMessages := by
  unfold Obligations.LinkMessages
  intro h
  obtain ⟨-, -, -, -, -, hlanes, -⟩ := h 0 0 narrowLink
  obtain ⟨-, hlane⟩ := hlanes 0
  obtain ⟨-, -, hlost⟩ := hlane (by decide) (by decide)
  obtain ⟨u, hu, -, rest, hwait⟩ := hlost (by decide) (.inr (.inl rfl))
  have hnone : (u.link 0).ch.ctlWait = [(0, 0)] ++ [(0, BitVec.ofNat 64 (3 * 2 ^ 56 + 0 + 8))] ++ rest := hwait
  rw [ctlWait_laneLockLoss_narrowLink hu] at hnone
  exact absurd hnone (by simp)

end Sys2Proof.Machine
end
